-- ==== Sys2Proof/Word.lean ====
section
/-!
DEFINITION. The word types of the model and the sparse-map type that every array of the device is held in.
-/

namespace Sys2Proof

/-- A byte. -/
abbrev Byte := BitVec 8
/-- A 32-bit word: a register, a row control word (R43). -/
abbrev W32 := BitVec 32
/-- A 64-bit word: an ad-word (R55), a request header (R307), an instruction word (R175). -/
abbrev W64 := BitVec 64
/-- One 160-bit key segment or the ternary cells of one row (R37, R40). -/
abbrev Seg := BitVec 160
/-- A key, left-aligned in 640 bits (R37). -/
abbrev Key := BitVec 640

/-- An array held sparsely: the keys that differ from the array's default, with their values.
The canonical form has strictly rising keys and no entry equal to the default. -/
abbrev SMap (α : Type) := List (Nat × α)

end Sys2Proof
end

