-- ==== Sys2Proof/Image.lean ====
section
/-!
DEFINITION. A configuration image as the device reads it (R459, R460): its header, the bytes of its body, and what the body
holds. The manual gives no layout of the body, so a command that delivers an image carries the contents beside the bytes.
-/

namespace Sys2Proof

/-- A register word that the image gives: die, page, bank of the page, offset in the page, and value. -/
structure ImageWord where
  die : Nat
  page : Nat
  bank : Nat
  off : Nat
  value : Nat
  deriving DecidableEq, Repr

/-- An entry of the recipe entry table (R173): its number, first instruction address, and whether FIXED is requested. -/
structure ImageEntry where
  number : Nat
  start : Nat
  fixed : Bool
  deriving DecidableEq, Repr

/-- What the body of an image holds: the profile (1 density, 2 availability), register words and descriptors, the recipe
store as address and word, the entry table, the lock mask by block index (R503), and the golden set (R457). -/
structure Contents where
  profile : Nat
  words : List ImageWord
  recipe : List (Nat × Nat)
  entries : List ImageEntry
  locks : Nat
  goldCount : Nat
  goldVec : Nat
  goldExp : Nat
  deriving DecidableEq, Repr

/-- An image: the 512-byte header, first byte most significant, the bytes of the body, and what they hold. -/
structure Image where
  header : BitVec 4096
  body : List Nat
  cont : Contents
  deriving DecidableEq, Repr

end Sys2Proof
end

