-- ==== Sys2Proof/Syntax.lean ====
section
/-!
DEFINITION. The commands of the block: one constructor for each row of the command table. Operands are what comes from outside the
model with a command: `d` a die, `t` a thread, `iface` an interface of the package, `chan` a lookup channel, `ch` an event channel,
`val` the value written to the register that the command is a write of, `off` an offset, `acc` an accessor (0 PCIe, 1 SMBus,
2 supervisor), `id`, `sid` and `cid` the identifiers of a piece of work, a search and a command, and measured or received data.
-/

namespace Sys2Proof

/-- A cell of the ring as it arrives: what the command names (a die, an accessor, an identifier), and the cell's flit as the ring
stop checks it (R107): 0 or 1 clean, 2 or 3 corrected, 4 or 5 uncorrectable, the odd ones on the counter-clockwise direction. -/
structure Arrival where
  key : Nat
  flit : Nat
  deriving DecidableEq, Repr

/-- A write to a store module: what the command names (a die, a step), and whether the write fails its CRC four times (R253). -/
structure Attempt where
  key : Nat
  crc : Bool
  deriving DecidableEq, Repr

/-- Progress of a copy: the pair or die that the command names, how many places were copied, and whether a write failed its CRC. -/
structure Progress where
  key : Nat
  n : Nat
  crc : Bool
  deriving DecidableEq, Repr

/-- What an arbiter is asked to grant: the slots of a locked sequence, and those of a grant of more than one slot (R336, R339). -/
structure Ask where
  n : Nat
  span : Nat
  deriving DecidableEq, Repr

/-- The range of a Translation Completion: bits of its page and the translated address. -/
structure Range where
  log2 : Nat
  base : Nat
  deriving DecidableEq, Repr

/-- A reading of a die's reference monitor, in kHz (R413). -/
structure Reading where
  die : Nat
  khz : Nat
  deriving DecidableEq, Repr

/-- A write of the function's configuration space that lets it issue requests or stops them: bus master enable set, with the ATS
enable as given; or the power state D0 or D3hot (R350, R352). -/
inductive CfgWrite
  | master (ats : Bool)
  | d0
  | d3hot
  deriving DecidableEq, Repr

/-- A command. -/
inductive Instr
  /-- LOOKUP_BURST_RECEIVE (R308): A burst received on an up interface is checked in order; it is discarded, refused or queued for release. -/
  | lookupBurstReceive (iface chan : Nat) (hdr : W64) (payload : BitVec 1024) (len : Nat) (oneBurst crcFail : Bool)
  /-- INGRESS_RELEASE (R306): The interface releases the next queued request, at most one per P CS cycles; the arrival time is captured and a ledger entry is written. -/
  | ingressRelease (iface : Nat)
  /-- LEDGER_ENTRY_ACK (R448): The partner acknowledges a channel-ledger entry, after which the request may be admitted. -/
  | ledgerEntryAck (id : Nat)
  /-- ADMISSION (R219): Admission checks the entry, thread, response buffer and bookings, and either takes them together or refuses the request. -/
  | admission (id : Nat)
  /-- TABLE_WRITE_ADMIT (R329): A released table-write request takes a response buffer and a port-write queue entry and is handed to the update engine, or receives OVERLOAD. -/
  | tableWriteAdmit (id : Nat)
  /-- RESPONSE_DEPARTURE (R316): A response or refusal enters the serialiser in its booked, mirror or unbooked egress cycle. -/
  | responseDeparture (id : Nat)
  /-- XOFF_RECEIVE (R328): Received XOFF holds best-effort responses; on guaranteed channels it is ignored and counted. -/
  | xoffReceive (iface chan : Nat) (xoff : Bool)
  /-- LANE_FAIL (R305): A lookup lane fails, its interface goes down and retrains; responses are discarded or the channels move to the twin. -/
  | laneFail (iface lane : Nat)
  /-- INTERFACE_UP (R305): A lookup interface completes alignment and begins receiving bursts. -/
  | interfaceUp (iface : Nat)
  /-- CHANNEL_CFG_WRITE (R310): A write to LKP_CH_CFG is applied to every die or refused whole if it breaks a binding rule. -/
  | channelCfgWrite (d chan val : Nat)
  /-- CHANNEL_BUF_WRITE (R310): A write to LKP_CH_BUF is applied to every die or refused whole if it breaks a binding rule. -/
  | channelBufWrite (d chan val : Nat)
  /-- XTR (R185): The thread copies a bit or byte field within the slice. -/
  | xtr (d t : Nat)
  /-- LIT (R186): The thread writes a literal into the key area. -/
  | lit (d t : Nat)
  /-- HSH (R187): The thread computes the two hashes of the key for a region and writes them into the slice. -/
  | hsh (d t : Nat)
  /-- SRCH (R188): The thread issues an attic search, possibly with a parallel probe or a RUN-AHEAD prediction. -/
  | srch (d t : Nat)
  /-- PROBE (R189): The thread issues a store-room step reading both candidate buckets through the bucket cache. -/
  | probe (d t : Nat)
  /-- CFETCH (R189): The thread issues a cellar step; on an ordered channel it defers and a DEFERRED response is formed. -/
  | cfetch (d t : Nat)
  /-- STAMP (R190): The thread writes the current or the arrival time into the slice. -/
  | stamp (d t : Nat)
  /-- LOG (R191): The thread asks the evidence unit for a record and the digest and record are captured. -/
  | log (d t : Nat)
  /-- FORK (R192): The thread starts a child, fails, or waits for a free thread. -/
  | fork (d t : Nat)
  /-- JOIN (R193): The thread waits for the named children and sets its current record. -/
  | join (d t : Nat)
  /-- SEND (R194): The thread sends a message on an event channel, waiting for the staging slot and a queue entry. -/
  | send (d t : Nat)
  /-- WAITE (R194): The thread takes the oldest visible message from an event channel or waits for one. -/
  | waite (d t : Nat)
  /-- COMMIT (R195): The thread posts a command entry to its die's update engine, optionally linked and optionally waiting. -/
  | commit (d t : Nat)
  /-- EMIT (R196): The thread forms its response, writes a deferred notice, or copies a record to its parent. -/
  | emit (d t : Nat)
  /-- TRAP (R197): The thread faults with the given code. -/
  | trap (d t : Nat)
  /-- END (R197): The thread ends, after its live children, answering RECIPE_ERROR if no response was sent. -/
  | endThread (d t : Nat)
  /-- UNUSED_OPCODE_FETCH (R176): An instruction word with a reserved opcode is reached at run time. -/
  | unusedOpcodeFetch (d t : Nat)
  /-- RECIPE_WORD_RESTORE (R172): An uncorrectable recipe word is restored over the ring from another die's copy. -/
  | recipeWordRestore (d addr : Nat)
  /-- SEARCH_LAUNCH (R71): A search takes the attic issue port on every die of its die set and its die pass begins. -/
  | searchLaunch (sid : Nat)
  /-- DIE_CONTRIBUTION (R80): A die finishes its pass, verifies its candidates and places its contribution on the result class. -/
  | dieContribution (sid : Nat) (d : Arrival)
  /-- PACKAGE_MERGE (R84): The home die merges contributions, forms the status and writes the result record. -/
  | packageMerge (sid : Nat)
  /-- PAIR_REVERIFY (R130): After a pair mismatch the differing candidates are re-verified in the background and the bad copy queued for repair. -/
  | pairReverify
  /-- SPECULATION_RESOLVE (R203): The real result of a RUN-AHEAD search confirms or squashes the thread's speculation. -/
  | speculationResolve (d t : Nat)
  /-- CASCADE_SEARCH_FRAME (R117): A package receives a SEARCH frame, passes it on and searches if its position is in CMASK. -/
  | cascadeSearchFrame (first : Nat) (rest : List Nat)
  /-- CASCADE_CONTRIB_FRAME (R118): A package receives a CONTRIB frame and merges it with its own result. -/
  | cascadeContribFrame (first : Nat) (rest : List Nat)
  /-- CASCADE_CONTROL_BEAT (R119): A control beat returns credit, reports GMIN, aligns rounds and carries lane drop or return states. -/
  | cascadeControlBeat (port beat : Nat)
  /-- CASCADE_BAD_TYPE_BEAT (R116): A first beat of unknown type is discarded and counted. -/
  | cascadeBadTypeBeat (port : Nat)
  /-- CONTRIB_TIMEOUT (R124): A CONTRIB expected in a fixed cycle is missing or fails CRC, and the merge takes LOST. -/
  | contribTimeout (sid : Nat)
  /-- CASCADE_LANE_FAIL (R125): A cascade receiver declares a lane failed and proposes a drop. -/
  | cascadeLaneFail (port lane : Nat)
  /-- CASCADE_DROP_TIMEOUT (R125): No drop confirmation within 2 us starts a full retrain. -/
  | cascadeDropTimeout (port : Nat)
  /-- CASCADE_RETRAIN_DONE (R125): A full retrain completes or fails; after three failures the link is down. -/
  | cascadeRetrainDone (port : Nat) (ok : Bool) (lanes : Nat)
  /-- CASCADE_LINK_UP (R114): A cascade port completes training and checks its neighbour's position and flight. -/
  | cascadeLinkUp (port lanes npos flight below : Nat)
  /-- CASCADE_RETURN (R126): CSC_CTL.RETURN starts training every dropped lane. -/
  | cascadeReturn
  /-- CASCADE_LANE_RETURN_READY (R126): A dropped lane has held lock for 1 ms and is returned at the next MARK. -/
  | cascadeLaneReturnReady (port lane : Nat)
  /-- CASCADE_RETRAIN (R125): CSC_CTL.RETRAIN starts a full retrain of both ports. -/
  | cascadeRetrain
  /-- RING_RESEND_TIMEOUT (R107): A sender repeats a dropped poisoned background cell after a timeout. -/
  | ringResendTimeout (d : Arrival)
  /-- RING_PATH_FAULT (R112): A ring-stop pass-through path fails and the stop switches to the other path. -/
  | ringPathFault (d dir : Nat) (sids : List Nat)
  /-- MGMT_REG_READ (R518): A management register or window read message reaches its die and is performed. -/
  | mgmtRegRead (acc : Nat) (d : Arrival) (off size : Nat)
  /-- MGMT_REG_WRITE (R518): A management register or window write message reaches its die and is performed. -/
  | mgmtRegWrite (acc : Nat) (d : Arrival) (off size data : Nat)
  /-- MGMT_READ_COMPLETION (R518): A read completion message returns data to the accessor. -/
  | mgmtReadCompletion (acc : Arrival)
  /-- MGMT_UPDATE_COMMAND (R136): A routed update command reaches the die that runs it. -/
  | mgmtUpdateCommand (cid : Arrival)
  /-- MGMT_COMMAND_COMPLETION (R136): A routed command completion returns to its source's die. -/
  | mgmtCommandCompletion (cid : Arrival)
  /-- MGMT_CELLAR_DATA (R257): A cellar request or completion data message crosses the ring. -/
  | mgmtCellarData (id : Arrival)
  /-- MGMT_FAULT_REPORT (R446): A fault report from another die reaches the lead die. -/
  | mgmtFaultReport (d : Arrival)
  /-- MGMT_DESCRIPTOR_COPY (R518): A descriptor or wrapped key copy reaches a die. -/
  | mgmtDescriptorCopy (src : Nat) (d : Arrival) (kind idx : Nat)
  /-- MGMT_RESERVED_TYPE (R518): A management message with a reserved MTYPE is discarded and recorded. -/
  | mgmtReservedType (d dir : Nat)
  /-- MIRROR_CELL_RECEIVE (R129): The odd die receives a pair operation with its target cycle, or returns a completion. -/
  | mirrorCellReceive (cid : Arrival)
  /-- HEARTBEAT_SEND (R131): A ring stop sends its heartbeat every 16 CQ cycles. -/
  | heartbeatSend (d : Nat)
  /-- HEARTBEAT_TIMEOUT (R131): A partner's heartbeat is missing for 64 CQ cycles. -/
  | heartbeatTimeout (d : Nat)
  /-- PAIR_MEMBER_LOST (R131): A pair member is lost; the pair goes solo and the survivor takes over its channels. -/
  | pairMemberLost (d : Nat)
  /-- PAIR_CHANNEL_RETURN (R450): PKG_PAIR_CTL.RETURN starts draining the pair's channels toward their image home die. -/
  | pairChannelReturn (mask : Nat)
  /-- CHANNEL_RETURN_DRAINED (R450): A returning channel has no unanswered request and its image home die becomes home. -/
  | channelReturnDrained (chan : Nat)
  /-- PAIR_REJOIN (R133): PKG_PAIR_CTL.REJOIN starts copying descriptors and rows to the rejoining die. -/
  | pairRejoin (p : Nat)
  /-- REJOIN_COPY_DONE (R133): The rejoin copy ends and the one-second check begins. -/
  | rejoinCopyDone (p : Progress)
  /-- REJOIN_CHECK_EXPIRE (R133): After one second of checking the pair returns to lockstep at a round boundary. -/
  | rejoinCheckExpire (p : Nat)
  /-- PAIR_FENCE_EVEN (R134): FENCE_EVEN fences the even die of a pair in lockstep. -/
  | pairFenceEven (p : Nat)
  /-- PAIR_FENCE_ODD (R134): FENCE_ODD fences the odd die of a pair in lockstep. -/
  | pairFenceOdd (p : Nat)
  /-- WRITE (R144): The update engine replaces or writes an entry in three port-timed steps. -/
  | write (d cid : Nat)
  /-- WRITE_CONT (R141): A continuation row of a wide WRITE or INSERT_SHIFT arrives, or breaks the sequence. -/
  | writeCont (d cid : Nat)
  /-- DELETE (R148): The engine empties an entry by step 1 alone. -/
  | delete (d cid : Nat)
  /-- INSERT_SHIFT (R151): The engine shifts equal neighbours toward a free slot and writes the new entry. -/
  | insertShift (d cid : Nat)
  /-- MOVE (R149): The engine copies a slot to an empty slot with D = 1 and then swaps. -/
  | move (d cid : Nat)
  /-- SET_STATE (R148): The engine rewrites only the state codes of an entry. -/
  | setState (d cid : Nat)
  /-- GEN_FLIP (R156): The lead die's engine waits for earlier commands and sends a target cycle for the generation flip. -/
  | genFlip (d cid : Nat)
  /-- GEN_FLIP_APPLY (R156): In target cycle F every die sets ACT_GEN and PART_FLIPS increments. -/
  | genFlipApply (part : Nat)
  /-- GEN_CLEAR (R157): The engine clears the inactive generation from every shelf the partition owns. -/
  | genClear (d cid : Nat)
  /-- SHELF (R59): The engine writes a shelf descriptor if the shelf is empty and the owner matches. -/
  | shelf (d cid : Nat)
  /-- COMPACT (R154): The engine respaces a shelf, leaving every gap home free. -/
  | compact (d cid : Nat)
  /-- BULK_LOAD (R163): The engine starts reading row records from host memory or the store room. -/
  | bulkLoad (d cid : Nat)
  /-- BULK_RECORD_READ (R164): A bulk record arrives and is checked and loaded, or the load stops. -/
  | bulkRecordRead (d cid : Nat) (data : BitVec 512) (fail : Bool)
  /-- SPARE (R167): The engine copies a shelf to its bank's spare and remaps it. -/
  | spare (d cid : Nat)
  /-- BARRIER (R140): A command that completes once every earlier command of its source has completed. -/
  | barrier (d cid : Nat)
  /-- UNKNOWN_COMMAND (R140): A command with an unknown or forbidden opcode completes with BAD_OP. -/
  | unknownCommand (d cid : Nat)
  /-- UPDATE_PORT_OPERATION (R73): An update-engine step takes the attic port in its slot and acts in its action cycle. -/
  | updatePortOperation (d cid : Nat)
  /-- UPDATE_GUARD_EXPIRE (R146): 32 CS cycles have passed since a row was emptied, so its contents may be written. -/
  | updateGuardExpire (d gra : Nat)
  /-- COMMAND_COMPLETE (R159): A command's last action cycle has passed on every die and its completion is posted. -/
  | commandComplete (cid : Nat)
  /-- SCRUB_ROW (R165): The scrubber takes the next suspect or sweep row, checks it and repairs it. -/
  | scrubRow (d : Nat)
  /-- STORE_ROOM_STEP_DONE (R248): A store-room step writes its record from the answering slot. -/
  | storeRoomStepDone (id : Attempt)
  /-- CACHE_FILL_ALLOCATE (R284): A missing lookup takes or joins a fill buffer, chooses a victim and issues a memory read. -/
  | cacheFillAllocate (id b : Nat)
  /-- FILL_LINE_ARRIVE (R285): A fill's line arrives and answers its waiting lookups with forwarding. -/
  | fillLineArrive (id ecc : Nat)
  /-- FILL_INSTALL (R285): The fill installs its line, blocking the bank for 18 CQ cycles. -/
  | fillInstall (id : Nat)
  /-- SLOT_WRITE_RECORD (R254): A slot-write record arrives at the window and is queued or discarded. -/
  | slotWriteRecord (d off len : Nat) (data : BitVec 512)
  /-- SLOT_WRITE_APPLY (R288): The cache takes a queued record, writes the slot and header and places it in the merging buffer. -/
  | slotWriteApply (d : Nat)
  /-- MBUF_DRAIN_START (R289): A merging-buffer entry is chosen for draining by age or occupancy. -/
  | mbufDrainStart (d : Nat)
  /-- MBUF_DRAIN_ACCEPT (R289): The memory controller accepts a drain write and the entry is freed. -/
  | mbufDrainAccept (id : Nat) (crcFail : Bool)
  /-- ARBITER_SLOT_GRANT (R336): An arbiter settles a slot to a lock holder, booking, reservation or contest winner. -/
  | arbiterSlotGrant (d inst ready lockOwner : Nat) (n : Ask)
  /-- ARBITER_COMMIT (R347): ARB_CTL.COMMIT checks and captures the shadow table, or refuses it. -/
  | arbiterCommit (d : Nat)
  /-- ARBITER_TABLE_SWITCH (R347): The captured slot table becomes active at the start of the next round. -/
  | arbiterTableSwitch (d inst : Nat)
  /-- PATROL_SCRUB_READ (R256): The patrol scrubber reads the next bucket and corrects or reports errors. -/
  | patrolScrubRead (d : Attempt) (ecc : Nat)
  /-- CELLAR_FETCH_ENTRY_GRANT (R257): A cellar step waiting on a full outstanding-fetch table takes an entry. -/
  | cellarFetchEntryGrant (id : Nat)
  /-- ATS_TRANSLATION_COMPLETION (R258): A Translation Completion grants access or causes a translation fault taking the region offline. -/
  | atsTranslationCompletion (id k : Nat) (range : Range) (granted : Bool)
  /-- CELLAR_READ_COMPLETION (R257): Cellar read completions return, are authenticated and decrypted, and the record is written. -/
  | cellarReadCompletion (id : Nat) (data : BitVec 2304) (fail : Nat)
  /-- PCIE_COMPLETION_TIMEOUT (R258): A non-posted request times out; a cellar step completes with CELLAR_OFF. -/
  | pcieCompletionTimeout (kind id : Nat)
  /-- PROMOTION (R267): A locked sequence writes a cellar hit into the store room, or drops it as stale or full. -/
  | promotion (d : Attempt)
  /-- NOTICE_WRITE (R270): A deferred notice is written to its channel's event queue once there is room. -/
  | noticeWrite (chan : Nat)
  /-- NOTICE_TIMEOUT (R270): A notice waiting longer than CEL_NTMO is dropped and counted. -/
  | noticeTimeout (chan : Nat)
  /-- KEK_WRITE (R261): An SMBus write to CEL_KEK loads the KEK; a PCIe write is ignored. -/
  | kekWrite (k val : Nat) (smbus : Bool)
  /-- KEY_LOAD (R262): CEL_KCMD load unwraps a key blob into a slot or is refused. -/
  | keyLoad (val : Nat)
  /-- KEY_CLEAR (R262): CEL_KCMD clear empties a key slot whose regions are all offline. -/
  | keyClear (val : Nat)
  /-- CELLAR_WRITE (R264): CEL_WCMD.GO starts an in-service cellar bucket write. -/
  | cellarWrite (val : Nat)
  /-- CELLAR_WRITE_COMPLETE (R264): The cellar write finishes reading, encrypting, writing and clearing promoted copies, with its status. -/
  | cellarWriteComplete (bucket : BitVec 1024) (tag : Nat) (err : Bool)
  /-- CELLAR_ENABLE (R272): Writing CEL_CTL.EN 0 to 1 brings the cellar online if its conditions hold. -/
  | cellarEnable (val : Nat)
  /-- CELLAR_DISABLE (R271): Clearing CEL_CTL.EN takes every region offline with cause 1. -/
  | cellarDisable (val : Nat)
  /-- REGION_ONLINE (R272): CEL_RGN_ON with OFF = 0 brings a region online if valid, keyed and the cellar is online. -/
  | regionOnline (val : Nat)
  /-- REGION_OFFLINE (R271): CEL_RGN_ON with OFF = 1 takes a region offline with cause 0x6. -/
  | regionOffline (val : Nat)
  /-- PARTITION_DESC_WRITE (R65): A partition descriptor write is applied when VALID permits, or ignored and recorded. -/
  | partitionDescWrite (n : Nat)
  /-- SR_REGION_WRITE (R244): A store-room region descriptor write is applied or ignored and recorded. -/
  | srRegionWrite (d off val : Nat)
  /-- CR_REGION_WRITE (R245): A cellar region descriptor write is applied or ignored and recorded. -/
  | crRegionWrite (n : Nat)
  /-- PACKAGE_WINDOW_WRITE (R513): A partition or cellar region window write is scheduled on every die for a target cycle. -/
  | packageWindowWrite (acc off val : Nat)
  /-- TARGET_CYCLE_APPLY (R513): In its target cycle a table-window write is applied to every die's copy. -/
  | targetCycleApply
  /-- MODULE_FAIL (R274): A memory module or its training fails; steps in flight complete with RETRY and the cache is cleared. -/
  | moduleFail (d : Nat)
  /-- STORE_CHANNEL_ENABLE (R253): Setting STR_CTL.EN trains the channel and takes it into service. -/
  | storeChannelEnable (d val : Nat)
  /-- STORE_CHANNEL_DISABLE (R374): Clearing STR_CTL.EN takes the channel out of service as a module failure without the fault bits. -/
  | storeChannelDisable (d val : Nat)
  /-- CHANNEL_TRAINED (R276): The DDR5 channel completes training and STR_STS.READY is set. -/
  | channelTrained (d gib : Nat)
  /-- STORE_RESYNC_DONE (R275): A store-room resynchronisation copy completes. -/
  | storeResyncDone (d : Progress)
  /-- STORE_WINDOW_READ (R512): A store-room array window read is served from a per-accessor bucket snapshot. -/
  | storeWindowRead (acc d off size ecc : Nat)
  /-- STORE_WINDOW_WRITE_128 (R512): A 128-byte window write drains, writes the bucket and invalidates its line. -/
  | storeWindowWrite128 (d : Attempt) (off : Nat) (data : BitVec 1024)
  /-- STORE_WINDOW_WRITE_64 (R512): A 64-byte window write does a read-modify-write of the bucket. -/
  | storeWindowWrite64 (d : Attempt) (off : Nat) (data : BitVec 512)
  /-- STORE_WINDOW_BAD_WRITE (R512): A store-room window write of another size is discarded and recorded. -/
  | storeWindowBadWrite (d off len word : Nat)
  /-- ATTIC_WINDOW_READ (R510): An attic row window read is served from a snapshot taken by a management port operation. -/
  | atticWindowRead (acc d off size : Nat)
  /-- ATTIC_WINDOW_WRITE (R58): A write through the attic row or shelf window is ignored and recorded. -/
  | atticWindowWrite (d off : Nat)
  /-- RECIPE_WINDOW_READ (R501): A recipe store window read returns the corrected word, restoring an uncorrectable one first. -/
  | recipeWindowRead (acc d off size : Nat)
  /-- SLICE_WINDOW_WRITE (R508): A slice window write is accepted for a halted thread at debug level 1 or ignored and recorded. -/
  | sliceWindowWrite (d off size val : Nat)
  /-- CACHE_PRELOAD (R294): CCH_PRE_CMD.GO starts loading lines into a way, or is refused. -/
  | cachePreload (d val : Nat)
  /-- CACHE_PRELOAD_DONE (R294): The preload ends, locking the way if asked. -/
  | cachePreloadDone (d badAt : Nat)
  /-- CACHE_RANGE_INVALIDATE (R296): CCH_INV_CMD.GO starts a walk invalidating a range of lines. -/
  | cacheRangeInvalidate (d val : Nat)
  /-- CACHE_RANGE_INVALIDATE_DONE (R296): The invalidation walk and its refetches end. -/
  | cacheRangeInvalidateDone (d : Nat)
  /-- LOCKED_LINE_REFETCH (R295): An invalidated line of a locked way is refetched into the same way. -/
  | lockedLineRefetch (d line ecc : Nat)
  /-- CACHE_WAYS_WRITE (R297): A CCH_WAYS write enables, disables or locks ways, or is refused whole. -/
  | cacheWaysWrite (d val : Nat)
  /-- WAY_CLEAN_DONE (R298): A disabled way has drained and invalidated its lines and withdraws its power vote. -/
  | wayCleanDone (d w : Nat)
  /-- CACHE_ENABLE_WRITE (R300): A CCH_CTL.EN write enables the cache or invalidates every line. -/
  | cacheEnableWrite (d val : Nat)
  /-- SQ_DOORBELL (R356): A write to an SQ tail doorbell advances the tail, or is ignored and recorded. -/
  | sqDoorbell (q val : Nat)
  /-- CQ_HEAD_DOORBELL (R356): A write to a CQ head doorbell consumes entries and rearms the CQ. -/
  | cqHeadDoorbell (q val : Nat)
  /-- EQ_HEAD_DOORBELL (R356): A write to an event-queue head doorbell frees slots and rearms the queue. -/
  | eqHeadDoorbell (c val : Nat)
  /-- SQ_FETCH (R358): The device fetches SQ entries for which it has reserved CQ entries. -/
  | sqFetch (q : Nat)
  /-- SQ_FETCH_COMPLETION (R358): Fetched entries arrive and are handed to the engine, or the queue stops on an error. -/
  | sqFetchCompletion (q : Nat) (data : List (BitVec 512)) (fail : Bool)
  /-- CQ_ENTRY_WRITE (R359): The device writes a CQ entry and, if armed, sends the MSI-X message. -/
  | cqEntryWrite (q : Nat)
  /-- QUEUE_ENABLE (R357): Setting HIF_Q_CFG.EN resets the queue's indices and phase. -/
  | queueEnable (q val : Nat)
  /-- EVENT_QUEUE_ENABLE (R361): Setting HIF_EQ_CFG.EN resets the event queue's indices. -/
  | eventQueueEnable (c val : Nat)
  /-- MSIX_UNMASK (R362): Unmasking a vector sends its pending message. -/
  | msixUnmask (v : Nat)
  /-- BUS_MASTER_DISABLE (R366): Clearing bus master enable stops all device requests and takes the cellar offline. -/
  | busMasterDisable
  /-- BUS_MASTER_ENABLE (R366): Setting bus master enable releases held writes and pending messages. -/
  | busMasterEnable (cfg : CfgWrite) (pasid : Bool)
  /-- FLR (R367): A Function Level Reset resets host-facing state and quarantines outstanding tags. -/
  | flr
  /-- QUARANTINE_EXPIRE (R367): The last quarantined tag's completion timeout expires and quarantine ends. -/
  | quarantineExpire
  /-- LINK_DOWN (R368): A surprise link-down or Hot Reset acts as FLR with cause 4. -/
  | linkDown
  /-- ATS_INVALIDATION (R364): An Invalidation Request removes cached translations. -/
  | atsInvalidation (pasid : Option Nat) (page log2 : Nat)
  /-- ATS_INVALIDATION_COMPLETE (R364): Reads issued with removed translations finish and the Invalidation Completion is sent. -/
  | atsInvalidationComplete
  /-- ATS_DISABLE (R365): Clearing ATS Enable or PASID Enable empties the translation cache and takes regions offline. -/
  | atsDisable (ats pasid : Bool)
  /-- PEER_COMMAND_WRITE (R369): A 64-byte peer write to a command window queues a command entry. -/
  | peerCommandWrite (off : Nat) (data : BitVec 512)
  /-- PEER_COMMAND_DISPATCH (R369): A peer window hands a queued command to the engine once a CQ entry is reserved. -/
  | peerCommandDispatch (w : Nat)
  /-- PEER_SLOT_WRITE (R369): A peer write to a slot-write window is forwarded as a slot-write record. -/
  | peerSlotWrite (off : Nat) (data : BitVec 512)
  /-- PEER_UNMATCHED_WRITE (R370): A peer write matching no window is discarded and reported. -/
  | peerUnmatchedWrite (off : Nat)
  /-- PEER_BAD_WRITE (R369): A peer write of wrong size or alignment is discarded and counted. -/
  | peerBadWrite (off len : Nat)
  /-- PEER_WINDOW_COMMIT (R371): HIF_PW_CTL.COMMIT activates all shadow windows or is refused. -/
  | peerWindowCommit
  /-- MODULE_POWER_ON (R373): A PCC 1 to 0 command enables the load switch or is refused. -/
  | modulePowerOn (d val : Nat)
  /-- MODULE_POWER_OFF (R373): A PCC 0 to 1 command disables the load switch or is refused. -/
  | modulePowerOff (d val : Nat)
  /-- INDICATOR_CHANGE (R373): A command changing only AIC or PIC sets the indicators. -/
  | indicatorChange (d val : Nat)
  /-- MODULE_COMMAND_COMPLETE (R373): A site command's time elapses and CC is set, with an event if enabled. -/
  | moduleCommandComplete (d : Nat)
  /-- ATTENTION_BUTTON (R489): A debounced button press sets ABP and counts. -/
  | attentionButton (d : Nat)
  /-- PRESENCE_CHANGE (R375): A debounced presence change sets PDC; a removal while powered is a surprise failure. -/
  | presenceChange (d : Nat) (here : Bool)
  /-- INPUT_STUCK (R490): An input with too many edges in 1 ms is declared stuck and frozen. -/
  | inputStuck (d pin : Nat)
  /-- PPS_EDGE (R383): A PPS edge is accepted or ignored; an accepted edge applies a load or runs the servo. -/
  | ppsEdge (idle : Bool)
  /-- TOD_ARM (R384): Setting TIM_CTL.TOD_ARM arms a load, applied at once when PPS_EN = 0. -/
  | todArm (val : Nat)
  /-- PPS_STUCK_TIMEOUT (R383): PPS_IN held active for 1 s sets PPS_STUCK and enters HOLDOVER. -/
  | ppsStuckTimeout
  /-- PPS_MISSING_TIMEOUT (R386): No accepted edge for 1.5 s enters HOLDOVER. -/
  | ppsMissingTimeout
  /-- HOLDOVER_EXPIRE (R386): HOLDOVER lasts TIM_HOLD_MAX seconds; HOLD_EXP is set and timestamps carry UNSYNC. -/
  | holdoverExpire
  /-- TIME_CELL_BROADCAST (R387): The lead die broadcasts a time cell every 256 CQ cycles or after a step. -/
  | timeCellBroadcast
  /-- TIME_CELL_RECEIVE (R388): A die sets its local time from a received time cell. -/
  | timeCellReceive (d : Arrival)
  /-- LOCAL_TIME_TIMEOUT (R388): No time cell for 4,096 CQ cycles marks the die's copy invalid. -/
  | localTimeTimeout (d : Nat)
  /-- REF_SELECT_CHANGE (R412): A CLK_CTL.REF_SEL write switches the reference and rescales TIM_RATE. -/
  | refSelectChange (val : Nat)
  /-- EVIDENCE_RECORD (R395): The evidence unit receives a record, appends it with the next index and link, or loses it. -/
  | evidenceRecord
  /-- CHECKPOINT_IDLE_TIMEOUT (R400): TMO milliseconds after an uncovered record a checkpoint falls due. -/
  | checkpointIdleTimeout
  /-- CHECKPOINT_SIGNED (R400): The signer finishes a checkpoint and writes it to the checkpoint ring. -/
  | checkpointSigned
  /-- EVIDENCE_ENABLE (R397): EVD_CTL.EN 0 to 1 generates a key if needed and writes a START record. -/
  | evidenceEnable (val : Nat)
  /-- SIGNING_KEY_GENERATED (R399): The security controller finishes generating the evidence key pair. -/
  | signingKeyGenerated
  /-- EVIDENCE_DISABLE (R397): EVD_CTL.EN 1 to 0 writes an END record and a checkpoint. -/
  | evidenceDisable (val : Nat)
  /-- THERMAL_LEVEL_RISE (R97): The junction temperature reaches a threshold and the thermal level rises, fencing at 110 C. -/
  | thermalLevelRise (d temp : Nat)
  /-- THERMAL_LEVEL_FALL (R97): The temperature stays 3 C below the threshold for 1 ms and the level falls one. -/
  | thermalLevelFall (d temp : Nat)
  /-- THERMAL_FENCE_CLEAR (R97): Writing 1 to ATC_THROTTLE.FENCED clears the fence below 100 C. -/
  | thermalFenceClear (d temp : Nat)
  /-- GOVERNOR_STEP (R432): Every 10 us the governor estimates power and adjusts the blanking count. -/
  | governorStep (ests : List Nat) (cp : Nat)
  /-- GOVERNOR_SHORT_TIMEOUT (R432): The count stays at 48 above the cap for 1 ms and SHORT is set. -/
  | governorShortTimeout
  /-- PARTITION_COUNT_SELECT (R102): Writing ATC_SEL_IDX copies a partition's search and shelf counts. -/
  | partitionCountSelect (d val : Nat)
  /-- STEP_ENTRY_SELECT (R206): Writing SEQ_STEP_IDX copies a step entry's state and counters. -/
  | stepEntrySelect (d val : Nat)
  /-- ARB_COUNTER_SELECT (R348): Writing ARB_CNT_SEL copies an owner's grant and age counters. -/
  | arbCounterSelect (d val : Nat)
  /-- POWER_DOMAIN_SELECT (R434): Writing PWR_DSEL selects a domain and optionally clears its counters. -/
  | powerDomainSelect (d val : Nat)
  /-- LATCHING_LO_READ (R103): Reading a LO register of a 48-bit or time pair latches its HI registers for the accessor. -/
  | latchingLoRead (acc d pg off : Nat)
  /-- PREDICTOR_CLEAR (R202): SEQ_CTL.PRED_CLR sets every step entry's confidence to 0. -/
  | predictorClear (d : Nat)
  /-- SEND_SLOT_GRANT (R222): A waiting SEND gets the staging slot and a queue entry and writes its words. -/
  | sendSlotGrant (d ch : Nat)
  /-- MESSAGE_VISIBLE (R222): A message joins the queue and is taken by the oldest waiting WAITE. -/
  | messageVisible (d ch : Nat)
  /-- EVENT_TIMEOUT (R222): A SEND or WAITE that waited THR_EVT_TMO ends with OK false. -/
  | eventTimeout (d t : Nat)
  /-- FORK_WAIT_GRANT (R221): A waiting FORK takes a freed thread and starts its child. -/
  | forkWaitGrant (d : Nat)
  /-- FORK_TIMEOUT (R221): A FORK that waited THR_FORK_TMO fails. -/
  | forkTimeout (d t : Nat)
  /-- FAULT_NOTICE_DISPATCH (R228): The free supervisor takes the oldest fault notice and starts its recipe. -/
  | faultNoticeDispatch (d : Nat)
  /-- THREAD_RELEASE (R227): Writing THR_REL frees a FAULTED thread with no live children. -/
  | threadRelease (d val : Nat)
  /-- QUIESCE_FIRE (R231): The quiescence window expires and a QUIESCE notice is posted. -/
  | quiesceFire (d : Nat)
  /-- QUIESCE_KILL (R232): THR_QUIESCE_KILL cycles pass without a message and the event set is ended. -/
  | quiesceKill (d : Nat)
  /-- HALT (R233): The debugger halts the named thread. -/
  | halt (d : Nat)
  /-- RESUME (R233): The debugger resumes a halted thread. -/
  | resume (d : Nat)
  /-- STEP (R233): The debugger runs one instruction of a halted thread. -/
  | step (d : Nat)
  /-- KILL (R233): The debugger faults the thread with DEBUG_KILL. -/
  | kill (d : Nat)
  /-- HALTED_BUDGET_ABORT (R234): A halted guaranteed thread's budgeted cycle arrives and ABORTED is sent. -/
  | haltedBudgetAbort (d t : Nat)
  /-- DBG_CHANNEL_RELEASE (R235): Writing DBG_CH_REL releases a staging slot held by a halted thread. -/
  | dbgChannelRelease (d val : Nat)
  /-- DBG_AUTO_RELEASE (R235): A halted thread has held a staging slot for DBG_HOLD_MAX cycles and it is released. -/
  | dbgAutoRelease (d ch : Nat)
  /-- HYSTERESIS_EXPIRE (R420): A domain's hysteresis timer expires and it refuses or begins entering its low state. -/
  | hysteresisExpire (d c : Nat)
  /-- POWER_ENTRY_STEP (R421): An entry step completes and the domain aborts at the abort point or continues. -/
  | powerEntryStep (d c : Nat)
  /-- WAKE_EVENT (R422): A vote, access or refusal condition wakes a domain or aborts its entry. -/
  | wakeEvent (d c : Nat)
  /-- POWER_WAKE_STEP (R423): A wake step completes, the last bringing the domain ON. -/
  | powerWakeStep (d c : Nat)
  /-- WAKE_FAIL_TIMEOUT (R425): Supply-good or PLL lock does not come in time and the domain enters FAILED. -/
  | wakeFailTimeout (d c : Nat) (pll : Bool)
  /-- DOMAIN_WAKE_RETRY (R425): PWR_STATE.RETRY starts a new wake of a FAILED domain. -/
  | domainWakeRetry (d c : Nat)
  /-- PLL_LOCK (R411): A restarted PLL locks and the waking domain continues. -/
  | pllLock (d : Nat)
  /-- PLL_LOCK_LOSS (R413): A PLL loses lock and its die is lost. -/
  | pllLockLoss (d : Nat)
  /-- REFERENCE_BAD (R413): The reference leaves its window and the clock-monitor alarm fires. -/
  | referenceBad (d : Reading)
  /-- SMBUS_REGISTER_WRITE (R428): SMBus command 0x10 writes a register. -/
  | smbusRegisterWrite (addr val : Nat) (pecFail : Bool)
  /-- SMBUS_SET_READ_ADDRESS (R428): SMBus command 0x11 sets the read address. -/
  | smbusSetReadAddress (addr : Nat) (pecFail : Bool)
  /-- SMBUS_BLOCK_READ (R428): SMBus command 0x12 reads a register and advances the address. -/
  | smbusBlockRead
  /-- HATCH_LATCH_READ (R430): SMBus command 0xF7 is answered by the hatch with its latch, clearing bit 3. -/
  | hatchLatchRead
  /-- HATCH_ADDRESS_MATCH (R429): The hatch matches the address while CP is not ON, stretches SCL and wakes CP. -/
  | hatchAddressMatch
  /-- HATCH_WAKE_FAIL (R430): CP fails or the stretch reaches 20 ms; the hatch releases SCL, NACKs and latches the failure. -/
  | hatchWakeFail (limit : Bool)
  /-- SMBUS_TIMEOUT (R427): SCL low for 25 ms resets the port's interface. -/
  | smbusTimeout
  /-- ERROR_HANDLING_END (R441): Writing 1 to ERR_FIRST.VALID ends handling and moves ERR_SECOND up. -/
  | errorHandlingEnd (d pg : Nat)
  /-- SUPERVISOR_ESCALATION (R445): A supervisor record still valid after FLT_SUP_TMO is reported to the host. -/
  | supervisorEscalation (d pg : Nat)
  /-- ERROR_INJECT (R504): PAGE_CTL.INJ acts as an error of the chosen bit. -/
  | errorInject (d pg bit : Nat)
  /-- PAGE_LOCK (R503): PAGE_CTL.LOCK makes the page's RWL fields read-only until reset. -/
  | pageLock (d pg : Nat)
  /-- ENGINE_RESET (R447): FLT_ERST.GO resets the search engine, optionally unloading the image. -/
  | engineReset (val : Nat)
  /-- ENGINE_RESET_DONE (R447): The engine reset ends and interfaces retrain. -/
  | engineResetDone
  /-- GOLDEN_REPLAY (R457): FLT_GR_CTL.GO starts a golden replay. -/
  | goldenReplay (val : Nat)
  /-- GOLDEN_VECTOR (R458): A golden vector is admitted, waiting for resources, and run without a response. -/
  | goldenVector (data : BitVec 1152) (fail : Bool)
  /-- GOLDEN_REPLAY_DONE (R458): The last vector completes and the result digest is compared. -/
  | goldenReplayDone
  /-- IMAGE_LOAD_HOST (R480): PKG_IMG_CMD.GO starts reading an image from host memory, or is refused. -/
  | imageLoadHost (val : Nat)
  /-- FLASH_BOOT (R479): After reset release the lead die reads and checks flash headers and sizes BAR4. -/
  | flashBoot (hdrA hdrB : BitVec 4096)
  /-- IMAGE_CHECK (R460): The read image is checked, loaded into every die and starts self-qualification, or is rejected. -/
  | imageCheck (img : Image)
  /-- DEBUG_CHALLENGE (R462): SEC_DBG_CMD.CHAL places a fresh challenge. -/
  | debugChallenge (val : Nat)
  /-- DEBUG_RESPONSE (R462): SEC_DBG_CMD.GO checks the response and sets or locks the debug level. -/
  | debugResponse (val : Nat)
  /-- DEBUG_CHALLENGE_EXPIRE (R462): A challenge not used within 60 s expires. -/
  | debugChallengeExpire
  /-- VOLTAGE_ALARM (R464): A rail outside its window for 1 us fires alarm source 0x01. -/
  | voltageAlarm (d : Nat)
  /-- TAMPER (R464): TAMPER_N low for 10 us fires alarm source 0x04. -/
  | tamper
  /-- ZEROIZE_REQUEST (R466): SEC_ZEROIZE.GO fires source 0x08. -/
  | zeroizeRequest
  /-- ENDORSE (R468): SEC_END_CMD.GO signs the evidence public key with the identity key. -/
  | endorse
  /-- RESET_RELEASE (R475): The package leaves reset on the reference edge at which PERST_N, PWR_GOOD and reference hold. -/
  | resetRelease (good casc bootSrc smb : Nat)
  /-- CONVENTIONAL_RESET (R475): PERST_N low resets the whole device. -/
  | conventionalReset
  /-- DIE_RESET_TIMEOUT (R476): A die's PWR_GOOD has not risen within 10 ms and the package leaves reset without it. -/
  | dieResetTimeout (good casc bootSrc smb : Nat)
  /-- DIE_POWER_GOOD_LOSS (R475): PWR_GOOD_d low for 200 ns loses die d. -/
  | diePowerGoodLoss (d : Nat)
  /-- BSQ_START (R485): BSQ_CTL.GO runs self-qualification on one die, or is refused. -/
  | bsqStart (d val : Nat)
  /-- BSQ_PHASE_DONE (R482): A self-qualification phase ends; the last applies repairs and the result. -/
  | bsqPhaseDone (d ways : Nat) (fault : Bool) (shelves : List (Nat × Nat × Nat × Nat)) (ms : Nat)
  /-- SERVICE_RELEASE (R481): PKG_BOOT.SVC releases lookup service so interfaces may train. -/
  | serviceRelease
  /-- REGISTER_WRITE (R13): A write to a register without behaviour of its own updates fields by their access codes. -/
  | registerWrite (acc d pg off val : Nat)
  /-- DATA_LINK_UP (R368): The PCIe link finishes training and the data link layer comes up, setting HIF_STS.LINK_UP. -/
  | dataLinkUp (speed width : Nat)
  /-- FUNCTION_READY (R367): After an FLR or reset release the function's configuration space is ready and it stops answering with Request Retry Status and accepts BAR accesses again. -/
  | functionReady
  /-- DIAGNOSTIC_WORD (R304): A lane's MetaFrame diagnostic word arrives and its CRC32 is checked after the covered bursts, counting a failure in LKP_CRC.META and setting ERR_STICKY.META_CRC. -/
  | diagnosticWord (iface lane : Nat) (crcFail : Bool)
  deriving DecidableEq, Repr

end Sys2Proof
end

