-- ==== Sys2Proof/Decode.lean ====
section
/-!
DEFINITION. Commands spelled by a word. The command table gives no row any bits: commands are register writes, packets and
events, not words of a program. So no word spells one.
-/

namespace Sys2Proof

/-- The command that a word spells by the table's bits: none, since no row has bits. -/
def decodeTableWord (_nbits _w : Nat) : Option Instr := none

end Sys2Proof
end

