-- ==== Sys2Proof/Machine/Bits.lean ====
section
/-!
DEFINITION. Sparse maps, bit fields and byte orders: the helpers every family uses.
Bit addresses follow the manual: address 0 is the most significant bit (R183).
-/

namespace Sys2Proof.Machine

/-! ## Sparse maps -/

/-- The value at a key, or the default. -/
def mget {α : Type} (dflt : α) : SMap α → Nat → α
  | [], _ => dflt
  | (j, v) :: m, k => if j = k then v else mget dflt m k

/-- The map without a key. -/
def mdel {α : Type} : SMap α → Nat → SMap α
  | [], _ => []
  | (j, v) :: m, k => if j = k then mdel m k else (j, v) :: mdel m k

/-- Insert a key that the map does not hold, keeping keys rising. -/
def mins {α : Type} : SMap α → Nat → α → SMap α
  | [], k, v => [(k, v)]
  | (j, w) :: m, k, v => if k < j then (k, v) :: (j, w) :: m else (j, w) :: mins m k v

/-- Write a key. Writing the default removes the entry, so equal contents are equal lists. -/
def mset {α : Type} [DecidableEq α] (dflt : α) (m : SMap α) (k : Nat) (v : α) : SMap α :=
  if v = dflt then mdel m k else mins (mdel m k) k v

/-- Write a key with a function of its present value. -/
def mmod {α : Type} [DecidableEq α] (dflt : α) (m : SMap α) (k : Nat) (f : α → α) : SMap α :=
  mset dflt m k (f (mget dflt m k))

/-- Every key of the list exceeds `k`. -/
def mabove {α : Type} (k : Nat) (m : SMap α) : Bool := m.all fun p => decide (k < p.1)

/-- The canonical form: keys strictly rising and no entry equal to the default. -/
def mwf {α : Type} [DecidableEq α] (dflt : α) : SMap α → Bool
  | [] => true
  | (j, v) :: m => mabove j m && decide (v ≠ dflt) && mwf dflt m

/-! ## Bit fields -/

/-- The number held by a Boolean. -/
def b2n (b : Bool) : Nat := if b then 1 else 0

/-- Bit `i` of a number. -/
def bitOf (n i : Nat) : Bool := n.testBit i

/-- Field of `w` bits of `n` starting at bit `lo` (bit 0 least significant). -/
def fld (n lo w : Nat) : Nat := n / 2 ^ lo % 2 ^ w

/-- `n` with the field of `w` bits at `lo` replaced by `v`. -/
def setFld (n lo w v : Nat) : Nat := n - fld n lo w * 2 ^ lo + v % 2 ^ w * 2 ^ lo

/-- Field of `n` bits at bit address `a` (address 0 is the most significant bit, R183) of a vector of `W` bits. -/
def getBE {W : Nat} (v : BitVec W) (a n : Nat) : Nat := fld v.toNat (W - a - n) n

/-- The vector with the field of `n` bits at bit address `a` replaced. -/
def setBE {W : Nat} (v : BitVec W) (a n x : Nat) : BitVec W := BitVec.ofNat W (setFld v.toNat (W - a - n) n x)

/-- Number of bits set among the lowest `n`. -/
def popcount (v : Nat) : Nat → Nat
  | 0 => 0
  | n + 1 => popcount v n + b2n (v.testBit n)

/-- Positions below `n` of the bits set in `v`, ascending. -/
def bitsOf (v n : Nat) : List Nat := (List.range n).filter fun i => v.testBit i

/-- The number whose set bits are the listed positions. -/
def maskOf (l : List Nat) : Nat := l.foldl (fun m i => m ||| 2 ^ i) 0

/-- Saturating increment of a field of `w` bits. -/
def satInc (w v n : Nat) : Nat := min (2 ^ w - 1) (v + n)

/-- Wrapping increment of a field of `w` bits. -/
def wrapInc (w v n : Nat) : Nat := (v + n) % 2 ^ w

/-- Ceiling of a quotient. -/
def ceilDiv (a b : Nat) : Nat := (a + b - 1) / b

/-- Sum of a list. -/
def sumL (l : List Nat) : Nat := l.foldl (· + ·) 0

/-- Replace every element that satisfies `p`. -/
def updWhere {α : Type} (p : α → Bool) (f : α → α) (l : List α) : List α := l.map fun x => if p x then f x else x

/-- Remove the first element that satisfies `p`. -/
def rmFirst {α : Type} (p : α → Bool) : List α → List α
  | [] => []
  | x :: l => if p x then l else x :: rmFirst p l

/-- Replace the first element that satisfies `p`. -/
def updFirst {α : Type} (p : α → Bool) (f : α → α) : List α → List α
  | [] => []
  | x :: l => if p x then f x :: l else x :: updFirst p f l

/-- The bytes of a number, most significant first. -/
def bytesBE : Nat → Nat → List Nat
  | 0, _ => []
  | n + 1, v => v / 256 ^ n % 256 :: bytesBE n v

/-- The number held by bytes, most significant first. -/
def ofBytesBE (l : List Nat) : Nat := l.foldl (fun a b => a * 256 + b % 256) 0

/-- The number held by bytes, least significant first. -/
def ofBytesLE : List Nat → Nat
  | [] => 0
  | b :: l => b % 256 + 256 * ofBytesLE l

/-- The 32-bit word at byte offset `o` of a 64-byte little-endian-in-word image held first byte most significant (R139). -/
def wordLE {W : Nat} (v : BitVec W) (o : Nat) : Nat := ofBytesLE (bytesBE 4 (getBE v (8 * o) 32))

/-- A 32-bit word with its bytes reversed: how a little-endian word stands in a byte image. -/
def swap32 (w : Nat) : Nat := ofBytesLE (bytesBE 4 (w % 2 ^ 32))

end Sys2Proof.Machine
end

