-- ==== Sys2Proof/Machine/Crypto.lean ====
section
/-!
DEFINITION. The cryptographic functions of the standards that R12 names: SHA-256 and SHA-384 (FIPS 180-4), AES-256 (FIPS 197) in
Galois/Counter mode with a 96-bit nonce (SP 800-38D), and ECDSA on curve P-384 (FIPS 186-5). The manual names the standards and
repeats none of their text: their algorithms and constants are PRESUMED (log 13).
-/

namespace Sys2Proof.Machine

/-! ## SHA-2 -/

/-- A member of the SHA-2 family: word width, round constants, and the rotation amounts of its four sigma functions; the last
amount of each small sigma is a shift. -/
structure Sha2 where
  width : Nat
  consts : List Nat
  big0 : Nat × Nat × Nat
  big1 : Nat × Nat × Nat
  small0 : Nat × Nat × Nat
  small1 : Nat × Nat × Nat
  deriving DecidableEq, Repr

/-- Rotate a word of `w` bits right. -/
def rotr (w x n : Nat) : Nat := (x >>> n ||| x <<< (w - n)) % 2 ^ w

/-- A big sigma: three rotations. -/
def bigSigma (w : Nat) (r : Nat × Nat × Nat) (x : Nat) : Nat := rotr w x r.1 ^^^ rotr w x r.2.1 ^^^ rotr w x r.2.2

/-- A small sigma: two rotations and a shift. -/
def smallSigma (w : Nat) (r : Nat × Nat × Nat) (x : Nat) : Nat := rotr w x r.1 ^^^ rotr w x r.2.1 ^^^ x >>> r.2.2

/-- The eight working variables. -/
structure ShaVars where
  a : Nat
  b : Nat
  c : Nat
  d : Nat
  e : Nat
  f : Nat
  g : Nat
  h : Nat
  deriving DecidableEq, Repr

/-- One round with a round constant and a word of the message schedule. -/
def shaRound (p : Sha2) (v : ShaVars) (k w : Nat) : ShaVars :=
  let ch := (v.e &&& v.f) ^^^ ((2 ^ p.width - 1 - v.e) &&& v.g)
  let maj := (v.a &&& v.b) ^^^ (v.a &&& v.c) ^^^ (v.b &&& v.c)
  let t1 := v.h + bigSigma p.width p.big1 v.e + ch + k + w
  { a := (t1 + bigSigma p.width p.big0 v.a + maj) % 2 ^ p.width, b := v.a, c := v.b, d := v.c
    e := (v.d + t1) % 2 ^ p.width, f := v.e, g := v.f, h := v.g }

/-- The rounds of one block; `ws` holds the next 16 words of the message schedule. -/
def shaRounds (p : Sha2) : List Nat → List Nat → ShaVars → ShaVars
  | [], _, v => v
  | k :: ks, ws, v =>
    let next := (smallSigma p.width p.small1 (ws.getD 14 0) + ws.getD 9 0 + smallSigma p.width p.small0 (ws.getD 1 0) + ws.getD 0 0) % 2 ^ p.width
    shaRounds p ks (ws.drop 1 ++ [next]) (shaRound p v k (ws.getD 0 0))

/-- Compress one block of 16 words into the hash value. -/
def shaBlock (p : Sha2) (h : ShaVars) (block : List Nat) : ShaVars :=
  let v := shaRounds p p.consts block h
  let add := fun x y => (x + y) % 2 ^ p.width
  { a := add h.a v.a, b := add h.b v.b, c := add h.c v.c, d := add h.d v.d, e := add h.e v.e, f := add h.f v.f, g := add h.g v.g, h := add h.h v.h }

/-- Cut a list into pieces of `n`; `fuel` bounds the pieces. -/
def chunks {α : Type} (n : Nat) : Nat → List α → List (List α)
  | 0, _ => []
  | _, [] => []
  | fuel + 1, x :: l => (x :: l).take n :: chunks n fuel ((x :: l).drop n)

/-- A message padded to whole blocks: a 1 bit, zeros, and the length in bits. -/
def shaPad (p : Sha2) (m : List Nat) : List Nat :=
  let block := 2 * p.width
  let tail := p.width / 4
  let zeros := (block - (m.length + 1 + tail) % block) % block
  m ++ [0x80] ++ List.replicate zeros 0 ++ bytesBE tail (8 * m.length)

/-- The hash value of a message. -/
def sha2 (p : Sha2) (init : ShaVars) (m : List Nat) : ShaVars :=
  let words := (chunks (p.width / 8) (m.length + 256) (shaPad p m)).map ofBytesBE
  (chunks 16 (m.length + 256) words).foldl (shaBlock p) init

/-- Round constants of SHA-384. Those of SHA-256 are the upper halves of the first 64. -/
def shaConsts : List Nat :=
  [0x428a2f98d728ae22, 0x7137449123ef65cd, 0xb5c0fbcfec4d3b2f, 0xe9b5dba58189dbbc,
    0x3956c25bf348b538, 0x59f111f1b605d019, 0x923f82a4af194f9b, 0xab1c5ed5da6d8118,
    0xd807aa98a3030242, 0x12835b0145706fbe, 0x243185be4ee4b28c, 0x550c7dc3d5ffb4e2,
    0x72be5d74f27b896f, 0x80deb1fe3b1696b1, 0x9bdc06a725c71235, 0xc19bf174cf692694,
    0xe49b69c19ef14ad2, 0xefbe4786384f25e3, 0x0fc19dc68b8cd5b5, 0x240ca1cc77ac9c65] ++
  [0x2de92c6f592b0275, 0x4a7484aa6ea6e483, 0x5cb0a9dcbd41fbd4, 0x76f988da831153b5,
    0x983e5152ee66dfab, 0xa831c66d2db43210, 0xb00327c898fb213f, 0xbf597fc7beef0ee4,
    0xc6e00bf33da88fc2, 0xd5a79147930aa725, 0x06ca6351e003826f, 0x142929670a0e6e70,
    0x27b70a8546d22ffc, 0x2e1b21385c26c926, 0x4d2c6dfc5ac42aed, 0x53380d139d95b3df,
    0x650a73548baf63de, 0x766a0abb3c77b2a8, 0x81c2c92e47edaee6, 0x92722c851482353b] ++
  [0xa2bfe8a14cf10364, 0xa81a664bbc423001, 0xc24b8b70d0f89791, 0xc76c51a30654be30,
    0xd192e819d6ef5218, 0xd69906245565a910, 0xf40e35855771202a, 0x106aa07032bbd1b8,
    0x19a4c116b8d2d0c8, 0x1e376c085141ab53, 0x2748774cdf8eeb99, 0x34b0bcb5e19b48a8,
    0x391c0cb3c5c95a63, 0x4ed8aa4ae3418acb, 0x5b9cca4f7763e373, 0x682e6ff3d6b2b8a3,
    0x748f82ee5defb2fc, 0x78a5636f43172f60, 0x84c87814a1f0ab72, 0x8cc702081a6439ec] ++
  [0x90befffa23631e28, 0xa4506cebde82bde9, 0xbef9a3f7b2c67915, 0xc67178f2e372532b,
    0xca273eceea26619c, 0xd186b8c721c0c207, 0xeada7dd6cde0eb1e, 0xf57d4f7fee6ed178,
    0x06f067aa72176fba, 0x0a637dc5a2c898a6, 0x113f9804bef90dae, 0x1b710b35131c471b,
    0x28db77f523047d84, 0x32caab7b40c72493, 0x3c9ebe0a15c9bebc, 0x431d67c49c100d4c,
    0x4cc5d4becb3e42b6, 0x597f299cfc657e2a, 0x5fcb6fab3ad6faec, 0x6c44198c4a475817]

/-- The parameters of SHA-256. -/
def sha256Params : Sha2 where
  width := 32
  consts := (shaConsts.take 64).map fun k => k >>> 32
  big0 := (2, 13, 22)
  big1 := (6, 11, 25)
  small0 := (7, 18, 3)
  small1 := (17, 19, 10)

/-- The parameters of SHA-384. -/
def sha384Params : Sha2 where
  width := 64
  consts := shaConsts
  big0 := (28, 34, 39)
  big1 := (14, 18, 41)
  small0 := (1, 8, 7)
  small1 := (19, 61, 6)

/-- SHA-256 of a byte string. -/
@[irreducible] def sha256 (m : List Nat) : Nat :=
  let v := sha2 sha256Params ⟨0x6a09e667, 0xbb67ae85, 0x3c6ef372, 0xa54ff53a, 0x510e527f, 0x9b05688c, 0x1f83d9ab, 0x5be0cd19⟩ m
  [v.a, v.b, v.c, v.d, v.e, v.f, v.g, v.h].foldl (fun x w => x * 2 ^ 32 + w) 0

/-- SHA-384 of a byte string: six of the eight words. -/
@[irreducible] def sha384 (m : List Nat) : Nat :=
  let v := sha2 sha384Params
    ⟨0xcbbb9d5dc1059ed8, 0x629a292a367cd507, 0x9159015a3070dd17, 0x152fecd8f70e5939,
      0x67332667ffc00b31, 0x8eb44a8768581511, 0xdb0c2e0d64f98fa7, 0x47b5481dbefa4fa4⟩ m
  [v.a, v.b, v.c, v.d, v.e, v.f].foldl (fun x w => x * 2 ^ 64 + w) 0

/-! ## AES-256 -/

/-- Multiply by x in the field of AES. -/
def xtime (a : Nat) : Nat := (2 * a) % 256 ^^^ (if 128 ≤ a then 0x1B else 0)

/-- Multiply in the field of AES: the bits of `b` from the lowest, `n` of them. -/
def fieldMul : Nat → Nat → Nat → Nat
  | 0, _, _ => 0
  | n + 1, a, b => (if b % 2 = 1 then a else 0) ^^^ fieldMul n (xtime a) (b / 2)

/-- The product of two bytes in the field of AES. -/
def byteMul (a b : Nat) : Nat := fieldMul 8 a b

/-- The multiplicative inverse of a byte, 0 for 0: its 254th power. -/
def byteInv (a : Nat) : Nat :=
  let x2 := byteMul a a
  let x3 := byteMul x2 a
  let x6 := byteMul x3 x3
  let x12 := byteMul x6 x6
  let x15 := byteMul x12 x3
  let x30 := byteMul x15 x15
  let x60 := byteMul x30 x30
  let x120 := byteMul x60 x60
  let x126 := byteMul x120 x6
  let x127 := byteMul x126 a
  byteMul x127 x127

/-- The S-box: the inverse, then the affine map. -/
def subByte (a : Nat) : Nat :=
  let b := byteInv a
  let rotl := fun n => (b <<< n ||| b >>> (8 - n)) % 256
  b ^^^ rotl 1 ^^^ rotl 2 ^^^ rotl 3 ^^^ rotl 4 ^^^ 0x63

/-- XOR of two byte strings. -/
def xorBytes (a b : List Nat) : List Nat := List.zipWith (fun x y => x ^^^ y) a b

/-- The key schedule, newest word first: `n` more words after word `i - 1`; `rc` is the round constant. -/
def expandKey : Nat → Nat → Nat → List (List Nat) → List (List Nat)
  | 0, _, _, ws => ws
  | n + 1, i, rc, ws =>
    let last := ws.getD 0 []
    let t :=
      if i % 8 = 0 then xorBytes ((last.drop 1 ++ last.take 1).map subByte) [rc, 0, 0, 0]
      else if i % 8 = 4 then last.map subByte
      else last
    expandKey n (i + 1) (if i % 8 = 0 then xtime rc else rc) (xorBytes (ws.getD 7 []) t :: ws)

/-- The 15 round keys of a 256-bit key, 16 bytes each. -/
def roundKeys (key : Nat) : List (List Nat) :=
  chunks 16 16 ((expandKey 52 8 1 (chunks 4 9 (bytesBE 32 key)).reverse).reverse.flatten)

/-- ShiftRows on a block in column order. -/
def shiftRows (b : List Nat) : List Nat := (List.range 16).map fun i => b.getD (5 * i % 16) 0

/-- MixColumns on one column. -/
def mixColumn (c : List Nat) : List Nat :=
  (List.range 4).map fun i =>
    byteMul 2 (c.getD i 0) ^^^ byteMul 3 (c.getD ((i + 1) % 4) 0) ^^^ c.getD ((i + 2) % 4) 0 ^^^ c.getD ((i + 3) % 4) 0

/-- The rounds after the first key addition; the last one mixes no columns. -/
def aesRounds : List (List Nat) → List Nat → List Nat
  | [], b => b
  | [k], b => xorBytes (shiftRows (b.map subByte)) k
  | k :: ks, b => aesRounds ks (xorBytes ((chunks 4 5 (shiftRows (b.map subByte))).flatMap mixColumn) k)

/-- AES-256 encryption of one 128-bit block under expanded keys. -/
def aesBlock (keys : List (List Nat)) (x : Nat) : Nat :=
  ofBytesBE (aesRounds (keys.drop 1) (xorBytes (bytesBE 16 x) (keys.getD 0 [])))

/-! ## Galois/Counter mode -/

/-- The product of two blocks in the field of GCM: `n` bits of `x` from its highest bit, `v` the shifted multiplicand. -/
def ghashMul : Nat → Nat → Nat → Nat
  | 0, _, _ => 0
  | n + 1, x, v => (if x.testBit n then v else 0) ^^^ ghashMul n x (v / 2 ^^^ (if v % 2 = 1 then 0xE1 <<< 120 else 0))

/-- GHASH of whole blocks under the hash key. -/
def ghash (hkey : Nat) (blocks : List Nat) : Nat := blocks.foldl (fun y x => ghashMul 128 (y ^^^ x) hkey) 0

/-- A byte string as 128-bit blocks, the last one filled with zeros. -/
def blocksOf (m : List Nat) : List Nat :=
  (chunks 16 (m.length + 1) m).map fun c => ofBytesBE (c ++ List.replicate (16 - c.length) 0)

/-- Counter mode from a first counter block, whose low 32 bits count. -/
def gctr (keys : List (List Nat)) (ctr : Nat) (m : List Nat) : List Nat :=
  ((chunks 16 (m.length + 1) m).zipIdx).flatMap fun p =>
    xorBytes p.1 (bytesBE 16 (aesBlock keys (ctr / 2 ^ 32 * 2 ^ 32 + (ctr + p.2) % 2 ^ 32)))

/-- The tag of a ciphertext with its additional data. -/
def gcmTag (keys : List (List Nat)) (nonce : Nat) (aad ct : List Nat) : Nat :=
  ghash (aesBlock keys 0) (blocksOf aad ++ blocksOf ct ++ [8 * aad.length * 2 ^ 64 + 8 * ct.length]) ^^^ aesBlock keys (nonce * 2 ^ 32 + 1)

/-- AES-256-GCM sealing with a 96-bit nonce: ciphertext and 128-bit tag. -/
@[irreducible] def gcmSeal (key nonce : Nat) (aad pt : List Nat) : List Nat × Nat :=
  let keys := roundKeys key
  let ct := gctr keys (nonce * 2 ^ 32 + 2) pt
  (ct, gcmTag keys nonce aad ct)

/-- AES-256-GCM opening: the plaintext, or nothing where the tag differs. -/
@[irreducible] def gcmOpen (key nonce : Nat) (aad ct : List Nat) (tag : Nat) : Option (List Nat) :=
  let keys := roundKeys key
  if gcmTag keys nonce aad ct = tag then some (gctr keys (nonce * 2 ^ 32 + 2) ct) else none

/-! ## ECDSA on P-384 -/

/-- The prime of the field, the constant b, the base point and its order. -/
def p384 : Nat := 2 ^ 384 - 2 ^ 128 - 2 ^ 96 + 2 ^ 32 - 1
def p384B : Nat := 0xb3312fa7e23ee7e4988e056be3f82d19181d9c6efe8141120314088f5013875ac656398d8a2ed19d2a85c8edd3ec2aef
def p384Gx : Nat := 0xaa87ca22be8b05378eb1c71ef320ad746e1d3b628ba79b9859f741e082542a385502f25dbf55296c3a545e3872760ab7
def p384Gy : Nat := 0x3617de4a96262c6f5d9e98bf9292dc29f8f41dbd289a147ce9da3113b5f0b8c00a60b1ce1d7e819d7a431d7c90ea0e5f
def p384N : Nat := 0xffffffffffffffffffffffffffffffffffffffffffffffffc7634d81f4372ddf581a0db248b0a77aecec196accc52973

/-- Difference modulo `m` of two reduced numbers. -/
def subMod (m a b : Nat) : Nat := (a + (m - b % m)) % m

/-- A power modulo `m`, over `n` bits of the exponent from its highest; `r` is the power of the bits above. -/
def powMod (m b e : Nat) : Nat → Nat → Nat
  | 0, r => r
  | n + 1, r => powMod m b e n (if e.testBit n then r * r % m * b % m else r * r % m)

/-- The inverse modulo a prime below 2^384. -/
def invMod (m a : Nat) : Nat := powMod m (a % m) (m - 2) 384 1

/-- A point in Jacobian coordinates; `z` = 0 is the point at infinity. -/
structure JPoint where
  x : Nat
  y : Nat
  z : Nat
  deriving DecidableEq, Repr

/-- Double a point of the curve, whose constant a is -3. -/
def jDouble (q : JPoint) : JPoint :=
  let m := p384
  if q.z = 0 ∨ q.y = 0 then ⟨1, 1, 0⟩
  else
    let zz := q.z * q.z % m
    let yy := q.y * q.y % m
    let s := 4 * q.x * yy % m
    let l := 3 * (subMod m q.x zz) * ((q.x + zz) % m) % m
    let x := subMod m (l * l % m) (2 * s % m)
    ⟨x, subMod m (l * subMod m s x % m) (8 * yy * yy % m), 2 * q.y * q.z % m⟩

/-- Add two points. -/
def jAdd (q r : JPoint) : JPoint :=
  let m := p384
  if q.z = 0 then r
  else if r.z = 0 then q
  else
    let zq := q.z * q.z % m
    let zr := r.z * r.z % m
    let u1 := q.x * zr % m
    let u2 := r.x * zq % m
    let s1 := q.y * zr % m * r.z % m
    let s2 := r.y * zq % m * q.z % m
    if u1 = u2 then (if s1 = s2 then jDouble q else ⟨1, 1, 0⟩)
    else
      let h := subMod m u2 u1
      let t := subMod m s2 s1
      let hh := h * h % m
      let hhh := h * hh % m
      let v := u1 * hh % m
      let x := subMod m (subMod m (t * t % m) hhh) (2 * v % m)
      ⟨x, subMod m (t * subMod m v x % m) (s1 * hhh % m), q.z * r.z % m * h % m⟩

/-- A multiple of a point, over `n` bits of the scalar from its highest. -/
def jMul (q : JPoint) (k : Nat) : Nat → JPoint → JPoint
  | 0, r => r
  | n + 1, r => jMul q k n (if k.testBit n then jAdd (jDouble r) q else jDouble r)

/-- The affine coordinates of a point other than infinity. -/
def affine (q : JPoint) : Nat × Nat :=
  let i := invMod p384 q.z
  let ii := i * i % p384
  (q.x * ii % p384, q.y * ii % p384 * i % p384)

/-- A multiple of the base point. -/
def baseMul (k : Nat) : JPoint := jMul ⟨p384Gx, p384Gy, 1⟩ k 384 ⟨1, 1, 0⟩

/-- The coordinates are those of a point of the curve. -/
def onCurve (x y : Nat) : Bool :=
  decide (x < p384) && decide (y < p384) && y * y % p384 == (x * x * x + (p384 - 3) * x + p384B) % p384

/-- ECDSA P-384 verification: public key (x then y), digest, r, s. A key that is no point of the curve verifies nothing. -/
@[irreducible] def ecdsaVerify (pub digest r s : Nat) : Bool :=
  let qx := pub / 2 ^ 384
  let qy := pub % 2 ^ 384
  if r = 0 ∨ p384N ≤ r ∨ s = 0 ∨ p384N ≤ s ∨ onCurve qx qy = false then false
  else
    let w := invMod p384N s
    let pt := jAdd (baseMul (digest * w % p384N)) (jMul ⟨qx, qy, 1⟩ (r * w % p384N) 384 ⟨1, 1, 0⟩)
    pt.z != 0 && (affine pt).1 % p384N == r

/-- The secret scalar, from 1 to the order less 1, that a number names: a secret key or a per-message secret. -/
def secretScalar (k : Nat) : Nat := k % (p384N - 1) + 1

/-- ECDSA P-384 signing: secret key, digest, a random number that gives the per-message secret; r then s as one 96-byte
number. -/
@[irreducible] def ecdsaSign (key digest rand : Nat) : Nat :=
  let k := secretScalar rand
  let r := (affine (baseMul k)).1 % p384N
  let s := invMod p384N k * ((digest + r * secretScalar key) % p384N) % p384N
  r * 2 ^ 384 + s

/-- Public key of a secret key, x then y as one 96-byte number. -/
@[irreducible] def publicKey (key : Nat) : Nat :=
  let q := affine (baseMul (secretScalar key))
  q.1 * 2 ^ 384 + q.2

end Sys2Proof.Machine
end

