-- ==== Sys2Proof/Config.lean ====
section
/-!
DEFINITION. What the manual leaves open and what lies outside the part: free values and the fused
keys, each a constant without a body, so that no proof can see a value of it.
-/

namespace Sys2Proof.Config

/-- A fresh free value: applied to the state's `free` counter, for a value the manual leaves open (log 3). -/
opaque freeValue : Nat → Nat

/-- What the non-deterministic random generator of the security controller yields (R399, R462), by the state's `free` counter. -/
opaque random : Nat → Nat

/-- Contents of a store-room bucket not written since its module was powered (R520): power-up count, die, bucket. -/
opaque storeInit : Nat → Nat → Nat → BitVec 1024

/-- Whether the check code of such a bucket fails (R520). -/
opaque storeInitBad : Nat → Nat → Nat → Bool

/-- The device identity key derived from fuses at reset (R468): by Device Serial Number. -/
opaque identityKey : Nat → Nat

/-- The debug authority's public key, whose SHA-384 the fuses hold (R462): by that digest. -/
opaque debugKey : Nat → Nat

/-- The IDCODE value that comes with each part (R488). -/
opaque idcode : Nat

/-- From the BSDL file that comes with each part (R488): lengths of the instruction register and of the boundary-scan register, and
the public instruction (1 IDCODE, 2 SAMPLE/PRELOAD, 3 EXTEST, 4 CLAMP, 5 HIGHZ), non-public scan (6) or neither that a code selects. -/
opaque tapIrLen : Nat
opaque tapScanLen : Nat
opaque tapCode : Nat → Nat

/-- What a non-public scan instruction captures (R461), by its code. -/
opaque tapVendor : Nat → List Bool

end Sys2Proof.Config
end

