-- ==== Sys2Proof/Machine/RegMap.lean ====
section
/-!
DEFINITION. The register map (chapters 03 to 17, R497 to R507): every field of every register page, with its
place, access code (R13) and reset value, and the bit numbers of each page's ERR_STICKY register.
A field of a register that the manual numbers (REG0 to REGn) is a function of that number.
-/

namespace Sys2Proof.Machine

/-- Access codes of R13. Reserved bits have no field: they read 0 and writes to them are ignored. -/
inductive Acc
  | ro | rw | w1c | w1s | wo | rwl
  deriving DecidableEq, Repr

/-- A register field: page number (R444 block index; 21 is the ring-stop page), offset of its word in the
page, lowest bit, width, access code and reset value. -/
structure Fld where
  page : Nat
  off : Nat
  lo : Nat
  width : Nat
  acc : Acc
  rst : Nat
  deriving DecidableEq, Repr

/-- One register of a page: offset, number of consecutive copies, and its fields. -/
structure RegRow where
  off : Nat
  count : Nat
  fields : List Fld
  deriving DecidableEq, Repr

/-! ## Page numbers (R444, R499) -/
def pgPkg : Nat := 0
def pgAtc : Nat := 1
def pgUpd : Nat := 2
def pgSeq : Nat := 3
def pgThr : Nat := 4
def pgStr : Nat := 5
def pgCel : Nat := 6
def pgCch : Nat := 7
def pgLkp : Nat := 8
def pgCsc : Nat := 9
def pgArb : Nat := 10
def pgHif : Nat := 11
def pgMss : Nat := 12
def pgTim : Nat := 13
def pgEvd : Nat := 14
def pgPwr : Nat := 15
def pgClk : Nat := 16
def pgFlt : Nat := 17
def pgSec : Nat := 18
def pgDbg : Nat := 19
def pgBsq : Nat := 20
def pgRs : Nat := 21

/-! ## The page header (R442, R502) -/
def PAGE_CTL.LOCK (pg : Nat) : Fld := ⟨pg, 0xc, 31, 1, .w1s, 0⟩
def PAGE_CTL.INJ (pg : Nat) : Fld := ⟨pg, 0xc, 8, 1, .w1s, 0⟩
def PAGE_CTL.INJ_BIT (pg : Nat) : Fld := ⟨pg, 0xc, 0, 5, .rw, 0⟩
def ERR_STICKY.BITS (pg : Nat) : Fld := ⟨pg, 0x14, 0, 32, .w1c, 0⟩
def ERR_MASK.MASK (pg : Nat) : Fld := ⟨pg, 0x18, 0, 32, .rwl, 0⟩
def ERR_FIRST0.VALID (pg : Nat) : Fld := ⟨pg, 0x20, 31, 1, .w1c, 0⟩
def ERR_FIRST0.CLASS (pg : Nat) : Fld := ⟨pg, 0x20, 29, 2, .ro, 0⟩
def ERR_FIRST0.BIT (pg : Nat) : Fld := ⟨pg, 0x20, 24, 5, .ro, 0⟩
def ERR_FIRST0.ID (pg : Nat) : Fld := ⟨pg, 0x20, 16, 8, .ro, 0⟩
def ERR_FIRST1.STAMP (pg : Nat) : Fld := ⟨pg, 0x24, 0, 32, .ro, 0⟩
def ERR_FIRST2.DATA (pg : Nat) : Fld := ⟨pg, 0x28, 0, 32, .ro, 0⟩
def ERR_FIRST3.DATA (pg : Nat) : Fld := ⟨pg, 0x2c, 0, 32, .ro, 0⟩
def ERR_SECOND.VALID (pg : Nat) : Fld := ⟨pg, 0x30, 31, 1, .ro, 0⟩
def ERR_SECOND.CLASS (pg : Nat) : Fld := ⟨pg, 0x30, 29, 2, .ro, 0⟩
def ERR_SECOND.BIT (pg : Nat) : Fld := ⟨pg, 0x30, 24, 5, .ro, 0⟩
def ERR_SECOND.ESC (pg : Nat) : Fld := ⟨pg, 0x30, 23, 1, .ro, 0⟩
def ERR_SECOND.STAMP (pg : Nat) : Fld := ⟨pg, 0x30, 0, 23, .ro, 0⟩
def ERR_NEXT_CNT.CLR (pg : Nat) : Fld := ⟨pg, 0x34, 31, 1, .wo, 0⟩
def ERR_NEXT_CNT.COUNT (pg : Nat) : Fld := ⟨pg, 0x34, 0, 16, .ro, 0⟩

/-- ERR_SEV reset value of each page (R498). -/
def errSevReset (pg : Nat) : Nat :=
  ([0x98, 0x7010, 0x1410, 0x104, 0x5514, 0x514, 0x45c, 0x1500, 0x1040, 0x540, 0x40, 0x1100, 0x4, 0x410, 0x51, 0x56, 0x38, 0x54, 0xf1, 0x0, 0x20, 0x84].getD pg 0)
def ERR_SEV.SEV (pg : Nat) (i : Nat) : Fld := ⟨pg, 0x1c, 2 * i, 2, .rwl, errSevReset pg / 4 ^ i % 4⟩

/-- Block type code of each page (R498). -/
def pageType (pg : Nat) : Nat := if pg ≤ 21 then pg + 1 else 0

/-! ## ERR_STICKY bit numbers -/
-- attic page (R104)
def ATC_ERR.CORR : Nat := 0
def ATC_ERR.VFY : Nat := 1
def ATC_ERR.VFAIL : Nat := 2
def ATC_ERR.WIN_WR : Nat := 3
def ATC_ERR.DESC_WR : Nat := 4
def ATC_ERR.SUSQ_OVF : Nat := 5
def ATC_ERR.FENCE : Nat := 6
def ATC_ERR.WIN_UNC : Nat := 7
-- cascade page (R127)
def CSC_ERR.CRC : Nat := 0
def CSC_ERR.LANE_DROP : Nat := 1
def CSC_ERR.RETRAIN : Nat := 2
def CSC_ERR.LINK_DOWN : Nat := 3
def CSC_ERR.POS : Nat := 4
def CSC_ERR.FLIGHT : Nat := 5
def CSC_ERR.BAD_TYPE : Nat := 6
-- update-engine page (R170)
def UPD_ERR.SCRUB_CORR : Nat := 0
def UPD_ERR.SCRUB_REPAIR : Nat := 1
def UPD_ERR.SCRUB_LOST : Nat := 2
def UPD_ERR.REJECT : Nat := 3
def UPD_ERR.WIDE_SEQ : Nat := 4
def UPD_ERR.BULK_SRC : Nat := 5
def UPD_ERR.SPARE_LOST : Nat := 6
-- sequencer page (R210)
def SEQ_ERR.STORE_CORR : Nat := 0
def SEQ_ERR.STORE_UNC : Nat := 1
def SEQ_ERR.RECIPE_ERR : Nat := 2
def SEQ_ERR.STEP : Nat := 3
def SEQ_ERR.LOAD_REJ : Nat := 4
def SEQ_ERR.PRED_ECC : Nat := 5
-- thread page (R237)
def THR_ERR.SLICE_CORR : Nat := 0
def THR_ERR.SLICE_UNC : Nat := 1
def THR_ERR.FLTQ_OVF : Nat := 2
def THR_ERR.QUIESCE : Nat := 3
def THR_ERR.QSUP : Nat := 4
def THR_ERR.QKILL : Nat := 5
def THR_ERR.SUP_FAULT : Nat := 6
def THR_ERR.CFG_REJ : Nat := 7
-- debug page (R239)
def DBG_ERR.SLICE_WR : Nat := 0
def DBG_ERR.AUTO_REL : Nat := 1
def DBG_ERR.ABORTED : Nat := 2
-- store-room page (R277)
def STR_ERR.ECC_CORR : Nat := 0
def STR_ERR.ECC_UNC : Nat := 1
def STR_ERR.RGN_MIS : Nat := 2
def STR_ERR.SWR_REJ : Nat := 3
def STR_ERR.WR_CRC : Nat := 4
def STR_ERR.MOD_FAIL : Nat := 5
-- cellar page (R279)
def CEL_ERR.AUTH : Nat := 0
def CEL_ERR.AUTH_BURST : Nat := 1
def CEL_ERR.XLATE : Nat := 2
def CEL_ERR.CPL_ERR : Nat := 3
def CEL_ERR.KEY_LOAD : Nat := 4
def CEL_ERR.NOTICE_DROP : Nat := 5
def CEL_ERR.KEK_PCIE : Nat := 6
def CEL_ERR.DESC_WR : Nat := 7
-- bucket-cache page (R302)
def CCH_ERR.LINE_CORR : Nat := 0
def CCH_ERR.LINE_UNC : Nat := 1
def CCH_ERR.AUTO_DIS : Nat := 2
def CCH_ERR.REFUSED : Nat := 3
def CCH_ERR.MINWAY : Nat := 4
def CCH_ERR.MBUF_UNC : Nat := 5
def CCH_ERR.MBUF_LOST : Nat := 6
-- lookup-port page (R332)
def LKP_ERR.BURST_CRC : Nat := 0
def LKP_ERR.META_CRC : Nat := 1
def LKP_ERR.FMT : Nat := 2
def LKP_ERR.FC_VIOL : Nat := 3
def LKP_ERR.XOFF_GUAR : Nat := 4
def LKP_ERR.TRUNC : Nat := 5
def LKP_ERR.LANE_FAIL : Nat := 6
def LKP_ERR.CH_REJ : Nat := 7
-- arbiter page (R349)
def ARB_ERR.LOCK_CUT : Nat := 0
def ARB_ERR.COMMIT_REJ : Nat := 1
def ARB_ERR.STARVE : Nat := 2
def ARB_ERR.CFG_REJ : Nat := 3
-- host-interface page (R378)
def HIF_ERR.REG_ACC : Nat := 0
def HIF_ERR.PW_FMT : Nat := 1
def HIF_ERR.PW_UNMATCHED : Nat := 2
def HIF_ERR.DB_BAD : Nat := 3
def HIF_ERR.Q_FETCH : Nat := 4
def HIF_ERR.FLR : Nat := 5
def HIF_ERR.LINK_DOWN : Nat := 6
-- module-site page (R380)
def MSS_ERR.CMD_REJ : Nat := 0
def MSS_ERR.SURPRISE : Nat := 1
-- time page (R406)
def TIM_ERR.PPS_FAST : Nat := 0
def TIM_ERR.PPS_MISS : Nat := 1
def TIM_ERR.PPS_STUCK : Nat := 2
def TIM_ERR.STEP : Nat := 3
def TIM_ERR.CONT_LOST : Nat := 4
def TIM_ERR.HOLD_EXP : Nat := 5
-- evidence page (R408)
def EVD_ERR.LOST : Nat := 0
def EVD_ERR.CP_SKIP : Nat := 1
def EVD_ERR.TGT_FAIL : Nat := 2
def EVD_ERR.ZEROIZED : Nat := 3
-- power page (R435)
def PWR_ERR.WAKE_FAIL : Nat := 0
def PWR_ERR.WAY_WAKE_FAIL : Nat := 1
def PWR_ERR.GOV_SHORT : Nat := 2
def PWR_ERR.HATCH_FAIL : Nat := 3
-- clock page (R437)
def CLK_ERR.REF_SEL : Nat := 0
def CLK_ERR.LOCK_LOSS : Nat := 1
def CLK_ERR.REF_MON : Nat := 2
-- fault page (R470)
def FLT_ERR.ERST : Nat := 0
def FLT_ERR.SUP_ESC : Nat := 1
def FLT_ERR.GR_MIS : Nat := 2
def FLT_ERR.GR_VEC : Nat := 3
-- security page (R472)
def SEC_ERR.IMG_REJ : Nat := 0
def SEC_ERR.DBG_FAIL : Nat := 1
def SEC_ERR.ZEROIZED : Nat := 2
def SEC_ERR.ALARM : Nat := 3
-- self-qualification page (R496)
def BSQ_ERR.REPAIR : Nat := 0
def BSQ_ERR.WAY_FAIL : Nat := 1
def BSQ_ERR.FAIL : Nat := 2
-- package page (R505)
def PKG_ERR.PAIR_MIS : Nat := 0
def PKG_ERR.PAIR_SOLO : Nat := 1
def PKG_ERR.PIN_STUCK : Nat := 2
def PKG_ERR.DIE_DOWN : Nat := 3
-- ring-stop page (R506)
def RS_ERR.FLIT_CORR : Nat := 0
def RS_ERR.FLIT_UNC : Nat := 1
def RS_ERR.PATH_SWITCH : Nat := 2
def RS_ERR.PATH_FAIL : Nat := 3

/-- Number of ERR_STICKY bits a page defines; higher bits are reserved. -/
def errBits (pg : Nat) : Nat :=
  ([4, 8, 7, 6, 8, 6, 8, 7, 8, 7, 4, 7, 2, 6, 4, 4, 3, 4, 4, 3, 3, 4].getD pg 0)

/-! ## The PKG page -/
-- PKG_BOOT (R494)
def PKG_BOOT.SVC : Fld := ⟨0, 0x80, 31, 1, .w1s, 0⟩
def PKG_BOOT.SLOT : Fld := ⟨0, 0x80, 28, 2, .ro, 0⟩
def PKG_BOOT.DIE_UP : Fld := ⟨0, 0x80, 16, 8, .ro, 0⟩
def PKG_BOOT.SMB_ADDR : Fld := ⟨0, 0x80, 6, 3, .ro, 0⟩
def PKG_BOOT.BOOT_SRC : Fld := ⟨0, 0x80, 2, 2, .ro, 0⟩
def PKG_BOOT.CASC_POS : Fld := ⟨0, 0x80, 0, 2, .ro, 0⟩
-- PKG_IMG_CMD (R494)
def PKG_IMG_CMD.GO : Fld := ⟨0, 0x84, 31, 1, .w1s, 0⟩
def PKG_IMG_CMD.STATE : Fld := ⟨0, 0x84, 28, 3, .ro, 0⟩
-- PKG_IMG_LO (R494)
def PKG_IMG_LO.ADDR : Fld := ⟨0, 0x88, 0, 32, .rw, 0⟩
-- PKG_IMG_HI (R494)
def PKG_IMG_HI.ADDR : Fld := ⟨0, 0x8c, 0, 32, .rw, 0⟩
-- PKG_DSN_LO (R505)
def PKG_DSN_LO.DSN : Fld := ⟨0, 0x90, 0, 32, .ro, 0⟩
-- PKG_DSN_HI (R505)
def PKG_DSN_HI.DSN : Fld := ⟨0, 0x94, 0, 32, .ro, 0⟩
-- PKG_PAIR_STS (R134)
def PKG_PAIR_STS.PAIR (p : Nat) : Fld := ⟨0, 0xc0, 4 * p, 4, .ro, 0⟩
-- PKG_PAIR_CTL (R134)
def PKG_PAIR_CTL.RETURN : Fld := ⟨0, 0xc4, 12, 4, .w1s, 0⟩
def PKG_PAIR_CTL.FENCE_ODD : Fld := ⟨0, 0xc4, 8, 4, .w1s, 0⟩
def PKG_PAIR_CTL.FENCE_EVEN : Fld := ⟨0, 0xc4, 4, 4, .w1s, 0⟩
def PKG_PAIR_CTL.REJOIN : Fld := ⟨0, 0xc4, 0, 4, .w1s, 0⟩
-- PKG_PAIR_MIS (R134)
def PKG_PAIR_MIS.MIS : Fld := ⟨0, 0xc8, 0, 32, .ro, 0⟩
-- PKG_PAIR_SYNC (R134)
def PKG_PAIR_SYNC.BUSY : Fld := ⟨0, 0xcc, 31, 1, .ro, 0⟩
def PKG_PAIR_SYNC.ROWS : Fld := ⟨0, 0xcc, 0, 21, .ro, 0⟩

/-! ## The ATC page -/
-- ATC_THROTTLE (R103)
def ATC_THROTTLE.FENCED : Fld := ⟨1, 0x80, 31, 1, .w1c, 0⟩
def ATC_THROTTLE.SHORT : Fld := ⟨1, 0x80, 30, 1, .ro, 0⟩
def ATC_THROTTLE.TEMP : Fld := ⟨1, 0x80, 20, 8, .ro, 0⟩
def ATC_THROTTLE.GOV : Fld := ⟨1, 0x80, 16, 1, .ro, 0⟩
def ATC_THROTTLE.BLANKED : Fld := ⟨1, 0x80, 8, 6, .ro, 0⟩
def ATC_THROTTLE.T_LEVEL : Fld := ⟨1, 0x80, 0, 3, .ro, 0⟩
-- ATC_GSLOT (R103)
def ATC_GSLOT.G_KEPT : Fld := ⟨1, 0x84, 16, 6, .ro, 0⟩
def ATC_GSLOT.G_RES : Fld := ⟨1, 0x84, 0, 6, .ro, 0⟩
-- ATC_VFY_CNT (R103)
def ATC_VFY_CNT.VFY : Fld := ⟨1, 0x88, 0, 32, .ro, 0⟩
-- ATC_VFAIL_CNT (R103)
def ATC_VFAIL_CNT.VFAIL : Fld := ⟨1, 0x8c, 0, 32, .ro, 0⟩
-- ATC_SUSQ (R103)
def ATC_SUSQ.DEPTH : Fld := ⟨1, 0x90, 16, 5, .ro, 0⟩
def ATC_SUSQ.DROPS : Fld := ⟨1, 0x90, 0, 16, .ro, 0⟩
-- ATC_LAUNCH_LO (R103)
def ATC_LAUNCH_LO.LAUNCH_LO : Fld := ⟨1, 0x94, 0, 32, .ro, 0⟩
-- ATC_LAUNCH_HI (R103)
def ATC_LAUNCH_HI.LAUNCH_HI : Fld := ⟨1, 0x98, 0, 16, .ro, 0⟩
-- ATC_SEL_IDX (R103)
def ATC_SEL_IDX.CLR : Fld := ⟨1, 0xa0, 31, 1, .wo, 0⟩
def ATC_SEL_IDX.PART : Fld := ⟨1, 0xa0, 0, 8, .rw, 0⟩
-- ATC_SEL_SRCH_LO (R103)
def ATC_SEL_SRCH_LO.SRCH : Fld := ⟨1, 0xa4, 0, 32, .ro, 0⟩
-- ATC_SEL_SRCH_HI (R103)
def ATC_SEL_SRCH_HI.SRCH : Fld := ⟨1, 0xa8, 0, 16, .ro, 0⟩
-- ATC_SEL_SHELF_LO (R103)
def ATC_SEL_SHELF_LO.SHELF : Fld := ⟨1, 0xac, 0, 32, .ro, 0⟩
-- ATC_SEL_SHELF_HI (R103)
def ATC_SEL_SHELF_HI.SHELF : Fld := ⟨1, 0xb0, 0, 16, .ro, 0⟩
-- ATC_SEL_OWNED (R103)
def ATC_SEL_OWNED.OWNED : Fld := ⟨1, 0xb4, 0, 11, .ro, 0⟩
-- ATC_LOAD (R103)
def ATC_LOAD.CODE : Fld := ⟨1, 0xb8, 24, 8, .ro, 0⟩
def ATC_LOAD.DIE : Fld := ⟨1, 0xb8, 16, 3, .ro, 0⟩
def ATC_LOAD.RGN : Fld := ⟨1, 0xb8, 8, 1, .ro, 0⟩
def ATC_LOAD.INDEX : Fld := ⟨1, 0xb8, 0, 8, .ro, 0⟩
-- ATC_WIN_BASE (R507)
def ATC_WIN_BASE.BANK : Fld := ⟨1, 0xc0, 3, 4, .rw, 0⟩
def ATC_WIN_BASE.SGRP : Fld := ⟨1, 0xc0, 0, 3, .rw, 0⟩

/-! ## The UPD page -/
-- UPD_CTL (R169)
def UPD_CTL.COMMIT_EN : Fld := ⟨2, 0x80, 5, 1, .rw, 0⟩
def UPD_CTL.LKP_EN : Fld := ⟨2, 0x80, 4, 1, .rw, 0⟩
def UPD_CTL.PEER_EN : Fld := ⟨2, 0x80, 3, 1, .rw, 0⟩
def UPD_CTL.HOLD : Fld := ⟨2, 0x80, 2, 1, .rw, 0⟩
def UPD_CTL.SCRUB_EN : Fld := ⟨2, 0x80, 1, 1, .rw, 0⟩
def UPD_CTL.EN : Fld := ⟨2, 0x80, 0, 1, .rw, 0⟩
-- UPD_STS (R169)
def UPD_STS.BUSY : Fld := ⟨2, 0x84, 31, 1, .ro, 0⟩
def UPD_STS.BULK : Fld := ⟨2, 0x84, 30, 1, .ro, 0⟩
def UPD_STS.SPARE : Fld := ⟨2, 0x84, 29, 1, .ro, 0⟩
def UPD_STS.COMPACT : Fld := ⟨2, 0x84, 28, 1, .ro, 0⟩
def UPD_STS.INFLIGHT : Fld := ⟨2, 0x84, 0, 10, .ro, 0⟩
-- UPD_SCRUB (R169)
def UPD_SCRUB.INTERVAL : Fld := ⟨2, 0x88, 0, 16, .rw, 1500⟩
-- UPD_SCRUB_POS (R169)
def UPD_SCRUB_POS.SWEEPS : Fld := ⟨2, 0x8c, 28, 4, .ro, 0⟩
def UPD_SCRUB_POS.POS : Fld := ⟨2, 0x8c, 0, 25, .ro, 0⟩
-- UPD_SCRUB_CNT (R169)
def UPD_SCRUB_CNT.REPAIRED : Fld := ⟨2, 0x90, 16, 16, .ro, 0⟩
def UPD_SCRUB_CNT.CORRECTED : Fld := ⟨2, 0x90, 0, 16, .ro, 0⟩
-- UPD_DONE (R169)
def UPD_DONE.DONE : Fld := ⟨2, 0x94, 0, 32, .ro, 0⟩
-- UPD_REJ (R169)
def UPD_REJ.LAST : Fld := ⟨2, 0x98, 24, 8, .ro, 0⟩
def UPD_REJ.COUNT : Fld := ⟨2, 0x98, 0, 24, .ro, 0⟩
-- UPD_MOVES (R169)
def UPD_MOVES.MOVES : Fld := ⟨2, 0x9c, 0, 32, .ro, 0⟩
-- UPD_BULK (R169)
def UPD_BULK.SKIPPED : Fld := ⟨2, 0xa0, 25, 7, .ro, 0⟩
def UPD_BULK.LOADED : Fld := ⟨2, 0xa0, 0, 25, .ro, 0⟩
-- UPD_SPARE_MAP (R169)
def UPD_SPARE_MAP.USED (i : Nat) : Fld := ⟨2, 0xb0 + 4 * (i / 4), 8 * (i % 4) + 7, 1, .ro, 0⟩
def UPD_SPARE_MAP.SHELF (i : Nat) : Fld := ⟨2, 0xb0 + 4 * (i / 4), 8 * (i % 4) + 0, 6, .ro, 0⟩

/-! ## The SEQ page -/
-- SEQ_CTL (R209)
def SEQ_CTL.PRED_CLR : Fld := ⟨3, 0x80, 17, 1, .w1s, 0⟩
def SEQ_CTL.RA_EN : Fld := ⟨3, 0x80, 16, 1, .rw, 1⟩
def SEQ_CTL.STEP_MAX : Fld := ⟨3, 0x80, 0, 16, .rw, 4096⟩
-- SEQ_STS (R209)
def SEQ_STS.LOADED : Fld := ⟨3, 0x84, 31, 1, .ro, 0⟩
def SEQ_STS.ENTRIES : Fld := ⟨3, 0x84, 16, 9, .ro, 0⟩
def SEQ_STS.STEPS : Fld := ⟨3, 0x84, 0, 9, .ro, 0⟩
-- SEQ_LOAD (R209)
def SEQ_LOAD.CODE : Fld := ⟨3, 0x88, 24, 8, .ro, 0⟩
def SEQ_LOAD.ENTRY : Fld := ⟨3, 0x88, 14, 8, .ro, 0⟩
def SEQ_LOAD.ADDR : Fld := ⟨3, 0x88, 0, 14, .ro, 0⟩
-- SEQ_INSTR_LO (R209)
def SEQ_INSTR_LO.INSTR : Fld := ⟨3, 0x8c, 0, 32, .ro, 0⟩
-- SEQ_INSTR_HI (R209)
def SEQ_INSTR_HI.INSTR : Fld := ⟨3, 0x90, 0, 16, .ro, 0⟩
-- SEQ_RERR (R209)
def SEQ_RERR.LAST : Fld := ⟨3, 0x94, 24, 8, .ro, 0⟩
def SEQ_RERR.COUNT : Fld := ⟨3, 0x94, 0, 24, .ro, 0⟩
-- SEQ_STEP_IDX (R209)
def SEQ_STEP_IDX.CLR : Fld := ⟨3, 0xa0, 31, 1, .wo, 0⟩
def SEQ_STEP_IDX.STEP : Fld := ⟨3, 0xa0, 0, 8, .rw, 0⟩
-- SEQ_STEP_ADDR (R209)
def SEQ_STEP_ADDR.PAR : Fld := ⟨3, 0xa4, 31, 1, .ro, 0⟩
def SEQ_STEP_ADDR.CONF : Fld := ⟨3, 0xa4, 28, 2, .ro, 0⟩
def SEQ_STEP_ADDR.ADDR : Fld := ⟨3, 0xa4, 0, 14, .ro, 0⟩
-- SEQ_STEP_ISSUE (R209)
def SEQ_STEP_ISSUE.COUNT : Fld := ⟨3, 0xa8, 0, 32, .ro, 0⟩
-- SEQ_STEP_USE (R209)
def SEQ_STEP_USE.COUNT : Fld := ⟨3, 0xac, 0, 32, .ro, 0⟩
-- SEQ_STEP_SQUASH (R209)
def SEQ_STEP_SQUASH.COUNT : Fld := ⟨3, 0xb0, 0, 32, .ro, 0⟩
-- SEQ_ENTRY (R209)
def SEQ_ENTRY.VALID (i : Nat) : Fld := ⟨3, 0x400 + 4 * i, 31, 1, .ro, 0⟩
def SEQ_ENTRY.FIXED (i : Nat) : Fld := ⟨3, 0x400 + 4 * i, 30, 1, .ro, 0⟩
def SEQ_ENTRY.START (i : Nat) : Fld := ⟨3, 0x400 + 4 * i, 16, 14, .ro, 0⟩
def SEQ_ENTRY.BUDGET (i : Nat) : Fld := ⟨3, 0x400 + 4 * i, 0, 16, .ro, 0⟩

/-! ## The THR page -/
-- THR_CTL (R236)
def THR_CTL.QUIESCE_EN : Fld := ⟨4, 0x80, 1, 1, .rw, 1⟩
def THR_CTL.FAULT_HOLD : Fld := ⟨4, 0x80, 0, 1, .rw, 0⟩
-- THR_POOL (R236)
def THR_POOL.FREE : Fld := ⟨4, 0x84, 16, 9, .ro, 383⟩
def THR_POOL.OUTST : Fld := ⟨4, 0x84, 0, 9, .ro, 0⟩
-- THR_FORK_TMO (R236)
def THR_FORK_TMO.TMO : Fld := ⟨4, 0x88, 0, 24, .rw, 1500⟩
-- THR_EVT_TMO (R236)
def THR_EVT_TMO.TMO : Fld := ⟨4, 0x8c, 0, 24, .rw, 0⟩
-- THR_QUIESCE (R236)
def THR_QUIESCE.TIMEOUT : Fld := ⟨4, 0x90, 0, 24, .rw, 75000⟩
-- THR_QUIESCE_KILL (R236)
def THR_QUIESCE_KILL.KILL : Fld := ⟨4, 0x94, 0, 24, .rw, 750000⟩
-- THR_SUP (R236)
def THR_SUP.LEVEL : Fld := ⟨4, 0x98, 8, 4, .rw, 15⟩
def THR_SUP.ENTRY : Fld := ⟨4, 0x98, 0, 8, .rw, 0⟩
-- THR_FLTQ_STS (R236)
def THR_FLTQ_STS.DEPTH : Fld := ⟨4, 0x9c, 16, 6, .ro, 0⟩
def THR_FLTQ_STS.DROPS : Fld := ⟨4, 0x9c, 0, 16, .ro, 0⟩
-- THR_FLTQ_LAST (R236)
def THR_FLTQ_LAST.WORD (i : Nat) : Fld := ⟨4, 0xa0 + 4 * i, 0, 32, .ro, 0⟩
-- THR_FAULT_CNT (R236)
def THR_FAULT_CNT.ORPHANS : Fld := ⟨4, 0xb0, 16, 16, .ro, 0⟩
def THR_FAULT_CNT.FAULTS : Fld := ⟨4, 0xb0, 0, 16, .ro, 0⟩
-- THR_QUIESCE_CNT (R236)
def THR_QUIESCE_CNT.KILLS : Fld := ⟨4, 0xb4, 16, 16, .ro, 0⟩
def THR_QUIESCE_CNT.FIRES : Fld := ⟨4, 0xb4, 0, 16, .ro, 0⟩
-- THR_REL (R236)
def THR_REL.THREAD : Fld := ⟨4, 0xb8, 0, 9, .wo, 0⟩
-- THR_ADMIT_FAIL (R236)
def THR_ADMIT_FAIL.FAILS : Fld := ⟨4, 0xbc, 0, 32, .ro, 0⟩
-- THR_GRP_CFG (R236)
def THR_GRP_CFG.CLASS (i : Nat) : Fld := ⟨4, 0x100 + 4 * i, 31, 1, .rwl, 0⟩
def THR_GRP_CFG.LEVEL (i : Nat) : Fld := ⟨4, 0x100 + 4 * i, 24, 4, .rwl, 0⟩
def THR_GRP_CFG.RESV (i : Nat) : Fld := ⟨4, 0x100 + 4 * i, 12, 9, .rwl, 0⟩
def THR_GRP_CFG.MAX (i : Nat) : Fld := ⟨4, 0x100 + 4 * i, 0, 9, .rwl, 0⟩
-- THR_GRP_USE (R236)
def THR_GRP_USE.USED (i : Nat) : Fld := ⟨4, 0x140 + 4 * i, 16, 9, .ro, 0⟩
def THR_GRP_USE.CHILD (i : Nat) : Fld := ⟨4, 0x140 + 4 * i, 0, 9, .ro, 0⟩
-- THR_SLOT (R236)
def THR_SLOT.RES (i : Nat) : Fld := ⟨4, 0x180 + 4 * (i / 4), 8 * (i % 4) + 7, 1, .rwl, 0⟩
def THR_SLOT.GROUP (i : Nat) : Fld := ⟨4, 0x180 + 4 * (i / 4), 8 * (i % 4) + 0, 4, .rwl, 0⟩
-- THR_EVT (R236)
def THR_EVT.DROPPED (i : Nat) : Fld := ⟨4, 0x200 + 4 * i, 24, 8, .ro, 0⟩
def THR_EVT.HELD (i : Nat) : Fld := ⟨4, 0x200 + 4 * i, 23, 1, .ro, 0⟩
def THR_EVT.HOLDER (i : Nat) : Fld := ⟨4, 0x200 + 4 * i, 14, 9, .ro, 0⟩
def THR_EVT.DEPTH (i : Nat) : Fld := ⟨4, 0x200 + 4 * i, 10, 4, .ro, 0⟩
def THR_EVT.WAITERS (i : Nat) : Fld := ⟨4, 0x200 + 4 * i, 0, 9, .ro, 0⟩

/-! ## The STR page -/
-- STR_CTL (R276)
def STR_CTL.SPEED : Fld := ⟨5, 0x80, 4, 2, .rw, 0⟩
def STR_CTL.SWR_EN : Fld := ⟨5, 0x80, 2, 1, .rw, 0⟩
def STR_CTL.SCRUB_EN : Fld := ⟨5, 0x80, 1, 1, .rw, 0⟩
def STR_CTL.EN : Fld := ⟨5, 0x80, 0, 1, .rw, 0⟩
-- STR_STS (R276)
def STR_STS.READY : Fld := ⟨5, 0x84, 31, 1, .ro, 0⟩
def STR_STS.FAILED : Fld := ⟨5, 0x84, 30, 1, .ro, 0⟩
def STR_STS.SYNC : Fld := ⟨5, 0x84, 29, 1, .ro, 0⟩
def STR_STS.SIZE : Fld := ⟨5, 0x84, 0, 8, .ro, 0⟩
-- STR_SCRUB (R276)
def STR_SCRUB.INTERVAL : Fld := ⟨5, 0x88, 0, 24, .rw, 120000⟩
-- STR_SCRUB_POS (R276)
def STR_SCRUB_POS.POS : Fld := ⟨5, 0x8c, 0, 29, .ro, 0⟩
-- STR_PROBE (R276)
def STR_PROBE.COUNT : Fld := ⟨5, 0x90, 0, 32, .ro, 0⟩
-- STR_PMISS (R276)
def STR_PMISS.COUNT : Fld := ⟨5, 0x94, 0, 32, .ro, 0⟩
-- STR_PROMO (R276)
def STR_PROMO.COUNT : Fld := ⟨5, 0x98, 0, 32, .ro, 0⟩
-- STR_PROMO_SKIP (R276)
def STR_PROMO_SKIP.FULL : Fld := ⟨5, 0x9c, 16, 16, .ro, 0⟩
def STR_PROMO_SKIP.STALE : Fld := ⟨5, 0x9c, 0, 16, .ro, 0⟩
-- STR_SWR_DONE (R276)
def STR_SWR_DONE.DONE : Fld := ⟨5, 0xa0, 0, 32, .ro, 0⟩
-- STR_SWR_REJ (R276)
def STR_SWR_REJ.LAST : Fld := ⟨5, 0xa4, 24, 8, .ro, 0⟩
def STR_SWR_REJ.COUNT : Fld := ⟨5, 0xa4, 0, 24, .ro, 0⟩
-- STR_ECC (R276)
def STR_ECC.UNC : Fld := ⟨5, 0xa8, 16, 16, .ro, 0⟩
def STR_ECC.CORR : Fld := ⟨5, 0xa8, 0, 16, .ro, 0⟩
-- STR_FL_MAX (R276)
def STR_FL_MAX.CLR : Fld := ⟨5, 0xac, 31, 1, .wo, 0⟩
def STR_FL_MAX.MAX : Fld := ⟨5, 0xac, 0, 10, .ro, 0⟩
-- STR_SYNC (R276)
def STR_SYNC.BUSY : Fld := ⟨5, 0xb0, 31, 1, .ro, 0⟩
def STR_SYNC.DONE : Fld := ⟨5, 0xb0, 0, 30, .ro, 0⟩
-- STR_UNC_LAST (R276)
def STR_UNC_LAST.VALID : Fld := ⟨5, 0xb4, 31, 1, .w1c, 0⟩
def STR_UNC_LAST.BUCKET : Fld := ⟨5, 0xb4, 0, 29, .ro, 0⟩
-- STR_WIN_BASE (R507)
def STR_WIN_BASE.BASE : Fld := ⟨5, 0xc0, 0, 16, .rw, 0⟩

/-! ## The CEL page -/
-- CEL_CTL (R278)
def CEL_CTL.EN : Fld := ⟨6, 0x80, 0, 1, .rw, 0⟩
-- CEL_STS (R278)
def CEL_STS.ONLINE : Fld := ⟨6, 0x84, 31, 1, .ro, 0⟩
def CEL_STS.CAUSE : Fld := ⟨6, 0x84, 28, 3, .ro, 1⟩
def CEL_STS.KEK : Fld := ⟨6, 0x84, 27, 1, .ro, 0⟩
def CEL_STS.OUTST : Fld := ⟨6, 0x84, 0, 13, .ro, 0⟩
-- CEL_RGN_ON (R278)
def CEL_RGN_ON.OFF : Fld := ⟨6, 0x88, 8, 1, .wo, 0⟩
def CEL_RGN_ON.REGION : Fld := ⟨6, 0x88, 0, 8, .wo, 0⟩
-- CEL_OFF (R278)
def CEL_OFF.OFF (i : Nat) : Fld := ⟨6, 0x90 + 4 * i, 0, 32, .ro, 4294967295⟩
-- CEL_KEK (R278)
def CEL_KEK.KEK (i : Nat) : Fld := ⟨6, 0xc0 + 4 * i, 0, 32, .wo, 0⟩
-- CEL_KBLOB (R278)
def CEL_KBLOB.BLOB (i : Nat) : Fld := ⟨6, 0xe0 + 4 * i, 0, 32, .wo, 0⟩
-- CEL_KCMD (R278)
def CEL_KCMD.GO : Fld := ⟨6, 0x120, 31, 1, .w1s, 0⟩
def CEL_KCMD.STATUS : Fld := ⟨6, 0x120, 28, 3, .ro, 0⟩
def CEL_KCMD.OP : Fld := ⟨6, 0x120, 8, 2, .rw, 0⟩
def CEL_KCMD.SLOT : Fld := ⟨6, 0x120, 0, 8, .rw, 0⟩
-- CEL_KVALID (R278)
def CEL_KVALID.VALID (i : Nat) : Fld := ⟨6, 0x124 + 4 * i, 0, 32, .ro, 0⟩
-- CEL_WBUF (R278)
def CEL_WBUF.DATA (i : Nat) : Fld := ⟨6, 0x180 + 4 * i, 0, 32, .wo, 0⟩
-- CEL_WCMD (R278)
def CEL_WCMD.GO : Fld := ⟨6, 0x200, 31, 1, .w1s, 0⟩
def CEL_WCMD.STATUS : Fld := ⟨6, 0x200, 28, 3, .ro, 0⟩
def CEL_WCMD.REGION : Fld := ⟨6, 0x200, 0, 8, .rw, 0⟩
-- CEL_WIDX (R278)
def CEL_WIDX.INDEX : Fld := ⟨6, 0x204, 0, 32, .rw, 0⟩
-- CEL_AUTH (R278)
def CEL_AUTH.THR : Fld := ⟨6, 0x208, 16, 16, .rwl, 16⟩
def CEL_AUTH.WIN : Fld := ⟨6, 0x208, 0, 16, .rwl, 1000⟩
-- CEL_AUTH_CNT (R278)
def CEL_AUTH_CNT.COUNT : Fld := ⟨6, 0x20c, 0, 32, .ro, 0⟩
-- CEL_FETCH (R278)
def CEL_FETCH.COUNT : Fld := ⟨6, 0x210, 0, 32, .ro, 0⟩
-- CEL_DEFER (R278)
def CEL_DEFER.DEFERRED : Fld := ⟨6, 0x214, 16, 16, .ro, 0⟩
def CEL_DEFER.NDROP : Fld := ⟨6, 0x214, 0, 16, .ro, 0⟩
-- CEL_NTMO (R278)
def CEL_NTMO.TMO : Fld := ⟨6, 0x218, 0, 16, .rw, 1000⟩

/-! ## The CCH page -/
-- CCH_CTL (R301)
def CCH_CTL.AUTO_EN : Fld := ⟨7, 0x80, 1, 1, .rw, 1⟩
def CCH_CTL.EN : Fld := ⟨7, 0x80, 0, 1, .rw, 0⟩
-- CCH_WAYS (R301)
def CCH_WAYS.LOCK : Fld := ⟨7, 0x84, 16, 16, .rw, 0⟩
def CCH_WAYS.EN : Fld := ⟨7, 0x84, 0, 16, .rw, 65535⟩
-- CCH_WAY_STS (R301)
def CCH_WAY_STS.FAILED : Fld := ⟨7, 0x88, 16, 16, .w1c, 0⟩
def CCH_WAY_STS.CLEANING : Fld := ⟨7, 0x88, 0, 16, .ro, 0⟩
-- CCH_AUTO (R301)
def CCH_AUTO.WIN : Fld := ⟨7, 0x8c, 16, 16, .rw, 1000⟩
def CCH_AUTO.CE_THR : Fld := ⟨7, 0x8c, 0, 8, .rw, 8⟩
-- CCH_LFSR (R301)
def CCH_LFSR.STATE : Fld := ⟨7, 0x90, 0, 16, .rw, 44257⟩
-- CCH_FILL (R301)
def CCH_FILL.G_RES : Fld := ⟨7, 0x94, 24, 6, .rwl, 32⟩
def CCH_FILL.INUSE : Fld := ⟨7, 0x94, 0, 7, .ro, 0⟩
-- CCH_MBUF (R301)
def CCH_MBUF.AGE : Fld := ⟨7, 0x98, 16, 16, .rw, 64⟩
def CCH_MBUF.LOST : Fld := ⟨7, 0x98, 8, 8, .ro, 0⟩
def CCH_MBUF.DEPTH : Fld := ⟨7, 0x98, 0, 7, .ro, 0⟩
-- CCH_PRE_BASE (R301)
def CCH_PRE_BASE.LINE : Fld := ⟨7, 0x9c, 0, 29, .rw, 0⟩
-- CCH_PRE_CMD (R301)
def CCH_PRE_CMD.GO : Fld := ⟨7, 0xa0, 31, 1, .w1s, 0⟩
def CCH_PRE_CMD.STATUS : Fld := ⟨7, 0xa0, 28, 3, .ro, 0⟩
def CCH_PRE_CMD.LOCK : Fld := ⟨7, 0xa0, 24, 1, .rw, 0⟩
def CCH_PRE_CMD.WAY : Fld := ⟨7, 0xa0, 20, 4, .rw, 0⟩
def CCH_PRE_CMD.COUNT : Fld := ⟨7, 0xa0, 0, 13, .rw, 0⟩
-- CCH_INV_BASE (R301)
def CCH_INV_BASE.LINE : Fld := ⟨7, 0xa4, 0, 29, .rw, 0⟩
-- CCH_INV_CMD (R301)
def CCH_INV_CMD.GO : Fld := ⟨7, 0xa8, 31, 1, .w1s, 0⟩
def CCH_INV_CMD.COUNT : Fld := ⟨7, 0xa8, 0, 29, .rw, 0⟩
-- CCH_PWR_SEL (R301)
def CCH_PWR_SEL.WAY : Fld := ⟨7, 0xac, 0, 4, .rw, 0⟩
-- CCH_LOOKUP (R301)
def CCH_LOOKUP.COUNT : Fld := ⟨7, 0xb0, 0, 32, .ro, 0⟩
-- CCH_HIT (R301)
def CCH_HIT.COUNT : Fld := ⟨7, 0xb4, 0, 32, .ro, 0⟩
-- CCH_MBHIT (R301)
def CCH_MBHIT.COUNT : Fld := ⟨7, 0xb8, 0, 32, .ro, 0⟩
-- CCH_JOIN (R301)
def CCH_JOIN.COUNT : Fld := ⟨7, 0xbc, 0, 32, .ro, 0⟩
-- CCH_VHOLD (R301)
def CCH_VHOLD.COUNT : Fld := ⟨7, 0xc0, 0, 32, .ro, 0⟩
-- CCH_VWAIT (R301)
def CCH_VWAIT.COUNT : Fld := ⟨7, 0xc4, 0, 32, .ro, 0⟩
-- CCH_REFRESH (R301)
def CCH_REFRESH.COUNT : Fld := ⟨7, 0xc8, 0, 32, .ro, 0⟩
-- CCH_REFUSE (R301)
def CCH_REFUSE.COUNT : Fld := ⟨7, 0xcc, 0, 16, .ro, 0⟩
-- CCH_BLOCK_MAX (R301)
def CCH_BLOCK_MAX.CLR : Fld := ⟨7, 0xd0, 31, 1, .wo, 0⟩
def CCH_BLOCK_MAX.MAX : Fld := ⟨7, 0xd0, 0, 5, .ro, 0⟩
-- CCH_WAY_ERR (R301)
def CCH_WAY_ERR.UNC (i : Nat) : Fld := ⟨7, 0x100 + 4 * i, 16, 16, .ro, 0⟩
def CCH_WAY_ERR.CE (i : Nat) : Fld := ⟨7, 0x100 + 4 * i, 0, 16, .ro, 0⟩

/-! ## The LKP page -/
-- LKP_IF_CFG (R331)
def LKP_IF_CFG.RATE : Fld := ⟨8, 0x80, 6, 2, .rwl, 0⟩
def LKP_IF_CFG.MODE : Fld := ⟨8, 0x80, 4, 2, .rwl, 0⟩
def LKP_IF_CFG.EN : Fld := ⟨8, 0x80, 0, 3, .rwl, 0⟩
-- LKP_IF_STS (R331)
def LKP_IF_STS.STATE (j : Nat) : Fld := ⟨8, 0x84, 8 * j + 6, 2, .ro, 0⟩
def LKP_IF_STS.LANES (j : Nat) : Fld := ⟨8, 0x84, 8 * j, 6, .ro, 0⟩
-- LKP_FC (R331)
def LKP_FC.RQ_TH : Fld := ⟨8, 0x88, 16, 8, .rw, 48⟩
def LKP_FC.IQ_TH : Fld := ⟨8, 0x88, 8, 8, .rw, 16⟩
def LKP_FC.SKID : Fld := ⟨8, 0x88, 0, 8, .rw, 8⟩
-- LKP_REQ (R331)
def LKP_REQ.COUNT : Fld := ⟨8, 0x8c, 0, 32, .ro, 0⟩
-- LKP_RSP (R331)
def LKP_RSP.COUNT : Fld := ⟨8, 0x90, 0, 32, .ro, 0⟩
-- LKP_OVL (R331)
def LKP_OVL.COUNT : Fld := ⟨8, 0x94, 0, 32, .ro, 0⟩
-- LKP_FMT (R331)
def LKP_FMT.LAST : Fld := ⟨8, 0x98, 24, 8, .ro, 0⟩
def LKP_FMT.COUNT : Fld := ⟨8, 0x98, 0, 24, .ro, 0⟩
-- LKP_CRC (R331)
def LKP_CRC.META : Fld := ⟨8, 0x9c, 16, 16, .ro, 0⟩
def LKP_CRC.BURST : Fld := ⟨8, 0x9c, 0, 16, .ro, 0⟩
-- LKP_RWAIT (R331)
def LKP_RWAIT.CLR : Fld := ⟨8, 0xa0, 31, 1, .wo, 0⟩
def LKP_RWAIT.MAX : Fld := ⟨8, 0xa0, 0, 16, .ro, 0⟩
-- LKP_BUF (R331)
def LKP_BUF.FREE : Fld := ⟨8, 0xa4, 16, 11, .ro, 1024⟩
def LKP_BUF.LENT : Fld := ⟨8, 0xa4, 0, 11, .ro, 0⟩
-- LKP_DROP (R331)
def LKP_DROP.COUNT : Fld := ⟨8, 0xa8, 0, 32, .ro, 0⟩
-- LKP_TRUNC (R331)
def LKP_TRUNC.TS : Fld := ⟨8, 0xac, 16, 16, .ro, 0⟩
def LKP_TRUNC.TWO : Fld := ⟨8, 0xac, 0, 16, .ro, 0⟩
-- LKP_XOFF_RX (R331)
def LKP_XOFF_RX.COUNT : Fld := ⟨8, 0xb0, 0, 32, .ro, 0⟩
-- LKP_IF_OBUD (R331)
def LKP_IF_OBUD.OBUD (i : Nat) : Fld := ⟨8, 0xc0 + 4 * i, 0, 16, .rwl, 0⟩
-- LKP_CH_CFG (R331)
def LKP_CH_CFG.EN (i : Nat) : Fld := ⟨8, 0x100 + 4 * i, 31, 1, .rwl, 0⟩
def LKP_CH_CFG.ORD (i : Nat) : Fld := ⟨8, 0x100 + 4 * i, 30, 1, .rwl, 0⟩
def LKP_CH_CFG.CLASS (i : Nat) : Fld := ⟨8, 0x100 + 4 * i, 29, 1, .rwl, 0⟩
def LKP_CH_CFG.WR (i : Nat) : Fld := ⟨8, 0x100 + 4 * i, 28, 1, .rwl, 0⟩
def LKP_CH_CFG.GROUP (i : Nat) : Fld := ⟨8, 0x100 + 4 * i, 24, 4, .rwl, 0⟩
def LKP_CH_CFG.DIE (i : Nat) : Fld := ⟨8, 0x100 + 4 * i, 21, 3, .rwl, 0⟩
def LKP_CH_CFG.IFX (i : Nat) : Fld := ⟨8, 0x100 + 4 * i, 19, 2, .rwl, 0⟩
-- LKP_CH_BUF (R331)
def LKP_CH_BUF.MAX (i : Nat) : Fld := ⟨8, 0x200 + 4 * i, 16, 13, .rwl, 0⟩
def LKP_CH_BUF.MIN (i : Nat) : Fld := ⟨8, 0x200 + 4 * i, 0, 11, .rwl, 0⟩
-- LKP_CH_USE (R331)
def LKP_CH_USE.XOFF_TX (i : Nat) : Fld := ⟨8, 0x300 + 4 * i, 31, 1, .ro, 0⟩
def LKP_CH_USE.XOFF_RX (i : Nat) : Fld := ⟨8, 0x300 + 4 * i, 30, 1, .ro, 0⟩
def LKP_CH_USE.USED (i : Nat) : Fld := ⟨8, 0x300 + 4 * i, 16, 13, .ro, 0⟩
def LKP_CH_USE.HOME (i : Nat) : Fld := ⟨8, 0x300 + 4 * i, 13, 3, .ro, 0⟩
def LKP_CH_USE.OVL (i : Nat) : Fld := ⟨8, 0x300 + 4 * i, 0, 13, .ro, 0⟩
-- LKP_ENT (R331)
def LKP_ENT.STORE (i : Nat) : Fld := ⟨8, 0x400 + 4 * (i / 16), 2 * (i % 16) + 1, 1, .ro, 0⟩
def LKP_ENT.TWO (i : Nat) : Fld := ⟨8, 0x400 + 4 * (i / 16), 2 * (i % 16) + 0, 1, .ro, 0⟩

/-! ## The CSC page -/
-- CSC_CTL (R126)
def CSC_CTL.RETRAIN : Fld := ⟨9, 0x80, 9, 1, .w1s, 0⟩
def CSC_CTL.RETURN : Fld := ⟨9, 0x80, 8, 1, .w1s, 0⟩
def CSC_CTL.D_EN : Fld := ⟨9, 0x80, 1, 1, .rw, 1⟩
def CSC_CTL.U_EN : Fld := ⟨9, 0x80, 0, 1, .rw, 1⟩
-- CSC_STS (R126)
def CSC_STS.POS : Fld := ⟨9, 0x84, 30, 2, .ro, 0⟩
def CSC_STS.DEPTH : Fld := ⟨9, 0x84, 28, 2, .ro, 0⟩
def CSC_STS.POS_ERR : Fld := ⟨9, 0x84, 27, 1, .ro, 0⟩
def CSC_STS.U_UP : Fld := ⟨9, 0x84, 26, 1, .ro, 0⟩
def CSC_STS.D_UP : Fld := ⟨9, 0x84, 25, 1, .ro, 0⟩
def CSC_STS.FLIGHT_ERR : Fld := ⟨9, 0x84, 24, 1, .ro, 0⟩
def CSC_STS.U_LANES : Fld := ⟨9, 0x84, 20, 4, .ro, 0⟩
def CSC_STS.D_LANES : Fld := ⟨9, 0x84, 16, 4, .ro, 0⟩
def CSC_STS.U_STATE : Fld := ⟨9, 0x84, 12, 4, .ro, 0⟩
def CSC_STS.D_STATE : Fld := ⟨9, 0x84, 8, 4, .ro, 0⟩
-- CSC_FLIGHT (R126)
def CSC_FLIGHT.U_FLIGHT : Fld := ⟨9, 0x88, 8, 8, .ro, 0⟩
def CSC_FLIGHT.D_FLIGHT : Fld := ⟨9, 0x88, 0, 8, .ro, 0⟩
-- CSC_CRC_CNT (R126)
def CSC_CRC_CNT.U_CRC : Fld := ⟨9, 0x8c, 16, 16, .ro, 0⟩
def CSC_CRC_CNT.D_CRC : Fld := ⟨9, 0x8c, 0, 16, .ro, 0⟩
-- CSC_LOST_CNT (R126)
def CSC_LOST_CNT.LOST : Fld := ⟨9, 0x90, 0, 32, .ro, 0⟩
-- CSC_DROP_CNT (R126)
def CSC_DROP_CNT.U_DROPS : Fld := ⟨9, 0x94, 8, 8, .ro, 0⟩
def CSC_DROP_CNT.D_DROPS : Fld := ⟨9, 0x94, 0, 8, .ro, 0⟩

/-! ## The ARB page -/
-- ARB_SEL (R348)
def ARB_SEL.INST : Fld := ⟨10, 0x80, 0, 2, .rw, 0⟩
-- ARB_CTL (R348)
def ARB_CTL.COMMIT : Fld := ⟨10, 0x84, 31, 1, .w1s, 0⟩
-- ARB_STS (R348)
def ARB_STS.PEND : Fld := ⟨10, 0x88, 31, 1, .ro, 0⟩
def ARB_STS.REJ : Fld := ⟨10, 0x88, 30, 1, .ro, 0⟩
def ARB_STS.REJ_POS : Fld := ⟨10, 0x88, 16, 6, .ro, 0⟩
def ARB_STS.POS : Fld := ⟨10, 0x88, 0, 6, .ro, 0⟩
-- ARB_LOCK (R348)
def ARB_LOCK.CUT : Fld := ⟨10, 0x8c, 16, 16, .ro, 0⟩
def ARB_LOCK.CAP : Fld := ⟨10, 0x8c, 0, 6, .ro, 0⟩
-- ARB_CNT_SEL (R348)
def ARB_CNT_SEL.CLR : Fld := ⟨10, 0x90, 31, 1, .wo, 0⟩
def ARB_CNT_SEL.OWNER : Fld := ⟨10, 0x90, 0, 5, .rw, 0⟩
-- ARB_CNT_GRANT (R348)
def ARB_CNT_GRANT.GRANTS : Fld := ⟨10, 0x94, 0, 32, .ro, 0⟩
-- ARB_CNT_AGE (R348)
def ARB_CNT_AGE.MAXWAIT : Fld := ⟨10, 0x98, 16, 16, .ro, 0⟩
def ARB_CNT_AGE.AGE : Fld := ⟨10, 0x98, 4, 4, .ro, 0⟩
def ARB_CNT_AGE.LEVEL : Fld := ⟨10, 0x98, 0, 4, .ro, 0⟩
-- ARB_BOOK (R348)
def ARB_BOOK.FAIL : Fld := ⟨10, 0x9c, 16, 16, .ro, 0⟩
def ARB_BOOK.EARLY : Fld := ⟨10, 0x9c, 0, 16, .ro, 0⟩
-- ARB_LOAD (R348)
def ARB_LOAD.CODE : Fld := ⟨10, 0xa0, 24, 8, .ro, 0⟩
def ARB_LOAD.ENTRY : Fld := ⟨10, 0xa0, 16, 8, .ro, 0⟩
def ARB_LOAD.OWNER : Fld := ⟨10, 0xa0, 8, 8, .ro, 0⟩
def ARB_LOAD.INST : Fld := ⟨10, 0xa0, 6, 2, .ro, 0⟩
def ARB_LOAD.POS : Fld := ⟨10, 0xa0, 0, 6, .ro, 0⟩
-- ARB_LEVEL (R348)
def ARB_LEVEL.BASE (i : Nat) : Fld := ⟨10, 0xc0 + 4 * (i / 8), 4 * (i % 8) + 0, 4, .rw, 0⟩
-- ARB_SLOT (R348)
def ARB_SLOT.RES (i : Nat) : Fld := ⟨10, 0x100 + 4 * (i / 4), 8 * (i % 4) + 7, 1, .rw, 0⟩
def ARB_SLOT.OWNER (i : Nat) : Fld := ⟨10, 0x100 + 4 * (i / 4), 8 * (i % 4) + 0, 5, .rw, 0⟩

/-! ## The HIF page -/
-- HIF_STS (R377)
def HIF_STS.LINK_UP : Fld := ⟨11, 0x80, 31, 1, .ro, 0⟩
def HIF_STS.BME : Fld := ⟨11, 0x80, 30, 1, .ro, 0⟩
def HIF_STS.QUAR : Fld := ⟨11, 0x80, 29, 1, .ro, 0⟩
def HIF_STS.ATS_EN : Fld := ⟨11, 0x80, 28, 1, .ro, 0⟩
def HIF_STS.PASID_EN : Fld := ⟨11, 0x80, 27, 1, .ro, 0⟩
def HIF_STS.SPEED : Fld := ⟨11, 0x80, 20, 3, .ro, 0⟩
def HIF_STS.WIDTH : Fld := ⟨11, 0x80, 15, 5, .ro, 0⟩
def HIF_STS.BAR4_LOG2 : Fld := ⟨11, 0x80, 0, 5, .ro, 20⟩
-- HIF_Q_SEL (R377)
def HIF_Q_SEL.SEL : Fld := ⟨11, 0x84, 0, 6, .rw, 0⟩
-- HIF_Q_CFG (R377)
def HIF_Q_CFG.EN : Fld := ⟨11, 0x88, 31, 1, .rw, 0⟩
def HIF_Q_CFG.IEN : Fld := ⟨11, 0x88, 30, 1, .rw, 0⟩
def HIF_Q_CFG.PASID_EN : Fld := ⟨11, 0x88, 29, 1, .rw, 0⟩
def HIF_Q_CFG.VEC : Fld := ⟨11, 0x88, 23, 6, .rw, 0⟩
def HIF_Q_CFG.ERR : Fld := ⟨11, 0x88, 22, 1, .ro, 0⟩
def HIF_Q_CFG.PHASE : Fld := ⟨11, 0x88, 21, 1, .ro, 0⟩
def HIF_Q_CFG.SIZE : Fld := ⟨11, 0x88, 0, 16, .rw, 0⟩
-- HIF_Q_PASID (R377)
def HIF_Q_PASID.PASID : Fld := ⟨11, 0x8c, 0, 20, .rw, 0⟩
-- HIF_SQ_BASE_LO (R377)
def HIF_SQ_BASE_LO.ADDR : Fld := ⟨11, 0x90, 0, 32, .rw, 0⟩
-- HIF_SQ_BASE_HI (R377)
def HIF_SQ_BASE_HI.ADDR : Fld := ⟨11, 0x94, 0, 32, .rw, 0⟩
-- HIF_CQ_BASE_LO (R377)
def HIF_CQ_BASE_LO.ADDR : Fld := ⟨11, 0x98, 0, 32, .rw, 0⟩
-- HIF_CQ_BASE_HI (R377)
def HIF_CQ_BASE_HI.ADDR : Fld := ⟨11, 0x9c, 0, 32, .rw, 0⟩
-- HIF_Q_STS (R377)
def HIF_Q_STS.HEAD : Fld := ⟨11, 0xa0, 16, 16, .ro, 0⟩
def HIF_Q_STS.TAIL : Fld := ⟨11, 0xa0, 0, 16, .ro, 0⟩
-- HIF_EQ_SEL (R377)
def HIF_EQ_SEL.SEL : Fld := ⟨11, 0xa4, 0, 6, .rw, 0⟩
-- HIF_EQ_CFG (R377)
def HIF_EQ_CFG.EN : Fld := ⟨11, 0xa8, 31, 1, .rw, 0⟩
def HIF_EQ_CFG.IEN : Fld := ⟨11, 0xa8, 30, 1, .rw, 0⟩
def HIF_EQ_CFG.PASID_EN : Fld := ⟨11, 0xa8, 29, 1, .rw, 0⟩
def HIF_EQ_CFG.VEC : Fld := ⟨11, 0xa8, 23, 6, .rw, 0⟩
def HIF_EQ_CFG.SIZE : Fld := ⟨11, 0xa8, 0, 16, .rw, 0⟩
-- HIF_EQ_PASID (R377)
def HIF_EQ_PASID.PASID : Fld := ⟨11, 0xac, 0, 20, .rw, 0⟩
-- HIF_EQ_BASE_LO (R377)
def HIF_EQ_BASE_LO.ADDR : Fld := ⟨11, 0xb0, 0, 32, .rw, 0⟩
-- HIF_EQ_BASE_HI (R377)
def HIF_EQ_BASE_HI.ADDR : Fld := ⟨11, 0xb4, 0, 32, .rw, 0⟩
-- HIF_EQ_STS (R377)
def HIF_EQ_STS.HEAD : Fld := ⟨11, 0xb8, 16, 16, .ro, 0⟩
def HIF_EQ_STS.TAIL : Fld := ⟨11, 0xb8, 0, 16, .ro, 0⟩
-- HIF_PW_SEL (R377)
def HIF_PW_SEL.WIN : Fld := ⟨11, 0xbc, 0, 3, .rw, 0⟩
-- HIF_PW_BASE (R377)
def HIF_PW_BASE.OFFSET : Fld := ⟨11, 0xc0, 12, 18, .rw, 0⟩
-- HIF_PW_CFG (R377)
def HIF_PW_CFG.TYPE : Fld := ⟨11, 0xc4, 30, 2, .rw, 0⟩
def HIF_PW_CFG.LOG2 : Fld := ⟨11, 0xc4, 25, 5, .rw, 0⟩
def HIF_PW_CFG.DIE : Fld := ⟨11, 0xc4, 22, 3, .rw, 0⟩
def HIF_PW_CFG.CQID : Fld := ⟨11, 0xc4, 16, 6, .rw, 0⟩
def HIF_PW_CFG.NOCPL : Fld := ⟨11, 0xc4, 15, 1, .rw, 0⟩
-- HIF_PW_CTL (R377)
def HIF_PW_CTL.COMMIT : Fld := ⟨11, 0xc8, 31, 1, .w1s, 0⟩
-- HIF_PW_STS (R377)
def HIF_PW_STS.REJ : Fld := ⟨11, 0xcc, 31, 1, .ro, 0⟩
def HIF_PW_STS.REJ_WIN : Fld := ⟨11, 0xcc, 28, 3, .ro, 0⟩
def HIF_PW_STS.DEPTH : Fld := ⟨11, 0xcc, 8, 7, .ro, 0⟩
def HIF_PW_STS.ACTIVE : Fld := ⟨11, 0xcc, 0, 8, .ro, 0⟩
-- HIF_PW_REJ (R377)
def HIF_PW_REJ.LAST : Fld := ⟨11, 0xd0, 24, 8, .ro, 0⟩
def HIF_PW_REJ.COUNT : Fld := ⟨11, 0xd0, 0, 24, .ro, 0⟩
-- HIF_PW_DONE (R377)
def HIF_PW_DONE.DONE : Fld := ⟨11, 0xd4, 0, 32, .ro, 0⟩
-- HIF_ATS (R377)
def HIF_ATS.INV : Fld := ⟨11, 0xd8, 16, 16, .ro, 0⟩
def HIF_ATS.XREQ : Fld := ⟨11, 0xd8, 0, 16, .ro, 0⟩
-- HIF_QUAR (R377)
def HIF_QUAR.LATE : Fld := ⟨11, 0xdc, 16, 16, .ro, 0⟩
def HIF_QUAR.TAGS : Fld := ⟨11, 0xdc, 0, 10, .ro, 0⟩

/-! ## The MSS page -/
-- MSS_CAP (R379)
def MSS_CAP.HP_CAP : Fld := ⟨12, 0x80, 4, 1, .ro, 1⟩
def MSS_CAP.PWR_IND : Fld := ⟨12, 0x80, 3, 1, .ro, 1⟩
def MSS_CAP.ATTN_IND : Fld := ⟨12, 0x80, 2, 1, .ro, 1⟩
def MSS_CAP.PWR_CTL : Fld := ⟨12, 0x80, 1, 1, .ro, 1⟩
def MSS_CAP.ATTN_BTN : Fld := ⟨12, 0x80, 0, 1, .ro, 1⟩
-- MSS_CTL (R379)
def MSS_CTL.VEC : Fld := ⟨12, 0x84, 26, 6, .rw, 0⟩
def MSS_CTL.PIC : Fld := ⟨12, 0x84, 8, 2, .rw, 3⟩
def MSS_CTL.AIC : Fld := ⟨12, 0x84, 6, 2, .rw, 3⟩
def MSS_CTL.PCC : Fld := ⟨12, 0x84, 5, 1, .rw, 1⟩
def MSS_CTL.HPIE : Fld := ⟨12, 0x84, 4, 1, .rw, 0⟩
def MSS_CTL.CCIE : Fld := ⟨12, 0x84, 3, 1, .rw, 0⟩
def MSS_CTL.PDCE : Fld := ⟨12, 0x84, 2, 1, .rw, 0⟩
def MSS_CTL.ABPE : Fld := ⟨12, 0x84, 1, 1, .rw, 0⟩
-- MSS_STS (R379)
def MSS_STS.PDS : Fld := ⟨12, 0x88, 6, 1, .ro, 0⟩
def MSS_STS.PWR : Fld := ⟨12, 0x88, 5, 1, .ro, 0⟩
def MSS_STS.REJ : Fld := ⟨12, 0x88, 4, 1, .w1c, 0⟩
def MSS_STS.CC : Fld := ⟨12, 0x88, 3, 1, .w1c, 0⟩
def MSS_STS.PDC : Fld := ⟨12, 0x88, 2, 1, .w1c, 0⟩
def MSS_STS.ABP : Fld := ⟨12, 0x88, 0, 1, .w1c, 0⟩
-- MSS_CNT (R379)
def MSS_CNT.PRESSES : Fld := ⟨12, 0x8c, 16, 16, .ro, 0⟩
def MSS_CNT.SURPRISE : Fld := ⟨12, 0x8c, 0, 16, .ro, 0⟩

/-! ## The TIM page -/
-- TIM_CTL (R405)
def TIM_CTL.STEP_EN : Fld := ⟨13, 0x80, 4, 1, .rw, 0⟩
def TIM_CTL.TOD_ARM : Fld := ⟨13, 0x80, 3, 1, .w1s, 0⟩
def TIM_CTL.PPS_POL : Fld := ⟨13, 0x80, 2, 1, .rw, 0⟩
def TIM_CTL.PPS_EN : Fld := ⟨13, 0x80, 1, 1, .rw, 1⟩
-- TIM_STS (R405)
def TIM_STS.CONT : Fld := ⟨13, 0x84, 31, 1, .ro, 0⟩
def TIM_STS.UNSYNC : Fld := ⟨13, 0x84, 30, 1, .ro, 1⟩
def TIM_STS.SYNC : Fld := ⟨13, 0x84, 28, 2, .ro, 0⟩
def TIM_STS.PPS_STUCK : Fld := ⟨13, 0x84, 27, 1, .ro, 0⟩
-- TIM_RATE_LO (R405)
def TIM_RATE_LO.FRAC : Fld := ⟨13, 0x88, 0, 32, .ro, 2863311531⟩
-- TIM_RATE_HI (R405)
def TIM_RATE_HI.NS : Fld := ⟨13, 0x8c, 0, 8, .ro, 2⟩
-- TIM_NOW_SEC_LO (R405)
def TIM_NOW_SEC_LO.SEC : Fld := ⟨13, 0x90, 0, 32, .ro, 0⟩
-- TIM_NOW_SEC_HI (R405)
def TIM_NOW_SEC_HI.SEC : Fld := ⟨13, 0x94, 0, 16, .ro, 0⟩
-- TIM_NOW_NS (R405)
def TIM_NOW_NS.NS : Fld := ⟨13, 0x98, 0, 30, .ro, 0⟩
-- TIM_NOW_FRAC (R405)
def TIM_NOW_FRAC.FRAC : Fld := ⟨13, 0x9c, 0, 16, .ro, 0⟩
-- TIM_TOD_LO (R405)
def TIM_TOD_LO.SEC : Fld := ⟨13, 0xa0, 0, 32, .rw, 0⟩
-- TIM_TOD_HI (R405)
def TIM_TOD_HI.SEC : Fld := ⟨13, 0xa4, 0, 16, .rw, 0⟩
-- TIM_PPS_OFS (R405)
def TIM_PPS_OFS.OFS : Fld := ⟨13, 0xa8, 0, 20, .rw, 0⟩
-- TIM_ARR_OFS (R405)
def TIM_ARR_OFS.OFS : Fld := ⟨13, 0xac, 0, 20, .rw, 0⟩
-- TIM_DEP_OFS (R405)
def TIM_DEP_OFS.OFS : Fld := ⟨13, 0xb0, 0, 20, .rw, 0⟩
-- TIM_PERR (R405)
def TIM_PERR.VALUE : Fld := ⟨13, 0xb4, 0, 32, .ro, 0⟩
-- TIM_FREQ (R405)
def TIM_FREQ.VALUE : Fld := ⟨13, 0xb8, 0, 32, .ro, 0⟩
-- TIM_HOLD_MAX (R405)
def TIM_HOLD_MAX.SEC : Fld := ⟨13, 0xbc, 0, 16, .rw, 10⟩
-- TIM_REF (R405)
def TIM_REF.KHZ : Fld := ⟨13, 0xc0, 0, 20, .rw, 100000⟩
-- TIM_PPS_CNT (R405)
def TIM_PPS_CNT.IGNORED : Fld := ⟨13, 0xc4, 16, 16, .ro, 0⟩
def TIM_PPS_CNT.ACCEPTED : Fld := ⟨13, 0xc4, 0, 16, .ro, 0⟩

/-! ## The EVD page -/
-- EVD_CTL (R407)
def EVD_CTL.EN : Fld := ⟨14, 0x80, 31, 1, .rw, 0⟩
def EVD_CTL.WRAP : Fld := ⟨14, 0x80, 1, 1, .rw, 0⟩
def EVD_CTL.TGT : Fld := ⟨14, 0x80, 0, 1, .rw, 0⟩
-- EVD_STS (R407)
def EVD_STS.RUN : Fld := ⟨14, 0x84, 31, 1, .ro, 0⟩
def EVD_STS.STOP : Fld := ⟨14, 0x84, 28, 3, .ro, 1⟩
def EVD_STS.KEY : Fld := ⟨14, 0x84, 27, 1, .ro, 0⟩
-- EVD_CFG (R407)
def EVD_CFG.DIE : Fld := ⟨14, 0x88, 24, 3, .rw, 0⟩
def EVD_CFG.N_LOG2 : Fld := ⟨14, 0x88, 16, 5, .rw, 16⟩
def EVD_CFG.TMO : Fld := ⟨14, 0x88, 0, 16, .rw, 100⟩
-- EVD_BASE_LO (R407)
def EVD_BASE_LO.ADDR : Fld := ⟨14, 0x8c, 0, 32, .rw, 0⟩
-- EVD_BASE_HI (R407)
def EVD_BASE_HI.ADDR : Fld := ⟨14, 0x90, 0, 32, .rw, 0⟩
-- EVD_SIZE (R407)
def EVD_SIZE.SLOTS : Fld := ⟨14, 0x94, 0, 32, .rw, 0⟩
-- EVD_CP_BASE_LO (R407)
def EVD_CP_BASE_LO.ADDR : Fld := ⟨14, 0x98, 0, 32, .rw, 0⟩
-- EVD_CP_BASE_HI (R407)
def EVD_CP_BASE_HI.ADDR : Fld := ⟨14, 0x9c, 0, 32, .rw, 0⟩
-- EVD_CP_SIZE (R407)
def EVD_CP_SIZE.SLOTS : Fld := ⟨14, 0xa0, 0, 32, .rw, 0⟩
-- EVD_PASID (R407)
def EVD_PASID.EN : Fld := ⟨14, 0xa4, 20, 1, .rw, 0⟩
def EVD_PASID.PASID : Fld := ⟨14, 0xa4, 0, 20, .rw, 0⟩
-- EVD_WIDX_LO (R407)
def EVD_WIDX_LO.INDEX : Fld := ⟨14, 0xa8, 0, 32, .ro, 0⟩
-- EVD_WIDX_HI (R407)
def EVD_WIDX_HI.INDEX : Fld := ⟨14, 0xac, 0, 32, .ro, 0⟩
-- EVD_RIDX_LO (R407)
def EVD_RIDX_LO.INDEX : Fld := ⟨14, 0xb0, 0, 32, .rw, 0⟩
-- EVD_RIDX_HI (R407)
def EVD_RIDX_HI.INDEX : Fld := ⟨14, 0xb4, 0, 32, .rw, 0⟩
-- EVD_CPNUM (R407)
def EVD_CPNUM.VALUE : Fld := ⟨14, 0xb8, 0, 32, .ro, 0⟩
-- EVD_KEYID (R407)
def EVD_KEYID.VALUE : Fld := ⟨14, 0xbc, 0, 32, .ro, 0⟩
-- EVD_LOST (R407)
def EVD_LOST.COUNT : Fld := ⟨14, 0xc0, 0, 32, .ro, 0⟩
-- EVD_OFF (R407)
def EVD_OFF.COUNT : Fld := ⟨14, 0xc4, 0, 32, .ro, 0⟩
-- EVD_CP_SKIP (R407)
def EVD_CP_SKIP.COUNT : Fld := ⟨14, 0xc8, 0, 32, .ro, 0⟩
-- EVD_PUBKEY (R407)
def EVD_PUBKEY.KEY (i : Nat) : Fld := ⟨14, 0x100 + 4 * i, 0, 32, .ro, 0⟩

/-! ## The PWR page -/
-- PWR_DSEL (R434)
def PWR_DSEL.CLR : Fld := ⟨15, 0x80, 31, 1, .wo, 0⟩
def PWR_DSEL.DOM : Fld := ⟨15, 0x80, 0, 8, .rw, 0⟩
-- PWR_ON_MAP0 (R434)
def PWR_ON_MAP0.WAYS : Fld := ⟨15, 0x94, 16, 16, .ro, 65535⟩
def PWR_ON_MAP0.BANKS : Fld := ⟨15, 0x94, 0, 16, .ro, 65535⟩
-- PWR_ON_MAP1 (R434)
def PWR_ON_MAP1.DOMS : Fld := ⟨15, 0x98, 0, 6, .ro, 63⟩
-- PWR_EST (R434)
def PWR_EST.EST : Fld := ⟨15, 0x9c, 0, 16, .ro, 0⟩
-- PWR_BLANK (R434)
def PWR_BLANK.GOV : Fld := ⟨15, 0xa0, 0, 6, .ro, 0⟩
-- PWR_CAP (R434)
def PWR_CAP.EN : Fld := ⟨15, 0xb0, 31, 1, .rwl, 1⟩
def PWR_CAP.HYST : Fld := ⟨15, 0xb0, 16, 12, .rwl, 32⟩
def PWR_CAP.CAP : Fld := ⟨15, 0xb0, 0, 16, .rwl, 1440⟩
-- PWR_GOV (R434)
def PWR_GOV.EXT_EN : Fld := ⟨15, 0xb4, 0, 1, .rwl, 0⟩
-- PWR_EXT (R434)
def PWR_EXT.WATTS : Fld := ⟨15, 0xb8, 0, 16, .rw, 0⟩
-- PWR_GOV_STS (R434)
def PWR_GOV_STS.SHORT : Fld := ⟨15, 0xbc, 31, 1, .ro, 0⟩
def PWR_GOV_STS.COUNT : Fld := ⟨15, 0xbc, 16, 6, .ro, 0⟩
def PWR_GOV_STS.PKG : Fld := ⟨15, 0xbc, 0, 16, .ro, 0⟩

/-! ## The CLK page -/
-- CLK_CTL (R436)
def CLK_CTL.REF_SEL : Fld := ⟨16, 0x80, 1, 1, .rwl, 0⟩
def CLK_CTL.PLL_STOP_EN : Fld := ⟨16, 0x80, 0, 1, .rw, 0⟩
-- CLK_STS (R436)
def CLK_STS.LOCK : Fld := ⟨16, 0x84, 31, 1, .ro, 0⟩
def CLK_STS.PLL_RUN : Fld := ⟨16, 0x84, 30, 1, .ro, 0⟩
def CLK_STS.REF_SEL : Fld := ⟨16, 0x84, 29, 1, .ro, 0⟩
def CLK_STS.REF_BAD : Fld := ⟨16, 0x84, 28, 1, .ro, 0⟩
def CLK_STS.REF_KHZ : Fld := ⟨16, 0x84, 0, 20, .ro, 0⟩
-- CLK_CYC_LO (R436)
def CLK_CYC_LO.CYC : Fld := ⟨16, 0x88, 0, 32, .ro, 0⟩
-- CLK_CYC_HI (R436)
def CLK_CYC_HI.CYC : Fld := ⟨16, 0x8c, 0, 16, .ro, 0⟩
-- CLK_LOCK_CNT (R436)
def CLK_LOCK_CNT.SWITCH : Fld := ⟨16, 0x90, 16, 16, .ro, 0⟩
def CLK_LOCK_CNT.LOSS : Fld := ⟨16, 0x90, 8, 8, .ro, 0⟩
def CLK_LOCK_CNT.STOPS : Fld := ⟨16, 0x90, 0, 8, .ro, 0⟩

/-! ## The FLT page -/
-- FLT_SUM (R469)
def FLT_SUM.PAGES : Fld := ⟨17, 0x80, 0, 21, .ro, 0⟩
-- FLT_ROUTE (R469)
def FLT_ROUTE.VEC : Fld := ⟨17, 0x84, 26, 6, .rw, 0⟩
def FLT_ROUTE.PIN_EN : Fld := ⟨17, 0x84, 2, 1, .rw, 1⟩
def FLT_ROUTE.U_HOST : Fld := ⟨17, 0x84, 1, 1, .rw, 0⟩
def FLT_ROUTE.C_HOST : Fld := ⟨17, 0x84, 0, 1, .rw, 0⟩
-- FLT_SUP_TMO (R469)
def FLT_SUP_TMO.TMO : Fld := ⟨17, 0x88, 0, 16, .rw, 1000⟩
-- FLT_PKG_SUM (R469)
def FLT_PKG_SUM.S_DIE : Fld := ⟨17, 0x8c, 16, 8, .ro, 0⟩
def FLT_PKG_SUM.F_DIE : Fld := ⟨17, 0x8c, 8, 8, .ro, 0⟩
def FLT_PKG_SUM.ANY_DIE : Fld := ⟨17, 0x8c, 0, 8, .ro, 0⟩
-- FLT_ERST (R469)
def FLT_ERST.GO : Fld := ⟨17, 0x90, 31, 1, .w1s, 0⟩
def FLT_ERST.UNLOAD : Fld := ⟨17, 0x90, 30, 1, .rw, 0⟩
-- FLT_GR_CTL (R469)
def FLT_GR_CTL.GO : Fld := ⟨17, 0xa0, 31, 1, .w1s, 0⟩
def FLT_GR_CTL.SRC : Fld := ⟨17, 0xa0, 30, 1, .rw, 0⟩
def FLT_GR_CTL.SDIE : Fld := ⟨17, 0xa0, 27, 3, .rw, 0⟩
def FLT_GR_CTL.GROUP : Fld := ⟨17, 0xa0, 16, 4, .rw, 0⟩
-- FLT_GR_BASE_LO (R469)
def FLT_GR_BASE_LO.ADDR : Fld := ⟨17, 0xa4, 0, 32, .rw, 0⟩
-- FLT_GR_BASE_HI (R469)
def FLT_GR_BASE_HI.ADDR : Fld := ⟨17, 0xa8, 0, 32, .rw, 0⟩
-- FLT_GR_CNT (R469)
def FLT_GR_CNT.DONE : Fld := ⟨17, 0xac, 16, 16, .ro, 0⟩
def FLT_GR_CNT.COUNT : Fld := ⟨17, 0xac, 0, 16, .ro, 0⟩
-- FLT_GR_STS (R469)
def FLT_GR_STS.BUSY : Fld := ⟨17, 0xb0, 31, 1, .ro, 0⟩
def FLT_GR_STS.RESULT : Fld := ⟨17, 0xb0, 28, 3, .ro, 0⟩
-- FLT_GR_DIG (R469)
def FLT_GR_DIG.DIGEST (i : Nat) : Fld := ⟨17, 0xc0 + 4 * i, 0, 32, .ro, 0⟩
-- FLT_GR_EXP (R469)
def FLT_GR_EXP.DIGEST (i : Nat) : Fld := ⟨17, 0xe0 + 4 * i, 0, 32, .ro, 0⟩

/-! ## The SEC page -/
-- SEC_ALM_STS (R471)
def SEC_ALM_STS.FENCED : Fld := ⟨18, 0x80, 31, 1, .ro, 0⟩
def SEC_ALM_STS.ZEROIZED : Fld := ⟨18, 0x80, 30, 1, .ro, 0⟩
def SEC_ALM_STS.LAST : Fld := ⟨18, 0x80, 24, 4, .ro, 0⟩
def SEC_ALM_STS.FIRED : Fld := ⟨18, 0x80, 0, 9, .w1c, 0⟩
-- SEC_ALM_POL (R471)
def SEC_ALM_POL.POL (s : Nat) : Fld := ⟨18, 0x84, 2 * s - 2, 2, .rwl, 0x1596 / 4 ^ (s - 1) % 4⟩
-- SEC_ZEROIZE (R471)
def SEC_ZEROIZE.GO : Fld := ⟨18, 0x88, 31, 1, .w1s, 0⟩
-- SEC_IMG (R471)
def SEC_IMG.STATUS : Fld := ⟨18, 0x8c, 28, 4, .ro, 0⟩
def SEC_IMG.KEYIDX : Fld := ⟨18, 0x8c, 26, 2, .ro, 0⟩
def SEC_IMG.REVOKED : Fld := ⟨18, 0x8c, 22, 4, .ro, 0⟩
def SEC_IMG.SVN_MIN : Fld := ⟨18, 0x8c, 15, 7, .ro, 0⟩
-- SEC_SVN (R471)
def SEC_SVN.SVN : Fld := ⟨18, 0x90, 0, 32, .ro, 0⟩
-- SEC_DBG_CMD (R471)
def SEC_DBG_CMD.CHAL : Fld := ⟨18, 0x94, 31, 1, .w1s, 0⟩
def SEC_DBG_CMD.GO : Fld := ⟨18, 0x94, 30, 1, .w1s, 0⟩
def SEC_DBG_CMD.LEVEL : Fld := ⟨18, 0x94, 28, 2, .rw, 0⟩
def SEC_DBG_CMD.STATUS : Fld := ⟨18, 0x94, 24, 4, .ro, 0⟩
def SEC_DBG_CMD.FAILS : Fld := ⟨18, 0x94, 0, 2, .ro, 0⟩
-- SEC_END_CMD (R471)
def SEC_END_CMD.GO : Fld := ⟨18, 0x98, 31, 1, .w1s, 0⟩
def SEC_END_CMD.STATUS : Fld := ⟨18, 0x98, 28, 3, .ro, 0⟩
-- SEC_DBG_CHAL (R471)
def SEC_DBG_CHAL.DATA (i : Nat) : Fld := ⟨18, 0x100 + 4 * i, 0, 32, .ro, 0⟩
-- SEC_DBG_RESP (R471)
def SEC_DBG_RESP.DATA (i : Nat) : Fld := ⟨18, 0x140 + 4 * i, 0, 32, .wo, 0⟩
-- SEC_ID_PUB (R471)
def SEC_ID_PUB.DATA (i : Nat) : Fld := ⟨18, 0x200 + 4 * i, 0, 32, .ro, 0⟩
-- SEC_END_SIG (R471)
def SEC_END_SIG.DATA (i : Nat) : Fld := ⟨18, 0x260 + 4 * i, 0, 32, .ro, 0⟩

/-! ## The DBG page -/
-- DBG_CTL (R238)
def DBG_CTL.LEVEL : Fld := ⟨19, 0x80, 30, 2, .ro, 0⟩
-- DBG_THREAD (R238)
def DBG_THREAD.THREAD : Fld := ⟨19, 0x84, 0, 9, .rw, 0⟩
-- DBG_CMD (R238)
def DBG_CMD.CMD : Fld := ⟨19, 0x88, 0, 3, .wo, 0⟩
-- DBG_TSTS (R238)
def DBG_TSTS.STATE : Fld := ⟨19, 0x8c, 28, 4, .ro, 0⟩
def DBG_TSTS.PC : Fld := ⟨19, 0x8c, 14, 14, .ro, 0⟩
def DBG_TSTS.CREC : Fld := ⟨19, 0x8c, 11, 3, .ro, 0⟩
def DBG_TSTS.SPEC : Fld := ⟨19, 0x8c, 10, 1, .ro, 0⟩
def DBG_TSTS.SENT : Fld := ⟨19, 0x8c, 9, 1, .ro, 0⟩
def DBG_TSTS.DEFER : Fld := ⟨19, 0x8c, 8, 1, .ro, 0⟩
def DBG_TSTS.CHANNEL : Fld := ⟨19, 0x8c, 0, 6, .ro, 0⟩
-- DBG_CH_REL (R238)
def DBG_CH_REL.CH : Fld := ⟨19, 0x90, 0, 5, .wo, 0⟩
-- DBG_HOLD_MAX (R238)
def DBG_HOLD_MAX.HOLD : Fld := ⟨19, 0x94, 0, 24, .rw, 7500⟩
-- DBG_AUTO_REL (R238)
def DBG_AUTO_REL.COUNT : Fld := ⟨19, 0x98, 0, 32, .ro, 0⟩
-- DBG_LATE_EMIT (R238)
def DBG_LATE_EMIT.COUNT : Fld := ⟨19, 0x9c, 0, 32, .ro, 0⟩

/-! ## The BSQ page -/
-- BSQ_CTL (R495)
def BSQ_CTL.GO : Fld := ⟨20, 0x80, 31, 1, .w1s, 0⟩
def BSQ_CTL.REPAIR : Fld := ⟨20, 0x80, 0, 1, .rw, 1⟩
-- BSQ_STS (R495)
def BSQ_STS.BUSY : Fld := ⟨20, 0x84, 31, 1, .ro, 0⟩
def BSQ_STS.REFUSED : Fld := ⟨20, 0x84, 30, 1, .ro, 0⟩
def BSQ_STS.RESULT : Fld := ⟨20, 0x84, 28, 2, .ro, 0⟩
def BSQ_STS.PHASE : Fld := ⟨20, 0x84, 24, 4, .ro, 0⟩
def BSQ_STS.TIME : Fld := ⟨20, 0x84, 0, 16, .ro, 0⟩
-- BSQ_FAIL (R495)
def BSQ_FAIL.CAUSE : Fld := ⟨20, 0x88, 24, 8, .ro, 0⟩
def BSQ_FAIL.BANK : Fld := ⟨20, 0x88, 20, 4, .ro, 0⟩
def BSQ_FAIL.SHELF : Fld := ⟨20, 0x88, 10, 7, .ro, 0⟩
def BSQ_FAIL.ROW : Fld := ⟨20, 0x88, 0, 10, .ro, 0⟩
-- BSQ_WAYS (R495)
def BSQ_WAYS.FAILED : Fld := ⟨20, 0x8c, 16, 16, .ro, 0⟩
def BSQ_WAYS.TESTED : Fld := ⟨20, 0x8c, 0, 16, .ro, 0⟩
-- BSQ_BANK (R495)
def BSQ_BANK.FAILED (i : Nat) : Fld := ⟨20, 0x100 + 4 * i, 31, 1, .ro, 0⟩
def BSQ_BANK.SPARE_USED (i : Nat) : Fld := ⟨20, 0x100 + 4 * i, 30, 1, .ro, 0⟩
def BSQ_BANK.SPARE_BAD (i : Nat) : Fld := ⟨20, 0x100 + 4 * i, 29, 1, .ro, 0⟩
def BSQ_BANK.SHELF (i : Nat) : Fld := ⟨20, 0x100 + 4 * i, 16, 6, .ro, 0⟩
def BSQ_BANK.ROWS (i : Nat) : Fld := ⟨20, 0x100 + 4 * i, 0, 16, .ro, 0⟩

/-! ## The RS page -/
-- ARB_RS_PATH (R506)
def ARB_RS_PATH.SWITCHES : Fld := ⟨21, 0x80, 8, 8, .ro, 0⟩
def ARB_RS_PATH.CCW_FAIL : Fld := ⟨21, 0x80, 3, 1, .ro, 0⟩
def ARB_RS_PATH.CW_FAIL : Fld := ⟨21, 0x80, 2, 1, .ro, 0⟩
def ARB_RS_PATH.CCW_ALT : Fld := ⟨21, 0x80, 1, 1, .ro, 0⟩
def ARB_RS_PATH.CW_ALT : Fld := ⟨21, 0x80, 0, 1, .ro, 0⟩
-- ARB_RS_ECC (R506)
def ARB_RS_ECC.UNC : Fld := ⟨21, 0x84, 16, 16, .ro, 0⟩
def ARB_RS_ECC.CORR : Fld := ⟨21, 0x84, 0, 16, .ro, 0⟩
-- ARB_RS_MGMT (R506)
def ARB_RS_MGMT.RESENT : Fld := ⟨21, 0x88, 16, 16, .ro, 0⟩
def ARB_RS_MGMT.HB_MISS : Fld := ⟨21, 0x88, 0, 8, .ro, 0⟩

/-! ## The registers of each page, in offset order (offsets 0x080 and above) -/
def rowsPkg : List RegRow :=
  [⟨0x80, 1, [⟨0, 0, 31, 1, .w1s, 0⟩, ⟨0, 0, 28, 2, .ro, 0⟩, ⟨0, 0, 16, 8, .ro, 0⟩, ⟨0, 0, 6, 3, .ro, 0⟩, ⟨0, 0, 2, 2, .ro, 0⟩, ⟨0, 0, 0, 2, .ro, 0⟩]⟩,
   ⟨0x84, 1, [⟨0, 0, 31, 1, .w1s, 0⟩, ⟨0, 0, 28, 3, .ro, 0⟩]⟩,
   ⟨0x88, 1, [⟨0, 0, 0, 32, .rw, 0⟩]⟩,
   ⟨0x8c, 1, [⟨0, 0, 0, 32, .rw, 0⟩]⟩,
   ⟨0x90, 1, [⟨0, 0, 0, 32, .ro, 0⟩]⟩,
   ⟨0x94, 1, [⟨0, 0, 0, 32, .ro, 0⟩]⟩,
   ⟨0xc0, 1, [⟨0, 0, 12, 4, .ro, 0⟩, ⟨0, 0, 8, 4, .ro, 0⟩, ⟨0, 0, 4, 4, .ro, 0⟩, ⟨0, 0, 0, 4, .ro, 0⟩]⟩,
   ⟨0xc4, 1, [⟨0, 0, 12, 4, .w1s, 0⟩, ⟨0, 0, 8, 4, .w1s, 0⟩, ⟨0, 0, 4, 4, .w1s, 0⟩, ⟨0, 0, 0, 4, .w1s, 0⟩]⟩,
   ⟨0xc8, 1, [⟨0, 0, 0, 32, .ro, 0⟩]⟩,
   ⟨0xcc, 1, [⟨0, 0, 31, 1, .ro, 0⟩, ⟨0, 0, 0, 21, .ro, 0⟩]⟩]
def rowsAtc0 : List RegRow :=
  [⟨0x80, 1, [⟨1, 0, 31, 1, .w1c, 0⟩, ⟨1, 0, 30, 1, .ro, 0⟩, ⟨1, 0, 20, 8, .ro, 0⟩, ⟨1, 0, 16, 1, .ro, 0⟩, ⟨1, 0, 8, 6, .ro, 0⟩, ⟨1, 0, 0, 3, .ro, 0⟩]⟩,
   ⟨0x84, 1, [⟨1, 0, 16, 6, .ro, 0⟩, ⟨1, 0, 0, 6, .ro, 0⟩]⟩,
   ⟨0x88, 1, [⟨1, 0, 0, 32, .ro, 0⟩]⟩,
   ⟨0x8c, 1, [⟨1, 0, 0, 32, .ro, 0⟩]⟩,
   ⟨0x90, 1, [⟨1, 0, 16, 5, .ro, 0⟩, ⟨1, 0, 0, 16, .ro, 0⟩]⟩,
   ⟨0x94, 1, [⟨1, 0, 0, 32, .ro, 0⟩]⟩,
   ⟨0x98, 1, [⟨1, 0, 0, 16, .ro, 0⟩]⟩,
   ⟨0xa0, 1, [⟨1, 0, 31, 1, .wo, 0⟩, ⟨1, 0, 0, 8, .rw, 0⟩]⟩,
   ⟨0xa4, 1, [⟨1, 0, 0, 32, .ro, 0⟩]⟩,
   ⟨0xa8, 1, [⟨1, 0, 0, 16, .ro, 0⟩]⟩,
   ⟨0xac, 1, [⟨1, 0, 0, 32, .ro, 0⟩]⟩,
   ⟨0xb0, 1, [⟨1, 0, 0, 16, .ro, 0⟩]⟩]
def rowsAtc1 : List RegRow :=
  [⟨0xb4, 1, [⟨1, 0, 0, 11, .ro, 0⟩]⟩,
   ⟨0xb8, 1, [⟨1, 0, 24, 8, .ro, 0⟩, ⟨1, 0, 16, 3, .ro, 0⟩, ⟨1, 0, 8, 1, .ro, 0⟩, ⟨1, 0, 0, 8, .ro, 0⟩]⟩,
   ⟨0xc0, 1, [⟨1, 0, 3, 4, .rw, 0⟩, ⟨1, 0, 0, 3, .rw, 0⟩]⟩]
def rowsAtc : List RegRow := rowsAtc0 ++ rowsAtc1
def rowsUpd : List RegRow :=
  [⟨0x80, 1, [⟨2, 0, 5, 1, .rw, 0⟩, ⟨2, 0, 4, 1, .rw, 0⟩, ⟨2, 0, 3, 1, .rw, 0⟩, ⟨2, 0, 2, 1, .rw, 0⟩, ⟨2, 0, 1, 1, .rw, 0⟩, ⟨2, 0, 0, 1, .rw, 0⟩]⟩,
   ⟨0x84, 1, [⟨2, 0, 31, 1, .ro, 0⟩, ⟨2, 0, 30, 1, .ro, 0⟩, ⟨2, 0, 29, 1, .ro, 0⟩, ⟨2, 0, 28, 1, .ro, 0⟩, ⟨2, 0, 0, 10, .ro, 0⟩]⟩,
   ⟨0x88, 1, [⟨2, 0, 0, 16, .rw, 1500⟩]⟩,
   ⟨0x8c, 1, [⟨2, 0, 28, 4, .ro, 0⟩, ⟨2, 0, 0, 25, .ro, 0⟩]⟩,
   ⟨0x90, 1, [⟨2, 0, 16, 16, .ro, 0⟩, ⟨2, 0, 0, 16, .ro, 0⟩]⟩,
   ⟨0x94, 1, [⟨2, 0, 0, 32, .ro, 0⟩]⟩,
   ⟨0x98, 1, [⟨2, 0, 24, 8, .ro, 0⟩, ⟨2, 0, 0, 24, .ro, 0⟩]⟩,
   ⟨0x9c, 1, [⟨2, 0, 0, 32, .ro, 0⟩]⟩,
   ⟨0xa0, 1, [⟨2, 0, 25, 7, .ro, 0⟩, ⟨2, 0, 0, 25, .ro, 0⟩]⟩,
   ⟨0xb0, 4, [⟨2, 0, 7, 1, .ro, 0⟩, ⟨2, 0, 0, 6, .ro, 0⟩, ⟨2, 0, 15, 1, .ro, 0⟩, ⟨2, 0, 8, 6, .ro, 0⟩, ⟨2, 0, 23, 1, .ro, 0⟩, ⟨2, 0, 16, 6, .ro, 0⟩, ⟨2, 0, 31, 1, .ro, 0⟩, ⟨2, 0, 24, 6, .ro, 0⟩]⟩]
def rowsSeq : List RegRow :=
  [⟨0x80, 1, [⟨3, 0, 17, 1, .w1s, 0⟩, ⟨3, 0, 16, 1, .rw, 1⟩, ⟨3, 0, 0, 16, .rw, 4096⟩]⟩,
   ⟨0x84, 1, [⟨3, 0, 31, 1, .ro, 0⟩, ⟨3, 0, 16, 9, .ro, 0⟩, ⟨3, 0, 0, 9, .ro, 0⟩]⟩,
   ⟨0x88, 1, [⟨3, 0, 24, 8, .ro, 0⟩, ⟨3, 0, 14, 8, .ro, 0⟩, ⟨3, 0, 0, 14, .ro, 0⟩]⟩,
   ⟨0x8c, 1, [⟨3, 0, 0, 32, .ro, 0⟩]⟩,
   ⟨0x90, 1, [⟨3, 0, 0, 16, .ro, 0⟩]⟩,
   ⟨0x94, 1, [⟨3, 0, 24, 8, .ro, 0⟩, ⟨3, 0, 0, 24, .ro, 0⟩]⟩,
   ⟨0xa0, 1, [⟨3, 0, 31, 1, .wo, 0⟩, ⟨3, 0, 0, 8, .rw, 0⟩]⟩,
   ⟨0xa4, 1, [⟨3, 0, 31, 1, .ro, 0⟩, ⟨3, 0, 28, 2, .ro, 0⟩, ⟨3, 0, 0, 14, .ro, 0⟩]⟩,
   ⟨0xa8, 1, [⟨3, 0, 0, 32, .ro, 0⟩]⟩,
   ⟨0xac, 1, [⟨3, 0, 0, 32, .ro, 0⟩]⟩,
   ⟨0xb0, 1, [⟨3, 0, 0, 32, .ro, 0⟩]⟩,
   ⟨0x400, 256, [⟨3, 0, 31, 1, .ro, 0⟩, ⟨3, 0, 30, 1, .ro, 0⟩, ⟨3, 0, 16, 14, .ro, 0⟩, ⟨3, 0, 0, 16, .ro, 0⟩]⟩]
def rowsThr0 : List RegRow :=
  [⟨0x80, 1, [⟨4, 0, 1, 1, .rw, 1⟩, ⟨4, 0, 0, 1, .rw, 0⟩]⟩,
   ⟨0x84, 1, [⟨4, 0, 16, 9, .ro, 383⟩, ⟨4, 0, 0, 9, .ro, 0⟩]⟩,
   ⟨0x88, 1, [⟨4, 0, 0, 24, .rw, 1500⟩]⟩,
   ⟨0x8c, 1, [⟨4, 0, 0, 24, .rw, 0⟩]⟩,
   ⟨0x90, 1, [⟨4, 0, 0, 24, .rw, 75000⟩]⟩,
   ⟨0x94, 1, [⟨4, 0, 0, 24, .rw, 750000⟩]⟩,
   ⟨0x98, 1, [⟨4, 0, 8, 4, .rw, 15⟩, ⟨4, 0, 0, 8, .rw, 0⟩]⟩,
   ⟨0x9c, 1, [⟨4, 0, 16, 6, .ro, 0⟩, ⟨4, 0, 0, 16, .ro, 0⟩]⟩,
   ⟨0xa0, 4, [⟨4, 0, 0, 32, .ro, 0⟩]⟩,
   ⟨0xb0, 1, [⟨4, 0, 16, 16, .ro, 0⟩, ⟨4, 0, 0, 16, .ro, 0⟩]⟩,
   ⟨0xb4, 1, [⟨4, 0, 16, 16, .ro, 0⟩, ⟨4, 0, 0, 16, .ro, 0⟩]⟩,
   ⟨0xb8, 1, [⟨4, 0, 0, 9, .wo, 0⟩]⟩]
def rowsThr1 : List RegRow :=
  [⟨0xbc, 1, [⟨4, 0, 0, 32, .ro, 0⟩]⟩,
   ⟨0x100, 16, [⟨4, 0, 31, 1, .rwl, 0⟩, ⟨4, 0, 24, 4, .rwl, 0⟩, ⟨4, 0, 12, 9, .rwl, 0⟩, ⟨4, 0, 0, 9, .rwl, 0⟩]⟩,
   ⟨0x140, 16, [⟨4, 0, 16, 9, .ro, 0⟩, ⟨4, 0, 0, 9, .ro, 0⟩]⟩,
   ⟨0x180, 16, [⟨4, 0, 7, 1, .rwl, 0⟩, ⟨4, 0, 0, 4, .rwl, 0⟩, ⟨4, 0, 15, 1, .rwl, 0⟩, ⟨4, 0, 8, 4, .rwl, 0⟩, ⟨4, 0, 23, 1, .rwl, 0⟩, ⟨4, 0, 16, 4, .rwl, 0⟩, ⟨4, 0, 31, 1, .rwl, 0⟩, ⟨4, 0, 24, 4, .rwl, 0⟩]⟩,
   ⟨0x200, 32, [⟨4, 0, 24, 8, .ro, 0⟩, ⟨4, 0, 23, 1, .ro, 0⟩, ⟨4, 0, 14, 9, .ro, 0⟩, ⟨4, 0, 10, 4, .ro, 0⟩, ⟨4, 0, 0, 9, .ro, 0⟩]⟩]
def rowsThr : List RegRow := rowsThr0 ++ rowsThr1
def rowsStr0 : List RegRow :=
  [⟨0x80, 1, [⟨5, 0, 4, 2, .rw, 0⟩, ⟨5, 0, 2, 1, .rw, 0⟩, ⟨5, 0, 1, 1, .rw, 0⟩, ⟨5, 0, 0, 1, .rw, 0⟩]⟩,
   ⟨0x84, 1, [⟨5, 0, 31, 1, .ro, 0⟩, ⟨5, 0, 30, 1, .ro, 0⟩, ⟨5, 0, 29, 1, .ro, 0⟩, ⟨5, 0, 0, 8, .ro, 0⟩]⟩,
   ⟨0x88, 1, [⟨5, 0, 0, 24, .rw, 120000⟩]⟩,
   ⟨0x8c, 1, [⟨5, 0, 0, 29, .ro, 0⟩]⟩,
   ⟨0x90, 1, [⟨5, 0, 0, 32, .ro, 0⟩]⟩,
   ⟨0x94, 1, [⟨5, 0, 0, 32, .ro, 0⟩]⟩,
   ⟨0x98, 1, [⟨5, 0, 0, 32, .ro, 0⟩]⟩,
   ⟨0x9c, 1, [⟨5, 0, 16, 16, .ro, 0⟩, ⟨5, 0, 0, 16, .ro, 0⟩]⟩,
   ⟨0xa0, 1, [⟨5, 0, 0, 32, .ro, 0⟩]⟩,
   ⟨0xa4, 1, [⟨5, 0, 24, 8, .ro, 0⟩, ⟨5, 0, 0, 24, .ro, 0⟩]⟩,
   ⟨0xa8, 1, [⟨5, 0, 16, 16, .ro, 0⟩, ⟨5, 0, 0, 16, .ro, 0⟩]⟩,
   ⟨0xac, 1, [⟨5, 0, 31, 1, .wo, 0⟩, ⟨5, 0, 0, 10, .ro, 0⟩]⟩]
def rowsStr1 : List RegRow :=
  [⟨0xb0, 1, [⟨5, 0, 31, 1, .ro, 0⟩, ⟨5, 0, 0, 30, .ro, 0⟩]⟩,
   ⟨0xb4, 1, [⟨5, 0, 31, 1, .w1c, 0⟩, ⟨5, 0, 0, 29, .ro, 0⟩]⟩,
   ⟨0xc0, 1, [⟨5, 0, 0, 16, .rw, 0⟩]⟩]
def rowsStr : List RegRow := rowsStr0 ++ rowsStr1
def rowsCel0 : List RegRow :=
  [⟨0x80, 1, [⟨6, 0, 0, 1, .rw, 0⟩]⟩,
   ⟨0x84, 1, [⟨6, 0, 31, 1, .ro, 0⟩, ⟨6, 0, 28, 3, .ro, 1⟩, ⟨6, 0, 27, 1, .ro, 0⟩, ⟨6, 0, 0, 13, .ro, 0⟩]⟩,
   ⟨0x88, 1, [⟨6, 0, 8, 1, .wo, 0⟩, ⟨6, 0, 0, 8, .wo, 0⟩]⟩,
   ⟨0x90, 8, [⟨6, 0, 0, 32, .ro, 4294967295⟩]⟩,
   ⟨0xc0, 8, [⟨6, 0, 0, 32, .wo, 0⟩]⟩,
   ⟨0xe0, 16, [⟨6, 0, 0, 32, .wo, 0⟩]⟩,
   ⟨0x120, 1, [⟨6, 0, 31, 1, .w1s, 0⟩, ⟨6, 0, 28, 3, .ro, 0⟩, ⟨6, 0, 8, 2, .rw, 0⟩, ⟨6, 0, 0, 8, .rw, 0⟩]⟩,
   ⟨0x124, 8, [⟨6, 0, 0, 32, .ro, 0⟩]⟩,
   ⟨0x180, 32, [⟨6, 0, 0, 32, .wo, 0⟩]⟩,
   ⟨0x200, 1, [⟨6, 0, 31, 1, .w1s, 0⟩, ⟨6, 0, 28, 3, .ro, 0⟩, ⟨6, 0, 0, 8, .rw, 0⟩]⟩,
   ⟨0x204, 1, [⟨6, 0, 0, 32, .rw, 0⟩]⟩,
   ⟨0x208, 1, [⟨6, 0, 16, 16, .rwl, 16⟩, ⟨6, 0, 0, 16, .rwl, 1000⟩]⟩]
def rowsCel1 : List RegRow :=
  [⟨0x20c, 1, [⟨6, 0, 0, 32, .ro, 0⟩]⟩,
   ⟨0x210, 1, [⟨6, 0, 0, 32, .ro, 0⟩]⟩,
   ⟨0x214, 1, [⟨6, 0, 16, 16, .ro, 0⟩, ⟨6, 0, 0, 16, .ro, 0⟩]⟩,
   ⟨0x218, 1, [⟨6, 0, 0, 16, .rw, 1000⟩]⟩]
def rowsCel : List RegRow := rowsCel0 ++ rowsCel1
def rowsCch0 : List RegRow :=
  [⟨0x80, 1, [⟨7, 0, 1, 1, .rw, 1⟩, ⟨7, 0, 0, 1, .rw, 0⟩]⟩,
   ⟨0x84, 1, [⟨7, 0, 16, 16, .rw, 0⟩, ⟨7, 0, 0, 16, .rw, 65535⟩]⟩,
   ⟨0x88, 1, [⟨7, 0, 16, 16, .w1c, 0⟩, ⟨7, 0, 0, 16, .ro, 0⟩]⟩,
   ⟨0x8c, 1, [⟨7, 0, 16, 16, .rw, 1000⟩, ⟨7, 0, 0, 8, .rw, 8⟩]⟩,
   ⟨0x90, 1, [⟨7, 0, 0, 16, .rw, 44257⟩]⟩,
   ⟨0x94, 1, [⟨7, 0, 24, 6, .rwl, 32⟩, ⟨7, 0, 0, 7, .ro, 0⟩]⟩,
   ⟨0x98, 1, [⟨7, 0, 16, 16, .rw, 64⟩, ⟨7, 0, 8, 8, .ro, 0⟩, ⟨7, 0, 0, 7, .ro, 0⟩]⟩,
   ⟨0x9c, 1, [⟨7, 0, 0, 29, .rw, 0⟩]⟩,
   ⟨0xa0, 1, [⟨7, 0, 31, 1, .w1s, 0⟩, ⟨7, 0, 28, 3, .ro, 0⟩, ⟨7, 0, 24, 1, .rw, 0⟩, ⟨7, 0, 20, 4, .rw, 0⟩, ⟨7, 0, 0, 13, .rw, 0⟩]⟩,
   ⟨0xa4, 1, [⟨7, 0, 0, 29, .rw, 0⟩]⟩,
   ⟨0xa8, 1, [⟨7, 0, 31, 1, .w1s, 0⟩, ⟨7, 0, 0, 29, .rw, 0⟩]⟩,
   ⟨0xac, 1, [⟨7, 0, 0, 4, .rw, 0⟩]⟩]
def rowsCch1 : List RegRow :=
  [⟨0xb0, 1, [⟨7, 0, 0, 32, .ro, 0⟩]⟩,
   ⟨0xb4, 1, [⟨7, 0, 0, 32, .ro, 0⟩]⟩,
   ⟨0xb8, 1, [⟨7, 0, 0, 32, .ro, 0⟩]⟩,
   ⟨0xbc, 1, [⟨7, 0, 0, 32, .ro, 0⟩]⟩,
   ⟨0xc0, 1, [⟨7, 0, 0, 32, .ro, 0⟩]⟩,
   ⟨0xc4, 1, [⟨7, 0, 0, 32, .ro, 0⟩]⟩,
   ⟨0xc8, 1, [⟨7, 0, 0, 32, .ro, 0⟩]⟩,
   ⟨0xcc, 1, [⟨7, 0, 0, 16, .ro, 0⟩]⟩,
   ⟨0xd0, 1, [⟨7, 0, 31, 1, .wo, 0⟩, ⟨7, 0, 0, 5, .ro, 0⟩]⟩,
   ⟨0x100, 16, [⟨7, 0, 16, 16, .ro, 0⟩, ⟨7, 0, 0, 16, .ro, 0⟩]⟩]
def rowsCch : List RegRow := rowsCch0 ++ rowsCch1
def rowsLkp0 : List RegRow :=
  [⟨0x80, 1, [⟨8, 0, 6, 2, .rwl, 0⟩, ⟨8, 0, 4, 2, .rwl, 0⟩, ⟨8, 0, 0, 3, .rwl, 0⟩]⟩,
   ⟨0x84, 1, [⟨8, 0, 6, 2, .ro, 0⟩, ⟨8, 0, 0, 6, .ro, 0⟩, ⟨8, 0, 14, 2, .ro, 0⟩, ⟨8, 0, 8, 6, .ro, 0⟩, ⟨8, 0, 22, 2, .ro, 0⟩, ⟨8, 0, 16, 6, .ro, 0⟩]⟩,
   ⟨0x88, 1, [⟨8, 0, 16, 8, .rw, 48⟩, ⟨8, 0, 8, 8, .rw, 16⟩, ⟨8, 0, 0, 8, .rw, 8⟩]⟩,
   ⟨0x8c, 1, [⟨8, 0, 0, 32, .ro, 0⟩]⟩,
   ⟨0x90, 1, [⟨8, 0, 0, 32, .ro, 0⟩]⟩,
   ⟨0x94, 1, [⟨8, 0, 0, 32, .ro, 0⟩]⟩,
   ⟨0x98, 1, [⟨8, 0, 24, 8, .ro, 0⟩, ⟨8, 0, 0, 24, .ro, 0⟩]⟩,
   ⟨0x9c, 1, [⟨8, 0, 16, 16, .ro, 0⟩, ⟨8, 0, 0, 16, .ro, 0⟩]⟩,
   ⟨0xa0, 1, [⟨8, 0, 31, 1, .wo, 0⟩, ⟨8, 0, 0, 16, .ro, 0⟩]⟩,
   ⟨0xa4, 1, [⟨8, 0, 16, 11, .ro, 1024⟩, ⟨8, 0, 0, 11, .ro, 0⟩]⟩,
   ⟨0xa8, 1, [⟨8, 0, 0, 32, .ro, 0⟩]⟩,
   ⟨0xac, 1, [⟨8, 0, 16, 16, .ro, 0⟩, ⟨8, 0, 0, 16, .ro, 0⟩]⟩]
def rowsLkp1 : List RegRow :=
  [⟨0xb0, 1, [⟨8, 0, 0, 32, .ro, 0⟩]⟩,
   ⟨0xc0, 3, [⟨8, 0, 0, 16, .rwl, 0⟩]⟩,
   ⟨0x100, 64, [⟨8, 0, 31, 1, .rwl, 0⟩, ⟨8, 0, 30, 1, .rwl, 0⟩, ⟨8, 0, 29, 1, .rwl, 0⟩, ⟨8, 0, 28, 1, .rwl, 0⟩, ⟨8, 0, 24, 4, .rwl, 0⟩, ⟨8, 0, 21, 3, .rwl, 0⟩, ⟨8, 0, 19, 2, .rwl, 0⟩]⟩,
   ⟨0x200, 64, [⟨8, 0, 16, 13, .rwl, 0⟩, ⟨8, 0, 0, 11, .rwl, 0⟩]⟩,
   ⟨0x300, 64, [⟨8, 0, 31, 1, .ro, 0⟩, ⟨8, 0, 30, 1, .ro, 0⟩, ⟨8, 0, 16, 13, .ro, 0⟩, ⟨8, 0, 13, 3, .ro, 0⟩, ⟨8, 0, 0, 13, .ro, 0⟩]⟩,
   ⟨0x400, 16, [⟨8, 0, 1, 1, .ro, 0⟩, ⟨8, 0, 0, 1, .ro, 0⟩, ⟨8, 0, 3, 1, .ro, 0⟩, ⟨8, 0, 2, 1, .ro, 0⟩, ⟨8, 0, 5, 1, .ro, 0⟩, ⟨8, 0, 4, 1, .ro, 0⟩, ⟨8, 0, 7, 1, .ro, 0⟩, ⟨8, 0, 6, 1, .ro, 0⟩, ⟨8, 0, 9, 1, .ro, 0⟩, ⟨8, 0, 8, 1, .ro, 0⟩, ⟨8, 0, 11, 1, .ro, 0⟩, ⟨8, 0, 10, 1, .ro, 0⟩, ⟨8, 0, 13, 1, .ro, 0⟩, ⟨8, 0, 12, 1, .ro, 0⟩, ⟨8, 0, 15, 1, .ro, 0⟩, ⟨8, 0, 14, 1, .ro, 0⟩, ⟨8, 0, 17, 1, .ro, 0⟩, ⟨8, 0, 16, 1, .ro, 0⟩, ⟨8, 0, 19, 1, .ro, 0⟩, ⟨8, 0, 18, 1, .ro, 0⟩, ⟨8, 0, 21, 1, .ro, 0⟩, ⟨8, 0, 20, 1, .ro, 0⟩, ⟨8, 0, 23, 1, .ro, 0⟩, ⟨8, 0, 22, 1, .ro, 0⟩, ⟨8, 0, 25, 1, .ro, 0⟩, ⟨8, 0, 24, 1, .ro, 0⟩, ⟨8, 0, 27, 1, .ro, 0⟩, ⟨8, 0, 26, 1, .ro, 0⟩, ⟨8, 0, 29, 1, .ro, 0⟩, ⟨8, 0, 28, 1, .ro, 0⟩, ⟨8, 0, 31, 1, .ro, 0⟩, ⟨8, 0, 30, 1, .ro, 0⟩]⟩]
def rowsLkp : List RegRow := rowsLkp0 ++ rowsLkp1
def rowsCsc : List RegRow :=
  [⟨0x80, 1, [⟨9, 0, 9, 1, .w1s, 0⟩, ⟨9, 0, 8, 1, .w1s, 0⟩, ⟨9, 0, 1, 1, .rw, 1⟩, ⟨9, 0, 0, 1, .rw, 1⟩]⟩,
   ⟨0x84, 1, [⟨9, 0, 30, 2, .ro, 0⟩, ⟨9, 0, 28, 2, .ro, 0⟩, ⟨9, 0, 27, 1, .ro, 0⟩, ⟨9, 0, 26, 1, .ro, 0⟩, ⟨9, 0, 25, 1, .ro, 0⟩, ⟨9, 0, 24, 1, .ro, 0⟩, ⟨9, 0, 20, 4, .ro, 0⟩, ⟨9, 0, 16, 4, .ro, 0⟩, ⟨9, 0, 12, 4, .ro, 0⟩, ⟨9, 0, 8, 4, .ro, 0⟩]⟩,
   ⟨0x88, 1, [⟨9, 0, 8, 8, .ro, 0⟩, ⟨9, 0, 0, 8, .ro, 0⟩]⟩,
   ⟨0x8c, 1, [⟨9, 0, 16, 16, .ro, 0⟩, ⟨9, 0, 0, 16, .ro, 0⟩]⟩,
   ⟨0x90, 1, [⟨9, 0, 0, 32, .ro, 0⟩]⟩,
   ⟨0x94, 1, [⟨9, 0, 8, 8, .ro, 0⟩, ⟨9, 0, 0, 8, .ro, 0⟩]⟩]
def rowsArb : List RegRow :=
  [⟨0x80, 1, [⟨10, 0, 0, 2, .rw, 0⟩]⟩,
   ⟨0x84, 1, [⟨10, 0, 31, 1, .w1s, 0⟩]⟩,
   ⟨0x88, 1, [⟨10, 0, 31, 1, .ro, 0⟩, ⟨10, 0, 30, 1, .ro, 0⟩, ⟨10, 0, 16, 6, .ro, 0⟩, ⟨10, 0, 0, 6, .ro, 0⟩]⟩,
   ⟨0x8c, 1, [⟨10, 0, 16, 16, .ro, 0⟩, ⟨10, 0, 0, 6, .ro, 0⟩]⟩,
   ⟨0x90, 1, [⟨10, 0, 31, 1, .wo, 0⟩, ⟨10, 0, 0, 5, .rw, 0⟩]⟩,
   ⟨0x94, 1, [⟨10, 0, 0, 32, .ro, 0⟩]⟩,
   ⟨0x98, 1, [⟨10, 0, 16, 16, .ro, 0⟩, ⟨10, 0, 4, 4, .ro, 0⟩, ⟨10, 0, 0, 4, .ro, 0⟩]⟩,
   ⟨0x9c, 1, [⟨10, 0, 16, 16, .ro, 0⟩, ⟨10, 0, 0, 16, .ro, 0⟩]⟩,
   ⟨0xa0, 1, [⟨10, 0, 24, 8, .ro, 0⟩, ⟨10, 0, 16, 8, .ro, 0⟩, ⟨10, 0, 8, 8, .ro, 0⟩, ⟨10, 0, 6, 2, .ro, 0⟩, ⟨10, 0, 0, 6, .ro, 0⟩]⟩,
   ⟨0xc0, 4, [⟨10, 0, 0, 4, .rw, 0⟩, ⟨10, 0, 4, 4, .rw, 0⟩, ⟨10, 0, 8, 4, .rw, 0⟩, ⟨10, 0, 12, 4, .rw, 0⟩, ⟨10, 0, 16, 4, .rw, 0⟩, ⟨10, 0, 20, 4, .rw, 0⟩, ⟨10, 0, 24, 4, .rw, 0⟩, ⟨10, 0, 28, 4, .rw, 0⟩]⟩,
   ⟨0x100, 16, [⟨10, 0, 7, 1, .rw, 0⟩, ⟨10, 0, 0, 5, .rw, 0⟩, ⟨10, 0, 15, 1, .rw, 0⟩, ⟨10, 0, 8, 5, .rw, 0⟩, ⟨10, 0, 23, 1, .rw, 0⟩, ⟨10, 0, 16, 5, .rw, 0⟩, ⟨10, 0, 31, 1, .rw, 0⟩, ⟨10, 0, 24, 5, .rw, 0⟩]⟩]
def rowsHif0 : List RegRow :=
  [⟨0x80, 1, [⟨11, 0, 31, 1, .ro, 0⟩, ⟨11, 0, 30, 1, .ro, 0⟩, ⟨11, 0, 29, 1, .ro, 0⟩, ⟨11, 0, 28, 1, .ro, 0⟩, ⟨11, 0, 27, 1, .ro, 0⟩, ⟨11, 0, 20, 3, .ro, 0⟩, ⟨11, 0, 15, 5, .ro, 0⟩, ⟨11, 0, 0, 5, .ro, 20⟩]⟩,
   ⟨0x84, 1, [⟨11, 0, 0, 6, .rw, 0⟩]⟩,
   ⟨0x88, 1, [⟨11, 0, 31, 1, .rw, 0⟩, ⟨11, 0, 30, 1, .rw, 0⟩, ⟨11, 0, 29, 1, .rw, 0⟩, ⟨11, 0, 23, 6, .rw, 0⟩, ⟨11, 0, 22, 1, .ro, 0⟩, ⟨11, 0, 21, 1, .ro, 0⟩, ⟨11, 0, 0, 16, .rw, 0⟩]⟩,
   ⟨0x8c, 1, [⟨11, 0, 0, 20, .rw, 0⟩]⟩,
   ⟨0x90, 1, [⟨11, 0, 0, 32, .rw, 0⟩]⟩,
   ⟨0x94, 1, [⟨11, 0, 0, 32, .rw, 0⟩]⟩,
   ⟨0x98, 1, [⟨11, 0, 0, 32, .rw, 0⟩]⟩,
   ⟨0x9c, 1, [⟨11, 0, 0, 32, .rw, 0⟩]⟩,
   ⟨0xa0, 1, [⟨11, 0, 16, 16, .ro, 0⟩, ⟨11, 0, 0, 16, .ro, 0⟩]⟩,
   ⟨0xa4, 1, [⟨11, 0, 0, 6, .rw, 0⟩]⟩,
   ⟨0xa8, 1, [⟨11, 0, 31, 1, .rw, 0⟩, ⟨11, 0, 30, 1, .rw, 0⟩, ⟨11, 0, 29, 1, .rw, 0⟩, ⟨11, 0, 23, 6, .rw, 0⟩, ⟨11, 0, 0, 16, .rw, 0⟩]⟩,
   ⟨0xac, 1, [⟨11, 0, 0, 20, .rw, 0⟩]⟩]
def rowsHif1 : List RegRow :=
  [⟨0xb0, 1, [⟨11, 0, 0, 32, .rw, 0⟩]⟩,
   ⟨0xb4, 1, [⟨11, 0, 0, 32, .rw, 0⟩]⟩,
   ⟨0xb8, 1, [⟨11, 0, 16, 16, .ro, 0⟩, ⟨11, 0, 0, 16, .ro, 0⟩]⟩,
   ⟨0xbc, 1, [⟨11, 0, 0, 3, .rw, 0⟩]⟩,
   ⟨0xc0, 1, [⟨11, 0, 12, 18, .rw, 0⟩]⟩,
   ⟨0xc4, 1, [⟨11, 0, 30, 2, .rw, 0⟩, ⟨11, 0, 25, 5, .rw, 0⟩, ⟨11, 0, 22, 3, .rw, 0⟩, ⟨11, 0, 16, 6, .rw, 0⟩, ⟨11, 0, 15, 1, .rw, 0⟩]⟩,
   ⟨0xc8, 1, [⟨11, 0, 31, 1, .w1s, 0⟩]⟩,
   ⟨0xcc, 1, [⟨11, 0, 31, 1, .ro, 0⟩, ⟨11, 0, 28, 3, .ro, 0⟩, ⟨11, 0, 8, 7, .ro, 0⟩, ⟨11, 0, 0, 8, .ro, 0⟩]⟩,
   ⟨0xd0, 1, [⟨11, 0, 24, 8, .ro, 0⟩, ⟨11, 0, 0, 24, .ro, 0⟩]⟩,
   ⟨0xd4, 1, [⟨11, 0, 0, 32, .ro, 0⟩]⟩,
   ⟨0xd8, 1, [⟨11, 0, 16, 16, .ro, 0⟩, ⟨11, 0, 0, 16, .ro, 0⟩]⟩,
   ⟨0xdc, 1, [⟨11, 0, 16, 16, .ro, 0⟩, ⟨11, 0, 0, 10, .ro, 0⟩]⟩]
def rowsHif : List RegRow := rowsHif0 ++ rowsHif1
def rowsMss : List RegRow :=
  [⟨0x80, 1, [⟨12, 0, 4, 1, .ro, 1⟩, ⟨12, 0, 3, 1, .ro, 1⟩, ⟨12, 0, 2, 1, .ro, 1⟩, ⟨12, 0, 1, 1, .ro, 1⟩, ⟨12, 0, 0, 1, .ro, 1⟩]⟩,
   ⟨0x84, 1, [⟨12, 0, 26, 6, .rw, 0⟩, ⟨12, 0, 8, 2, .rw, 3⟩, ⟨12, 0, 6, 2, .rw, 3⟩, ⟨12, 0, 5, 1, .rw, 1⟩, ⟨12, 0, 4, 1, .rw, 0⟩, ⟨12, 0, 3, 1, .rw, 0⟩, ⟨12, 0, 2, 1, .rw, 0⟩, ⟨12, 0, 1, 1, .rw, 0⟩]⟩,
   ⟨0x88, 1, [⟨12, 0, 6, 1, .ro, 0⟩, ⟨12, 0, 5, 1, .ro, 0⟩, ⟨12, 0, 4, 1, .w1c, 0⟩, ⟨12, 0, 3, 1, .w1c, 0⟩, ⟨12, 0, 2, 1, .w1c, 0⟩, ⟨12, 0, 0, 1, .w1c, 0⟩]⟩,
   ⟨0x8c, 1, [⟨12, 0, 16, 16, .ro, 0⟩, ⟨12, 0, 0, 16, .ro, 0⟩]⟩]
def rowsTim0 : List RegRow :=
  [⟨0x80, 1, [⟨13, 0, 4, 1, .rw, 0⟩, ⟨13, 0, 3, 1, .w1s, 0⟩, ⟨13, 0, 2, 1, .rw, 0⟩, ⟨13, 0, 1, 1, .rw, 1⟩]⟩,
   ⟨0x84, 1, [⟨13, 0, 31, 1, .ro, 0⟩, ⟨13, 0, 30, 1, .ro, 1⟩, ⟨13, 0, 28, 2, .ro, 0⟩, ⟨13, 0, 27, 1, .ro, 0⟩]⟩,
   ⟨0x88, 1, [⟨13, 0, 0, 32, .ro, 2863311531⟩]⟩,
   ⟨0x8c, 1, [⟨13, 0, 0, 8, .ro, 2⟩]⟩,
   ⟨0x90, 1, [⟨13, 0, 0, 32, .ro, 0⟩]⟩,
   ⟨0x94, 1, [⟨13, 0, 0, 16, .ro, 0⟩]⟩,
   ⟨0x98, 1, [⟨13, 0, 0, 30, .ro, 0⟩]⟩,
   ⟨0x9c, 1, [⟨13, 0, 0, 16, .ro, 0⟩]⟩,
   ⟨0xa0, 1, [⟨13, 0, 0, 32, .rw, 0⟩]⟩,
   ⟨0xa4, 1, [⟨13, 0, 0, 16, .rw, 0⟩]⟩,
   ⟨0xa8, 1, [⟨13, 0, 0, 20, .rw, 0⟩]⟩,
   ⟨0xac, 1, [⟨13, 0, 0, 20, .rw, 0⟩]⟩]
def rowsTim1 : List RegRow :=
  [⟨0xb0, 1, [⟨13, 0, 0, 20, .rw, 0⟩]⟩,
   ⟨0xb4, 1, [⟨13, 0, 0, 32, .ro, 0⟩]⟩,
   ⟨0xb8, 1, [⟨13, 0, 0, 32, .ro, 0⟩]⟩,
   ⟨0xbc, 1, [⟨13, 0, 0, 16, .rw, 10⟩]⟩,
   ⟨0xc0, 1, [⟨13, 0, 0, 20, .rw, 100000⟩]⟩,
   ⟨0xc4, 1, [⟨13, 0, 16, 16, .ro, 0⟩, ⟨13, 0, 0, 16, .ro, 0⟩]⟩]
def rowsTim : List RegRow := rowsTim0 ++ rowsTim1
def rowsEvd0 : List RegRow :=
  [⟨0x80, 1, [⟨14, 0, 31, 1, .rw, 0⟩, ⟨14, 0, 1, 1, .rw, 0⟩, ⟨14, 0, 0, 1, .rw, 0⟩]⟩,
   ⟨0x84, 1, [⟨14, 0, 31, 1, .ro, 0⟩, ⟨14, 0, 28, 3, .ro, 1⟩, ⟨14, 0, 27, 1, .ro, 0⟩]⟩,
   ⟨0x88, 1, [⟨14, 0, 24, 3, .rw, 0⟩, ⟨14, 0, 16, 5, .rw, 16⟩, ⟨14, 0, 0, 16, .rw, 100⟩]⟩,
   ⟨0x8c, 1, [⟨14, 0, 0, 32, .rw, 0⟩]⟩,
   ⟨0x90, 1, [⟨14, 0, 0, 32, .rw, 0⟩]⟩,
   ⟨0x94, 1, [⟨14, 0, 0, 32, .rw, 0⟩]⟩,
   ⟨0x98, 1, [⟨14, 0, 0, 32, .rw, 0⟩]⟩,
   ⟨0x9c, 1, [⟨14, 0, 0, 32, .rw, 0⟩]⟩,
   ⟨0xa0, 1, [⟨14, 0, 0, 32, .rw, 0⟩]⟩,
   ⟨0xa4, 1, [⟨14, 0, 20, 1, .rw, 0⟩, ⟨14, 0, 0, 20, .rw, 0⟩]⟩,
   ⟨0xa8, 1, [⟨14, 0, 0, 32, .ro, 0⟩]⟩,
   ⟨0xac, 1, [⟨14, 0, 0, 32, .ro, 0⟩]⟩]
def rowsEvd1 : List RegRow :=
  [⟨0xb0, 1, [⟨14, 0, 0, 32, .rw, 0⟩]⟩,
   ⟨0xb4, 1, [⟨14, 0, 0, 32, .rw, 0⟩]⟩,
   ⟨0xb8, 1, [⟨14, 0, 0, 32, .ro, 0⟩]⟩,
   ⟨0xbc, 1, [⟨14, 0, 0, 32, .ro, 0⟩]⟩,
   ⟨0xc0, 1, [⟨14, 0, 0, 32, .ro, 0⟩]⟩,
   ⟨0xc4, 1, [⟨14, 0, 0, 32, .ro, 0⟩]⟩,
   ⟨0xc8, 1, [⟨14, 0, 0, 32, .ro, 0⟩]⟩,
   ⟨0x100, 24, [⟨14, 0, 0, 32, .ro, 0⟩]⟩]
def rowsEvd : List RegRow := rowsEvd0 ++ rowsEvd1
def rowsPwr : List RegRow :=
  [⟨0x80, 1, [⟨15, 0, 31, 1, .wo, 0⟩, ⟨15, 0, 0, 8, .rw, 0⟩]⟩,
   ⟨0x94, 1, [⟨15, 0, 16, 16, .ro, 65535⟩, ⟨15, 0, 0, 16, .ro, 65535⟩]⟩,
   ⟨0x98, 1, [⟨15, 0, 0, 6, .ro, 63⟩]⟩,
   ⟨0x9c, 1, [⟨15, 0, 0, 16, .ro, 0⟩]⟩,
   ⟨0xa0, 1, [⟨15, 0, 0, 6, .ro, 0⟩]⟩,
   ⟨0xb0, 1, [⟨15, 0, 31, 1, .rwl, 1⟩, ⟨15, 0, 16, 12, .rwl, 32⟩, ⟨15, 0, 0, 16, .rwl, 1440⟩]⟩,
   ⟨0xb4, 1, [⟨15, 0, 0, 1, .rwl, 0⟩]⟩,
   ⟨0xb8, 1, [⟨15, 0, 0, 16, .rw, 0⟩]⟩,
   ⟨0xbc, 1, [⟨15, 0, 31, 1, .ro, 0⟩, ⟨15, 0, 16, 6, .ro, 0⟩, ⟨15, 0, 0, 16, .ro, 0⟩]⟩]
def rowsClk : List RegRow :=
  [⟨0x80, 1, [⟨16, 0, 1, 1, .rwl, 0⟩, ⟨16, 0, 0, 1, .rw, 0⟩]⟩,
   ⟨0x84, 1, [⟨16, 0, 31, 1, .ro, 0⟩, ⟨16, 0, 30, 1, .ro, 0⟩, ⟨16, 0, 29, 1, .ro, 0⟩, ⟨16, 0, 28, 1, .ro, 0⟩, ⟨16, 0, 0, 20, .ro, 0⟩]⟩,
   ⟨0x88, 1, [⟨16, 0, 0, 32, .ro, 0⟩]⟩,
   ⟨0x8c, 1, [⟨16, 0, 0, 16, .ro, 0⟩]⟩,
   ⟨0x90, 1, [⟨16, 0, 16, 16, .ro, 0⟩, ⟨16, 0, 8, 8, .ro, 0⟩, ⟨16, 0, 0, 8, .ro, 0⟩]⟩]
def rowsFlt : List RegRow :=
  [⟨0x80, 1, [⟨17, 0, 0, 21, .ro, 0⟩]⟩,
   ⟨0x84, 1, [⟨17, 0, 26, 6, .rw, 0⟩, ⟨17, 0, 2, 1, .rw, 1⟩, ⟨17, 0, 1, 1, .rw, 0⟩, ⟨17, 0, 0, 1, .rw, 0⟩]⟩,
   ⟨0x88, 1, [⟨17, 0, 0, 16, .rw, 1000⟩]⟩,
   ⟨0x8c, 1, [⟨17, 0, 16, 8, .ro, 0⟩, ⟨17, 0, 8, 8, .ro, 0⟩, ⟨17, 0, 0, 8, .ro, 0⟩]⟩,
   ⟨0x90, 1, [⟨17, 0, 31, 1, .w1s, 0⟩, ⟨17, 0, 30, 1, .rw, 0⟩]⟩,
   ⟨0xa0, 1, [⟨17, 0, 31, 1, .w1s, 0⟩, ⟨17, 0, 30, 1, .rw, 0⟩, ⟨17, 0, 27, 3, .rw, 0⟩, ⟨17, 0, 16, 4, .rw, 0⟩]⟩,
   ⟨0xa4, 1, [⟨17, 0, 0, 32, .rw, 0⟩]⟩,
   ⟨0xa8, 1, [⟨17, 0, 0, 32, .rw, 0⟩]⟩,
   ⟨0xac, 1, [⟨17, 0, 16, 16, .ro, 0⟩, ⟨17, 0, 0, 16, .ro, 0⟩]⟩,
   ⟨0xb0, 1, [⟨17, 0, 31, 1, .ro, 0⟩, ⟨17, 0, 28, 3, .ro, 0⟩]⟩,
   ⟨0xc0, 8, [⟨17, 0, 0, 32, .ro, 0⟩]⟩,
   ⟨0xe0, 8, [⟨17, 0, 0, 32, .ro, 0⟩]⟩]
def rowsSec : List RegRow :=
  [⟨0x80, 1, [⟨18, 0, 31, 1, .ro, 0⟩, ⟨18, 0, 30, 1, .ro, 0⟩, ⟨18, 0, 24, 4, .ro, 0⟩, ⟨18, 0, 0, 9, .w1c, 0⟩]⟩,
   ⟨0x84, 1, [⟨18, 0, 0, 2, .rwl, 2⟩, ⟨18, 0, 2, 2, .rwl, 1⟩, ⟨18, 0, 4, 2, .rwl, 1⟩, ⟨18, 0, 6, 2, .rwl, 2⟩, ⟨18, 0, 8, 2, .rwl, 1⟩, ⟨18, 0, 10, 2, .rwl, 1⟩, ⟨18, 0, 12, 2, .rwl, 1⟩]⟩,
   ⟨0x88, 1, [⟨18, 0, 31, 1, .w1s, 0⟩]⟩,
   ⟨0x8c, 1, [⟨18, 0, 28, 4, .ro, 0⟩, ⟨18, 0, 26, 2, .ro, 0⟩, ⟨18, 0, 22, 4, .ro, 0⟩, ⟨18, 0, 15, 7, .ro, 0⟩]⟩,
   ⟨0x90, 1, [⟨18, 0, 0, 32, .ro, 0⟩]⟩,
   ⟨0x94, 1, [⟨18, 0, 31, 1, .w1s, 0⟩, ⟨18, 0, 30, 1, .w1s, 0⟩, ⟨18, 0, 28, 2, .rw, 0⟩, ⟨18, 0, 24, 4, .ro, 0⟩, ⟨18, 0, 0, 2, .ro, 0⟩]⟩,
   ⟨0x98, 1, [⟨18, 0, 31, 1, .w1s, 0⟩, ⟨18, 0, 28, 3, .ro, 0⟩]⟩,
   ⟨0x100, 12, [⟨18, 0, 0, 32, .ro, 0⟩]⟩,
   ⟨0x140, 24, [⟨18, 0, 0, 32, .wo, 0⟩]⟩,
   ⟨0x200, 24, [⟨18, 0, 0, 32, .ro, 0⟩]⟩,
   ⟨0x260, 24, [⟨18, 0, 0, 32, .ro, 0⟩]⟩]
def rowsDbg : List RegRow :=
  [⟨0x80, 1, [⟨19, 0, 30, 2, .ro, 0⟩]⟩,
   ⟨0x84, 1, [⟨19, 0, 0, 9, .rw, 0⟩]⟩,
   ⟨0x88, 1, [⟨19, 0, 0, 3, .wo, 0⟩]⟩,
   ⟨0x8c, 1, [⟨19, 0, 28, 4, .ro, 0⟩, ⟨19, 0, 14, 14, .ro, 0⟩, ⟨19, 0, 11, 3, .ro, 0⟩, ⟨19, 0, 10, 1, .ro, 0⟩, ⟨19, 0, 9, 1, .ro, 0⟩, ⟨19, 0, 8, 1, .ro, 0⟩, ⟨19, 0, 0, 6, .ro, 0⟩]⟩,
   ⟨0x90, 1, [⟨19, 0, 0, 5, .wo, 0⟩]⟩,
   ⟨0x94, 1, [⟨19, 0, 0, 24, .rw, 7500⟩]⟩,
   ⟨0x98, 1, [⟨19, 0, 0, 32, .ro, 0⟩]⟩,
   ⟨0x9c, 1, [⟨19, 0, 0, 32, .ro, 0⟩]⟩]
def rowsBsq : List RegRow :=
  [⟨0x80, 1, [⟨20, 0, 31, 1, .w1s, 0⟩, ⟨20, 0, 0, 1, .rw, 1⟩]⟩,
   ⟨0x84, 1, [⟨20, 0, 31, 1, .ro, 0⟩, ⟨20, 0, 30, 1, .ro, 0⟩, ⟨20, 0, 28, 2, .ro, 0⟩, ⟨20, 0, 24, 4, .ro, 0⟩, ⟨20, 0, 0, 16, .ro, 0⟩]⟩,
   ⟨0x88, 1, [⟨20, 0, 24, 8, .ro, 0⟩, ⟨20, 0, 20, 4, .ro, 0⟩, ⟨20, 0, 10, 7, .ro, 0⟩, ⟨20, 0, 0, 10, .ro, 0⟩]⟩,
   ⟨0x8c, 1, [⟨20, 0, 16, 16, .ro, 0⟩, ⟨20, 0, 0, 16, .ro, 0⟩]⟩,
   ⟨0x100, 16, [⟨20, 0, 31, 1, .ro, 0⟩, ⟨20, 0, 30, 1, .ro, 0⟩, ⟨20, 0, 29, 1, .ro, 0⟩, ⟨20, 0, 16, 6, .ro, 0⟩, ⟨20, 0, 0, 16, .ro, 0⟩]⟩]
def rowsRs : List RegRow :=
  [⟨0x80, 1, [⟨21, 0, 8, 8, .ro, 0⟩, ⟨21, 0, 3, 1, .ro, 0⟩, ⟨21, 0, 2, 1, .ro, 0⟩, ⟨21, 0, 1, 1, .ro, 0⟩, ⟨21, 0, 0, 1, .ro, 0⟩]⟩,
   ⟨0x84, 1, [⟨21, 0, 16, 16, .ro, 0⟩, ⟨21, 0, 0, 16, .ro, 0⟩]⟩,
   ⟨0x88, 1, [⟨21, 0, 16, 16, .ro, 0⟩, ⟨21, 0, 0, 8, .ro, 0⟩]⟩]

/-! ## Package capability (R5) and the descriptor tables held like registers (R59, R64, R244, R245)

Pages 22 to 25 are the model's numbers for the partition table, the two region tables and the shelf descriptors;
the descriptor number is the register's bank. -/

def PAGE_CAP.PROFILE : Fld := ⟨0, 0x8, 12, 2, .ro, 0⟩

def pgPart : Nat := 22
def pgSr : Nat := 23
def pgCr : Nat := 24
def pgShelf : Nat := 25

def PART_CTL.VALID : Fld := ⟨22, 0x00, 31, 1, .rw, 0⟩
def PART_CTL.CLASS : Fld := ⟨22, 0x00, 30, 1, .rw, 0⟩
def PART_CTL.ACT_GEN : Fld := ⟨22, 0x00, 29, 1, .ro, 0⟩
def PART_CTL.GENSEL_EN : Fld := ⟨22, 0x00, 28, 1, .rw, 0⟩
def PART_CTL.WIDTH : Fld := ⟨22, 0x00, 25, 3, .rw, 0⟩
def PART_CTL.STORE : Fld := ⟨22, 0x00, 24, 1, .rw, 0⟩
def PART_CTL.CELLAR : Fld := ⟨22, 0x00, 23, 1, .rw, 0⟩
def PART_REGION.CL_REGION : Fld := ⟨22, 0x04, 8, 8, .rw, 0⟩
def PART_REGION.SR_REGION : Fld := ⟨22, 0x04, 0, 8, .rw, 0⟩
def PART_BANKS.BANKS (die : Nat) : Fld := ⟨22, 0x08 + 4 * (die / 2), 16 * (die % 2), 16, .rw, 0⟩
def PART_CASC.CASC_MASK : Fld := ⟨22, 0x18, 0, 4, .rw, 0⟩
def PART_FLIPS.FLIPS : Fld := ⟨22, 0x1c, 0, 32, .ro, 0⟩

def SR_CTL.VALID : Fld := ⟨23, 0x00, 31, 1, .rw, 0⟩
def SR_BASE.BASE : Fld := ⟨23, 0x04, 0, 29, .rw, 0⟩
def SR_SIZE.NBUCK : Fld := ⟨23, 0x08, 0, 30, .rw, 0⟩
def SR_SEED0_HI.SEED : Fld := ⟨23, 0x0c, 0, 32, .rw, 0⟩
def SR_SEED0_LO.SEED : Fld := ⟨23, 0x10, 0, 32, .rw, 0⟩
def SR_SEED1_HI.SEED : Fld := ⟨23, 0x14, 0, 32, .rw, 0⟩
def SR_SEED1_LO.SEED : Fld := ⟨23, 0x18, 0, 32, .rw, 0⟩

def CR_CTL.VALID : Fld := ⟨24, 0x00, 31, 1, .rw, 0⟩
def CR_CTL.PASID_EN : Fld := ⟨24, 0x00, 30, 1, .rw, 0⟩
def CR_CTL.CAUSE : Fld := ⟨24, 0x00, 24, 4, .ro, 1⟩
def CR_CTL.KSLOT : Fld := ⟨24, 0x00, 16, 8, .rw, 0⟩
def CR_CTL.PROMO_SR : Fld := ⟨24, 0x00, 8, 8, .rw, 0⟩
def CR_PASID.PASID : Fld := ⟨24, 0x04, 0, 20, .rw, 0⟩
def CR_BASE_HI.ADDR : Fld := ⟨24, 0x08, 0, 32, .rw, 0⟩
def CR_BASE_LO.ADDR : Fld := ⟨24, 0x0c, 0, 32, .rw, 0⟩
def CR_TAG_HI.ADDR : Fld := ⟨24, 0x10, 0, 32, .rw, 0⟩
def CR_TAG_LO.ADDR : Fld := ⟨24, 0x14, 0, 32, .rw, 0⟩
def CR_SIZE.NBUCK : Fld := ⟨24, 0x18, 0, 32, .rw, 0⟩
def CR_SEED0_HI.SEED : Fld := ⟨24, 0x1c, 0, 32, .rw, 0⟩
def CR_SEED0_LO.SEED : Fld := ⟨24, 0x20, 0, 32, .rw, 0⟩
def CR_SEED1_HI.SEED : Fld := ⟨24, 0x24, 0, 32, .rw, 0⟩
def CR_SEED1_LO.SEED : Fld := ⟨24, 0x28, 0, 32, .rw, 0⟩
def CR_WSEQ.WSEQ : Fld := ⟨24, 0x2c, 0, 32, .ro, 0⟩

def SHELF_DESC.TAG : Fld := ⟨25, 0x00, 24, 8, .ro, 0⟩
def SHELF_DESC.TAG_MASK : Fld := ⟨25, 0x00, 16, 8, .ro, 0⟩
def SHELF_DESC.OWNER : Fld := ⟨25, 0x00, 8, 8, .ro, 0⟩
def SHELF_DESC.OWNED : Fld := ⟨25, 0x00, 7, 1, .ro, 0⟩
def SHELF_DESC.GAP_LOG2 : Fld := ⟨25, 0x00, 0, 4, .ro, 4⟩
/-- The GAP_LOG2 in force (R150): state the manual names without a register. -/
def SHELF_GAP.IN_FORCE : Fld := ⟨25, 0x08, 0, 4, .ro, 4⟩

def rowsPart : List RegRow :=
  [⟨0x00, 1, [PART_CTL.VALID, PART_CTL.CLASS, PART_CTL.ACT_GEN, PART_CTL.GENSEL_EN, PART_CTL.WIDTH, PART_CTL.STORE, PART_CTL.CELLAR]⟩,
   ⟨0x04, 1, [PART_REGION.CL_REGION, PART_REGION.SR_REGION]⟩,
   ⟨0x08, 4, [PART_BANKS.BANKS 0, PART_BANKS.BANKS 1]⟩, ⟨0x18, 1, [PART_CASC.CASC_MASK]⟩, ⟨0x1c, 1, [PART_FLIPS.FLIPS]⟩]
def rowsSr : List RegRow :=
  [⟨0x00, 1, [SR_CTL.VALID]⟩, ⟨0x04, 1, [SR_BASE.BASE]⟩, ⟨0x08, 1, [SR_SIZE.NBUCK]⟩, ⟨0x0c, 4, [SR_SEED0_HI.SEED]⟩]
def rowsCr : List RegRow :=
  [⟨0x00, 1, [CR_CTL.VALID, CR_CTL.PASID_EN, CR_CTL.CAUSE, CR_CTL.KSLOT, CR_CTL.PROMO_SR]⟩, ⟨0x04, 1, [CR_PASID.PASID]⟩,
   ⟨0x08, 9, [CR_BASE_HI.ADDR]⟩, ⟨0x2c, 1, [CR_WSEQ.WSEQ]⟩]
def rowsShelf : List RegRow :=
  [⟨0x00, 1, [SHELF_DESC.TAG, SHELF_DESC.TAG_MASK, SHELF_DESC.OWNER, SHELF_DESC.OWNED, SHELF_DESC.GAP_LOG2]⟩]

/-- The registers of a page (R498). -/
def pageRows (pg : Nat) : List RegRow :=
  match pg with
  | 0 => rowsPkg
  | 1 => rowsAtc
  | 2 => rowsUpd
  | 3 => rowsSeq
  | 4 => rowsThr
  | 5 => rowsStr
  | 6 => rowsCel
  | 7 => rowsCch
  | 8 => rowsLkp
  | 9 => rowsCsc
  | 10 => rowsArb
  | 11 => rowsHif
  | 12 => rowsMss
  | 13 => rowsTim
  | 14 => rowsEvd
  | 15 => rowsPwr
  | 16 => rowsClk
  | 17 => rowsFlt
  | 18 => rowsSec
  | 19 => rowsDbg
  | 20 => rowsBsq
  | 21 => rowsRs
  | 22 => rowsPart
  | 23 => rowsSr
  | 24 => rowsCr
  | 25 => rowsShelf
  | _ => []

end Sys2Proof.Machine
end

