-- ==== Sys2Proof/Machine/State.lean ====
section
/-!
DEFINITION. The state of the block: every register field, array, queue and pending piece of work the manual
gives the device, as plain data, and the state after reset.
-/

namespace Sys2Proof.Machine

/-! ## Reasons to stop -/

/-- Why the machine stops. -/
inductive Fault
  /-- Raised by UNUSED_OPCODE_FETCH alone when a thread reaches a word whose opcode R176 reserves. Safe: the machine stops. -/
  | reservedOpcode
  deriving DecidableEq, Repr

/-- Why a command has no meaning. -/
inductive Refusal
  /-- Raised only by an arm of exec for a command that has no meaning yet. Safe: the machine stops. -/
  | notModelled (mnemonic : String)
  deriving DecidableEq, Repr

/-! ## Attic -/

/-- A row (R40, R43, R55, R56, R519). The shadow is its five words in order, word 0 most significant: value then mask. -/
structure Row where
  value : Seg
  mask : Seg
  ctrl : W32
  ad : W64
  adChk : Byte
  shadow : BitVec 320
  shChk : BitVec 40
  deriving DecidableEq, Repr

/-- An empty row with all cells zero. -/
def Row.zero : Row := ⟨0, 0, 0, 0, 0, 0, 0⟩

/-- A candidate of a search: entry address (R54), priority, ad-word. -/
structure Cand where
  gra : Nat
  h : Nat
  prio : Nat
  ad : W64
  deriving DecidableEq, Repr

/-- A counted entry as a die samples it in the action cycle: entry address and the rows that hold it, head first. -/
structure Hit where
  gra : Nat
  h : Nat
  prio : Nat
  rows : List Row
  deriving DecidableEq, Repr

/-- What one die finds in its pass before verification (R78, R79). -/
structure DieSample where
  die : Nat
  first : Option Hit
  second : Option Hit
  count : Nat
  deriving DecidableEq, Repr

/-- A contribution to a merge (R82, R91, R110); `tien` is 0 none, 1 one, 2 two or more entries at `bprio`. -/
structure Contrib where
  cand : Option Cand
  cand2 : Option Cand
  count : Nat
  bprio : Nat
  tien : Nat
  vfy : Bool
  vfail : Bool
  dfail : Bool
  lost : Bool
  deriving DecidableEq, Repr

/-- The contribution of a die that found nothing. -/
def Contrib.none : Contrib := ⟨.none, .none, 0, 0, 0, false, false, false, false⟩

/-- An attic search from issue to merge (R71, R88, R117). -/
structure Search where
  sid : Nat
  home : Nat
  thread : Nat
  rno : Nat
  mode : Nat
  part : Nat
  width : Nat
  gen : Nat
  key : Key
  fl : Bool
  dieSet : Nat
  cmask : Nat
  depth : Nat
  /-- Lower tiers that follow on MISS, from the descriptor copy it uses (R22, R64). -/
  store : Bool
  cellar : Bool
  /-- Store-room and cellar region of that copy. -/
  srRgn : Nat
  clRgn : Nat
  ao : Bool
  /-- Step entry of a SRCH with RA or PAR (R206). -/
  step : Option Nat
  /-- The SRCH wrote a prediction and its thread went on (R202). -/
  ra : Bool
  /-- A store-room step runs beside it (R205). -/
  par : Option Nat
  /-- Issued while the thread was speculating (R203). -/
  spec : Bool
  launched : Option Nat
  booked : Bool
  samples : List DieSample
  contribs : List (Nat × Contrib)
  /-- What arrived from the package below, merged with LOST when missing (R118, R124). -/
  below : Option Contrib
  /-- A cell of it was poisoned, or it crossed a ring stop while that switched paths (R107, R112). -/
  lost : Bool
  /-- A status settled without a search: DOMAIN_FAIL, RETRY or RECIPE_ERROR (R64, R92, R200). -/
  forced : Option Nat
  /-- Cascade inbound: the identifier the head chose (R117). -/
  inbound : Option Nat
  deriving DecidableEq, Repr

/-- A pair mismatch waiting for re-verification (R130, R145): pair, row key and the control word of each copy as the search
left it, of the even and of the odd die. -/
structure PairCheck where
  pair : Nat
  gra : Nat
  key : Key
  width : Nat
  h : Nat
  ctrlE : W32
  ctrlO : W32
  deriving DecidableEq, Repr

/-! ## Sequencer and threads -/

/-- A word of the recipe store with its check bits (R171). -/
structure RWord where
  data : W64
  chk : Byte
  deriving DecidableEq, Repr

/-- A step entry (R202, R206); `pred` holds the match fields of the last real result in record layout. -/
structure StepEnt where
  used : Bool
  addr : Nat
  par : Bool
  conf : Nat
  pred : BitVec 256
  issue : Nat
  use : Nat
  squash : Nat
  /-- Its parity bit does not agree with it (R210). -/
  bad : Bool
  deriving DecidableEq, Repr

/-- A step entry not in use. -/
def StepEnt.zero : StepEnt := ⟨false, 0, false, 0, 0, 0, 0, 0, false⟩

/-- A cellar step reached while its thread speculates, put off until the speculation is resolved (R204): record, cellar and
store-room region, key, width and step entry. -/
structure Held where
  rno : Nat
  region : Nat
  srRgn : Nat
  key : Key
  width : Nat
  ent : Option Nat
  deriving DecidableEq, Repr

/-- Thread states (R216). -/
inductive TState
  | free | ready | run | waitSearch | waitMem | waitJoin | waitEvent | halted | faulted
  deriving DecidableEq, Repr

/-- What a waiting thread waits for. -/
inductive Wait
  /-- Nothing. -/
  | idle
  /-- The record of a search, store-room step or cellar step. -/
  | record (r : Nat)
  /-- The resolution of its RUN-AHEAD prediction (R203, R204); the instruction then runs again. -/
  | resolve
  /-- The children of a JOIN (R193). -/
  | join (mask rec : Nat)
  /-- Its live children, before END (R197). -/
  | kids
  /-- A free thread for FORK, since a CS cycle (R221). -/
  | fork (target rrec since : Nat)
  /-- The staging slot and a queue entry for SEND (R222). -/
  | send (ch : Nat) (words : List Nat) (since : Nat)
  /-- A message (R222). -/
  | waite (ch dst since : Nat)
  /-- The completion of a COMMIT (R195), by command identifier. -/
  | commit (cmd rec : Nat)
  /-- Room in the event queue for its notice (R270). -/
  | notice
  deriving DecidableEq, Repr

/-- A child of a thread (R192, R221). -/
structure Kid where
  idx : Nat
  thread : Nat
  rrec : Nat
  ended : Bool
  faulted : Bool
  deriving DecidableEq, Repr

/-- A thread context (R211) with its slice (R212), bit address 0 most significant. -/
structure Thread where
  st : TState
  rem : TState
  wait : Wait
  word : W64
  pc : Nat
  lastPc : Nat
  crec : Nat
  hdr : W64
  chan : Nat
  group : Nat
  req : Option Nat
  child : Bool
  parent : Nat
  kidIdx : Nat
  rrec : Nat
  kids : List Kid
  sent : Bool
  deferred : Bool
  spec : Bool
  specRec : Nat
  specWord : W64
  specArea : BitVec 2560
  /-- Step entry of its RUN-AHEAD search. -/
  specEnt : Nat
  slice : BitVec 4096
  /-- Words of 64 bits with an uncorrectable or a corrected error (R215), one bit per word: 0 to 63 of the slice, 64 to 103 of
  the speculation area, 104 for the context. They stand for the words' check bits (log 95). -/
  unc : Nat
  cor : Nat
  steps : Nat
  /-- Entries of the open linked COMMIT sequence (R195). -/
  link : Nat
  /-- A locked sequence issued for its instruction runs (R340). -/
  lock : Bool
  /-- Arrival time captured at release (R306), in the format of R190. -/
  arr : Nat
  /-- Store-room or cellar steps on its path (R201). -/
  bounded : Bool
  /-- Record the response was formed from, for LOG with REC = 7 (R191). -/
  respBits : Option (BitVec 256)
  /-- Its response has departed, with its departure time when one was taken (R394). -/
  dep : Option (Option Nat)
  /-- Real result of its RUN-AHEAD search, arrived and not yet resolved (R203). -/
  real : Option (BitVec 256)
  /-- Its second record, in mode BEST2 (R90). -/
  real2 : Option (BitVec 256)
  /-- A cellar step that waits for the resolution. -/
  held : Option Held
  /-- CS cycle from which it is READY: its last instruction has ended (R199). -/
  readyAt : Nat
  /-- ABORTED was sent for it (R234). -/
  aborted : Bool
  /-- STEP runs one instruction and halts again (R233). -/
  step1 : Bool
  /-- CS cycle in which it halted (R235). -/
  haltAt : Nat
  /-- Its parent faulted: it ends at its next instruction boundary (R221, R208). -/
  orphan : Bool
  /-- Words of a SEND not yet written into the staging slot. -/
  sendLost : Bool
  /-- The golden-replay vector it runs for (R458). -/
  golden : Bool
  /-- Supervisor: page of the BLOCK_ERR notice it was started by (R517). -/
  supPage : Option Nat
  deriving DecidableEq, Repr

/-- A free thread. -/
def Thread.zero : Thread :=
  { st := .free, rem := .free, wait := .idle, word := 0, pc := 0, lastPc := 0, crec := 0, hdr := 0, chan := 0,
    group := 0, req := none, child := false, parent := 0, kidIdx := 0, rrec := 0, kids := [], sent := false,
    deferred := false, spec := false, specRec := 0, specWord := 0, specArea := 0, specEnt := 0, slice := 0, unc := 0, cor := 0,
    steps := 0, link := 0, lock := false, arr := 0, bounded := false, respBits := none, dep := none, real := none, real2 := none, held := none, readyAt := 0, aborted := false, step1 := false, haltAt := 0,
    orphan := false, sendLost := false, golden := false, supPage := none }

/-- An event channel (R222): the staging slot's holder and message, the visible messages, and the threads that
wait to send and to receive, oldest first. -/
structure EvChan where
  holder : Option Nat
  staged : List Nat
  queue : List (List Nat)
  senders : List Nat
  waiters : List Nat
  deriving DecidableEq, Repr

/-- An idle event channel. -/
def EvChan.zero : EvChan := ⟨none, [], [], [], []⟩

/-! ## Lookup port -/

/-- A formed response (R320, R321): status, records, and the two words of a table write's completion. -/
structure Resp where
  status : Nat
  rec1 : BitVec 256
  rec2 : Option (BitVec 256)
  wr : Option (Nat × Nat)
  deferred : Bool
  deriving DecidableEq, Repr

/-- Where a request stands between its burst and its departure. -/
inductive Phase
  /-- In the ingress queue; a status when checks 5 to 9 of R308 refuse it. -/
  | queued (refuse : Option Nat)
  /-- Released, not yet admitted; a status when it was refused at ingress. -/
  | released (refuse : Option Nat)
  | admitted
  | tableWrite
  deriving DecidableEq, Repr

/-- A request that the device has received and not yet answered; the list of them is in order of arrival. -/
structure Req where
  id : Nat
  home : Nat
  iface : Nat
  chan : Nat
  hdr : W64
  payload : BitVec 1024
  phase : Phase
  rel : Nat
  arr : Nat
  /-- Its channel-ledger entry is written and acknowledged (R448). -/
  ledger : Bool
  acked : Bool
  thread : Option Nat
  buf : Option Nat
  resp : Option Resp
  /-- A refusal in the refusal queue or in its mirror (R315). -/
  refusal : Bool
  /-- Booked first egress cycle of a tagged guaranteed response (R317). -/
  booked : Option Nat
  /-- It is ready and its path reached a store-room step (R317, R318). -/
  bounded : Bool
  readyAt : Nat
  /-- Release cycle of the next request of its interface (R316). -/
  next : Option Nat
  /-- A takeover answers it with RETRY (R449). -/
  moved : Bool
  deriving DecidableEq, Repr

/-! ## Arbitration -/

/-- A booked attic slot (R343): die, CS cycle, thread group, and the thread it serves on its home die. -/
structure Book where
  die : Nat
  cyc : Nat
  group : Nat
  home : Nat
  thread : Nat
  /-- Frame beats it takes on the D port (R120); 0 when it does not reach beyond the package, and on all but one die. -/
  beats : Nat
  deriving DecidableEq, Repr

/-- Booked issue starts (R224): die, thread group, thread, CQ cycle and number. -/
structure Issue where
  die : Nat
  group : Nat
  thread : Nat
  cyc : Nat
  n : Nat
  deriving DecidableEq, Repr

/-- A slot granted to an owner and not yet used (R336). -/
structure Grant where
  die : Nat
  inst : Nat
  cyc : Nat
  owner : Nat
  deriving DecidableEq, Repr

/-- A granted locked sequence (R339): it holds from `start` for `len` CS cycles. A memory lock names bucket lines (R341). -/
structure Lock where
  die : Nat
  inst : Nat
  owner : Nat
  start : Nat
  len : Nat
  lines : List Nat
  deriving DecidableEq, Repr

/-- An attic launch of a plan: its offset from a first launch placed in cycle `s` + 9, its partition and its mode. -/
structure PlanLaunch where
  off : Nat
  part : Nat
  mode : Nat
  deriving DecidableEq, Repr

/-- The launch plan the loader computes for a FIXED entry (R342, R224): `s`; the launches of all paths, the first among them;
and the instruction starts as offset in CQ cycles after admission with their number, those after the first SRCH marked. -/
structure Plan where
  s : Nat
  launches : List PlanLaunch
  starts : List (Nat × Nat × Bool)
  /-- Most store-room steps on any path (R252). -/
  steps : Nat
  deriving DecidableEq, Repr

/-- The plan of an entry that books nothing. -/
def Plan.none : Plan := ⟨0, [], [], 0⟩

/-! ## Update engine -/

/-- Where a completion goes (R135, R159). -/
inductive Origin
  /-- A submission queue, with its head once the command was handed over (R359). -/
  | sq (q head : Nat)
  /-- A peer window, with the completion queue in force when it was accepted (R371). -/
  | peer (w : Nat) (cq : Option Nat)
  | lookup (req : Nat)
  | commit (die thread : Nat)
  /-- A repair of the scrubber (R165), which posts no completion. -/
  | scrub
  /-- A queue or window that no longer exists (R161): the completion is discarded. -/
  | dropped
  deriving DecidableEq, Repr

/-- One attic-port operation of a command (R140, R144, R149, R157, R167). Rows are global row addresses. -/
inductive PortOp
  /-- Step 1: state codes of the rows (or of one half) become 0b00. -/
  | empty (rows : List Nat) (half : Option Nat)
  /-- Step 2: one row's contents, its state code kept 0b00. -/
  | write (gra : Nat) (half : Option Nat) (width prio : Nat) (ad : W64) (value mask : Seg)
  /-- Step 3: state codes of the rows, D and SUSP cleared. -/
  | validate (rows : List Nat) (half : Option Nat) (state stateB : Nat)
  /-- SET_STATE: the state codes alone. -/
  | setState (rows : List Nat) (half : Option Nat) (state : Nat)
  /-- A move's copy of one row; `last` sets states with D = 1 on all destination rows. -/
  | copy (src dst : Nat) (last : Bool) (srcs dsts : List Nat)
  /-- The two-row swap. -/
  | swap (srcs dsts : List Nat)
  /-- GEN_CLEAR of one shelf. -/
  | genClear (shelf gen : Nat)
  /-- SHELF: the descriptor word. -/
  | shelf (shelf : Nat) (desc : Nat)
  /-- SPARE: copy one row of the shelf to the spare. -/
  | spareRow (shelf row : Nat)
  /-- SPARE: remap the shelf to the spare. -/
  | remap (shelf : Nat)
  deriving DecidableEq, Repr

/-- A command of the update engines, from its arrival at the running die until its completion is posted. -/
structure UCmd where
  id : Nat
  die : Nat
  src : Nat
  origin : Origin
  entry : BitVec 512
  /-- Continuation rows of a wide entry (R141): command identifier, origin and entry. -/
  conts : List (Nat × Origin × BitVec 512)
  expect : Nat
  /-- It has reached the die that runs it (R136). -/
  arrived : Bool
  /-- Order of acceptance on the die, once accepted. -/
  acc : Option Nat
  /-- Identifiers of the accepted commands it waits for (R153, R158, R160). -/
  after : List Nat
  plan : List PortOp
  /-- The operation in flight as a pair operation: target cycle and whether the odd die holds it (R129). -/
  pairAt : Option (Nat × Bool)
  /-- The odd die's completion has not returned yet. -/
  pairWait : Bool
  /-- Port cycle of the last operation taken (R159). -/
  lastOp : Nat
  status : Option Nat
  gra : Nat
  moved : Nat
  cause : Nat
  aux : Nat
  /-- GEN_FLIP: target cycle chosen, and whether it has been applied. -/
  target : Option Nat
  /-- Linked COMMIT sequence it belongs to is still open. -/
  linked : Bool
  /-- Its thread stopped before the sequence closed (R195). -/
  cut : Bool
  /-- Die whose source sent it. -/
  from_ : Nat
  /-- Its checks are made and its operations are fixed. -/
  planned : Bool
  /-- BULK_LOAD: its own checks are made and its records are asked for. -/
  begun : Bool
  /-- Its completion crosses the ring back to its source's die (R136). -/
  returning : Bool
  deriving DecidableEq, Repr

/-- A row, or with `whole` every row of its shelf, emptied in the last 32 CS cycles (R146): row address and port cycle. -/
structure Guard where
  die : Nat
  gra : Nat
  at_ : Nat
  whole : Bool
  deriving DecidableEq, Repr

/-- A table-window write waiting for its target cycle (R513): its accessor, and page 22 for the partition table or 24
for the cellar region table. -/
structure TargetWrite where
  acc : Nat
  page : Nat
  bank : Nat
  off : Nat
  value : Nat
  at_ : Nat
  deriving DecidableEq, Repr

/-! ## Store room and bucket cache -/

/-- A bucket in memory: its 128 bytes, byte 0 most significant, and a bit for each slot not written since the bucket became
uncorrectable (0 when it is not): it stays unreadable until every slot has been rewritten (R249; DEDUCED, log 69). -/
structure Bucket where
  data : BitVec 1024
  lost : Nat
  deriving DecidableEq, Repr

/-- A cache line (R280, R281). -/
structure Line where
  tag : Nat
  valid : Bool
  pend : Bool
  data : BitVec 1024
  /-- Its check bits: 0 clean, 1 a corrected error, 2 an uncorrectable one. -/
  ecc : Nat
  deriving DecidableEq, Repr

/-- An invalid line. -/
def Line.zero : Line := ⟨0, false, false, 0, 0⟩

/-- A fill buffer in use (R284): the line, the way that waits for it, the victim held, and the lookups that wait. -/
structure Fill where
  die : Nat
  id : Nat
  line : Nat
  way : Option Nat
  victim : Option (Nat × BitVec 1024)
  stale : Bool
  /-- The read is held behind a drain of the line (R292). -/
  held : Bool
  fixed : Bool
  /-- The memory arbiter granted its read (R284). -/
  granted : Bool
  /-- Store-room steps that wait, with the bucket (0 or 1) each waits for. -/
  waiters : List (Nat × Nat)
  /-- The forwarded image, once the line has arrived (R290). -/
  arrived : Option Bucket
  deriving DecidableEq, Repr

/-- A merging-buffer entry (R289); `slots` has bit s for slot s, `vclr` for a slot of which only V is cleared (R254). -/
structure MEntry where
  die : Nat
  id : Nat
  line : Nat
  data : BitVec 1024
  slots : Nat
  vclr : Nat
  born : Nat
  draining : Bool
  /-- The memory arbiter granted its write (R289). -/
  granted : Bool
  unc : Bool
  deriving DecidableEq, Repr

/-- A store-room step in progress (R248). -/
structure SStep where
  id : Nat
  die : Nat
  thread : Nat
  rno : Nat
  region : Nat
  key : Key
  width : Nat
  i0 : Nat
  i1 : Nat
  ans0 : Option Bucket
  ans1 : Option Bucket
  need0 : Bool
  need1 : Bool
  fixed : Bool
  start : Nat
  /-- The parallel probe of a search (R205), by search identifier. -/
  par : Option Nat
  /-- Cellar region whose step follows on MISS (R22, R64). -/
  next : Option Nat
  /-- A used parallel probe: its record carries SPEC = 1 (R205). -/
  spec : Bool
  /-- CQ cycle in which both lookups took their bank ports (R282), and whether they have been made: the step has its view. -/
  port : Option Nat
  seen : Bool
  /-- Step entry of the RUN-AHEAD search it belongs to (R202). -/
  ent : Option Nat
  /-- A status settled without reading: DOMAIN_FAIL or RETRY. -/
  forced : Option Nat
  /-- The parallel probe's finished record, until its search asks for it. -/
  done : Option (BitVec 256)
  squashed : Bool
  deriving DecidableEq, Repr

/-- A slot-write record in the window queue (R254): its words and the image. -/
structure SwRec where
  die : Nat
  op : Nat
  region : Nat
  slot : Nat
  bucket : Nat
  image : BitVec 256
  deriving DecidableEq, Repr

/-! ## Cellar -/

/-- An entry of the outstanding-fetch table (R257), or a step that waits for one. -/
structure CFetch where
  id : Nat
  die : Nat
  thread : Nat
  rno : Nat
  /-- Store-room region that a hit is promoted into, from the descriptor copy it uses (R64, R267). -/
  srRgn : Nat
  region : Nat
  key : Key
  width : Nat
  i0 : Nat
  i1 : Nat
  /-- It holds an entry of the table. -/
  entry : Bool
  /-- It has crossed the ring to the lead die. -/
  atLead : Bool
  /-- Every page is translated. -/
  xlated : Bool
  /-- Its reads are issued. -/
  issued : Bool
  wseq : Nat
  deferred : Bool
  chan : Nat
  tag : Nat
  recipe : Nat
  /-- The record is written; a deferred entry stays until its notice is written (R270). -/
  done : Bool
  /-- A status settled without its data: CELLAR_OFF or SECURITY_HOLD. -/
  forced : Option Nat
  /-- Step entry of the RUN-AHEAD search it belongs to (R202). -/
  ent : Option Nat
  /-- Returned data on its way over the ring: bucket 0, tag 0, bucket 1, tag 1 (R257 step 5). -/
  data : Option (BitVec 2304)
  deriving DecidableEq, Repr

/-- A promotion waiting to run (R267). -/
structure Promo where
  die : Nat
  region : Nat
  cregion : Nat
  key : Key
  width : Nat
  ad : W64
  user : Nat
  wseq : Nat
  deriving DecidableEq, Repr

/-- A notice waiting for room in its channel's event queue (R269): its 96 bytes. -/
structure Notice where
  chan : Nat
  data : BitVec 768
  die : Nat
  thread : Option Nat
  deriving DecidableEq, Repr

/-! ## Host interface -/

/-- A completion waiting for its CQ or to be posted: queue, the 16-byte record of R142 and its source code. -/
structure CqEntry where
  q : Nat
  w0 : Nat
  w1 : Nat
  w2 : Nat
  w3 : Nat
  src : Nat
  sqhd : Nat
  deriving DecidableEq, Repr

/-- A translation-cache entry (R363): a page and the translated address it stands for. -/
structure Xlat where
  pasid : Option Nat
  page : Nat
  log2 : Nat
  base : Nat
  deriving DecidableEq, Repr

/-- The cellar write in progress (R264): region, index, the plaintext bucket, and whether its two reads were issued. -/
structure CWrite where
  region : Nat
  index : Nat
  data : BitVec 1024
  issued : Bool
  deriving DecidableEq, Repr

/-- An invalidation in progress (R364): what it covers, and the fetches whose reads it waits for. -/
structure Inval where
  pasid : Option Nat
  page : Nat
  log2 : Nat
  /-- Steps whose reads were issued with a removed translation, and the cellar write if its reads were. -/
  waits : List Nat
  write : Option CWrite
  deriving DecidableEq, Repr

/-- An active peer window (R370, R371). -/
structure PeerWin where
  type : Nat
  offset : Nat
  log2 : Nat
  die : Nat
  cq : Nat
  nocpl : Bool
  deriving DecidableEq, Repr

/-! ## Outputs -/

/-- What the device puts out, in order: the model's own record of its outputs. -/
inductive Output
  /-- A response packet leaving interface `iface` of die `die`. -/
  | response (die iface chan : Nat) (words : List Nat)
  /-- A posted write to host memory: address, PASID, bytes. -/
  | hostWrite (addr : Nat) (pasid : Option Nat) (bytes : List Nat)
  /-- A read request to host memory, untranslated. -/
  | hostRead (addr : Nat) (pasid : Option Nat) (len : Nat)
  /-- A read request with AT = 0b10: a translated address (R258). -/
  | hostReadT (addr : Nat) (pasid : Option Nat) (len : Nat)
  /-- An MSI-X message. -/
  | msix (vec : Nat)
  /-- The answer to an accessor's read: accessor, status (0 good, 1 Unsupported Request, 2 Completer Abort), data. -/
  | readData (accessor status data : Nat)
  /-- Bytes the SMBus port or the hatch answers with. -/
  | smbus (bytes : List Nat)
  /-- A byte the SMBus port does not acknowledge. -/
  | smbusNack
  /-- A frame on a cascade port (0 U, 1 D): its beats. -/
  | frame (port : Nat) (beats : List Nat)
  /-- A cell on the ring (R108): class, source, search identifier and the 318 bits of payload. -/
  | cell (cls src sid : Nat) (payload : Nat)
  /-- A message of the PCIe function, such as an Invalidation Completion. -/
  | pcie (kind : Nat)
  deriving DecidableEq, Repr

/-! ## Ring, time, evidence, power, security -/

/-- A background cell of a die that waits for the ring-injection arbiter, or whose poisoned copy was dropped (R107, R111):
its source, its class, the model's name for what it carries, and its payload. -/
structure RCell where
  src : Nat
  cls : Nat
  id : Nat
  payload : Nat
  deriving DecidableEq, Repr

/-- A management message on its way (R518). -/
structure Mgmt where
  type : Nat
  dest : Nat
  mid : Nat
  acc : Nat
  off : Nat
  size : Nat
  data : Nat
  status : Nat
  deriving DecidableEq, Repr

/-- A row-view or bucket snapshot of an accessor (R510, R512, R514): the rows from `base`, or one bucket. -/
structure Snap where
  acc : Nat
  die : Nat
  store : Bool
  base : Nat
  rows : List Row
  bucket : BitVec 1024
  flags : Nat
  deriving DecidableEq, Repr

/-- A die's local copy of the time (R388), in units of 2^-32 ns, at a package CS cycle. -/
structure Local where
  valid : Bool
  time : Nat
  cyc : Nat
  rate : Nat
  unsync : Bool
  deriving DecidableEq, Repr

/-- A copy never set. -/
def Local.zero : Local := ⟨false, 0, 0, 0, true⟩

/-- The time unit (R381 to R386): the counter at a package CS cycle in units of 2^-32 ns, its rate per CP cycle,
the servo's frequency in ppb and offset, and the edges it remembers. -/
structure TimeUnit where
  time : Nat
  cyc : Nat
  rate : Nat
  /-- Reference frequency in force, in kHz (R393). -/
  refKhz : Nat
  /-- TIM_FREQ in units of 2^-32 ppb. -/
  freq : Int
  lastEdge : Option Nat
  good : Nat
  everLocked : Bool
  holdExp : Bool
  stepped : Bool
  deriving DecidableEq, Repr

/-- A partial evidence record a die holds until its response departs (R394). -/
structure EvPart where
  die : Nat
  req : Nat
  forced : Bool
  bits : BitVec 256
  useResp : Bool
  chan : Nat
  digest : Nat
  deriving DecidableEq, Repr

/-- A finished record that a die has staged and sent to the lead die, still without index and link (R394, R404): its 512 bits. -/
structure EvRec where
  die : Nat
  bits : Nat
  deriving DecidableEq, Repr

/-- A checkpoint the signer holds (R400): records covered, the HEAD over them, and whether it is the first of its run. -/
structure CkptReq where
  recIdx : Nat
  head : Nat
  first : Bool
  deriving DecidableEq, Repr

/-- The evidence unit beyond its registers (R395 to R404): partial records, records that the dies have staged, records that the
lead die holds until its log has started, the last sixteen records written (newest first), checkpoints due, whether the run has
had one, records covered, the previous checkpoint's bytes, the signing key, records lost since the last checkpoint and since the
last GAP record, an enable that waits for its key, and uploads held while bus master enable is clear: address, PASID, bytes (R366). -/
structure Evidence where
  parts : List EvPart
  inbox : List EvRec
  queue : List Nat
  last16 : List Nat
  due : List CkptReq
  first : Bool
  covered : Nat
  prev : Option (List Nat)
  key : Option Nat
  lostSince : Bool
  gap : Nat
  enabling : Bool
  held : List (Nat × Option Nat × List Nat)
  deriving DecidableEq, Repr

/-- A power domain's sequencer (R414 to R426). -/
inductive DomPhase
  /-- `low` is 1 for RET and 2 for OFF; `step` is the number of steps completed. -/
  | on | entering (low step : Nat) | ret | off | waking (low step : Nat) | failed (low : Nat)
  deriving DecidableEq, Repr

/-- A power domain: its phase, and a wake event that came while it was entering (R422). -/
structure Dom where
  phase : DomPhase
  wake : Bool
  deriving DecidableEq, Repr

/-- A domain after reset: ON. -/
def Dom.zero : Dom := ⟨.on, false⟩

/-- The SMBus port and its hatch (R427 to R430): read address, latch, SCL held low, and a failure that CP has not yet recorded. -/
structure SmPort where
  rdAddr : Nat
  latch : Nat
  stretching : Bool
  due : Bool
  deriving DecidableEq, Repr

/-- Fuses and straps of the part, fixed at manufacture and by the board (R1, R5, R459, R461, R477). -/
structure Part where
  dieCnt : Nat
  unitS : Bool
  unitC : Bool
  unitT : Bool
  unitK : Bool
  dsn : Nat
  keyDigest : List Nat
  dbgDigest : Nat
  casc : Nat
  bootSrc : Nat
  smbAddr : Nat
  deriving DecidableEq, Repr

/-- Golden replay in progress (R457, R458): digests so far, vectors read, and whether one runs. -/
structure Golden where
  vecBytes : List Nat
  resBytes : List Nat
  expectVec : Nat
  running : Option (Nat × Nat)
  deriving DecidableEq, Repr

/-- Debug unlock (R462): the challenge, when it was made, and the requested level. -/
structure Unlock where
  chal : Option Nat
  at_ : Nat
  level : Nat
  deriving DecidableEq, Repr

/-- Blanking of a die's attic slots (R98, R101): the count in force, the next count, and the cycle it starts in. -/
structure Blank where
  cur : Nat
  nxt : Nat
  at_ : Nat
  curG : Nat
  nxtG : Nat
  deriving DecidableEq, Repr

/-- No slot blanked. -/
def Blank.zero : Blank := ⟨0, 0, 0, 0, 0⟩

/-- A cache operation that a register command started (R294, R296, R295): preload, range invalidation, refetch. -/
structure CacheWalk where
  die : Nat
  kind : Nat
  base : Nat
  count : Nat
  way : Nat
  lock : Bool
  deriving DecidableEq, Repr

/-- A pair's rejoin (R133) and the time its check began. -/
structure Rejoin where
  pair : Nat
  phase : Nat
  since : Nat
  /-- The member that survived. -/
  surv : Nat
  /-- Rows of the die, in bank, shelf and row order, that the copy has passed. -/
  pos : Nat
  deriving DecidableEq, Repr

/-- The states of the TAP controller of IEEE 1149.1 (R488). -/
inductive TapPhase
  | testLogicReset | runTestIdle
  | selectDr | captureDr | shiftDr | exit1Dr | pauseDr | exit2Dr | updateDr
  | selectIr | captureIr | shiftIr | exit1Ir | pauseIr | exit2Ir | updateIr
  deriving DecidableEq, Repr

/-- The boundary-scan instructions: the public ones (R488), and a non-public scan instruction by its code (R461). -/
inductive TapIns
  | bypass | idcode | samplePreload | extest | clamp | highz
  | vendor (code : Nat)
  deriving DecidableEq, Repr

/-- The test access port: controller, current instruction, the shift stages of the instruction register and of the selected data
register (next bit for TDO first), and the output latches of the boundary-scan register. -/
structure Tap where
  phase : TapPhase
  ins : TapIns
  ir : List Bool
  dr : List Bool
  latch : List Bool
  deriving DecidableEq, Repr

/-- The whole block. -/
structure State where
  /-- Commands that wait, first in, first out. -/
  pending : List Instr
  part : Part
  /-- CS cycles since reset release: CLK_CYC and the STAMP fields show the low 48 bits (R156, R410). -/
  cyc : Nat
  /-- The model's own counter for free values: no rule rests on it (log 3). -/
  free : Nat
  /-- The model's own source of identifiers. -/
  nextId : Nat
  /-- Every register field, by `rkey`. -/
  regs : SMap Nat
  rows : SMap Row
  susq : SMap (List Nat)
  selCnt : SMap Nat
  blank : SMap Blank
  searches : List Search
  pairChecks : List PairCheck
  /-- Searches whose pair compare missed a contribution (R130): the manual gives the record no register. -/
  missed : Nat
  snaps : List Snap
  latches : SMap Nat
  recipe : SMap RWord
  stepEnts : SMap StepEnt
  plans : SMap Plan
  threads : SMap Thread
  evch : SMap EvChan
  fltq : SMap (List Nat)
  forkWait : SMap (List Nat)
  quiesce : SMap Nat
  reqs : List Req
  books : List Book
  egress : List (Nat × Nat × Nat)
  /-- Buffers whose response is still in its serialiser (R315): channel, die of the buffer, CS cycle in which it is free. -/
  leaving : List (Nat × Nat × Nat)
  /-- Last release of an interface, plus 1 (R306). -/
  lastRel : SMap Nat
  /-- Diagnostic CRC failures in a row of a lane (R305). -/
  diagFails : SMap Nat
  issues : List Issue
  /-- Booked express cells (R113): directed hop, CQ cycle and number. -/
  express : List (Nat × Nat × Nat)
  grants : List Grant
  /-- Grants of more than one slot (R336): die, instance, CS cycles of the first slot and of the break point that ends them. -/
  spans : List (Nat × Nat × Nat × Nat)
  locks : List Lock
  slots : SMap Nat
  arbAge : SMap Nat
  arbGrants : SMap Nat
  arbWait : SMap Nat
  cmds : List UCmd
  accepted : Nat
  /-- A die's update front end (R137), at twice the die: the source served last plus 1; after it: that CQ cycle plus 1. -/
  updTurn : SMap Nat
  /-- CS cycle, plus 1, in which a die's scrubber started its last row (R165). -/
  scrubAt : SMap Nat
  /-- CS cycle, plus 1, of the slot of an arbiter's resource settled last, at die times 4 plus resource (R73, R336). -/
  settled : SMap Nat
  /-- CQ cycle, plus 1, whose issue lanes were settled last on a die (R225). -/
  lanes : SMap Nat
  /-- Threads that hold an issue slot of a CQ cycle and have not started in it: die, thread, CQ cycle. -/
  starts : List (Nat × Nat × Nat)
  guards : List Guard
  twrites : List TargetWrite
  flips : List (Nat × Nat × Nat)
  store : SMap (Option Bucket)
  storeEpoch : SMap Nat
  cache : SMap Line
  fills : List Fill
  bankBusy : SMap Nat
  /-- Ports taken in this CQ cycle of a bank (R282), at die times 16 plus bank. -/
  ports : SMap Nat
  /-- CQ cycle, plus 1, in which a die's cache took a slot-write record last (R288). -/
  swAt : SMap Nat
  /-- Slots still to be rewritten of a bucket found with a wrong RGN (R249), by `bkey`. -/
  rgnBad : SMap Nat
  /-- CS cycle, plus 1, of a die's last patrol read (R256). -/
  patrolAt : SMap Nat
  mbuf : List MEntry
  steps : List SStep
  swq : List SwRec
  walks : List CacheWalk
  wayErrAt : SMap (List Nat)
  promos : List Promo
  fetches : List CFetch
  notices : List Notice
  nseq : SMap Nat
  kek : Option Nat
  keys : SMap (Option Nat)
  cwrite : Option CWrite
  authAt : List Nat
  xlats : List Xlat
  invals : List Inval
  cqPend : List CqEntry
  /-- Reserved entries of a CQ (R358). -/
  cqUsed : SMap Nat
  /-- SQ tail as the doorbell left it (R356). -/
  sqTail : SMap Nat
  cqHead : SMap Nat
  cqArmed : SMap Bool
  eqArmed : SMap Bool
  fetchedSq : SMap (Nat × Nat)
  peers : SMap (Option PeerWin)
  peerQ : SMap (List (BitVec 512 × Option Nat))
  /-- Words 0 to 2 of an MSI-X table entry (R354), at vector times 4. -/
  msixTab : SMap Nat
  msixMask : SMap Bool
  msixPend : SMap Bool
  /-- Requests whose tags are in quarantine (R367): kind (0 fetch, 1 SQ, 2 bulk read) and identifier. -/
  quar : List (Nat × Nat)
  funcReady : Bool
  /-- The function is in D3hot (R350, R352). -/
  d3hot : Bool
  mgmt : List Mgmt
  /-- Background cells that wait for injection, those on the ring, and those dropped as poisoned and not yet repeated. -/
  ringQ : List RCell
  ringAir : List RCell
  dropped : List RCell
  /-- SEARCH frames that wait for credit on the D port (R120). -/
  relay : List (List Nat)
  /-- Current home die of a channel plus 1, where it has left the die of the image (R312). -/
  homes : SMap Nat
  link : SMap Nat
  tim : TimeUnit
  local_ : SMap Local
  evd : Evidence
  doms : SMap Dom
  sm : SmPort
  golden : Option Golden
  /-- SHA-256 of the golden vectors, as the image gives it (R457). -/
  goldVec : Nat
  /-- CS cycle of the last write of PWR_EXT (R431). -/
  extAt : Option Nat
  /-- Failing shelves that self-qualification found on a die: bank, shelf, first row, rows (R482). -/
  bsq : SMap (List (Nat × Nat × Nat × Nat))
  /-- Site command in progress (R373): 0 none, 1 power on, 2 power off, 3 indicators. -/
  msCmd : SMap Nat
  /-- Records reported to the host (R446) and records that R445 has escalated: die and mark (`slotMark`). -/
  escal : List (Nat × Nat)
  unlock : Unlock
  fuseSvn : Nat
  fuseRevoked : Nat
  idKey : Option Nat
  lostDies : Nat
  heldDies : Nat
  fencedDev : Bool
  inReset : Bool
  rejoins : List Rejoin
  /-- Source of the image load in progress (R479, R480): 0 none, 1 slot A, 2 slot B, 3 the host. -/
  loading : Nat
  /-- The boundary-scan port (R488): no command clocks it (log 101). -/
  tap : Tap
  out : List Output
  deriving DecidableEq, Repr

/-- The part after reset that State.reset stands for: an LMP-DZ8-SCTK at the head of its cascade (log 4). -/
def Part.default : Part :=
  { dieCnt := 8, unitS := true, unitC := true, unitT := true, unitK := true, dsn := 0,
    keyDigest := [0, 0, 0, 0], dbgDigest := 0, casc := 0, bootSrc := 0, smbAddr := 0 }

/-- The machine right after reset (R475): every register field at its reset value, every array empty, no work. -/
def State.reset : State :=
  { pending := [], part := Part.default, cyc := 0, free := 0, nextId := 0, regs := [], rows := [], susq := [],
    selCnt := [], blank := [], searches := [], pairChecks := [], missed := 0, snaps := [], latches := [], recipe := [],
    stepEnts := [], plans := [], threads := [], evch := [], fltq := [], forkWait := [], quiesce := [], reqs := [],
    books := [], egress := [], leaving := [], lastRel := [], diagFails := [], issues := [], express := [], grants := [], spans := [], locks := [], slots := [], arbAge := [], arbGrants := [],
    arbWait := [], cmds := [], accepted := 0, updTurn := [], scrubAt := [], settled := [], lanes := [], starts := [], guards := [], twrites := [], flips := [], store := [],
    storeEpoch := [], cache := [], fills := [], bankBusy := [], ports := [], swAt := [], rgnBad := [], patrolAt := [], mbuf := [], steps := [], swq := [], walks := [], wayErrAt := [],
    promos := [], fetches := [], notices := [], nseq := [], kek := none, keys := [], cwrite := none,
    authAt := [], xlats := [], invals := [], cqPend := [], cqUsed := [], sqTail := [], cqHead := [],
    cqArmed := [], eqArmed := [], fetchedSq := [], peers := [], peerQ := [], msixTab := [], msixMask := [], msixPend := [],
    quar := [], funcReady := false, d3hot := false, mgmt := [], ringQ := [], ringAir := [], dropped := [], relay := [], homes := [], link := [],
    tim := { time := 0, cyc := 0, rate := 0x2AAAAAAAB, refKhz := 100000, freq := 0, lastEdge := none, good := 0,
             everLocked := false, holdExp := false, stepped := false },
    local_ := [],
    evd := { parts := [], inbox := [], queue := [], last16 := [], due := [], first := true, covered := 0, prev := none, key := none,
             lostSince := false, gap := 0, enabling := false, held := [] },
    doms := [], sm := { rdAddr := 0, latch := 0, stretching := false, due := false }, golden := none, goldVec := 0, extAt := none, bsq := [], msCmd := [], escal := [],
    unlock := { chal := none, at_ := 0, level := 0 }, fuseSvn := 0, fuseRevoked := 0, idKey := none,
    lostDies := 0, heldDies := 0, fencedDev := false, inReset := true, rejoins := [],
    loading := 0, tap := { phase := .testLogicReset, ins := .idcode, ir := [], dr := [], latch := [] }, out := [] }

end Sys2Proof.Machine
end

