-- ==== Sys2Proof/Machine/Ops.lean ====
section
/-!
DEFINITION. The named operations every family shares: register fields, units and dies, outputs and interrupts,
error recording and reporting (R438 to R446), fault notices (R227), time values (R382, R388), threads and requests.
-/

namespace Sys2Proof.Machine

/-! ## Register fields -/

/-- The key of a register field: die, page, bank (the copy a selector picks), word and bit. -/
def rkey (d : Nat) (f : Fld) (bank : Nat) : Nat :=
  (((d * 64 + f.page) * 65536 + bank) * 4096 + f.off) * 32 + f.lo

/-- The value of a register field. -/
def getF (s : State) (d : Nat) (f : Fld) (bank : Nat := 0) : Nat := mget f.rst s.regs (rkey d f bank)

/-- Write a register field, cut to its width. -/
def setF (s : State) (d : Nat) (f : Fld) (v : Nat) (bank : Nat := 0) : State :=
  { s with regs := mset f.rst s.regs (rkey d f bank) (v % 2 ^ f.width) }

/-- Add to a counter that wraps at its width. -/
def bump (s : State) (d : Nat) (f : Fld) (n : Nat := 1) (bank : Nat := 0) : State :=
  setF s d f (getF s d f bank + n) bank

/-- Add to a counter that saturates at its width. -/
def bumpSat (s : State) (d : Nat) (f : Fld) (n : Nat := 1) (bank : Nat := 0) : State :=
  setF s d f (min (2 ^ f.width - 1) (getF s d f bank + n)) bank

/-- A one-bit field is set. -/
def isF (s : State) (d : Nat) (f : Fld) (bank : Nat := 0) : Bool := getF s d f bank == 1

/-- Write the same field on every die of the list. -/
def setAll (s : State) (ds : List Nat) (f : Fld) (v : Nat) (bank : Nat := 0) : State :=
  ds.foldl (fun s d => setF s d f v bank) s

/-! ## Dies and units -/

/-- The dies of the package. -/
def dies (s : State) : List Nat := List.range s.part.dieCnt

/-- The loaded image selected the availability profile (R8). -/
def avail (s : State) : Bool := getF s 0 PAGE_CAP.PROFILE == 2

/-- An image is loaded (R209). -/
def loaded (s : State) : Bool := isF s 0 SEQ_STS.LOADED

/-- Pair partner of a die (R9). -/
def partner (d : Nat) : Nat := if d % 2 = 0 then d + 1 else d - 1

/-- State of the pair that holds a die (R134). -/
def pairSt (s : State) (d : Nat) : Nat := getF s 0 (PKG_PAIR_STS.PAIR (d / 2))

/-- The die is lost, or held in reset under R476. -/
def gone (s : State) (d : Nat) : Bool := s.lostDies.testBit d || s.heldDies.testBit d

/-- The die cannot search: lost, held in reset, or its attic fenced (R92, R97). -/
def fenced (s : State) (d : Nat) : Bool := gone s d || isF s d ATC_THROTTLE.FENCED

/-- Both dies of the pair take every operation (R129): lockstep or checking. -/
def paired (s : State) (d : Nat) : Bool := avail s && (pairSt s d == 1 || pairSt s d == 6)

/-- The die that serves die `d`'s share: in the availability profile the survivor of a solo or rejoining pair. -/
def serving (s : State) (d : Nat) : Nat :=
  if avail s then
    (if pairSt s d == 2 || pairSt s d == 4 then d / 2 * 2 else if pairSt s d == 3 || pairSt s d == 5 then d / 2 * 2 + 1 else d)
  else d

/-- The page exists on the die (R3, R4, R17, R498). -/
def present (s : State) (d pg : Nat) : Bool :=
  decide (d < s.part.dieCnt) &&
  (if pg = pgStr || pg = pgCch || pg = pgMss then s.part.unitS
   else if pg = pgCel then s.part.unitC
   else if pg = pgTim || pg = pgEvd then s.part.unitT && d == 0
   else if pg = pgCsc then s.part.unitK && d == 0
   else if pg = pgPkg || pg = pgHif || pg = pgSec then d == 0
   else true)

/-- Cascade position: 0 without unit K (R7, R63). -/
def cascPos (s : State) : Nat := if s.part.unitK then s.part.casc % 4 else 0

/-! ## Power domains (R414, R415) -/

/-- Domain codes of a bank and of a way. -/
def domBank (b : Nat) : Nat := 0x10 + b
def domWay (w : Nat) : Nat := 0x20 + w
/-- Key of a domain. -/
def dkey (d c : Nat) : Nat := d * 64 + c
/-- A domain. -/
def getDom (s : State) (d c : Nat) : Dom := mget Dom.zero s.doms (dkey d c)
/-- Write a domain. -/
def setDom (s : State) (d c : Nat) (x : Dom) : State := { s with doms := mset Dom.zero s.doms (dkey d c) x }
/-- The domain is ON. -/
def domOn (s : State) (d c : Nat) : Bool := (getDom s d c).phase == .on
/-- The domain is FAILED. -/
def domFailed (s : State) (d c : Nat) : Bool := match (getDom s d c).phase with
  | .failed _ => true
  | _ => false

/-! ## Counts and free values -/

/-- CQ cycle count (R223): CQ runs at half the CS rate. -/
def cq (s : State) : Nat := s.cyc / 2

/-- Take a fresh free value. -/
def freeVal (s : State) : Nat × State := (Config.freeValue s.free, { s with free := s.free + 1 })

/-- Take a random value of the security controller. -/
def random (s : State) : Nat × State := (Config.random s.free, { s with free := s.free + 1 })

/-- Append to the outputs. -/
def emitOut (s : State) (o : Output) : State := { s with out := s.out ++ [o] }

/-! ## Interrupts -/

/-- The device may issue requests: bus master enable is set and the function is not in D3hot (R352, R366). -/
def canMaster (s : State) : Bool := isF s 0 HIF_STS.BME && !s.d3hot && !s.inReset

/-- Send an MSI-X message, or set its pending bit while masked or while bus master enable is clear (R362). -/
def sendMsix (s : State) (v : Nat) : State :=
  if mget true s.msixMask v || !canMaster s then { s with msixPend := mset false s.msixPend v true }
  else emitOut s (.msix v)

/-! ## Background cells sent (R108, R111) -/

/-- Hand a background cell to the ring-injection arbiter of its die. -/
def queueCell (s : State) (src cls id payload : Nat) : State :=
  { s with ringQ := s.ringQ ++ [{ src := src, cls := cls, id := id, payload := payload }] }

/-- The cell has the source, the class and the name. -/
def RCell.named (src cls id : Nat) (c : RCell) : Bool := c.src == src && c.cls == cls && c.id == id

/-- The model's name of a management message, by its type and a number of its own; 0 names no message that is waited for. -/
def mgmtId (mtype key : Nat) : Nat := key * 16 + mtype

/-- A management cell (R518): message type, destination, index, last index, message identifier and 295 body bits. -/
def mgmtCell (mtype dest seq last mid body : Nat) : Nat :=
  ((((mtype % 16 * 8 + dest % 8) * 4 + seq % 4) * 4 + last % 4) * 4096 + mid % 4096) * 2 ^ 295 + body % 2 ^ 295

/-- Queue the cells of a management message; its last cell bears the message's name, where that is waited for. -/
def queueMgmt (s : State) (src dest mtype key n : Nat) (body : Nat) (named : Bool := true) : State :=
  (List.range n).foldl (fun s i =>
    queueCell s src 5 (if named && i + 1 == n then mgmtId mtype key else 0)
      (mgmtCell mtype dest i (n - 1) key (body / 2 ^ (295 * (n - 1 - i))))) s

/-- Send a target cycle and its change to every other die (R156, R513, R518). -/
def sendTarget (s : State) (key cyc change : Nat) : State :=
  ((dies s).filter fun d => d != 0 && !gone s d).foldl (fun s d =>
    queueCell s 0 5 0 (mgmtCell 0xA d 0 0 key (cyc % 2 ^ 48 * 2 ^ 247 + change % 2 ^ 247))) s

/-- A report to the host (R446): from another die it crosses the ring first. -/
def hostReport (s : State) (d pg bit cls : Nat) : State :=
  if d = 0 then sendMsix s (getF s 0 FLT_ROUTE.VEC)
  else
    let s := queueMgmt s d 0 8 d 1 (((pg % 64 * 32 + bit % 32) * 4 + cls % 4) * 2 ^ 282)
    { s with mgmt := s.mgmt ++ [{ type := 8, dest := 0, mid := d, acc := 2, off := pg, size := bit, data := cls, status := 0 }] }

/-! ## Errors -/

/-- What a chapter puts into the first-error record: ID and DATA (R442). -/
structure ErrItem where
  id : Nat
  data : Nat
  deriving DecidableEq, Repr

/-- No item. -/
def it0 : ErrItem := ⟨0, 0⟩
/-- One item, in DATA. -/
def it1 (a : Nat) : ErrItem := ⟨0, a % 2 ^ 64⟩
/-- Two items, in words 2 and 3. -/
def it2 (a b : Nat) : ErrItem := ⟨0, a % 2 ^ 32 * 2 ^ 32 + b % 2 ^ 32⟩
/-- Two items, the second wider than 32 bits: the first in ID. -/
def it2w (a b : Nat) : ErrItem := ⟨a % 256, b % 2 ^ 64⟩
/-- Three items, in bytes of word 2. -/
def it3 (a b c : Nat) : ErrItem := ⟨0, (a % 256 * 65536 + b % 256 * 256 + c % 256) * 2 ^ 32⟩

/-- Class of an error bit (R438): 0 C, 1 U, 2 F, 3 S. -/
def errClass (s : State) (d pg bit : Nat) : Nat := getF s d (ERR_SEV.SEV pg bit)

/-- The reset class of a bit, which fixes what can be masked or changed (R442). -/
def errResetClass (pg bit : Nat) : Nat := errSevReset pg / 4 ^ bit % 4

/-- The bit is masked (R439): classes F and S never are. -/
def errMasked (s : State) (d pg bit : Nat) : Bool :=
  (getF s d (ERR_MASK.MASK pg)).testBit bit && decide (errClass s d pg bit < 2)

/-- The STAMP of an error record: package CS cycle count bits 41 to 10. -/
def errStamp (s : State) : Nat := s.cyc / 1024 % 2 ^ 32

/-- Set the sticky bit of an error (R439). -/
def setSticky (s : State) (d pg bit : Nat) : State :=
  setF s d (ERR_STICKY.BITS pg) (getF s d (ERR_STICKY.BITS pg) ||| 2 ^ bit)

/-- Write a record into ERR_FIRST. -/
def putFirst (s : State) (d pg cls bit : Nat) (i : ErrItem) (stamp : Nat) : State :=
  let s := setF s d (ERR_FIRST0.VALID pg) 1
  let s := setF s d (ERR_FIRST0.CLASS pg) cls
  let s := setF s d (ERR_FIRST0.BIT pg) bit
  let s := setF s d (ERR_FIRST0.ID pg) i.id
  let s := setF s d (ERR_FIRST1.STAMP pg) stamp
  let s := setF s d (ERR_FIRST2.DATA pg) (i.data / 2 ^ 32)
  setF s d (ERR_FIRST3.DATA pg) i.data

/-- Write a record into ERR_SECOND. -/
def putSecond (s : State) (d pg cls bit esc : Nat) : State :=
  let s := setF s d (ERR_SECOND.VALID pg) 1
  let s := setF s d (ERR_SECOND.CLASS pg) cls
  let s := setF s d (ERR_SECOND.BIT pg) bit
  let s := setF s d (ERR_SECOND.ESC pg) esc
  setF s d (ERR_SECOND.STAMP pg) (errStamp s)

/-- The mark of a record in `escal`: its page, with 64 for the one in ERR_SECOND. The mark alone says that the record was
reported to the host; with 128 more, that it needs no escalation (R445). -/
def slotMark (pg : Nat) (second : Bool) : Nat := pg + 64 * b2n second

/-- Forget what is marked of a record. -/
def dropMarks (s : State) (d pg : Nat) (second : Bool) : State :=
  { s with escal := s.escal.filter fun e => !(e.1 == d && e.2 % 128 == slotMark pg second) }

/-- Mark a record. -/
def setMark (s : State) (d m : Nat) : State :=
  if s.escal.contains (d, m) then s else { s with escal := s.escal ++ [(d, m)] }

/-- Report a record to the host (R446), which keeps FAULT_N low while it is valid. -/
def hostRecord (s : State) (d pg bit k : Nat) (second : Bool) : State :=
  hostReport (setMark s d (slotMark pg second)) d pg bit k

/-- Record an unmasked error by the first line of R440 that applies; the flag says whether it is reported now,
and with ESC. -/
def recordErr (s : State) (d pg bit : Nat) (i : ErrItem) : State × Option Bool :=
  let k := errClass s d pg bit
  if getF s d (ERR_FIRST0.VALID pg) = 0 then (putFirst (dropMarks s d pg false) d pg k bit i (errStamp s), some false)
  else if getF s d (ERR_SECOND.VALID pg) = 0 then
    let esc := decide (getF s d (ERR_FIRST0.CLASS pg) < k)
    (putSecond (dropMarks s d pg true) d pg k bit (b2n esc), if esc then some true else none)
  else if getF s d (ERR_FIRST0.CLASS pg) < k ∧ getF s d (ERR_SECOND.CLASS pg) < k then
    (bumpSat (putSecond (dropMarks s d pg true) d pg k bit 1) d (ERR_NEXT_CNT.COUNT pg), some true)
  else (bumpSat s d (ERR_NEXT_CNT.COUNT pg), none)

/-- Bits that interrupt the host whatever their class (R237, R443). -/
def alwaysHost (pg bit : Nat) : Bool :=
  pg == pgThr && (bit == THR_ERR.FLTQ_OVF || bit == THR_ERR.QSUP || bit == THR_ERR.SUP_FAULT)

/-- An error that R440 does not report now: one that interrupts the host whatever its class does so all the same (R237), with
its record when ERR_SECOND took it. `s` is the state before, `u` the state after recording. -/
def unreported (s u : State) (d pg bit k : Nat) : State :=
  if !alwaysHost pg bit then u
  else if getF s d (ERR_SECOND.VALID pg) = 0 then hostRecord u d pg bit k true
  else hostReport u d pg bit k

/-- Set and record an error and report it to the host alone: for the errors of the reporting path itself,
whose report to the supervisor would need the queue that is full (log 12). -/
def raiseHost (s : State) (d pg bit : Nat) (i : ErrItem) : State :=
  let s := setSticky s d pg bit
  if errMasked s d pg bit then s
  else
    let (u, r) := recordErr s d pg bit i
    match r with
    | some second => setMark (hostRecord u d pg bit (errClass s d pg bit) second) d (128 + slotMark pg second)
    | none => unreported s u d pg bit (errClass s d pg bit)

/-- Post a fault notice of four words (R227). Answers whether it was queued. -/
def postNotice (s : State) (d w0 w1 w2 w3 : Nat) : State × Bool :=
  let s := setF s d (THR_FLTQ_LAST.WORD 0) w0
  let s := setF s d (THR_FLTQ_LAST.WORD 1) w1
  let s := setF s d (THR_FLTQ_LAST.WORD 2) w2
  let s := setF s d (THR_FLTQ_LAST.WORD 3) w3
  let q := mget [] s.fltq d
  if q.length < 32 then
    ({ s with fltq := mset [] s.fltq d (q ++ [((w0 % 2 ^ 32 * 2 ^ 32 + w1 % 2 ^ 32) * 2 ^ 32 + w2 % 2 ^ 32) * 2 ^ 32 + w3 % 2 ^ 32]) }, true)
  else (raiseHost (bumpSat s d THR_FLTQ_STS.DROPS) d pgThr THR_ERR.FLTQ_OVF (it1 w0), false)

/-- The block index of a page in a notice: the ring-stop page reports under the arbiter's (R499). -/
def blockIdx (pg : Nat) : Nat := if pg = pgRs then 10 + 32 else pg

/-- Report a record (R443, R444, R445); with ESC it lies in ERR_SECOND. -/
def report (s : State) (d pg bit k : Nat) (esc : Bool) (data : Nat) : State :=
  if 2 ≤ k then hostRecord s d pg bit k esc
  else
    let w0 := 0x20 * 2 ^ 24 + (k * 64 + b2n esc * 32 + bit) * 2 ^ 16 + blockIdx pg
    let (s, ok) := postNotice s d w0 (data / 2 ^ 32) data (cq s)
    let s := if ok then s
      else raiseHost (setMark (hostRecord s d pg bit k esc) d (128 + slotMark pg esc)) d pgFlt FLT_ERR.SUP_ESC (it2 pg bit)
    if (k = 0 && isF s 0 FLT_ROUTE.C_HOST) || (k = 1 && isF s 0 FLT_ROUTE.U_HOST) || alwaysHost pg bit then
      hostRecord s d pg bit k esc
    else s

/-- A class F error costs the die (R131, R438): in the density profile it is fenced; in the availability profile it
is lost, and PAIR_MEMBER_LOST takes it out of its pair. -/
def loseDie (s : State) (d : Nat) : State := { s with lostDies := s.lostDies ||| 2 ^ d }

/-- An error occurs (R439, R440). Pages of absent units raise none (R4). -/
def raiseErr (s : State) (d pg bit : Nat) (i : ErrItem) : State :=
  if present s d pg then
    let s := setSticky s d pg bit
    if errMasked s d pg bit then s
    else
      let k := errClass s d pg bit
      let (u, r) := recordErr s d pg bit i
      let s := match r with
        | some esc => report u d pg bit k esc (if esc then 0 else i.data)
        | none => unreported s u d pg bit k
      if k = 2 ∧ pg ≠ pgPkg then loseDie s d else s
  else s

/-- The handler ends (R441): ERR_SECOND moves into ERR_FIRST, and is reported unless it was escalated. -/
def endHandling (s : State) (d pg : Nat) : State :=
  let s := dropMarks s d pg false
  if getF s d (ERR_FIRST0.VALID pg) = 0 then s
  else if getF s d (ERR_SECOND.VALID pg) = 0 then
    let s := putFirst s d pg 0 0 it0 0
    setF s d (ERR_FIRST0.VALID pg) 0
  else
    let k := getF s d (ERR_SECOND.CLASS pg)
    let b := getF s d (ERR_SECOND.BIT pg)
    let esc := getF s d (ERR_SECOND.ESC pg)
    let s := { s with escal := s.escal.map fun e => if e.1 == d && e.2 % 128 == slotMark pg true then (d, e.2 - 64) else e }
    let s := putFirst s d pg k b it0 (getF s d (ERR_SECOND.STAMP pg))
    let s := setF (setF (setF (setF (setF s d (ERR_SECOND.VALID pg) 0) d (ERR_SECOND.CLASS pg) 0)
      d (ERR_SECOND.BIT pg) 0) d (ERR_SECOND.ESC pg) 0) d (ERR_SECOND.STAMP pg) 0
    if esc = 1 then s else report s d pg b k false 0

/-! ## Background cells received (R107) -/

/-- The flit of an arriving cell as die `d`'s ring stop checks it: `flit` is 0 or 1 clean, 2 or 3 corrected, 4 or 5
uncorrectable, the odd value for the counter-clockwise direction. -/
def flitSeen (s : State) (d cls flit : Nat) : State :=
  if flit < 2 then s
  else if flit < 4 then raiseErr (bumpSat s d ARB_RS_ECC.CORR) d pgRs RS_ERR.FLIT_CORR (it2 (flit % 2) cls)
  else raiseErr (bumpSat s d ARB_RS_ECC.UNC) d pgRs RS_ERR.FLIT_UNC (it2 (flit % 2) cls)

/-- A background cell arrives at die `d`: the flag says whether it is received. One that still waits for injection, or was
dropped and not repeated, has not arrived; one in an uncorrectable flit is dropped (R107). -/
def takeCell (s : State) (d src cls id flit : Nat) : State × Bool :=
  let me := RCell.named src cls id
  let air := s.ringAir.any me
  if !air && (s.ringQ.any me || s.dropped.any me) then (s, false)
  else
    let c : RCell := (s.ringAir.find? me).getD ⟨src, cls, id, 0⟩
    let s := flitSeen { s with ringAir := rmFirst me s.ringAir } d cls flit
    if 4 ≤ flit then ({ s with dropped := s.dropped ++ [c] }, false) else (s, true)

/-! ## Time -/

/-- One second in units of 2^-32 ns. -/
def secUnits : Nat := 1000000000 * 2 ^ 32

/-- The lead die's counter in a CS cycle (R381): it advances by TIM_RATE each CP cycle of four CS cycles. -/
def counterAt (s : State) (c : Nat) : Nat := s.tim.time + s.tim.rate * ((c - s.tim.cyc) / 4)

/-- A die's local copy in a CS cycle (R388): it advances by RATE/4 each CS cycle. -/
def localAt (s : State) (d c : Nat) : Nat :=
  let l := mget Local.zero s.local_ d
  l.time + l.rate * (c - l.cyc) / 4

/-- UNSYNC of the lead die (R382). -/
def leadUnsync (s : State) : Bool :=
  !(isF s 0 TIM_STS.CONT && (getF s 0 TIM_STS.SYNC == 2 ||
    (getF s 0 TIM_STS.SYNC == 3 && s.tim.everLocked && !s.tim.holdExp)))

/-- UNSYNC of a value a die captures (R382). -/
def dieUnsync (s : State) (d : Nat) : Bool :=
  let l := mget Local.zero s.local_ d
  !l.valid || l.unsync

/-- A time in the STAMP format of R190: seconds, nanoseconds, fraction, UNSYNC, 0. -/
def stampOf (t : Nat) (unsync : Bool) : Nat :=
  let sec := t / secUnits % 2 ^ 48
  let ns := t % secUnits / 2 ^ 32
  let fr := t % 2 ^ 32 / 2 ^ 16
  ((sec * 2 ^ 30 + ns) * 2 ^ 16 + fr) * 4 + b2n unsync * 2

/-- A signed offset register of 20 bits in units of 1/16 ns, two's complement, in units of 2^-32 ns (R389, R405). -/
def ofsUnits (v : Nat) : Int :=
  (if v < 2 ^ 19 then (v : Int) else (v : Int) - 2 ^ 20) * 2 ^ 28

/-- A captured time value: die, CS cycle, and the offset register to add. -/
def capture (s : State) (d c : Nat) (ofs : Option Fld) : Nat :=
  let t := localAt s d c
  let t := match ofs with
    | some f => ((t : Int) + ofsUnits (getF s 0 f)).toNat
    | none => t
  stampOf t (dieUnsync s d)

/-! ## Threads -/

/-- The key of a thread. -/
def tkey (d t : Nat) : Nat := d * 512 + t

/-- A thread context. -/
def getT (s : State) (d t : Nat) : Thread := mget Thread.zero s.threads (tkey d t)

/-- Write a thread context. -/
def setT (s : State) (d t : Nat) (x : Thread) : State := { s with threads := mset Thread.zero s.threads (tkey d t) x }

/-- Change a thread context. -/
def modT (s : State) (d t : Nat) (f : Thread → Thread) : State := setT s d t (f (getT s d t))

/-- The threads of a die that are not FREE, with their numbers. -/
def threadsOf (s : State) (d : Nat) : List (Nat × Thread) :=
  (s.threads.filter fun p => p.1 / 512 == d && p.2.st != .free).map fun p => (p.1 % 512, p.2)

/-- Free threads of a die other than thread 0: F of R218. -/
def freeThreads (s : State) (d : Nat) : Nat := 383 - ((threadsOf s d).filter fun p => p.1 != 0).length

/-- Top-level threads of a group on a die: `used` of R218. -/
def groupUsed (s : State) (d g : Nat) : Nat :=
  ((threadsOf s d).filter fun p => p.1 != 0 && !p.2.child && p.2.group == g).length

/-- Children of a group's threads. -/
def groupKids (s : State) (d g : Nat) : Nat :=
  ((threadsOf s d).filter fun p => p.2.child && p.2.group == g).length

/-- The outstanding reserve O of R218. -/
def outReserve (s : State) (d : Nat) : Nat :=
  sumL ((List.range 16).map fun g => getF s d (THR_GRP_CFG.RESV g) - groupUsed s d g)

/-- The lowest-numbered free thread that may serve a request or a child (R211). -/
def lowestFree (s : State) (d : Nat) : Option Nat :=
  ((List.range 384).drop 1).find? fun t => (getT s d t).st == .free

/-! ## Requests -/

/-- A request by identifier. -/
def findReq (s : State) (id : Nat) : Option Req := s.reqs.find? fun r => r.id == id

/-- Change a request. -/
def modReq (s : State) (id : Nat) (f : Req → Req) : State := { s with reqs := updWhere (fun r => r.id == id) f s.reqs }

/-- Current home die of a channel (R312). -/
def homeOf (s : State) (c : Nat) : Nat :=
  match mget 0 s.homes c with
  | 0 => getF s 0 (LKP_CH_CFG.DIE c)
  | n + 1 => n

/-- Move a channel's home. -/
def setHome (s : State) (c d : Nat) : State := { s with homes := mset 0 s.homes c (d + 1) }

/-- Response buffers a channel holds: `used` of R313. -/
def bufUsed (s : State) (c : Nat) : Nat :=
  (s.reqs.filter fun r => r.chan == c && r.buf.isSome).length + (s.leaving.filter fun e => e.1 == c && decide (s.cyc < e.2.2)).length

/-- Free response buffers of a die. -/
def bufFree (s : State) (d : Nat) : Nat :=
  1024 - (s.reqs.filter fun r => r.buf == some d).length - (s.leaving.filter fun e => e.2.1 == d && decide (s.cyc < e.2.2)).length

/-- Field of a request header (R307). -/
def hdrTag (h : W64) : Nat := fld h.toNat 36 16
def hdrRecipe (h : W64) : Nat := fld h.toNat 52 8
def hdrKind (h : W64) : Nat := fld h.toNat 60 4
def hdrPlen (h : W64) : Nat := fld h.toNat 28 8
def hdrStamp (h : W64) : Bool := h.toNat.testBit 27
def hdrLog (h : W64) : Bool := h.toNat.testBit 26
def hdrGensel (h : W64) : Bool := h.toNat.testBit 25

end Sys2Proof.Machine
end

