-- ==== Sys2Proof/Machine/Flags.lean ====
section
/-!
DEFINITION. Check bits (R519), rows and their fields (R40 to R57), verification (R57, R80), the merge of
contributions (R84, R130) and the status and flags of a search (R87 to R90, R124).
-/

namespace Sys2Proof.Machine

/-! ## SECDED (R519) -/

/-- The data positions: 3, 5, 6, 7, 9, 10, and so on, skipping powers of two. -/
def secPositions : List Nat := (List.range 72).filter fun p => 3 ≤ p && p &&& (p - 1) != 0

/-- XOR of the positions of the set data bits: check bits `c[0]` to `c[r-1]`. -/
def secCheck (k data : Nat) : Nat :=
  ((secPositions.take k).zipIdx.foldl (fun a q => if data.testBit q.2 then a ^^^ q.1 else a) 0)

/-- Parity of the lowest `n` bits. -/
def parityOf (v n : Nat) : Nat := popcount v n % 2

/-- The check field of a word of `k` data bits with `r` check bits and the overall parity. -/
def secField (k r data : Nat) : Nat :=
  let c := secCheck k data
  c + (parityOf data k + parityOf c r) % 2 * 2 ^ r

/-- What checking a word finds. -/
inductive Ecc
  | ok (data : Nat)
  | corrected (data : Nat)
  | bad
  deriving DecidableEq, Repr

/-- Check a word against its check field. A single error in a check bit leaves the data as it is; a syndrome that
points at no position of the word is uncorrectable. -/
def secDecode (k r data chk : Nat) : Ecc :=
  let c := chk % 2 ^ r
  let p := chk / 2 ^ r % 2
  let syn := secCheck k data ^^^ c
  let par := (parityOf data k + parityOf c r + p) % 2
  if par = 0 then (if syn = 0 then .ok data else .bad)
  else if syn &&& (syn - 1) = 0 then .corrected data
  else
    match (secPositions.take k).idxOf? syn with
    | some i => .corrected (data ^^^ 2 ^ i)
    | none => .bad

/-- The data of a word that is not uncorrectable. -/
def Ecc.data? : Ecc → Option Nat
  | .ok v => some v
  | .corrected v => some v
  | .bad => none

/-- A correction was made. -/
def Ecc.isCorr : Ecc → Bool
  | .corrected _ => true
  | _ => false

/-! ## CRC-32 -/

/-- CRC-32 of bytes, IEEE 802.3 polynomial. -/
def crc32 (l : List Nat) : Nat :=
  (l.foldl (fun c b => (List.range 8).foldl (fun c _ => if c % 2 = 1 then (c / 2) ^^^ 0xEDB88320 else c / 2) (c ^^^ (b % 256))) 0xFFFFFFFF) ^^^ 0xFFFFFFFF

/-! ## Rows -/

/-- Fields of the control word (R43). -/
def ctrlPrio (c : W32) : Nat := fld c.toNat 16 16
def ctrlState (c : W32) : Nat := fld c.toNat 14 2
def ctrlStateB (c : W32) : Nat := fld c.toNat 12 2
def ctrlWidth (c : W32) : Nat := fld c.toNat 9 3
def ctrlD (c : W32) : Bool := c.toNat.testBit 8
def ctrlSusp (c : W32) : Bool := c.toNat.testBit 7

/-- A control word with its check bits over [31:7]. -/
def mkCtrl (prio state stateB width : Nat) (d susp : Bool) : W32 :=
  let hi := (((((prio % 2 ^ 16) * 4 + state % 4) * 4 + stateB % 4) * 8 + width % 8) * 2 + b2n d) * 2 + b2n susp
  BitVec.ofNat 32 (hi * 128 + secField 25 5 hi)

/-- A row's control word with state codes, D and SUSP replaced. -/
def reCtrl (c : W32) (state stateB : Nat) (d susp : Bool) : W32 :=
  mkCtrl (ctrlPrio c) state stateB (ctrlWidth c) d susp

/-- The control word under CECC (R57): the 25 data bits as checked. -/
def ctrlCheck (c : W32) : Ecc := secDecode 25 5 (c.toNat / 128) (c.toNat % 64)

/-- The control word after correction; one that cannot be corrected stands as it is. -/
def ctrlFix (c : W32) : W32 :=
  match (ctrlCheck c).data? with
  | some v => BitVec.ofNat 32 (v * 128 + secField 25 5 v)
  | none => c

/-- Replace fields of a control word in place: a correctable word is corrected first; one that is uncorrectable keeps the
difference between its check bits and its data, so that it still reads as uncorrectable (DESIGN CHOICE, log 71). -/
def editCtrl (c : W32) (f : W32 → W32) : W32 :=
  match (ctrlCheck c).data? with
  | some _ => f (ctrlFix c)
  | none => f c ^^^ BitVec.ofNat 32 (secField 25 5 (c.toNat / 128) ^^^ c.toNat % 64)

/-- Check bits of a 64-bit word of which a part is replaced: over a word that cannot be corrected the difference between
check bits and data stays, so that the part that is kept still reads as uncorrectable (DESIGN CHOICE, log 71). -/
def keepChk (old oldChk new_ : Nat) : Nat :=
  match (secDecode 64 7 old oldChk).data? with
  | some _ => secField 64 7 new_
  | none => secField 64 7 new_ ^^^ secField 64 7 old ^^^ oldChk

/-- Check bytes of a shadow, word 0 first. -/
def shadowChk (sh : BitVec 320) : BitVec 40 :=
  BitVec.ofNat 40 (ofBytesBE ((List.range 5).map fun i => secField 64 7 (getBE sh (64 * i) 64)))

/-- A row's contents as the update engine writes them: value bits under a zero mask bit cleared (R41), shadow and
check bits to match. -/
def mkRow (c : W32) (ad : W64) (value mask : Seg) : Row :=
  let v := value &&& mask
  let sh : BitVec 320 := v ++ mask
  { value := v, mask := mask, ctrl := c, ad := ad, adChk := BitVec.ofNat 8 (secField 64 7 ad.toNat),
    shadow := sh, shChk := shadowChk sh }

/-- Check of one shadow word. -/
def shWord (r : Row) (i : Nat) : Ecc := secDecode 64 7 (getBE r.shadow (64 * i) 64) (getBE r.shChk (8 * i) 8)

/-- Check of the ad-word. -/
def adCheck (r : Row) : Ecc := secDecode 64 7 r.ad.toNat r.adChk.toNat

/-- The ad-word and its check bits as a copy carries them: corrected, or as they stand (log 71). -/
def adCarried (r : Row) : W64 × Byte :=
  match (adCheck r).data? with
  | some v => (BitVec.ofNat 64 v, BitVec.ofNat 8 (secField 64 7 v))
  | none => (r.ad, r.adChk)

/-- The shadow after correction, when every word named is correctable. -/
def shCorrected (r : Row) (ws : List Nat) : Option (BitVec 320) :=
  ws.foldl (fun a i => match a, (shWord r i).data? with
    | some v, some x => some (setBE v (64 * i) 64 x)
    | _, _ => none) (some r.shadow)

/-- Value and mask held by a shadow. -/
def shValue (sh : BitVec 320) : Seg := sh.extractLsb' 160 160
def shMask (sh : BitVec 320) : Seg := sh.extractLsb' 0 160

/-- The ternary match of R42 on the positions selected. -/
def cellMatch (value mask seg sel : Seg) : Bool := (mask &&& sel &&& (value ^^^ seg)) == 0

/-- Positions of a whole row, of half A and of half B. -/
def selAll : Seg := BitVec.allOnes 160
def selA : Seg := BitVec.ofNat 160 ((2 ^ 80 - 1) * 2 ^ 80)
def selB : Seg := BitVec.ofNat 160 (2 ^ 80 - 1)

/-- Segment `i` of a left-aligned key; an 80-bit key stands in both halves, where each half compares it (R52). -/
def keySeg (key : Key) (width i : Nat) : Seg :=
  if width = 0 then
    let k := getBE key 0 80
    BitVec.ofNat 160 (k * 2 ^ 80 + k)
  else BitVec.ofNat 160 (getBE key (160 * i) 160)

/-- Rows of an entry of a partition width code (R68): 80, 160, 320, 640 bits. -/
def rowsPerSlot (width : Nat) : Nat := if width = 2 then 2 else if width = 3 then 4 else 1

/-- Row WIDTH code of the row at an index, for a partition width code (R47, R68). -/
def rowCode (width idx : Nat) : Nat :=
  match width with
  | 0 => 1
  | 1 => 0
  | 2 => if idx % 2 = 0 then 2 else 3
  | _ => if idx % 4 = 0 then 4 else 5

/-- Visible in a generation (R44, R45). -/
def visible (state gen : Nat) : Bool := state.testBit gen

/-! ## Addresses (R63) -/

/-- Fields of a global row address. -/
def graCasc (g : Nat) : Nat := fld g 23 2
def graDie (g : Nat) : Nat := fld g 20 3
def graBank (g : Nat) : Nat := fld g 16 4
def graShelf (g : Nat) : Nat := fld g 10 6
def graRow (g : Nat) : Nat := fld g 0 10

/-- A global row address. -/
def mkGra (casc die bank shelf row : Nat) : Nat := (((casc * 8 + die) * 16 + bank) * 64 + shelf) * 1024 + row

/-- Shelf number within the die. -/
def shelfIdx (g : Nat) : Nat := fld g 10 10

/-- Physical shelf behind a shelf number: 64 is the bank's spare once it is mapped in (R15, R167). -/
def physShelf (s : State) (d bank shelf : Nat) : Nat :=
  if isF s d (UPD_SPARE_MAP.USED bank) && getF s d (UPD_SPARE_MAP.SHELF bank) == shelf then 64 else shelf

/-- Shelf number of a physical shelf, if it is in use. -/
def logShelf (s : State) (d bank ps : Nat) : Option Nat :=
  if ps = 64 then (if isF s d (UPD_SPARE_MAP.USED bank) then some (getF s d (UPD_SPARE_MAP.SHELF bank)) else none)
  else if isF s d (UPD_SPARE_MAP.USED bank) && getF s d (UPD_SPARE_MAP.SHELF bank) == ps then none
  else some ps

/-- Key of a physical row. -/
def pkey (d bank ps row : Nat) : Nat := ((d * 16 + bank) * 65 + ps) * 1024 + row

/-- Key of the row a global row address names on a die (in the availability profile either die of the pair). -/
def rowKey (s : State) (d g : Nat) : Nat := pkey d (graBank g) (physShelf s d (graBank g) (graShelf g)) (graRow g)

/-- The row a global row address names on a die. -/
def getRow (s : State) (d g : Nat) : Row := mget Row.zero s.rows (rowKey s d g)

/-- Write a row. -/
def setRow (s : State) (d g : Nat) (r : Row) : State := { s with rows := mset Row.zero s.rows (rowKey s d g) r }

/-- Change a row. -/
def modRow (s : State) (d g : Nat) (f : Row → Row) : State := setRow s d g (f (getRow s d g))

/-! ## The die pass (R75 to R79) -/

/-- `a` precedes `b` (R78): lower priority, then lower entry address (R54). -/
def precedes (pa ga ha pb gb hb : Nat) : Bool :=
  decide (pa < pb) || (pa == pb && (decide (ga < gb) || (ga == gb && decide (ha < hb))))

/-- Hits in precedence. -/
def Hit.before (a b : Hit) : Bool := precedes a.prio a.gra a.h b.prio b.gra b.h

/-- Candidates in precedence. -/
def Cand.before (a b : Cand) : Bool := precedes a.prio a.gra a.h b.prio b.gra b.h

/-- The shelf is enabled for a search of a partition with a class byte (R60), its bank set given. -/
def shelfEnabled (s : State) (d p banks cls sh : Nat) : Bool :=
  banks.testBit (sh / 64) && isF s d SHELF_DESC.OWNED sh && getF s d SHELF_DESC.OWNER sh == p &&
  ((cls ^^^ getF s d SHELF_DESC.TAG sh) &&& getF s d SHELF_DESC.TAG_MASK sh) == 0

/-- The counted entries a physical row starts (R77): one, or one for each half of a half-row pair. -/
def rowHits (s : State) (d p banks width gen : Nat) (key : Key) (k : Nat) (r : Row) : List Hit :=
  let bank := k / 66560 % 16
  let row := k % 1024
  match logShelf s d bank (k / 1024 % 65) with
  | none => []
  | some sh =>
    let cls := getBE key 0 8
    if k / 1064960 != d || !shelfEnabled s d p banks cls (bank * 64 + sh) || ctrlD r.ctrl then []
    else
      let gra := mkGra (cascPos s) (if avail s then d / 2 * 2 else d) bank sh row
      if width = 0 then
        if ctrlWidth r.ctrl != 1 then []
        else
          (if visible (ctrlState r.ctrl) gen && cellMatch r.value r.mask (keySeg key 0 0) selA then [⟨gra, 0, ctrlPrio r.ctrl, [r]⟩] else []) ++
          (if visible (ctrlStateB r.ctrl) gen && cellMatch r.value r.mask (keySeg key 0 0) selB then [⟨gra, 1, ctrlPrio r.ctrl, [r]⟩] else [])
      else
        let n := rowsPerSlot width
        if ctrlWidth r.ctrl != rowCode width row || row % n != 0 || !visible (ctrlState r.ctrl) gen then []
        else
          let rs := (List.range n).map fun i => mget Row.zero s.rows (k + i)
          if rs.zipIdx.all fun q => cellMatch q.1.value q.1.mask (keySeg key width q.2) selAll then
            [⟨gra, 0, ctrlPrio r.ctrl, rs⟩]
          else []

/-- All counted entries of a die. -/
def dieHits (s : State) (d p width gen : Nat) (key : Key) : List Hit :=
  let banks := getF s d (PART_BANKS.BANKS d) p
  s.rows.flatMap fun q => rowHits s d p banks width gen key q.1 q.2

/-- The entry that no other precedes. -/
def bestHit : List Hit → Option Hit
  | [] => none
  | h :: l => match bestHit l with
    | none => some h
    | some b => if b.before h then some b else some h

/-- What one die finds (R78, R79). -/
def diePass (s : State) (d p width gen : Nat) (key : Key) : DieSample :=
  let hs := dieHits s d p width gen key
  let f := bestHit hs
  let rest := match f with
    | some b => rmFirst (fun h => h == b) hs
    | none => []
  { die := d, first := f, second := bestHit rest, count := hs.length }

/-- Shelves enabled for a search on a die (R102). -/
def enabledShelves (s : State) (d p : Nat) (key : Key) : Nat :=
  ((List.range 1024).filter fun sh => shelfEnabled s d p (getF s d (PART_BANKS.BANKS d) p) (getBE key 0 8) sh).length

/-! ## Verification (R57, R80) -/

/-- What verifying one candidate finds: whether it passes, whether a correction was made, and the candidate. -/
structure Verdict where
  pass : Bool
  corrected : Bool
  cand : Cand
  deriving DecidableEq, Repr

/-- Shadow words checked for an entry of one row: all, or those of the half (R57). -/
def checkedWords (width h : Nat) : List Nat :=
  if width = 0 then (if h = 0 then [0, 1, 2, 3] else [1, 2, 3, 4]) else [0, 1, 2, 3, 4]

/-- Verify a candidate against its shadows (R57). -/
def verify (width : Nat) (key : Key) (h : Hit) : Verdict :=
  let ws := checkedWords width h.h
  let sel := if width = 0 then (if h.h = 0 then selA else selB) else selAll
  let head := h.rows.headD Row.zero
  let shOk := h.rows.zipIdx.all fun q =>
    match shCorrected q.1 ws with
    | some sh => cellMatch (shValue sh) (shMask sh) (keySeg key width q.2) sel
    | none => false
  let corr := (h.rows.any fun r => ws.any fun i => (shWord r i).isCorr) || (adCheck head).isCorr || (ctrlCheck head.ctrl).isCorr
  let ad := match (adCheck head).data? with
    | some v => if width = 0 then (if h.h = 0 then v / 2 ^ 32 else v % 2 ^ 32) else v
    | none => 0
  { pass := shOk && (adCheck head).data?.isSome && (ctrlCheck head.ctrl).data?.isSome,
    corrected := corr,
    cand := { gra := h.gra, h := h.h, prio := ctrlPrio (ctrlFix head.ctrl), ad := BitVec.ofNat 64 ad } }

/-- Rows of a candidate in which verification corrects an error: by index, the ad-word and control word being the head's. -/
def corrRows (width : Nat) (h : Hit) : List Nat :=
  let ws := checkedWords width h.h
  (h.rows.zipIdx.filter fun q => (ws.any fun i => (shWord q.1 i).isCorr) ||
    (q.2 == 0 && ((adCheck q.1).isCorr || (ctrlCheck q.1.ctrl).isCorr))).map fun q => q.2

/-- The die contribution of a sample (R80, R82, R89, R90): modes 0 BEST, 1 COUNT, 2 BEST2. -/
def contribOf (mode width : Nat) (key : Key) (x : DieSample) : Contrib :=
  let v1 := x.first.map (verify width key)
  let v2 := x.second.map (verify width key)
  let base : Contrib :=
    { Contrib.none with
      count := x.count
      bprio := (x.first.map fun h => h.prio).getD 0
      tien := match x.first, x.second with
        | some a, some b => if a.prio = b.prio then 2 else 1
        | some _, none => 1
        | none, _ => 0 }
  if mode = 1 then base
  else match v1, v2 with
    | none, _ => base
    | some a, none => if a.pass then { base with cand := some a.cand } else { base with vfail := true }
    | some a, some b =>
      if a.pass then
        (if b.pass then { base with cand := some a.cand, cand2 := if mode = 2 then some b.cand else none }
         else { base with cand := some a.cand, vfy := true })
      else (if b.pass then { base with cand := some b.cand, vfy := true } else { base with vfail := true })

/-! ## The merge (R84, R90, R91, R110) -/

/-- The preceding one of two optional candidates. -/
def bestCand : Option Cand → Option Cand → Option Cand
  | none, b => b
  | a, none => a
  | some a, some b => if b.before a then some b else some a

/-- The runner-up among the candidates of two contributions, the winner set aside. -/
def runnerUp (a b : Contrib) : Option Cand :=
  match a.cand, b.cand with
  | some x, some y => if y.before x then bestCand (some x) (bestCand b.cand2 a.cand2) else bestCand (some y) (bestCand a.cand2 b.cand2)
  | _, _ => bestCand a.cand2 b.cand2

/-- Merge two contributions; the order does not matter. COUNT saturates at 65,536 as in a result cell (R110). -/
def mergeC (a b : Contrib) : Contrib :=
  { cand := bestCand a.cand b.cand
    cand2 := runnerUp a b
    count := min 65536 (a.count + b.count)
    bprio := if a.count = 0 then b.bprio else if b.count = 0 then a.bprio else min a.bprio b.bprio
    tien :=
      if a.count = 0 then b.tien else if b.count = 0 then a.tien
      else if a.bprio < b.bprio then a.tien else if b.bprio < a.bprio then b.tien
      else min 2 (a.tien + b.tien)
    vfy := a.vfy || b.vfy
    vfail := a.vfail || b.vfail
    dfail := a.dfail || b.dfail
    lost := a.lost || b.lost }

/-- Merge a list of contributions. -/
def mergeAll (l : List Contrib) : Contrib := l.foldl mergeC Contrib.none

/-- The comparison of the halves of a pair (R130): what passes, and whether it is a mismatch. Where the table leaves the half
open (equal candidates; VFAIL in both halves or in neither, with equal counts) E passes (DESIGN CHOICE, log 82). -/
def pairCompare (e o : Contrib) : Contrib × Bool :=
  if e = o then (e, false)
  else match e.cand, o.cand with
    | some a, some b =>
      let w := if b.before a then o else e
      ({ w with vfy := true, count := max e.count o.count }, true)
    | some _, none => ({ e with vfy := true, count := max e.count o.count }, true)
    | none, some _ => ({ o with vfy := true, count := max e.count o.count }, true)
    | none, none =>
      (if e.vfail && !o.vfail then e else if o.vfail && !e.vfail then o
       else if e.count < o.count then o else e, true)

/-! ## Status and result records (R87, R89, R90, R124, R213) -/

/-- Fields of a result record (R213). -/
structure Rec where
  status : Nat := 0
  hit : Bool := false
  tie : Bool := false
  vfy : Bool := false
  sat : Bool := false
  spec : Bool := false
  tier : Nat := 0
  pend : Bool := false
  h : Nat := 0
  slot : Nat := 0
  count : Nat := 0
  gra : Nat := 0
  prio : Nat := 0
  sflags : Nat := 0
  bucket : Nat := 0
  ad : Nat := 0
  deriving DecidableEq, Repr

/-- The 32 bytes of a record. -/
def encRec (r : Rec) : BitVec 256 :=
  let w0 := r.status % 16 * 2 ^ 28 + b2n r.hit * 2 ^ 27 + b2n r.tie * 2 ^ 26 + b2n r.vfy * 2 ^ 25 + b2n r.sat * 2 ^ 24 +
    b2n r.spec * 2 ^ 23 + r.tier % 4 * 2 ^ 21 + b2n r.pend * 2 ^ 20 + r.h % 2 * 2 ^ 19 + r.slot % 4 * 2 ^ 17 + r.count % 2 ^ 16
  let w1 := r.gra % 2 ^ 25
  let w2 := r.prio % 2 ^ 16 * 2 ^ 16 + r.sflags % 2 ^ 16
  BitVec.ofNat 256 ((((w0 * 2 ^ 32 + w1) * 2 ^ 32 + w2) * 2 ^ 32 + r.bucket % 2 ^ 32) * 2 ^ 128 + r.ad % 2 ^ 64)

/-- The fields of a record's 32 bytes. -/
def decRec (v : BitVec 256) : Rec :=
  { status := getBE v 0 4, hit := getBE v 4 1 == 1, tie := getBE v 5 1 == 1, vfy := getBE v 6 1 == 1,
    sat := getBE v 7 1 == 1, spec := getBE v 8 1 == 1, tier := getBE v 9 2, pend := getBE v 11 1 == 1,
    h := getBE v 12 1, slot := getBE v 13 2, count := getBE v 16 16, gra := getBE v 39 25, prio := getBE v 64 16,
    sflags := getBE v 80 16, bucket := getBE v 96 32, ad := getBE v 192 64 }

/-- The match fields of a record (R202): status, HIT, entry address, PRIO, ad-word. -/
def matchFields (r : Rec) : Rec :=
  { status := r.status, hit := r.hit, h := r.h, gra := r.gra, prio := r.prio, ad := r.ad }

/-- Status of a search (R124, R87, R89), for its mode. -/
def searchStatus (mode : Nat) (c : Contrib) : Nat :=
  if c.dfail then 7 else if c.lost then 3 else if c.vfail then 4
  else if mode = 1 then (if c.count = 0 then 1 else 0)
  else match c.cand with
    | some _ => 0
    | none => 1

/-- The result record of a search. -/
def searchRec (mode : Nat) (c : Contrib) : Rec :=
  let st := searchStatus mode c
  let cnt := min c.count 65535
  let sat := decide (65535 < c.count)
  if st = 7 || st = 3 then { status := st }
  else if st = 4 then { status := 4, tie := c.tien == 2, vfy := c.vfy, sat := sat, count := cnt }
  else if mode = 1 then { status := st, hit := decide (0 < c.count), tie := c.tien == 2, sat := sat, count := cnt }
  else match c.cand with
    | some x => { status := 0, hit := true, tie := c.tien == 2, vfy := c.vfy, sat := sat, h := x.h, count := cnt, gra := x.gra, prio := x.prio, ad := x.ad.toNat }
    | none => { status := 1 }

/-- The second record of BEST2 (R90, R124). -/
def searchRec2 (c : Contrib) : Rec :=
  if searchStatus 2 c = 0 && !c.vfy then
    match c.cand2 with
    | some x => { hit := true, h := x.h, gra := x.gra, prio := x.prio, ad := x.ad.toNat }
    | none => {}
  else {}

/-! ## Hash (R187) -/

/-- One hash of a left-aligned key of `w` bits. -/
def hashKey (seed : Nat) (key : Key) (w : Nat) : Nat :=
  let m := 2 ^ 64
  let x := (List.range ((w + 63) / 64)).foldl (fun x i =>
    let v := getBE key (64 * i) 64
    let y := (x ^^^ v) * 0x9E3779B97F4A7C15 % m
    y ^^^ (y / 2 ^ 29)) (seed ^^^ w)
  x / 2 ^ 32

/-- Width in bits of a partition width code. -/
def widthBits (w : Nat) : Nat := 80 * 2 ^ min w 3

/-- Bucket indices of a region of `n` buckets (R187). -/
def bucketIdx (seed0 seed1 n : Nat) (key : Key) (w : Nat) : Nat × Nat :=
  let i0 := hashKey seed0 key w * n / 2 ^ 32
  let j := hashKey seed1 key w * n / 2 ^ 32
  (i0, if j = i0 then (i0 + 1) % n else j)

end Sys2Proof.Machine
end

