-- ==== Sys2Proof/Machine/Contest.lean ====
section
/-!
DEFINITION. Contests (R337), which the arbiters and the issue tables share, and the issue slots of the sequencer
(R223 to R225, R338): which READY threads start an instruction in a CQ cycle.
-/

namespace Sys2Proof.Machine

/-! ## Levels and ages (R337) -/

/-- Key of an owner of an instance; instance 4 is a die's issue table. -/
def okey (d inst o : Nat) : Nat := (d * 8 + inst) * 32 + o

/-- Base level of an owner: of thread groups and the supervisor the same on the attic port and in the issue table. -/
def baseOf (s : State) (d inst o : Nat) : Nat :=
  if (inst = 0 || inst = 4) && o < 16 then getF s d (THR_GRP_CFG.LEVEL o)
  else if (inst = 0 || inst = 4) && o == 0x16 then getF s d THR_SUP.LEVEL
  else getF s d (ARB_LEVEL.BASE o) inst

/-- AGE and level of an owner. -/
def ageOf (s : State) (d inst o : Nat) : Nat := mget 0 s.arbAge (okey d inst o)
def levelOf (s : State) (d inst o : Nat) : Nat := min 15 (baseOf s d inst o + ageOf s d inst o)

/-- The owner that wins a contest (R337): highest level, then higher AGE, then lower code. -/
def contestWinner (s : State) (d inst : Nat) (ready : List Nat) : Option Nat :=
  ready.foldl (fun w o => match w with
    | none => some o
    | some v =>
      if levelOf s d inst v < levelOf s d inst o ||
         (levelOf s d inst v == levelOf s d inst o && decide (ageOf s d inst v < ageOf s d inst o)) then some o else w) none

/-- The AGE of a loser rises until its level is 15. -/
def raiseAge (s : State) (d inst o : Nat) : State :=
  if levelOf s d inst o < 15 then { s with arbAge := mset 0 s.arbAge (okey d inst o) (ageOf s d inst o + 1) } else s

/-- The AGE of a winner, or of a requester that withdrew, begins again. -/
def resetAge (s : State) (d inst o : Nat) : State := { s with arbAge := mset 0 s.arbAge (okey d inst o) 0 }

/-! ## Threads that wait for an issue slot (R216, R225) -/

/-- The requester of a thread's instruction starts: its group, or code 0x16 for the supervisor (R335). -/
def issueOwner (t : Nat) (th : Thread) : Nat := if t = 0 then 0x16 else th.group

/-- A start of the thread is booked in this CQ cycle or later (R224); after its first EMIT it has none. -/
def bookedStart (s : State) (d : Nat) (p : Nat × Thread) : Bool :=
  !p.2.sent && s.issues.any fun i => i.die == d && i.thread == p.1 && decide (cq s ≤ i.cyc)

/-- READY, and its last instruction has ended (R199). -/
def isReady (s : State) (th : Thread) : Bool := th.st == .ready && decide (th.readyAt ≤ s.cyc)

/-- The READY threads of a die without a booking: requester, cycle since which it is READY, thread. -/
def waiting (s : State) (d : Nat) : List (Nat × Nat × Nat) :=
  ((threadsOf s d).filter fun p => isReady s p.2 && !bookedStart s d p).map fun p => (issueOwner p.1 p.2, p.2.readyAt, p.1)

/-- The oldest waiting thread of a requester: the one READY longest, among equals the lowest (DESIGN CHOICE, log 94). -/
def oldestOf (ws : List (Nat × Nat × Nat)) (o : Nat) : Option Nat :=
  ((ws.filter fun q => q.1 == o).foldl (fun m q => match m with
    | none => some q
    | some b => if q.2.1 < b.2.1 || (q.2.1 == b.2.1 && decide (q.2.2 < b.2.2)) then some q else m) none).map fun q => q.2.2

/-! ## Issue lanes (R223, R225) -/

/-- The group that owns lane `k` of a CQ cycle. -/
def laneOwner (s : State) (d n k : Nat) : Option Nat :=
  let i := n % 4 * 16 + k
  if isF s d (THR_SLOT.RES i) then some (getF s d (THR_SLOT.GROUP i)) else none

/-- A lane starts an instruction of the thread. -/
def giveStart (s : State) (d t : Nat) : State := { s with starts := s.starts ++ [(d, t, cq s)] }

/-- The waiting threads without one of them. -/
def without (ws : List (Nat × Nat × Nat)) (t : Nat) : List (Nat × Nat × Nat) := ws.filter fun q => q.2.2 != t

/-- A contest for a lane (R225, R337) among the requesters that have a waiting thread. -/
def contestLane (s : State) (d : Nat) (ws : List (Nat × Nat × Nat)) : State × List (Nat × Nat × Nat) :=
  let os := (ws.map fun q => q.1).eraseDups
  match contestWinner s d 4 os with
  | none => (s, ws)
  | some o =>
    let s := (os.filter fun x => x != o).foldl (fun s x => raiseAge s d 4 x) (resetAge s d 4 o)
    match oldestOf ws o with
    | some t => (giveStart s d t, without ws t)
    | none => (s, ws)

/-- Settle one lane: a booked slot goes to its booking, a reserved one to its owner's oldest waiting thread, any other to a
contest. `bs` are the groups of the bookings of this CQ cycle that have no lane yet. -/
def settleLane (d : Nat) (x : State × List (Nat × Nat × Nat) × List Nat) (k : Nat) : State × List (Nat × Nat × Nat) × List Nat :=
  let (s, ws, bs) := x
  let open_ := let r := contestLane s d ws; (r.1, r.2, bs)
  match laneOwner s d (cq s) k with
  | none => open_
  | some g =>
    if bs.contains g then (s, ws, bs.erase g)
    else match oldestOf ws g with
      | some t => (giveStart s d t, without ws t, bs)
      | none => open_

/-- The bookings of a die in this CQ cycle. -/
def bookedNow (s : State) (d : Nat) : List Issue := s.issues.filter fun i => i.die == d && i.cyc == cq s

/-- The booked threads that are READY start (R224). -/
def bookedStarts (s : State) (d : Nat) : State :=
  ((bookedNow s d).filter fun i => isReady s (getT s d i.thread) && !(getT s d i.thread).sent).foldl (fun s i => giveStart s d i.thread) s

/-- A requester without a waiting thread has its AGE set to 0 (R337). -/
def withdraw (s : State) (d : Nat) (ws : List (Nat × Nat × Nat)) : State :=
  ((List.range 0x17).filter fun o => ageOf s d 4 o != 0 && !ws.any fun q => q.1 == o).foldl (fun s o => resetAge s d 4 o) s

/-- Settle the 16 lanes of this CQ cycle, once: the threads that start in it stand in `starts`. -/
def settleIssue (s : State) (d : Nat) : State :=
  if mget 0 s.lanes d = cq s + 1 then s
  else
    let ws := waiting s d
    let s := { s with lanes := mset 0 s.lanes d (cq s + 1), starts := s.starts.filter fun x => x.1 != d }
    ((List.range 16).foldl (settleLane d) (withdraw (bookedStarts s d) d ws, ws, (bookedNow s d).map fun i => i.group)).1

end Sys2Proof.Machine
end

