-- ==== Sys2Proof/Machine/Operands.lean ====
section
/-!
DEFINITION. Operand forms: the instruction word (R175), slice addresses and the speculation area (R183, R203),
command entries and completions (R139, R142), responses (R320), notices (R269); and the operations of the
sequencer that several commands share: responses, faults, ends and successors (R177, R197, R198, R208, R221, R227).
-/

namespace Sys2Proof.Machine

/-! ## The instruction word (R175) -/

/-- Opcode. -/
def insOp (w : W64) : Nat := fld w.toNat 58 6
/-- Condition select (R177). -/
def insCond (w : W64) : Nat := fld w.toNat 56 2
/-- Next address when the condition is true. -/
def insT (w : W64) : Nat := fld w.toNat 42 14
/-- Next address when the condition is false. -/
def insF (w : W64) : Nat := fld w.toNat 28 14
/-- Operand bits from `lo`, `n` of them. -/
def opnd (w : W64) (lo n : Nat) : Nat := fld w.toNat lo n

/-! ## The slice -/

/-- The slice as the thread's instructions see it: the speculation area stands for 0x080 to 0x1BF (R203). -/
def sliceView (th : Thread) : BitVec 4096 :=
  if th.spec then setBE th.slice 1024 2560 th.specArea.toNat else th.slice

/-- Write back a view: while speculating, bytes 0x080 to 0x1BF go to the speculation area. -/
def putView (th : Thread) (v : BitVec 4096) : Thread :=
  if th.spec then
    { th with specArea := BitVec.ofNat 2560 (getBE v 1024 2560)
              slice := setBE v 1024 2560 (getBE th.slice 1024 2560) }
  else { th with slice := v }

/-- The word of 64 bits of the slice, or of the speculation area from 64 on, that slice word `i` is read from (R203, R215). -/
def wordAlias (th : Thread) (i : Nat) : Nat := if th.spec && 16 ≤ i && i < 56 then 64 + (i - 16) else i

/-- Words that a write of slice bits `a` to `a + n - 1` fills from end to end: their check bits are right again (R215). -/
def wholeWords (th : Thread) (a n : Nat) : List Nat :=
  ((List.range 64).filter fun i => decide (a ≤ i * 64 ∧ i * 64 + 64 ≤ a + n)).map (wordAlias th)

/-- Clear the bits of a list of words. -/
def dropBits (m : Nat) (l : List Nat) : Nat := l.foldl (fun m i => if m.testBit i then m - 2 ^ i else m) m

/-- Write a field of `n` bits at slice bit address `a`. -/
def putSlice (th : Thread) (a n x : Nat) : Thread :=
  let th := putView th (setBE (sliceView th) a n x)
  if th.unc = 0 && th.cor = 0 then th
  else { th with unc := dropBits th.unc (wholeWords th a n), cor := dropBits th.cor (wholeWords th a n) }

/-- Read a field of `n` bits at slice bit address `a`. -/
def readSlice (th : Thread) (a n : Nat) : Nat := getBE (sliceView th) a n

/-- Bit address of a result record. -/
def recBit (r : Nat) : Nat := 2048 + 256 * r

/-- A result record of the thread. -/
def recOf (th : Thread) (r : Nat) : BitVec 256 := BitVec.ofNat 256 (readSlice th (recBit r) 256)

/-- Write a result record. -/
def putRec (th : Thread) (r : Nat) (x : BitVec 256) : Thread := putSlice th (recBit r) 256 x.toNat

/-- Set a record's PEND (R214). -/
def setPend (th : Thread) (r : Nat) : Thread := putSlice th (recBit r + 11) 1 1

/-- A record's PEND. -/
def pendOf (th : Thread) (r : Nat) : Bool := readSlice th (recBit r + 11) 1 == 1

/-- The key at offset 0x080, left-aligned, cut to its width code (R184). -/
def keyOf (th : Thread) (width : Nat) : Key :=
  BitVec.ofNat 640 (readSlice th 1024 (widthBits width) * 2 ^ (640 - widthBits width))

/-- Words of 64 bits that hold bytes `a` to `a + n - 1`; while speculating those of the area count from 64 (R215). -/
def wordsOf (th : Thread) (a n : Nat) : List Nat :=
  ((List.range 64).filter fun i => decide (i * 8 < a + n ∧ a < i * 8 + 8)).map (wordAlias th)

/-- A read of bytes meets an uncorrectable word. -/
def readUnc (th : Thread) (a n : Nat) : Bool := (wordsOf th a n).any fun i => th.unc.testBit i

/-- A read of bytes meets a corrected word. -/
def readCor (th : Thread) (a n : Nat) : Bool := (wordsOf th a n).any fun i => th.cor.testBit i

/-- Bit ranges of a record that stay pending under a prediction: every field but the match fields (R202). -/
def pendingFields : List (Nat × Nat) := [(5, 12), (13, 15), (16, 32), (80, 128)]

/-- The predicted search writes two records (BEST2). -/
def specTwo (th : Thread) : Bool := opnd th.specWord 18 2 == 2

/-- Slice bits `a` to `a + n - 1` touch a pending field of the predicted record, or the record after it, which is pending as a
whole (R202, R214). -/
def touchesPending (th : Thread) (a n : Nat) : Bool :=
  th.spec &&
  ((pendingFields.any fun q => decide (recBit th.specRec + q.1 < a + n ∧ a < recBit th.specRec + q.2)) ||
   (specTwo th && decide (recBit (th.specRec + 1) < a + n ∧ a < recBit (th.specRec + 1) + 256)))

/-- The record is the predicted one or the one after it that the same search writes. -/
def specNames (th : Thread) (r : Nat) : Bool := r == th.specRec || (specTwo th && r == th.specRec + 1)

/-! ## Command entries (R139) and completions (R142) -/

/-- A 32-bit word of an entry by byte offset. -/
def ceWord (e : BitVec 512) (o : Nat) : Nat := wordLE e o
/-- Opcode. -/
def ceOp (e : BitVec 512) : Nat := fld (ceWord e 0) 24 8
def cePart (e : BitVec 512) : Nat := fld (ceWord e 0) 16 8
def ceFence (e : BitVec 512) : Bool := (ceWord e 0).testBit 15
def ceH (e : BitVec 512) : Nat := fld (ceWord e 0) 14 1
def ceDir (e : BitVec 512) : Nat := fld (ceWord e 0) 13 1
def ceState (e : BitVec 512) : Nat := fld (ceWord e 0) 11 2
def ceGen (e : BitVec 512) : Nat := fld (ceWord e 0) 11 1
def ceWidth (e : BitVec 512) : Nat := fld (ceWord e 0) 8 3
def ceSrc (e : BitVec 512) : Nat := fld (ceWord e 0) 6 2
def ceGra (e : BitVec 512) : Nat := fld (ceWord e 4) 0 25
def ceGra2 (e : BitVec 512) : Nat := fld (ceWord e 8) 0 25
def cePrio (e : BitVec 512) : Nat := fld (ceWord e 12) 16 16
def ceTag (e : BitVec 512) : Nat := fld (ceWord e 12) 0 16
def ceAd (e : BitVec 512) : Nat := ceWord e 16 * 2 ^ 32 + ceWord e 20
/-- VALUE and MASK: most significant word first. -/
def ceValue (e : BitVec 512) : Nat := ((List.range 5).map fun i => ceWord e (0x18 + 4 * i)).foldl (fun a w => a * 2 ^ 32 + w) 0
def ceMask (e : BitVec 512) : Nat := ((List.range 5).map fun i => ceWord e (0x2C + 4 * i)).foldl (fun a w => a * 2 ^ 32 + w) 0
/-- Reserved bits of the entry are zero. -/
def ceReserved (e : BitVec 512) : Bool :=
  fld (ceWord e 0) 0 6 == 0 && fld (ceWord e 4) 25 7 == 0 && fld (ceWord e 8) 25 7 == 0

/-- The four words of a completion. -/
def cplWords (status op tag gra moved cause aux : Nat) : Nat × Nat × Nat × Nat :=
  (status % 256 * 2 ^ 24 + op % 256 * 2 ^ 16 + tag % 2 ^ 16, gra % 2 ^ 25,
   moved % 2 ^ 16 * 2 ^ 16 + cause % 256 * 256, aux % 2 ^ 32)

/-- A completion in a record: 16 bytes, little-endian words, then zero (R213). -/
def cplRec (w0 w1 w2 w3 : Nat) : BitVec 256 :=
  BitVec.ofNat 256 ((((swap32 w0 * 2 ^ 32 + swap32 w1) * 2 ^ 32 + swap32 w2) * 2 ^ 32 + swap32 w3) * 2 ^ 128)

/-! ## Responses (R320) -/

/-- Word 0 of a response or of its second record. -/
def respW0 (status tag : Nat) (r : Rec) (ts two wr : Bool) : Nat :=
  status % 16 * 2 ^ 60 + tag % 2 ^ 16 * 2 ^ 44 + b2n r.hit * 2 ^ 43 + b2n r.tie * 2 ^ 42 + b2n r.vfy * 2 ^ 41 +
  b2n r.sat * 2 ^ 40 + b2n r.spec * 2 ^ 39 + r.tier % 4 * 2 ^ 37 + r.h % 2 * 2 ^ 36 + b2n ts * 2 ^ 35 +
  b2n two * 2 ^ 34 + b2n wr * 2 ^ 33 + r.count % 2 ^ 16 * 2 ^ 16 + r.sflags % 2 ^ 16

/-- Word 1. -/
def respW1 (r : Rec) : Nat := r.gra % 2 ^ 25 * 2 ^ 39 + r.prio % 2 ^ 16 * 2 ^ 16

/-- Words 0 to 2, and 3 to 5 when a second record is carried. -/
def respCore (x : Resp) (tag : Nat) (ts two : Bool) : List Nat :=
  match x.wr with
  | some (w1, w2) => [respW0 0 tag {} ts false true, w1, w2]
  | none =>
    let r := decRec x.rec1
    [respW0 x.status tag r ts two false, respW1 r, r.ad % 2 ^ 64] ++
    (match x.rec2 with
     | some y => if two then
         let q := decRec y
         [respW0 0 tag q false false false, respW1 q, q.ad % 2 ^ 64] else []
     | none => [])

/-- The three timestamp words from two times in the format of R190. -/
def respTime (arr dep : Nat) : List Nat :=
  [arr / 2 ^ 32 % 2 ^ 64, arr % 2 ^ 32 * 2 ^ 32 + dep / 2 ^ 64 % 2 ^ 32, dep % 2 ^ 64]

/-- A response with a status alone. -/
def respStatus (status : Nat) : Resp := { status := status, rec1 := 0, rec2 := none, wr := none, deferred := false }

/-! ## Notices (R269, R270) -/

/-- The 96 bytes of a notice. -/
def noticeData (status : Nat) (two dev : Bool) (chan tag nseq recipe : Nat) (r1 r2 : BitVec 256) (time : Nat) : BitVec 768 :=
  let w0 := status % 16 * 2 ^ 28 + b2n two * 2 ^ 27 + b2n dev * 2 ^ 26 + chan % 64 * 2 ^ 16 + tag % 2 ^ 16
  BitVec.ofNat 768
    (((((((swap32 w0 * 2 ^ 32 + swap32 nseq) * 2 ^ 32 + swap32 (recipe % 256 * 2 ^ 24)) * 2 ^ 32) * 2 ^ 256 + r1.toNat) * 2 ^ 256 +
      (if two then r2.toNat else 0)) * 2 ^ 96 + time % 2 ^ 96) * 2 ^ 32)

/-- Form a notice; it waits until NOTICE_WRITE finds room in the channel's event queue. -/
def pushNotice (s : State) (d chan tag recipe status : Nat) (two dev : Bool) (r1 r2 : BitVec 256) (thread : Option Nat) : State :=
  let n := mget 0 s.nseq chan + 1
  let time := if s.part.unitT then capture s d s.cyc none else 0
  { s with
    nseq := mset 0 s.nseq chan (n % 2 ^ 32)
    notices := s.notices ++ [{ chan := chan, data := noticeData status two dev chan tag n recipe r1 r2 time, die := d, thread := thread }] }

/-! ## Forming a thread's answer -/

/-- Count a RECIPE_ERROR and its cause (R208). -/
def rerr (s : State) (d cause entry : Nat) : State :=
  let s := bumpSat s d SEQ_RERR.COUNT
  let s := setF s d SEQ_RERR.LAST cause
  raiseErr s d pgSeq SEQ_ERR.RECIPE_ERR (it2 entry cause)

/-- Bytes of response words for a golden digest (R458): SPEC cleared. -/
def goldenBytes (x : Resp) (tag : Nat) : List Nat :=
  let y := { x with rec1 := BitVec.ofNat 256 (setFld x.rec1.toNat (256 - 1 - 8) 1 0),
                    rec2 := x.rec2.map fun v => BitVec.ofNat 256 (setFld v.toNat (256 - 1 - 8) 1 0) }
  (respCore y tag false y.rec2.isSome).flatMap (bytesBE 8)

/-- Form the response of a thread (R196): it leaves through RESPONSE_DEPARTURE, or enters the golden digest. -/
def formResp (s : State) (d t : Nat) (x : Resp) : State :=
  let th := getT s d t
  let s := setT s d t { th with sent := true, respBits := some (BitVec.ofNat 256 (setFld x.rec1.toNat 252 4 x.status)) }
  if th.golden then
    { s with golden := s.golden.map fun g => { g with resBytes := g.resBytes ++ goldenBytes x (hdrTag th.hdr) } }
  else match th.req with
    | some id => modReq s id fun r => { r with resp := some x, readyAt := s.cyc, bounded := th.bounded }
    | none => s

/-- The device answers a thread that will not answer itself (R198, R208, R270): in its place in the channel's order
while unanswered, by a notice with DEV = 1 once deferred, and with nothing after that. -/
def deviceAnswer (s : State) (d t status : Nat) : State :=
  let th := getT s d t
  if th.child || t = 0 then s
  else if th.deferred then
    let s := setT s d t { th with deferred := false, sent := true }
    pushNotice s d th.chan (hdrTag th.hdr) (hdrRecipe th.hdr) status false true 0 0 none
  else if th.sent then s
  else formResp s d t (respStatus status)

/-! ## Freeing and ending threads -/

/-- What a thread leaves behind when it stops: launches still booked for it fall back to their slots' owners (R342), results to
come are discarded, its places in waiting lists and its staging slot are given up (R222), and its open linked sequence
closes (R195). -/
def dropWork (s : State) (d t : Nat) : State :=
  let mine := fun (x y : Nat) => x == d && y == t
  { s with
    books := s.books.filter fun b => !mine b.home b.thread
    issues := updWhere (fun i => mine i.die i.thread) (fun i => { i with thread := 512 }) s.issues
    searches := updWhere (fun x => mine x.home x.thread) (fun x => { x with thread := 512 }) s.searches
    steps := updWhere (fun x => mine x.die x.thread) (fun x => { x with thread := 512, squashed := true }) s.steps
    fetches := updWhere (fun x => mine x.die x.thread) (fun x => { x with thread := 512 }) s.fetches
    cmds := updWhere (fun c => c.linked && c.origin == .commit d t) (fun c => { c with linked := false, cut := true }) s.cmds
    forkWait := mmod [] s.forkWait d fun l => l.filter (· != t)
    evch := (List.range 32).foldl (fun m c =>
      mmod EvChan.zero m (d * 32 + c) fun e =>
        { e with senders := e.senders.filter (· != t), waiters := e.waiters.filter (· != t),
                 staged := if e.holder == some t then [] else e.staged,
                 holder := if e.holder == some t then none else e.holder }) s.evch }

/-- A message became visible or was taken, or nothing waits on an event channel any more: the detector's window starts again
(R231, R232). -/
def restartWindow (s : State) (d : Nat) : State := { s with quiesce := mdel s.quiesce d }

/-- With no thread in WAIT_EVENT the event set is empty, and the window starts again (R231). -/
def quiet (s : State) (d : Nat) : State := if (threadsOf s d).any fun p => p.2.st == .waitEvent then s else restartWindow s d

/-- A thread becomes FREE; its slice is not cleared (R212). -/
def freeT (s : State) (d t : Nat) : State :=
  let th := getT s d t
  quiet (setT (dropWork s d t) d t { Thread.zero with slice := th.slice, lastPc := th.pc, unc := th.unc, cor := th.cor }) d

/-- READY again from now on, in place or to be resumed (R217); a locked sequence of its instruction has ended (R340). -/
def again (cyc : Nat) (th : Thread) : Thread :=
  let th := { th with wait := .idle, lock := false, readyAt := max th.readyAt cyc }
  if th.st == .halted then { th with rem := .ready } else { th with st := .ready }

/-- Halt in place when STEP asked for it, otherwise READY, or READY to be resumed (R217, R233). -/
def settle (cyc : Nat) (th : Thread) : Thread :=
  let th := again cyc th
  if th.step1 then { th with st := .halted, rem := .ready, step1 := false, haltAt := cyc } else th

/-- The condition that COND selects (R177). -/
def condTrue (th : Thread) (ok : Bool) : Bool :=
  match insCond th.word with
  | 0 => true
  | 1 => ok
  | 2 => (decRec (recOf th th.crec)).hit
  | _ => (decRec (recOf th th.crec)).tie

/-- The condition reads a record whose word has an uncorrectable error (R177, R215). -/
def condUnc (th : Thread) : Bool := decide (2 ≤ insCond th.word) && readUnc th (0x100 + 32 * th.crec) 1

/-! ### Faults of top-level threads -/

/-- A live child of a stopping parent: it ends at once when it stands between instructions, else when its
instruction ends (R221). -/
def orphanKid (s : State) (d t : Nat) : State :=
  let th := getT s d t
  if th.st == .ready || th.wait == .resolve || (th.st == .halted && th.rem == .ready) then
    freeT (bumpSat s d THR_FAULT_CNT.ORPHANS) d t
  else setT s d t { th with orphan := true }

/-- The children of a stopping parent. -/
def orphanKids (s : State) (d t : Nat) : State :=
  let s := ((getT s d t).kids.filter fun k => !k.ended).foldl (fun s k => orphanKid s d k.thread) s
  modT s d t fun th => { th with kids := updWhere (fun k => (getT s d k.thread).st == .free) (fun k => { k with ended := true }) th.kids }

/-- The four words of a thread's fault notice (R227). -/
def noticeWords (s : State) (t cause code : Nat) (th : Thread) : Nat × Nat × Nat × Nat :=
  (cause % 256 * 2 ^ 24 + code % 256 * 2 ^ 16 + th.pc % 2 ^ 14,
   b2n th.child * 2 ^ 31 + t % 512 * 2 ^ 22 + th.chan % 64 * 2 ^ 16 + hdrTag th.hdr % 2 ^ 16,
   hdrRecipe th.hdr % 256 * 2 ^ 24 + (if th.child then th.parent % 512 * 2 ^ 15 else 0),
   cq s % 2 ^ 32)

/-- A FAULTED thread whose children have ended is freed unless it is held for inspection (R227). -/
def releaseFaulted (s : State) (d t : Nat) : State :=
  if ((getT s d t).kids.all fun k => k.ended) && !isF s d THR_CTL.FAULT_HOLD then freeT s d t else s

/-- What a fault does to the thread itself (R198, R227): its notice, its answer, its children, its state. -/
def enterFaulted (s : State) (d t cause code : Nat) : State :=
  let (w0, w1, w2, w3) := noticeWords s t cause code (getT s d t)
  let s := (postNotice (bumpSat s d THR_FAULT_CNT.FAULTS) d w0 w1 w2 w3).1
  let s := deviceAnswer s d t 10
  let s := orphanKids (dropWork s d t) d t
  quiet (modT s d t fun th =>
    { th with st := .faulted, wait := .idle, spec := false, held := none, link := 0, lock := false, step1 := false, sendLost := false }) d

/-- A top-level thread faults. A fault of the supervisor queues no notice and interrupts the host (R229). -/
def faultTop (s : State) (d t cause code : Nat) : State :=
  if t = 0 then
    freeT (raiseHost (bumpSat s d THR_FAULT_CNT.FAULTS) d pgThr THR_ERR.SUP_FAULT (it1 (noticeWords s t cause code (getT s d t)).1)) d t
  else releaseFaulted (enterFaulted s d t cause code) d t

/-- An uncorrectable slice word, with the address it was read at (R215). -/
def sliceUnc (s : State) (d t a : Nat) : State := raiseErr s d pgThr THR_ERR.SLICE_UNC (it2 t a)

/-! ### Ends -/

/-- Go on at the successor that the condition chooses. -/
def goOn (s : State) (d t : Nat) (ok : Bool) : State :=
  modT s d t fun th => settle s.cyc { th with pc := if condTrue th ok then insT th.word else insF th.word }

/-- A top-level thread's instruction has finished: go on at its successor. -/
def finishTop (s : State) (d t : Nat) (ok : Bool) : State :=
  let th := getT s d t
  if condUnc th then faultTop (sliceUnc s d t (0x100 + 32 * th.crec)) d t 7 0 else goOn s d t ok

/-- A top-level thread ends (R197): unanswered, it is answered with RECIPE_ERROR; a supervisor run that a BLOCK_ERR
notice started ends the handling of its page (R517). -/
def endTop (s : State) (d t : Nat) : State :=
  let th := getT s d t
  let s := if t != 0 && (!th.sent || th.deferred) then
      deviceAnswer (rerr s d 5 (hdrRecipe th.hdr)) d t 9
    else s
  let s := freeT s d t
  match th.supPage with
  | some pg => endHandling s d pg
  | none => s

/-- Children of a mask; 0 names every live child (R193). -/
def covered (mask : Nat) (k : Kid) : Bool := mask == 0 || mask.testBit k.idx

/-- What an ended child lets its parent do: end its JOIN, end, or be released from FAULTED (R193, R197, R227). -/
def parentCheck (s : State) (d p : Nat) : State :=
  let th := getT s d p
  if th.st == .faulted then releaseFaulted s d p
  else match th.wait with
    | .join mask rec =>
      let ks := th.kids.filter (covered mask)
      if ks.all fun k => k.ended then
        let s := setT s d p { th with kids := th.kids.filter fun k => !covered mask k, crec := rec }
        finishTop s d p (ks.all fun k => !k.faulted)
      else s
    | .kids => if (th.kids.all fun k => k.ended) && th.st != .halted then endTop s d p else s
    | _ => s

/-- A child is over for its parent (R221, R227). -/
def kidOver (s : State) (d p t : Nat) (faulted : Bool) : State :=
  let f : Kid → Kid := fun k => { k with ended := true, faulted := k.faulted || faulted }
  let s := modT s d p fun th => { th with kids := updWhere (fun k => k.thread == t && !k.ended) f th.kids }
  parentCheck s d p

/-- A child ends and becomes FREE. -/
def childEnd (s : State) (d t : Nat) (faulted : Bool) : State :=
  let p := (getT s d t).parent
  kidOver (freeT s d t) d p t faulted

/-- A thread faults (R198, R227, R229). -/
def faultThread (s : State) (d t cause code : Nat) : State :=
  let th := getT s d t
  if th.child then
    let u := enterFaulted s d t cause code
    if isF s d THR_CTL.FAULT_HOLD then kidOver u d th.parent t true else childEnd u d t true
  else faultTop s d t cause code

/-- The thread's instruction waits until its speculation is resolved, and then runs again (R203, R204). -/
def waitResolve (s : State) (d t : Nat) : State :=
  modT s d t fun th => { th with st := .waitSearch, wait := .resolve, steps := th.steps - 1 }

/-- The thread's own instruction makes it fault, in state `u` with the error recorded; while it speculates the instruction
waits instead, since nothing outside the thread changes before it is confirmed (R204). -/
def faultErr (s u : State) (d t cause code : Nat) : State :=
  if (getT s d t).spec then waitResolve s d t else faultThread u d t cause code

/-- The thread's own instruction makes it fault, with no error to record beside the fault. -/
def faultIns (s : State) (d t cause code : Nat) : State := faultErr s s d t cause code

/-- A thread's instruction has finished; a child whose parent faulted ends here (R221). -/
def finish (s : State) (d t : Nat) (ok : Bool) : State :=
  let th := getT s d t
  if th.child && th.orphan then childEnd (bumpSat s d THR_FAULT_CNT.ORPHANS) d t false
  else if condUnc th then faultErr s (sliceUnc s d t (0x100 + 32 * th.crec)) d t 7 0
  else goOn s d t ok

/-- A request ends with RECIPE_ERROR in the middle of its recipe (R208): no further instruction and no notice. A child, and a
request answered before, end without a RECIPE_ERROR of the request. -/
def recipeError (s : State) (d t cause : Nat) : State :=
  let th := getT s d t
  let s := if th.child || (th.sent && !th.deferred) then s else rerr s d cause (hdrRecipe th.hdr)
  let s := deviceAnswer s d t 9
  let s := orphanKids (dropWork s d t) d t
  if th.child then childEnd s d t true
  else
    let s := modT s d t fun th =>
      { th with st := .waitJoin, wait := .kids, sent := true, deferred := false, link := 0, spec := false, held := none }
    parentCheck s d t

/-- The instruction names a partition with VALID = 0 (R208, cause 0x03); while the thread speculates it waits (R204). -/
def badPart (s : State) (d t : Nat) : State := if (getT s d t).spec then waitResolve s d t else recipeError s d t 3

/-! ## Starting an instruction -/

/-- Largest number of instructions a thread may run (R181, R209). -/
def stepMax (s : State) (d : Nat) : Nat :=
  let n := getF s d SEQ_CTL.STEP_MAX
  if n = 0 then 65536 else n

/-- The instruction waits until the thread's speculation is resolved (R203, R204, R214). -/
def needsResolve (th : Thread) (w : W64) : Bool :=
  th.spec &&
  (([6, 8, 9, 10, 11, 12, 13, 14, 15, 16].contains (insOp w)) ||
   (insCond w == 3 && th.crec == th.specRec && !([4, 5].contains (insOp w))) ||
   ((insOp w == 4 || insOp w == 5) && (specNames th (opnd w 15 3) || (insOp w == 4 && opnd w 18 2 == 2 && specNames th (opnd w 15 3 + 1)))) ||
   (insOp w == 1 && (if opnd w 27 1 = 0 then touchesPending th (opnd w 15 12) (opnd w 0 5 + 1)
      else touchesPending th (8 * opnd w 18 9) (8 * (opnd w 3 6 + 1)))))

/-- The recipe word at an address of a die. -/
def recipeWord (s : State) (d a : Nat) : RWord := mget ⟨0, 0⟩ s.recipe (d * 16384 + a % 16384)

/-- A recipe word as fetched, checked (R172). -/
def recipeFetch (s : State) (d a : Nat) : Ecc :=
  let w := recipeWord s d a
  secDecode 64 7 w.data.toNat w.chk.toNat

/-- Count an instruction start (R209): 48 bits. -/
def countInstr (s : State) (d : Nat) : State :=
  let n := getF s d SEQ_INSTR_HI.INSTR * 2 ^ 32 + getF s d SEQ_INSTR_LO.INSTR + 1
  setF (setF s d SEQ_INSTR_LO.INSTR n) d SEQ_INSTR_HI.INSTR (n / 2 ^ 32)

/-- The thread can start an instruction: it exists, is READY, and its die runs. -/
def canRun (s : State) (d t : Nat) : Bool :=
  decide (d < s.part.dieCnt) && decide (t < 384) && !gone s d && !s.fencedDev && !s.inReset && isReady s (getT s d t)

/-- The thread holds a lock, or an open linked sequence, and so may not wait (R226). -/
def mayNotWait (th : Thread) : Bool := th.lock || decide (0 < th.link)

/-- CS cycles of an instruction (R199). -/
def insCost (op : Nat) : Nat := if op = 14 then 8 else 4

/-- The error of the thread's context words that its instruction meets (R215). -/
def ctxUnc (th : Thread) : Bool := th.unc.testBit 104
def ctxCor (th : Thread) : Bool := th.cor.testBit 104

/-- An instruction of the thread starts with the word `w`: a wait for resolution (R204), the step limit (R181) and an
error in the context (R215) come before the body. -/
def startIns (s : State) (d t : Nat) (w : W64) (corr : Bool) (body : State → Thread → W64 → State) : State :=
  let th := getT s d t
  if needsResolve th w then (if mayNotWait th then faultThread s d t 6 0 else setT s d t { th with st := .waitSearch, wait := .resolve })
  else
    let s := if corr then raiseErr s d pgSeq SEQ_ERR.STORE_CORR (it1 th.pc) else s
    let s := if ctxCor th then raiseErr s d pgThr THR_ERR.SLICE_CORR (it2 t 0) else s
    let s := countInstr s d
    let th := { th with st := .run, steps := th.steps + 1, word := w, lastPc := th.pc, readyAt := s.cyc + insCost (insOp w) }
    let s := setT s d t th
    if ctxUnc th then faultErr s (raiseErr s d pgThr THR_ERR.SLICE_UNC (it2 t 0)) d t 7 0
    else if stepMax s d < th.steps then faultErr s (raiseErr s d pgSeq SEQ_ERR.STEP (it1 th.pc)) d t 2 0
    else body s th w

/-- The issue slot of the thread in this CQ cycle is used. -/
def useStart (s : State) (d t : Nat) : State := { s with starts := s.starts.filter fun x => x != (d, t, cq s) }

/-- Run one instruction in an issue slot of this CQ cycle (R180, R217, R223): the thread's next word is fetched, must hold the
opcode, and the body acts; a word that cannot be read faults the thread (R172). Nothing happens when the thread's next
instruction is another one; without a slot the thread stays READY. -/
def runIns (s : State) (d t op : Nat) (body : State → Thread → W64 → State) : State :=
  if canRun s d t then
    let e := recipeFetch s d (getT s d t).pc
    if e.data?.all fun v => insOp (BitVec.ofNat 64 v) == op then
      let u := settleIssue s d
      if u.starts.contains (d, t, cq u) then
        let u := useStart u d t
        match e.data? with
        | none => faultErr u (raiseErr u d pgSeq SEQ_ERR.STORE_UNC (it1 (getT s d t).pc)) d t 3 0
        | some v => startIns u d t (BitVec.ofNat 64 v) e.isCorr body
      else u
    else s
  else s

/-- The thread reads slice bytes: an uncorrectable word faults it, a corrected one is recorded (R215). -/
def reading (s : State) (d t : Nat) (th : Thread) (a n : Nat) (k : State → State) : State :=
  if readUnc th a n then faultErr s (sliceUnc s d t a) d t 7 0
  else k (if readCor th a n then raiseErr s d pgThr THR_ERR.SLICE_CORR (it2 t a) else s)

/-- The record is reserved to a child (R192). -/
def reserved (th : Thread) (r : Nat) : Bool := th.kids.any fun k => k.rrec == r

/-! ## Sending a command to an update engine (R136) -/

/-- The die that runs a command: the die of its GRA, the even die of a pair or its survivor, the lead die for GEN_FLIP,
for the start of a GEN_CLEAR, whose port operations then take place on every die, and for an absent die, whose command
is rejected. SPARE names its shelf in GRA2. -/
def runDie (s : State) (e : BitVec 512) : Nat :=
  if ceOp e = 6 ∨ ceOp e = 7 then 0
  else
    let d := if ceOp e = 0xB then graDie (ceGra2 e) else graDie (ceGra e)
    if s.part.dieCnt ≤ d then 0
    else if avail s then serving s (d / 2 * 2) else d

/-- A command entry that a source of die `from_` sends to the engine of `die`. -/
def newCmd (s : State) (die from_ src : Nat) (o : Origin) (e : BitVec 512) (arrived linked : Bool) : UCmd :=
  { id := s.nextId, die := die, src := src, origin := o, entry := e, conts := [], expect := 0, arrived := arrived,
    acc := none, after := [], plan := [], pairAt := none, pairWait := false, lastOp := 0, status := none, gra := ceGra e,
    moved := 0, cause := 0, aux := 0, target := none, linked := linked, cut := false, from_ := from_, planned := false, begun := false,
    returning := false }

/-- Hand a command to the engine that runs it: from another die it crosses the ring in two cells (MGMT_UPDATE_COMMAND):
the body is the entry and then the source code (DESIGN CHOICE, log 91). -/
def sendCmd (s : State) (from_ src : Nat) (o : Origin) (e : BitVec 512) (linked : Bool) : State :=
  let d := runDie s e
  let s := if d = from_ then s else queueMgmt s from_ d 4 s.nextId 2 ((e.toNat * 256 + src % 256) * 2 ^ 70)
  { s with cmds := s.cmds ++ [newCmd s d from_ src o e (d == from_) linked], nextId := s.nextId + 1 }

end Sys2Proof.Machine
end

