-- ==== Sys2Proof/Machine/StoreOps.lean ====
section
/-!
DEFINITION. Shared operations of the store room and its bucket cache: buckets and slots (R240 to R243), regions
(R187, R247), memory contents (R520), lookups, forwarding and victims (R282, R290, R292, R293), and the issue and
the record of a store-room step (R248 to R250).
-/

namespace Sys2Proof.Machine

/-! ## Buckets (R240 to R243) -/

/-- A slot's key, ad-word, flags and header share. -/
def slotKey (b : BitVec 1024) (s : Nat) : Nat := getBE b (256 * s) 160
def slotAd (b : BitVec 1024) (s : Nat) : Nat := getBE b (256 * s + 160) 64
def slotFlags (b : BitVec 1024) (s : Nat) : Nat := getBE b (256 * s + 224) 16
def slotShare (b : BitVec 1024) (s : Nat) : Nat := getBE b (256 * s + 240) 16

/-- The bucket header. -/
def bucketHdr (b : BitVec 1024) : Nat := (List.range 4).foldl (fun a s => a * 2 ^ 16 + slotShare b s) 0

/-- The bucket with its whole header replaced. -/
def withHdr (b : BitVec 1024) (h : Nat) : BitVec 1024 :=
  (List.range 4).foldl (fun b s => setBE b (256 * s + 240) 16 (fld h (48 - 16 * s) 16)) b

/-- RGN of a header. -/
def hdrRgn (h : Nat) : Nat := fld h 8 8
/-- VERSION of a header. -/
def hdrVersion (h : Nat) : Nat := fld h 16 48
/-- A header. -/
def mkHdr (version rgn : Nat) : Nat := version % 2 ^ 48 * 2 ^ 16 + rgn % 256 * 256

/-- A slot as an image of 32 bytes. -/
def mkSlot (key ad flags : Nat) : BitVec 256 :=
  BitVec.ofNat 256 (((key % 2 ^ 160 * 2 ^ 64 + ad % 2 ^ 64) * 2 ^ 16 + flags % 2 ^ 16) * 2 ^ 16)

/-- Put an image into a slot. -/
def putSlot (b : BitVec 1024) (s : Nat) (img : BitVec 256) : BitVec 1024 := setBE b (256 * s) 256 img.toNat

/-- Clear V of a slot. -/
def clearV (b : BitVec 1024) (s : Nat) : BitVec 1024 := setBE b (256 * s + 224) 1 0

/-- The 160 bits that a slot holds for a left-aligned key: an 80-bit key is padded with zero bytes. -/
def key160 (k : Key) : Nat := getBE k 0 160

/-- The slot holds the key (R243). A key of more than 160 bits is held by none. -/
def holdsKey (b : BitVec 1024) (s : Nat) (k : Key) (width : Nat) : Bool :=
  decide (width ≤ 1) && (slotFlags b s).testBit 15 && slotKey b s == key160 k

/-- The first slot that holds the key. -/
def firstSlot (b : BitVec 1024) (k : Key) (width : Nat) : Option Nat :=
  (List.range 4).find? fun s => holdsKey b s k width

/-- The record of a lower-tier step from the readable candidates (R248, R249, R260). -/
def bucketRec (tier i0 i1 : Nat) (b0 b1 : Option (BitVec 1024)) (k : Key) (width : Nat) : Rec :=
  let hitOf := fun (i : Nat) (b : BitVec 1024) (s : Nat) (vfy : Bool) =>
    ({ status := 0, hit := true, vfy := vfy, tier := tier, slot := s, count := 1, sflags := slotFlags b s, bucket := i,
       ad := slotAd b s } : Rec)
  let bad := b0.isNone || b1.isNone
  match b0.bind (fun b => (firstSlot b k width).map fun s => (b, s)), b1.bind (fun b => (firstSlot b k width).map fun s => (b, s)) with
  | some (b, s), _ => hitOf i0 b s bad
  | none, some (b, s) => hitOf i1 b s bad
  | none, none => { status := if bad then 4 else 1, tier := tier }

/-! ## Regions -/

/-- Partition fields on a die (R64). -/
def partValid (s : State) (d p : Nat) : Bool := isF s d PART_CTL.VALID p
def partWidth (s : State) (d p : Nat) : Nat := getF s d PART_CTL.WIDTH p
def partFixed (s : State) (d p : Nat) : Bool := isF s d PART_CTL.CLASS p

/-- Seeds of a store-room region on a die. -/
def srSeeds (s : State) (d r : Nat) : Nat × Nat :=
  (getF s d SR_SEED0_HI.SEED r * 2 ^ 32 + getF s d SR_SEED0_LO.SEED r, getF s d SR_SEED1_HI.SEED r * 2 ^ 32 + getF s d SR_SEED1_LO.SEED r)

/-- Seeds of a cellar region. -/
def crSeeds (s : State) (d r : Nat) : Nat × Nat :=
  (getF s d CR_SEED0_HI.SEED r * 2 ^ 32 + getF s d CR_SEED0_LO.SEED r, getF s d CR_SEED1_HI.SEED r * 2 ^ 32 + getF s d CR_SEED1_LO.SEED r)

/-- Candidate indices in a store-room region part. -/
def srIdx (s : State) (d r : Nat) (k : Key) (width : Nat) : Nat × Nat :=
  bucketIdx (srSeeds s d r).1 (srSeeds s d r).2 (getF s d SR_SIZE.NBUCK r) k (widthBits width)

/-- Candidate indices in a cellar region. -/
def crIdx (s : State) (d r : Nat) (k : Key) (width : Nat) : Nat × Nat :=
  bucketIdx (crSeeds s d r).1 (crSeeds s d r).2 (getF s d CR_SIZE.NBUCK r) k (widthBits width)

/-- Line number of a bucket of a region part (R281). -/
def srLine (s : State) (d r i : Nat) : Nat := (getF s d SR_BASE.BASE r + i) % 2 ^ 29

/-! ## Memory -/

/-- The bucket's check code is uncorrectable (R249). -/
def Bucket.bad (b : Bucket) : Bool := b.lost != 0

/-- The slots still to be written of a bucket that is uncorrectable as a whole, or readable. -/
def lostAll (bad : Bool) : Nat := if bad then 15 else 0

/-- Key of a channel bucket. -/
def bkey (d line : Nat) : Nat := d * 2 ^ 29 + line

/-- What memory holds at a line: what was written last, else the undefined contents of R520. -/
def memRead (s : State) (d line : Nat) : Bucket :=
  match mget none s.store (bkey d line) with
  | some b => b
  | none => ⟨Config.storeInit (mget 0 s.storeEpoch d) d line, lostAll (Config.storeInitBad (mget 0 s.storeEpoch d) d line)⟩

/-- Write a bucket of memory. -/
def memWrite (s : State) (d line : Nat) (b : Bucket) : State := { s with store := mset none s.store (bkey d line) (some b) }

/-- Write a bucket of memory. A write that fails CRC four times (R253) leaves contents that the manual does not give, and is
recorded. -/
def memPut (s : State) (d line : Nat) (b : Bucket) (crc : Bool) : State :=
  let s := memWrite s d line b
  if crc then
    let (v, s) := freeVal s
    let (u, s) := freeVal s
    raiseErr (memWrite s d line ⟨BitVec.ofNat 1024 v, lostAll (u.testBit 0)⟩) d pgStr STR_ERR.WR_CRC (it1 (line * 128))
  else s

/-- Slots still to be rewritten of a bucket that was found with a wrong RGN (R249). -/
def rgnLost (s : State) (d line : Nat) : Nat := mget 0 s.rgnBad (bkey d line)

/-- Slots of a bucket are rewritten. -/
def rewritten (s : State) (d line slots : Nat) : State :=
  { s with rgnBad := mmod 0 s.rgnBad (bkey d line) fun v => v - (v &&& slots) }

/-- The slots of the half bucket at a byte offset. -/
def halfSlots (o : Nat) : Nat := if o < 64 then 3 else 12

/-- A bucket with the half at a byte offset written. -/
def putHalf64 (o v : Nat) (b : Bucket) : Bucket :=
  { data := setBE b.data (8 * o) 512 v, lost := b.lost - (b.lost &&& halfSlots o) }

/-- The channel serves. -/
def strUp (s : State) (d : Nat) : Bool := isF s d STR_STS.READY && !isF s d STR_STS.FAILED

/-- Buckets of the module. -/
def modBuckets (s : State) (d : Nat) : Nat := getF s d STR_STS.SIZE * 2 ^ 23

/-- Record an unreadable bucket (R249, R276): counter, address, error bit. -/
def unreadable (s : State) (d line bit : Nat) : State :=
  let s := bumpSat s d STR_ECC.UNC
  let s := setF (setF s d STR_UNC_LAST.VALID 1) d STR_UNC_LAST.BUCKET line
  raiseErr s d pgStr bit (it1 (line * 128))

/-! ## The merging buffer -/

/-- The line's newest entry. -/
def mbNewest (s : State) (d line : Nat) : Option MEntry := (s.mbuf.filter fun e => e.die == d && e.line == line).getLast?

/-- Entries in use on a die. -/
def mbUsed (s : State) (d : Nat) : Nat := (s.mbuf.filter fun e => e.die == d).length

/-- Forward an entry's slots and header into older data (R290). -/
def forward (e : Option MEntry) (b : Bucket) : Bucket :=
  match e with
  | none => b
  | some e =>
    let data := (List.range 4).foldl (fun x s =>
      if e.slots.testBit s then setBE x (256 * s) 256 (getBE e.data (256 * s) 256)
      else if e.vclr.testBit s then clearV x s else x) b.data
    { data := withHdr data (bucketHdr e.data), lost := b.lost - (b.lost &&& e.slots) }

/-- Every merging-buffer entry of a line forwarded into data, oldest first: the slots of an entry go on being forwarded until its
write is accepted (R289), so no write that became visible is lost (R290, R292). -/
def forwardAll (s : State) (d line : Nat) (b : Bucket) : Bucket :=
  (s.mbuf.filter fun e => e.die == d && e.line == line).foldl (fun b e => forward (some e) b) b

/-! ## The cache -/

/-- Key of a line place. -/
def lkey (d w set : Nat) : Nat := (d * 16 + w) * 4096 + set
/-- The place. -/
def getLine (s : State) (d w set : Nat) : Line := mget Line.zero s.cache (lkey d w set)
/-- Write the place. -/
def setLine (s : State) (d w set : Nat) (l : Line) : State := { s with cache := mset Line.zero s.cache (lkey d w set) l }
/-- Set and tag of a line number. -/
def lineSet (n : Nat) : Nat := n % 4096
def lineTag (n : Nat) : Nat := n / 4096

/-- The way is locked or enabled. -/
def wayEn (s : State) (d w : Nat) : Bool := (getF s d CCH_WAYS.EN).testBit w
def wayLock (s : State) (d w : Nat) : Bool := (getF s d CCH_WAYS.LOCK).testBit w

/-- Active ways (R297) for given masks; a failed way that stayed enabled does not count (R299). -/
def activeWays (s : State) (d en lock : Nat) : Nat :=
  ((List.range 16).filter fun w => en.testBit w && !lock.testBit w && !(getF s d CCH_WAY_STS.FAILED).testBit w).length

/-- The way that holds a line. -/
def wayOf (s : State) (d line : Nat) : Option Nat :=
  (List.range 16).find? fun w =>
    let l := getLine s d w (lineSet line)
    l.valid && !l.pend && l.tag == lineTag line

/-- Invalidate a line of a way; a locked way's line is then refetched (R295). -/
def invLine (s : State) (d w line : Nat) : State :=
  let s := setLine s d w (lineSet line) Line.zero
  if wayLock s d w then
    { s with walks := s.walks ++ [{ die := d, kind := 2, base := line, count := 1, way := w, lock := true }] }
  else s

/-- Fills give up their ways: they answer their lookups and install nothing. -/
def noInstall (s : State) (ok : Fill → Bool) : State :=
  let s := (s.fills.filter ok).foldl (fun s f => match f.way with
    | some w => if (getLine s f.die w (lineSet f.line)).pend then setLine s f.die w (lineSet f.line) Line.zero else s
    | none => s) s
  let g : Fill → Fill := fun f => { f with way := none }
  { s with fills := updWhere ok g s.fills }

/-- Invalidate a line wherever it is, and what a fill that has arrived would install (R291). -/
def invAny (s : State) (d line : Nat) : State :=
  let s := noInstall s fun f => f.die == d && f.line == line && f.arrived.isSome
  match wayOf s d line with
  | some w => invLine s d w line
  | none => s

/-- Lines of locked ways, which are refetched once READY returns. -/
def lockedLines (s : State) (d : Nat) : List CacheWalk :=
  (s.cache.filter fun q => q.1 / 65536 == d && q.2.valid && wayLock s d (q.1 / 4096 % 16)).map fun q =>
    { die := d, kind := 2, base := q.2.tag * 4096 + q.1 % 4096, count := 1, way := q.1 / 4096 % 16, lock := true }

/-- Invalidate every line of a way. -/
def clearWay (s : State) (d w : Nat) : State :=
  { s with cache := s.cache.filter fun p => p.1 / 4096 != d * 16 + w }

/-- Begin disabling a way (R298): it leaves victim choice and is cleaned. -/
def disableWay (s : State) (d w : Nat) : State :=
  let s := setF s d CCH_WAYS.EN (getF s d CCH_WAYS.EN &&& (65535 - 2 ^ w))
  setF s d CCH_WAY_STS.CLEANING (getF s d CCH_WAY_STS.CLEANING ||| 2 ^ w)

/-- Automatic disabling of a failing way (R299). -/
def autoDisable (s : State) (d w : Nat) : State :=
  if !isF s d CCH_CTL.AUTO_EN || !wayEn s d w || (getF s d CCH_WAY_STS.FAILED).testBit w then s
  else
    let en := getF s d CCH_WAYS.EN
    let lock := getF s d CCH_WAYS.LOCK
    let failed := getF s d CCH_WAY_STS.FAILED
    let breaks := fun (l : Nat) => decide (activeWays s d (en &&& (65535 - 2 ^ w)) l < 2)
    let fail := fun (s : State) =>
      raiseErr (setF s d CCH_WAY_STS.FAILED (failed ||| 2 ^ w)) d pgCch CCH_ERR.AUTO_DIS (it2 w 0)
    if lock.testBit w || !breaks lock then fail (disableWay s d w)
    else
      match (List.range 16).find? fun v => v != w && en.testBit v && lock.testBit v && !failed.testBit v with
      | some v => fail (disableWay (setF s d CCH_WAYS.LOCK (lock &&& (65535 - 2 ^ v))) d w)
      | none =>
        let s := setF (clearWay s d w) d CCH_WAY_STS.FAILED (failed ||| 2 ^ w)
        raiseErr (raiseErr s d pgCch CCH_ERR.AUTO_DIS (it2 w 0)) d pgCch CCH_ERR.MINWAY (it1 w)

/-- A corrected or an uncorrectable error found in a line of a way (R299, R301). -/
def wayError (s : State) (d w set : Nat) (unc : Bool) : State :=
  if unc then
    let s := bumpSat s d (CCH_WAY_ERR.UNC w)
    autoDisable (raiseErr s d pgCch CCH_ERR.LINE_UNC (it2 w set)) d w
  else
    let s := bumpSat s d (CCH_WAY_ERR.CE w)
    let s := raiseErr s d pgCch CCH_ERR.LINE_CORR (it2 w set)
    let k := d * 16 + w
    let recent := (mget [] s.wayErrAt k).filter fun c => decide (s.cyc < c + getF s d CCH_AUTO.WIN * 1500)
    let s := { s with wayErrAt := mset [] s.wayErrAt k (recent ++ [s.cyc]) }
    if max 1 (getF s d CCH_AUTO.CE_THR) ≤ recent.length + 1 then autoDisable s d w else s

/-- A lookup in the cycle of its view (R255, R282, R290, R292): the state after its counts, and its answer on a hit. While EN is 0
it misses in the tags (R300). -/
def cacheLookup (s : State) (d line : Nat) : State × Option Bucket :=
  let s := bump s d CCH_LOOKUP.COUNT
  let held := fun (s : State) =>
    match s.fills.find? fun f => f.die == d && (f.victim.any fun v => v.1 == line) with
    | some f =>
      if f.stale then (bump s d CCH_VWAIT.COUNT, none)
      else (bump s d CCH_VHOLD.COUNT, f.victim.map fun v => forwardAll s d line ⟨v.2, 0⟩)
    | none => (s, none)
  let miss := fun (s : State) =>
    match mbNewest s d line with
    | some e => if e.slots = 15 then (bump s d CCH_MBHIT.COUNT, some ⟨e.data, lostAll e.unc⟩) else held s
    | none => held s
  match (if isF s d CCH_CTL.EN then wayOf s d line else none) with
  | some w =>
    let l := getLine s d w (lineSet line)
    if l.ecc = 2 then
      miss (wayError (invLine s d w line) d w (lineSet line) true)
    else
      let s := bump s d CCH_HIT.COUNT
      let s := if l.ecc = 1 then wayError (setLine s d w (lineSet line) { l with ecc := 0 }) d w (lineSet line) false else s
      (s, some (forwardAll s d line ⟨l.data, 0⟩))
  | none => miss s

/-- One step of the replacement LFSR (R293). -/
def lfsrStep (v : Nat) : Nat :=
  (v * 2 + (b2n (v.testBit 15) + b2n (v.testBit 13) + b2n (v.testBit 12) + b2n (v.testBit 10)) % 2) % 2 ^ 16

/-- The first candidate way from `w` on, wrapping. -/
def nextWay (cand : List Nat) (w : Nat) : Nat :=
  (((List.range 16).map fun i => (w + i) % 16).find? fun x => cand.contains x).getD 0

/-- Choose a victim way in a set (R293). A running preload holds its way back (R294). -/
def chooseVictim (s : State) (d set : Nat) : State × Option Nat :=
  let cand := (List.range 16).filter fun w =>
    wayEn s d w && domOn s d (domWay w) && !wayLock s d w && !(getLine s d w set).pend && !(getF s d CCH_WAY_STS.FAILED).testBit w &&
    !(s.walks.any fun k => k.die == d && k.kind == 0 && k.way == w)
  if cand = [] then (s, none)
  else
    match cand.filter fun w => !(getLine s d w set).valid with
    | w :: _ => (s, some w)
    | [] =>
      let v := lfsrStep (getF s d CCH_LFSR.STATE)
      (setF s d CCH_LFSR.STATE v, some (nextWay cand (v % 16)))

/-! ## Store-room steps -/

/-- Line of a step's bucket `b`. -/
def stepLine (s : State) (x : SStep) (b : Nat) : Nat := srLine s x.die x.region (if b = 0 then x.i0 else x.i1)

/-- Start a store-room step (R248, R250), which begins `after` CS cycles from now (R251): its lookups take their ports in its
fourth CQ cycle. -/
def issueStep (s : State) (d t r reg : Nat) (key : Key) (width : Nat) (fixed : Bool) (par next ent : Option Nat) (after : Nat) : State :=
  let s := bump s d STR_PROBE.COUNT
  let (i0, i1) := srIdx s d reg key width
  let x : SStep :=
    { id := s.nextId, die := d, thread := t, rno := r, region := reg, key := key, width := width, i0 := i0, i1 := i1,
      ans0 := none, ans1 := none, need0 := false, need1 := false, fixed := fixed, start := s.cyc + after, par := par,
      next := next, spec := false, port := none, seen := false, ent := ent,
      forced := if !isF s d SR_CTL.VALID reg || !strUp s d then some 7 else none, done := none, squashed := false }
  { s with nextId := s.nextId + 1, steps := s.steps ++ [x] }

/-- First CQ cycle of a step: its cycle 0 (R282). -/
def stepCq (x : SStep) : Nat := (x.start + 1) / 2

/-! ### Bank ports (R282, R283, R285) -/

/-- The bank of a line is blocked by an install until this CS cycle (R285). -/
def bankBusy (s : State) (d line : Nat) : Nat := mget 0 s.bankBusy (d * 16 + line % 16)

/-- Ports of the line's bank taken in this CQ cycle. -/
def portUse (s : State) (d line : Nat) : Nat := mget 0 s.ports (d * 16 + line % 16)

/-- A line's bank serves `n` more operations in this CQ cycle: it has two ports and is not blocked. -/
def portRoom (s : State) (d line n : Nat) : Bool := decide (bankBusy s d line ≤ s.cyc) && decide (portUse s d line + n ≤ 2)

/-- Take a port of a line's bank. -/
def usePort (s : State) (d line : Nat) : State := { s with ports := mmod 0 s.ports (d * 16 + line % 16) fun n => n + 1 }

/-- The step's lookups want their ports. -/
def wantsPort (s : State) (x : SStep) : Bool := x.port.isNone && x.forced.isNone && decide (stepCq x + 3 ≤ cq s)

/-- Change a step. -/
def modStep (s : State) (id : Nat) (f : SStep → SStep) : State := { s with steps := updWhere (fun x => x.id == id) f s.steps }

/-- Both lookups of a step take their ports, when both banks serve them; a fixed-latency step's wait is noted (R286). -/
def takePorts (s : State) (x : SStep) : State :=
  let l0 := stepLine s x 0
  let l1 := stepLine s x 1
  let n := if l0 % 16 = l1 % 16 then 2 else 1
  if wantsPort s x && portRoom s x.die l0 n && portRoom s x.die l1 n then
    let s := modStep (usePort (usePort s x.die l0) x.die l1) x.id fun y => { y with port := some (cq s) }
    let w := min 31 (cq s - (stepCq x + 3))
    if x.fixed && getF s x.die CCH_BLOCK_MAX.MAX < w then setF s x.die CCH_BLOCK_MAX.MAX w else s
  else s

/-- The steps of a class take ports, oldest first (R283). -/
def servePorts (s : State) (fixed : Bool) : State := (s.steps.filter fun x => x.fixed == fixed).foldl takePorts s

/-- The step has reached its view cycle, cycle 7 of R282 (R255). -/
def viewDue (s : State) (x : SStep) : Bool := !x.seen && x.forced.isNone && x.port.any fun p => decide (p + 4 ≤ cq s)

/-- A step takes its view: both lookups are made, and one that misses needs a fill. -/
def viewStep (s : State) (x : SStep) : State :=
  if viewDue s x then
    let (s, a0) := cacheLookup s x.die (stepLine s x 0)
    let (s, a1) := cacheLookup s x.die (stepLine s x 1)
    let s := if a0.isNone || a1.isNone then bump s x.die STR_PMISS.COUNT else s
    modStep s x.id fun y => { y with ans0 := a0, ans1 := a1, need0 := a0.isNone, need1 := a1.isNone, seen := true }
  else s

/-- The caches' CQ cycle ends: lookups of other steps take the ports that are left (R283). -/
def closeCq (s : State) : State := servePorts s false

/-- A CQ cycle begins in the caches: fixed-latency lookups take their ports first, and the views that are due are taken. -/
def openCq (s : State) : State :=
  let s := servePorts { s with ports := [] } true
  s.steps.foldl viewStep s

/-- A CS cycle passes; a CQ cycle begins on every even one. -/
def csCycle (s : State) : State :=
  if s.cyc % 2 = 0 then { s with cyc := s.cyc + 1 } else openCq { closeCq s with cyc := s.cyc + 1 }

/-- A lookup of another step, or a queued record of a line's bank, goes before a preload, invalidation or refetch walk (R283). -/
def walkRoom (s : State) (d line : Nat) : Bool :=
  let bank := fun (l : Nat) => l % 16 == line % 16
  portRoom s d line 1 && !(s.steps.any fun x => x.die == d && wantsPort s x && (bank (stepLine s x 0) || bank (stepLine s x 1))) &&
  match s.swq.find? fun r => r.die == d with
  | some r => !bank (srLine s d r.region r.bucket)
  | none => true

/-! ### Locks and copies (R275, R341) -/

/-- A granted memory lock names the line. -/
def lockedLine (s : State) (d line : Nat) : Bool :=
  s.locks.any fun l => l.die == d && l.inst == 1 && decide (l.start ≤ s.cyc ∧ s.cyc < l.start + l.len) && l.lines.contains line

/-- Buckets of a die's part of a region. -/
def partSize (s : State) (d r : Nat) : Nat := if isF s d SR_CTL.VALID r then getF s d SR_SIZE.NBUCK r else 0

/-- Place of a line among the buckets of a die's valid region parts, in region and bucket order: none outside them. -/
def syncPos (s : State) (d line : Nat) : Option Nat :=
  let b := fun (r : Nat) => getF s d SR_BASE.BASE r
  ((List.range 256).find? fun r => decide (b r ≤ line ∧ line < b r + partSize s d r)).map fun r =>
    sumL ((List.range r).map (partSize s d)) + (line - b r)

/-- The die's module holds a line's bucket: while it is resynchronised, only what the copy has passed (R275). -/
def holdsCopy (s : State) (d line : Nat) : Bool :=
  !isF s d STR_STS.SYNC || (syncPos s d line).any fun p => decide (p < getF s d STR_SYNC.DONE)

/-- Dies on which a write to a bucket is applied (R273, R274, R275): of a pair that mirrors, or is resynchronised, the members
whose channel serves and whose module holds the bucket. -/
def writeDies (s : State) (d line : Nat) : List Nat :=
  let e := d / 2 * 2
  let both := paired s d || (avail s && (isF s e STR_STS.SYNC || isF s (e + 1) STR_STS.SYNC))
  (if both then [e, e + 1] else if avail s then [serving s d] else [d]).filter fun x => strUp s x && holdsCopy s x line

/-! ### The record of a step -/

/-- A bucket as a step takes it: unreadable on an uncorrectable error or a wrong RGN (R248, R249), which is recorded,
and repaired from the partner's clean copy in the availability profile (R273). -/
def takeBucket (s : State) (d line reg : Nat) (b : Bucket) (crc : Bool) : State × Option (BitVec 1024) :=
  if !b.bad && hdrRgn (bucketHdr b.data) == reg && rgnLost s d line == 0 then (s, some b.data)
  else
    let s := unreadable s d line (if b.bad then STR_ERR.ECC_UNC else STR_ERR.RGN_MIS)
    let q := memRead s (partner d) line
    if paired s d && strUp s (partner d) && holdsCopy s (partner d) line && !q.bad && hdrRgn (bucketHdr q.data) == reg then
      (invAny (memPut (rewritten s d line 15) d line q crc) d line, none)
    else (if b.bad then s else { s with rgnBad := mset 0 s.rgnBad (bkey d line) (if rgnLost s d line = 0 then 15 else rgnLost s d line) }, none)

/-- The record of a store-room step whose answers are in. -/
def stepRec (s : State) (x : SStep) (crc : Bool) : State × Rec :=
  match x.forced with
  | some st => (s, { status := st, tier := 1 })
  | none =>
    match x.ans0, x.ans1 with
    | some a, some b =>
      let (s, b0) := takeBucket s x.die (stepLine s x 0) x.region a crc
      let (s, b1) := takeBucket s x.die (stepLine s x 1) x.region b crc
      (s, bucketRec 1 x.i0 x.i1 b0 b1 x.key x.width)
    | _, _ => (s, {})

/-- The step can write its record: RETRY at once, DOMAIN_FAIL in its cycle 11 (R250), any other when both buckets answered, from
eight CQ cycles after the ports on (R282). -/
def stepReady (s : State) (x : SStep) : Bool :=
  match x.forced with
  | some st => st != 7 || decide (stepCq x + 11 ≤ cq s)
  | none => x.ans0.isSome && x.ans1.isSome && x.port.any fun p => decide (p + 8 ≤ cq s)

/-- Write a finished record (and the second of BEST2) for a waiting thread, and let it go on (R179, R214). -/
def deliver (s : State) (d t r : Nat) (x : BitVec 256) (x2 : Option (BitVec 256)) (ok : Bool) : State :=
  if t < 384 then
    let th := putRec (getT s d t) r x
    let th := match x2 with
      | some y => putRec th (r + 1) y
      | none => th
    finish (setT s d t { th with crec := r }) d t ok
  else s

/-- Key of a step entry. -/
def ekey (d e : Nat) : Nat := d * 256 + e
/-- A step entry (R206). -/
def getEnt (s : State) (d e : Nat) : StepEnt := mget StepEnt.zero s.stepEnts (ekey d e)
/-- Change a step entry. -/
def modEnt (s : State) (d e : Nat) (f : StepEnt → StepEnt) : State := { s with stepEnts := mmod StepEnt.zero s.stepEnts (ekey d e) f }

/-- The real result of a SRCH with RA = 1 reaches its step entry (R202). -/
def train (s : State) (d : Nat) (ent : Option Nat) (x : Rec) : State :=
  match ent with
  | none => s
  | some e => modEnt s d e fun y =>
      { y with conf := if encRec (matchFields x) = y.pred then min 3 (y.conf + 1) else 0, pred := encRec (matchFields x), bad := false }

/-- A step entry is consulted: one whose parity fails is recorded and starts again at confidence 0 (R210). -/
def consult (s : State) (d : Nat) (ent : Option Nat) : State :=
  match ent with
  | none => s
  | some e =>
    if (getEnt s d e).bad then
      raiseErr (modEnt s d e fun y => { y with conf := 0, bad := false }) d pgSeq SEQ_ERR.PRED_ECC (it1 (getEnt s d e).addr)
    else s

/-- Deliver a search's or lower-tier step's final record: to a thread that runs ahead it is the real result. -/
def deliverRec (s : State) (d t r : Nat) (x : Rec) (x2 : Option (BitVec 256)) (ent : Option Nat) : State :=
  if t < 384 then
    let s := train (consult s d ent) d ent x
    let th := getT s d t
    if th.spec && th.specRec == r && th.real.isNone then setT s d t { th with real := some (encRec x), real2 := x2 }
    else deliver s d t r (encRec x) x2 (decide (x.status < 2))
  else s

end Sys2Proof.Machine
end

