-- ==== Sys2Proof/Machine/CellarOps.lean ====
section
/-!
DEFINITION. Shared operations of the cellar: issuing a step and deferring (R189, R257), authentication and the record
(R259, R260), offline states (R271), promotion of a hit (R267), and key slots (R261 to R263).
-/

namespace Sys2Proof.Machine

/-- The region answers (R272): the cellar is online as a whole and the region is. -/
def regionOnline (s : State) (r : Nat) : Bool :=
  isF s 0 CEL_STS.ONLINE && getF s 0 CR_CTL.CAUSE r == 0 && isF s 0 CR_CTL.VALID r

/-- Status of a step on a region that does not answer (R271). -/
def offlineStatus (s : State) (r : Nat) : Nat := if getF s 0 CR_CTL.CAUSE r = 5 then 0xB else 8

/-- Entries of the outstanding-fetch table in use. -/
def fetchUsed (s : State) : Nat := (s.fetches.filter fun f => f.entry).length

/-- Set a region's cause and its CEL_OFF bit; every die's copy of the descriptor. -/
def setCause (s : State) (r cause : Nat) : State :=
  let s := setAll s (dies s) CR_CTL.CAUSE cause r
  let w := getF s 0 (CEL_OFF.OFF (r / 32))
  setF s 0 (CEL_OFF.OFF (r / 32)) (if cause = 0 then setFld w (r % 32) 1 0 else w ||| 2 ^ (r % 32))

/-- Change an outstanding fetch. -/
def modFetch (s : State) (id : Nat) (f : CFetch → CFetch) : State := { s with fetches := updWhere (fun g => g.id == id) f s.fetches }

/-- Complete a fetch with a settled status: its record holds nothing else (R258, R271). -/
def settleFetch (s : State) (id st : Nat) : State :=
  match s.fetches.find? fun f => f.id == id with
  | none => s
  | some f =>
    if f.done then s
    else
      let s := { s with fetches := if f.deferred && f.thread < 384 then updWhere (fun g => g.id == id) (fun g => { g with done := true }) s.fetches
                                   else s.fetches.filter fun g => g.id != id }
      deliverRec s f.die f.thread f.rno { status := st, tier := 2 } none f.ent

/-- Settle every fetch of the list. -/
def settleFetches (s : State) (ids : List Nat) (st : Nat) : State := ids.foldl (fun s i => settleFetch s i st) s

/-- Take a region offline (R271). Its outstanding fetches end with the status given, or complete normally. -/
def regionOff (s : State) (r cause : Nat) (st : Option Nat) : State :=
  let s := setCause s r (if getF s 0 CR_CTL.CAUSE r = 5 then 5 else cause)
  match st with
  | none => s
  | some v => settleFetches s ((s.fetches.filter fun f => f.region == r && !f.done).map fun f => f.id) v

/-- Take the whole cellar offline (R271): causes 1 to 5 of CEL_STS. -/
def cellarOff (s : State) (cause : Nat) : State :=
  let s := setF (setF (setF s 0 CEL_STS.ONLINE 0) 0 CEL_STS.CAUSE cause) 0 CEL_CTL.EN 0
  let rc := if cause = 5 then 5 else 2
  let s := (List.range 256).foldl (fun s r =>
    if getF s 0 CR_CTL.CAUSE r = 0 || (cause = 5 && getF s 0 CR_CTL.CAUSE r != 5) then setCause s r rc else s) s
  let s := if cause = 3 then { s with xlats := [] } else s
  if cause = 1 then s
  else settleFetches s ((s.fetches.filter fun f => !f.done).map fun f => f.id) (if cause = 5 then 0xB else 8)

/-- The host stops listening (R271, R366): the cellar goes offline as a whole; one that was offline before ends the steps that
still wait. -/
def cellarStop (s : State) (cause : Nat) : State :=
  if isF s 0 CEL_STS.ONLINE then cellarOff s cause else settleFetches s ((s.fetches.filter fun f => !f.done).map fun f => f.id) 8

/-- The channel is ordered (R309). -/
def chOrdered (s : State) (c : Nat) : Bool := isF s 0 (LKP_CH_CFG.ORD c)

/-- A thread that issues a cellar fetch before it has answered defers (R189). A child has no answer of its own. -/
def mustDefer (s : State) (th : Thread) : Bool :=
  chOrdered s th.chan && !th.sent && !th.child && !th.golden && th.req.isSome

/-- Form the DEFERRED response (R189, R321). -/
def deferThread (s : State) (d t : Nat) : State :=
  let th := getT s d t
  let s := formResp s d t { status := 2, rec1 := encRec { status := 2, tier := 2 }, rec2 := none, wr := none, deferred := true }
  let s := modT s d t fun x => { x with deferred := true, respBits := some (encRec { status := 2, tier := 2 }), req := th.req }
  bumpSat s 0 CEL_DEFER.DEFERRED

/-! ## Addresses and translation -/

/-- IOVA of a bucket and of its tag (R247). -/
def bucketIova (s : State) (r i : Nat) : Nat := getF s 0 CR_BASE_HI.ADDR r * 2 ^ 32 + getF s 0 CR_BASE_LO.ADDR r + 128 * i
def tagIova (s : State) (r i : Nat) : Nat := getF s 0 CR_TAG_HI.ADDR r * 2 ^ 32 + getF s 0 CR_TAG_LO.ADDR r + 16 * i

/-- PASID of a region's requests. -/
def crPasid (s : State) (r : Nat) : Option Nat := if isF s 0 CR_CTL.PASID_EN r then some (getF s 0 CR_PASID.PASID r) else none

/-- The translation that covers an address (R363). -/
def xlatOf (s : State) (pasid : Option Nat) (a : Nat) : Option Xlat :=
  s.xlats.find? fun x => x.pasid == pasid && a / 2 ^ x.log2 == x.page / 2 ^ x.log2

/-- The translation cache covers an address. -/
def xlated (s : State) (pasid : Option Nat) (a : Nat) : Bool := (xlatOf s pasid a).isSome

/-- The translated address. -/
def xlate (s : State) (pasid : Option Nat) (a : Nat) : Nat :=
  match xlatOf s pasid a with
  | some x => x.base / 2 ^ x.log2 * 2 ^ x.log2 + a % 2 ^ x.log2
  | none => a

/-- Issue a read with a translated address, AT = 0b10 (R258). -/
def readHost (s : State) (pasid : Option Nat) (a n : Nat) : State := emitOut s (.hostReadT (xlate s pasid a) pasid n)

/-- Entries of the translation cache just used become the most recently used ones: the last of the list (R363). -/
def touchXlats (s : State) (pasid : Option Nat) (as_ : List Nat) : State :=
  let hit := fun (x : Xlat) => x.pasid == pasid && as_.any fun a => a / 2 ^ x.log2 == x.page / 2 ^ x.log2
  { s with xlats := (s.xlats.filter fun x => !hit x) ++ s.xlats.filter hit }

/-- The four addresses a step reads. -/
def fetchAddrs (s : State) (f : CFetch) : List Nat :=
  [bucketIova s f.region f.i0, bucketIova s f.region f.i1, tagIova s f.region f.i0, tagIova s f.region f.i1]

/-- A cellar write to one of the step's buckets is in progress (R266). -/
def writeBusy (s : State) (f : CFetch) : Bool := s.cwrite.any fun w => w.region == f.region && (w.index == f.i0 || w.index == f.i1)

/-- Non-posted requests outstanding, by what sent them, with the tags each holds: a step's four reads (kind 0), an SQ fetch (1), a
bulk read (2), the two reads of the cellar write (3). -/
def outstanding (s : State) : List (Nat × Nat) :=
  ((s.fetches.filter fun f => f.issued && !f.done && f.data.isNone).map fun f => (0, f.id)) ++
  ((s.fetchedSq.filter fun p => p.2.2 != 0).map fun p => (1, p.1)) ++
  ((s.cmds.filter fun c => ceOp c.entry == 0xA && c.begun && c.status.isNone && decide (ceSrc c.entry < 2)).map fun c => (2, c.id)) ++
  (if s.cwrite.any fun w => w.issued then [(3, 0)] else [])

/-- Tags that a list of outstanding requests holds. -/
def tagsOf (l : List (Nat × Nat)) : Nat := sumL (l.map fun t => if t.1 = 0 then 4 else if t.1 = 3 then 2 else 1)

/-- Four of the 768 tags are free for a step's reads; a tag in quarantine is not (R350, R351, R367). -/
def tagRoom (s : State) : Bool := decide (tagsOf (outstanding s) + getF s 0 HIF_QUAR.TAGS + 4 ≤ 768)

/-- Translate and issue a step's reads when nothing stands in the way (R257 steps 3 and 4); an address that the
translation cache lacks needs an ATS request first, and a step that finds no free tag waits (R351). -/
def advanceFetch (s : State) (id : Nat) : State :=
  match s.fetches.find? fun f => f.id == id with
  | none => s
  | some f =>
    if !f.entry || !f.atLead || f.issued || f.done || writeBusy s f || !canMaster s || !tagRoom s then s
    else if (fetchAddrs s f).all fun a => xlated s (crPasid s f.region) a then
      let q := getF s 0 CR_WSEQ.WSEQ f.region
      let s := touchXlats (modFetch s id fun g => { g with xlated := true, issued := true, wseq := q }) (crPasid s f.region) (fetchAddrs s f)
      let rd := fun (s : State) (a n : Nat) => readHost s (crPasid s f.region) a n
      rd (rd (rd (rd s (bucketIova s f.region f.i0) 128) (tagIova s f.region f.i0) 16) (bucketIova s f.region f.i1) 128) (tagIova s f.region f.i1) 16
    else s

/-- Translate and issue the two reads of the cellar write (R264 step 1). -/
def advanceWrite (s : State) : State :=
  match s.cwrite with
  | none => s
  | some w =>
    let p := crPasid s w.region
    let as_ := [bucketIova s w.region w.index, tagIova s w.region w.index]
    if w.issued || !canMaster s || !as_.all fun a => xlated s p a then s
    else
      let s := touchXlats { s with cwrite := some { w with issued := true } } p as_
      readHost (readHost s p (bucketIova s w.region w.index) 128) p (tagIova s w.region w.index) 16

/-- Advance the cellar write and every step that may have become ready. -/
def advanceFetches (s : State) : State := (s.fetches.map fun f => f.id).foldl advanceFetch (advanceWrite s)

/-- A step that has its entry of the table goes to the lead die: over the ring from another die (R257 step 2; the body is
region, buckets and a tag of the model, DESIGN CHOICE, log 91), at once from the lead die itself. -/
def sendFetch (s : State) (id : Nat) : State :=
  match s.fetches.find? fun f => f.id == id && f.entry with
  | none => s
  | some f =>
    if f.die = 0 then advanceFetch { s with fetches := updWhere (fun g => g.id == id) (fun g => { g with atLead := true }) s.fetches } id
    else queueMgmt s f.die 0 6 (2 * id) 2 (((f.region % 256 * 2 ^ 32 + f.i0) * 2 ^ 32 + f.i1) * 2 ^ 518)

/-- The thread waits for the record of a lower tier; one that runs ahead on the record goes on. -/
def waitLower (s : State) (d t r : Nat) : State :=
  if t < 384 then
    modT s d t fun th =>
      if th.spec && th.specRec == r then { th with bounded := true }
      else { th with st := if th.st == .halted then .halted else .waitMem, rem := if th.st == .halted then .waitMem else th.rem,
                     wait := .record r, bounded := true }
  else s

/-- Start a cellar step (R257 step 1) on a cellar region, with the store-room region that a hit is promoted into, or settle it
at once when the region does not answer. -/
def startFetch (s : State) (d t r reg sr : Nat) (key : Key) (width : Nat) (ent : Option Nat) : State :=
  if !regionOnline s reg then deliverRec s d t r { status := offlineStatus s reg, tier := 2 } none ent
  else
    let s := bump s d CEL_FETCH.COUNT
    let th := getT s d t
    let df := mustDefer s th
    let s := if df then deferThread s d t else s
    let (i0, i1) := crIdx s d reg key width
    let f : CFetch :=
      { id := s.nextId, die := d, thread := t, rno := r, srRgn := sr, region := reg, key := key, width := width, i0 := i0, i1 := i1,
        entry := decide (fetchUsed s < 4096), atLead := false, xlated := false, issued := false,
        wseq := 0, deferred := df, chan := th.chan, tag := hdrTag th.hdr, recipe := hdrRecipe th.hdr, done := false,
        forced := none, ent := ent, data := none }
    waitLower (sendFetch { s with fetches := s.fetches ++ [f], nextId := s.nextId + 1 } s.nextId) d t r

/-- A cellar step is reached; while the thread speculates, one of a search issued meanwhile is put off until the speculation is
resolved, since it would leave the thread (R204). -/
def issueFetch (s : State) (d t r reg sr : Nat) (key : Key) (width : Nat) (ent : Option Nat) : State :=
  if t < 384 && (getT s d t).spec && (getT s d t).specRec != r then
    modT (waitLower s d t r) d t fun th => { th with held := some ⟨r, reg, sr, key, width, ent⟩ }
  else startFetch s d t r reg sr key width ent

/-! ## Authentication (R259, R260) -/

/-- The GCM nonce of a bucket. -/
def cellarNonce (i r version : Nat) : Nat := (i % 2 ^ 32 * 256 + r % 256) * 2 ^ 56 + version % 2 ^ 48

/-- The 120 plaintext or ciphertext bytes of a bucket: its slots without HSHARE. -/
def bucketBody (b : BitVec 1024) : List Nat := (List.range 4).flatMap fun s => bytesBE 30 (getBE b (256 * s) 240)

/-- A bucket from its 120 bytes and its header. -/
def mkBucket (body : List Nat) (h : Nat) : BitVec 1024 :=
  withHdr ((List.range 4).foldl (fun b s => setBE b (256 * s) 240 (ofBytesBE ((body.drop (30 * s)).take 30))) 0) h

/-- Open a bucket with its tag under the region's key: the plaintext bucket, or none when it fails. -/
def openBucket (s : State) (r i : Nat) (b : BitVec 1024) (tag : Nat) : Option (BitVec 1024) :=
  let h := bucketHdr b
  match mget none s.keys (getF s 0 CR_CTL.KSLOT r) with
  | none => none
  | some key => (gcmOpen key (cellarNonce i r (hdrVersion h)) (bytesBE 8 h) (bucketBody b) tag).map fun body => mkBucket body h

/-! ## Queueing a promotion (R257 step 7) -/

/-- Queue the promotion of a cellar hit. -/
def queuePromo (s : State) (f : CFetch) (x : Rec) : State :=
  let p : Promo :=
    { die := f.die, region := f.srRgn, cregion := f.region, key := f.key,
      width := f.width, ad := BitVec.ofNat 64 x.ad, user := x.sflags % 2 ^ 14, wseq := f.wseq }
  if x.hit then { s with promos := s.promos ++ [p] } else s

end Sys2Proof.Machine
end

