-- ==== Sys2Proof/Machine/RegOps.lean ====
section
/-!
DEFINITION. Writing and reading a register word by the access codes of its fields (R13, R502, R503).
-/

namespace Sys2Proof.Machine

/-- The fields of the register word at an offset of a page. -/
def fieldsAt (pg off : Nat) : List Fld :=
  match (pageRows pg).find? fun r => decide (r.off ≤ off ∧ off < r.off + 4 * r.count) with
  | some r => r.fields.map fun f => { f with off := off }
  | none => []

/-- PAGE_CTL.LOCK of a page. -/
def locked (s : State) (d pg : Nat) : Bool := isF s d (PAGE_CTL.LOCK pg)

/-- Write one field by its access code. Write-only data words are kept; other write-only fields act at once and hold nothing. -/
def writeFld (s : State) (d bank val : Nat) (f : Fld) : State :=
  let v := fld val f.lo f.width
  match f.acc with
  | .ro => s
  | .wo => if f.width = 32 then setF s d f v bank else s
  | .rw => setF s d f v bank
  | .rwl => if locked s d f.page then s else setF s d f v bank
  | .w1c => setF s d f (getF s d f bank - (getF s d f bank &&& v)) bank
  | .w1s => setF s d f (getF s d f bank ||| v) bank

/-- Write a register word. -/
def writeWord (s : State) (d pg bank off val : Nat) : State := (fieldsAt pg off).foldl (fun s f => writeFld s d bank val f) s

/-- Write the fields of a register word whatever their access code: how the device itself loads a register. -/
def loadWord (s : State) (d pg bank off val : Nat) : State :=
  (fieldsAt pg off).foldl (fun s f => setF s d f (fld val f.lo f.width) bank) s

/-- Read a register word: write-only fields and reserved bits read 0. -/
def readWord (s : State) (d pg bank off : Nat) : Nat :=
  sumL ((fieldsAt pg off).map fun f => if f.acc = .wo then 0 else getF s d f bank * 2 ^ f.lo)

end Sys2Proof.Machine
end

