-- ==== Sys2Proof/Machine/EvidenceOps.lean ====
section
/-!
DEFINITION. Shared operations of the evidence log: the request digest (R394), the record layout (R396), sending a finished
record to the lead die, appending records with their links (R395 to R398, R402 to R404), and checkpoints falling due (R400).
-/

namespace Sys2Proof.Machine

/-- The first 128 bits of a SHA-256. -/
def sha128 (l : List Nat) : Nat := sha256 l / 2 ^ 128

/-- The 64 bytes of a record. -/
def recBytes (n : Nat) : List Nat := bytesBE 64 n

/-- A record (R396) without its LINK: type, the word of flags and channel, arrival, departure, ad-word, digest. -/
def evRecord (type status flags8 unsync forced chan gra arr dsec depNs depFr ad digest : Nat) : Nat :=
  (((((((((((type % 16 * 16 + status % 16) * 256 + flags8 % 256) * 2 + unsync % 2) * 2 + forced % 2) * 64 + chan % 64) * 2 ^ 25 +
    gra % 2 ^ 25) * 2 ^ 94 + arr % 2 ^ 94) * 4 + dsec % 4) * 2 ^ 30 + depNs % 2 ^ 30) * 2 ^ 16 + depFr % 2 ^ 16) * 2 ^ 64 + ad % 2 ^ 64) *
    2 ^ 257 + digest % 2 ^ 128 * 2 ^ 129

/-- The HIT to H bits of a logged record (R396 bits 503 to 496). -/
def evFlags (r : Rec) : Nat :=
  b2n r.hit * 128 + b2n r.tie * 64 + b2n r.vfy * 32 + b2n r.sat * 16 + b2n r.spec * 8 + r.tier % 4 * 2 + r.h % 2

/-- Add ARRIVAL and DEPART to a partial record and send it to the lead die (R394), from another die as a message of two cells.
A die stages up to 64 records (R404); the record of a die that is lost comes from the lead die. -/
def sendEvidence (s : State) (p : EvPart) (arr : Nat) (dep : Option Nat) : State :=
  let r := decRec p.bits
  let sec := fun (t : Nat) => t / 2 ^ 48
  let (dsec, ns, fr, un) := match dep with
    | some t => (min 3 (sec t - sec arr), t / 2 ^ 18 % 2 ^ 30, t / 4 % 2 ^ 16, t / 2 % 2)
    | none => (0, 0x3FFFFFFF, 0, 0)
  let bits := evRecord 1 r.status (evFlags r) (max un (arr / 2 % 2)) (b2n p.forced) p.chan r.gra (arr / 4) dsec ns fr r.ad p.digest
  let d := if gone s p.die then 0 else p.die
  if 64 ≤ (s.evd.inbox.filter fun r => r.die == d).length then loseRecord s 0
  else
    let s := if d = 0 then s else queueMgmt s d 0 7 d 2 (bits * 2 ^ 78)
    { s with evd := { s.evd with inbox := s.evd.inbox ++ [⟨d, bits⟩] } }
where
  /-- A record is lost (R404): counted and recorded; a code above 0 is the reason the log stopped. -/
  loseRecord (s : State) (code : Nat) : State :=
    let s := bump s 0 EVD_LOST.COUNT
    let s := { s with evd := { s.evd with gap := s.evd.gap + 1, lostSince := true } }
    let s := if code = 0 then s else setF (setF s 0 EVD_STS.STOP code) 0 EVD_STS.RUN 0
    let s := raiseErr s 0 pgEvd EVD_ERR.LOST (it1 (getF s 0 EVD_WIDX_LO.INDEX))
    if code = 3 then raiseErr s 0 pgEvd EVD_ERR.TGT_FAIL (it1 (readWord s 0 pgEvd 0 0x84)) else s

/-- Finish every partial record of a request whose answer has departed, or never will. -/
def finishEvidence (s : State) (id arr : Nat) (dep : Option Nat) : State :=
  let ps := s.evd.parts.filter fun p => p.req == id
  let s := { s with evd := { s.evd with parts := s.evd.parts.filter fun p => p.req != id } }
  ps.foldl (fun s p => sendEvidence s p arr dep) s

/-- The request digest of a thread (R394): header, then the PLEN payload bytes of the request area. -/
def reqDigest (th : Thread) : Nat :=
  sha128 (bytesBE 8 th.hdr.toNat ++ bytesBE (min 128 (hdrPlen th.hdr)) (getBE th.slice 0 (8 * min 128 (hdrPlen th.hdr))))

/-! ## Appending (R395 to R398, R402 to R404) -/

/-- The log lies in host memory: TGT, which reads 1 without unit S. -/
def evHost (s : State) : Bool := isF s 0 EVD_CTL.TGT || !s.part.unitS

/-- Records written in the run, and read by the host. -/
def evWidx (s : State) : Nat := getF s 0 EVD_WIDX_HI.INDEX * 2 ^ 32 + getF s 0 EVD_WIDX_LO.INDEX
def evRidx (s : State) : Nat := getF s 0 EVD_RIDX_HI.INDEX * 2 ^ 32 + getF s 0 EVD_RIDX_LO.INDEX

/-- Slots of the two rings; fewer than 16 act as 16 (log 20). -/
def evSize (s : State) : Nat := max 16 (getF s 0 EVD_SIZE.SLOTS)
def evCpSize (s : State) : Nat := max 16 (getF s 0 EVD_CP_SIZE.SLOTS)

/-- Bases of the two rings. -/
def evBase (s : State) : Nat := getF s 0 EVD_BASE_HI.ADDR * 2 ^ 32 + getF s 0 EVD_BASE_LO.ADDR
def evCpBase (s : State) : Nat := getF s 0 EVD_CP_BASE_HI.ADDR * 2 ^ 32 + getF s 0 EVD_CP_BASE_LO.ADDR

/-- Dies whose channels hold the rings: both of a pair in the availability profile, those that serve. -/
def evDies (s : State) : List Nat :=
  let d := getF s 0 EVD_CFG.DIE
  (if avail s then [d / 2 * 2, d / 2 * 2 + 1] else [d]).filter fun e => strUp s e && !gone s e

/-- The target takes records: its channel serves, or fewer than 4,096 uploads wait. -/
def evReady (s : State) : Bool := if evHost s then canMaster s || decide (s.evd.held.length < 4096) else evDies s != []

/-- Write half a bucket of a channel; a bucket whose halves have both been written again is readable. -/
def putHalf (s : State) (addr : Nat) (v : Nat) (d : Nat) : State :=
  let line := addr / 128 % 2 ^ 29
  memWrite s d line (putHalf64 (addr % 128) v (memRead s d line))

/-- Post a write to host memory, or hold it while the device may not issue requests (R366). -/
def evPost (s : State) (addr : Nat) (bytes : List Nat) : State :=
  let p := if isF s 0 EVD_PASID.EN then some (getF s 0 EVD_PASID.PASID) else none
  if canMaster s && s.evd.held == [] then emitOut s (.hostWrite addr p bytes)
  else { s with evd := { s.evd with held := s.evd.held ++ [(addr, p, bytes)] } }

/-- Write 64-byte blocks at an address of the log's target. -/
def evWrite (s : State) (addr : Nat) (blocks : List Nat) : State :=
  if evHost s then evPost s addr (blocks.flatMap (bytesBE 64))
  else blocks.zipIdx.foldl (fun s q => (evDies s).foldl (fun s d => putHalf s (addr + 64 * q.2) q.1 d) s) s

/-- The time now as the lead die's value (R382). -/
def nowStamp (s : State) : Nat := stampOf (counterAt s s.cyc) (leadUnsync s)

/-- A record of types 0x2 to 0x6 (R397): time, ad-word and digest. -/
def evPlain (type time ad digest : Nat) : Nat := evRecord type 0 0 0 0 0 0 (time / 4) 0 0 0 ad digest

/-- A checkpoint falls due (R400). -/
def ckptDue (s : State) : State :=
  if 2 ≤ s.evd.due.length then
    let s := bump s 0 EVD_CP_SKIP.COUNT
    raiseErr s 0 pgEvd EVD_ERR.CP_SKIP (it1 (getF s 0 EVD_WIDX_LO.INDEX))
  else
    let n := evWidx s
    let c : CkptReq := { recIdx := n, head := sha256 ((s.evd.last16.take 16).reverse.flatMap recBytes), first := s.evd.first }
    { s with evd := { s.evd with due := s.evd.due ++ [c], first := false, covered := n } }

/-- Room in the record ring (R403). -/
def evRoom (s : State) : Bool := isF s 0 EVD_CTL.WRAP || decide (evWidx s - evRidx s < evSize s)

/-- Give a record its index and link, write it and advance; the first record of a run links to the last one before it. -/
def putRecord (s : State) (bits : Nat) : State :=
  let n := evWidx s
  let link := match (if n = 0 then s.evd.last16.head? else (s.evd.last16.take 16).getLast?) with
    | some r => sha128 (recBytes r)
    | none => 0
  let r := bits + link * 2
  let s := evWrite s (evBase s + 64 * (n % evSize s)) [r]
  let s := { s with evd := { s.evd with last16 := (r :: (if n = 0 then [] else s.evd.last16)).take 16 } }
  let s := setF (setF s 0 EVD_WIDX_LO.INDEX (n + 1)) 0 EVD_WIDX_HI.INDEX ((n + 1) / 2 ^ 32)
  let s := setF (setF s 0 EVD_STS.STOP 0) 0 EVD_STS.RUN 1
  if (n + 1) % 2 ^ min 24 (max 12 (getF s 0 EVD_CFG.N_LOG2)) = 0 then ckptDue s else s

/-- Append a record, or lose it; after losses a GAP record comes first (R404). -/
def appendRecord (s : State) (bits : Nat) : State :=
  if !evReady s then sendEvidence.loseRecord s (if evHost s then 0 else 3)
  else if !evRoom s then sendEvidence.loseRecord s 2
  else
    let start := evWidx s == 0 && bits / 2 ^ 508 == 2
    let s := if s.evd.gap = 0 || start then s
      else
        let g := s.evd.gap
        putRecord { s with evd := { s.evd with gap := 0 } } (evPlain 5 (nowStamp s) g 0)
    if evRoom s then putRecord s bits else sendEvidence.loseRecord s 2

/-- A discontinuity record (R397): the last time value before the break, and its cause. -/
def discont (s : State) (before cause : Nat) : State :=
  if s.part.unitT && isF s 0 EVD_CTL.EN && !s.evd.enabling then
    appendRecord s (evPlain 4 (nowStamp s) 0 (before % 2 ^ 96 * 2 ^ 32 + cause % 256 * 2 ^ 24))
  else s

end Sys2Proof.Machine
end

