-- ==== Sys2Proof/Machine/SearchOps.lean ====
section
/-!
DEFINITION. Shared operations of the attic search: die sets and depth (R67, R122), issue (R71, R188), ring cells and
cascade frames (R109, R117, R118), the half comparison of pairs (R130), and what follows a package result (R22, R205).
-/

namespace Sys2Proof.Machine

/-! ## Die sets and depth -/

/-- Dies whose bank-set field is not zero (R67), as a mask, in a die's copy of the descriptor. -/
def dieSetOf (s : State) (d p : Nat) : Nat :=
  maskOf ((dies s).filter fun e => getF s d (PART_BANKS.BANKS e) p != 0)

/-- Dies of a mask. -/
def diesOf (s : State) (m : Nat) : List Nat := (dies s).filter fun d => m.testBit d

/-- Highest position of a CASC_MASK (R122); 0x0 acts as 0x1 (R123). -/
def depthOf (mask : Nat) : Nat :=
  if mask.testBit 3 then 3 else if mask.testBit 2 then 2 else if mask.testBit 1 then 1 else 0

/-- Depth of a partition as a search on this package sees it: without unit K there is no cascade. -/
def partDepth (s : State) (d p : Nat) : Nat := if s.part.unitK then depthOf (getF s d PART_CASC.CASC_MASK p) else 0

/-- Self-qualification runs on the die (R485). -/
def testing (s : State) (d : Nat) : Bool := isF s d BSQ_STS.BUSY

/-- No die of the set can search for the share of die `d` (R92): the die is fenced or lost, and in the availability
profile its partner too; in the density profile a die under self-qualification counts as fenced (R485). -/
def uncovered (s : State) (m d : Nat) : Bool :=
  m.testBit d && (if avail s then fenced s d && fenced s (partner d) else fenced s d || testing s d)

/-- The die takes the search's launch slot: a lost, fenced or rejoining member of a pair does not (R130, R133). -/
def launches (s : State) (d : Nat) : Bool :=
  !fenced s d && !testing s d && !(avail s && (pairSt s d == 2 && d % 2 == 1 || pairSt s d == 3 && d % 2 == 0 ||
    pairSt s d == 4 && d % 2 == 1 || pairSt s d == 5 && d % 2 == 0))

/-! ## Ring cells and cascade frames -/

/-- The 318-bit payload of a first search cell (R109). -/
def searchCell (s : State) (x : Search) : Nat :=
  let dest := x.dieSet &&& (255 - 2 ^ x.home)
  let head := ((((((dest * 256 + x.part) * 2 + x.gen) * 4 + x.mode) * 4 + x.width % 4) * 2 + b2n x.fl) * 64 + s.cyc % 64)
  head * 2 ^ 290 + getBE x.key 0 290

/-- The payloads of a search's cells (R109): the first, and the next 318 key bits each. -/
def searchCells (s : State) (x : Search) : List Nat :=
  searchCell s x :: (if x.width = 3 then [getBE x.key 290 318, getBE x.key 608 32 * 2 ^ 286]
    else if x.width = 2 then [getBE x.key 290 318] else [])

/-- A candidate in 107 bits, as result cells and frames carry it. -/
def candBits (x : Option Cand) : Nat :=
  match x with
  | some y => ((((2 ^ 1 + y.h % 2) * 2 ^ 25 + y.gra % 2 ^ 25) * 2 ^ 16 + y.prio % 2 ^ 16) * 2 ^ 64 + y.ad.toNat)
  | none => 0

/-- A half of a result cell (R110), with the dies merged into it. -/
def halfBits (c : Contrib) (pmask : Nat) : Nat :=
  (((((((candBits c.cand * 2 ^ 17 + min 65536 c.count) * 2 ^ 16 + c.bprio % 2 ^ 16) * 4 + c.tien % 4) * 2 + b2n c.vfy) * 2 + b2n c.vfail) * 2 +
    b2n c.dfail) * 2 + b2n c.lost) * 2 ^ 13 + pmask % 256 * 2 ^ 5

/-- The payloads of the result cells of two halves (R110). -/
def resultCells (mode : Nat) (e o : Contrib) (pe po : Nat) : List Nat :=
  (halfBits e pe * 2 ^ 159 + halfBits o po) :: (if mode = 2 then [candBits e.cand2 * 2 ^ 211 + candBits o.cand2 * 2 ^ 52] else [])

/-- A frame with its CRC-32 in the last beat (R116): over bits [255:32] of each beat, most significant byte first (DESIGN
CHOICE, log 83). -/
def frameCrc (beats : List Nat) : Nat := crc32 (beats.flatMap fun b => bytesBE 28 (b / 2 ^ 32 % 2 ^ 224))
def sealFrame (beats : List Nat) : List Nat := beats.dropLast ++ [beats.getLastD 0 + frameCrc beats]

/-- A received frame fails its CRC. -/
def frameBad (beats : List Nat) : Bool := beats.getLastD 0 % 2 ^ 32 != frameCrc beats

/-- The beats of a SEARCH frame (R117), without the CRC. -/
def searchFrame (s : State) (x : Search) : List Nat :=
  let b0 := (((((((1 * 4096 + x.sid % 4096) * 256 + x.part % 256) * 16 + x.cmask % 16) * 4 + x.mode % 4) * 4 + x.width % 4) * 2 + x.gen % 2) * 2 +
    b2n x.fl) * 2 ^ 222 + s.cyc % 64 * 2 ^ 216
  let seg := fun (i : Nat) => getBE x.key (160 * i) 160
  let n := if x.width = 2 then 2 else if x.width = 3 then 4 else 1
  (b0 + (if x.width = 0 then getBE x.key 0 80 * 2 ^ 80 else seg 0) * 2 ^ 32) :: ((List.range n).drop 1).map fun i => seg i * 2 ^ 96

/-- The beats of a CONTRIB frame (R118), without the CRC. -/
def contribFrame (sid mode : Nat) (c : Contrib) : List Nat :=
  let b0 := (((((((((2 * 4096 + sid % 4096) * 2 ^ 107 + candBits c.cand) * 2 ^ 16 + min 65535 c.count) * 2 + b2n (decide (65535 < c.count))) * 2 ^ 16 +
    c.bprio % 2 ^ 16) * 4 + c.tien % 4) * 2 + b2n c.vfy) * 2 + b2n c.vfail) * 2 + b2n c.dfail) * 2 + b2n c.lost
  [(b0 * 2 + b2n (mode == 2)) * 2 ^ 93] ++ (if mode = 2 then [candBits c.cand2 * 2 ^ 149] else [])

/-- A candidate from the 107 bits of a frame. -/
def candOf (v : Nat) : Option Cand :=
  if fld v 106 1 = 1 then some { gra := fld v 80 25, h := fld v 105 1, prio := fld v 64 16, ad := BitVec.ofNat 64 (fld v 0 64) } else none

/-- The contribution that a CONTRIB frame carries: SAT enters the sum as 65,536 (R118). -/
def contribOfFrame (beats : List Nat) : Contrib :=
  let b := beats.headD 0
  { cand := candOf (fld b 133 107)
    cand2 := if fld b 93 1 = 1 then candOf (fld (beats.getD 1 0) 149 107) else none
    count := if fld b 116 1 = 1 then 65536 else fld b 117 16
    bprio := fld b 100 16
    tien := fld b 98 2
    vfy := fld b 97 1 == 1
    vfail := fld b 96 1 == 1
    dfail := fld b 95 1 == 1
    lost := fld b 94 1 == 1 }

/-! ## Issue -/

/-- Change a search in progress. -/
def modSearch (s : State) (sid : Nat) (f : Search → Search) : State :=
  { s with searches := updWhere (fun x => x.sid == sid) f s.searches }

/-- The step entry of an instruction (R206). -/
def entAt (s : State) (d pc : Nat) : Option Nat :=
  (List.range 256).find? fun e => (getEnt s d e).used && (getEnt s d e).addr == pc

/-- A new search of a thread (R188); it launches by SEARCH_LAUNCH. -/
def newSearch (s : State) (d t r mode p depth : Nat) (ao : Bool) (key : Key) (step par : Option Nat) (ra : Bool) : Search :=
  { sid := s.nextId, home := d, thread := t, rno := r, mode := mode, part := p, width := partWidth s d p, gen := 0, key := key,
    fl := partFixed s d p, dieSet := 0, cmask := 0, depth := depth, store := false, cellar := false, srRgn := 0, clRgn := 0, ao := ao, step := step,
    ra := ra, par := par, spec := (getT s d t).spec, launched := none, booked := false, samples := [], contribs := [],
    below := none, lost := false, forced := none, inbound := none }

/-! ## The half comparison (R130) -/

/-- The contribution of a die of a search. -/
def contribAt (x : Search) (d : Nat) : Option Contrib := (x.contribs.find? fun c => c.1 == d).map fun c => c.2

/-- One half: the contributions of its parity's dies, the survivor standing in for the member of a solo pair. -/
def halfOf (s : State) (x : Search) (par : Nat) : Option Contrib :=
  let ds := (diesOf s x.dieSet).filter fun d => d % 2 == par
  let cs := ds.map fun d => match contribAt x d with
    | some c => some c
    | none => if pairSt s d != 1 && pairSt s d != 6 then contribAt x (partner d) else none
  if cs.all fun c => c.isSome then some (mergeAll (cs.filterMap id)) else none

/-- The survivor's parity while a pair of the set is being checked (R133 step 5). -/
def checkingPar (s : State) (x : Search) : Option Nat :=
  ((s.rejoins.filter fun r => x.dieSet.testBit (2 * r.pair) && getF s 0 (PKG_PAIR_STS.PAIR r.pair) == 6).head?).map fun r => r.surv % 2

/-- Candidates of two halves that differ, runner-ups among them, to be re-verified (R130). -/
def differing (a b : Contrib) : List Cand :=
  let ca := a.cand.toList ++ a.cand2.toList
  let cb := b.cand.toList ++ b.cand2.toList
  (ca.filter fun c => !cb.contains c) ++ (cb.filter fun c => !ca.contains c)

/-- The control word of an entry on a die as a search sampled it, or as it stands where the die did not find the entry. -/
def sampledCtrl (s : State) (x : Search) (d : Nat) (c : Cand) : W32 :=
  match x.samples.find? fun y => y.die == d with
  | some y => match (y.first.toList ++ y.second.toList).find? fun h => h.gra == c.gra && h.h == c.h with
    | some h => (h.rows.headD Row.zero).ctrl
    | none => (getRow s d c.gra).ctrl
  | none => (getRow s d c.gra).ctrl

/-- A search whose compare lacks the contributions of a half is recorded (R130). -/
def missHalf (s : State) : State := { s with missed := s.missed + 1 }

/-- The package's own result (R84, R130), with the mismatch recorded and the differing candidates queued. -/
def packageResult (s : State) (x : Search) : State × Contrib :=
  if avail s && x.dieSet != 0 then
    match halfOf s x 0, halfOf s x 1 with
    | some e, some o =>
      let (c, mis) := pairCompare e o
      if mis then
        let s := bump s 0 PKG_PAIR_MIS.MIS
        let s := raiseErr s 0 pgPkg PKG_ERR.PAIR_MIS (it2 (graDie (((differing e o).head?.map fun c => c.gra).getD 0) / 2) (x.sid % 4096))
        let pc := (differing e o).map fun c =>
          ({ pair := graDie c.gra / 2, gra := c.gra, key := x.key, width := x.width, h := c.h,
             ctrlE := sampledCtrl s x (graDie c.gra / 2 * 2) c, ctrlO := sampledCtrl s x (graDie c.gra / 2 * 2 + 1) c } : PairCheck)
        let s := { s with pairChecks := s.pairChecks ++ pc }
        match checkingPar s x with
        | some p => (s, if p = 0 then e else o)
        | none => (s, c)
      else (s, c)
    | some e, none => (missHalf s, e)
    | none, some o => (missHalf s, o)
    | none, none => (missHalf s, { Contrib.none with dfail := true })
  else (s, mergeAll (x.contribs.map fun c => c.2))

/-! ## After the package result -/

/-- Remove a search. -/
def dropSearch (s : State) (sid : Nat) : State := { s with searches := s.searches.filter fun x => x.sid != sid }

/-- Squash the parallel probe of a search (R205): its bucket-cache fills go on. -/
def squashPar (s : State) (x : Search) : State :=
  match x.par with
  | none => s
  | some id =>
    let s := { s with steps := s.steps.filter fun y => y.id != id }
    match x.step with
    | some e => modEnt s x.home e fun y => { y with squash := wrapInc 32 y.squash 1 }
    | none => s

/-- What follows a search's record (R22, R23, R205): the record is delivered, or the next tier is tried on MISS. -/
def afterSearch (s : State) (x : Search) (r : Rec) (r2 : Rec) : State :=
  let s := dropSearch s x.sid
  let ent := if x.ra then x.step else none
  let rec2 := if x.mode = 2 then some (encRec r2) else none
  if r.status = 1 && x.mode = 0 && x.store && !x.ao && decide (x.thread < 384) then
    match x.par with
    | some id =>
      let s := match x.step with
        | some e => modEnt s x.home e fun y => { y with use := wrapInc 32 y.use 1 }
        | none => s
      let s := waitLower s x.home x.thread x.rno
      match s.steps.find? fun y => y.id == id with
      | some y =>
        match y.done with
        | some v =>
          let s := { s with steps := s.steps.filter fun z => z.id != id }
          let q := { decRec v with spec := true }
          if q.status = 1 && x.cellar then issueFetch s x.home x.thread x.rno x.clRgn x.srRgn x.key x.width ent
          else deliverRec s x.home x.thread x.rno q none ent
        | none =>
          let f : SStep → SStep := fun z => { z with par := none, spec := true, next := if x.cellar then some x.clRgn else none }
          { s with steps := updWhere (fun z => z.id == id) f s.steps }
      | none => deliverRec s x.home x.thread x.rno r rec2 ent
    | none =>
      let s := waitLower s x.home x.thread x.rno
      issueStep s x.home x.thread x.rno x.srRgn x.key x.width x.fl none (if x.cellar then some x.clRgn else none) ent 1
  else deliverRec (squashPar s x) x.home x.thread x.rno r rec2 ent

/-- A search that launches nothing completes with a status alone (R92, R123, R124); one that ends in RETRY is counted. -/
def settleSearch (s : State) (x : Search) (st : Nat) : State :=
  let s := if st = 3 && s.part.unitK then bump s 0 CSC_LOST_CNT.LOST else s
  afterSearch s x { status := st } {}

/-- A search that cannot launch in its booked slot ends in RETRY (R64); one from above sends LOST. -/
def missSlot (s : State) (x : Search) : State :=
  if x.inbound.isSome then
    modSearch s x.sid fun _ => { x with launched := some s.cyc, dieSet := 0, samples := [], contribs := [(0, { Contrib.none with lost := true })] }
  else settleSearch s x 3

end Sys2Proof.Machine
end

