-- ==== Sys2Proof/Machine/Recipe.lean ====
section
/-!
DEFINITION. The recipe instructions (R185 to R197), one command each: the command runs the whole next instruction of
thread `t` of die `d` when it is that instruction; and the events of the recipe store and of speculation (R172, R203).
-/

namespace Sys2Proof.Machine

/-- The outcome of every command that has an effect on the state alone. -/
abbrev Result := Host.Outcome State Fault Refusal

/-! ## Slice instructions -/

/-- XTR (R185). -/
def execXtr (d t : Nat) (s : State) : Result :=
  .next (runIns s d t 1 fun s th w =>
    if opnd w 27 1 = 0 then
      let n := opnd w 0 5 + 1
      let a := opnd w 15 12
      reading s d t th (a / 8) ((a + n - 1) / 8 - a / 8 + 1) fun s =>
        finish (setT s d t (putSlice th (1024 + opnd w 5 10) n (readSlice th a n))) d t true
    else
      let n := opnd w 3 6 + 1
      let a := opnd w 18 9
      reading s d t th a n fun s =>
        finish (setT s d t (putSlice th (8 * opnd w 9 9) (8 * n) (readSlice th (8 * a) (8 * n)))) d t true)

/-- LIT (R186). -/
def execLit (d t : Nat) (s : State) : Result :=
  .next (runIns s d t 2 fun s th w =>
    finish (setT s d t (putSlice th (1024 + 4 * opnd w 20 8) (opnd w 16 4 + 1) (opnd w 0 16))) d t true)

/-- HSH (R187). -/
def execHsh (d t : Nat) (s : State) : Result :=
  .next (runIns s d t 3 fun s th w =>
    let p := opnd w 20 8
    let width := partWidth s d p
    let n := widthBits width
    reading s d t th 0x80 (n / 8) fun s =>
      let seeds := if opnd w 19 1 = 0 then srSeeds s d (getF s d PART_REGION.SR_REGION p)
        else crSeeds s d (getF s d PART_REGION.CL_REGION p)
      let k := keyOf th width
      finish (setT s d t (putSlice th (64 * opnd w 10 6) 64 (hashKey seeds.1 k n * 2 ^ 32 + hashKey seeds.2 k n))) d t true)

/-- STAMP (R190). -/
def execStamp (d t : Nat) (s : State) : Result :=
  .next (runIns s d t 7 fun s th w =>
    let v := if opnd w 21 1 = 0 then capture s d s.cyc none else th.arr
    finish (setT s d t (putSlice th (64 * opnd w 22 6) 96 v)) d t true)

/-! ## Searches and lower tiers -/

/-- The thread begins to wait for a record (R214, R216). -/
def waitRecord (s : State) (d t r : Nat) (two : Bool) (st : TState) : State :=
  modT s d t fun th =>
    let th := setPend th r
    let th := if two then setPend th (r + 1) else th
    { th with st := st, wait := .record r, crec := r }

/-- The key builder reads the key (R184, R215). -/
def readingKey (s : State) (d t : Nat) (th : Thread) (p : Nat) (k : State → Key → State) : State :=
  let width := partWidth s d p
  reading s d t th 0x80 (widthBits width / 8) fun s => k s (keyOf th width)

/-- The thread runs ahead of its search on the prediction of a step entry (R202): the predicted record stands in its speculation
area with PEND, a second record of BEST2 is pending as a whole (R214). -/
def runAhead (s : State) (d t e r : Nat) (two : Bool) (th : Thread) (w : W64) : State :=
  let s := modEnt s d e fun y => { y with issue := wrapInc 32 y.issue 1 }
  let q := { decRec (getEnt s d e).pred with pend := true }
  let th := { th with specArea := BitVec.ofNat 2560 (getBE th.slice 1024 2560), spec := true, specRec := r, specWord := w, specEnt := e,
                      crec := r, real := none, real2 := none }
  let th := if two then setPend th (r + 1) else th
  let s := setT s d t (putRec th r (encRec q))
  if insCond w = 3 then modT s d t fun th => { th with st := .waitSearch, wait := .record r }
  else finish s d t (decide (q.status < 2))

/-- The step entry lets the thread run ahead: it is confident, and the thread is not speculating (R202). -/
def mayAhead (s : State) (d : Nat) (th : Thread) (ent : Option Nat) (ra : Bool) : Option Nat :=
  match ent with
  | some e => if ra && !th.spec && 2 ≤ (getEnt s d e).conf then some e else none
  | none => none

/-- SRCH (R188, R202, R205, R208, R92). -/
def execSrch (d t : Nat) (s : State) : Result :=
  .next (runIns s d t 4 fun s th w =>
    let p := opnd w 20 8
    let mode := opnd w 18 2
    let r := opnd w 15 3
    let two := mode == 2
    if reserved th r || (two && reserved th (r + 1)) then faultIns s d t 4 0
    else if mayNotWait th then faultIns s d t 6 0
    else if !partValid s d p then badPart s d t
    else readingKey s d t th p fun s key =>
      let ent := entAt s d th.pc
      let s := consult s d ent
      let ra := opnd w 14 1 == 1 && isF s d SEQ_CTL.RA_EN && ent.isSome
      let sid := s.nextId
      let x := newSearch s d t r mode p (opnd w 10 2) (opnd w 12 1 == 1) key ent none ra
      let s := { s with nextId := s.nextId + 1 }
      if !partFixed s d p && ((diesOf s (dieSetOf s d p)).any fun e => uncovered s (dieSetOf s d p) e) then
        settleSearch (waitRecord s d t r two .waitSearch) x 7
      else if opnd w 13 1 = 1 then
        let s := { s with searches := s.searches ++ [{ x with par := some s.nextId }] }
        let s := match ent with
          | some e => modEnt s d e fun y => { y with issue := wrapInc 32 y.issue 1 }
          | none => s
        waitRecord (issueStep s d t r (getF s d PART_REGION.SR_REGION p) key (partWidth s d p) (partFixed s d p) (some sid) none none 4) d t r two .waitSearch
      else
        let s := { s with searches := s.searches ++ [x] }
        match mayAhead s d th ent ra with
        | some e => runAhead s d t e r two th w
        | none => waitRecord s d t r two .waitSearch)

/-- PROBE (R189, R248). -/
def execProbe (d t : Nat) (s : State) : Result :=
  .next (runIns s d t 5 fun s th w =>
    let p := opnd w 20 8
    let r := opnd w 15 3
    if reserved th r then faultIns s d t 4 0
    else if mayNotWait th then faultIns s d t 6 0
    else if !partValid s d p then badPart s d t
    else readingKey s d t th p fun s key =>
      let s := waitRecord s d t r false .waitMem
      let s := modT s d t fun th => { th with bounded := true }
      issueStep s d t r (getF s d PART_REGION.SR_REGION p) key (partWidth s d p) (partFixed s d p) none none none 0)

/-- CFETCH (R189, R257). -/
def execCfetch (d t : Nat) (s : State) : Result :=
  .next (runIns s d t 6 fun s th w =>
    let p := opnd w 20 8
    let r := opnd w 15 3
    if reserved th r then faultThread s d t 4 0
    else if mayNotWait th then faultThread s d t 6 0
    else if !partValid s d p then recipeError s d t 3
    else readingKey s d t th p fun s key =>
      issueFetch (waitRecord s d t r false .waitMem) d t r (getF s d PART_REGION.CL_REGION p) (getF s d PART_REGION.SR_REGION p) key (partWidth s d p) none)

/-! ## LOG -/

/-- The thread whose response a thread's records follow: its own, or its parent's (R191). -/
def answering (s : State) (d : Nat) (th : Thread) : Thread := if th.child then getT s d th.parent else th

/-- LOG (R191, R394, R404). -/
def execLog (d t : Nat) (s : State) : Result :=
  .next (runIns s d t 8 fun s th w =>
    let force := opnd w 24 1 == 1
    let r := opnd w 25 3
    if th.golden || !(hdrLog th.hdr || force) || !s.part.unitT then finish s d t false
    else reading s d t th (0x100 + 32 * min r 5) (if r = 7 then 0 else 32) fun s =>
      let a := answering s d th
      let bits := if r = 7 then th.respBits.getD 0 else recOf th (min r 5)
      let p : EvPart := { die := d, req := a.req.getD 0, forced := force && !hdrLog th.hdr, bits := bits, useResp := r == 7, chan := th.chan, digest := reqDigest a }
      if !isF s 0 EVD_CTL.EN then finish (bump s 0 EVD_OFF.COUNT) d t true
      else
        match a.dep with
        | some dep => finish (sendEvidence s p a.arr dep) d t true
        | none => finish { s with evd := { s.evd with parts := s.evd.parts ++ [p] } } d t true)

/-! ## Children -/

/-- Lowest free child index (R192). -/
def freeKid (th : Thread) : Option Nat := (List.range 7).find? fun i => !(th.kids.any fun k => k.idx == i)

/-- A FORK may take a thread (R218). -/
def forkRoom (s : State) (d : Nat) : Bool := decide (outReserve s d + 1 ≤ freeThreads s d)

/-- Start a child (R192, R221). -/
def startChild (s : State) (d p target rrec : Nat) : State :=
  let th := getT s d p
  match freeKid th, lowestFree s d with
  | some i, some c =>
    let scratch := readSlice th (8 * 0x1C0) 512
    let child : Thread :=
      { Thread.zero with
        st := .ready, pc := target, hdr := th.hdr, chan := th.chan, group := th.group, child := true, parent := p,
        kidIdx := i, rrec := rrec, slice := setBE 0 (8 * 0x1C0) 512 scratch, arr := th.arr, golden := th.golden,
        readyAt := max th.readyAt (s.cyc + 1) }
    let s := setT s d c child
    modT s d p fun th => { th with kids := th.kids ++ [{ idx := i, thread := c, rrec := rrec, ended := false, faulted := false }] }
  | _, _ => s

/-- FORK (R192, R218, R221). -/
def execFork (d t : Nat) (s : State) : Result :=
  .next (runIns s d t 9 fun s th w =>
    let target := opnd w 14 14
    let rrec := opnd w 10 3
    if (freeKid th).isNone then finish s d t false
    else if forkRoom s d && (lowestFree s d).isSome && mget [] s.forkWait d == [] then
      reading s d t th 0x1C0 64 fun s => finish (startChild s d t target rrec) d t true
    else if opnd w 13 1 = 1 && getF s d THR_FORK_TMO.TMO != 0 then
      if mayNotWait th then faultThread s d t 6 0
      else reading s d t th 0x1C0 64 fun s =>
        let s := modT s d t fun th => { th with st := .waitJoin, wait := .fork target rrec s.cyc }
        { s with forkWait := mmod [] s.forkWait d fun l => l ++ [t] }
    else finish s d t false)

/-- JOIN (R193). -/
def execJoin (d t : Nat) (s : State) : Result :=
  .next (runIns s d t 10 fun s th w =>
    let mask := opnd w 21 7
    if ((th.kids.filter (covered mask)).any fun k => !k.ended) && mayNotWait th then faultThread s d t 6 0
    else parentCheck (setT s d t { th with st := .waitJoin, wait := .join mask (opnd w 18 3) }) d t)

/-! ## Event channels -/

/-- An event channel. -/
def getCh (s : State) (d c : Nat) : EvChan := mget EvChan.zero s.evch (d * 32 + c)
/-- Change an event channel. -/
def modCh (s : State) (d c : Nat) (f : EvChan → EvChan) : State := { s with evch := mmod EvChan.zero s.evch (d * 32 + c) f }

/-- The words of a message at slice byte offset `a`. -/
def sliceWords (th : Thread) (a n : Nat) : List Nat := (List.range n).map fun i => readSlice th (8 * a + 64 * i) 64

/-- Write a message's words from a slice byte offset on; the bytes after them stay (R222). -/
def putWords (th : Thread) (a : Nat) (ws : List Nat) : Thread :=
  (ws.zipIdx).foldl (fun th q => putSlice th (8 * a + 64 * q.2) 64 q.1) th

/-- SEND (R194, R222). -/
def execSend (d t : Nat) (s : State) : Result :=
  .next (runIns s d t 11 fun s th w =>
    let ch := opnd w 23 5
    let n := opnd w 21 2 + 1
    let a := 8 * opnd w 15 6
    let e := getCh s d ch
    let blocked := e.holder.isSome || e.senders != [] || decide (8 ≤ e.queue.length)
    if th.golden then finish s d t false
    else if 0 < th.link || (th.lock && blocked) then faultThread s d t 6 0
    else
      reading s d t th a (8 * n) fun s =>
        let ws := sliceWords th a n
        if blocked then
          let s := modCh s d ch fun e => { e with senders := e.senders ++ [t] }
          setT s d t { th with st := .waitEvent, wait := .send ch ws s.cyc }
        else
          let s := modCh s d ch fun e => { e with holder := some t, staged := ws }
          setT s d t { th with st := .run, wait := .send ch ws s.cyc })

/-- WAITE (R194, R222). -/
def execWaite (d t : Nat) (s : State) : Result :=
  .next (runIns s d t 12 fun s th w =>
    let ch := opnd w 23 5
    let dst := 8 * opnd w 17 6
    if 0 < th.link then faultThread s d t 6 0
    else
      match (getCh s d ch).queue with
      | m :: rest =>
        let s := restartWindow (modCh s d ch fun e => { e with queue := rest }) d
        finish (setT s d t (putWords th dst m)) d t true
      | [] =>
        if th.lock then faultThread s d t 6 0
        else
          let s := modCh s d ch fun e => { e with waiters := e.waiters ++ [t] }
          setT s d t { th with st := .waitEvent, wait := .waite ch dst s.cyc })

/-! ## COMMIT, EMIT, TRAP, END -/

/-- Another thread's linked sequence is open on the die (R195). -/
def sequenceOpen (s : State) (d t : Nat) : Bool := (threadsOf s d).any fun p => p.1 != t && decide (0 < p.2.link)

/-- Close the thread's linked sequence: its commands stand on their own from now on. -/
def closeLink (s : State) (d t : Nat) : State :=
  let f : UCmd → UCmd := fun c => { c with linked := false }
  { s with cmds := updWhere (fun c => c.linked && c.origin == .commit d t) f s.cmds }

/-- The slice byte address of the update entry that a COMMIT names. -/
def commitArea (w : W64) : Nat :=
  match opnd w 26 2 with
  | 0 => 0x80
  | 1 => 0xC0
  | _ => 0x1C0

/-- COMMIT (R195, R226). A refused one posts no command and is no entry of a sequence; with LINK = 0 it closes the open one (DEDUCED,
log 96). While another thread's sequence is open, the die accepts none and the thread stays READY. -/
def execCommit (d t : Nat) (s : State) : Result :=
  .next (if sequenceOpen s d t then s else runIns s d t 13 fun s th w =>
    let a := commitArea w
    let waitc := opnd w 25 1 == 1
    let link := opnd w 24 1 == 1
    let r := opnd w 21 3
    if waitc && (link || th.lock) then faultThread s d t 6 0
    else if waitc && reserved th r then faultThread s d t 4 0
    else
      reading s d t th a 64 fun s =>
        let e : BitVec 512 := BitVec.ofNat 512 (readSlice th (8 * a) 512)
        if th.golden then finish s d t false
        else if !isF s d UPD_CTL.COMMIT_EN || !isF s d UPD_CTL.EN then
          let (w0, w1, w2, w3) := cplWords 2 (ceOp e) (ceTag e) (ceGra e) 0 0 0
          let th := if link then th else { th with link := 0 }
          let s := if link then s else closeLink s d t
          finish (setT s d t (if waitc then putRec th r (cplRec w0 w1 w2 w3) else th)) d t false
        else
          let still := link && decide (th.link + 1 < 4)
          let id := s.nextId
          let s := sendCmd s d 0x49 (.commit d t) e still
          let s := if still then s else closeLink s d t
          let s := setT s d t { th with link := if still then th.link + 1 else 0 }
          if waitc then modT s d t fun th => { th with st := .waitMem, wait := .commit id r }
          else finish s d t true)

/-- Write a record of a parent from its child: into its slice and, while it speculates, its speculation area. -/
def putRecBoth (th : Thread) (r : Nat) (x : BitVec 256) : Thread :=
  let th := { th with slice := setBE th.slice (recBit r) 256 x.toNat }
  if th.spec then putRec th r x else th

/-- EMIT (R196, R234, R269, R321). -/
def execEmit (d t : Nat) (s : State) : Result :=
  .next (runIns s d t 14 fun s th w =>
    let r := opnd w 25 3
    let sts := opnd w 20 4
    let two := opnd w 24 1 == 1 && sts == 15
    reading s d t th (0x100 + 32 * r) (if two then 64 else 32) fun s =>
      let own := recOf th r
      let x := if sts = 15 then own else encRec { status := sts }
      let st := (decRec x).status
      if th.child then finish (modT s d th.parent fun p => putRecBoth p th.rrec x) d t true
      else if th.deferred then
        if mayNotWait th then faultThread s d t 6 0
        else
        let s := setT s d t { th with deferred := false, st := .waitMem, wait := .notice }
        pushNotice s d th.chan (hdrTag th.hdr) (hdrRecipe th.hdr) st two false x (if two then recOf th (r + 1) else 0) (some t)
      else if th.sent then
        if th.aborted then finish (bump s d DBG_LATE_EMIT.COUNT) d t true else faultThread s d t 5 0
      else
        let s := formResp s d t { status := st, rec1 := x, rec2 := if two then some (recOf th (r + 1)) else none, wr := none, deferred := false }
        finish s d t true)

/-- TRAP (R197). -/
def execTrap (d t : Nat) (s : State) : Result :=
  .next (runIns s d t 15 fun s _ w => faultThread s d t 1 (opnd w 20 8))

/-- END (R197, R270). -/
def execEnd (d t : Nat) (s : State) : Result :=
  .next (runIns s d t 16 fun s th _ =>
    if th.child then childEnd s d t false
    else if th.kids.any fun k => !k.ended then
      if mayNotWait th then faultThread s d t 6 0
      else setT s d t { th with st := .waitJoin, wait := .kids }
    else endTop s d t)

/-! ## Reserved opcodes, restored words, speculation -/

/-- A reserved opcode (R176). -/
def reservedOp (op : Nat) : Bool := op == 0 || decide (0x10 < op)

/-- UNUSED_OPCODE_FETCH (R176): the manual gives such a word no effect, so the machine stops when one is reached. -/
def execUnusedOpcodeFetch (d t : Nat) (s : State) : Result :=
  if canRun s d t then
    match (recipeFetch s d (getT s d t).pc).data? with
    | some w => if reservedOp (insOp (BitVec.ofNat 64 w)) then .fault .reservedOpcode else .next s
    | none => .next s
  else .next s

/-- Dies in the order a restore asks them: the next die first, wrapping (R172). -/
def restoreOrder (s : State) (d : Nat) : List Nat :=
  ((List.range s.part.dieCnt).drop 1).map fun i => (d + i) % s.part.dieCnt

/-- Restore an uncorrectable recipe word from the first die that holds it readable (R172). -/
def restoreWord (s : State) (d a : Nat) : State :=
  match recipeFetch s d a with
  | .bad =>
    match ((restoreOrder s d).filter fun e => !fenced s e).findSome? fun e => (recipeFetch s e a).data? with
    | some v => { s with recipe := mset ⟨0, 0⟩ s.recipe (d * 16384 + a % 16384) ⟨BitVec.ofNat 64 v, BitVec.ofNat 8 (secField 64 7 v)⟩ }
    | none => s
  | _ => s

/-- RECIPE_WORD_RESTORE (R172). -/
def execRecipeWordRestore (d addr : Nat) (s : State) : Result := .next (restoreWord s d addr)

/-- Results of searches, steps and fetches issued while speculating are discarded as they arrive (R203). -/
def dropSpeculative (s : State) (d t : Nat) : State :=
  let f : Search → Search := fun x => { x with thread := 512 }
  let g : SStep → SStep := fun x => { x with thread := 512, squashed := true }
  let h : CFetch → CFetch := fun x => { x with thread := 512 }
  { s with searches := updWhere (fun x => x.home == d && x.thread == t) f s.searches
           steps := updWhere (fun x => x.die == d && x.thread == t) g s.steps
           fetches := updWhere (fun x => x.die == d && x.thread == t) h s.fetches }

/-- The slice with the real result of the RUN-AHEAD search in its record, and in the next one in mode BEST2. -/
def putReal (th : Thread) (r : Nat) (x : Rec) (x2 : Option (BitVec 256)) : Thread :=
  let th := putRec th r (encRec x)
  match x2 with
  | some y => putRec th (r + 1) y
  | none => th

/-- What the confirmed thread does next: an instruction that waited for the resolution can run again, a test that waited for the
record is made, and a cellar step that was put off starts. -/
def resumeConfirmed (s : State) (d t : Nat) (th2 : Thread) (word : W64) (r : Nat) (ok : Bool) (held : Option Held) : State :=
  match th2.wait with
  | .resolve => setT s d t (again s.cyc th2)
  | .record q =>
    if q = r then finish (setT s d t { th2 with word := word }) d t ok
    else match held with
      | some h => startFetch (setT s d t th2) d t h.rno h.region h.srRgn h.key h.width h.ent
      | none => setT s d t th2
  | _ => setT s d t th2

/-- SPECULATION_RESOLVE (R203): confirmed when the real match fields equal the predicted ones, otherwise squashed. -/
def execSpeculationResolve (d t : Nat) (s : State) : Result :=
  .next (
    let th := getT s d t
    match th.real with
    | none => s
    | some v =>
      if !th.spec then s
      else
        let real := decRec v
        let pred := decRec (recOf th th.specRec)
        let ok := decide (real.status < 2)
        if encRec (matchFields real) = encRec (matchFields pred) then
          let s := modEnt s d th.specEnt fun y => { y with use := wrapInc 32 y.use 1 }
          let th2 := { th with slice := sliceView th, unc := moveBits th.unc, cor := moveBits th.cor, spec := false, real := none, real2 := none, held := none }
          resumeConfirmed s d t (putReal th2 th.specRec { real with spec := true, pend := false } th.real2) th.specWord th.specRec ok th.held
        else
          let s := modEnt s d th.specEnt fun y => { y with squash := wrapInc 32 y.squash 1 }
          let s := dropSpeculative s d t
          let th2 := { th with unc := dropArea th.unc, cor := dropArea th.cor, spec := false, real := none, real2 := none, held := none, readyAt := s.cyc + 4 }
          let th2 := putReal th2 th.specRec { real with spec := false, pend := false } th.real2
          finish (setT s d t { th2 with crec := th.specRec, word := th.specWord }) d t ok)
where
  /-- The area's error bits become those of the slice words it replaces; the context's bit stays. -/
  moveBits (m : Nat) : Nat :=
    m % 2 ^ 16 + m / 2 ^ 64 % 2 ^ 40 * 2 ^ 16 + m / 2 ^ 56 % 2 ^ 8 * 2 ^ 56 + m / 2 ^ 104 % 2 * 2 ^ 104
  /-- The area's error bits are discarded with it. -/
  dropArea (m : Nat) : Nat := m % 2 ^ 64 + m / 2 ^ 104 % 2 * 2 ^ 104

end Sys2Proof.Machine
end

