-- ==== Sys2Proof/Machine/ArbOps.lean ====
section
/-!
DEFINITION. Shared operations of arbitration: slot tables and positions (R333 to R335), blanking (R98, R101, R128)
and the conditions of locks and bookings (R339, R343).
-/

namespace Sys2Proof.Machine

/-- CS cycles per slot of an instance (R334): attic, memory channel, ring injection, PCIe master. -/
def slotCyc (inst : Nat) : Nat := if inst = 0 then 1 else if inst = 3 then 4 else 2

/-- Lock caps (R334), in slots. -/
def lockCap (inst : Nat) : Nat := if inst = 0 then 8 else if inst = 1 then 32 else if inst = 2 then 4 else 16

/-- Owner codes of an instance (R335): codes below this number are valid. -/
def ownerCount (inst : Nat) : Nat := if inst = 0 then 0x17 else if inst = 1 then 9 else if inst = 2 then 3 else 5

/-- Keys of the cascade's link values: credits (0 U, 1 D), the round's base, GMIN plus 1, pending lane maps plus 1
(4 U, 5 D), beats of unknown type (6, 7), failed retrains (8, 9), proposals that wait for a confirmation (10, 11), best-effort
beats freed since the last control beat (12, 13). -/
def lkCredit (port : Nat) : Nat := port
def lkBase : Nat := 2
def lkGmin : Nat := 3
def lkPend (port : Nat) : Nat := 4 + port
def lkBad (port : Nat) : Nat := 6 + port
def lkFails (port : Nat) : Nat := 8 + port
def lkWait (port : Nat) : Nat := 10 + port
def lkFreed (port : Nat) : Nat := 12 + port

/-- Position of the slot of a CS cycle (R333); on a package below the head attic rounds follow the MARK beats (R121). -/
def posAt (s : State) (inst c : Nat) : Nat :=
  if inst = 0 && cascPos s != 0 then (c + 64 - mget 0 s.link lkBase % 64) % 64 else c / slotCyc inst % 64

/-- Key of a position of an active slot table; the value is 0 for unreserved, else the owner plus 1. -/
def arbKey (d inst pos : Nat) : Nat := (d * 4 + inst) * 64 + pos % 64

/-- An entry of an active slot table. -/
def slotOf (s : State) (d inst pos : Nat) : Nat := mget 0 s.slots (arbKey d inst pos)

/-- An entry of the shadow table (R347). -/
def shadowOf (s : State) (d inst pos : Nat) : Nat :=
  if isF s d (ARB_SLOT.RES pos) inst then getF s d (ARB_SLOT.OWNER pos) inst + 1 else 0

/-- A thread group is guaranteed on a die (THR_GRP_CFG.CLASS). -/
def groupGuar (s : State) (d g : Nat) : Bool := isF s d (THR_GRP_CFG.CLASS g)

/-! ## Blanking (R98) -/

/-- Category of an attic table entry: 1 unreserved to 5. -/
def slotCat (s : State) (d v : Nat) : Nat :=
  if v = 0 then 1
  else
    let o := v - 1
    if o < 16 then (if groupGuar s d o then 5 else 2) else if o = 0x10 then 4 else if o = 0x13 then 5 else 3

/-- Entries of a category with their numbers of slots, in ascending order of owner code. -/
def catOwners (s : State) (d cat : Nat) : List (Nat × Nat) :=
  ((List.range 32).map fun v => (v, ((List.range 64).filter fun p => slotOf s d 0 p == v).length)).filter fun q =>
    slotCat s d q.1 == cat && decide (0 < q.2)

/-- One pass: one more slot from every owner that keeps more than `floor`, while slots remain to be taken. -/
def takePass (floor : Nat) : Nat → List (Nat × Nat × Nat) → Nat × List (Nat × Nat × Nat)
  | n, [] => (n, [])
  | n, (v, have_, took) :: l =>
    if 0 < n ∧ floor < have_ - took then
      let (m, r) := takePass floor (n - 1) l
      (m, (v, have_, took + 1) :: r)
    else
      let (m, r) := takePass floor n l
      (m, (v, have_, took) :: r)

/-- Passes until the count is reached or nobody keeps more than the floor. -/
def takePasses (floor : Nat) : Nat → Nat → List (Nat × Nat × Nat) → Nat × List (Nat × Nat × Nat)
  | 0, n, l => (n, l)
  | fuel + 1, n, l =>
    let (m, r) := takePass floor n l
    if m = 0 ∨ m = n then (m, r) else takePasses floor fuel m r

/-- Slots that each owner of a category loses when `n` are taken (R98). -/
def takeFrom (owners : List (Nat × Nat)) (n : Nat) : List (Nat × Nat) :=
  let total := sumL (owners.map fun q => q.2)
  if total ≤ n then owners
  else
    let l := owners.map fun q => (q.1, q.2, n * q.2 / total)
    let (m, l) := takePasses 1 64 (n - sumL (l.map fun q => q.2.2)) l
    let (_, l) := takePasses 0 64 m l
    l.map fun q => (q.1, q.2.2)

/-- The lowest positions of each owner's reservation. -/
def takePositions (s : State) (d : Nat) (taken : List (Nat × Nat)) : List Nat :=
  taken.flatMap fun q => ((List.range 64).filter fun p => slotOf s d 0 p == q.1).take q.2

/-- Slots of a category that may be blanked: the update engine keeps one. -/
def catRoom (s : State) (d cat : Nat) : Nat :=
  let n := sumL ((catOwners s d cat).map fun q => q.2)
  if cat = 4 then n - 1 else n

/-- Positions blanked for a background count and a count that may reach category 5. -/
def blankPositions (s : State) (d n5 n : Nat) : List Nat :=
  let r1 := catRoom s d 1
  let r2 := catRoom s d 2
  let r3 := catRoom s d 3
  let r4 := catRoom s d 4
  let r5 := catRoom s d 5
  let m := max n n5
  let bg := min m (r1 + r2 + r3 + r4)
  let g := min r5 (n5 - bg)
  let of := fun (cat k : Nat) => takePositions s d (takeFrom (catOwners s d cat) k)
  of 1 (min r1 bg) ++ of 2 (min r2 (bg - r1)) ++ of 3 (min r3 (bg - r1 - r2)) ++ of 4 (min r4 (bg - r1 - r2 - r3)) ++ of 5 g

/-- Counts in force on a die in a CS cycle (R101): background and with category 5. -/
def blankIn (s : State) (d c : Nat) : Nat × Nat :=
  let b := mget Blank.zero s.blank d
  if b.at_ ≤ c then (b.nxt, b.nxtG) else (b.cur, b.curG)

/-- Positions blanked on a die in a CS cycle: a pair takes the larger count (R128). -/
def blankedIn (s : State) (d c : Nat) : List Nat :=
  let a := blankIn s d c
  let b := if paired s d then blankIn s (partner d) c else a
  blankPositions s d (max a.2 b.2) (max a.1 b.1)

/-- Category 5 slots of a die's table, and those not blanked in the current round (ATC_GSLOT): none while it is fenced (log 85). -/
def gReserved (s : State) (d : Nat) : List Nat := (List.range 64).filter fun p => slotCat s d (slotOf s d 0 p) == 5
def gKept (s : State) (d : Nat) : Nat :=
  if isF s d ATC_THROTTLE.FENCED then 0 else ((gReserved s d).filter fun p => !(blankedIn s d s.cyc).contains p).length

/-- Begin a change of blanking: it takes effect at the start of the die's next round (R101). -/
def setBlank (s : State) (d n n5 : Nat) : State :=
  let c := blankIn s d s.cyc
  let at_ := s.cyc + 64 - posAt s 0 s.cyc
  { s with blank := mset Blank.zero s.blank d { cur := c.1, nxt := n, at_ := at_, curG := c.2, nxtG := n5 } }

/-! ## Locks and bookings -/

/-- A granted lock covers the CS cycle. -/
def lockAt (s : State) (d inst c : Nat) : Option Lock :=
  s.locks.find? fun l => l.die == d && l.inst == inst && decide (l.start ≤ c ∧ c < l.start + l.len)

/-- A booking of the die's attic port in the CS cycle. -/
def bookAt (s : State) (d c : Nat) : Option Book := s.books.find? fun b => b.die == d && b.cyc == c

/-- Drop grants, spans, bookings, locks, issue bookings and express cells of cycles gone by. -/
def pruneSlots (s : State) : State :=
  { s with grants := s.grants.filter fun g => decide (s.cyc ≤ g.cyc)
           spans := s.spans.filter fun e => decide (s.cyc ≤ e.2.2.2)
           books := s.books.filter fun b => decide (s.cyc ≤ b.cyc)
           locks := s.locks.filter fun l => decide (s.cyc < l.start + l.len)
           issues := s.issues.filter fun i => decide (cq s ≤ i.cyc)
           express := s.express.filter fun e => decide (cq s < e.2.1 + 8) }

/-- Mark the attic slots of this cycle as settled on the dies (R73, R95). -/
def settleSlots (s : State) (ds : List Nat) : State :=
  { s with settled := ds.foldl (fun m d => mset 0 m (4 * d) (s.cyc + 1)) s.settled }

/-- Use a slot granted to an owner in this cycle; none when it holds none. -/
def useGrant (s : State) (d inst o : Nat) : Option State :=
  let mine := fun (g : Grant) => g.die == d && g.inst == inst && g.cyc == s.cyc && g.owner == o
  if s.grants.any mine then some { s with grants := rmFirst mine s.grants } else none

/-- Use `n` successive slots of an owner from this cycle on: more than one come as a locked sequence granted in this cycle
(R339, R340); none when it holds none. -/
def useLock (s : State) (d inst o n : Nat) : Option State :=
  if n ≤ 1 || (match lockAt s d inst s.cyc with
    | some l => l.owner == o && l.start == s.cyc && decide (n * slotCyc inst ≤ l.len)
    | none => false) then useGrant s d inst o
  else none

end Sys2Proof.Machine
end

