-- ==== Sys2Proof/Machine/Arbiter.lean ====
section
/-!
DEFINITION. The arbiters' commands (R336 to R340, R347, R348): settling a slot, committing a slot table, the switch to
it, and the counter selector.
-/

namespace Sys2Proof.Machine

/-- A participant that loses (R337, R338): its AGE rises until its level is 15; 64 rounds at level 15 set STARVE. -/
def loseContest (s : State) (d inst o : Nat) : State :=
  let k := okey d inst o
  let s := raiseAge s d inst o
  let run := satInc 16 (mget 0 s.arbWait (4 * k)) 1
  let w := mset 0 (mset 0 s.arbWait (4 * k) run) (4 * k + 1) (max run (mget 0 s.arbWait (4 * k + 1)))
  let since := mget 0 w (4 * k + 2)
  if levelOf s d inst o < 15 then { s with arbWait := mset 0 w (4 * k + 2) 0 }
  else if since = 0 then { s with arbWait := mset 0 w (4 * k + 2) (s.cyc + 1) }
  else if since - 1 + 64 * 64 * slotCyc inst ≤ s.cyc then
    raiseErr { s with arbWait := mset 0 w (4 * k + 2) (s.cyc + 1) } d pgArb ARB_ERR.STARVE (it2 inst o)
  else { s with arbWait := w }

/-- A requester's AGE and run of losses begin again. -/
def clearAge (s : State) (d inst o : Nat) : State :=
  let k := okey d inst o
  { resetAge s d inst o with arbWait := mset 0 (mset 0 s.arbWait (4 * k) 0) (4 * k + 2) 0 }

/-- Count a granted slot. -/
def countGrant (s : State) (d inst o : Nat) : State :=
  { s with arbGrants := mmod 0 s.arbGrants (okey d inst o) fun v => wrapInc 32 v 1 }

/-- Give the slot to an owner, which no longer waits at level 15 without winning (R338). -/
def giveSlot (s : State) (d inst o : Nat) : State :=
  countGrant { s with grants := s.grants ++ [{ die := d, inst := inst, cyc := s.cyc, owner := o }]
                      arbWait := mset 0 s.arbWait (4 * okey d inst o + 2) 0 } d inst o

/-- Requesters that mark locked sequences (R340). -/
def mayLock (inst o : Nat) : Bool :=
  match inst with
  | 0 => o == 0x11 || o == 0x12 || o == 0x15
  | 1 => o == 2 || o == 3
  | 2 => o == 2
  | _ => o == 0 || o == 2

/-- The slots of a locked sequence are free of bookings, blanking and reservations to code 0x13 (R339). -/
def lockFits (s : State) (d inst n : Nat) : Bool :=
  (List.range n).all fun i =>
    let c := s.cyc + i * slotCyc inst
    inst != 0 || ((bookAt s d c).isNone && !(blankedIn s d c).contains (posAt s 0 c) &&
      !(cascPos s != 0 && slotOf s d 0 (posAt s 0 c) == 0x14))

/-- The fetch whose request to the lead die is the die's oldest management message that waits (R257, R518). -/
def oldestRequest (s : State) (d : Nat) : Option CFetch :=
  ((s.ringQ.find? fun c => c.src == d && c.cls == 5 && c.id != 0).bind fun c =>
    if c.id % 32 = 6 then s.fetches.find? fun f => f.die == d && mgmtId 6 (2 * f.id) == c.id else none)

/-- The thread whose instruction issued the locked sequence holds the lock (R340): a cellar fetch request from another die. -/
def lockThread (s : State) (d inst o : Nat) : State :=
  match (if inst = 2 && o = 2 then oldestRequest s d else none) with
  | some f => if f.thread < 384 then modT s d f.thread fun th => { th with lock := true } else s
  | none => s

/-- Grant a locked sequence of the declared length, cut at the cap (R339). -/
def grantLock (s : State) (d inst o n : Nat) : State :=
  let m := min n (lockCap inst)
  let s := lockThread s d inst o
  let s := { s with locks := s.locks ++ [{ die := d, inst := inst, owner := o, start := s.cyc, len := m * slotCyc inst, lines := [] }] }
  if lockCap inst < n then raiseErr (bumpSat s d ARB_LOCK.CUT 1 inst) d pgArb ARB_ERR.LOCK_CUT (it2 inst o) else s

/-- The grant of several slots whose break point this cycle is. -/
def spanEnd (s : State) (d inst : Nat) : Option (Nat × Nat × Nat × Nat) :=
  s.spans.find? fun e => e.1 == d && e.2.1 == inst && e.2.2.2 == s.cyc

/-- The slot lies inside a grant of several slots, after its first. -/
def inSpan (s : State) (d inst : Nat) : Bool :=
  s.spans.any fun e => e.1 == d && e.2.1 == inst && decide (e.2.2.1 < s.cyc ∧ s.cyc < e.2.2.2)

/-- Table entries that line 4 tests: that of the slot, then those of the slots passed over since the last break point. -/
def lineFour (s : State) (d inst : Nat) : List Nat :=
  slotOf s d inst (posAt s inst s.cyc) :: match spanEnd s d inst with
    | some e => ((List.range ((e.2.2.2 - e.2.2.1) / slotCyc inst)).drop 1).map fun k => slotOf s d inst (posAt s inst (e.2.2.1 + k * slotCyc inst))
    | none => []

/-- Settle a slot by lines 4 to 6 of R336 among the owners that are ready; `lockOwner` declares a locked sequence of
`n` slots if it wins, and loses the contest when the lock does not fit. -/
def settleOpen (s : State) (d inst : Nat) (ready : List Nat) (lockOwner n : Nat) (fuel : Nat) : State :=
  match fuel with
  | 0 => s
  | fuel + 1 =>
    let mine := ((lineFour s d inst).find? fun v => v != 0 && ready.contains (v - 1)).map fun v => v - 1
    let won := match mine with
      | some o => some o
      | none => contestWinner s d inst ready
    match won with
    | none => s
    | some o =>
      let locks := o == lockOwner && decide (1 < n) && mayLock inst o
      if locks && !lockFits s d inst (min n (lockCap inst)) then
        settleOpen (loseContest s d inst o) d inst (ready.filter fun x => x != o) lockOwner n fuel
      else
        let s := if mine.isSome then s else
          (ready.filter fun x => x != o).foldl (fun s x => loseContest s d inst x) (clearAge s d inst o)
        let s := giveSlot s d inst o
        if locks then grantLock s d inst o n else s

/-- A background cell of the owner waits on the die: owners 0, 1 and 2 of the ring are the classes 3, 4 and 5. -/
def cellWaits (d o : Nat) (c : RCell) : Bool := c.src == d && c.cls == 3 + o

/-- A fill whose read the memory arbiter has yet to grant: one behind a drain of its line waits for that (R292), and one of a line
that a lock names waits unless its step is fixed-latency (R341). -/
def fillWaits (s : State) (d : Nat) (fixed : Bool) (f : Fill) : Bool :=
  f.die == d && f.fixed == fixed && !f.granted && !(f.held && s.mbuf.any fun e => e.die == d && e.line == f.line && e.draining) &&
  (fixed || !lockedLine s d f.line)

/-- A draining entry whose write the memory arbiter has yet to grant: the oldest of its line (R289), unless a lock names it. -/
def drainWaits (s : State) (d : Nat) (e : MEntry) : Bool :=
  e.die == d && e.draining && !e.granted && !lockedLine s d e.line &&
  ((s.mbuf.find? fun x => x.die == d && x.line == e.line).map fun x => x.id) == some e.id

/-- The memory request of an owner that the model holds is ready (R335); those of the other owners are the sender's. -/
def memReady (s : State) (d o : Nat) : Bool :=
  match o with
  | 0 => s.fills.any (fillWaits s d true)
  | 1 => s.fills.any (fillWaits s d false)
  | 2 => s.mbuf.any (drainWaits s d)
  | 3 => s.promos.any fun p => p.die == d
  | _ => true

/-- The owners with a request ready: on the ring, those with a cell in the queue; on a memory channel, those of `memReady`. -/
def readyOwners (s : State) (d inst ready : Nat) : List Nat :=
  (List.range (ownerCount inst)).filter fun o => ready.testBit o &&
    (inst != 2 || s.ringQ.any (cellWaits d o)) && (inst != 1 || memReady s d o)

/-- The lock that the memory arbiter granted in this cycle names a bucket (R341). -/
def nameLine (s : State) (d o line : Nat) : State :=
  { s with locks := updWhere (fun l => l.die == d && l.inst == 1 && l.owner == o && l.start == s.cyc) (fun l => { l with lines := [line] }) s.locks }

/-- The request that a memory slot granted to an owner serves: the oldest fill of the class (R346), or the oldest drain, of which a
partial one needs a locked read-modify-write (R289, R340). A slot for the other owners serves the command that names it. -/
def serveMem (s : State) (d o : Nat) : State :=
  let used := { s with grants := rmFirst (fun g => g.die == d && g.inst == 1 && g.cyc == s.cyc && g.owner == o) s.grants }
  let fill := fun (fixed : Bool) =>
    { used with fills := updFirst (fillWaits s d fixed) (fun f => { f with granted := true }) s.fills }
  match o with
  | 0 => fill true
  | 1 => fill false
  | 2 =>
    match s.mbuf.find? (drainWaits s d) with
    | none => s
    | some e =>
      let locked_ := s.locks.any fun l => l.die == d && l.inst == 1 && l.owner == 2 && l.start == s.cyc && decide (2 * slotCyc 1 ≤ l.len)
      if e.slots != 15 && !locked_ then used
      else nameLine { used with mbuf := updWhere (fun x => x.id == e.id) (fun x => { x with granted := true }) s.mbuf } d 2 e.line
  | _ => s

/-- A memory slot of this cycle that an owner won outside a lock of its own serves its request. -/
def useMemSlot (s : State) (d : Nat) : State :=
  match s.grants.find? fun g => g.die == d && g.inst == 1 && g.cyc == s.cyc with
  | some g => if s.locks.any fun l => l.die == d && l.inst == 1 && l.owner == g.owner && decide (l.start < s.cyc ∧ s.cyc < l.start + l.len) then s
    else serveMem s d g.owner
  | none => s

/-- Inject the oldest cell of the owner that holds the ring slot of this cycle (R111). -/
def injectCell (s : State) (d : Nat) : State :=
  match s.grants.find? fun g => g.die == d && g.inst == 2 && g.cyc == s.cyc with
  | some g => match s.ringQ.find? (cellWaits d g.owner) with
    | some c => emitOut { s with ringQ := rmFirst (cellWaits d g.owner) s.ringQ, grants := rmFirst (fun x => x == g) s.grants, ringAir := if c.id = 0 then s.ringAir else s.ringAir ++ [c] } (.cell c.cls c.src 0 c.payload)
    | none => s
  | none => s

/-- Settle a slot by the lines of R336. A memory lock leaves the slots that its holder does not use to requests for other buckets
(R341). -/
def settleSlot (s : State) (d inst : Nat) (rs : List Nat) (lockOwner n : Nat) : State :=
  match lockAt s d inst s.cyc with
  | some l => if rs.contains l.owner then giveSlot s d inst l.owner else if inst = 1 then settleOpen s d inst rs 32 0 32 else s
  | none =>
    match (if inst = 0 then bookAt s d s.cyc else none) with
    | some b => countGrant s d inst b.group
    | none =>
      if inst = 0 && (blankedIn s d s.cyc).contains (posAt s 0 s.cyc) then s
      else settleOpen s d inst rs lockOwner n 32

/-- A grant that spans `span` slots ends only at a break point (R334, R336): each slot of the attic port is one. -/
def noteSpan (s : State) (d inst span : Nat) : State :=
  if inst = 0 || span ≤ 1 || !(s.grants.any fun g => g.die == d && g.inst == inst && g.cyc == s.cyc) then s
  else { s with spans := s.spans ++ [(d, inst, s.cyc, s.cyc + span * slotCyc inst)] }

/-- ARBITER_SLOT_GRANT (R336): the slot of this cycle is settled, once. `ready` marks the owner codes with an unbooked request
ready; `lockOwner` is one of them that declares a locked sequence of `n` slots (0 or 1: none does); the access that wins takes
`span` slots. A fenced attic launches nothing in any slot (R97). A ring slot injects a cell at once, and a memory slot serves a
fill or a drain. -/
def execArbiterSlotGrant (d inst ready lockOwner : Nat) (ask : Ask) (s : State) : Result :=
  .next (
    let s := pruneSlots s
    let rs := readyOwners s d inst ready
    if s.part.dieCnt ≤ d || 3 < inst || (inst == 3 && d != 0) || gone s d || s.cyc % slotCyc inst != 0 ||
      mget 0 s.settled (4 * d + inst) == s.cyc + 1 || inSpan s d inst || (inst == 0 && isF s d ATC_THROTTLE.FENCED) then s
    else
      let s := { s with settled := mset 0 s.settled (4 * d + inst) (s.cyc + 1) }
      let idle := (List.range (ownerCount inst)).filter fun o => !rs.contains o && ageOf s d inst o != 0
      let s := idle.foldl (fun s o => clearAge s d inst o) s
      let s := noteSpan (settleSlot s d inst rs lockOwner ask.n) d inst ask.span
      if inst = 2 then injectCell s d else if inst = 1 then useMemSlot s d else s)

/-! ## Changing tables in service (R347) -/

/-- Reads that the guaranteed groups' store-room steps need in one memory round (R252). -/
def probeReads (s : State) (d : Nat) : Nat :=
  sumL ((List.range 16).map fun g =>
    if groupGuar s d g then
      let slots := ((List.range 64).filter fun i => isF s d (THR_SLOT.RES i) && getF s d (THR_SLOT.GROUP i) == g).length
      ((List.range 256).map fun e =>
        let p := mget Plan.none s.plans e
        let n := sumL (p.starts.map fun q => q.2.1)
        if isF s d (SEQ_ENTRY.FIXED e) && n != 0 then 2 * p.steps * (slots * 16 / n) else 0).foldl max 0
    else 0)

/-- The probe-read slots of a memory table break R252 or R286 (code 0x06). -/
def probeBreaks (s : State) (d n : Nat) : Bool :=
  decide (n < probeReads s d) || decide (12 < n) || decide (getF s d CCH_FILL.G_RES < 5 * n) || decide (60 < getF s d CCH_FILL.G_RES)

/-- The first position that a commit of the shadow would break: a guaranteed or code 0x13 position changed, an owner
code not valid; for a condition over the whole table, position 0. -/
def commitBreak (s : State) (d inst : Nat) : Option Nat :=
  let guar := fun (v : Nat) => inst == 0 && v != 0 && (v == 0x14 || (decide (v ≤ 16) && groupGuar s d (v - 1)))
  let bad := (List.range 64).find? fun p =>
    let a := slotOf s d inst p
    let b := shadowOf s d inst p
    (a != b && (guar a || guar b)) || decide (ownerCount inst < b)
  match bad with
  | some p => some p
  | none =>
    if inst = 0 && !((List.range 64).any fun p => shadowOf s d inst p == 0x11) then some 0
    else if inst = 1 && s.part.unitS && probeBreaks s d ((List.range 64).filter fun p => shadowOf s d inst p == 1).length then some 0
    else none

/-- ARBITER_COMMIT: ARB_CTL.COMMIT checks and captures the shadow of the instance that ARB_SEL names. -/
def execArbiterCommit (d : Nat) (s : State) : Result :=
  .next (
    let i := getF s d ARB_SEL.INST
    if i = 3 && d != 0 || isF s d ARB_STS.PEND i then s
    else match commitBreak s d i with
      | some p =>
        let s := setF (setF s d ARB_STS.REJ 1 i) d ARB_STS.REJ_POS p i
        raiseErr s d pgArb ARB_ERR.COMMIT_REJ (it2 i p)
      | none => setF (setF (setF s d ARB_CTL.COMMIT 1 i) d ARB_STS.PEND 1 i) d ARB_STS.REJ 0 i)

/-- Make a die's shadow the active table of a die; the shadow of that die follows. -/
def takeTable (s : State) (src d inst : Nat) : State :=
  (List.range 64).foldl (fun s p =>
    let v := shadowOf s src inst p
    let s := { s with slots := mset 0 s.slots (arbKey d inst p) v }
    setF (setF s d (ARB_SLOT.RES p) (b2n (v != 0)) inst) d (ARB_SLOT.OWNER p) (getF s src (ARB_SLOT.OWNER p) inst) inst) s

/-- ARBITER_TABLE_SWITCH: the captured table becomes active at the start of a round; both dies of a pair switch. -/
def execArbiterTableSwitch (d inst : Nat) (s : State) : Result :=
  .next (
    if isF s d ARB_STS.PEND inst && posAt s inst s.cyc == 0 && s.cyc % slotCyc inst == 0 then
      let s := takeTable s d d inst
      let s := if avail s && inst != 3 then takeTable s d (partner d) inst else s
      setF (setF s d ARB_STS.PEND 0 inst) d ARB_CTL.COMMIT 0 inst
    else s)

/-- ARB_COUNTER_SELECT: a write of ARB_CNT_SEL copies the owner's counters; CLR = 1 then clears them. -/
def execArbCounterSelect (d val : Nat) (s : State) : Result :=
  .next (
    let i := getF s d ARB_SEL.INST
    let o := val % 32
    let k := okey d i o
    let s := setF s d ARB_CNT_SEL.OWNER o i
    let s := setF s d ARB_CNT_GRANT.GRANTS (mget 0 s.arbGrants k) i
    let s := setF (setF (setF s d ARB_CNT_AGE.MAXWAIT (mget 0 s.arbWait (4 * k + 1)) i) d ARB_CNT_AGE.AGE (ageOf s d i o) i)
      d ARB_CNT_AGE.LEVEL (levelOf s d i o) i
    if val.testBit 31 then
      { s with arbGrants := mset 0 s.arbGrants k 0, arbWait := mset 0 s.arbWait (4 * k + 1) 0 }
    else s)

end Sys2Proof.Machine
end

