-- ==== Sys2Proof/Machine/Threads.lean ====
section
/-!
DEFINITION. Thread events (R216 to R235): event channels, waiting FORKs, the supervisor, release, the quiescence
detector, the debugger's commands, and the two selectors of the sequencer page (R202, R206).
-/

namespace Sys2Proof.Machine

/-! ## Event channels (R222) -/

/-- SEND_SLOT_GRANT: the oldest waiting sender takes the free staging slot and a free queue entry. -/
def execSendSlotGrant (d ch : Nat) (s : State) : Result :=
  .next (
    let e := getCh s d ch
    match e.senders with
    | [] => s
    | t :: rest =>
      let th := getT s d t
      match th.wait with
      | .send _ ws _ =>
        if e.holder.isSome || decide (8 ≤ e.queue.length) then s
        else
          let s := modCh s d ch fun e => { e with holder := some t, staged := ws, senders := rest }
          quiet (setT s d t (if th.st == .halted then { th with rem := .run, haltAt := s.cyc } else { th with st := .run })) d
      | _ => s)

/-- Give the oldest visible message to the oldest waiting thread. -/
def takeMessage (s : State) (d ch : Nat) : State :=
  let e := getCh s d ch
  match e.queue, e.waiters with
  | m :: q, w :: ws =>
    match (getT s d w).wait with
    | .waite _ dst _ =>
      let s := restartWindow (modCh s d ch fun e => { e with queue := q, waiters := ws }) d
      finish (setT s d w (putWords (getT s d w) dst m)) d w true
    | _ => s
  | _, _ => s

/-- MESSAGE_VISIBLE: the staged message joins the queue and the staging slot is freed; a halted sender stands
between two words. -/
def execMessageVisible (d ch : Nat) (s : State) : Result :=
  .next (
    let e := getCh s d ch
    match e.holder with
    | some t =>
      if (getT s d t).st == .run then
        let s := restartWindow (modCh s d ch fun e => { e with queue := e.queue ++ [e.staged], staged := [], holder := none }) d
        takeMessage (finish s d t true) d ch
      else s
    | none => s)

/-- EVENT_TIMEOUT: a SEND or WAITE that waited THR_EVT_TMO ends with OK false; 0 sets no limit. -/
def execEventTimeout (d t : Nat) (s : State) : Result :=
  .next (
    if getF s d THR_EVT_TMO.TMO = 0 then s
    else
      let leave := fun (ch : Nat) =>
        let s := modCh s d ch fun e => { e with senders := e.senders.filter (· != t), waiters := e.waiters.filter (· != t) }
        quiet (finish s d t false) d
      match (getT s d t).wait with
      | .send ch _ _ => if (getCh s d ch).senders.contains t then leave ch else s
      | .waite ch _ _ => if (getCh s d ch).waiters.contains t then leave ch else s
      | _ => s)

/-! ## Waiting FORKs (R221) -/

/-- FORK_WAIT_GRANT: the FORK that has waited longest takes a thread under R218. -/
def execForkWaitGrant (d : Nat) (s : State) : Result :=
  .next (
    match mget [] s.forkWait d with
    | [] => s
    | t :: rest =>
      match (getT s d t).wait with
      | .fork target rrec _ =>
        if forkRoom s d && (lowestFree s d).isSome then
          let s := { s with forkWait := mset [] s.forkWait d rest }
          finish (startChild s d t target rrec) d t true
        else s
      | _ => s)

/-- FORK_TIMEOUT: a FORK that waited THR_FORK_TMO fails. -/
def execForkTimeout (d t : Nat) (s : State) : Result :=
  .next (
    match (getT s d t).wait with
    | .fork _ _ _ => finish { s with forkWait := mmod [] s.forkWait d fun l => l.filter (· != t) } d t false
    | _ => s)

/-! ## The supervisor (R228, R517) -/

/-- The page that a BLOCK_ERR notice names (R444); bit 5 marks the ring stop's page. -/
def noticePage (w0 : Nat) : Option Nat :=
  if w0 / 2 ^ 24 % 256 = 0x20 then some (if w0.testBit 5 then pgRs else w0 % 32) else none

/-- FAULT_NOTICE_DISPATCH: the free supervisor takes the oldest notice and becomes READY at the entry of THR_SUP. -/
def execFaultNoticeDispatch (d : Nat) (s : State) : Result :=
  .next (
    let e := getF s d THR_SUP.ENTRY
    match mget [] s.fltq d with
    | [] => s
    | n :: rest =>
      if (getT s d 0).st == .free && isF s d (SEQ_ENTRY.VALID e) && !gone s d then
        let s := { s with fltq := mset [] s.fltq d rest }
        setT s d 0 { Thread.zero with st := .ready, pc := getF s d (SEQ_ENTRY.START e), slice := setBE 0 (8 * 0x1C0) 128 n, readyAt := s.cyc,
                                      supPage := noticePage (n / 2 ^ 96) }
      else s)

/-! ## Release (R227) -/

/-- THREAD_RELEASE: a write of THR_REL frees the named thread if it is FAULTED with no live children. -/
def execThreadRelease (d val : Nat) (s : State) : Result :=
  .next (
    let t := val % 512
    let th := getT s d t
    if th.st == .faulted && th.kids.all (fun k => k.ended) then freeT s d t else s)

/-! ## The quiescence detector (R231, R232) -/

/-- The event set of a die. -/
def eventSet (s : State) (d : Nat) : List Nat :=
  let base := ((threadsOf s d).filter fun p => p.2.st == .waitEvent).map fun p => p.1
  let parents := ((threadsOf s d).filter fun p =>
    p.2.st == .waitJoin &&
    (match p.2.wait with
     | .join mask _ => (p.2.kids.filter fun k => covered mask k && !k.ended).all fun k => base.contains k.thread
     | .kids => (p.2.kids.filter fun k => !k.ended).all fun k => base.contains k.thread
     | _ => false)).map fun p => p.1
  base ++ parents

/-- Words 0 to 3 of a detector notice: the number of threads stands in the THREAD field. -/
def detectorNotice (s : State) (d cause n : Nat) : State :=
  (postNotice s d (cause * 2 ^ 24) (n % 512 * 2 ^ 22) 0 (cq s % 2 ^ 32)).1

/-- QUIESCE_FIRE: the window expired with a thread in the event set. -/
def execQuiesceFire (d : Nat) (s : State) : Result :=
  .next (
    let es := eventSet s d
    if !isF s d THR_CTL.QUIESCE_EN || es == [] || mget 0 s.quiesce d != 0 then s
    else
      let s := detectorNotice { s with quiesce := mset 0 s.quiesce d 1 } d 0x10 es.length
      let s := bumpSat s d THR_QUIESCE_CNT.FIRES
      let s := raiseErr s d pgThr THR_ERR.QUIESCE (it1 (0x10 * 2 ^ 24))
      if es.contains 0 then raiseErr s d pgThr THR_ERR.QSUP (it1 (0x10 * 2 ^ 24)) else s)

/-- End one thread of the event set (R232), answered already when it is a top-level one. -/
def quiesceEnd (s : State) (d t : Nat) : State :=
  let th := getT s d t
  if th.st == .free then s
  else if th.child then childEnd s d t true
  else freeT (orphanKids s d t) d t

/-- QUIESCE_KILL: no message in the THR_QUIESCE_KILL cycles after the firing; 0 means no kill. -/
def execQuiesceKill (d : Nat) (s : State) : Result :=
  .next (
    if mget 0 s.quiesce d != 1 || getF s d THR_QUIESCE_KILL.KILL = 0 then s
    else
      let es := eventSet s d
      if es == [] then restartWindow s d
      else
        let kids := es.filter fun t => (getT s d t).child
        let tops := es.filter fun t => !(getT s d t).child
        let s := detectorNotice s d 8 es.length
        let s := raiseErr (bumpSat s d THR_QUIESCE_CNT.KILLS) d pgThr THR_ERR.QKILL (it1 (8 * 2 ^ 24))
        let s := tops.foldl (fun s t => deviceAnswer s d t 10) s
        restartWindow ((kids ++ tops).foldl (fun s t => quiesceEnd s d t) s) d)

/-! ## The debugger (R233 to R235) -/

/-- The thread that DBG_THREAD names. -/
def dbgThread (s : State) (d : Nat) : Nat := getF s d DBG_THREAD.THREAD

/-- Debug commands are accepted (R233). -/
def dbgOn (s : State) (d : Nat) : Bool := getF s d DBG_CTL.LEVEL != 0

/-- HALT: the thread halts where it stands between instructions, waiting, or between two words of a SEND. -/
def execHalt (d : Nat) (s : State) : Result :=
  .next (
    let t := dbgThread s d
    let th := getT s d t
    if dbgOn s d && th.st != .free && th.st != .halted then
      quiet (setT s d t { th with st := .halted, rem := th.st, haltAt := s.cyc, step1 := false }) d
    else s)

/-- Put a halted thread back into the state it remembers, or into READY when its wait has ended; a SEND whose slot was
released ends with OK false (R235), and an end of its children that came meanwhile is acted on. -/
def unhalt (s : State) (d t : Nat) (one : Bool) : State :=
  let th := getT s d t
  let s := setT s d t { th with st := th.rem, rem := .free, step1 := one, sendLost := false }
  if th.sendLost then finish s d t false
  else match th.wait with
    | .kids => parentCheck s d t
    | _ => if th.rem == .faulted then parentCheck s d t else s

/-- RESUME: a halted thread continues. -/
def execResume (d : Nat) (s : State) : Result :=
  .next (
    let t := dbgThread s d
    if dbgOn s d && (getT s d t).st == .halted then unhalt s d t false else s)

/-- STEP: a halted thread runs one instruction, including any wait within it, and halts again. -/
def execStep (d : Nat) (s : State) : Result :=
  .next (
    let t := dbgThread s d
    let th := getT s d t
    if dbgOn s d && th.st == .halted && th.rem != .faulted then unhalt s d t true else s)

/-- KILL: the thread faults with cause DEBUG_KILL. -/
def execKill (d : Nat) (s : State) : Result :=
  .next (
    let t := dbgThread s d
    let th := getT s d t
    if dbgOn s d && th.st != .free && th.st != .faulted && !(th.st == .halted && th.rem == .faulted) then faultThread s d t 9 0
    else s)

/-- HALTED_BUDGET_ABORT: the budgeted cycle of a halted, unanswered guaranteed thread arrives (R234). -/
def execHaltedBudgetAbort (d t : Nat) (s : State) : Result :=
  .next (
    let th := getT s d t
    if th.st == .halted && !th.child && !th.sent && t != 0 && isF s 0 (LKP_CH_CFG.CLASS th.chan) then
      let s := formResp s d t (respStatus 6)
      raiseErr (modT s d t fun th => { th with aborted := true }) d pgDbg DBG_ERR.ABORTED it0
    else s)

/-- Release the staging slot that a halted thread holds (R235): its remaining words are discarded. -/
def releaseSlot (s : State) (d ch t : Nat) : State :=
  let s := modCh s d ch fun e => { e with holder := none, staged := [] }
  let s := bumpSat s d (THR_EVT.DROPPED ch)
  modT s d t fun th => { th with sendLost := true }

/-- DBG_CHANNEL_RELEASE: a write of DBG_CH_REL. -/
def execDbgChannelRelease (d val : Nat) (s : State) : Result :=
  .next (
    let ch := val % 32
    match (getCh s d ch).holder with
    | some t => if (getT s d t).st == .halted then releaseSlot s d ch t else s
    | none => s)

/-- DBG_AUTO_RELEASE: a halted thread has held a staging slot for DBG_HOLD_MAX cycles at level 1. -/
def execDbgAutoRelease (d ch : Nat) (s : State) : Result :=
  .next (
    match (getCh s d ch).holder with
    | some t =>
      if (getT s d t).st == .halted && getF s d DBG_CTL.LEVEL == 1 && getF s d DBG_HOLD_MAX.HOLD != 0 then
        raiseErr (bump (releaseSlot s d ch t) d DBG_AUTO_REL.COUNT) d pgDbg DBG_ERR.AUTO_REL it0
      else s
    | none => s)

/-! ## Step entries (R202, R206) -/

/-- PREDICTOR_CLEAR: SEQ_CTL.PRED_CLR sets every step entry's confidence to 0. -/
def execPredictorClear (d : Nat) (s : State) : Result :=
  .next ((List.range 256).foldl (fun s e => modEnt s d e fun y => { y with conf := 0 }) s)

/-- Copy a step entry's state and counters into the registers that show it. -/
def showEntry (s : State) (d e : Nat) : State :=
  let y := getEnt s d e
  let s := setF (setF (setF s d SEQ_STEP_ADDR.ADDR y.addr) d SEQ_STEP_ADDR.CONF y.conf) d SEQ_STEP_ADDR.PAR (b2n y.par)
  setF (setF (setF s d SEQ_STEP_ISSUE.COUNT y.issue) d SEQ_STEP_USE.COUNT y.use) d SEQ_STEP_SQUASH.COUNT y.squash

/-- STEP_ENTRY_SELECT: a write of SEQ_STEP_IDX; CLR = 1 clears the entry's counters once they are copied. -/
def execStepEntrySelect (d val : Nat) (s : State) : Result :=
  .next (
    let e := val % 256
    let s := showEntry (setF s d SEQ_STEP_IDX.STEP e) d e
    if val.testBit 31 then modEnt s d e fun y => { y with issue := 0, use := 0, squash := 0 } else s)

end Sys2Proof.Machine
end

