-- ==== Sys2Proof/Machine/Search.lean ====
section
/-!
DEFINITION. The attic search after its issue (R71 to R92, R102, R130): the launch, a die's contribution, the package
merge, and the background re-verification of a pair mismatch.
-/

namespace Sys2Proof.Machine

/-! ## Launch -/

/-- Owner code of a search on the attic port (R335). -/
def searchOwner (s : State) (x : Search) : Nat :=
  match x.inbound with
  | some _ => if x.fl then 0x13 else 0x14
  | none => if x.thread = 0 then 0x16 else (getT s x.home x.thread).group

/-- A search of a guaranteed request, whose launches admission booked (R96), or a fixed-latency one from above (R344). -/
def isBooked (s : State) (x : Search) : Bool :=
  if x.inbound.isSome then x.fl
  else x.thread != 0 && !(getT s x.home x.thread).golden && isF s 0 (LKP_CH_CFG.CLASS (getT s x.home x.thread).chan)

/-- The name its bookings stand under: its thread, or for a search from above its identifier (R344). -/
def bookName (x : Search) : Nat := if x.inbound.isSome then 512 + x.sid else x.thread

/-- The generation a request's search takes (R64, R44): GENSEL asks for the other one where the partition allows it. -/
def searchGen (s : State) (d p t : Nat) : Nat :=
  let a := getF s d PART_CTL.ACT_GEN p
  if hdrGensel (getT s d t).hdr && isF s d PART_CTL.GENSEL_EN p then 1 - a else a

/-- CASC_MASK of a partition as searches use it: 0x0 acts as 0x1 (R123); without unit K there is no cascade. -/
def cmaskOf (s : State) (d p : Nat) : Nat :=
  if s.part.unitK then (if getF s d PART_CASC.CASC_MASK p = 0 then 1 else getF s d PART_CASC.CASC_MASK p) else 1

/-- The search as the home die's descriptor copy in the launch cycle makes it (R64, R71). A package whose bit of CASC_MASK is
0 searches none of its own dies (R70). -/
def fixDescriptor (s : State) (x : Search) : Search :=
  { x with
    width := partWidth s x.home x.part, gen := searchGen s x.home x.part x.thread, fl := partFixed s x.home x.part,
    dieSet := if (cmaskOf s x.home x.part).testBit (cascPos s) then dieSetOf s x.home x.part else 0, cmask := cmaskOf s x.home x.part,
    store := isF s x.home PART_CTL.STORE x.part, cellar := isF s x.home PART_CTL.CELLAR x.part,
    srRgn := getF s x.home PART_REGION.SR_REGION x.part, clRgn := getF s x.home PART_REGION.CL_REGION x.part, launched := some s.cyc }

/-- Count a launch on a die (R102, ATC_LAUNCH). -/
def countLaunch (s : State) (x : Search) (d : Nat) : State :=
  let n := (getF s d ATC_LAUNCH_HI.LAUNCH_HI * 2 ^ 32 + getF s d ATC_LAUNCH_LO.LAUNCH_LO + 1)
  let s := setF (setF s d ATC_LAUNCH_LO.LAUNCH_LO n) d ATC_LAUNCH_HI.LAUNCH_HI (n / 2 ^ 32)
  let k := (d * 256 + x.part) * 2
  let m := mmod 0 s.selCnt k fun v => wrapInc 48 v 1
  { s with selCnt := mmod 0 m (k + 1) fun v => wrapInc 48 v (enabledShelves s d x.part x.key) }

/-- The search and its results cross the ring: its die set holds a die beside the home die. -/
def crosses (x : Search) : Bool := (diesIn x.dieSet).any fun d => d != x.home
where
  /-- Dies of a mask. -/
  diesIn (m : Nat) : List Nat := (List.range 8).filter fun d => m.testBit d

/-- Put cells of a search on the ring (R108). -/
def emitCells (s : State) (x : Search) (cls : Nat) (ps : List Nat) : State :=
  if crosses x then ps.foldl (fun s p => emitOut s (.cell cls x.home (x.sid % 4096) p)) s else s

/-- The die pass of every launching die: it samples the rows in its action cycle, which follows the launch by the same
three cycles as every other port operation (R73). -/
def launchOn (s : State) (x : Search) (ds : List Nat) : State :=
  let x := { x with samples := ds.map fun d => diePass s d x.part x.width x.gen x.key }
  let s := ds.foldl (fun s d => countLaunch s x d) s
  let s := modSearch s x.sid fun _ => x
  let s := emitCells s x 1 (searchCells s x)
  if x.inbound.isNone && depthOf x.cmask != 0 then emitOut s (.frame 1 (sealFrame (searchFrame s x))) else s

/-- The launch once the descriptor is settled: on booked slots or on granted ones; a best-effort frame to the package
below spends a credit per beat (R120). A booked search whose booked slot does not exist on every die of its set ends in
RETRY (R64). -/
def launchPorts (s : State) (x : Search) : State :=
  let ds := (diesOf s x.dieSet).filter fun d => launches s d
  if x.booked then
    let own := fun (b : Book) => b.home == x.home && b.thread == bookName x
    let mine := fun (b : Book) => b.cyc == s.cyc && own b
    if !s.books.any mine then
      (if s.books.any fun b => own b && decide (s.cyc < b.cyc) then s
       else if ds == [] then launchOn s x ds else missSlot s x)
    else
      let have_ := ds.all fun d => s.books.any fun b => mine b && b.die == d
      let t := { s with books := s.books.filter fun b => !mine b }
      if have_ then launchOn (settleSlots t ds) x ds else missSlot t x
  else
    let o := searchOwner s x
    let mine := fun (g : Grant) => g.inst == 0 && g.cyc == s.cyc && g.owner == o && ds.contains g.die
    let beats := if x.inbound.isNone && depthOf x.cmask != 0 then (searchFrame s x).length else 0
    if mget 0 s.link (lkCredit 1) < beats then s
    else if ds.all fun d => s.grants.any fun g => mine g && g.die == d then
      let s := { s with link := mset 0 s.link (lkCredit 1) (mget 0 s.link (lkCredit 1) - beats) }
      launchOn { s with grants := s.grants.filter fun g => !mine g } x ds
    else s

/-- SEARCH_LAUNCH (R71, R64, R92, R123, R125). A best-effort search that reaches beyond a retraining port waits, and so does a
speculative one whose launch would end the request, until the speculation is resolved (R204). -/
def execSearchLaunch (sid : Nat) (s : State) : Result :=
  .next (
    match s.searches.find? fun x => x.sid == sid && x.launched.isNone with
    | none => s
    | some x =>
      if x.inbound.isSome && (diesOf s x.dieSet).any (fun d => uncovered s x.dieSet d) then
        modSearch s sid fun x => { x with launched := some s.cyc, dieSet := 0, contribs := [(0, { Contrib.none with dfail := true })] }
      else if x.inbound.isSome then launchPorts s { x with launched := some s.cyc, booked := isBooked s x }
      else if x.spec && (getT s x.home x.thread).spec && (!partValid s x.home x.part || decide (x.depth < partDepth s x.home x.part)) then s
      else if !partValid s x.home x.part then recipeError (dropSearch s sid) x.home x.thread 3
      else
        let y := fixDescriptor s x
        let y := { y with booked := isBooked s y }
        let dep := partDepth s x.home x.part
        if x.depth < dep then recipeError (dropSearch s sid) x.home x.thread 4
        else if (diesOf s y.dieSet).any (fun d => uncovered s y.dieSet d) then settleSearch s y 7
        else if dep != 0 && (getF s 0 CSC_STS.DEPTH < dep || !isF s 0 CSC_STS.D_UP) then settleSearch s y 7
        else if dep != 0 && getF s 0 CSC_STS.D_STATE == 7 then (if y.fl then settleSearch s y 3 else s)
        else launchPorts s y)

/-! ## A die's contribution (R80 to R82) -/

/-- Queue a row for the scrubber (R81): a full queue drops it. -/
def queueSuspect (s : State) (d gra : Nat) : State :=
  let q := mget [] s.susq d
  if q.length < 16 then { s with susq := mset [] s.susq d (q ++ [gra]) }
  else raiseErr (bumpSat s d ATC_SUSQ.DROPS) d pgAtc ATC_ERR.SUSQ_OVF it0

/-- Set SUSP on a row; an error in its control word stays one (log 71). -/
def markSuspect (s : State) (d gra : Nat) : State :=
  modRow s d gra fun r => { r with ctrl := editCtrl r.ctrl fun c => reCtrl c (ctrlState c) (ctrlStateB c) (ctrlD c) true }

/-- Whether a candidate fails its verification. -/
def fails (width : Nat) (key : Key) (h : Option Hit) : Bool := match h with
  | some h => !(verify width key h).pass
  | none => false

/-- What one verified candidate leaves on its die: a failing one is marked and queued; each row with a corrected error is
recorded (R104). -/
def afterVerify (s : State) (d width : Nat) (key : Key) (h : Option Hit) : State :=
  match h with
  | none => s
  | some h =>
    let s := (corrRows width h).foldl (fun s i => raiseErr s d pgAtc ATC_ERR.CORR (it1 (h.gra + i))) s
    if (verify width key h).pass then s else queueSuspect (markSuspect s d h.gra) d h.gra

/-- Address of the row that VFY or VFAIL concerns: of the first candidate that fails. -/
def failGra (width : Nat) (key : Key) (y : DieSample) : Nat :=
  ((if fails width key y.first then y.first else y.second).map fun h => h.gra).getD 0

/-- What a die's verification of its candidates leaves (R80, R81): marks, counts and records. -/
def dieVerified (s : State) (d : Nat) (x : Search) (y : DieSample) : State :=
  let c := contribOf x.mode x.width x.key y
  if x.mode = 1 then s
  else
    let s := afterVerify (afterVerify s d x.width x.key y.first) d x.width x.key y.second
    let g := failGra x.width x.key y
    let s := if c.vfy then raiseErr (bump s d ATC_VFY_CNT.VFY) d pgAtc ATC_ERR.VFY (it1 g) else s
    if c.vfail then raiseErr (bump s d ATC_VFAIL_CNT.VFAIL) d pgAtc ATC_ERR.VFAIL (it1 g) else s

/-- DIE_CONTRIBUTION: a die verifies its candidates and places its contribution, which reaches the home die in a result cell.
`flit` is what the home die's ring stop finds of the flit that carries it: a poisoned cell costs the search its result (R107). -/
def execDieContribution (sid : Nat) (a : Arrival) (s : State) : Result :=
  .next (
    match s.searches.find? fun x => x.sid == sid with
    | none => s
    | some x =>
      match x.samples.find? fun y => y.die == a.key with
      | none => s
      | some y =>
        if (contribAt x a.key).isSome then s
        else
          let f := if a.key = x.home then 0 else a.flit
          let s := modSearch s sid fun x => { x with contribs := x.contribs ++ [(a.key, contribOf x.mode x.width x.key y)], lost := x.lost || decide (4 ≤ f) }
          dieVerified (flitSeen s x.home 2 f) a.key x y)

/-! ## The merge (R84, R118, R124) -/

/-- Every die that sampled has contributed, or is gone. -/
def samplesIn (s : State) (x : Search) : Bool := x.samples.all fun y => (contribAt x y.die).isSome || gone s y.die

/-- A contribution from the package below is part of the merge. -/
def needsBelow (s : State) (x : Search) : Bool := s.part.unitK && decide (cascPos s < depthOf x.cmask)

/-- The halves that a search's result cells carry (R110): by parity in the availability profile, else all in half E. -/
def cellHalf (s : State) (x : Search) (par : Nat) : Contrib × Nat :=
  let cs := x.contribs.filter fun c => if avail s then c.1 % 2 == par else par == 0
  ({ mergeAll (cs.map fun c => c.2) with lost := x.lost }, maskOf (cs.map fun c => c.1))

/-- Put the result cells of a search on the ring. -/
def emitResult (s : State) (x : Search) : State :=
  emitCells s x 2 (resultCells x.mode (cellHalf s x 0).1 (cellHalf s x 1).1 (cellHalf s x 0).2 (cellHalf s x 1).2)

/-- Send a package's contribution up (R118): best-effort frames spend credit (R120), and wait for it; while the port retrains
a fixed-latency one is lost and others wait; with the port down there is nowhere to send it. -/
def sendUp (s : State) (x : Search) (id : Nat) (c : Contrib) : State :=
  let fr := sealFrame (contribFrame id x.mode c)
  let open_ := isF s 0 CSC_STS.U_UP && getF s 0 CSC_STS.U_STATE != 7
  if open_ then
    (if x.fl then dropSearch (emitOut s (.frame 0 fr)) x.sid
     else if mget 0 s.link (lkCredit 0) < fr.length then s
     else dropSearch (emitOut { s with link := mset 0 s.link (lkCredit 0) (mget 0 s.link (lkCredit 0) - fr.length) } (.frame 0 fr)) x.sid)
  else if isF s 0 CSC_STS.U_UP && !x.fl then s
  else dropSearch s x.sid

/-- The merged contribution of a package: its own dies' result and what came from below (R84, R91, R118). -/
def mergedOf (s : State) (x : Search) : State × Contrib :=
  let missing := !avail s && x.samples.any fun y => (contribAt x y.die).isNone
  let (s, own) := packageResult s x
  let own := { own with dfail := own.dfail || missing, lost := own.lost || x.lost }
  (s, match x.below with
    | some b => mergeC own b
    | none => own)

/-- PACKAGE_MERGE: the merge of the package's dies and of what came from below; at the head it forms the record, on a
package below the head it is sent up. -/
def execPackageMerge (sid : Nat) (s : State) : Result :=
  .next (
    match s.searches.find? fun x => x.sid == sid && x.launched.isSome with
    | none => s
    | some x =>
      if !samplesIn s x || (needsBelow s x && x.below.isNone) then s
      else
        match x.inbound with
        | some id =>
          let t := (mergedOf s x).1
          let u := sendUp (emitResult t x) x id (mergedOf s x).2
          if u.searches.any fun y => y.sid == sid then s else u
        | none =>
          let (t, c) := mergedOf s x
          let t := emitResult t x
          let t := if c.lost && !c.dfail && s.part.unitK then bump t 0 CSC_LOST_CNT.LOST else t
          afterSearch t x (searchRec x.mode c) (searchRec2 c))

/-! ## Re-verification (R130, R146) -/

/-- The entry at an address of a die, as a search would have sampled it. -/
def entryAt (s : State) (d : Nat) (c : PairCheck) : Hit :=
  { gra := c.gra, h := c.h, prio := ctrlPrio (getRow s d c.gra).ctrl,
    rows := (List.range (rowsPerSlot c.width)).map fun i => getRow s d (c.gra + i) }

/-- Re-verify one copy of a differing candidate (R130): a copy that fails is marked and queued for repair; one whose control
word changed since the search is left alone. -/
def reverify (s : State) (c : PairCheck) (d : Nat) (was : W32) : State :=
  if (getRow s d c.gra).ctrl != was || (verify c.width c.key (entryAt s d c)).pass then s
  else queueSuspect (markSuspect s d c.gra) d c.gra

/-- PAIR_REVERIFY: the oldest differing candidate is verified on both dies. -/
def execPairReverify (s : State) : Result :=
  .next (
    match s.pairChecks with
    | [] => s
    | c :: rest => reverify (reverify { s with pairChecks := rest } c (2 * c.pair) c.ctrlE) c (2 * c.pair + 1) c.ctrlO)

end Sys2Proof.Machine
end

