-- ==== Sys2Proof/Machine/LookupOps.lean ====
section
/-!
DEFINITION. Shared operations of the lookup port: lanes and rates (R303), buffers (R313), flow control (R324), channel
rules (R310), bookings (R317, R342 to R344), admission (R218, R219), takeover (R449) and responses (R316, R322).
-/

namespace Sys2Proof.Machine

/-! ## Interfaces (R303) -/

/-- Die and index of a package interface number. -/
def ifDie (i : Nat) : Nat := i / 3
def ifIdx (i : Nat) : Nat := i % 3

/-- Lane map of an interface index under a MODE; 0 when MODE does not give it. -/
def ifLanes (mode j : Nat) : Nat :=
  match mode, j with
  | 0, 0 => 63
  | 1, 0 => 7
  | 1, 1 => 56
  | 2, 0 => 3
  | 2, 1 => 12
  | 2, 2 => 48
  | 3, 0 => 15
  | 3, 1 => 48
  | _, _ => 0

/-- Words an interface transmits per CS cycle. -/
def wordsPerCyc (mode rate j : Nat) : Nat :=
  let full := match mode, j with
    | 0, 0 => 6
    | 1, _ => 3
    | 2, _ => 2
    | 3, 0 => 4
    | _, _ => 2
  if rate = 0 then full else max 1 (full / 2)

/-- K and P of an interface (R303, R306). -/
def ifK (s : State) (i : Nat) : Nat :=
  wordsPerCyc (getF s (ifDie i) LKP_IF_CFG.MODE) (getF s (ifDie i) LKP_IF_CFG.RATE) (ifIdx i)
def ifP (s : State) (i : Nat) : Nat := ceilDiv 5 (ifK s i)

/-- State and lane map of an interface (LKP_IF_STS): 2 is up. -/
def ifState (s : State) (i : Nat) : Nat := getF s (ifDie i) (LKP_IF_STS.STATE (ifIdx i))
def setIfState (s : State) (i st lanes : Nat) : State :=
  setF (setF s (ifDie i) (LKP_IF_STS.STATE (ifIdx i)) st) (ifDie i) (LKP_IF_STS.LANES (ifIdx i)) lanes

/-- The interface receives bursts. -/
def ifUp (s : State) (i : Nat) : Bool := ifState s i == 2 && !gone s (ifDie i) && !s.inReset

/-- Record an error of the lookup page with its three items. -/
def lkpErr (s : State) (i bit chan last : Nat) : State := raiseErr s (ifDie i) pgLkp bit (it3 i chan last)

/-! ## Channels -/

/-- Fields of a channel; the copies on every die are equal (R309), and the model keeps the one of die 0. -/
def chEn (s : State) (c : Nat) : Bool := isF s 0 (LKP_CH_CFG.EN c)
def chGuar (s : State) (c : Nat) : Bool := isF s 0 (LKP_CH_CFG.CLASS c)
def chIfx (s : State) (c : Nat) : Nat := getF s 0 (LKP_CH_CFG.IFX c)
def chGroup (s : State) (c : Nat) : Nat := getF s 0 (LKP_CH_CFG.GROUP c)
def chMin (s : State) (c : Nat) : Nat := getF s 0 (LKP_CH_BUF.MIN c)
def chMax (s : State) (c : Nat) : Nat := getF s 0 (LKP_CH_BUF.MAX c)

/-- The interface that carries a channel now (R310, R312). -/
def chIface (s : State) (c : Nat) : Nat := 3 * homeOf s c + chIfx s c

/-- An ordered guaranteed channel. -/
def chMirror (s : State) (c : Nat) : Bool := chOrdered s c && chGuar s c

/-! ## Response buffers (R313) -/

/-- A channel's MIN counts on a die: its home and, in the availability profile, its twin's die. -/
def minOn (s : State) (c d : Nat) : Bool := chEn s c && (homeOf s c == d || (avail s && partner (homeOf s c) == d))

/-- O of R313. -/
def bufO (s : State) (d : Nat) : Nat :=
  sumL (((List.range 64).filter fun c => minOn s c d).map fun c => chMin s c - bufUsed s c)

/-- The die that gives a buffer for a channel, when one is available. -/
def bufSite (s : State) (c : Nat) : Option Nat :=
  let h := homeOf s c
  if chMax s c ≤ bufUsed s c then none
  else if bufUsed s c < chMin s c && decide (0 < bufFree s h) then some h
  else if bufO s h < bufFree s h then some h
  else if chGuar s c then none
  else (dies s).find? fun e => !gone s e && decide (bufO s e < bufFree s e)

/-- Buffers of a die lent to other dies (R314). -/
def bufLent (s : State) (d : Nat) : Nat :=
  (s.reqs.filter fun r => r.buf == some d && homeOf s r.chan != d).length +
  (s.leaving.filter fun e => e.2.1 == d && homeOf s e.1 != d && decide (s.cyc < e.2.2)).length

/-! ## Flow control (R324) -/

/-- The request waits in an ingress queue. -/
def Req.inQueue (r : Req) : Bool := match r.phase with
  | .queued _ => true
  | _ => false

/-- Requests in an interface's ingress queue. -/
def queuedOn (s : State) (i : Nat) : List Req :=
  s.reqs.filter fun r => r.iface == i && r.inQueue

/-- Refusals in an interface's refusal queue. -/
def refusalsOn (s : State) (i : Nat) : List Req :=
  s.reqs.filter fun r => r.iface == i && r.refusal && r.resp.isSome && !r.moved && !chMirror s r.chan

/-- Ledger entries of a die (R448). -/
def ledgerUsed (s : State) (d : Nat) : Nat := (s.reqs.filter fun r => r.home == d && r.ledger).length

/-- The device sends XOFF for a channel on its interface: also during an engine reset (R447). -/
def xoffTx (s : State) (c : Nat) : Bool :=
  let h := homeOf s c
  let i := chIface s c
  let skid := getF s h LKP_FC.SKID
  let g := chGroup s c
  !chEn s c || isF s 0 FLT_ERST.GO || decide (chMax s c ≤ bufUsed s c + skid) ||
  decide (getF s h (THR_GRP_CFG.MAX g) ≤ groupUsed s h g + skid) ||
  decide (min 16 (getF s h LKP_FC.IQ_TH) ≤ (queuedOn s i).length) ||
  decide (max 1 (getF s h LKP_FC.RQ_TH) ≤ (refusalsOn s i).length) ||
  (avail s && decide (1984 ≤ ledgerUsed s h)) ||
  (avail s && (getF s 0 PKG_PAIR_CTL.RETURN).testBit (h / 2) && h != getF s 0 (LKP_CH_CFG.DIE c))

/-! ## Channel rules (R310) -/

/-- Some enabled channel breaks a rule of R310. -/
def channelsBreak (s : State) : Bool :=
  let en := (List.range 64).filter fun c => chEn s c
  let dieOf := fun (c : Nat) => getF s 0 (LKP_CH_CFG.DIE c)
  (en.any fun c =>
    decide (s.part.dieCnt ≤ dieOf c) || (chGuar s c != groupGuar s (dieOf c) (chGroup s c)) ||
    (chGuar s c && isF s 0 (LKP_CH_CFG.WR c)) || decide (chMax s c < chMin s c) ||
    ifLanes (getF s (dieOf c) LKP_IF_CFG.MODE) (chIfx s c) == 0 ||
    (chMirror s c && getF s (dieOf c) (LKP_IF_OBUD.OBUD (chIfx s c)) == 0) ||
    (chMirror s c && en.any fun e => dieOf e == dieOf c && chIfx s e == chIfx s c && chGuar s e && !chOrdered s e)) ||
  ((dies s).any fun d => decide (1024 < sumL ((en.filter fun c => dieOf c == d).map fun c => chMin s c)))

/-! ## Bookings (R317, R343) -/

/-- Words of a response with the options (R316): at least four data words and the control word. -/
def respLen (two ts : Bool) : Nat := if two && ts then 10 else if two || ts then 7 else 5

/-- Candidate cycles of a release cycle and a plan (R343). -/
def candidates (a ps : Nat) : List Nat := ((List.range 9).map fun i => a + ps + 1 + i).filter fun x => x % 2 == 0

/-- Attic launches of a plan for a first launch in cycle `x`: cycle and partition. -/
def planLaunches (p : Plan) (x : Nat) : List (Nat × Nat) := p.launches.map fun q => (x + q.off, q.part)

/-- Frame beats of a search of a partition that reaches beyond the package. -/
def cascBeats (s : State) (d p : Nat) : Nat :=
  if partDepth s d p = 0 then 0 else if partWidth s d p = 2 then 2 else if partWidth s d p = 3 then 4 else 1

/-- Bookings of the launches of a candidate: one for each die of each die set; the first die carries the frame's beats.
Launches of different paths that fall on one slot share its booking (R342). -/
def planBooks (s : State) (d t g x : Nat) (p : Plan) : List Book :=
  let all := (planLaunches p x).flatMap fun q =>
    ((diesOf s (dieSetOf s d q.2)).filter fun e => launches s e).zipIdx.map fun e =>
      ({ die := e.1, cyc := q.1, group := g, home := d, thread := t, beats := if e.2 = 0 then cascBeats s d q.2 else 0 } : Book)
  all.foldl (fun l b =>
    if l.any fun k => k.die == b.die && k.cyc == b.cyc then
      updWhere (fun k => k.die == b.die && k.cyc == b.cyc) (fun k => { k with beats := max k.beats b.beats }) l
    else l ++ [b]) []

/-- The slots of a candidate's launches can be booked (R343, R101, R120). -/
def booksFit (s : State) (bs : List Book) : Bool :=
  bs.all fun b =>
    let pos := posAt s 0 b.cyc
    let round := fun (c : Nat) => c / 64
    slotOf s b.die 0 pos == b.group + 1 && !(blankedIn s b.die b.cyc).contains pos && (bookAt s b.die b.cyc).isNone &&
    (lockAt s b.die 0 b.cyc).isNone &&
    (b.beats == 0 ||
      let same := (s.books ++ bs).filter fun k => k.beats != 0 && round k.cyc == round b.cyc
      decide (sumL (same.map fun k => k.beats) ≤ 16 * popcount (getF s 0 CSC_STS.D_LANES) 4) &&
      (mget 0 s.link lkGmin == 0 || decide (same.length ≤ mget 0 s.link lkGmin - 1)))

/-! ### Express cells (R113) -/

/-- Directed hops of the ring of `n` dies between a home die and another die: out from the home die, and back. Hop 2e leads
from die e clockwise and hop 2e + 1 counter-clockwise; a cell takes the shorter way round, clockwise when both are equal
(DESIGN CHOICE, log 88). -/
def hopsTo (n home die : Nat) : List Nat × List Nat :=
  let k := (die + n - home) % n
  if 2 * k ≤ n then
    ((List.range k).map fun i => (home + i) % n * 2, (List.range k).map fun i => (home + i + 1) % n * 2 + 1)
  else
    ((List.range (n - k)).map fun i => (home + n - i) % n * 2 + 1, (List.range (n - k)).map fun i => (home + n - i - 1) % n * 2)

/-- Hops of a search's cells, from its home die to the dies of its set and back. -/
def hopsOf (s : State) (home m : Nat) : List Nat × List Nat :=
  let hs := ((diesOf s m).filter fun e => e != home).map (hopsTo s.part.dieCnt home)
  ((hs.flatMap fun h => h.1).eraseDups, (hs.flatMap fun h => h.2).eraseDups)

/-- Search cells of a width and result cells of a mode (R109, R110). -/
def outCells (width : Nat) : Nat := if width = 3 then 3 else if width = 2 then 2 else 1
def backCells (mode : Nat) : Nat := if mode = 2 then 2 else 1

/-- Express cells of a launch in cycle `x`: hop, CQ cycle and number. Search cells are booked in the CQ cycle of the launch,
result cells in that of cycle x + 18 (DESIGN CHOICE, log 88). -/
def launchCells (s : State) (d x part mode : Nat) : List (Nat × Nat × Nat) :=
  let h := hopsOf s d (dieSetOf s d part)
  (h.1.map fun e => (e, x / 2, outCells (partWidth s d part))) ++ (h.2.map fun e => (e, (x + 18) / 2, backCells mode))

/-- Express cells of a candidate: launches of different paths share the cells of a hop and CQ cycle. -/
def planCells (s : State) (d x : Nat) (p : Plan) : List (Nat × Nat × Nat) :=
  (p.launches.flatMap fun q => launchCells s d (x + q.off) q.part q.mode).foldl (fun l c =>
    if l.any fun k => k.1 == c.1 && k.2.1 == c.2.1 then
      updWhere (fun k => k.1 == c.1 && k.2.1 == c.2.1) (fun k => (k.1, k.2.1, max k.2.2 c.2.2)) l
    else l ++ [c]) []

/-- No directed hop carries more than 23 of the cells in any 8 CQ cycles. -/
def cellsFit (s : State) (cs : List (Nat × Nat × Nat)) : Bool :=
  cs.all fun c => (List.range 8).all fun w =>
    decide (sumL (((s.express ++ cs).filter fun k => k.1 == c.1 && decide (c.2.1 + w < k.2.1 + 8 ∧ k.2.1 ≤ c.2.1 + w)).map fun k => k.2.2) ≤ 23)

/-! ### Issue starts (R224) -/

/-- Issue starts of a candidate as CQ cycle and number (R224): those after the first SRCH move with the candidate. Starts of
different paths in one CQ cycle share a booking. -/
def planStarts (p : Plan) (a early : Nat) : List (Nat × Nat) :=
  (p.starts.map fun q => (a / 2 + q.1 - (if q.2.2 then early else 0), q.2.1)).foldl (fun l c =>
    if l.any fun k => k.1 == c.1 then updWhere (fun k => k.1 == c.1) (fun k => (k.1, max k.2 c.2)) l else l ++ [c]) []

/-- Issue slots a group owns in a CQ cycle of the issue round (R223). -/
def issueOwned (s : State) (d g n : Nat) : Nat :=
  ((List.range 64).filter fun k => k / 16 == n % 4 && isF s d (THR_SLOT.RES k) && getF s d (THR_SLOT.GROUP k) == g).length

/-- The issue starts can be booked. -/
def startsFit (s : State) (d g : Nat) (sts : List (Nat × Nat)) : Bool :=
  sts.all fun q =>
    decide (sumL ((s.issues.filter fun i => i.die == d && i.group == g && i.cyc == q.1).map fun i => i.n) + q.2 ≤ issueOwned s d g q.1)

/-- Book a plan for the first candidate that fits; none when no candidate does (check 4 of R219). -/
def bookPlan (s : State) (d t g a : Nat) (p : Plan) : Option State :=
  let cs := candidates a p.s
  let last := cs.getLastD 0
  match cs.find? fun x => booksFit s (planBooks s d t g x p) && cellsFit s (planCells s d x p) &&
      startsFit s d g (planStarts p a ((last - x) / 2)) with
  | none => none
  | some x =>
    let s1 := { s with books := s.books ++ planBooks s d t g x p
                       express := s.express ++ planCells s d x p
                       issues := s.issues ++ (planStarts p a ((last - x) / 2)).map fun q => (⟨d, g, t, q.1, q.2⟩ : Issue) }
    some (if x < last && p.launches != [] then bumpSat s1 d ARB_BOOK.EARLY else s1)

/-- Egress cycles booked or in use on an interface in a range (R317). -/
def egressFree (s : State) (i start len : Nat) : Bool :=
  !s.egress.any fun e => e.1 == i && decide (e.2.1 < start + len ∧ start < e.2.1 + e.2.2)

/-- The mirror of a request that still owns one, as first cycle and end (exclusive); none for an open end (R316). -/
def mirrorOf (s : State) (r : Req) : Nat × Option Nat :=
  let o := getF s (ifDie r.iface) (LKP_IF_OBUD.OBUD (ifIdx r.iface))
  (r.rel + o - 1, r.next.map fun n => n + o - 1)

/-- No mirror of an ordered guaranteed request covers the cycles. -/
def mirrorsFree (s : State) (i start len : Nat) : Bool :=
  !s.reqs.any fun r => r.iface == i && chMirror s r.chan && !r.moved &&
    (match r.phase with
     | .queued _ => false
     | _ => true) &&
    (let m := mirrorOf s r
     decide (m.1 < start + len) && (match m.2 with
       | some e => decide (start < e)
       | none => true))

/-! ## Admission (R218, R219) -/

/-- Thread available for a group (R218). -/
def threadRoom (s : State) (d g : Nat) : Bool :=
  let u := groupUsed s d g
  decide (u < getF s d (THR_GRP_CFG.MAX g)) && (lowestFree s d).isSome &&
  (decide (u < getF s d (THR_GRP_CFG.RESV g)) || decide (outReserve s d + 33 ≤ freeThreads s d))

/-- A top-level thread at its entry (R182). -/
def newThread (s : State) (d e c : Nat) (hdr : W64) (payload : BitVec 1024) (req : Option Nat) (arr : Nat) (golden : Bool) : Thread :=
  let n := 8 * min 128 (hdrPlen hdr)
  { Thread.zero with
    st := .ready, pc := getF s d (SEQ_ENTRY.START e), hdr := hdr, chan := c, group := chGroup s c, req := req,
    slice := setBE 0 0 n (getBE payload 0 n), arr := arr, golden := golden, readyAt := s.cyc }

/-- What admission decides. -/
inductive Admit
  | refused (status : Nat) (s : State)
  | admitted (s : State)

/-- Admit a released request (R219). -/
def admitReq (s : State) (r : Req) : Admit :=
  let d := r.home
  let c := r.chan
  let e := hdrRecipe r.hdr
  let g := chGroup s c
  let guar := chGuar s c
  if !isF s d (SEQ_ENTRY.VALID e) then .refused 9 (rerr s d 1 e)
  else if guar && !isF s d (SEQ_ENTRY.FIXED e) then .refused 9 (rerr s d 2 e)
  else
    let refuse5 := fun (s : State) => Admit.refused 5 (bump s d THR_ADMIT_FAIL.FAILS)
    match threadRoom s d g, lowestFree s d, bufSite s c with
    | true, some t, some b =>
      let two := isF s d (LKP_ENT.TWO e)
      let n := ceilDiv (respLen two (hdrStamp r.hdr && s.part.unitT)) (ifK s r.iface)
      let start := r.rel + getF s d (SEQ_ENTRY.BUDGET e) - 1
      let tagged := guar && !chOrdered s c
      if tagged && !egressFree s r.iface start n then refuse5 s
      else
        match (if guar then bookPlan s d t g r.rel (mget Plan.none s.plans e) else some s) with
        | none => refuse5 (bumpSat s d ARB_BOOK.FAIL)
        | some s =>
          let s := if tagged then { s with egress := s.egress ++ [(r.iface, start, n)] } else s
          let s := setT s d t (newThread s d e c r.hdr r.payload (some r.id) r.arr false)
          .admitted (modReq s r.id fun q =>
            { q with phase := .admitted, thread := some t, buf := some b, booked := if tagged then some start else none })
    | _, _, _ => refuse5 s

/-- Form a refusal (R315, R321). -/
def refuse (s : State) (id st : Nat) : State :=
  modReq s id fun q => { q with phase := .admitted, resp := some (respStatus st), refusal := true, readyAt := s.cyc }

/-! ## Takeover (R449) -/

/-- End a thread without an answer of its own. -/
def endThread (s : State) (d t : Nat) : State := freeT (orphanKids s d t) d t

/-- Answer every released and unanswered request of a channel with RETRY, on the interface given; one that was not yet released has
no ledger entry, and is discarded (R448, R449). -/
def retryAll (s : State) (c i : Nat) : State :=
  let s := { s with reqs := s.reqs.filter fun r => !(r.chan == c && r.inQueue) }
  let rs := s.reqs.filter fun r => r.chan == c
  let s := rs.foldl (fun s r => match r.thread with
    | some t => if (getT s r.home t).req == some r.id && !(getT s r.home t).sent then endThread s r.home t else s
    | none => s) s
  let f : Req → Req := fun r =>
    { r with phase := .admitted, resp := some (respStatus 3), refusal := true, moved := true, buf := none, thread := none, booked := none, iface := i, readyAt := s.cyc }
  { s with reqs := updWhere (fun r => r.chan == c) f s.reqs }

/-- Move the channels of a die (one interface of it, or all) to its partner; `works` says whether the old interface
still sends the RETRY answers. -/
def takeover (s : State) (d : Nat) (ifx : Option Nat) (works : Bool) : State :=
  let cs := (List.range 64).filter fun c => chEn s c && homeOf s c == d && (ifx == none || ifx == some (chIfx s c))
  cs.foldl (fun s c =>
    let i := if works then chIface s c else 3 * partner d + chIfx s c
    setHome (retryAll s c i) c (partner d)) s

/-! ## Departure (R316 to R322) -/

/-- Words of a response packet, with timestamps and second record as given. -/
def respWords (s : State) (r : Req) (x : Resp) (ts two : Bool) : List Nat :=
  let ws := respCore x (hdrTag r.hdr) ts two ++
    (if ts then respTime r.arr (capture s (ifDie r.iface) s.cyc (some TIM_DEP_OFS.OFS)) else [])
  ws ++ List.replicate (4 - ws.length) 0

/-- What a response carries when it must fit in a number of egress cycles: timestamps go first, then the second record. -/
def fitResp (k : Nat) (limit : Option Nat) (ts two : Bool) : Bool × Bool :=
  let fits := fun (ts two : Bool) => match limit with
    | some l => decide (ceilDiv (respLen two ts) k ≤ l)
    | none => true
  if fits ts two then (ts, two) else if fits false two then (false, two) else (false, false)

end Sys2Proof.Machine
end

