-- ==== Sys2Proof/Machine/AlarmOps.lean ====
section
/-!
DEFINITION. Alarms and their policies (R464, R465), zeroization (R401, R466) and the fence (R467).
-/

namespace Sys2Proof.Machine

/-- Policy of an alarm source: fixed for sources 0x08 and 0x09 (R464). -/
def alarmPolicy (s : State) (src : Nat) : Nat :=
  if src = 8 then 2 else if src = 9 then 3 else getF s 0 (SEC_ALM_POL.POL src)

/-- What zeroization does to the evidence log (R401): a ZEROIZE record when it runs, and the key is gone. -/
def zeroizeLog (s : State) (src : Nat) : State :=
  let running := s.part.unitT && isF s 0 EVD_CTL.EN
  let s := { s with evd := { s.evd with key := none, due := [] } }
  let s := setF s 0 EVD_STS.KEY 0
  if !running then s
  else
    let s := if s.evd.enabling then s else appendRecord s (evPlain 6 (nowStamp s) src 0)
    let s := s.evd.queue.foldl (fun s _ => sendEvidence.loseRecord s 0) { s with evd := { s.evd with enabling := false, queue := [], due := [] } }
    let s := setF (setF (setF s 0 EVD_CTL.EN 0) 0 EVD_STS.RUN 0) 0 EVD_STS.STOP 4
    raiseErr s 0 pgEvd EVD_ERR.ZEROIZED (it1 (readWord s 0 pgEvd 0 0x84))

/-- Zeroization (R466): keys, KEK, signing key, identity key, buffers and challenge are cleared; the cellar goes offline
with cause 5. A cellar write in progress ends, with the status of an offline region (DESIGN CHOICE, log 97). -/
def zeroize (s : State) (src : Nat) : State :=
  let s := if s.cwrite.isSome then setF (setF s 0 CEL_WCMD.GO 0) 0 CEL_WCMD.STATUS 1 else s
  let s := { s with kek := none, keys := [], idKey := none, cwrite := none, unlock := { s.unlock with chal := none } }
  let s := (List.range 16).foldl (fun s i => setF s 0 (CEL_KBLOB.BLOB i) 0) s
  let s := (List.range 32).foldl (fun s i => setF s 0 (CEL_WBUF.DATA i) 0) s
  let s := (List.range 8).foldl (fun s i => setF s 0 (CEL_KVALID.VALID i) 0) s
  let s := (List.range 12).foldl (fun s i => setF s 0 (SEC_DBG_CHAL.DATA i) 0) s
  let s := setF s 0 CEL_STS.KEK 0
  let s := if s.part.unitC then cellarOff s 5 else s
  let s := setF s 0 SEC_ALM_STS.ZEROIZED 1
  let s := raiseErr s 0 pgSec SEC_ERR.ZEROIZED (it1 src)
  zeroizeLog s src

/-- End every thread of a die without an answer of its own. -/
def endThreads (s : State) (d : Nat) : State := ((threadsOf s d).map fun p => p.1).foldl (fun s t => freeT s d t) s

/-- Answer every unanswered request with a status, in order; a deferred request receives a notice with DEV = 1. -/
def answerAll (s : State) (ds : List Nat) (status : Nat) : State :=
  let s := ds.foldl (fun s d => (threadsOf s d).foldl (fun s p =>
    if p.2.deferred && !p.2.child then deviceAnswer s d p.1 status else s) s) s
  let f : Req → Req := fun r =>
    if r.resp.isSome then r
    else { r with phase := .admitted, resp := some (respStatus status), refusal := true, readyAt := s.cyc, thread := none }
  { s with reqs := updWhere (fun r => ds.contains r.home) f s.reqs }

/-- Fence the device (R467). -/
def fenceDevice (s : State) : State :=
  let s := answerAll s (dies s) 0xB
  let s := (dies s).foldl endThreads s
  setF { s with fencedDev := true } 0 SEC_ALM_STS.FENCED 1

/-- Fire an alarm source under its policy (R465). -/
def fireAlarm (s : State) (src : Nat) : State :=
  let p := alarmPolicy s src
  let s := setF s 0 SEC_ALM_STS.FIRED (getF s 0 SEC_ALM_STS.FIRED ||| 2 ^ (src - 1))
  let s := setF s 0 SEC_ALM_STS.LAST src
  let s := if 1 ≤ p then raiseErr s 0 pgSec SEC_ERR.ALARM (it1 src) else s
  let s := if 2 ≤ p then zeroize s src else s
  if p = 3 then fenceDevice s else s

end Sys2Proof.Machine
end

