-- ==== Sys2Proof/Machine/Bsq.lean ====
section
/-!
DEFINITION. Self-qualification (R481 to R485, R495): its start, its phases with their findings, and its repairs.
-/

namespace Sys2Proof.Machine

/-- Self-qualification begins on a die: phase 1, interfaces down. -/
def startBsq (s : State) (d : Nat) : State :=
  let s := setF (setF s d BSQ_CTL.GO 1) d BSQ_STS.BUSY 1
  let s := setF (setF (setF s d BSQ_STS.REFUSED 0) d BSQ_STS.PHASE 1) d BSQ_FAIL.CAUSE 0
  let s := setF (setF (setF s d BSQ_FAIL.BANK 0) d BSQ_FAIL.SHELF 0) d BSQ_FAIL.ROW 0
  let s := setF (setF s d BSQ_WAYS.FAILED 0) d BSQ_WAYS.TESTED 0
  let s := (List.range 3).foldl (fun s j => setIfState s (3 * d + j) 0 0) s
  { s with bsq := mset [] s.bsq d [] }

/-- GO is accepted (R485). -/
def bsqAccepts (s : State) (d : Nat) : Bool :=
  !isF s d UPD_CTL.EN && !((List.range 64).any fun c => chEn s c && homeOf s c == d) &&
  (!avail s || pairSt s d == (if d % 2 = 0 then 3 else 2))

/-- A write of BSQ_CTL: REPAIR, and GO unless it reads 1. -/
def writeBsq (s : State) (d val : Nat) : State :=
  let s := setF s d BSQ_CTL.REPAIR val
  if !val.testBit 31 || isF s d BSQ_CTL.GO then s
  else if bsqAccepts s d then startBsq s d
  else setF s d BSQ_STS.REFUSED 1

/-- BSQ_START: a write of BSQ_CTL with GO. -/
def execBsqStart (d val : Nat) (s : State) : Result :=
  .next (if present s d pgBsq && !s.heldDies.testBit d && !s.inReset && val.testBit 31 then writeBsq s d val else s)

/-! ## Findings (R483) -/

/-- Record the first cause of failure, with bank, shelf and row. -/
def bsqCause (s : State) (d cause bank shelf row : Nat) : State :=
  if getF s d BSQ_FAIL.CAUSE = 0 then
    setF (setF (setF (setF s d BSQ_FAIL.CAUSE cause) d BSQ_FAIL.BANK bank) d BSQ_FAIL.SHELF shelf) d BSQ_FAIL.ROW row
  else s

/-- Failing shelves of a bank: shelf (64 the spare), first failing row, failing rows. -/
def bankFinds (s : State) (d b : Nat) : List (Nat × Nat × Nat) :=
  ((mget [] s.bsq d).filter fun q => q.1 == b).map fun q => q.2

/-- Cause, shelf and row for which a bank fails; none when it passes or is repaired. -/
def bankFails (s : State) (d b : Nat) : Option (Nat × Nat × Nat) :=
  let l := bankFinds s d b
  match l.filter fun q => q.1 != 64 with
  | [] => none
  | q :: _ :: _ => some (1, q.1, q.2.1)
  | [q] =>
    if l.any fun r => r.1 == 64 then some (2, q.1, q.2.1)
    else if !isF s d BSQ_CTL.REPAIR then some (3, q.1, q.2.1)
    else none

/-- Phase 4 ends: the findings of the banks. -/
def bankPhase (s : State) (d : Nat) (shelves : List (Nat × Nat × Nat × Nat)) : State :=
  let s := { s with bsq := mset [] s.bsq d (shelves.filter fun q => decide (q.1 < 16 ∧ q.2.1 ≤ 64)) }
  (List.range 16).foldl (fun s b =>
    let l := bankFinds s d b
    let s := setF s d (BSQ_BANK.ROWS b) (min 65535 (sumL (l.map fun q => q.2.2)))
    let s := setF s d (BSQ_BANK.SPARE_BAD b) (b2n (l.any fun q => q.1 == 64))
    let s := setF s d (BSQ_BANK.SPARE_USED b) 0
    let s := setF s d (BSQ_BANK.FAILED b) (b2n (bankFails s d b).isSome)
    match bankFails s d b with
    | some q => bsqCause s d q.1 b q.2.1 q.2.2
    | none => s) s

/-- Phase 2 ends: the ways that failed. -/
def wayPhase (s : State) (d ways : Nat) : State :=
  if !s.part.unitS then s
  else
    let s := setF (setF s d BSQ_WAYS.TESTED 0xFFFF) d BSQ_WAYS.FAILED ways
    if 14 < popcount ways 16 then bsqCause s d 4 0 0 0 else s

/-- Disable the ways that failed, unless fewer than two pass. -/
def dropWays (s : State) (d : Nat) : State :=
  let ways := getF s d BSQ_WAYS.FAILED
  if 14 < popcount ways 16 then s
  else (bitsOf ways 16).foldl (fun s w =>
    let s := setF s d CCH_WAYS.EN (getF s d CCH_WAYS.EN &&& (65535 - 2 ^ w))
    let s := setF s d CCH_WAY_STS.FAILED (getF s d CCH_WAY_STS.FAILED ||| 2 ^ w)
    raiseErr s d pgBsq BSQ_ERR.WAY_FAIL (it1 w)) s

/-- Remap the one failing shelf of a bank to its spare. -/
def repairBank (s : State) (d b : Nat) : State :=
  match bankFails s d b, (bankFinds s d b).find? fun q => q.1 != 64 with
  | none, some q =>
    let s := setF (setF s d (UPD_SPARE_MAP.USED b) 1) d (UPD_SPARE_MAP.SHELF b) q.1
    let s := setF (setF s d (BSQ_BANK.SPARE_USED b) 1) d (BSQ_BANK.SHELF b) q.1
    raiseErr s d pgBsq BSQ_ERR.REPAIR (it2 b q.1)
  | _, _ => s

/-- What self-qualification leaves in the arrays (R484). -/
def clearArrays (s : State) (d : Nat) : State :=
  let zero : Thread → Thread := fun t => { t with slice := 0, unc := 0, cor := 0 }
  let ths := (s.threads.filter fun q => q.1 / 512 == d).map fun q => q.1
  let s := { s with rows := s.rows.filter fun q => q.1 / 1064960 != d, cache := s.cache.filter fun q => q.1 / 65536 != d }
  { s with threads := ths.foldl (fun m k => mmod Thread.zero m k zero) s.threads }

/-- Phase 6 ends: repairs, the result, and the end of the run of `ms` milliseconds. -/
def endBsq (s : State) (d ms : Nat) : State :=
  let s := clearArrays s d
  let s := if s.part.unitS then dropWays s d else s
  let s := (List.range 16).foldl (fun s b => repairBank s d b) s
  let failed := getF s d BSQ_FAIL.CAUSE != 0
  let fixed := getF s d BSQ_WAYS.FAILED != 0 || (List.range 16).any fun b => isF s d (BSQ_BANK.SPARE_USED b)
  let s := setF (setF s d BSQ_CTL.GO 0) d BSQ_STS.BUSY 0
  let s := setF (setF s d BSQ_STS.PHASE 7) d BSQ_STS.TIME ms
  let s := setF s d BSQ_STS.RESULT (if failed then 3 else if fixed then 2 else 1)
  if failed then raiseErr s d pgBsq BSQ_ERR.FAIL (it1 (readWord s d pgBsq 0 0x88)) else s

/-- BSQ_PHASE_DONE: the running phase ends with its findings: phases 1, 3 and 5 whether a fault was found, phase 2 the
ways that failed, phase 4 the failing shelves as bank, shelf, first row and rows; `ms` is the run's duration so far. -/
def execBsqPhaseDone (d ways : Nat) (fault : Bool) (shelves : List (Nat × Nat × Nat × Nat)) (ms : Nat) (s : State) : Result :=
  .next (
    if !isF s d BSQ_STS.BUSY || s.part.dieCnt ≤ d then s
    else
      let n := getF s d BSQ_STS.PHASE
      if n = 6 then endBsq s d ms
      else
        let s := setF s d BSQ_STS.PHASE (n + 1)
        if n = 1 then (if fault then bsqCause s d 7 0 0 0 else s)
        else if n = 2 then wayPhase s d ways
        else if n = 3 then (if fault then bsqCause s d 5 0 0 0 else s)
        else if n = 4 then bankPhase s d shelves
        else (if fault then bsqCause s d 6 0 0 0 else s))

end Sys2Proof.Machine
end

