-- ==== Sys2Proof/Machine/Fault.lean ====
section
/-!
DEFINITION. The fault pages' commands: the end of a handling (R441), escalation (R445), injected errors (R504), page locks
(R503), the engine reset (R447) and golden replay (R457, R458).
-/

namespace Sys2Proof.Machine

/-- The page takes accesses: it is there. -/
def pageHere (s : State) (d pg : Nat) : Bool := decide (pg ≤ 21) && present s d pg

/-! ## Records -/

/-- ERROR_HANDLING_END: a write of 1 to ERR_FIRST.VALID. -/
def execErrorHandlingEnd (d pg : Nat) (s : State) : Result := .next (if pageHere s d pg then endHandling s d pg else s)

/-- The record of a page that waits for escalation: reported to the supervisor and not escalated yet; the first, else the one
in ERR_SECOND that was reported with ESC. Answers whether it is the second, its class and its bit. -/
def escTarget (s : State) (d pg : Nat) : Option (Bool × Nat × Nat) :=
  if isF s d (ERR_FIRST0.VALID pg) && decide (getF s d (ERR_FIRST0.CLASS pg) < 2) && !s.escal.contains (d, 128 + slotMark pg false) then
    some (false, getF s d (ERR_FIRST0.CLASS pg), getF s d (ERR_FIRST0.BIT pg))
  else if isF s d (ERR_SECOND.VALID pg) && isF s d (ERR_SECOND.ESC pg) && decide (getF s d (ERR_SECOND.CLASS pg) < 2) &&
      !s.escal.contains (d, 128 + slotMark pg true) then
    some (true, getF s d (ERR_SECOND.CLASS pg), getF s d (ERR_SECOND.BIT pg))
  else none

/-- Escalate a record, once (R445; DEDUCED, log 70). -/
def escalate (s : State) (d pg : Nat) (second : Bool) (k b : Nat) : State :=
  raiseErr (setMark (hostRecord s d pg b k second) d (128 + slotMark pg second)) d pgFlt FLT_ERR.SUP_ESC (it2 pg b)

/-- SUPERVISOR_ESCALATION: a record reported to the supervisor is still valid after FLT_SUP_TMO. -/
def execSupervisorEscalation (d pg : Nat) (s : State) : Result :=
  .next (
    if !pageHere s d pg || getF s d FLT_SUP_TMO.TMO = 0 then s
    else match escTarget s d pg with
      | some (second, k, b) => escalate s d pg second k b
      | none => s)

/-- Inject an error (R504): ignored while debug is locked, for a reserved bit, and for class S. -/
def inject (s : State) (d pg bit : Nat) : State :=
  if getF s d DBG_CTL.LEVEL = 0 || errBits pg ≤ bit || errClass s d pg bit = 3 then s else raiseErr s d pg bit ⟨0xFF, 0⟩

/-- ERROR_INJECT: PAGE_CTL.INJ with INJ_BIT. -/
def execErrorInject (d pg bit : Nat) (s : State) : Result :=
  .next (if pageHere s d pg then inject (setF s d (PAGE_CTL.INJ_BIT pg) bit) d pg (bit % 32) else s)

/-- PAGE_LOCK: PAGE_CTL.LOCK. -/
def execPageLock (d pg : Nat) (s : State) : Result := .next (if pageHere s d pg then setF s d (PAGE_CTL.LOCK pg) 1 else s)

/-! ## Engine reset (R447) -/

/-- Every thread of a die ends: unanswered requests are answered ABORTED, deferred ones by a notice. -/
def abortThreads (s : State) (d : Nat) : State :=
  endThreads ((threadsOf s d).foldl (fun s p => deviceAnswer s d p.1 6) s) d

/-- Begin an engine reset. -/
def startErst (s : State) (unload : Bool) : State :=
  let s := setF (setF s 0 FLT_ERST.UNLOAD (b2n unload)) 0 FLT_ERST.GO 1
  let s := (dies s).foldl abortThreads s
  let calm : StepEnt → StepEnt := fun e => { e with conf := 0 }
  { s with
    fltq := []
    stepEnts := s.stepEnts.map fun q => (q.1, calm q.2)
    fetches := s.fetches.filter fun f => f.done }

/-- A write of FLT_ERST on the lead die: UNLOAD, and GO unless it reads 1. -/
def writeErst (s : State) (val : Nat) : State :=
  if isF s 0 FLT_ERST.GO then s
  else if val.testBit 31 then startErst s (val.testBit 30) else setF s 0 FLT_ERST.UNLOAD (val / 2 ^ 30)

/-- ENGINE_RESET: a write of FLT_ERST with GO. -/
def execEngineReset (val : Nat) (s : State) : Result := .next (if val.testBit 31 && !s.inReset && !gone s 0 then writeErst s val else s)

/-- Drop the registers of a page in a range of offsets, on every die. -/
def dropRegs (s : State) (pg lo hi : Nat) : State :=
  { s with regs := s.regs.filter fun q =>
      let off := q.1 / 32 % 4096
      !(q.1 / (32 * 4096 * 65536) % 64 == pg && decide (lo ≤ off ∧ off < hi)) }

/-- What UNLOAD clears: the image and every row. -/
def unloadImage (s : State) : State :=
  let s := [(pgSeq, 0x400, 0x800), (pgLkp, 0x100, 0x300), (pgLkp, 0x400, 0x440), (pgThr, 0x100, 0x140), (pgThr, 0x180, 0x1C0),
    (pgArb, 0x100, 0x140), (pgShelf, 0, 4096), (pgPart, 0, 4096), (pgSr, 0, 4096), (pgCr, 0, 4096)].foldl
    (fun s q => dropRegs s q.1 q.2.1 q.2.2) s
  let s := (dies s).foldl (fun s d => setF (setF (setF s d SEQ_STS.LOADED 0) d SEQ_STS.ENTRIES 0) d SEQ_STS.STEPS 0) s
  let s := (List.range 8).foldl (fun s i => setF s 0 (CEL_OFF.OFF i) 0xFFFFFFFF) s
  setF { s with recipe := [], stepEnts := [], plans := [], rows := [], susq := [], slots := [], homes := [], pairChecks := [] } 0 PAGE_CAP.PROFILE 0

/-- An interface that was up trains anew. -/
def retrainIfs (s : State) : State :=
  ((List.range (3 * s.part.dieCnt)).filter fun i => getF s (i / 3) (LKP_IF_STS.STATE (i % 3)) == 2).foldl
    (fun s i => setF (setF s (i / 3) (LKP_IF_STS.STATE (i % 3)) 1) (i / 3) (LKP_IF_STS.LANES (i % 3)) 0) s

/-- ENGINE_RESET_DONE: accepted commands are complete, formed responses have left and the merging buffers have drained. -/
def execEngineResetDone (s : State) : Result :=
  .next (
    if !isF s 0 FLT_ERST.GO || s.mbuf != [] || s.cmds.any (fun c => c.acc.isSome) || s.reqs.any (fun r => r.resp.isSome) then s
    else
      let s := { s with cache := [], fills := [], steps := [], searches := [], books := [], issues := [], egress := [], locks := [], swAt := [] }
      let s := if isF s 0 FLT_ERST.UNLOAD then unloadImage s else s
      raiseErr (setF (retrainIfs s) 0 FLT_ERST.GO 0) 0 pgFlt FLT_ERR.ERST it0)

/-! ## Golden replay (R457, R458) -/

/-- A write of FLT_GR_CTL: GO starts a replay of the image's golden set, unless one runs. -/
def writeGr (s : State) (val : Nat) : State :=
  if isF s 0 FLT_GR_CTL.GO then s
  else
    let s := setF (setF (setF s 0 FLT_GR_CTL.SRC (val / 2 ^ 30)) 0 FLT_GR_CTL.SDIE (val / 2 ^ 27)) 0 FLT_GR_CTL.GROUP (val / 2 ^ 16)
    if !val.testBit 31 then s
    else if getF s 0 FLT_GR_CNT.COUNT = 0 then setF s 0 FLT_GR_STS.RESULT 5
    else
      let s := setF (setF (setF s 0 FLT_GR_CTL.GO 1) 0 FLT_GR_STS.BUSY 1) 0 FLT_GR_CNT.DONE 0
      { s with golden := some { vecBytes := [], resBytes := [], expectVec := s.goldVec, running := none } }

/-- GOLDEN_REPLAY: a write of FLT_GR_CTL with GO. -/
def execGoldenReplay (val : Nat) (s : State) : Result := .next (if val.testBit 31 && !s.inReset && !gone s 0 then writeGr s val else s)

/-- End a replay with a result. -/
def endGolden (s : State) (result : Nat) : State :=
  setF (setF (setF { s with golden := none } 0 FLT_GR_CTL.GO 0) 0 FLT_GR_STS.BUSY 0) 0 FLT_GR_STS.RESULT result

/-- The vector before has finished: its thread is free. -/
def goldenIdle (s : State) (g : Golden) : Bool :=
  match g.running with
  | some (d, t) => !(getT s d t).golden
  | none => true

/-- Base address of the vectors. -/
def goldenBase (s : State) : Nat := getF s 0 FLT_GR_BASE_HI.ADDR * 2 ^ 32 + getF s 0 FLT_GR_BASE_LO.ADDR / 16 * 16

/-- The bytes of a vector in the store room of a die, when every bucket is readable. -/
def storeVector (s : State) (d a : Nat) : Option (List Nat) :=
  let lines := (List.range 3).map fun i => a / 128 + i
  let need := lines.filter fun l => decide (l * 128 < a + 144)
  if !strUp s d || need.any (fun l => (memRead s d (l % 2 ^ 29)).bad) then none
  else some (((need.flatMap fun l => bytesBE 128 (forward (mbNewest s d (l % 2 ^ 29)) (memRead s d (l % 2 ^ 29))).data.toNat).drop (a % 128)).take 144)

/-- Run one vector: checks 1 to 3 of R219 in the replay's group; it waits rather than take OVERLOAD. -/
def runVector (s : State) (g : Golden) (v : List Nat) : State :=
  let d := v.getD 8 0 % 8
  let hdr : W64 := BitVec.ofNat 64 (ofBytesBE (v.take 8))
  let e := hdrRecipe hdr
  let grp := getF s 0 FLT_GR_CTL.GROUP
  let count := fun (s : State) (run : Option (Nat × Nat)) (res : List Nat) =>
    bump { s with golden := some { g with vecBytes := g.vecBytes ++ v, running := run, resBytes := g.resBytes ++ res } } 0 FLT_GR_CNT.DONE
  if s.part.dieCnt ≤ d || gone s d then endGolden s 4
  else if !isF s d (SEQ_ENTRY.VALID e) then count (rerr s d 1 e) none (goldenBytes (respStatus 9) (hdrTag hdr))
  else match threadRoom s d grp, lowestFree s d with
    | true, some t =>
      if bufO s d < bufFree s d then
        let th := newThread s d e 0 hdr (BitVec.ofNat 1024 (ofBytesBE ((v.drop 16).take 128))) none 0 true
        count (setT s d t { th with group := grp }) (some (d, t)) []
      else s
    | _, _ => s

/-- GOLDEN_VECTOR: the next vector is read (`data` from host memory, or the store room's own bytes) and admitted. -/
def execGoldenVector (data : BitVec 1152) (fail : Bool) (s : State) : Result :=
  .next (
    match s.golden with
    | none => s
    | some g =>
      if !goldenIdle s g || getF s 0 FLT_GR_CNT.COUNT ≤ getF s 0 FLT_GR_CNT.DONE then s
      else
        let a := goldenBase s + 144 * getF s 0 FLT_GR_CNT.DONE
        let v := if isF s 0 FLT_GR_CTL.SRC then storeVector s (getF s 0 FLT_GR_CTL.SDIE) a
          else if fail || !canMaster s then none else some (bytesBE 144 data.toNat)
        match v with
        | none => endGolden s 4
        | some v => runVector s g v)

/-- GOLDEN_REPLAY_DONE: the digests are compared. -/
def execGoldenReplayDone (s : State) : Result :=
  .next (
    match s.golden with
    | none => s
    | some g =>
      if !goldenIdle s g || getF s 0 FLT_GR_CNT.DONE < getF s 0 FLT_GR_CNT.COUNT then s
      else
        let dig := sha256 g.resBytes
        let want := (List.range 8).foldl (fun a i => a * 2 ^ 32 + getF s 0 (FLT_GR_EXP.DIGEST i)) 0
        let s := (List.range 8).foldl (fun s i => setF s 0 (FLT_GR_DIG.DIGEST i) (dig / 2 ^ (32 * (7 - i)))) s
        let item := it1 (getF s 0 FLT_GR_CNT.DONE)
        if sha256 g.vecBytes != g.expectVec then raiseErr (endGolden s 3) 0 pgFlt FLT_ERR.GR_VEC item
        else if dig % 2 ^ 256 = want then endGolden s 1
        else raiseErr (endGolden s 2) 0 pgFlt FLT_ERR.GR_MIS item)

end Sys2Proof.Machine
end

