-- ==== Sys2Proof/Machine/PowerOps.lean ====
section
/-!
DEFINITION. Shared operations of the power domains (R414 to R426): their registers, votes (R417), refusal conditions
(R420), what OFF loses, and the transitions that entries and wakes make.
-/

namespace Sys2Proof.Machine

/-! ## Registers of a domain (R433): held once per domain, with the domain's code as bank -/

def PWR_VOTE.HOST : Fld := ⟨15, 0x84, 0, 1, .rw, 1⟩
def PWR_STATE.RETRY : Fld := ⟨15, 0x88, 31, 1, .w1s, 0⟩
def PWR_STATE.LOW : Fld := ⟨15, 0x88, 16, 2, .rw, 0⟩
def PWR_STATE.HYST : Fld := ⟨15, 0x88, 0, 16, .rw, 100⟩
def PWR_REFUSE.LAST : Fld := ⟨15, 0x8c, 24, 8, .ro, 0⟩
def PWR_REFUSE.FAILS : Fld := ⟨15, 0x8c, 16, 8, .ro, 0⟩
def PWR_REFUSE.ABORTS : Fld := ⟨15, 0x8c, 8, 8, .ro, 0⟩
def PWR_REFUSE.REFUSALS : Fld := ⟨15, 0x8c, 0, 8, .ro, 0⟩
def PWR_ASSIST.FUSED : Fld := ⟨15, 0x90, 31, 1, .ro, 1⟩
def PWR_ASSIST.FBB : Fld := ⟨15, 0x90, 24, 4, .rwl, 0⟩
def PWR_ASSIST.RBB : Fld := ⟨15, 0x90, 20, 4, .rwl, 0⟩
def PWR_ASSIST.VRET : Fld := ⟨15, 0x90, 14, 6, .rwl, 0⟩
def PWR_ASSIST.WLUD : Fld := ⟨15, 0x90, 10, 4, .rwl, 0⟩

/-! ## Domains (R414) -/

/-- The die has the domain. -/
def domExists (s : State) (d c : Nat) : Bool :=
  decide (d < s.part.dieCnt) &&
  (c == 0 || c == 2 || c == 3 || (c == 1 && s.part.unitS) || (c == 4 && s.part.unitC) || (c == 5 && d == 0) ||
   decide (0x10 ≤ c ∧ c < 0x20) || (decide (0x20 ≤ c ∧ c < 0x30) && s.part.unitS))

/-- Codes of the die's domains. -/
def domCodes (s : State) (d : Nat) : List Nat := (List.range 0x30).filter fun c => domExists s d c

/-- STATE and STEP of PWR_STATE. -/
def domState : DomPhase → Nat
  | .on => 0
  | .ret => 1
  | .off => 2
  | .entering _ _ => 3
  | .waking _ _ => 4
  | .failed _ => 5
def domStep : DomPhase → Nat
  | .entering _ n => n
  | .waking low n => if n = 0 then 0 else 8 + (if low = 1 ∧ n = 3 then 4 else n)
  | _ => 0

/-- The domain that holds a page's block (R416); none for always-on pages. -/
def pageDom (s : State) (d pg : Nat) : Option Nat :=
  if pg = pgUpd ∨ pg = pgSeq ∨ pg = pgThr ∨ pg = pgBsq then some 0
  else if pg = pgStr ∨ pg = pgMss then some 1
  else if pg = pgArb ∨ pg = pgRs then some 2
  else if pg = pgLkp ∨ pg = pgCsc then some 3
  else if pg = pgCel then some 4
  else if pg = pgPkg ∨ pg = pgHif ∨ pg = pgTim ∨ pg = pgEvd ∨ pg = pgSec then some 5
  else if pg = pgAtc then
    let c := getF s d PWR_DSEL.DOM
    some (if 0x10 ≤ c ∧ c < 0x20 then c else 0x10)
  else if pg = pgCch then some (domWay (getF s d CCH_PWR_SEL.WAY))
  else none

/-! ## Votes (R417) -/

/-- A channel bound to one of a pair's groups is enabled on the die, or a thread of either group is not FREE. -/
def groupVote (s : State) (d p : Nat) : Bool :=
  ((List.range 64).any fun c => chEn s c && homeOf s c == d && chGroup s c / 2 == p) ||
  ((threadsOf s d).any fun q => q.1 != 0 && q.2.group / 2 == p)

/-- The 16 vote bits of a domain. -/
def votes (s : State) (d c : Nat) : Nat :=
  let tgp := if c ≤ 4 then maskOf ((List.range 8).filter fun p => groupVote s d p) * 2 else 0
  let accepted := s.cmds.any fun x => x.die == d && x.acc.isSome && !x.returning && x.origin != .scrub
  let upd := (c == 0 && (isF s d UPD_CTL.EN || accepted)) ||
    (c == 1 && s.cmds.any fun x => x.die == d && x.acc.isSome && ceOp x.entry == 0xA && ceSrc x.entry == 2)
  let scrub := (c == 0 && isF s d UPD_CTL.SCRUB_EN) || (c == 1 && isF s d STR_CTL.SCRUB_EN)
  let casc := d == 0 && (c == 2 || c == 3) && s.part.unitK && (isF s 0 CSC_CTL.U_EN || isF s 0 CSC_CTL.D_EN)
  let sup := c == 0 && (mget [] s.fltq d != [] || (getT s d 0).st != .free)
  let time := (c == 5 || c == 2) && s.part.unitT && (isF s 0 TIM_CTL.PPS_EN || isF s 0 EVD_CTL.EN)
  let way := decide (0x20 ≤ c) && (getF s d CCH_WAYS.EN).testBit (c - 0x20)
  getF s d PWR_VOTE.HOST c + tgp + b2n upd * 2 ^ 9 + b2n scrub * 2 ^ 10 + b2n casc * 2 ^ 11 + b2n sup * 2 ^ 12 +
    b2n time * 2 ^ 13 + b2n way * 2 ^ 14

/-! ## Refusals (R420) -/

/-- A bank holds a row or half that is not empty. -/
def bankUsed (s : State) (d b : Nat) : Bool :=
  s.rows.any fun q => q.1 / 66560 == d * 16 + b && (ctrlState q.2.ctrl != 0 || ctrlStateB q.2.ctrl != 0)

/-- A domain holds work in progress (code 0x05). -/
def domBusy (s : State) (d c : Nat) : Bool :=
  match c with
  | 0 => threadsOf s d != [] || (s.cmds.any fun x => x.die == d && x.acc.isSome)
  | 1 => (s.fills.any fun f => f.die == d) || (s.mbuf.any fun e => e.die == d) || (s.steps.any fun x => x.die == d)
  | 2 => (s.ringQ.any fun c => c.src == d) || (s.mgmt.any fun m => m.dest == d) || (s.cmds.any fun x => (!x.arrived && (x.die == d || x.from_ == d)) || x.returning)
  | 4 => s.fetches.any fun f => !f.done && (f.die == d || d == 0)
  | _ => false

/-- The first refusal condition that holds for a low state (1 RET, 2 OFF). -/
def refusal (s : State) (d c low : Nat) : Option Nat :=
  let off := low == 2
  let bank := decide (0x10 ≤ c ∧ c < 0x20)
  let way := decide (0x20 ≤ c)
  let guar := (List.range 64).any fun k => chEn s k && chGuar s k && homeOf s k == d
  (([(0x01, bank && (List.range 256).any fun p => isF s d PART_CTL.VALID p && (getF s d (PART_BANKS.BANKS d) p).testBit (c - 0x10)),
     (0x02, bank && off && bankUsed s d (c - 0x10)),
     (0x03, way && (getF s d CCH_WAYS.EN).testBit (c - 0x20)),
     (0x04, decide (c ≤ 3) && guar),
     (0x05, domBusy s d c),
     (0x06, c == 0 && off && loaded s),
     (0x07, c == 1 && off && isF s d STR_CTL.EN),
     (0x08, c == 3 && (getF s d LKP_IF_CFG.EN != 0 || (d == 0 && s.part.unitK && (isF s 0 CSC_CTL.U_EN || isF s 0 CSC_CTL.D_EN)))),
     (0x09, c == 2 && avail s && pairSt s d != 2 && pairSt s d != 3),
     (0x0A, c == 4 && off && (List.range 256).any fun r => regionOnline s r),
     (0x0B, c == 5 && isF s 0 HIF_STS.LINK_UP),
     (0x0C, c == 5 && off && (isF s 0 EVD_CTL.EN || s.evd.key.isSome || s.kek.isSome)),
     (0x0D, isF s d BSQ_STS.BUSY),
     (0x0E, bank && off && ((List.range 64).any (fun sh => isF s d SHELF_DESC.OWNED ((c - 0x10) * 64 + sh)) ||
        isF s d (UPD_SPARE_MAP.USED (c - 0x10))))] : List (Nat × Bool)).find? fun q => q.2).map fun q => q.1

/-- A wake event stands: a vote, or a refusal condition (R422). -/
def wakeStands (s : State) (d c low : Nat) : Bool := votes s d c != 0 || (refusal s d c low).isSome

/-- Record a code in PWR_REFUSE. -/
def refuseCode (s : State) (d c : Nat) (cnt : Fld) (code : Nat) : State :=
  setF (bumpSat s d cnt 1 c) d PWR_REFUSE.LAST code c

/-! ## The PLL (R411) -/

/-- Every domain of the die is in RET or OFF. -/
def allAsleep (s : State) (d : Nat) : Bool :=
  (domCodes s d).all fun c => (getDom s d c).phase == .ret || (getDom s d c).phase == .off

/-- With CLK_CTL.PLL_STOP_EN the PLL of a die whose domains all sleep stops (R411). -/
def stopPll (s : State) (d : Nat) : State :=
  if isF s d CLK_CTL.PLL_STOP_EN && allAsleep s d then
    bumpSat (setF (setF s d CLK_STS.PLL_RUN 0) d CLK_STS.LOCK 0) d CLK_LOCK_CNT.STOPS
  else s

/-! ## Contents -/

/-- Drop the registers of pages of a die: they return to their reset values. -/
def resetPages (s : State) (d : Nat) (pgs : List Nat) (from_ : Nat) : State :=
  { s with regs := s.regs.filter fun q =>
      let off := q.1 / 32 % 4096
      let pg := q.1 / (32 * 4096 * 65536) % 64
      !(q.1 / (32 * 4096 * 65536 * 64) == d && pgs.contains pg && decide (from_ ≤ off)) }

/-- What OFF loses (R414, R423): arrays come back as zero, configuration as at reset; the evidence unit of CP forgets its last records
(DEDUCED, log 36). -/
def loseContents (s : State) (d c : Nat) : State :=
  if 0x10 ≤ c ∧ c < 0x20 then
    let s := { s with rows := s.rows.filter fun q => q.1 / 66560 != d * 16 + (c - 0x10) }
    { s with regs := s.regs.filter fun q =>
        !(q.1 / (32 * 4096 * 65536) == d * 64 + pgShelf && q.1 / (32 * 4096) % 65536 / 64 == c - 0x10) }
  else if 0x20 ≤ c then { s with cache := s.cache.filter fun q => q.1 / 4096 != d * 16 + (c - 0x20) }
  else match c with
    | 0 =>
      let s := resetPages (resetPages s d [pgUpd, pgSeq, pgThr, pgBsq] 0x80) d [pgPart, pgSr, pgCr] 0
      { s with threads := s.threads.filter fun q => q.1 / 512 != d
               recipe := s.recipe.filter fun q => q.1 / 16384 != d
               stepEnts := s.stepEnts.filter fun q => q.1 / 256 != d }
    | 1 => setF { s with walks := s.walks ++ lockedLines s d, cache := s.cache.filter fun q => q.1 / 65536 != d } d STR_STS.READY 0
    | 2 => resetPages s d [pgArb, pgRs] 0x80
    | 3 => resetPages s d [pgLkp, pgCsc] 0x80
    | 4 => s
    | _ =>
      let s := resetPages s 0 [pgPkg, pgHif, pgTim, pgEvd, pgSec] 0x80
      { s with kek := none, keys := [], tim := State.reset.tim, xlats := []
               evd := { s.evd with key := none, last16 := [], due := [], queue := [], prev := none, first := true, covered := 0 } }

end Sys2Proof.Machine
end

