-- ==== Sys2Proof/Machine/RecipeCheck.lean ====
section
/-!
DEFINITION. What the image loader checks and computes of recipes (R200, R207, R342, R224): reachable words, operand checks,
paths with their schedule, the budget and the launch plan.
-/

namespace Sys2Proof.Machine

/-! ## Reachable words (R173, R177) -/

/-- Addresses that an instruction word can go on to. -/
def succs (w : W64) : List Nat :=
  if insOp w = 15 || insOp w = 16 then []
  else if insCond w = 0 then [insT w]
  else [insT w, insF w]

/-- Addresses found from a worklist, each expanded once; `next` gives what follows an address. -/
def reachFrom (next : Nat → List Nat) : Nat → List Nat → List Nat → List Nat
  | 0, seen, _ => seen
  | _ + 1, seen, [] => seen
  | fuel + 1, seen, a :: todo => if seen.contains a then reachFrom next fuel seen todo else reachFrom next fuel (a :: seen) (next a ++ todo)

/-- Addresses reached from some others, those among them; every address is expanded at most once, with at most two successors. -/
def reach (next : Nat → List Nat) (start : List Nat) : List Nat := reachFrom next (3 * 16384 + 1) [] start

/-- The word at an address of the lead die's recipe store. -/
def wordAt (s : State) (a : Nat) : W64 := (recipeWord s 0 a).data

/-- Sort ascending, without repeats. -/
def sortNat (l : List Nat) : List Nat := (l.mergeSort fun a b => decide (a ≤ b)).eraseDups

/-- Words of the recipe at an address: its own code, without FORK targets. -/
def ownCode (s : State) (start : Nat) : List Nat := sortNat (reach (fun a => succs (wordAt s a)) [start])

/-- FORK targets among addresses. -/
def forkTargets (s : State) (l : List Nat) : List Nat :=
  (l.filter fun a => insOp (wordAt s a) == 9).map fun a => opnd (wordAt s a) 14 14

/-- Code reachable from FORK targets of a recipe. -/
def kidCode (s : State) (own : List Nat) : List Nat := sortNat (reach (fun a => succs (wordAt s a)) (forkTargets s own))

/-! ## One word (R207 codes 0x01 to 0x06, 0x08) -/

/-- Reserved opcode, reserved value or non-zero reserved bit (code 0x01). -/
def badOperand (w : W64) : Bool :=
  let z := fun (lo n : Nat) => opnd w lo n != 0
  let rec_ := fun (lo : Nat) => decide (5 < opnd w lo 3)
  match insOp w with
  | 1 => opnd w 27 1 == 1 && z 0 3
  | 2 => false
  | 3 => z 16 3 || z 0 10
  | 4 => opnd w 18 2 == 3 || rec_ 15 || (opnd w 18 2 == 2 && opnd w 15 3 == 5) || z 0 10
  | 5 => z 18 2 || rec_ 15 || z 0 15
  | 6 => z 18 2 || rec_ 15 || z 0 15
  | 7 => z 0 21
  | 8 => opnd w 25 3 == 6 || z 0 24
  | 9 => rec_ 10 || z 0 10
  | 10 => rec_ 18 || z 0 18
  | 11 => z 0 15
  | 12 => z 0 17
  | 13 => opnd w 26 2 == 3 || rec_ 21 || z 0 21
  | 14 => rec_ 25 || (opnd w 24 1 == 1 && opnd w 25 3 == 5) || !([15, 1, 3, 5, 9, 10].contains (opnd w 20 4)) || z 0 20
  | 15 => z 0 20
  | 16 => z 0 28
  | _ => true

/-- The opcode belongs to an absent unit (code 0x02). -/
def absentOp (s : State) (w : W64) : Bool :=
  match insOp w with
  | 3 => !s.part.unitS
  | 5 => !s.part.unitS
  | 6 => !s.part.unitC
  | 7 => !s.part.unitT
  | 8 => !s.part.unitT
  | _ => false

/-- Slice bytes `a` to `a + n - 1` lie in the key area or in the scratch area (R181). -/
def inAreas (a n : Nat) : Bool := decide (0x80 ≤ a ∧ a + n ≤ 0x100) || decide (0x1C0 ≤ a ∧ a + n ≤ 0x200)

/-- A slice address, length or destination out of range (code 0x03). -/
def badAddress (w : W64) : Bool :=
  match insOp w with
  | 1 =>
    if opnd w 27 1 = 1 then
      let n := opnd w 3 6 + 1
      decide (512 < opnd w 18 9 + n) || !inAreas (opnd w 9 9) n
    else
      let n := opnd w 0 5 + 1
      decide (4096 < opnd w 15 12 + n) || decide (1024 < opnd w 5 10 + n)
  | 2 => decide (1024 < 4 * opnd w 20 8 + opnd w 16 4 + 1)
  | 3 => !inAreas (8 * opnd w 10 6) 8
  | 7 => !inAreas (8 * opnd w 22 6) 12
  | 11 => decide (512 < 8 * opnd w 15 6 + 8 * (opnd w 21 2 + 1))
  | 12 => !inAreas (8 * opnd w 17 6) 32
  | _ => false

/-- The instruction names a partition. -/
def namesPart (w : W64) : Bool := [3, 4, 5, 6].contains (insOp w)

/-- Lower tiers of a partition. -/
def partStore (s : State) (p : Nat) : Bool := isF s 0 PART_CTL.STORE p
def partCellar (s : State) (p : Nat) : Bool := isF s 0 PART_CTL.CELLAR p

/-- A partition names a tier of an absent unit (R7). -/
def absentTier (s : State) (p : Nat) : Bool := (partStore s p && !s.part.unitS) || (partCellar s p && !s.part.unitC)

/-- The tier set or the width does not allow the instruction (code 0x05). -/
def badTier (s : State) (w : W64) : Bool :=
  let p := opnd w 20 8
  let wide := decide (1 < partWidth s 0 p)
  match insOp w with
  | 4 => opnd w 13 1 == 1 && (!partStore s p || wide || opnd w 18 2 != 0 || opnd w 12 1 == 1)
  | 5 => !partStore s p || wide
  | 6 => !partCellar s p || wide
  | _ => false

/-- RA where it may not stand (code 0x06). -/
def badAhead (s : State) (w : W64) : Bool :=
  insOp w == 4 && opnd w 14 1 == 1 && (partFixed s 0 (opnd w 20 8) || opnd w 13 1 == 1)

/-- The first code that a reachable word breaks, in ascending order; `kid` marks child code, `sup` the supervisor's. -/
def wordCode (s : State) (kid sup : Bool) (w : W64) : Option Nat :=
  let p := opnd w 20 8
  (([(1, badOperand w), (2, absentOp s w || (namesPart w && absentTier s p)), (3, badAddress w),
     (4, namesPart w && !isF s 0 PART_CTL.VALID p), (5, badTier s w), (6, badAhead s w),
     (8, (kid && (insOp w == 9 || insOp w == 10 || (insOp w == 14 && opnd w 24 1 == 1))) ||
         (sup && (insOp w == 9 || insOp w == 10 || insOp w == 14))),
     (0xA, insOp w == 4 && opnd w 10 2 != partDepth s 0 p)] : List (Nat × Bool)).find? fun q => q.2).map fun q => q.1

/-! ## Paths (R200) -/

/-- Every path from an address up to its first EMIT, TRAP or END, as addresses. -/
def pathsFrom (s : State) : Nat → Nat → List (List Nat)
  | 0, _ => []
  | fuel + 1, a =>
    let w := wordAt s a
    if insOp w = 14 || insOp w = 15 || insOp w = 16 then [[a]]
    else (succs w).flatMap fun b => (pathsFrom s fuel b).map fun l => a :: l

/-- What the schedule of a path has reached: the time, the last cycle of its first SRCH, the launches as cycle,
partition and mode, the instruction starts as CQ cycle and whether they follow
the first SRCH, and its store-room steps. -/
structure Sched where
  t : Nat
  firstEnd : Option Nat
  launches : List (Nat × Nat × Nat)
  starts : List (Nat × Bool)
  steps : Nat
  deriving DecidableEq, Repr

/-- A SRCH of the path can reach the store room (R22, R205). -/
def mayStep (s : State) (w : W64) : Bool :=
  insOp w == 5 || (insOp w == 4 && (opnd w 13 1 == 1 || (partStore s (opnd w 20 8) && opnd w 18 2 == 0 && opnd w 12 1 == 0)))

/-- Schedule one instruction. -/
def schedOne (s : State) (x : Sched) (a : Nat) : Sched :=
  let w := wordAt s a
  let x := { x with starts := x.starts ++ [(x.t / 2, x.firstEnd.isSome)] }
  if insOp w = 4 then
    let p := opnd w 20 8
    let launch := if x.firstEnd.isSome then x.t + 4 else x.t + 4 + 8
    { x with t := launch + 30 + 32 * opnd w 10 2
             firstEnd := some (x.firstEnd.getD (x.t + 3))
             launches := x.launches ++ [(launch, p, opnd w 18 2)]
             steps := if mayStep s w then x.steps + 1 else x.steps }
  else
    { x with t := x.t + (if insOp w = 14 then 8 else 4), steps := if mayStep s w then x.steps + 1 else x.steps }

/-- Schedule a path: its first instruction starts in cycle 52. -/
def schedPath (s : State) (l : List Nat) : Sched := l.foldl (schedOne s) ⟨52, none, [], [], 0⟩

/-- An instruction that a fixed path may not run before its first EMIT (code 0x09). -/
def notFixed (w : W64) : Bool :=
  (insOp w == 4 && opnd w 14 1 == 1) || [9, 10, 11, 12].contains (insOp w) || (insOp w == 13 && opnd w 25 1 == 1)

/-- An attic search that some path reaches after a store-room step, before its EMIT or after it. -/
def lateSrch (s : State) (own : List Nat) : Option Nat :=
  let after := reach (fun b => succs (wordAt s b)) ((own.filter fun b => mayStep s (wordAt s b)).flatMap fun b => succs (wordAt s b))
  own.find? fun a => insOp (wordAt s a) == 4 && after.contains a

/-- Where a path breaks the fixed-path rules before its first EMIT. -/
def pathBreak (s : State) (start : Nat) (l : List Nat) : Option Nat :=
  match l.find? fun a => notFixed (wordAt s a) with
  | some a => some a
  | none => if insOp (wordAt s (l.getLastD start)) = 16 then some (l.getLastD start) else none

/-- Where a recipe breaks the fixed-path rules: the address concerned. -/
def fixedBreak (s : State) (start : Nat) (own : List Nat) : Option Nat :=
  match own.find? fun a => (reach (fun b => succs (wordAt s b)) (succs (wordAt s a))).contains a with
  | some a => some a
  | none => ((pathsFrom s 16385 start).findSome? (pathBreak s start)).or (lateSrch s own)

/-- BUDGET of an entry (R200): the last cycle of each path's EMIT or TRAP, and 31 more. -/
def budgetOf (s : State) (start : Nat) : Nat :=
  ((pathsFrom s 16385 start).map fun l => (schedPath s l).t - 1 + 30 + 1).foldl max 0

/-- The launch plan (R342) and the booked starts (R224) of an entry. -/
def planOf (s : State) (start : Nat) : Plan :=
  let xs := (pathsFrom s 16385 start).map (schedPath s)
  let starts := ((xs.flatMap fun x => x.starts).map fun q => (q.1, 1, q.2)).eraseDups
  let steps := (xs.map fun x => x.steps).foldl max 0
  match (xs.filterMap fun x => x.firstEnd).min? with
  | none => { s := 0, launches := [], starts := starts, steps := steps }
  | some s0 =>
    { s := s0, launches := ((xs.flatMap fun x => x.launches).map fun q => (⟨q.1 - (s0 + 9), q.2.1, q.2.2⟩ : PlanLaunch)).eraseDups,
      starts := starts, steps := steps }

/-! ## LOG and linked COMMITs (code 0x0C) -/

/-- A LOG with REC = 7 reached with no earlier top-level EMIT. -/
def earlyLog (s : State) (roots : List Nat) (kid : Bool) : Option Nat :=
  let next := fun (a : Nat) => if insOp (wordAt s a) = 14 && !kid then [] else succs (wordAt s a)
  (sortNat (reach next roots)).find? fun a => insOp (wordAt s a) == 8 && opnd (wordAt s a) 25 3 == 7

/-- An instruction other than XTR, LIT or COMMIT between a COMMIT with LINK = 1 and the path's next COMMIT. -/
def linkBreak (s : State) (code : List Nat) : Option Nat :=
  (code.filter fun a => insOp (wordAt s a) == 13 && opnd (wordAt s a) 24 1 == 1).findSome? fun a =>
    let plain := fun (b : Nat) => insOp (wordAt s b) == 1 || insOp (wordAt s b) == 2
    let next := fun (b : Nat) => if plain b then succs (wordAt s b) else []
    (sortNat (reach next (succs (wordAt s a)))).find? fun b => !plain b && insOp (wordAt s b) != 13

/-! ## One entry -/

/-- The first rejection of an entry: its code and the address of the failing word. -/
def entryCode (s : State) (e : Nat) (start : Nat) (fixed : Bool) : Option (Nat × Nat) :=
  let own := ownCode s start
  let kids := kidCode s own
  let sups := (dies s).any fun d => getF s d THR_SUP.ENTRY == e
  let words := sortNat (own ++ kids)
  match words.findSome? fun a => (wordCode s (kids.contains a) sups (wordAt s a)).map fun c => (c, a) with
  | some q => some q
  | none =>
    match (if fixed then fixedBreak s start own else none) with
    | some a => some (9, a)
    | none =>
      if fixed && decide (65535 < budgetOf s start) then some (0xB, start)
      else match (earlyLog s [start] false).or ((earlyLog s (forkTargets s own) true).or (linkBreak s words)) with
        | some a => some (0xC, a)
        | none => none

/-- Addresses of the step entries of a recipe and its children, ascending (R206). -/
def stepAddrs (s : State) (start : Nat) : List Nat :=
  let own := ownCode s start
  (sortNat (own ++ kidCode s own)).filter fun a => insOp (wordAt s a) == 4 && (opnd (wordAt s a) 14 1 == 1 || opnd (wordAt s a) 13 1 == 1)

end Sys2Proof.Machine
end

