-- ==== Sys2Proof/Machine/Loader.lean ====
section
/-!
DEFINITION. The image loader (R460 check 6, R481): what an image writes, the content checks of R66, R103, R123, R207, R220,
R244, R246, R252, R286, R310, R312, R317, R345 and R402, and the reports of a rejection.
-/

namespace Sys2Proof.Machine

/-! ## Writing the image -/

/-- Pages whose registers an image gives; of the host-interface page the peer windows, of the security page the alarm
policies, of the evidence page the log's configuration. -/
def imagePage (pg off : Nat) : Bool :=
  [pgUpd, pgSeq, pgThr, pgStr, pgCch, pgLkp, pgCsc, pgArb, pgEvd, pgPwr, pgPart, pgSr, pgCr, pgShelf].contains pg ||
  (pg == pgHif && (off == 0xC0 || off == 0xC4)) || (pg == pgSec && off == 0x84)

/-- Fields that an image word writes: those that software may write, and a shelf's descriptor. -/
def imageFields (pg off : Nat) : List Fld :=
  if pg = pgPwr ∧ off = 0x84 then [PWR_VOTE.HOST]
  else if pg = pgPwr ∧ off = 0x88 then [PWR_STATE.LOW, PWR_STATE.HYST]
  else if pg = pgPwr ∧ off = 0x90 then [PWR_ASSIST.FBB, PWR_ASSIST.RBB, PWR_ASSIST.VRET, PWR_ASSIST.WLUD]
  else (fieldsAt pg off).filter fun f => (f.acc == .rw || f.acc == .rwl || pg == pgShelf) && f != EVD_CTL.EN

/-- Dies that an image word is written to: package tables go to every die's copy, channels to the one the model keeps. -/
def imageDies (s : State) (w : ImageWord) : List Nat :=
  if w.page = pgPart ∨ w.page = pgCr then dies s
  else if w.page = pgLkp ∧ 0x100 ≤ w.off ∧ w.off < 0x300 then [0]
  else [w.die]

/-- Write one image word; fields of absent dies and of an absent unit K stay 0 (R66). -/
def putWord (s : State) (w : ImageWord) : State :=
  if !imagePage w.page w.off || s.part.dieCnt ≤ w.die then s
  else
    let keep := fun (f : Fld) => w.page != pgPart ||
      !((List.range 8).any fun e => decide (s.part.dieCnt ≤ e) && f == PART_BANKS.BANKS e) && (s.part.unitK || f != PART_CASC.CASC_MASK)
    ((imageFields w.page w.off).filter keep).foldl (fun s f =>
      (imageDies s w).foldl (fun s d => setF s d f (fld w.value f.lo f.width) w.bank) s) s

/-- A recipe word with its check bits. -/
def putRecipe (s : State) (q : Nat × Nat) : State :=
  let w : RWord := ⟨BitVec.ofNat 64 q.2, BitVec.ofNat 8 (secField 64 7 (q.2 % 2 ^ 64))⟩
  { s with recipe := (dies s).foldl (fun m d => mset ⟨0, 0⟩ m (d * 16384 + q.1 % 16384) w) s.recipe }

/-- Entries of an image, each number once, ascending. -/
def entriesOf (c : Contents) : List ImageEntry :=
  (List.range 256).filterMap fun n => c.entries.find? fun e => e.number == n

/-- Write one entry: with its budget, its plan, and its bits of LKP_ENT. -/
def putEntry (s : State) (e : ImageEntry) : State :=
  let n := e.number
  let own := ownCode s e.start
  let two := own.any fun a => insOp (wordAt s a) == 14 && opnd (wordAt s a) 24 1 == 1
  let store := own.any fun a => mayStep s (wordAt s a)
  let budget := if e.fixed then budgetOf s e.start else 0
  let s := { s with plans := if e.fixed then mset Plan.none s.plans n (planOf s e.start) else s.plans }
  (dies s).foldl (fun s d =>
    let s := setF (setF s d (SEQ_ENTRY.VALID n) 1) d (SEQ_ENTRY.FIXED n) (b2n e.fixed)
    let s := setF (setF s d (SEQ_ENTRY.START n) e.start) d (SEQ_ENTRY.BUDGET n) budget
    setF (setF s d (LKP_ENT.TWO n) (b2n two)) d (LKP_ENT.STORE n) (b2n store)) s

/-- Addresses of all step entries of an image. -/
def allSteps (s : State) (c : Contents) : List Nat := sortNat ((entriesOf c).flatMap fun e => stepAddrs s e.start)

/-- Number the step entries on every die. -/
def putSteps (s : State) (as : List Nat) : State :=
  as.zipIdx.foldl (fun s q =>
    let e : StepEnt := { StepEnt.zero with used := true, addr := q.1, par := opnd (wordAt s q.1) 13 1 == 1 }
    { s with stepEnts := (dies s).foldl (fun m d => mset StepEnt.zero m (ekey d q.2) e) s.stepEnts }) s

/-- Descriptors, registers and recipes of the image in place, nothing checked. -/
def putTables (s : State) (c : Contents) : State :=
  let s := setF (unloadImage s) 0 PAGE_CAP.PROFILE c.profile
  let s := c.words.foldl putWord s
  let s := (dies s).foldl (fun s d => (List.range 4).foldl (fun s i => takeTable s d d i) s) s
  c.recipe.foldl putRecipe s

/-- The whole image in place. -/
def putImage (s : State) (c : Contents) : State :=
  let t := putTables s c
  putSteps ((entriesOf c).foldl putEntry t) (allSteps t c)

/-! ## Checks of descriptors and region tables (R66, R246; ATC_LOAD) -/

/-- A rejection for ATC_LOAD: code, die, whether INDEX is a region, index. -/
abbrev AtcRej := Nat × Nat × Bool × Nat

/-- Partitions the image defines in part, and valid regions of the two tables. -/
def srValid (s : State) (d r : Nat) : Bool := isF s d SR_CTL.VALID r
def crValid (s : State) (r : Nat) : Bool := isF s 0 CR_CTL.VALID r

/-- Two ranges given by first and length overlap. -/
def overlaps (a n b m : Nat) : Bool := decide (a < b + m ∧ b < a + n)

/-- Descriptor checks, codes 0x01 to 0x07. -/
def partRejs (s : State) : List AtcRej :=
  let ps := List.range 256
  let rej := fun (c : Nat) (bad : Nat → Bool) => (ps.filter bad).map fun p => ((c, 0, false, p) : AtcRej)
  rej 1 (fun p => decide (3 < partWidth s 0 p)) ++
  rej 2 (fun p => partCellar s p && !partStore s p) ++
  rej 3 (fun p => (partStore s p || partCellar s p) && decide (1 < partWidth s 0 p)) ++
  (if avail s then ps.flatMap fun p => ((List.range (s.part.dieCnt / 2)).filter fun q =>
      getF s 0 (PART_BANKS.BANKS (2 * q)) p != getF s 0 (PART_BANKS.BANKS (2 * q + 1)) p).map fun q => ((4, 2 * q, false, p) : AtcRej) else []) ++
  rej 5 (absentTier s) ++
  (ps.flatMap fun p => ((diesOf s (dieSetOf s 0 p)).filter fun d =>
      partStore s p && !srValid s d (getF s 0 PART_REGION.SR_REGION p)).map fun d => ((6, d, false, p) : AtcRej)) ++
  rej 7 (fun p => partCellar s p && getF s 0 CR_CTL.PROMO_SR (getF s 0 PART_REGION.CL_REGION p) != getF s 0 PART_REGION.SR_REGION p)

/-- IOVA ranges of a cellar region with its address space: buckets and tags. -/
def crRanges (s : State) (r : Nat) : List (Nat × Nat) :=
  let n := getF s 0 CR_SIZE.NBUCK r
  [(getF s 0 CR_BASE_HI.ADDR r * 2 ^ 32 + getF s 0 CR_BASE_LO.ADDR r, 128 * n),
   (getF s 0 CR_TAG_HI.ADDR r * 2 ^ 32 + getF s 0 CR_TAG_LO.ADDR r, 16 * n)]
def crSpace (s : State) (r : Nat) : Option Nat := if isF s 0 CR_CTL.PASID_EN r then some (getF s 0 CR_PASID.PASID r) else none

/-- The cellar region whose size first exceeds 2 TiB in all (code 0x08). -/
def crExcess (s : State) : Option Nat :=
  let rs := (List.range 256).filter (crValid s)
  rs.find? fun r => decide (2 ^ 34 < sumL ((rs.filter fun q => decide (q ≤ r)).map fun q => getF s 0 CR_SIZE.NBUCK q))

/-- Region-table checks, codes 0x08 to 0x0B. -/
def regionRejs (s : State) : List AtcRej :=
  let rs := List.range 256
  let ds := if s.part.unitS then dies s else []
  let cell := fun (r : Nat) => s.part.unitC && crValid s r
  (match crExcess s with
   | some r => if s.part.unitC then [((8, 0, true, r) : AtcRej)] else []
   | none => []) ++
  (ds.flatMap fun d => (rs.filter fun r => srValid s d r && (List.range r).any fun q => srValid s d q &&
      overlaps (getF s d SR_BASE.BASE r) (getF s d SR_SIZE.NBUCK r) (getF s d SR_BASE.BASE q) (getF s d SR_SIZE.NBUCK q)).map
      fun r => ((9, d, true, r) : AtcRej)) ++
  ((rs.filter fun r => cell r && (List.range r).any fun q => cell q && crSpace s q == crSpace s r &&
      (crRanges s r).any fun a => (crRanges s q).any fun b => overlaps a.1 a.2 b.1 b.2).map fun r => ((9, 0, true, r) : AtcRej)) ++
  (ds.flatMap fun d => (rs.filter fun r => srValid s d r &&
      (getF s d SR_SIZE.NBUCK r == 0 || decide (2 ^ 29 < getF s d SR_SIZE.NBUCK r))).map fun r => ((0xA, d, true, r) : AtcRej)) ++
  ((rs.filter fun r => cell r && getF s 0 CR_SIZE.NBUCK r == 0).map fun r => ((0xA, 0, true, r) : AtcRej)) ++
  (if avail s then ds.flatMap fun d => if d % 2 = 1 then [] else
      (rs.filter fun r => (List.range 7).any fun i => readWord s d pgSr r (4 * i) != readWord s (d + 1) pgSr r (4 * i)).map
        fun r => ((0xB, d, true, r) : AtcRej) else [])

/-! ## Checks of recipes (R207; SEQ_LOAD) -/

/-- The first recipe rejection: code, entry, address. -/
def seqRej (s : State) (c : Contents) : Option (Nat × Nat × Nat) :=
  match (entriesOf c).findSome? fun e => (entryCode s e.number e.start e.fixed).map fun q => (q.1, e.number, q.2) with
  | some q => some q
  | none =>
    match (allSteps s c).drop 256 with
    | [] => none
    | a :: _ => (entriesOf c).findSome? fun e => if (stepAddrs s e.start).contains a then some (7, e.number, a) else none

/-! ## Checks of the thread page (R220), of channels (R310, R312, R317), of masks and rings (R123, R402) -/

/-- A die's thread page breaks R220. -/
def threadBreak (s : State) (d : Nat) : Bool :=
  let gs := List.range 16
  decide (351 < sumL (gs.map fun g => getF s d (THR_GRP_CFG.RESV g))) ||
  (gs.any fun g => decide (getF s d (THR_GRP_CFG.MAX g) < getF s d (THR_GRP_CFG.RESV g))) ||
  (gs.any fun g => groupGuar s d g && !(List.range 64).any fun k => isF s d (THR_SLOT.RES k) && getF s d (THR_SLOT.GROUP k) == g) ||
  (avail s && (pageRows pgThr).any fun r => (List.range r.count).any fun i =>
    (imageFields pgThr (r.off + 4 * i)).any fun f => getF s d f != getF s (partner d) f)

/-- Egress cycles that the tagged guaranteed channels of an interface could book in 64 CS cycles (R317). -/
def egressLoad (s : State) (i : Nat) : Nat :=
  let d := ifDie i
  let cs := (List.range 64).filter fun c => chEn s c && chGuar s c && !chOrdered s c && getF s 0 (LKP_CH_CFG.DIE c) == d && chIfx s c == ifIdx i
  sumL ((((cs.map fun c => chGroup s c).eraseDups).map fun g =>
    let slots := ((List.range 64).filter fun k => isF s d (THR_SLOT.RES k) && getF s d (THR_SLOT.GROUP k) == g).length
    ((List.range 256).map fun e =>
      let n := sumL ((mget Plan.none s.plans e).starts.map fun q => q.2.1)
      if isF s d (SEQ_ENTRY.FIXED e) && n != 0 then 8 * slots / n * ceilDiv (respLen (isF s d (LKP_ENT.TWO e)) s.part.unitT) (ifK s i) else 0).foldl max 0))

/-- The lookup port's configuration breaks a rule. -/
def lookupBreak (s : State) : Bool :=
  channelsBreak s ||
  ((dies s).any fun d => (List.range 3).any fun j =>
    ((getF s d LKP_IF_CFG.EN).testBit j && ifLanes (getF s d LKP_IF_CFG.MODE) j == 0) || decide (32 < egressLoad s (3 * d + j)) ||
    (avail s && (readWord s d pgLkp 0 0x80 != readWord s (partner d) pgLkp 0 0x80 ||
      getF s d (LKP_IF_OBUD.OBUD j) != getF s (partner d) (LKP_IF_OBUD.OBUD j))))

/-- A CASC_MASK that R123 does not allow. -/
def maskBreak (s : State) : Bool :=
  s.part.unitK && (List.range 256).any fun p => !([0, 1, 3, 7, 15].contains (getF s 0 PART_CASC.CASC_MASK p))

/-- A store-room evidence ring overlaps a valid store-room region (R402). -/
def ringBreak (s : State) : Bool :=
  s.part.unitT && s.part.unitS && !isF s 0 EVD_CTL.TGT &&
  ([(evBase s, 64 * getF s 0 EVD_SIZE.SLOTS), (evCpBase s, 256 * getF s 0 EVD_CP_SIZE.SLOTS)].any fun q => q.2 != 0 &&
    (let d := getF s 0 EVD_CFG.DIE
     (if avail s then [d / 2 * 2, d / 2 * 2 + 1] else [d]).any fun e => (List.range 256).any fun r => srValid s e r &&
      overlaps q.1 q.2 (128 * getF s e SR_BASE.BASE r) (128 * getF s e SR_SIZE.NBUCK r)))

/-! ## Checks of arbitration (R345; ARB_LOAD) -/

/-- A rejection for ARB_LOAD: code, entry, owner, instance, position. -/
abbrev ArbRej := Nat × Nat × Nat × Nat × Nat

/-- Instances of a die. -/
def instsOf (s : State) (d : Nat) : List Nat :=
  (List.range 4).filter fun i => (i != 3 || d == 0) && (i != 1 || s.part.unitS)

/-- Guaranteed groups that serve every FIXED entry: die and group. -/
def serving_ (s : State) : List (Nat × Nat) :=
  (dies s).flatMap fun d => ((List.range 16).filter fun g => groupGuar s d g &&
    (List.range 64).any fun c => chEn s c && chGroup s c == g && getF s 0 (LKP_CH_CFG.DIE c) == d).map fun g => (d, g)

/-- FIXED entries. -/
def fixedEntries (s : State) : List Nat := (List.range 256).filter fun e => isF s 0 (SEQ_ENTRY.FIXED e)

/-- Every launch of a plan placed at a first launch in cycle `x` falls on slots of the group (first condition of R343). -/
def planFits (s : State) (d g x : Nat) (p : Plan) : Bool :=
  (planLaunches p x).all fun q => (diesOf s (dieSetOf s d q.2)).all fun e => slotOf s e 0 (q.1 % 64) == g + 1

/-- The release position whose candidate window holds no fit (code 0x03). -/
def windowBreak (s : State) (d g : Nat) (p : Plan) : Option Nat :=
  if p.launches == [] then none
  else (List.range 64).find? fun a => !(candidates a p.s).any fun x => planFits s d g x p

/-- Launches of the FIXED entries' plans. -/
def fixedLaunches (s : State) : List PlanLaunch := (fixedEntries s).flatMap fun e => (mget Plan.none s.plans e).launches

/-- The most of a measure that a launch from die `d` can take at a table position: launches fall on even positions, on slots
that belong to one guaranteed group on every die of the set (DEDUCED, log 88). -/
def mostAt (s : State) (ls : List PlanLaunch) (d pos : Nat) (m : PlanLaunch → Nat) : Nat :=
  if pos % 2 = 1 then 0
  else ((serving_ s).filter fun q => q.1 == d).foldl (fun k q =>
    (ls.filter fun l => (diesOf s (dieSetOf s d l.part)).all fun e => slotOf s e 0 pos == q.2 + 1).foldl (fun k l => max k (m l)) k) 0

/-- Express cells on a hop in the CQ cycle of a position: search cells of launches there, result cells of launches 18 earlier. -/
def cellsAt (s : State) (ls : List PlanLaunch) (hop pos : Nat) : Nat :=
  sumL ((dies s).map fun d =>
    mostAt s ls d pos (fun l => if (hopsOf s d (dieSetOf s d l.part)).1.contains hop then outCells (partWidth s d l.part) else 0) +
    mostAt s ls d ((pos + 46) % 64) (fun l => if (hopsOf s d (dieSetOf s d l.part)).2.contains hop then backCells l.mode else 0))

/-- The fixed-latency reservations put more than 23 express cells on a hop in 8 CQ cycles (R113): the position. -/
def expressBreak (s : State) : Option Nat :=
  let ls := fixedLaunches s
  (List.range 64).find? fun p => p % 2 == 0 && (List.range (2 * s.part.dieCnt)).any fun h =>
    decide (23 < sumL ((List.range 8).map fun i => cellsAt s ls h ((p + 2 * i) % 64)))

/-- The fixed-latency reservations need more frame beats in a round than the D port's lanes in use give (R120); a port not yet
trained counts with its four lanes (DEDUCED, log 89). -/
def frameBreak (s : State) : Bool :=
  let lanes := if isF s 0 CSC_STS.D_UP then popcount (getF s 0 CSC_STS.D_LANES) 4 else 4
  s.part.unitK && decide (16 * lanes < sumL ((dies s).map fun d => sumL ((List.range 64).map fun p =>
    mostAt s (fixedLaunches s) d p fun l => cascBeats s d l.part)))

/-- The first rejection of the slot tables. -/
def arbRej (s : State) : Option ArbRej :=
  let ds := dies s
  let bad := ds.flatMap fun d => (instsOf s d).flatMap fun i => ((List.range 64).filter fun p => decide (ownerCount i < slotOf s d i p)).map
    fun p => ((1, 0, slotOf s d i p - 1, i, p) : ArbRej)
  let pair := if avail s then ds.flatMap fun d => if d % 2 = 1 then [] else
      [0, 1, 2].flatMap fun i =>
        (((List.range 64).filter fun p => slotOf s d i p != slotOf s (d + 1) i p).map fun p => ((2, 0, 0, i, p) : ArbRej)) ++
        (((List.range 32).filter fun o => getF s d (ARB_LEVEL.BASE o) i != getF s (d + 1) (ARB_LEVEL.BASE o) i).map fun o => ((2, 0, o, i, 0) : ArbRej))
    else []
  let win := (fixedEntries s).flatMap fun e => (serving_ s).filterMap fun q =>
    (windowBreak s q.1 q.2 (mget Plan.none s.plans e)).map fun p => ((3, e, q.2, 0, p) : ArbRej)
  let late := ((fixedEntries s).filter fun e =>
    let p := mget Plan.none s.plans e
    p.launches != [] && decide (960 < p.s + 9 + (p.launches.map fun q => q.off).foldl max 0)).map fun e => ((4, e, 0, 0, 0) : ArbRej)
  let upd := (ds.filter fun d => !(List.range 64).any fun p => slotOf s d 0 p == 0x11).map fun _ => ((5, 0, 0x10, 0, 0) : ArbRej)
  let probe := (ds.filter fun d => s.part.unitS && probeBreaks s d ((List.range 64).filter fun p => slotOf s d 1 p == 1).length).map
    fun _ => ((6, 0, 0, 1, 0) : ArbRej)
  let exp := (expressBreak s).toList.map fun p => ((7, 0, 0, 0, p) : ArbRej)
  (bad ++ pair ++ win ++ late ++ upd ++ probe ++ exp).head?

/-! ## Reports -/

/-- Record a rejection of descriptors in ATC_LOAD of every die. -/
def putAtcLoad (s : State) (r : Option AtcRej) : State :=
  let (c, d, g, n) := r.getD (0, 0, false, 0)
  (dies s).foldl (fun s e => setF (setF (setF (setF s e ATC_LOAD.CODE c) e ATC_LOAD.DIE d) e ATC_LOAD.RGN (b2n g)) e ATC_LOAD.INDEX n) s

/-- Record a rejection of recipes in SEQ_LOAD of every die, and as an error of each. -/
def putSeqLoad (s : State) (r : Option (Nat × Nat × Nat)) : State :=
  let (c, n, a) := r.getD (0, 0, 0)
  let s := (dies s).foldl (fun s e => setF (setF (setF s e SEQ_LOAD.CODE c) e SEQ_LOAD.ENTRY n) e SEQ_LOAD.ADDR a) s
  if r.isSome then (dies s).foldl (fun s e => raiseErr s e pgSeq SEQ_ERR.LOAD_REJ (it1 (readWord s e pgSeq 0 0x88))) s else s

/-- Record a rejection of slot tables in ARB_LOAD of every die, and as an error of each. -/
def putArbLoad (s : State) (r : Option ArbRej) : State :=
  let (c, n, o, i, p) := r.getD (0, 0, 0, 0, 0)
  let s := (dies s).foldl (fun s e => setF (setF (setF (setF (setF s e ARB_LOAD.CODE c) e ARB_LOAD.ENTRY n) e ARB_LOAD.OWNER o)
    e ARB_LOAD.INST i) e ARB_LOAD.POS p) s
  if r.isSome then (dies s).foldl (fun s e => raiseErr s e pgArb ARB_ERR.CFG_REJ (it1 (readWord s e pgArb 0 0xA0))) s else s

/-- Whether the contents pass, and the state with the load registers and errors of the checks recorded in `s`. The slot
tables are checked with the recipes' plans, and so only when the recipes pass. -/
def checkContents (s : State) (c : Contents) : Bool × State :=
  let t := putTables s c
  let atc := (partRejs t ++ regionRejs t).head?
  let seq := seqRej t c
  let u := if seq.isSome then t else putImage s c
  let thr := (dies s).filter (threadBreak t)
  let arb := if seq.isSome then none else arbRej u
  let s := putArbLoad (putSeqLoad (putAtcLoad s atc) seq) arb
  let s := thr.foldl (fun s d => raiseErr s d pgThr THR_ERR.CFG_REJ it0) s
  ((c.profile == 1 || c.profile == 2) && atc.isNone && seq.isNone && thr == [] && arb.isNone && !lookupBreak u && !frameBreak u && !maskBreak t && !ringBreak t, s)

/-- A checked image in force (R481): profile, pairs, offline regions, locks, golden set, and the recipe store. -/
def finishLoad (s : State) (c : Contents) : State :=
  let before := s
  let s := putImage s c
  let s := (dies s).foldl (fun s d =>
    let s := setF (setF s d SEQ_STS.LOADED 1) d SEQ_STS.ENTRIES (entriesOf c).length
    let s := setF s d SEQ_STS.STEPS (allSteps s c).length
    if !isF before d STR_CTL.EN && isF s d STR_CTL.EN then setF s d STR_STS.FAILED 0 else s) s
  let s := (List.range 1024).foldl (fun s sh => (dies s).foldl (fun s d => setF s d SHELF_GAP.IN_FORCE (getF s d SHELF_DESC.GAP_LOG2 sh) sh) s) s
  let s := if s.part.unitC then ((List.range 256).filter (crValid s)).foldl (fun s r =>
    setCause s r (if !isF s 0 CEL_STS.ONLINE then 2 else if (mget none s.keys (getF s 0 CR_CTL.KSLOT r)).isNone then 4 else 6)) s else s
  let s := if avail s then (List.range (s.part.dieCnt / 2)).foldl (fun s p =>
    setF s 0 (PKG_PAIR_STS.PAIR p) (match gone s (2 * p), gone s (2 * p + 1) with
      | false, false => 1
      | false, true => 2
      | true, false => 3
      | true, true => 7)) s else s
  let s := setF { s with goldVec := c.goldVec } 0 FLT_GR_CNT.COUNT c.goldCount
  let s := (List.range 8).foldl (fun s i => setF s 0 (FLT_GR_EXP.DIGEST i) (c.goldExp / 2 ^ (32 * (7 - i)))) s
  (List.range 21).foldl (fun s pg => if c.locks.testBit pg then (dies s).foldl (fun s d =>
    let s := if present s d pg then setF s d (PAGE_CTL.LOCK pg) 1 else s
    if pg = pgArb then setF s d (PAGE_CTL.LOCK pgRs) 1 else s) s else s) s

end Sys2Proof.Machine
end

