-- ==== Sys2Proof/Machine/Boot.lean ====
section
/-!
DEFINITION. Reset and boot (R475 to R481): reset release, conventional reset, lost supplies, the image from flash or host with
the checks of R459 and R460, and service release.
-/

namespace Sys2Proof.Machine

/-! ## The image header (R459) -/

/-- A 32-bit word of the header. -/
def hdrWord (h : BitVec 4096) (o : Nat) : Nat := getBE h (8 * o) 32
def imgSvn (h : BitVec 4096) : Nat := hdrWord h 8
def imgKeyIdx (h : BitVec 4096) : Nat := hdrWord h 0xC % 4
def imgLength (h : BitVec 4096) : Nat := hdrWord h 0x10
def imgBar4 (h : BitVec 4096) : Nat := fld (hdrWord h 0x14) 24 5
def imgRevoke (h : BitVec 4096) : Nat := fld (hdrWord h 0x14) 4 4
def imgAdvSvn (h : BitVec 4096) : Bool := (hdrWord h 0x14).testBit 0
def imgDigest (h : BitVec 4096) : Nat := getBE h (8 * 0x18) 384
def imgKey (h : BitVec 4096) : Nat := getBE h (8 * 0x48) 768
def imgSigR (h : BitVec 4096) : Nat := getBE h (8 * 0xA8) 384
def imgSigS (h : BitVec 4096) : Nat := getBE h (8 * 0xD8) 384

/-- Checks 1 to 4 of R460 on a header: 0 when they pass, else the status. -/
def headerStatus (s : State) (h : BitVec 4096) : Nat :=
  if hdrWord h 0 != 0x4C5A4431 || hdrWord h 4 != 1 then 1
  else if s.fuseRevoked.testBit (imgKeyIdx h) || sha384 (bytesBE 96 (imgKey h)) != s.part.keyDigest.getD (imgKeyIdx h) 0 then 2
  else if !ecdsaVerify (imgKey h) (sha384 (bytesBE 0xA8 (getBE h 0 (8 * 0xA8)))) (imgSigR h) (imgSigS h) then 3
  else if imgSvn h < s.fuseSvn then 4
  else 0

/-- Record the outcome of a check of an image; checks 1 to 5 fire source 0x07. -/
def imgStatus (s : State) (h : BitVec 4096) (st : Nat) : State :=
  let s := setF (setF s 0 SEC_IMG.STATUS st) 0 SEC_IMG.KEYIDX (imgKeyIdx h)
  if 1 ≤ st ∧ st ≤ 5 then fireAlarm s 7 else s

/-! ## Loading -/

/-- IMAGE_LOAD_HOST's conditions (R480). -/
def hostLoadOk (s : State) : Bool := s.part.bootSrc % 4 != 0 && getF s 0 PAGE_CAP.PROFILE == 0 && canMaster s

/-- A write of PKG_IMG_CMD with GO: the image is read from host memory, or the load is refused. -/
def writeImgCmd (s : State) (val : Nat) : State :=
  if !val.testBit 31 || isF s 0 PKG_IMG_CMD.GO then s
  else if !hostLoadOk s || s.loading != 0 then setF s 0 PKG_IMG_CMD.STATE 4
  else
    let s := setF (setF s 0 PKG_IMG_CMD.GO 1) 0 PKG_IMG_CMD.STATE 1
    emitOut { s with loading := 3 } (.hostRead (getF s 0 PKG_IMG_HI.ADDR * 2 ^ 32 + getF s 0 PKG_IMG_LO.ADDR / 4096 * 4096) none 512)

/-- IMAGE_LOAD_HOST. -/
def execImageLoadHost (val : Nat) (s : State) : Result := .next (if !s.inReset && !gone s 0 then writeImgCmd s val else s)

/-- The size of BAR4 that a header gives: 1 MiB to 1 GiB. -/
def bar4Of (h : BitVec 4096) : Nat := min 30 (max 20 (imgBar4 h))

/-- FLASH_BOOT: the headers of slots A and B; the first that passes checks 1 to 4 sizes BAR4 and is read next. -/
def execFlashBoot (hdrA hdrB : BitVec 4096) (s : State) : Result :=
  .next (
    if s.inReset || gone s 0 || s.loading != 0 || getF s 0 PAGE_CAP.PROFILE != 0 || isF s 0 HIF_STS.LINK_UP || s.part.bootSrc % 2 = 1 then s
    else
      let s := imgStatus s hdrA (headerStatus s hdrA)
      if headerStatus s hdrA = 0 then setF { s with loading := 1 } 0 HIF_STS.BAR4_LOG2 (bar4Of hdrA)
      else
        let s := imgStatus s hdrB (headerStatus s hdrB)
        if headerStatus s hdrB = 0 then setF { s with loading := 2 } 0 HIF_STS.BAR4_LOG2 (bar4Of hdrB)
        else setF s 0 HIF_STS.BAR4_LOG2 20)

/-- The load is over: idle, or slot B after slot A. -/
def endLoad (s : State) (failed : Bool) : State :=
  let s := setF (setF s 0 PKG_IMG_CMD.GO 0) 0 PKG_IMG_CMD.STATE 0
  { s with loading := if failed && s.loading == 1 then 2 else 0 }

/-- What a good load does after the image is in place (R460, R481). -/
def startImage (s : State) (h : BitVec 4096) : State :=
  let s := setF s 0 SEC_SVN.SVN (imgSvn h)
  let s := setF s 0 PKG_BOOT.SLOT s.loading
  let s := { s with
    fuseSvn := if imgAdvSvn h then max s.fuseSvn (min 64 (imgSvn h)) else s.fuseSvn
    fuseRevoked := s.fuseRevoked ||| (imgRevoke h - (imgRevoke h &&& 2 ^ imgKeyIdx h)) }
  ((dies s).filter fun d => !gone s d).foldl startBsq s

/-- IMAGE_CHECK: the image that is being loaded has been read; it is checked in the order of R460. -/
def execImageCheck (img : Image) (s : State) : Result :=
  .next (
    if s.loading = 0 || s.inReset || gone s 0 then s
    else
      let h := img.header
      let st := headerStatus s h
      if st != 0 then endLoad (imgStatus s h st) true
      else if sha384 (img.body.take (imgLength h)) != imgDigest h then endLoad (imgStatus s h 5) true
      else
        let (ok, s) := checkContents s img.cont
        if ok then
          let s := startImage (finishLoad (imgStatus s h 0) img.cont) h
          endLoad s false
        else
          let s := imgStatus s h 6
          endLoad (raiseErr s 0 pgSec SEC_ERR.IMG_REJ (it1 (readWord s 0 pgSec 0 0x8C))) true)

/-! ## Reset (R475, R476) -/

/-- Mask of the dies that the fuses count. -/
def allDies (s : State) : Nat := 2 ^ s.part.dieCnt - 1

/-- The straps are sampled, the dividers and the CS count start, and the identity key is derived. -/
def strapped (s : State) (up casc bootSrc smb : Nat) : State :=
  { s with
    free := s.free + 1, inReset := false, cyc := 0, heldDies := allDies s - (allDies s &&& up)
    part := { s.part with casc := casc % 4, bootSrc := bootSrc % 4, smbAddr := smb % 8 }
    idKey := some (Config.identityKey s.part.dsn) }

/-- The PLLs of the dies that are up run; their reference reads as measured (R413). -/
def startClocks (s : State) (up khz : Nat) : State :=
  ((dies s).filter fun d => up.testBit d).foldl (fun s d => setF (setF s d CLK_STS.PLL_RUN 1) d CLK_STS.REF_KHZ khz) s

/-- The public part of the identity key shows in its registers. -/
def showIdentity (s : State) (pub : Nat) : State :=
  (List.range 24).foldl (fun s i => setF s 0 (SEC_ID_PUB.DATA i) (pub / 2 ^ (32 * (23 - i)))) s

/-- The package leaves reset with the dies of a mask. The reference reads within 0.5 % of its nominal frequency, a free
value (R413). -/
def leaveReset (s : State) (up casc bootSrc smb : Nat) : State :=
  let khz := 99500 + Config.freeValue s.free % 1001
  let w := setF (strapped s up casc bootSrc smb) 0 PKG_BOOT.DIE_UP (allDies s &&& up)
  showIdentity (startClocks w up khz) (publicKey (Config.identityKey s.part.dsn))

/-- RESET_RELEASE: PERST_N is high, and every die of the mask `good` has PWR_GOOD and detects the reference. -/
def execResetRelease (good casc bootSrc smb : Nat) (s : State) : Result :=
  .next (if s.inReset && allDies s &&& good == allDies s then leaveReset s good casc bootSrc smb else s)

/-- DIE_RESET_TIMEOUT: some die other than die 0 has not become ready in 10 ms; the package leaves reset without it. -/
def execDieResetTimeout (good casc bootSrc smb : Nat) (s : State) : Result :=
  .next (
    if !s.inReset || !good.testBit 0 || allDies s &&& good == allDies s then s
    else
      let s := leaveReset s good casc bootSrc smb
      ((dies s).filter fun d => !good.testBit d).foldl (fun s d => raiseErr s 0 pgPkg PKG_ERR.DIE_DOWN (it1 d)) s)

/-- CONVENTIONAL_RESET: PERST_N low resets the whole device; fuses stay, the boundary-scan port has its own reset (R487),
and the module sites lose power (R486). -/
def execConventionalReset (s : State) : Result :=
  .next { State.reset with
    pending := s.pending, part := s.part, free := s.free, nextId := s.nextId, out := s.out
    fuseSvn := s.fuseSvn, fuseRevoked := s.fuseRevoked, tap := s.tap
    storeEpoch := (dies s).foldl (fun m d => mmod 0 m d fun n => n + 1) s.storeEpoch }

/-- DIE_POWER_GOOD_LOSS: PWR_GOOD_d low for 200 ns after reset release loses the die. -/
def execDiePowerGoodLoss (d : Nat) (s : State) : Result :=
  .next (if d < s.part.dieCnt ∧ !s.inReset ∧ !gone s d then loseDie s d else s)

/-- SERVICE_RELEASE: PKG_BOOT.SVC. -/
def execServiceRelease (s : State) : Result := .next (if !s.inReset && !gone s 0 then setF s 0 PKG_BOOT.SVC 1 else s)

end Sys2Proof.Machine
end

