-- ==== Sys2Proof/Machine/TimeOps.lean ====
section
/-!
DEFINITION. Shared operations of the time unit: moving the counter, steps (R392), time cells (R387) and the reference
rescale (R393).
-/

namespace Sys2Proof.Machine

/-- Bring the counter's base up to the present CP cycle. -/
def rebase (s : State) : State :=
  let k := (s.cyc - s.tim.cyc) / 4
  { s with tim := { s.tim with time := s.tim.time + s.tim.rate * k, cyc := s.tim.cyc + 4 * k } }

/-- Write TIM_RATE, and the registers that show it. -/
def setRate (s : State) (r : Nat) : State :=
  let s := rebase s
  let s := { s with tim := { s.tim with rate := r } }
  setF (setF s 0 TIM_RATE_LO.FRAC r) 0 TIM_RATE_HI.NS (r / 2 ^ 32)

/-- Nominal TIM_RATE under the reference in force (R381, R393). -/
def nominalRate (s : State) : Nat := 0x2AAAAAAAB * 100000 / max 1 s.tim.refKhz

/-- Code under which a time cell waits among the ring's messages. -/
def timeCellType : Nat := 20

/-- Broadcast a time cell to every die (R387). -/
def broadcastTime (s : State) : State :=
  let s := rebase s
  let t := s.tim.time
  let un := b2n (leadUnsync s)
  let st := b2n s.tim.stepped
  let pay := ((((((t / secUnits % 2 ^ 48 * 2 ^ 30 + t % secUnits / 2 ^ 32) * 2 ^ 32 + t % 2 ^ 32) * 2 ^ 40 + s.tim.rate % 2 ^ 40) * 2 ^ 48 +
    s.tim.cyc % 2 ^ 48) * 2 + un) * 2 + st) * 2 ^ 118
  let ms : List Mgmt := (dies s).map fun d =>
    { type := timeCellType, dest := d, mid := 0, acc := st, off := s.tim.cyc, size := s.tim.rate, data := t, status := un }
  queueCell { s with mgmt := s.mgmt ++ ms, tim := { s.tim with stepped := false } } 0 4 0 pay

/-- Last phase error as the first-error record shows it. -/
def perrItem (s : State) : ErrItem := it1 (getF s 0 TIM_PERR.VALUE)

/-- The counter is set: a change is a step, with its error, its discontinuity record and a time cell at once (R392). -/
def setCounter (s : State) (t cause : Nat) (load : Bool) : State :=
  let before := nowStamp s
  let s := rebase s
  let changed := t != s.tim.time
  let s := { s with tim := { s.tim with time := t, stepped := true } }
  let s := if load then setF s 0 TIM_STS.CONT 1 else s
  if changed then broadcastTime (discont (raiseErr s 0 pgTim TIM_ERR.STEP (perrItem s)) before cause)
  else if load then broadcastTime s
  else s

/-- Enter a state of R386. -/
def setSync (s : State) (v : Nat) : State := setF s 0 TIM_STS.SYNC v

/-- Enter HOLDOVER. -/
def holdover (s : State) : State :=
  if getF s 0 TIM_STS.SYNC = 3 then s
  else
    let s := { s with tim := { s.tim with everLocked := getF s 0 TIM_STS.SYNC == 2, holdExp := false, good := 0 } }
    setSync s 3

/-- Enter ACQUIRE; the end of HOLDOVER after HOLD_EXP is a discontinuity (R397). -/
def acquire (s : State) : State :=
  let exp := getF s 0 TIM_STS.SYNC == 3 && s.tim.holdExp
  let before := nowStamp s
  let s := setSync { s with tim := { s.tim with everLocked := false, holdExp := false } } 1
  if exp then discont s before 4 else s

/-- The time unit is present and clocked. -/
def timeOn (s : State) : Bool := s.part.unitT && domOn s 0 5 && !gone s 0 && !s.inReset

/-- The reference in force changes to TIM_REF (R393). -/
def rescale (s : State) : State :=
  if !s.part.unitT then s
  else
    let new_ := getF s 0 TIM_REF.KHZ
    if new_ = 0 then s
    else
      let s := setRate s (s.tim.rate * s.tim.refKhz / new_)
      { s with tim := { s.tim with refKhz := new_ } }

end Sys2Proof.Machine
end

