-- ==== Sys2Proof/Machine/Time.lean ====
section
/-!
DEFINITION. The time unit's commands: PPS edges and the servo, time-of-day loads, holdover, time cells and local copies
(R381 to R393), and the switch of the reference (R412).
-/

namespace Sys2Proof.Machine

/-- Load the time of day: the time at the reference point is TOD seconds, where the counter is `ofs` later (R384). The frequency
term of the servo is kept (DEDUCED, log 37); a HOLDOVER that had expired ends (R397). -/
def loadTod (s : State) (ofs : Int) : State :=
  let sec := getF s 0 TIM_TOD_HI.SEC * 2 ^ 32 + getF s 0 TIM_TOD_LO.SEC
  let pps := isF s 0 TIM_CTL.PPS_EN
  let s := setF s 0 TIM_CTL.TOD_ARM 0
  let s := if getF s 0 TIM_STS.SYNC = 3 ∧ s.tim.holdExp then discont s (nowStamp s) 4 else s
  let s := { s with tim := { s.tim with good := 0, everLocked := false, holdExp := false } }
  setCounter (setSync s (if pps then 1 else 0)) ((sec * secUnits : Nat) + ofs : Int).toNat 3 true

/-- Units of 2^-32 in one ns or one ppb. -/
def u32 : Int := 2 ^ 32

/-- The signed offset of a time from the nearest whole second (R385). -/
def offsetOf (t : Int) : Int :=
  let r := t % (secUnits : Int)
  if (secUnits : Int) < 2 * r then r - secUnits else r

/-- Clamp to plus or minus 50 ppm. -/
def clampPpb (v : Int) : Int := max (-50000 * u32) (min (50000 * u32) v)

/-- Signed value of 32 bits. -/
def toU32 (v : Int) : Nat := (v % 2 ^ 32).toNat

/-- The servo on an accepted edge with offset `e` in units of 2^-32 ns (R385, R386). -/
def servo (s : State) (e : Int) : State :=
  let s := setF s 0 TIM_PERR.VALUE (toU32 (e.tdiv u32))
  let was := getF s 0 TIM_STS.SYNC
  let s := if was = 0 ∨ was = 3 ∨ (was = 2 ∧ 100 * u32 < e.natAbs) then acquire s else s
  let s := { s with tim := { s.tim with good := if (e.natAbs : Int) < 8 * u32 then s.tim.good + 1 else 0 } }
  if 500000 * u32 < e.natAbs ∧ isF s 0 TIM_CTL.STEP_EN then
    let s := rebase s
    setCounter s ((s.tim.time : Int) - e).toNat 2 false
  else
    let f := s.tim.freq + e / 16
    let adj := clampPpb (-(f + e / 2))
    let n : Int := nominalRate s
    let s := { s with tim := { s.tim with freq := f } }
    let s := setRate (setF s 0 TIM_FREQ.VALUE (toU32 (f.tdiv u32))) (n + n * adj / (1000000000 * u32)).toNat
    if 4 ≤ s.tim.good then setSync s 2 else s

/-- Count an ignored edge. -/
def ignoreEdge (s : State) : State := bumpSat s 0 TIM_PPS_CNT.IGNORED

/-- The last accepted edge is less than 0.5 s (750,000,000 CS cycles) old (R383). -/
def ppsTooSoon (s : State) : Bool := s.tim.lastEdge.any fun c => decide (s.cyc < c + 750000000)

/-- An accepted edge: counted, its time taken from the counter, then it loads the time of day or feeds the servo. -/
def acceptEdge (s : State) : State :=
  let s := bump s 0 TIM_PPS_CNT.ACCEPTED
  let s := rebase { s with tim := { s.tim with lastEdge := some s.cyc } }
  let ofs := ofsUnits (getF s 0 TIM_PPS_OFS.OFS)
  if isF s 0 TIM_CTL.TOD_ARM then loadTod s ofs
  else servo s (offsetOf ((s.tim.time : Int) - ofs))

/-- PPS_EDGE: an edge in this CS cycle; `idle` says that the input had been inactive for 1 ms. An edge less than 0.5 s
after the last accepted one, or while the input counts as stuck, is ignored. -/
def execPpsEdge (idle : Bool) (s : State) : Result :=
  .next (
    if !timeOn s || !isF s 0 TIM_CTL.PPS_EN then s
    else if isF s 0 TIM_STS.PPS_STUCK && !idle then ignoreEdge s
    else
      let s := setF s 0 TIM_STS.PPS_STUCK 0
      if ppsTooSoon s then
        raiseErr (ignoreEdge s) 0 pgTim TIM_ERR.PPS_FAST (perrItem s)
      else acceptEdge s)

/-- A write of TIM_CTL; arming a load applies it at once while PPS_IN is not used. -/
def writeTimCtl (s : State) (val : Nat) : State :=
  if !present s 0 pgTim then s
  else
    let s := writeWord s 0 pgTim 0 0x80 val
    if isF s 0 TIM_CTL.TOD_ARM && !isF s 0 TIM_CTL.PPS_EN then loadTod s 0 else s

/-- TOD_ARM: a write of TIM_CTL with TOD_ARM set. -/
def execTodArm (val : Nat) (s : State) : Result := .next (if val.testBit 3 then writeTimCtl s val else s)

/-- PPS_STUCK_TIMEOUT: PPS_IN has stayed active for 1 s. -/
def execPpsStuckTimeout (s : State) : Result :=
  .next (
    if !timeOn s || !isF s 0 TIM_CTL.PPS_EN || isF s 0 TIM_STS.PPS_STUCK then s
    else raiseErr (holdover (setF s 0 TIM_STS.PPS_STUCK 1)) 0 pgTim TIM_ERR.PPS_STUCK (perrItem s))

/-- PPS_MISSING_TIMEOUT: no accepted edge for 1.5 s. -/
def execPpsMissingTimeout (s : State) : Result :=
  .next (
    if !timeOn s || (getF s 0 TIM_STS.SYNC != 1 && getF s 0 TIM_STS.SYNC != 2) then s
    else raiseErr (holdover s) 0 pgTim TIM_ERR.PPS_MISS (perrItem s))

/-- HOLDOVER_EXPIRE: HOLDOVER has lasted TIM_HOLD_MAX seconds. -/
def execHoldoverExpire (s : State) : Result :=
  .next (
    if !timeOn s || getF s 0 TIM_STS.SYNC != 3 || s.tim.holdExp then s
    else raiseErr { s with tim := { s.tim with holdExp := true } } 0 pgTim TIM_ERR.HOLD_EXP (it1 (counterAt s s.cyc / secUnits)))

/-- TIME_CELL_BROADCAST. -/
def execTimeCellBroadcast (s : State) : Result := .next (if timeOn s then broadcastTime s else s)

/-- TIME_CELL_RECEIVE: the die's copy equals the cell's time in cycle CYC, projected forward (R388); the copy of a die whose sequencer
domain is not ON stays invalid. -/
def execTimeCellReceive (a : Arrival) (s : State) : Result :=
  .next (
    match s.mgmt.find? fun m => m.type == timeCellType && m.dest == a.key with
    | none => s
    | some m =>
      let (s, ok) := takeCell s a.key 0 4 0 (if a.key = 0 then 0 else a.flit)
      if !ok then s
      else
        let l : Local := { valid := true, time := m.data, cyc := m.off, rate := m.size, unsync := m.status == 1 }
        let s := { s with mgmt := rmFirst (fun x => x == m) s.mgmt }
        if gone s a.key || !domOn s a.key 0 then s else { s with local_ := mset Local.zero s.local_ a.key l })

/-- A die's copy becomes invalid. -/
def staleLocal (s : State) (d : Nat) : State := { s with local_ := mmod Local.zero s.local_ d fun l => { l with valid := false } }

/-- LOCAL_TIME_TIMEOUT: no cell for 4,096 CQ cycles. -/
def execLocalTimeTimeout (d : Nat) (s : State) : Result := .next (staleLocal s d)

/-- A write of CLK_CTL: PLL_STOP_EN stops the PLL of a die that sleeps (R411); on the lead die a new REF_SEL switches the reference,
which is counted and recorded, and the time unit rescales TIM_RATE (R393, R412). -/
def writeClkCtl (s : State) (d val : Nat) : State :=
  let old := getF s 0 CLK_CTL.REF_SEL
  let s := if d = 0 then writeWord s 0 pgClk 0 0x80 val else setF s d CLK_CTL.PLL_STOP_EN val
  let s := if isF s d CLK_STS.PLL_RUN then stopPll s d else s
  if d != 0 || getF s 0 CLK_CTL.REF_SEL = old then s
  else
    let s := setF s 0 CLK_STS.REF_SEL (getF s 0 CLK_CTL.REF_SEL)
    let s := rescale (bumpSat s 0 CLK_LOCK_CNT.SWITCH)
    raiseErr s 0 pgClk CLK_ERR.REF_SEL (it1 (readWord s 0 pgClk 0 0x84))

/-- REF_SELECT_CHANGE: a write of the lead die's CLK_CTL that changes REF_SEL. -/
def execRefSelectChange (val : Nat) (s : State) : Result :=
  .next (if fld val 1 1 = getF s 0 CLK_CTL.REF_SEL then s else writeClkCtl s 0 val)

end Sys2Proof.Machine
end

