-- ==== Sys2Proof/Machine/Power.lean ====
section
/-!
DEFINITION. The power domains' and clocks' commands (R411 to R426, R434): hysteresis, entry and wake steps, wake events,
failed wakes, the PLL and the reference monitor.
-/

namespace Sys2Proof.Machine

/-- The domain takes part: its die is there and out of reset; power control runs on a die that has been lost. -/
def domLive (s : State) (d c : Nat) : Bool := domExists s d c && !s.heldDies.testBit d && !s.inReset

/-- Change a domain's phase; a wake event held is kept only where said. -/
def setPhase (s : State) (d c : Nat) (p : DomPhase) (wake : Bool := false) : State := setDom s d c ⟨p, wake⟩

/-! ## Hysteresis and entry (R420 to R422) -/

/-- HYSTERESIS_EXPIRE: a domain without votes is refused, or begins to enter its low state. -/
def execHysteresisExpire (d c : Nat) (s : State) : Result :=
  .next (
    let low := getF s d PWR_STATE.LOW c
    if !domLive s d c || !domOn s d c || votes s d c != 0 || (low != 1 && low != 2) then s
    else match refusal s d c low with
      | some k => refuseCode s d c PWR_REFUSE.REFUSALS k
      | none => setPhase s d c (.entering low 0))

/-- Start a wake from a low state; a stopped PLL restarts (R411). -/
def startWake (s : State) (d c low : Nat) : State := setF (setPhase s d c (.waking low 0)) d CLK_STS.PLL_RUN 1

/-- A wake event reaches a domain (R422). -/
def wakeEvent (s : State) (d c : Nat) : State :=
  match (getDom s d c).phase with
  | .entering low n => setPhase s d c (.entering low n) true
  | .ret => startWake s d c 1
  | .off => startWake s d c 2
  | _ => s

/-- The domain reaches its low state: OFF loses contents; the sequencer's time copy goes stale (R388); the counter of CP
stands still (R391). -/
def reachLow (s : State) (d c low : Nat) : State :=
  let s := if c = 0 then staleLocal s d else s
  let s := if c = 5 then rebase s else s
  let s := if low = 2 then loseContents s d c else s
  setPhase s d c (if low = 2 then .off else .ret)

/-- POWER_ENTRY_STEP: the next entry step ends; after E1 to E4 a wake event abandons the entry, after E5 it wakes the
domain again. -/
def execPowerEntryStep (d c : Nat) (s : State) : Result :=
  .next (
    match (getDom s d c).phase with
    | .entering low n =>
      let wake := (getDom s d c).wake || wakeStands s d c low
      if !domLive s d c then s
      else if n < 4 then
        (if wake then refuseCode (setPhase s d c .on) d c PWR_REFUSE.ABORTS (0x11 + n)
         else setPhase s d c (.entering low (n + 1)))
      else
        let s := reachLow s d c low
        if wake then startWake s d c low else stopPll s d
    | _ => s)

/-- WAKE_EVENT: a vote, an access, a refusal condition, or electrical-idle exit for CP. -/
def execWakeEvent (d c : Nat) (s : State) : Result := .next (if domLive s d c then wakeEvent s d c else s)

/-! ## Waking (R423 to R425) -/

/-- What CP does when it reaches ON: the counter goes on from its value, or from zero after OFF, without continuity
(R391); the hatch hands the bus over, and a failure it holds is recorded (R429, R430). -/
def cpOn (s : State) (low : Nat) : State :=
  let before := stampOf s.tim.time (leadUnsync s)
  let s := { s with tim := { s.tim with time := if low = 2 then 0 else s.tim.time, cyc := s.cyc } }
  let s := if s.part.unitT then
      discont (raiseErr (setF s 0 TIM_STS.CONT 0) 0 pgTim TIM_ERR.CONT_LOST (it1 (s.tim.time / secUnits))) before 1
    else s
  let due := s.sm.due
  let s := { s with sm := { s.sm with stretching := false, due := false } }
  if due then raiseErr s 0 pgPwr PWR_ERR.HATCH_FAIL (it1 s.sm.latch) else s

/-- POWER_WAKE_STEP: the next wake step ends, once the PLL is locked; the last brings the domain ON. -/
def execPowerWakeStep (d c : Nat) (s : State) : Result :=
  .next (
    match (getDom s d c).phase with
    | .waking low n =>
      if !domLive s d c || !isF s d CLK_STS.LOCK then s
      else if n + 1 < (if low = 1 then 3 else 4) then setPhase s d c (.waking low (n + 1))
      else
        let s := setF (setPhase s d c .on) d PWR_STATE.RETRY 0 c
        if c = 5 then cpOn s low else s
    | _ => s)

/-- A thread's stalled accesses to a failed domain complete with DOMAIN_FAIL. -/
def failStalled (s : State) (d c : Nat) : State :=
  if c = 1 then
    { s with steps := updWhere (fun x => x.die == d && (x.need0 || x.need1)) (fun x => { x with forced := some 7, need0 := false, need1 := false }) s.steps }
  else if c = 4 then settleFetches s ((s.fetches.filter fun f => f.die == d && !f.done && !f.deferred).map fun f => f.id) 7
  else s

/-- A wake has failed (R425): a way becomes a failed way, any other domain costs the die. -/
def failWake (s : State) (d c low code : Nat) : State :=
  let s := setF (setPhase s d c (.failed low)) d PWR_STATE.RETRY 0 c
  let s := failStalled (refuseCode s d c PWR_REFUSE.FAILS code) d c
  if 0x20 ≤ c then
    let w := c - 0x20
    let s := autoDisable s d w
    let s := setF s d CCH_WAY_STS.FAILED (getF s d CCH_WAY_STS.FAILED ||| 2 ^ w)
    raiseErr s d pgPwr PWR_ERR.WAY_WAKE_FAIL (it2 c code)
  else raiseErr s d pgPwr PWR_ERR.WAKE_FAIL (it2 c code)

/-- WAKE_FAIL_TIMEOUT: supply-good did not come in 10 ms, or (`pll`) the PLL did not lock in 2 ms, also after power-up (R413). -/
def execWakeFailTimeout (d c : Nat) (pll : Bool) (s : State) : Result :=
  .next (
    if !domLive s d c || (pll && (isF s d CLK_STS.LOCK || !isF s d CLK_STS.PLL_RUN)) then s
    else match (getDom s d c).phase with
      | .waking low _ => failWake s d c low (if pll then 0x21 else 0x20)
      | .on => if pll then failWake s d c 2 0x21 else s
      | _ => s)

/-- A write of PWR_STATE.RETRY: a FAILED domain wakes again. -/
def retryWake (s : State) (d c : Nat) : State :=
  match (getDom s d c).phase with
  | .failed low => setF (startWake s d c low) d PWR_STATE.RETRY 1 c
  | _ => s

/-- DOMAIN_WAKE_RETRY. -/
def execDomainWakeRetry (d c : Nat) (s : State) : Result := .next (if domExists s d c && !s.inReset then retryWake s d c else s)

/-! ## PLL and reference (R411, R413) -/

/-- PLL_LOCK. -/
def execPllLock (d : Nat) (s : State) : Result :=
  .next (
    if decide (d < s.part.dieCnt) && !s.inReset && isF s d CLK_STS.PLL_RUN && !isF s d CLK_STS.LOCK then setF s d CLK_STS.LOCK 1 else s)

/-- PLL_LOCK_LOSS: class F, so the die is lost (R131). -/
def execPllLockLoss (d : Nat) (s : State) : Result :=
  .next (
    if decide (d < s.part.dieCnt) && !gone s d && isF s d CLK_STS.LOCK then
      let s := bumpSat (setF s d CLK_STS.LOCK 0) d CLK_LOCK_CNT.LOSS
      raiseErr s d pgClk CLK_ERR.LOCK_LOSS (it1 (readWord s d pgClk 0 0x84))
    else s)

/-- The die's reference monitor reads `khz`; inside 98 to 102 MHz REF_BAD reads 0 (R413, R436). -/
def measured (s : State) (d khz : Nat) : State :=
  setF (setF s d CLK_STS.REF_KHZ khz) d CLK_STS.REF_BAD (b2n (decide (khz < 98000 ∨ 102000 < khz)))

/-- REFERENCE_BAD: the die's reference reads `khz`, 0 where it has stopped; outside its window the clock monitor's alarm fires. -/
def execReferenceBad (a : Reading) (s : State) : Result :=
  .next (
    if !(decide (a.die < s.part.dieCnt)) || gone s a.die || s.inReset then s
    else if 98000 ≤ a.khz ∧ a.khz ≤ 102000 then measured s a.die a.khz
    else
      let s := measured s a.die a.khz
      fireAlarm (raiseErr s a.die pgClk CLK_ERR.REF_MON (it1 (readWord s a.die pgClk 0 0x84))) 2)

/-! ## Selection (R434) -/

/-- A write of PWR_DSEL; CLR clears the counters of the domain it selects. -/
def writeDsel (s : State) (d val : Nat) : State :=
  let s := setF s d PWR_DSEL.DOM val
  let c := val % 256
  if val.testBit 31 && domExists s d c then
    setF (setF (setF s d PWR_REFUSE.FAILS 0 c) d PWR_REFUSE.ABORTS 0 c) d PWR_REFUSE.REFUSALS 0 c
  else s

/-- POWER_DOMAIN_SELECT. -/
def execPowerDomainSelect (d val : Nat) (s : State) : Result := .next (if d < s.part.dieCnt then writeDsel s d val else s)

end Sys2Proof.Machine
end

