-- ==== Sys2Proof/Machine/UpdateOps.lean ====
section
/-!
DEFINITION. Shared operations of table maintenance: slots and shelves (R54, R59, R150), the checks of commands (R61, R68,
R143), plans of port operations (R140, R144, R149 to R154), their effect on rows (R144, R147, R149), and order (R158, R160).
-/

namespace Sys2Proof.Machine

/-! ## Shelves and slots -/

/-- Head row of the slot that holds a row, for rows per slot. -/
def slotHead (gra n : Nat) : Nat := gra / n * n

/-- First row of the shelf that holds a row. -/
def shelfHead (gra : Nat) : Nat := gra / 1024 * 1024

/-- The shelf is owned by the partition on a die. -/
def ownedBy (s : State) (d gra p : Nat) : Bool :=
  isF s d SHELF_DESC.OWNED (shelfIdx gra) && getF s d SHELF_DESC.OWNER (shelfIdx gra) == p

/-- The row, or one half of it, is not empty. -/
def rowUsed (r : Row) : Bool := ctrlState r.ctrl != 0 || ctrlStateB r.ctrl != 0
def halfUsed (r : Row) (half : Nat) : Bool := (if half = 0 then ctrlState r.ctrl else ctrlStateB r.ctrl) != 0

/-- Slots per shelf of a width code; none for a reserved code. -/
def slotsOf (w : Nat) : Nat := if 3 < w then 0 else 1024 / rowsPerSlot w

/-- A slot holds something. -/
def slotUsed (s : State) (d base n k : Nat) : Bool := (List.range n).any fun i => rowUsed (getRow s d (base + k * n + i))

/-- Slots of the shelf that are occupied, and SHELF_FILL's counts (R59). -/
def usedSlots (s : State) (d gra w : Nat) : List Nat :=
  (List.range (slotsOf w)).filter fun k => slotUsed s d (shelfHead gra) (rowsPerSlot w) k
def freeCount (s : State) (d gra w : Nat) : Nat := slotsOf w - (usedSlots s d gra w).length

/-- The shelf holds a row or half whose state is not empty. -/
def shelfUsed (s : State) (d gra : Nat) : Bool := (List.range 1024).any fun i => rowUsed (getRow s d (shelfHead gra + i))

/-- The reserve of a shelf for a GAP_LOG2 (R150). -/
def reserveOf (w gap : Nat) : Nat := if gap = 0 then 0 else slotsOf w / 2 ^ gap

/-- Filling a free slot of the shelf would go below its reserve. -/
def atReserve (s : State) (d gra w : Nat) : Bool :=
  decide (freeCount s d gra w ≤ reserveOf w (getF s d SHELF_GAP.IN_FORCE (shelfIdx gra)))

/-! ## Checks -/

/-- The shelf-tag test of an entry's class-byte positions (R61). -/
def tagOk (s : State) (d gra value mask : Nat) : Bool :=
  let tm := getF s d SHELF_DESC.TAG_MASK (shelfIdx gra)
  (mask &&& tm) == tm && ((value ^^^ getF s d SHELF_DESC.TAG (shelfIdx gra)) &&& tm) == 0

/-- The source may send the opcode (R138). -/
def mayRequest (src op : Nat) : Bool :=
  if src < 0x40 then (decide (1 ≤ op ∧ op ≤ 0xC)) || op == 0xE
  else if src < 0x48 then ((decide (1 ≤ op ∧ op ≤ 0xC)) || op == 0xE) && op != 8 && op != 0xA && op != 0xB
  else op == 1 || op == 0xE || op == 2 || op == 5 || op == 0xC

/-- A GRA whose DIE field alone matters names an absent die (R16) or an odd die in the availability profile (R106). -/
def badDieField (s : State) (gra : Nat) : Bool := decide (s.part.dieCnt ≤ graDie gra) || (avail s && graDie gra % 2 == 1)

/-- Dies that hold the rows of a command that runs on a die, the driving one first (R129). -/
def pairDies (s : State) (d : Nat) : List Nat := if paired s d then [d / 2 * 2, d / 2 * 2 + 1] else [serving s d]

/-- Address of a row of a die as GRAs name it: with the even die of the pair in the availability profile (R106). -/
def graOn (s : State) (d bank sh row : Nat) : Nat := mkGra (cascPos s) (if avail s then d / 2 * 2 else d) bank sh row

/-- A GRA that names no die this package updates (R16, R106) or another package. -/
def badDie (s : State) (gra : Nat) : Bool :=
  graCasc gra != cascPos s || decide (s.part.dieCnt ≤ graDie gra) || (avail s && graDie gra % 2 == 1)

/-- Width checks of a row named by an entry write, WRITE_CONT or bulk record (R68). -/
def badWidth (w code gra : Nat) : Bool := decide (3 < w) || code != rowCode w (graRow gra)

/-- Value and mask of a half entry at its place in the row. -/
def placeHalf (half v : Nat) : Seg := BitVec.ofNat 160 (if half = 0 then v / 2 ^ 80 * 2 ^ 80 else v / 2 ^ 80)

/-- Class-byte bits of an entry as offered. -/
def classOf (v : Nat) : Nat := v / 2 ^ 152

/-- The row, or its half, already holds this (R162). -/
def holds (r : Row) (half : Option Nat) (state prio : Nat) (ad value mask : Nat) : Bool :=
  match half with
  | none => r.value.toNat == value &&& mask && r.mask.toNat == mask && r.ad.toNat == ad && ctrlPrio r.ctrl == prio && ctrlState r.ctrl == state
  | some h =>
    let sel := if h = 0 then selA else selB
    (r.value &&& sel) == (placeHalf h value &&& placeHalf h mask) && (r.mask &&& sel) == placeHalf h mask &&
    (if h = 0 then r.ad.toNat / 2 ^ 32 else r.ad.toNat % 2 ^ 32) == ad % 2 ^ 32 && ctrlPrio r.ctrl == prio &&
    (if h = 0 then ctrlState r.ctrl else ctrlStateB r.ctrl) == state

/-- A command's rows: the head's entry and those of its continuations, as row index, value and mask. -/
def cmdRows (c : UCmd) : List (Nat × Nat × Nat) :=
  (c.entry :: c.conts.map fun x => x.2.2).zipIdx.map fun q => (q.2, ceValue q.1, ceMask q.1)

/-- The half a command names in a partition of a width. -/
def cmdHalf (w : Nat) (e : BitVec 512) : Option Nat := if w = 0 then some (ceH e) else none

/-- End a command with a status. -/
def settle_ (c : UCmd) (st : Nat) : UCmd := { c with status := some st, plan := [], planned := true }

/-! ## Plans -/

/-- Step 2 and step 3 of an entry: PRIO and the ad-word of a continuation row are 0 (R49). -/
def writeOps (gra w : Nat) (half : Option Nat) (prio ad state : Nat) (rows : List (Nat × Nat × Nat)) : List PortOp :=
  let n := rows.length
  (rows.map fun q =>
    let v := match half with
      | some h => placeHalf h q.2.1
      | none => BitVec.ofNat 160 q.2.1
    let m := match half with
      | some h => placeHalf h q.2.2
      | none => BitVec.ofNat 160 q.2.2
    PortOp.write (gra + q.1) half w (if q.1 = 0 then prio else 0) (BitVec.ofNat 64 (if q.1 = 0 then ad else 0)) v m) ++
  [.validate ((List.range n).map fun i => gra + i) half state state]

/-- The operations of one MOVE between slot heads. -/
def moveOps (src dst n : Nat) : List PortOp :=
  let rs := fun (g : Nat) => (List.range n).map fun i => g + i
  ((List.range n).map fun i => PortOp.copy (src + i) (dst + i) (i + 1 == n) (rs src) (rs dst)) ++ [.swap (rs src) (rs dst)]

/-- The checks that WRITE and INSERT_SHIFT share: a status, or nothing wrong. -/
def entryCheck (s : State) (c : UCmd) : Option Nat :=
  let e := c.entry
  let g := ceGra e
  let w := partWidth s c.die (cePart e)
  if !ceReserved e || c.conts.any (fun x => !ceReserved x.2.2) then some 0x12
  else if badDie s g || !ownedBy s c.die g (cePart e) then some 3
  else if badWidth w (ceWidth e) g || graRow g % rowsPerSlot w != 0 then some 4
  else if !tagOk s c.die g (classOf (ceValue e)) (classOf (ceMask e)) then some 5
  else none

/-- Every row of the entry is already there. -/
def entryHeld (s : State) (c : UCmd) (g w : Nat) : Bool :=
  (cmdRows c).all fun q => if q.1 = 0 then holds (getRow s c.die g) (cmdHalf w c.entry) (ceState c.entry) (cePrio c.entry)
      (if w = 0 then ceAd c.entry % 2 ^ 32 else ceAd c.entry) q.2.1 q.2.2
    else
      let r := getRow s c.die (g + q.1)
      r.value.toNat == q.2.1 &&& q.2.2 && r.mask.toNat == q.2.2 && ctrlState r.ctrl == ceState c.entry

/-- WRITE (R144, R150, R53). -/
def planWrite (s : State) (c : UCmd) : UCmd :=
  match entryCheck s c with
  | some st => settle_ c st
  | none =>
    let e := c.entry
    let g := ceGra e
    let w := partWidth s c.die (cePart e)
    let half := cmdHalf w e
    let n := rowsPerSlot w
    let r := getRow s c.die g
    let used := match half with
      | some h => halfUsed r h
      | none => slotUsed s c.die (slotHead g n) n 0
    if entryHeld s c g w then settle_ c 1
    else if (match half with
      | some h => halfUsed r (1 - h) && ctrlPrio r.ctrl != cePrio e
      | none => false) then settle_ c 6
    else if !slotUsed s c.die (slotHead g n) n 0 && atReserve s c.die g w then settle_ c 0xA
    else
      let ops := writeOps g w half (cePrio e) (ceAd e) (ceState e) (cmdRows c)
      { c with planned := true, plan := if used then .empty ((List.range n).map fun i => g + i) half :: ops else ops }

/-- Checks of a command that names an entry of an owned shelf. In a shelf whose owner has a reserved WIDTH it is refused with
BAD_WIDTH (DESIGN CHOICE, log 72: R59 says so of writes and move destinations alone). -/
def namedCheck (s : State) (c : UCmd) (g : Nat) : Option Nat :=
  if !ceReserved c.entry then some 0x12
  else if badDie s g || !ownedBy s c.die g (cePart c.entry) then some 3
  else if 3 < partWidth s c.die (cePart c.entry) then some 4
  else none

/-- DELETE and SET_STATE (R148): `st` is the new code, 0 for DELETE. -/
def planState (s : State) (c : UCmd) (del : Bool) : UCmd :=
  match namedCheck s c (ceGra c.entry) with
  | some st => settle_ c st
  | none =>
    let e := c.entry
    let w := partWidth s c.die (cePart e)
    let n := rowsPerSlot w
    let g := slotHead (ceGra e) n
    let c := { c with gra := g }
    let rows := (List.range n).map fun i => g + i
    let half := cmdHalf w e
    let st := if del then 0 else ceState e
    let now := fun (r : Row) => match half with
      | some 1 => ctrlStateB r.ctrl
      | _ => ctrlState r.ctrl
    if rows.all fun x => now (getRow s c.die x) == st then settle_ c 1
    else { c with planned := true, plan := [if del then .empty rows half else .setState rows half st] }

/-- Every source shadow can be copied, on every die that holds the rows. -/
def copyable (s : State) (d g n : Nat) : Bool :=
  (pairDies s d).all fun e => (List.range n).all fun i => (shCorrected (getRow s e (g + i)) [0, 1, 2, 3, 4]).isSome

/-- An entry that is to move passes the destination's tag test, as its corrected shadow gives it. -/
def moveTagOk (s : State) (d w src dst : Nat) : Bool :=
  let r := getRow s d src
  let sh := (shCorrected r [0, 1, 2, 3, 4]).getD r.shadow
  let v := (shValue sh).toNat
  let m := (shMask sh).toNat
  if w = 0 then
    (!halfUsed r 0 || tagOk s d dst (v / 2 ^ 152) (m / 2 ^ 152)) && (!halfUsed r 1 || tagOk s d dst (v / 2 ^ 72 % 256) (m / 2 ^ 72 % 256))
  else tagOk s d dst (v / 2 ^ 152) (m / 2 ^ 152)

/-- MOVE (R149, R162). -/
def planMove (s : State) (c : UCmd) : UCmd :=
  let e := c.entry
  match namedCheck s c (ceGra e) with
  | some st => settle_ c st
  | none =>
    if badDie s (ceGra2 e) || graDie (ceGra2 e) != graDie (ceGra e) || !ownedBy s c.die (ceGra2 e) (cePart e) then settle_ c 3
    else
      let w := partWidth s c.die (cePart e)
      let n := rowsPerSlot w
      let src := slotHead (ceGra e) n
      let dst := slotHead (ceGra2 e) n
      let c := { c with gra := dst }
      match slotUsed s c.die src n 0, slotUsed s c.die dst n 0 with
      | false, true => settle_ c 1
      | false, false => settle_ c 8
      | true, true => settle_ c 7
      | true, false =>
        if !copyable s c.die src n then settle_ c 0x10
        else if !moveTagOk s c.die w src dst then settle_ c 5
        else if atReserve s c.die dst w then settle_ c 0xA
        else { c with planned := true, plan := moveOps src dst n }

/-- Nearest free slot from `t` in a direction (R151). -/
def nearestFree (s : State) (d base w t dir : Nat) : Option Nat :=
  let n := rowsPerSlot w
  let ks := if dir = 0 then (List.range (slotsOf w)).drop t else (List.range (t + 1)).reverse
  ks.find? fun k => !slotUsed s d base n k

/-- INSERT_SHIFT (R151, R152). -/
def planInsert (s : State) (c : UCmd) : UCmd :=
  match entryCheck s c with
  | some st => settle_ c st
  | none =>
    let e := c.entry
    let g := ceGra e
    let w := partWidth s c.die (cePart e)
    let n := rowsPerSlot w
    let base := shelfHead g
    let t := graRow g / n
    let half := cmdHalf w e
    let r := getRow s c.die g
    let ops := writeOps g w half (cePrio e) (ceAd e) (ceState e) (cmdRows c)
    if entryHeld s c g w then settle_ c 1
    else if (match half with
      | some h => !halfUsed r h && halfUsed r (1 - h) && ctrlPrio r.ctrl == cePrio e
      | none => false) then { c with planned := true, plan := ops, aux := graRow g }
    else match nearestFree s c.die base w t (ceDir e) with
      | none => settle_ c 9
      | some k =>
        let ms := if ceDir e = 0 then ((List.range (k - t)).map fun i => (k - 1 - i, k - i)) else ((List.range (t - k)).map fun i => (k + 1 + i, k + i))
        { c with planned := true, aux := k * n,
                 plan := (ms.flatMap fun m => moveOps (base + m.1 * n) (base + m.2 * n) n) ++ ops }

/-- Slots an entry may take after COMPACT (R154). -/
def compactTargets (w gap : Nat) : List Nat :=
  (List.range (slotsOf w)).filter fun i => gap == 0 || i % 2 ^ gap != 2 ^ gap - 1

/-- COMPACT (R154): upward moves from the last entry down, then downward moves from the first entry up. The reserve of its
test is that of the GAP_LOG2 it is about to put in force (DESIGN CHOICE, log 73). -/
def planCompact (s : State) (c : UCmd) : UCmd :=
  match namedCheck s c (ceGra c.entry) with
  | some st => settle_ c st
  | none =>
    let g := ceGra c.entry
    let w := partWidth s c.die (cePart c.entry)
    let n := rowsPerSlot w
    let gap := getF s c.die SHELF_DESC.GAP_LOG2 (shelfIdx g)
    let used := usedSlots s c.die g w
    if slotsOf w - reserveOf w gap < used.length then settle_ c 0xA
    else
      let ps := used.zip (compactTargets w gap)
      let ms := (ps.filter fun q => decide (q.1 < q.2)).reverse ++ ps.filter fun q => decide (q.2 < q.1)
      { c with planned := true, plan := ms.flatMap fun q => moveOps (shelfHead g + q.1 * n) (shelfHead g + q.2 * n) n }

/-- Shelves of a die that a partition owns, as global numbers. -/
def ownedShelves (s : State) (d p : Nat) : List Nat :=
  ((List.range 1024).filter fun sh => isF s d SHELF_DESC.OWNED sh && getF s d SHELF_DESC.OWNER sh == p).map fun sh => d * 1024 + sh

/-- GEN_CLEAR (R157): one operation for each owned shelf of each die of the die set; a die of the set that is fenced or failed
ends it in DOMAIN_FAIL, unless its twin serves (R143). -/
def planGenClear (s : State) (c : UCmd) : UCmd :=
  let p := cePart c.entry
  if !ceReserved c.entry then settle_ c 0x12
  else if getF s 0 PART_CTL.ACT_GEN p = ceGen c.entry then settle_ c 0xD
  else
    let ds := (diesOf s (dieSetOf s 0 p)).filter fun d => !avail s || serving s (d / 2 * 2) == d
    if ds.any (fenced s) then settle_ c 0x11
    else { c with planned := true, plan := (ds.flatMap fun d => ownedShelves s d p).map fun sh => .genClear sh (ceGen c.entry) }

/-- SHELF (R59). One whose descriptor is held already, and whose GAP_LOG2 it need not put in force, is done already
(DESIGN CHOICE, log 74: R162 does not list SHELF). -/
def planShelf (s : State) (c : UCmd) : UCmd :=
  let e := c.entry
  let g := ceGra e
  let v := ceAd e / 2 ^ 32
  let sh := shelfIdx g
  let d := c.die
  let gap := v % 16
  let now := readDesc s d sh
  if !ceReserved e || fld v 4 3 != 0 || gap == 1 || decide (6 < gap) then settle_ c 0x12
  else if badDie s g then settle_ c 3
  else if (isF s d SHELF_DESC.OWNED sh && getF s d SHELF_DESC.OWNER sh != cePart e) || (v.testBit 7 && fld v 8 8 != cePart e) then settle_ c 3
  else if shelfUsed s d g && now / 16 != v / 16 then settle_ c 7
  else if now = v ∧ (shelfUsed s d g ∨ getF s d SHELF_GAP.IN_FORCE sh = gap) then settle_ c 1
  else { c with planned := true, plan := [.shelf (d * 1024 + sh) v] }
where
  /-- A shelf descriptor as one word. -/
  readDesc (s : State) (d sh : Nat) : Nat :=
    getF s d SHELF_DESC.TAG sh * 2 ^ 24 + getF s d SHELF_DESC.TAG_MASK sh * 2 ^ 16 + getF s d SHELF_DESC.OWNER sh * 2 ^ 8 +
    getF s d SHELF_DESC.OWNED sh * 2 ^ 7 + getF s d SHELF_DESC.GAP_LOG2 sh

/-- Another SPARE of the bank is running: its spare is in use (R167). -/
def sparing (s : State) (c : UCmd) : Bool :=
  s.cmds.any fun x => x.id != c.id && x.origin != .scrub && ceOp x.entry == 0xB && x.planned && x.status.isNone && !x.returning &&
    graDie (ceGra2 x.entry) == graDie (ceGra2 c.entry) && graBank (ceGra2 x.entry) == graBank (ceGra2 c.entry)

/-- SPARE (R167): in the availability profile GRA2 names a physical die. -/
def planSpare (s : State) (c : UCmd) : UCmd :=
  let g := ceGra2 c.entry
  let d := graDie g
  let b := graBank g
  if !ceReserved c.entry || graRow g != 0 then settle_ c 0x12
  else if graCasc g != cascPos s || decide (s.part.dieCnt ≤ d) then settle_ c 3
  else if fenced s d then settle_ c 0x11
  else if isF s d (UPD_SPARE_MAP.USED b) || isF s d (BSQ_BANK.SPARE_BAD b) || sparing s c then settle_ c 0xC
  else
    let sh := d * 1024 + shelfIdx g
    let rows := (List.range 1024).filter fun i => rowUsed (getRow s d (g + i))
    { c with planned := true, plan := (rows.map fun i => .spareRow sh i) ++ [.remap sh] }

/-- Rewrite of an entry from a copy whose shadow is good (R165); continuation rows hold PRIO 0 and ad-word 0 (R49). -/
def rewriteOps (s : State) (src g w : Nat) : List PortOp :=
  let n := rowsPerSlot w
  let rows := (List.range n).map fun i => g + i
  let head := getRow s src g
  let ct := ctrlFix head.ctrl
  .empty rows none ::
  (rows.map fun x =>
    let r := getRow s src x
    let sh := (shCorrected r [0, 1, 2, 3, 4]).getD r.shadow
    PortOp.write x none w (if x = g then ctrlPrio ct else 0) (BitVec.ofNat 64 (if x = g then (adCheck head).data?.getD 0 else 0))
      (shValue sh) (shMask sh)) ++
  [.validate rows none (ctrlState ct) (ctrlStateB ct)]

/-- Every word of every row of an entry is readable, and its cells agree with its shadow. -/
def entryGood (s : State) (d g n : Nat) : Bool :=
  (List.range n).all fun i =>
    let r := getRow s d (g + i)
    (shCorrected r [0, 1, 2, 3, 4]).isSome && (adCheck r).data?.isSome && (ctrlCheck r.ctrl).data?.isSome
def entryAgrees (s : State) (d g n : Nat) : Bool :=
  entryGood s d g n && (List.range n).all fun i =>
    let r := getRow s d (g + i)
    let sh := (shCorrected r [0, 1, 2, 3, 4]).getD 0
    shValue sh == r.value && shMask sh == r.mask

/-- The scrubber's repair of an entry (R165), as it finds the entry now. -/
def planScrub (s : State) (c : UCmd) : UCmd :=
  let p := getF s c.die SHELF_DESC.OWNER (shelfIdx c.gra)
  let w := partWidth s c.die p
  let n := rowsPerSlot w
  let rows := (List.range n).map fun i => c.gra + i
  let c := { c with planned := true }
  if !slotUsed s c.die c.gra n 0 then c
  else if paired s c.die && entryAgrees s (partner c.die) c.gra n && !entryAgrees s c.die c.gra n then
    { c with plan := rewriteOps s (partner c.die) c.gra w }
  else if entryGood s c.die c.gra n then { c with plan := rewriteOps s c.die c.gra w }
  else { c with plan := [.empty rows none] }

/-- BARRIER (R140): its GRA names no row, but an absent or odd die in it is rejected (R16, R106; log 75). -/
def planBarrier (s : State) (c : UCmd) : UCmd :=
  if !ceReserved c.entry then settle_ c 0x12
  else if badDieField s (ceGra c.entry) then settle_ c 3
  else { c with planned := true }

/-- Fix a command's status or operations, as things stand when nothing earlier holds it. -/
def planCmd (s : State) (c : UCmd) : UCmd :=
  if c.origin == .scrub then planScrub s c
  else if !mayRequest c.src (ceOp c.entry) then settle_ c 2
  else if fenced s c.die then settle_ c 0x11
  else match ceOp c.entry with
    | 1 => planWrite s c
    | 2 => planState s c true
    | 3 => planInsert s c
    | 4 => planMove s c
    | 5 => planState s c false
    | 7 => planGenClear s c
    | 8 => planShelf s c
    | 9 => planCompact s c
    | 0xB => planSpare s c
    | 0xC => planBarrier s c
    | _ => settle_ c 2

/-! ## The effect of one operation on one die -/

/-- A SPARE copies this shelf and has passed the row (R167 step 4). -/
def spareBehind (s : State) (d g : Nat) : Bool :=
  s.cmds.any fun c => ceOp c.entry == 0xB && c.planned && c.status.isNone && graDie (ceGra2 c.entry) == d &&
    shelfIdx (ceGra2 c.entry) == shelfIdx g && c.plan != [] && !c.plan.contains (.spareRow (d * 1024 + shelfIdx g) (graRow g))

/-- Change a row on a die, and its copy on a spare that is being filled. -/
def updRow (s : State) (d g : Nat) (f : Row → Row) : State :=
  let sp := spareBehind s d g
  let s := modRow s d g f
  if sp then { s with rows := mset Row.zero s.rows (pkey d (graBank g) 64 (graRow g)) (getRow s d g) } else s

/-- Write a control word. -/
def setCtrl (s : State) (d g : Nat) (f : W32 → W32) : State := updRow s d g fun r => { r with ctrl := editCtrl r.ctrl f }

/-- The control word with the state code of the entry or half replaced. -/
def withState (half : Option Nat) (st : Nat) (c : W32) : W32 :=
  match half with
  | some 1 => reCtrl c (ctrlState c) st (ctrlD c) (ctrlSusp c)
  | some _ => reCtrl c st (ctrlStateB c) (ctrlD c) (ctrlSusp c)
  | none => reCtrl c st (if st = 0 then 0 else ctrlStateB c) (ctrlD c) (ctrlSusp c)

/-- Start a guard (R146). -/
def guardRow (s : State) (d g : Nat) (whole : Bool) : State :=
  { s with guards := s.guards ++ [{ die := d, gra := g, at_ := s.cyc, whole := whole }] }

/-- A guard still holds a row. -/
def guarded (s : State) (d g : Nat) : Bool :=
  s.guards.any fun x => x.die == d && (x.gra == g || (x.whole && shelfHead x.gra == shelfHead g))

/-- The shadow of a half-row pair with one half replaced, and its check bits: a word that holds bits of the other half and
cannot be corrected still reads as uncorrectable (log 71). -/
def mixShadow (r : Row) (h : Nat) (sel value mask : Seg) : BitVec 320 × BitVec 40 :=
  let mix := fun (old new_ : Seg) => (old &&& (selAll ^^^ sel)) ||| (new_ &&& sel)
  let words := (List.range 5).map fun i => (shWord r i).data?.getD (getBE r.shadow (64 * i) 64)
  let osh : BitVec 320 := BitVec.ofNat 320 (words.foldl (fun a w => a * 2 ^ 64 + w) 0)
  let sh : BitVec 320 := mix (shValue osh) value ++ mix (shMask osh) mask
  (sh, BitVec.ofNat 40 (ofBytesBE ((List.range 5).map fun i =>
    let w := getBE sh (64 * i) 64
    if i = (if h = 0 then 0 else 4) then secField 64 7 w
    else keepChk (getBE r.shadow (64 * i) 64) (getBE r.shChk (8 * i) 8) w)))

/-- Step 2 on one row (R144, R147): a half beside a used half changes its own positions alone. -/
def writeRow (r : Row) (half : Option Nat) (width idx prio : Nat) (ad : W64) (value mask : Seg) : Row :=
  match half with
  | none => mkRow (mkCtrl prio 0 0 (rowCode width idx) false false) ad value mask
  | some h =>
    let sel := if h = 0 then selA else selB
    let keep := halfUsed r (1 - h)
    let fresh := mkCtrl prio 0 0 1 false false
    let ctrl := if keep then editCtrl r.ctrl fun c =>
        mkCtrl (ctrlPrio c) (if h = 1 then ctrlState c else 0) (if h = 0 then ctrlStateB c else 0) 1 (ctrlD c) (ctrlSusp c) else fresh
    let mix := fun (old new_ : Seg) => (old &&& (selAll ^^^ sel)) ||| (new_ &&& sel)
    let a := ad.toNat % 2 ^ 32
    let oldAd := (adCheck r).data?.getD r.ad.toNat
    let newAd := if h = 0 then a * 2 ^ 32 + oldAd % 2 ^ 32 else oldAd / 2 ^ 32 * 2 ^ 32 + a
    let adChk := if keep then keepChk r.ad.toNat r.adChk.toNat newAd else secField 64 7 newAd
    let v := mix r.value (value &&& mask)
    let m := mix r.mask mask
    let q := mixShadow r h sel (value &&& mask) mask
    { value := v, mask := m, ctrl := ctrl, ad := BitVec.ofNat 64 newAd, adChk := BitVec.ofNat 8 adChk,
      shadow := q.1, shChk := if keep then q.2 else shadowChk q.1 }

/-- Write a shelf descriptor (R59): GAP_LOG2 is in force at once on an empty shelf. -/
def putDesc (s : State) (d sh v : Nat) (empty : Bool) : State :=
  let s := setF (setF (setF s d SHELF_DESC.TAG (v / 2 ^ 24) sh) d SHELF_DESC.TAG_MASK (v / 2 ^ 16) sh) d SHELF_DESC.OWNER (v / 2 ^ 8) sh
  let s := setF (setF s d SHELF_DESC.OWNED (v / 2 ^ 7) sh) d SHELF_DESC.GAP_LOG2 v sh
  if empty then setF s d SHELF_GAP.IN_FORCE v sh else s

/-- One operation acts on one die. -/
def applyOp (s : State) (d : Nat) (op : PortOp) : State :=
  match op with
  | .empty rows half => rows.foldl (fun s g => guardRow (setCtrl s d g (withState half 0)) d g false) s
  | .write g half w prio ad v m => updRow s d g fun r => writeRow r half w (graRow g) prio ad v m
  | .validate rows half st stB => rows.foldl (fun s g => setCtrl s d g fun c =>
      match half with
      | some 1 => reCtrl c (ctrlState c) st false false
      | some _ => reCtrl c st (ctrlStateB c) false false
      | none => reCtrl c st (if ctrlWidth c = 1 then stB else 0) false false) s
  | .setState rows half st => rows.foldl (fun s g =>
      let s := setCtrl s d g (withState half st)
      if st = 0 then guardRow s d g false else s) s
  | .copy src dst last srcs dsts =>
    let r := getRow s d src
    let sh := (shCorrected r [0, 1, 2, 3, 4]).getD r.shadow
    let ad := adCarried r
    let s := updRow s d dst fun _ =>
      { mkRow (editCtrl r.ctrl fun c => mkCtrl (ctrlPrio c) 0 0 (ctrlWidth c) false false) 0 (shValue sh) (shMask sh) with
        ad := ad.1, adChk := ad.2 }
    if last then
      (srcs.zip dsts).foldl (fun s q =>
        let o := ctrlFix (getRow s d q.1).ctrl
        setCtrl s d q.2 fun c => reCtrl c (ctrlState o) (ctrlStateB o) true false) s
    else s
  | .swap srcs dsts =>
    let s := dsts.foldl (fun s g => setCtrl s d g fun c => reCtrl c (ctrlState c) (ctrlStateB c) false (ctrlSusp c)) s
    srcs.foldl (fun s g => guardRow (setCtrl s d g fun c => reCtrl c 0 0 (ctrlD c) (ctrlSusp c)) d g false) s
  | .genClear sh gen =>
    let base := graOn s (sh / 1024) (sh / 64 % 16) (sh % 64) 0
    let clr := fun (v : Nat) => v &&& (3 - 2 ^ gen)
    let s := (List.range 1024).foldl (fun s i =>
      if rowUsed (getRow s d (base + i)) then setCtrl s d (base + i) fun c => reCtrl c (clr (ctrlState c)) (clr (ctrlStateB c)) (ctrlD c) (ctrlSusp c) else s) s
    guardRow s d base true
  | .shelf sh v =>
    let base := graOn s (sh / 1024) (sh / 64 % 16) (sh % 64) 0
    putDesc s d (sh % 1024) v (!shelfUsed s d base)
  | .spareRow sh i =>
    let base := graOn s d (sh / 64 % 16) (sh % 64) 0
    let r := getRow s d (base + i)
    let k := pkey d (sh / 64 % 16) 64 i
    let twin := getRow s (partner d) (base + i)
    let from_ := fun (r : Row) (v : BitVec 320) =>
      { mkRow (editCtrl r.ctrl fun c => reCtrl c (ctrlState c) (ctrlStateB c) (ctrlD c) false) 0 (shValue v) (shMask v) with
        ad := (adCarried r).1, adChk := (adCarried r).2 }
    match shCorrected r [0, 1, 2, 3, 4] with
    | some v => { s with rows := mset Row.zero s.rows k (from_ r v) }
    | none =>
      match (if paired s d then shCorrected twin [0, 1, 2, 3, 4] else none) with
      | some v => { s with rows := mset Row.zero s.rows k (from_ twin v) }
      | none => raiseErr { s with rows := mset Row.zero s.rows k Row.zero } d pgUpd UPD_ERR.SPARE_LOST (it1 (base + i))
  | .remap sh =>
    let b := sh / 64 % 16
    setF (setF s d (UPD_SPARE_MAP.USED b) 1) d (UPD_SPARE_MAP.SHELF b) (sh % 64)

/-- Rows whose contents an operation writes, which a guard may hold. -/
def opWrites : PortOp → List Nat
  | .write g _ _ _ _ _ _ => [g]
  | .copy _ dst _ _ _ => [dst]
  | _ => []

/-! ## Order (R158, R160, R156) -/

/-- The source of a command. -/
def srcKey (c : UCmd) : Nat := c.src * 8 + c.from_

/-- Row ranges a command touches: none for a command that its source may not send, and the shelf that it replaces for
SPARE. -/
def touches (s : State) (c : UCmd) : List (Nat × Nat) :=
  let e := c.entry
  let shelf := fun (g : Nat) => (shelfHead g, shelfHead g + 1024)
  let slot := fun (g : Nat) => let n := rowsPerSlot (partWidth s c.die (cePart e)); (slotHead g n, slotHead g n + n)
  let owned := fun (d : Nat) => (ownedShelves s d (cePart e)).map fun sh => shelf (graOn s d (sh / 64 % 16) (sh % 64) 0)
  if c.origin == .scrub then [slot c.gra]
  else if !mayRequest c.src (ceOp e) then []
  else match ceOp e with
    | 1 | 2 | 5 => [slot (ceGra e)]
    | 4 => [slot (ceGra e), slot (ceGra2 e)]
    | 3 | 8 | 9 => [shelf (ceGra e)]
    | 7 => (dies s).flatMap owned
    | 0xA => owned c.die
    | 0xB => [shelf (graOn s (graDie (ceGra2 e)) (graBank (ceGra2 e)) (graShelf (ceGra2 e)) 0)]
    | _ => []

/-- Two commands touch a row in common. -/
def conflict (s : State) (a b : UCmd) : Bool :=
  (touches s a).any fun x => (touches s b).any fun y => decide (x.1 < y.2 ∧ y.1 < x.2)

/-- The command is fenced: FENCE, GEN_FLIP and BARRIER (R160). -/
def isFenced (c : UCmd) : Bool := c.origin != .scrub && (ceFence c.entry || ceOp c.entry == 6 || ceOp c.entry == 0xC)

/-- The commands a command must wait for, among those before it in its source's order or accepted before it. A SPARE that
runs holds nobody: what touches a row already copied is applied to the spare too (R167 step 4). -/
def waitsFor (s : State) (c : UCmd) : List Nat :=
  let earlier := s.cmds.takeWhile fun x => x.id != c.id
  (earlier.filter fun x => srcKey x == srcKey c && x.origin != .scrub && !x.returning && (isFenced c || isFenced x)).map (fun x => x.id) ++
  (s.cmds.filter fun x => x.id != c.id && x.acc.isSome && !x.returning &&
    ((conflict s x c && !(ceOp x.entry == 0xB && x.origin != .scrub)) || (ceOp c.entry == 6 && c.origin != .scrub && x.origin != .scrub && cePart x.entry == cePart c.entry))).map fun x => x.id

/-- Change a command. -/
def modCmd (s : State) (id : Nat) (f : UCmd → UCmd) : State := { s with cmds := updWhere (fun c => c.id == id) f s.cmds }

/-- GEN_FLIP (R156): done already, or a target cycle 64 cycles ahead (DESIGN CHOICE, log 76: R156 gives at least 64). -/
def startFlip (s : State) (c : UCmd) : State :=
  let p := cePart c.entry
  let g := ceGen c.entry
  if !ceReserved c.entry then modCmd s c.id fun c => settle_ c 0x12
  else if getF s 0 PART_CTL.ACT_GEN p = g then modCmd s c.id fun c => settle_ c 1
  else
    let f := s.cyc + 64
    let s := modCmd s c.id fun c => { c with planned := true, target := some f }
    sendTarget { s with flips := s.flips ++ [(p, g, f)] } c.id f ((p * 2 + g) * 2 ^ 238)

/-- BULK_LOAD starts (R163): its own fields are checked, and the records are asked for. An AD that is not 64-byte aligned
ends it with BAD_FIELD (DESIGN CHOICE, log 77). -/
def startBulk (s : State) (c : UCmd) : State :=
  let e := c.entry
  let st := if fenced s c.die then some 0x11
    else if badDieField s (ceGra e) then some 3
    else if !ceReserved e || ceSrc e == 3 || ceAd e % 64 != 0 then some 0x12
    else if ceSrc e == 2 && !s.part.unitS then some 0xF
    else none
  match st with
  | some v => modCmd s c.id fun x => settle_ x v
  | none =>
    let s := setF (setF s c.die UPD_BULK.LOADED 0) c.die UPD_BULK.SKIPPED 0
    let s := modCmd s c.id fun x => { x with begun := true, planned := ceGra2 e == 0 }
    if ceGra2 e != 0 && decide (ceSrc e < 2) then
      emitOut s (.hostRead (ceAd e) (if ceSrc e = 1 then some (ceValue e % 2 ^ 20) else none) (64 * ceGra2 e))
    else s

/-- Plan a command that nothing holds any more; a wide entry first waits for its continuations (R141). -/
def tryPlan (s : State) (id : Nat) : State :=
  match s.cmds.find? fun c => c.id == id with
  | none => s
  | some c =>
    if c.acc.isNone || c.planned || c.begun || c.after != [] || c.conts.length < c.expect then s
    else if c.origin == .scrub || !mayRequest c.src (ceOp c.entry) then modCmd s id fun _ => planCmd s c
    else if ceOp c.entry = 6 then startFlip s c
    else if ceOp c.entry = 0xA then startBulk s c
    else modCmd s id fun _ => planCmd s c

/-- A command is over: those it held go on. -/
def releaseAfter (s : State) (id : Nat) : State :=
  let f : UCmd → UCmd := fun c => { c with after := c.after.filter fun x => x != id }
  let s := { s with cmds := updWhere (fun c => c.after.contains id) f s.cmds }
  (s.cmds.map fun c => c.id).foldl tryPlan s

/-- A continuation has joined its head: what waited for it waits for the sequence (R160). -/
def joinAfter (s : State) (id head : Nat) : State :=
  let f : UCmd → UCmd := fun c => { c with after := c.after.map fun x => if x = id then head else x }
  { s with cmds := updWhere (fun c => c.after.contains id && c.id != head) f s.cmds }

/-- Count a completion and record its error. -/
def countCpl (s : State) (c : UCmd) : State :=
  let st := c.status.getD 0
  let n := 1 + c.conts.length
  let item := it2 c.src (ceTag c.entry)
  if st < 2 then bump s c.die UPD_DONE.DONE n
  else
    let s := setF (bumpSat s c.die UPD_REJ.COUNT n) c.die UPD_REJ.LAST st
    let s := raiseErr s c.die pgUpd UPD_ERR.REJECT item
    let s := if st = 0xB then raiseErr s c.die pgUpd UPD_ERR.WIDE_SEQ item else s
    if st = 0x10 && ceOp c.entry = 0xA then raiseErr s c.die pgUpd UPD_ERR.BULK_SRC item else s

/-- Add a repair of the scrubber. -/
def newRepair (s : State) (d g : Nat) : State :=
  let c : UCmd := { newCmd s d d 0xFF .scrub 0 true false with gra := g, acc := some s.accepted }
  let s := { s with cmds := s.cmds ++ [c], nextId := s.nextId + 1, accepted := s.accepted + 1 }
  let w := waitsFor s c
  tryPlan (modCmd s c.id fun c => { c with after := w }) c.id

end Sys2Proof.Machine
end

