-- ==== Sys2Proof/Machine/Cache.lean ====
section
/-!
DEFINITION. The store room and its bucket cache: store-room steps, fills, slot writes, the merging buffer, the patrol
scrubber, preload, invalidation, ways, and the channel's own states (R248 to R256, R273 to R302, R374).
-/

namespace Sys2Proof.Machine

/-! ## Store-room steps (R248 to R250) -/

/-- The longest fixed-latency step is kept in STR_FL_MAX. -/
def noteStep (s : State) (x : SStep) : State :=
  let n := min 1023 ((s.cyc - x.start) / 2)
  if x.fixed && getF s x.die STR_FL_MAX.MAX < n then setF s x.die STR_FL_MAX.MAX n else s

/-- STORE_ROOM_STEP_DONE: the step writes its record, or the parallel probe keeps it for its search; on MISS the cellar
step may follow (R22). `crc` says that a repair write failed CRC four times (R253). -/
def execStoreRoomStepDone (a : Attempt) (s : State) : Result :=
  .next (
    match s.steps.find? fun x => x.id == a.key && x.done.isNone with
    | none => s
    | some x =>
      if !stepReady s x then s
      else
        let (s, r) := stepRec (noteStep s x) x a.crc
        match x.par with
        | some _ => modStep s a.key fun y => { y with done := some (encRec r) }
        | none =>
          let s := { s with steps := s.steps.filter fun y => y.id != a.key }
          let r := if x.spec then { r with spec := true } else r
          match x.next with
          | some g => if r.status = 1 && !x.squashed then issueFetch s x.die x.thread x.rno g x.region x.key x.width x.ent
            else deliverRec s x.die x.thread x.rno r none x.ent
          | none => deliverRec s x.die x.thread x.rno r none x.ent)

/-! ## Fills (R284 to R287) -/

/-- The step's lookup of bucket `b` needs a fill. -/
def stepNeeds (x : SStep) (b : Nat) : Bool := if b = 0 then x.need0 else x.need1

/-- The lookup of bucket `b` no longer looks for a buffer. -/
def noNeed (b : Nat) (x : SStep) : SStep := if b = 0 then { x with need0 := false } else { x with need1 := false }

/-- Answer the lookup of bucket `b` of a step. -/
def answerStep (s : State) (id b : Nat) (a : Bucket) : State :=
  modStep s id fun x => if b = 0 then { x with ans0 := some a } else { x with ans1 := some a }

/-- Fill buffers in use on a die. -/
def fillsOn (s : State) (d : Nat) : List Fill := s.fills.filter fun f => f.die == d

/-- A fill buffer is free for the class: G_RES of the 64 are kept for fixed-latency steps. -/
def fillRoom (s : State) (d : Nat) (fixed : Bool) : Bool :=
  decide ((fillsOn s d).length < 64) &&
  (fixed || decide (((fillsOn s d).filter fun f => !f.fixed).length < 64 - getF s d CCH_FILL.G_RES))

/-- An entry of the merging buffer for the line is draining. -/
def drainingLine (s : State) (d line : Nat) : Bool := s.mbuf.any fun e => e.die == d && e.line == line && e.draining

/-- Take a fill buffer for a line: the victim's line moves into it, and the way's tag entry becomes pending. -/
def takeFill (s : State) (d line : Nat) (fixed : Bool) (waiters : List (Nat × Nat)) (forced : Option Nat) : State :=
  let set := lineSet line
  let (s, way) := match forced with
    | some w => (s, some w)
    | none => if isF s d CCH_CTL.EN then chooseVictim s d set else (s, none)
  let victim := way.bind fun w =>
    let l := getLine s d w set
    if l.valid && !l.pend && l.ecc != 2 && l.tag != lineTag line then some (l.tag * 4096 + set, l.data) else none
  let s := match way with
    | some w => setLine s d w set { Line.zero with tag := lineTag line, pend := true }
    | none => s
  { s with
    fills := s.fills ++ [{ die := d, id := s.nextId, line := line, way := way, victim := victim, stale := false,
                           held := drainingLine s d line, fixed := fixed, granted := false, waiters := waiters, arrived := none }]
    nextId := s.nextId + 1 }

/-- Answer a lookup, which then needs no buffer. -/
def settleNeed (s : State) (id b : Nat) (a : Bucket) : State := modStep (answerStep s id b a) id (noNeed b)

/-- A missing lookup joins a fill of its line: one that has arrived answers it at once. -/
def joinFill (s : State) (f : Fill) (id b : Nat) : State :=
  let s := bump s f.die CCH_JOIN.COUNT
  match f.arrived with
  | some x => settleNeed s id b (forwardAll s f.die f.line x)
  | none =>
    let g : Fill → Fill := fun f => { f with waiters := f.waiters ++ [(id, b)] }
    modStep { s with fills := updWhere (fun h => h.id == f.id) g s.fills } id (noNeed b)

/-- CACHE_FILL_ALLOCATE: a missing lookup joins a fill of its line, or the refetch of a locked line, or takes a buffer. While it
waited the line may have been installed, and answers it. A blocked bank accepts no change of its tags (R285). -/
def execCacheFillAllocate (id b : Nat) (s : State) : Result :=
  .next (
    match s.steps.find? fun x => x.id == id with
    | none => s
    | some x =>
      if !stepNeeds x b || x.forced.isSome then s
      else
        let d := x.die
        let line := stepLine s x b
        match s.fills.find? fun f => f.die == d && f.line == line with
        | some f => joinFill s f id b
        | none =>
          match (if isF s d CCH_CTL.EN then wayOf s d line else none) with
          | some w => settleNeed s id b (forwardAll s d line ⟨(getLine s d w (lineSet line)).data, 0⟩)
          | none =>
            if !fillRoom s d x.fixed || s.cyc < bankBusy s d line then s
            else
              match s.walks.find? fun k => k.die == d && k.kind == 2 && k.base == line with
              | some k =>
                let s := { s with walks := rmFirst (fun j => j == k) s.walks }
                let s := bump (bump s d CCH_JOIN.COUNT) d CCH_REFRESH.COUNT
                modStep (takeFill s d line x.fixed [(id, b)] (some k.way)) id (noNeed b)
              | none => modStep (takeFill s d line x.fixed [(id, b)] none) id (noNeed b))

/-- A read of memory: `ecc` is 0 clean, 1 corrected, 2 uncorrectable; a corrected bucket is written back (R249). -/
def readMem (s : State) (d line ecc : Nat) : State × Bucket :=
  let b := memRead s d line
  if ecc = 2 then (memWrite s d line { b with lost := 15 }, { b with lost := 15 })
  else if ecc = 1 && !b.bad then (raiseErr (bumpSat s d STR_ECC.CORR) d pgStr STR_ERR.ECC_CORR (it1 (line * 128)), b)
  else (s, b)

/-- FILL_LINE_ARRIVE: the line of a read that the memory arbiter granted arrives and answers every lookup that waits, with
forwarding; the buffer keeps the forwarded image (R290). A line that a lock names is not installed (R341). -/
def execFillLineArrive (id ecc : Nat) (s : State) : Result :=
  .next (
    match s.fills.find? fun f => f.id == id && f.arrived.isNone with
    | none => s
    | some f =>
      if !f.granted || !strUp s f.die || !domOn s f.die 1 || (!f.fixed && lockedLine s f.die f.line) then s
      else
        let (s, b) := readMem s f.die f.line ecc
        let a := forwardAll s f.die f.line b
        let s := f.waiters.foldl (fun s q => answerStep s q.1 q.2 a) s
        let s := if lockedLine s f.die f.line then noInstall s fun h => h.id == id else s
        let g : Fill → Fill := fun h => { h with arrived := some a, waiters := [] }
        { s with fills := updWhere (fun h => h.id == id) g s.fills })

/-- A fixed-latency lookup waits at the bank of a line. -/
def fixedWaits (s : State) (d line : Nat) : Bool :=
  s.steps.any fun x => x.die == d && x.fixed && wantsPort s x && (stepLine s x 0 % 16 == line % 16 || stepLine s x 1 % 16 == line % 16)

/-- FILL_INSTALL: the arrived line, with what was written since, goes into its way and its bank is blocked for 18 CQ cycles, from a
cycle in which no operation took a port of it. An unreadable line is not installed. -/
def execFillInstall (id : Nat) (s : State) : Result :=
  .next (
    match s.fills.find? fun f => f.id == id with
    | none => s
    | some f =>
      match f.arrived with
      | none => s
      | some b =>
        let d := f.die
        let gone_ := { s with fills := s.fills.filter fun h => h.id != id }
        match f.way with
        | none => gone_
        | some w =>
          if s.cyc < bankBusy s d f.line || fixedWaits s d f.line || portUse s d f.line != 0 then s
          else
            let a := forwardAll s d f.line b
            let keep := wayEn s d w && domOn s d (domWay w) && !a.bad
            let s := setLine gone_ d w (lineSet f.line)
              (if keep then { tag := lineTag f.line, valid := true, pend := false, data := a.data, ecc := 0 } else Line.zero)
            { s with bankBusy := mset 0 s.bankBusy (d * 16 + f.line % 16) (2 * cq s + 36) })

/-! ## Slot writes (R254, R255, R288) -/

/-- Discard a record or a descriptor write (R254, R276). -/
def swrReject (s : State) (d cause : Nat) (item : ErrItem) : State :=
  raiseErr (setF (bumpSat s d STR_SWR_REJ.COUNT) d STR_SWR_REJ.LAST cause) d pgStr STR_ERR.SWR_REJ item

/-- A slot-write record of `len` bytes at byte offset `off` of a window of die `d`. A full queue withholds credit: the
record has not arrived. -/
def slotWrite (s : State) (d off len : Nat) (e : BitVec 512) : State :=
  let w := ceWord e 0
  let op := fld w 24 8
  let reg := fld w 16 8
  let bucket := fld (ceWord e 4) 0 29
  let rej := fun (c : Nat) => swrReject s d c (it1 w)
  if !present s d pgStr then s
  else if len != 64 || off % 64 != 0 then rej 4
  else if !isF s d STR_CTL.SWR_EN then rej 7
  else if avail s && d % 2 == 1 then rej 5
  else if op != 1 && op != 2 then rej 1
  else if !isF s d SR_CTL.VALID reg then rej 2
  else if getF s d SR_SIZE.NBUCK reg ≤ bucket then rej 3
  else if 64 ≤ (s.swq.filter fun r => r.die == d).length then s
  else { s with swq := s.swq ++ [{ die := d, op := op, region := reg, slot := fld w 0 2, bucket := bucket, image := BitVec.ofNat 256 (getBE e 256 256) }] }

/-- SLOT_WRITE_RECORD. -/
def execSlotWriteRecord (d off len : Nat) (data : BitVec 512) (s : State) : Result := .next (slotWrite s d off len data)

/-- A record's effect on a bucket. -/
def recOn (r : SwRec) (b : BitVec 1024) : BitVec 1024 :=
  withHdr (if r.op = 1 then putSlot b r.slot r.image else clearV b r.slot) (mkHdr 0 r.region)

/-- The cache of a die takes a record: the line it holds and the merging buffer (R288, R289, R298). -/
def takeRecord (s : State) (d : Nat) (r : SwRec) : State :=
  let line := srLine s d r.region r.bucket
  let s := if r.op = 1 then rewritten s d line (2 ^ r.slot) else s
  let way := wayOf s d line
  let (s, held) : State × Option (BitVec 1024) := match way with
    | some w =>
      let l := getLine s d w (lineSet line)
      if (getF s d CCH_WAY_STS.CLEANING).testBit w then (invLine s d w line, none)
      else if l.ecc = 2 then (wayError (invLine s d w line) d w (lineSet line) true, none)
      else (setLine s d w (lineSet line) { l with data := recOn r l.data }, some (recOn r l.data))
    | none => (s, none)
  let merge : MEntry → MEntry := fun e =>
    match held with
    | some b => { e with data := b, slots := 15, vclr := 0 }
    | none =>
      if r.op = 1 then { e with data := recOn r e.data, slots := e.slots ||| 2 ^ r.slot, vclr := e.vclr &&& (15 - 2 ^ r.slot) }
      else if e.slots.testBit r.slot then { e with data := recOn r e.data }
      else { e with data := withHdr e.data (mkHdr 0 r.region), vclr := e.vclr ||| 2 ^ r.slot }
  let mine := fun (e : MEntry) => e.die == d && e.line == line && !e.draining
  if s.mbuf.any mine then { s with mbuf := updWhere mine merge s.mbuf }
  else
    let e : MEntry := { die := d, id := s.nextId, line := line, data := 0, slots := 0, vclr := 0, born := s.cyc, draining := false,
                         granted := false, unc := false }
    { s with mbuf := s.mbuf ++ [merge e], nextId := s.nextId + 1 }

/-- The cache of a die can take a record in this CQ cycle: one per cycle, in its own bank, with room in the merging buffer and no
lock on the line (R283, R288, R289, R291). -/
def recordRoom (s : State) (r : SwRec) (e : Nat) : Bool :=
  let line := srLine s e r.region r.bucket
  decide (mbUsed s e < 64) && portRoom s e line 1 && mget 0 s.swAt e != cq s + 1 && !lockedLine s e line

/-- SLOT_WRITE_APPLY: the cache takes the oldest record of a die's window queue, on every die that holds the bucket. -/
def execSlotWriteApply (d : Nat) (s : State) : Result :=
  .next (
    match s.swq.find? fun r => r.die == d with
    | none => s
    | some r =>
      let ds := writeDies s d (srLine s d r.region r.bucket)
      if ds == [] || !ds.all (recordRoom s r) then s
      else
        let one := fun (s : State) (e : Nat) =>
          takeRecord { usePort s e (srLine s e r.region r.bucket) with swAt := mset 0 s.swAt e (cq s + 1) } e r
        bump (ds.foldl one { s with swq := rmFirst (fun q => q == r) s.swq }) d STR_SWR_DONE.DONE)

/-! ## Draining (R289) -/

/-- The oldest entry of a die not yet draining. -/
def oldestEntry (s : State) (d : Nat) : Option MEntry := s.mbuf.find? fun e => e.die == d && !e.draining

/-- Way cleaning asks for the drain of an entry whose line the way holds (R298 step 2). -/
def cleanAsks (s : State) (e : MEntry) : Bool :=
  match wayOf s e.die e.line with
  | some w => (getF s e.die CCH_WAY_STS.CLEANING).testBit w
  | none => false

/-- Start draining an entry: victim-hold registers of its line become stale (R292). -/
def startDrain (s : State) (e : MEntry) : State :=
  let f : MEntry → MEntry := fun x => { x with draining := true }
  let g : Fill → Fill := fun x => { x with stale := true }
  { s with mbuf := updWhere (fun x => x.id == e.id) f s.mbuf
           fills := updWhere (fun x => x.die == e.die && x.victim.any fun v => v.1 == e.line) g s.fills }

/-- MBUF_DRAIN_START: an entry is chosen by age, by occupancy, or for a way that is being cleaned. -/
def execMbufDrainStart (d : Nat) (s : State) : Result :=
  .next (
    match s.mbuf.find? fun e => e.die == d && !e.draining && cleanAsks s e with
    | some e => startDrain s e
    | none =>
      match oldestEntry s d with
      | some e =>
        if 48 ≤ mbUsed s d || 2 * max 1 (getF s d CCH_MBUF.AGE) ≤ s.cyc - e.born then startDrain s e else s
      | none => s)

/-- Write an entry into memory and free it; a line that a fill holds takes its slots too. -/
def drainEntry (s : State) (e : MEntry) (crc : Bool) : State :=
  let g : Fill → Fill := fun f => { f with arrived := f.arrived.map fun b => forward (some e) b }
  let s := { s with mbuf := s.mbuf.filter fun x => x.id != e.id
                    fills := updWhere (fun f => f.die == e.die && f.line == e.line) g s.fills }
  let b := forward (some e) (memRead s e.die e.line)
  let s := if e.unc then raiseErr s e.die pgCch CCH_ERR.MBUF_UNC (it1 e.line) else s
  memPut s e.die e.line (if e.unc then { b with lost := 15 } else b) crc

/-- The entry is its line's oldest. -/
def firstOfLine (s : State) (e : MEntry) : Bool :=
  ((s.mbuf.find? fun x => x.die == e.die && x.line == e.line).map fun x => x.id) == some e.id

/-- MBUF_DRAIN_ACCEPT: the memory controller accepts the write that the arbiter granted (R289). -/
def execMbufDrainAccept (id : Nat) (crcFail : Bool) (s : State) : Result :=
  .next (
    match s.mbuf.find? fun e => e.id == id with
    | none => s
    | some e =>
      if !e.draining || !e.granted || !firstOfLine s e || !strUp s e.die || !domOn s e.die 1 then s
      else drainEntry s e crcFail)

/-- Drain every entry of a line at once: part of a locked sequence (R267, R512). -/
def drainLine (s : State) (d line : Nat) : State :=
  (s.mbuf.filter fun e => e.die == d && e.line == line).foldl (fun s e => drainEntry (startDrain s e) e false) s

/-! ## The patrol scrubber (R256, R273) -/

/-- The next patrol read is due: INTERVAL CM cycles, of two CS cycles each, after the last one (R256). -/
def patrolDue (s : State) (d : Nat) : Bool :=
  let t := mget 0 s.patrolAt d
  t == 0 || decide (t - 1 + 2 * getF s d STR_SCRUB.INTERVAL ≤ s.cyc)

/-- PATROL_SCRUB_READ: the next bucket of the module is read, in a slot granted to owner 0x05. An unreadable one is repaired from
the partner; `crc` says that the repair write failed CRC four times (R253). -/
def execPatrolScrubRead (a : Attempt) (ecc : Nat) (s : State) : Result :=
  .next (
    let n := modBuckets s a.key
    if !isF s a.key STR_CTL.SCRUB_EN || getF s a.key STR_SCRUB.INTERVAL = 0 || !strUp s a.key || n = 0 || !patrolDue s a.key then s
    else match useGrant s a.key 1 5 with
      | none => s
      | some s =>
        let line := getF s a.key STR_SCRUB_POS.POS % n
        let (s, b) := readMem s a.key line ecc
        let s := setF { s with patrolAt := mset 0 s.patrolAt a.key (s.cyc + 1) } a.key STR_SCRUB_POS.POS ((line + 1) % n)
        if !b.bad then s
        else
          let s := unreadable s a.key line STR_ERR.ECC_UNC
          let q := memRead s (partner a.key) line
          if paired s a.key && strUp s (partner a.key) && holdsCopy s (partner a.key) line && !q.bad then invAny (memPut s a.key line q a.crc) a.key line
          else s)

/-! ## The channel (R253, R274, R276, R300, R374) -/

/-- The channels homed on a die pass to its partner, when that one's channel serves with a full copy (R274). -/
def passChannels (s : State) (d : Nat) : State :=
  if avail s && !gone s (partner d) && strUp s (partner d) && !isF s (partner d) STR_STS.SYNC then takeover s d none true else s

/-- A resynchronisation copy onto a die ends without being complete. -/
def stopSync (s : State) (d : Nat) : State := setF (setF s d STR_STS.SYNC 0) d STR_SYNC.BUSY 0

/-- READY falls: the cache is emptied, merging-buffer entries are lost, fills end and steps complete with RETRY (R300). -/
def channelDown (s : State) (d : Nat) : State :=
  let lost := s.mbuf.filter fun e => e.die == d
  let stop : SStep → SStep := fun x =>
    if x.forced.isNone && x.done.isNone then { x with forced := some 3, need0 := false, need1 := false } else x
  let s := { s with walks := s.walks ++ lockedLines s d }
  let s := { s with
    cache := s.cache.filter fun q => q.1 / 65536 != d
    mbuf := s.mbuf.filter fun e => e.die != d
    fills := s.fills.filter fun f => f.die != d
    steps := updWhere (fun x => x.die == d) stop s.steps
    snaps := s.snaps.filter fun x => !(x.die == d && x.store) }
  let s := stopSync (setF s d STR_STS.READY 0) d
  lost.foldl (fun s e => raiseErr (bumpSat s d CCH_MBUF.LOST) d pgCch CCH_ERR.MBUF_LOST (it1 e.line)) s

/-- The module or its training fails (R274). -/
def moduleFail (s : State) (d : Nat) : State :=
  let s := if isF s d STR_STS.READY then channelDown s d else s
  passChannels (raiseErr (setF s d STR_STS.FAILED 1) d pgStr STR_ERR.MOD_FAIL it0) d

/-- MODULE_FAIL. -/
def execModuleFail (d : Nat) (s : State) : Result :=
  .next (if present s d pgStr && isF s d STR_CTL.EN && !isF s d STR_STS.FAILED then moduleFail s d else s)

/-- A write of STR_CTL: EN 0 to 1 starts training, EN 1 to 0 takes the channel out of service. -/
def writeStrCtl (s : State) (d val : Nat) : State :=
  let was := isF s d STR_CTL.EN
  let s := writeWord s d pgStr 0 0x80 val
  if was && !isF s d STR_CTL.EN then (if isF s d STR_STS.READY then passChannels (channelDown s d) d else s)
  else if !was && isF s d STR_CTL.EN then setF s d STR_STS.FAILED 0
  else s

/-- STORE_CHANNEL_ENABLE: STR_CTL.EN 0 to 1 starts training. -/
def execStoreChannelEnable (d val : Nat) (s : State) : Result :=
  .next (if present s d pgStr && !isF s d STR_CTL.EN && val.testBit 0 then writeStrCtl s d val else s)

/-- STORE_CHANNEL_DISABLE: STR_CTL.EN 1 to 0. -/
def execStoreChannelDisable (d val : Nat) (s : State) : Result :=
  .next (if present s d pgStr && isF s d STR_CTL.EN && !val.testBit 0 then writeStrCtl s d val else s)

/-- The resynchronisation of a die's module from its partner begins (R275). -/
def startSync (s : State) (d : Nat) : State := setF (setF (setF s d STR_STS.SYNC 1) d STR_SYNC.BUSY 1) d STR_SYNC.DONE 0

/-- CHANNEL_TRAINED: training ends with a module of `gib` GiB. In a pair whose partner's channel serves, the module is
resynchronised (R275). -/
def execChannelTrained (d gib : Nat) (s : State) : Result :=
  .next (
    if present s d pgStr && isF s d STR_CTL.EN && !isF s d STR_STS.READY && !isF s d STR_STS.FAILED && domOn s d 1 && decide (0 < gib) then
      let s := setF (setF s d STR_STS.READY 1) d STR_STS.SIZE gib
      if paired s d && strUp s (partner d) && !isF s (partner d) STR_STS.SYNC then startSync s d else s
    else s)

/-- Buckets of a die's valid region parts. -/
def regionBuckets (s : State) (d : Nat) : Nat := sumL ((List.range 256).map (partSize s d))

/-- Copy the survivor's buckets at places from `a` to before `b` of the valid region parts to die `d`, with what its merging
buffer holds (R275). -/
def copyBuckets (s : State) (d a b : Nat) (crc : Bool) : State :=
  let p := partner d
  let held := (s.store.filter fun q => q.1 / 2 ^ 29 == p || q.1 / 2 ^ 29 == d).map fun q => q.1 % 2 ^ 29
  let lines := (held ++ (s.mbuf.filter fun e => e.die == p).map fun e => e.line).eraseDups
  let in_ := fun (l : Nat) => (syncPos s p l).any fun k => decide (a ≤ k ∧ k < b)
  (lines.filter in_).foldl (fun s l =>
    invAny (memPut (rewritten s d l 15) d l (forwardAll s p l (memRead s p l)) crc) d l) s

/-- The copy of a pair's store room has passed every bucket: a rejoin goes on to its check (R133 step 5). -/
def endSync (s : State) (d : Nat) : State :=
  let s := stopSync s d
  if s.rejoins.any fun r => r.pair == d / 2 && r.phase == 4 then
    let s := { s with rejoins := updWhere (fun x => x.pair == d / 2) (fun x => { x with phase := 5, since := s.cyc }) s.rejoins }
    setF (setF s 0 PKG_PAIR_SYNC.BUSY (b2n (s.rejoins.any fun r => r.phase == 3 || r.phase == 4))) 0 (PKG_PAIR_STS.PAIR (d / 2)) 6
  else s

/-- STORE_RESYNC_DONE: the survivor has copied the next `n` buckets of the valid region parts to die `d`; with the last of them
the copy ends (R275). `crc` says that a write of them failed CRC four times (R253). -/
def execStoreResyncDone (c : Progress) (s : State) : Result :=
  .next (
    if isF s c.key STR_STS.SYNC && strUp s c.key && strUp s (partner c.key) then
      let a := getF s c.key STR_SYNC.DONE
      let b := min (regionBuckets s (partner c.key)) (a + c.n)
      let s := setF (copyBuckets s c.key a b c.crc) c.key STR_SYNC.DONE b
      if b = regionBuckets s (partner c.key) then endSync s c.key else s
    else s)

/-! ## Preload, locked ways and range invalidation (R294 to R296) -/

/-- Count a refusal under R297. -/
def refuseWays (s : State) (d word : Nat) : State :=
  raiseErr (bumpSat s d CCH_REFUSE.COUNT) d pgCch CCH_ERR.REFUSED (it1 word)

/-- A write of CCH_PRE_CMD. -/
def writePreload (s : State) (d val : Nat) : State :=
  let busy := isF s d CCH_PRE_CMD.GO
  let w := fld val 20 4
  if busy || !val.testBit 31 then
    (if busy then s else setF (setF (setF s d CCH_PRE_CMD.LOCK (fld val 24 1)) d CCH_PRE_CMD.WAY w) d CCH_PRE_CMD.COUNT (fld val 0 13))
  else
    let s := setF (setF (setF s d CCH_PRE_CMD.LOCK (fld val 24 1)) d CCH_PRE_CMD.WAY w) d CCH_PRE_CMD.COUNT (fld val 0 13)
    let en := getF s d CCH_WAYS.EN
    if !en.testBit w then setF s d CCH_PRE_CMD.STATUS 2
    else if activeWays s d (en &&& (65535 - 2 ^ w)) (getF s d CCH_WAYS.LOCK) < 2 then
      refuseWays (setF s d CCH_PRE_CMD.STATUS 1) d (val % 2 ^ 32)
    else
      let k : CacheWalk := { die := d, kind := 0, base := getF s d CCH_PRE_BASE.LINE, count := fld val 0 13, way := w, lock := val.testBit 24 }
      setF { s with walks := s.walks ++ [k] } d CCH_PRE_CMD.GO 1

/-- CACHE_PRELOAD: a write of CCH_PRE_CMD with GO. -/
def execCachePreload (d val : Nat) (s : State) : Result :=
  .next (if present s d pgCch && val.testBit 31 then writePreload s d val else s)

/-- Load one line of a preload into its way; a copy in another way moves. -/
def preloadLine (s : State) (d w line : Nat) (b : Bucket) : State :=
  let set := lineSet line
  let s := noInstall s fun f => f.die == d && lineSet f.line == set && (f.way == some w || f.line == line)
  let (s, data) := match wayOf s d line with
    | some v => (setLine s d v set Line.zero, (getLine s d v set).data)
    | none => (s, (forwardAll s d line b).data)
  setLine s d w set { tag := lineTag line, valid := true, pend := false, data := data, ecc := 0 }

/-- Load the lines of a preload: the state and the status that ends it; `badAt` is the first line that reads uncorrectable. -/
def preloadFrom (d w base count badAt : Nat) : Nat → State → State × Nat
  | 0, s => (s, 0)
  | n + 1, s =>
    let i := count - (n + 1)
    let line := base + i
    if modBuckets s d ≤ line then (s, 3)
    else if (badAt == i || (memRead s d line).bad) && (wayOf s d line).isNone then (s, 4)
    else preloadFrom d w base count badAt n (preloadLine s d w line (memRead s d line))

/-- CACHE_PRELOAD_DONE: the preload's lines are loaded and it ends, in a cycle in which no bank it writes is blocked or wanted by
an operation that goes before it (R283, R285). -/
def execCachePreloadDone (d badAt : Nat) (s : State) : Result :=
  .next (
    match s.walks.find? fun k => k.die == d && k.kind == 0 with
    | none => s
    | some k =>
      if !strUp s d || !((List.range (min 16 k.count)).all fun i => walkRoom s d (k.base + i)) then s
      else
        let s := { s with walks := rmFirst (fun j => j == k) s.walks }
        let (s, st) := preloadFrom d k.way k.base k.count badAt k.count s
        let s := setF (setF s d CCH_PRE_CMD.GO 0) d CCH_PRE_CMD.STATUS st
        let lock := getF s d CCH_WAYS.LOCK ||| 2 ^ k.way
        if !k.lock then s
        else if activeWays s d (getF s d CCH_WAYS.EN) lock < 2 then refuseWays (setF s d CCH_PRE_CMD.STATUS 1) d (2 ^ 31)
        else setF s d CCH_WAYS.LOCK lock)

/-- A write of CCH_INV_CMD. -/
def writeInv (s : State) (d val : Nat) : State :=
  if isF s d CCH_INV_CMD.GO then s
  else
    let n := fld val 0 29
    let s := setF s d CCH_INV_CMD.COUNT n
    if !val.testBit 31 then s
    else
      let b := getF s d CCH_INV_BASE.LINE
      let lines := (s.cache.filter fun q => q.1 / 65536 == d && q.2.valid).map fun q => (q.1 / 4096 % 16, q.2.tag * 4096 + q.1 % 4096)
      let s := (lines.filter fun q => decide (b ≤ q.2 ∧ q.2 < b + n)).foldl (fun s q => invLine s d q.1 q.2) s
      let k : CacheWalk := { die := d, kind := 1, base := b, count := n, way := 0, lock := false }
      setF { s with walks := s.walks ++ [k] } d CCH_INV_CMD.GO 1

/-- CACHE_RANGE_INVALIDATE: a write of CCH_INV_CMD with GO. -/
def execCacheRangeInvalidate (d val : Nat) (s : State) : Result :=
  .next (if present s d pgCch && val.testBit 31 then writeInv s d val else s)

/-- CACHE_RANGE_INVALIDATE_DONE: the walk, which yields to the other operations of the banks (R283), and its refetches have
ended. -/
def execCacheRangeInvalidateDone (d : Nat) (s : State) : Result :=
  .next (
    match s.walks.find? fun k => k.die == d && k.kind == 1 with
    | none => s
    | some k =>
      if (s.walks.any fun j => j.die == d && j.kind == 2 && decide (k.base ≤ j.base ∧ j.base < k.base + k.count)) ||
        !((List.range (min 16 k.count)).all fun i => walkRoom s d (k.base + i)) then s
      else setF { s with walks := rmFirst (fun j => j == k) s.walks } d CCH_INV_CMD.GO 0)

/-- LOCKED_LINE_REFETCH: an invalidated line of a locked way is read again into the same way, once its bank has a port left and no
lock names the line (R283, R341). -/
def execLockedLineRefetch (d line ecc : Nat) (s : State) : Result :=
  .next (
    match s.walks.find? fun k => k.die == d && k.kind == 2 && k.base == line with
    | none => s
    | some k =>
      if !strUp s d || !walkRoom s d line || lockedLine s d line then s
      else
        let s := bump { usePort s d line with walks := rmFirst (fun j => j == k) s.walks } d CCH_REFRESH.COUNT
        let (s, b) := readMem s d line ecc
        if b.bad || !wayEn s d k.way then s else preloadLine s d k.way line b)

/-! ## Ways (R297, R298, R300) -/

/-- A write of CCH_WAYS: refused whole, or ways are enabled, disabled and locked. A failed way stays disabled until its
FAILED bit is cleared. -/
def writeWays (s : State) (d val : Nat) : State :=
  let failed := getF s d CCH_WAY_STS.FAILED
  let old := getF s d CCH_WAYS.EN
  let en := maskOf ((List.range 16).filter fun w => val.testBit w && (!failed.testBit w || old.testBit w))
  let lock := fld val 16 16
  if activeWays s d en lock < 2 then refuseWays s d (val % 2 ^ 32)
  else
    let s := setF s d CCH_WAYS.LOCK lock
    (List.range 16).foldl (fun s w =>
      if old.testBit w && !en.testBit w then disableWay s d w
      else if !old.testBit w && en.testBit w then
        setF (setF (clearWay s d w) d CCH_WAYS.EN (getF s d CCH_WAYS.EN ||| 2 ^ w)) d CCH_WAY_STS.CLEANING
          (getF s d CCH_WAY_STS.CLEANING &&& (65535 - 2 ^ w))
      else s) s

/-- CACHE_WAYS_WRITE. -/
def execCacheWaysWrite (d val : Nat) (s : State) : Result := .next (if present s d pgCch then writeWays s d val else s)

/-- WAY_CLEAN_DONE: no merging-buffer entry holds a line of the way any more; its lines are invalid and it is clean. -/
def execWayCleanDone (d w : Nat) (s : State) : Result :=
  .next (
    if !(getF s d CCH_WAY_STS.CLEANING).testBit w || 16 ≤ w || (s.mbuf.any fun e => e.die == d && wayOf s d e.line == some w) then s
    else setF (clearWay s d w) d CCH_WAY_STS.CLEANING (getF s d CCH_WAY_STS.CLEANING &&& (65535 - 2 ^ w)))

/-- A write of CCH_CTL: clearing EN invalidates every line. -/
def writeCchCtl (s : State) (d val : Nat) : State :=
  let was := isF s d CCH_CTL.EN
  let s := writeWord s d pgCch 0 0x80 val
  if was && !isF s d CCH_CTL.EN then
    let s := noInstall s fun f => f.die == d
    { s with cache := s.cache.filter fun q => q.1 / 65536 != d }
  else s

/-- CACHE_ENABLE_WRITE. -/
def execCacheEnableWrite (d val : Nat) (s : State) : Result := .next (if present s d pgCch then writeCchCtl s d val else s)

end Sys2Proof.Machine
end

