-- ==== Sys2Proof/Machine/Windows.lean ====
section
/-!
DEFINITION. The descriptor tables and the array windows: partition and region descriptors (R65, R244, R245, R513), the
attic row window (R509 to R511), the store-room array window (R512), the recipe store (R501) and the slices (R508).
-/

namespace Sys2Proof.Machine

/-- What performing a read gives: the state, and the answer (0 good, 1 Unsupported Request, 2 Completer Abort, with its
data), or none while the access waits. -/
abbrev Reply := State × Option (Nat × Nat)

/-- An answer. -/
def answer (s : State) (st data : Nat) : Reply := (s, some (st, data))

/-- Hand an answer to its accessor. -/
def giveRead (acc : Nat) (r : Reply) : State :=
  match r.2 with
  | some (st, v) => emitOut r.1 (.readData acc st v)
  | none => r.1

/-! ## Descriptor tables (R65, R244, R245, R513) -/

/-- Record an ignored descriptor write on every die's page, with its item. -/
def descErr (s : State) (pg bit item : Nat) : State := (dies s).foldl (fun s d => raiseErr s d pg bit (it1 item)) s

/-- Write a descriptor word in every die's copy; fields of absent dies and of an absent unit K stay 0 (R66). -/
def writeCopies (s : State) (pg n off val : Nat) : State :=
  let s := (dies s).foldl (fun s d => writeWord s d pg n off val) s
  if pg = pgPart then
    let s := ((List.range 8).filter fun e => decide (s.part.dieCnt ≤ e)).foldl (fun s e => setAll s (dies s) (PART_BANKS.BANKS e) 0 n) s
    if s.part.unitK then s else setAll s (dies s) PART_CASC.CASC_MASK 0 n
  else s

/-- A partition descriptor that VALID may not be set on (R65). -/
def badPartition (s : State) (n : Nat) : Bool :=
  let w := getF s 0 PART_CTL.WIDTH n
  let st := isF s 0 PART_CTL.STORE n
  let ce := isF s 0 PART_CTL.CELLAR n
  decide (3 < w) || (ce && !st) || ((st || ce) && decide (1 < w))

/-- A partition descriptor write takes effect (R65): while VALID is 1 only VALID can change. The offset that an ignored one records
(R104) counts from the start of the partition table (DESIGN CHOICE, log 93). -/
def writePart (s : State) (n off val : Nat) : State :=
  let t := writeCopies s pgPart n off val
  let err := fun (s : State) => descErr s pgAtc ATC_ERR.DESC_WR (n * 32 + off)
  if isF s 0 PART_CTL.VALID n then
    if off != 0 then err s
    else
      let only := setAll s (dies s) PART_CTL.VALID (fld val 31 1) n
      if readWord t 0 pgPart n 0 = readWord only 0 pgPart n 0 then only else err only
  else if isF t 0 PART_CTL.VALID n && badPartition t n then err s
  else t

/-- A cellar region descriptor write takes effect (R245): VALID 1 to 0 takes the region offline; VALID 0 to 1 leaves it
offline until software brings it online (R272). An ignored one records the word written (R279; DEDUCED, log 93). -/
def writeCr (s : State) (n off val : Nat) : State :=
  let err := fun (s : State) => descErr s pgCel CEL_ERR.DESC_WR (val % 2 ^ 32)
  let was := isF s 0 CR_CTL.VALID n
  if was && off != 0 then err s
  else
    let t := writeCopies s pgCr n off val
    let is := isF t 0 CR_CTL.VALID n
    if !was && is && getF t 0 CR_SIZE.NBUCK n == 0 then err s
    else if was && !is then regionOff t n 1 (some 8)
    else if !was && is then
      setCause t n (if getF t 0 CR_CTL.CAUSE n = 5 then 5 else if !isF t 0 CEL_STS.ONLINE then 2
        else if (mget none t.keys (getF t 0 CR_CTL.KSLOT n)).isNone then 4 else 6)
    else t

/-- Apply one table-window write. -/
def applyTarget (s : State) (w : TargetWrite) : State :=
  let s := { s with twrites := rmFirst (fun x => x == w) s.twrites }
  if w.page = pgPart then writePart s w.bank w.off w.value else writeCr s w.bank w.off w.value

/-- Schedule a write to a package window at a BAR0 offset (R497, R513). -/
def schedule (s : State) (acc off val : Nat) : State :=
  let add := fun (pg bank o : Nat) =>
    sendTarget { s with twrites := s.twrites ++ [{ acc := acc, page := pg, bank := bank, off := o, value := val % 2 ^ 32, at_ := s.cyc + 64 }] }
      s.nextId (s.cyc + 64) ((((pg * 65536 + bank) * 4096 + o) * 2 ^ 32 + val % 2 ^ 32) * 2 ^ 181)
  if 0x10000 ≤ off ∧ off < 0x12000 then add pgPart ((off - 0x10000) / 32) ((off - 0x10000) % 32)
  else if 0x20000 ≤ off ∧ off < 0x24000 ∧ s.part.unitC then add pgCr ((off - 0x20000) / 64) ((off - 0x20000) % 64)
  else s

/-- PACKAGE_WINDOW_WRITE: scheduled on every die for a target cycle at least 64 CS cycles ahead. -/
def execPackageWindowWrite (acc off val : Nat) (s : State) : Result := .next (schedule s acc off val)

/-- Apply the oldest due write that names a descriptor. -/
def applyDue (s : State) (ok : TargetWrite → Bool) : State :=
  match s.twrites.find? fun w => decide (w.at_ ≤ s.cyc) && ok w with
  | some w => applyTarget s w
  | none => s

/-- PARTITION_DESC_WRITE: the oldest due write of partition descriptor `n` is applied, or ignored and recorded. -/
def execPartitionDescWrite (n : Nat) (s : State) : Result := .next (applyDue s fun w => w.page == pgPart && w.bank == n)

/-- CR_REGION_WRITE: the oldest due write of cellar region descriptor `n` is applied, or ignored and recorded. -/
def execCrRegionWrite (n : Nat) (s : State) : Result := .next (applyDue s fun w => w.page == pgCr && w.bank == n)

/-- TARGET_CYCLE_APPLY: every due table-window write is applied, oldest first. -/
def execTargetCycleApply (s : State) : Result :=
  .next ((s.twrites.filter fun w => decide (w.at_ ≤ s.cyc)).foldl applyTarget s)

/-- A write to the store-room region window of a die at a byte offset (R244, R513). -/
def writeSr (s : State) (d off val : Nat) : State :=
  let n := off / 32
  let o := off % 32
  let rej := fun (c : Nat) => swrReject s d c (it2 (n * 32) val)
  if !present s d pgStr then s
  else if avail s && d % 2 == 1 then rej 5
  else if isF s d SR_CTL.VALID n && o != 0 then rej 6
  else
    let nb := getF s d SR_SIZE.NBUCK n
    if o = 0 ∧ val.testBit 31 ∧ (nb = 0 ∨ 2 ^ 29 < nb) then rej 8
    else (if avail s then [d, partner d] else [d]).foldl (fun s e => writeWord s e pgSr n o val) s

/-- SR_REGION_WRITE. -/
def execSrRegionWrite (d off val : Nat) (s : State) : Result := .next (if off < 0x2000 then writeSr s d off val else s)

/-! ## The attic row window (R509 to R511) -/

/-- Bytes of a row view, given its flags. -/
def rowView (r : Row) (flags : Nat) : List Nat :=
  bytesBE 20 r.value.toNat ++ bytesBE 20 r.mask.toNat ++ bytesBE 4 r.ctrl.toNat ++ List.replicate 4 0 ++ bytesBE 8 r.ad.toNat ++
  [r.adChk.toNat] ++ List.replicate 7 0 ++ bytesBE 40 r.shadow.toNat ++ bytesBE 5 r.shChk.toNat ++ List.replicate 18 0 ++ [flags]

/-- Rows of the entry that a row belongs to by its WIDTH code. -/
def entryRows (r : Row) : Nat :=
  let w := ctrlWidth r.ctrl
  if w = 2 ∨ w = 3 then 2 else if w = 4 ∨ w = 5 then 4 else 1

/-- A snapshot of an accessor. -/
def snapOf (s : State) (acc d : Nat) (store : Bool) : Option Snap := s.snaps.find? fun x => x.acc == acc && x.die == d && x.store == store

/-- Put a snapshot in place of the accessor's old one. -/
def putSnap (s : State) (x : Snap) : State :=
  { s with snaps := (s.snaps.filter fun y => !(y.acc == x.acc && y.die == x.die && y.store == x.store)) ++ [x] }

/-- Check a row for its view: corrected and uncorrectable errors found. -/
def rowFaults (r : Row) : Bool × Bool :=
  let es := [adCheck r, ctrlCheck r.ctrl] ++ (List.range 5).map (shWord r)
  (es.any Ecc.isCorr, es.any fun e => e.data?.isNone)

/-- Take a snapshot of the entry that holds a row. -/
def takeRowSnap (s : State) (acc d bank sh row : Nat) : State × Snap :=
  let ps := physShelf s d bank sh
  let n := entryRows (mget Row.zero s.rows (pkey d bank ps row))
  let head := pkey d bank ps (row / n * n)
  let rs := (List.range n).map fun i => mget Row.zero s.rows (head + i)
  let gra := mkGra (cascPos s) (if avail s then d / 2 * 2 else d) bank sh (row / n * n)
  let s := rs.zipIdx.foldl (fun s q =>
    let s := if (rowFaults q.1).1 then raiseErr s d pgAtc ATC_ERR.CORR (it1 (gra + q.2)) else s
    if (rowFaults q.1).2 then raiseErr s d pgAtc ATC_ERR.WIN_UNC (it1 (gra + q.2)) else s) s
  let flags := (if ps = 64 then 128 else 0) + (if rs.any fun r => (rowFaults r).1 then 64 else 0) + (if rs.any fun r => (rowFaults r).2 then 32 else 0)
  let x : Snap := { acc := acc, die := d, store := false, base := head, rows := rs, bucket := 0, flags := flags }
  (putSnap s x, x)

/-- The bytes of a snapshot's row at a physical row key, when it covers it. -/
def snapRow (x : Snap) (k : Nat) : Option (List Nat) :=
  if x.base ≤ k then (x.rows[k - x.base]?).map fun r => rowView r x.flags else none

/-- Bytes `o` to `o + n - 1` of a list as an accessor's number (R501). -/
def cutLE (l : List Nat) (o n : Nat) : Nat := ofBytesLE ((l.drop o).take n)

/-- A read of the attic row window at a window offset. A new snapshot takes the port in slots granted to owner 0x12, one for each
row of the entry. -/
def readRows (s : State) (acc d off size : Nat) : Reply :=
  let bank := getF s d ATC_WIN_BASE.BANK
  let v := off / 128
  let sh := 8 * getF s d ATC_WIN_BASE.SGRP + v / 1024
  let k := pkey d bank (physShelf s d bank sh) (v % 1024)
  if gone s d || domFailed s d (domBank bank) then answer s 2 0
  else match (snapOf s acc d false).bind fun x => snapRow x k with
    | some l => answer s 0 (cutLE l (off % 128) size)
    | none =>
      if !domOn s d (domBank bank) then (s, none)
      else match useLock s d 0 0x12 (entryRows (mget Row.zero s.rows k)) with
        | none => (s, none)
        | some s =>
          let (s, x) := takeRowSnap s acc d bank sh (v % 1024)
          answer s 0 (cutLE ((snapRow x k).getD []) (off % 128) size)

/-- ATTIC_WINDOW_READ. -/
def execAtticWindowRead (acc d off size : Nat) (s : State) : Result := .next (giveRead acc (readRows s acc d (off % 2 ^ 20) size))

/-- ATTIC_WINDOW_WRITE: a write through the attic row or shelf window, at an offset of the die region, is ignored and
recorded with that offset (R58, R104; DESIGN CHOICE, log 93). -/
def execAtticWindowWrite (d off : Nat) (s : State) : Result := .next (raiseErr s d pgAtc ATC_ERR.WIN_WR (it1 off))

/-! ## The store-room array window (R512) -/

/-- Line that a window offset shows. -/
def winLine (s : State) (d off : Nat) : Nat := 8192 * getF s d STR_WIN_BASE.BASE + off / 128

/-- A read of the store-room array window. -/
def readStoreWin (s : State) (acc d off size ecc : Nat) : Reply :=
  let line := winLine s d off
  let ones := 2 ^ (8 * size) - 1
  if gone s d || !isF s d STR_STS.READY then answer s 2 0
  else if modBuckets s d ≤ line then answer s 0 ones
  else match (snapOf s acc d true).filter fun x => x.base == line with
    | some x => answer s 0 (if x.flags = 1 then ones else cutLE (bytesBE 128 x.bucket.toNat) (off % 128) size)
    | none =>
      let (s, m) := readMem s d line ecc
      let b := forwardAll s d line m
      let s := if b.bad then unreadable s d line STR_ERR.ECC_UNC else s
      let s := putSnap s { acc := acc, die := d, store := true, base := line, rows := [], bucket := b.data, flags := b2n b.bad }
      answer s 0 (if b.bad then ones else cutLE (bytesBE 128 b.data.toNat) (off % 128) size)

/-- STORE_WINDOW_READ. -/
def execStoreWindowRead (acc d off size ecc : Nat) (s : State) : Result := .next (giveRead acc (readStoreWin s acc d (off % 2 ^ 20) size ecc))

/-- The locked sequence of a window write: drain, write, invalidate; `slots` are those it rewrites, and `crc` says that the write
failed CRC four times (R253). -/
def writeStoreWin (s : State) (d off slots : Nat) (crc : Bool) (f : Bucket → Bucket) : State :=
  let line := winLine s d off
  if gone s d || !isF s d STR_STS.READY || modBuckets s d ≤ line then s
  else
    let s := drainLine s d line
    invAny (memPut (rewritten s d line slots) d line (f (memRead s d line)) crc) d line

/-- STORE_WINDOW_WRITE_128: the whole bucket. -/
def execStoreWindowWrite128 (a : Attempt) (off : Nat) (data : BitVec 1024) (s : State) : Result :=
  .next (if off % 128 = 0 then writeStoreWin s a.key (off % 2 ^ 20) 15 a.crc fun _ => ⟨data, 0⟩ else s)

/-- STORE_WINDOW_WRITE_64: half a bucket. -/
def execStoreWindowWrite64 (a : Attempt) (off : Nat) (data : BitVec 512) (s : State) : Result :=
  .next (if off % 64 = 0 then
    writeStoreWin s a.key (off % 2 ^ 20) (halfSlots (off % 128)) a.crc (putHalf64 (off % 128) data.toNat) else s)

/-- STORE_WINDOW_BAD_WRITE: a write of another size or alignment, with its first word. -/
def execStoreWindowBadWrite (d off len word : Nat) (s : State) : Result :=
  .next (if (len = 128 ∧ off % 128 = 0) ∨ (len = 64 ∧ off % 64 = 0) then s else swrReject s d 4 (it1 (word % 2 ^ 32)))

/-! ## The recipe store and the slices (R501, R508) -/

/-- A read of the recipe store window: an uncorrectable word is restored first. -/
def readRecipe (s : State) (d off size : Nat) : Reply :=
  let a := off / 8 % 16384
  if gone s d then answer s 2 0
  else
    let s := match recipeFetch s d a with
      | .bad => restoreWord (raiseErr s d pgSeq SEQ_ERR.STORE_UNC (it1 a)) d a
      | _ => s
    let (v, s) := match (recipeFetch s d a).data? with
      | some v => (v, s)
      | none => freeVal s
    answer s 0 (if size = 8 then v % 2 ^ 64 else v / 2 ^ (8 * (off % 8 / 4 * 4)) % 2 ^ 32)

/-- RECIPE_WINDOW_READ. -/
def execRecipeWindowRead (acc d off size : Nat) (s : State) : Result := .next (giveRead acc (readRecipe s d (off % 2 ^ 17) size))

/-- A read of the slice window: the slice as it stands. -/
def readSliceWin (s : State) (d off size : Nat) : Reply :=
  if gone s d then answer s 2 0
  else answer s 0 (cutLE (bytesBE 512 (getT s d (off / 512)).slice.toNat) (off % 512) size)

/-- A write of the slice window: accepted for a halted thread while debug is unlocked. -/
def writeSliceWin (s : State) (d off size val : Nat) : State :=
  let t := off / 512
  let th := getT s d t
  if 1 ≤ getF s d DBG_CTL.LEVEL ∧ th.st = .halted then
    setT s d t { th with slice := setBE th.slice (8 * (off % 512)) (8 * size) (ofBytesLE (bytesBE size val)) }
  else raiseErr s d pgDbg DBG_ERR.SLICE_WR it0

/-- SLICE_WINDOW_WRITE. -/
def execSliceWindowWrite (d off size val : Nat) (s : State) : Result :=
  .next (if off < 0x30000 ∧ (size = 4 ∨ size = 8) ∧ off % size = 0 then writeSliceWin s d off size val else s)

end Sys2Proof.Machine
end

