-- ==== Sys2Proof/Machine/BusRead.lean ====
section
/-!
DEFINITION. Reading registers and windows (R355, R497 to R514): where a BAR0 offset lies, the page header, the words that the
device computes when they are read, latching reads, and reads of the windows.
-/

namespace Sys2Proof.Machine

/-! ## The address map (R354, R497, R498, R500) -/

/-- What lies at a BAR0 offset, with the offset within it. -/
inductive Site
  /-- A register page of a die; the package page is page 0 of die 0. -/
  | page (d pg off : Nat)
  /-- The partition table and cellar region windows. -/
  | part (off : Nat)
  | cell (off : Nat)
  /-- The MSI-X table and its pending-bit array. -/
  | msix (off : Nat)
  | pba (off : Nat)
  /-- The array windows of a die. -/
  | shelf (d off : Nat)
  | region (d off : Nat)
  | recipe (d off : Nat)
  | slice (d off : Nat)
  | slotWrite (d off : Nat)
  | rows (d off : Nat)
  | store (d off : Nat)
  | reserved
  deriving DecidableEq, Repr

/-- The site at an offset of a die's region (R498, R500). -/
def dieSite (s : State) (d o : Nat) : Site :=
  if s.part.dieCnt ≤ d then .reserved
  else if o < 0x14000 then .page d (o / 0x1000 + 1) (o % 0x1000)
  else if o < 0x15000 then .page d pgRs (o % 0x1000)
  else if 0x20000 ≤ o ∧ o < 0x22000 then .shelf d (o - 0x20000)
  else if 0x30000 ≤ o ∧ o < 0x32000 then .region d (o - 0x30000)
  else if 0x40000 ≤ o ∧ o < 0x60000 then .recipe d (o - 0x40000)
  else if 0x60000 ≤ o ∧ o < 0x90000 then .slice d (o - 0x60000)
  else if 0xA0000 ≤ o ∧ o < 0xA1000 then .slotWrite d (o - 0xA0000)
  else if 0x100000 ≤ o ∧ o < 0x200000 then .rows d (o - 0x100000)
  else if 0x200000 ≤ o ∧ o < 0x300000 then .store d (o - 0x200000)
  else .reserved

/-- The site at a BAR0 offset (R354, R497). -/
def siteAt (s : State) (bar : Nat) : Site :=
  if bar < 0x1000 then .page 0 pgPkg bar
  else if 0x10000 ≤ bar ∧ bar < 0x12000 then .part (bar - 0x10000)
  else if 0x20000 ≤ bar ∧ bar < 0x24000 then .cell (bar - 0x20000)
  else if 0x700000 ≤ bar ∧ bar < 0x700400 then .msix (bar - 0x700000)
  else if 0x701000 ≤ bar ∧ bar < 0x701008 then .pba (bar - 0x701000)
  else if 0x800000 ≤ bar ∧ bar < 0x4800000 then dieSite s ((bar - 0x800000) / 0x800000) ((bar - 0x800000) % 0x800000)
  else .reserved

/-- BAR0 offset of a page's word. -/
def pageBar (d pg off : Nat) : Nat := if pg = pgPkg then off else 0x800000 * (d + 1) + (pg - 1) * 0x1000 + off

/-- Access sizes that a site takes for reads and for writes of words: naturally aligned (R355, R497, R500). -/
def sizeOk (x : Site) (size : Nat) : Bool :=
  let al := fun (off : Nat) => (size == 4 || size == 8) && off % size == 0
  match x with
  | .page _ _ off => al off
  | .part off | .cell off | .region _ off => size == 4 && off % 4 == 0
  | .msix off | .pba off | .shelf _ off | .recipe _ off | .slice _ off | .rows _ off | .store _ off => al off
  | .slotWrite _ _ | .reserved => true

/-! ## Answering while a domain sleeps (R355, R415, R419, R502) -/

/-- Whether an access to a die can be performed: 0 now, 1 once the domain has woken, 2 never (R355, R425). -/
def gate (s : State) (d : Nat) (c : Option Nat) : Nat :=
  if gone s d then 2
  else match c with
    | none => 0
    | some c => if domOn s d c then 0 else if domFailed s d c then 2 else 1

/-- The die and domain that an access to a site needs; the page header needs none (R502). -/
def siteGate (s : State) (x : Site) : Nat × Nat × Option Nat :=
  let go := fun (d : Nat) (c : Option Nat) => (gate s d c, d, c)
  match x with
  | .page d pg off => if off < 0x80 || !present s d pg then (0, d, none) else go d (pageDom s d pg)
  | .part _ | .cell _ => go 0 (some 0)
  | .msix _ | .pba _ => go 0 (some 5)
  | .shelf d off => go d (some (domBank (off / 512)))
  | .region d _ => if s.part.unitS then go d (some 0) else (0, d, none)
  | .recipe d _ | .slice d _ => go d (some 0)
  | .rows d _ => go d (some (domBank (getF s d ATC_WIN_BASE.BANK)))
  | .store d _ => if s.part.unitS then go d (some 1) else (0, d, none)
  | .slotWrite d _ => if s.part.unitS then go d (some 1) else (0, d, none)
  | .reserved => (0, 0, none)

/-- Raise the wake event of an access that waits. -/
def wakeFor (s : State) (d : Nat) (c : Option Nat) : State :=
  match c with
  | some c => wakeEvent s d c
  | none => s

/-! ## The page header (R442, R502, R433) -/

/-- Bits of ERR_MASK that can be set: not those of class F or S (R442). -/
def maskable (s : State) (d pg : Nat) : Nat :=
  maskOf ((List.range 32).filter fun i => decide (16 ≤ i) || decide (errClass s d pg i < 2))

/-- A power register of a domain, by its offset in the power page (0x84 to 0x90). -/
def readDomain (s : State) (d c off : Nat) : Nat :=
  if !domExists s d c then 0
  else
    let x := (getDom s d c).phase
    if off = 0x84 then votes s d c
    else if off = 0x88 then
      getF s d PWR_STATE.RETRY c * 2 ^ 31 + domState x * 2 ^ 28 + domStep x * 2 ^ 24 + getF s d PWR_STATE.LOW c * 2 ^ 16 + getF s d PWR_STATE.HYST c
    else if off = 0x8C then
      getF s d PWR_REFUSE.LAST c * 2 ^ 24 + getF s d PWR_REFUSE.FAILS c * 2 ^ 16 + getF s d PWR_REFUSE.ABORTS c * 2 ^ 8 + getF s d PWR_REFUSE.REFUSALS c
    else
      getF s d PWR_ASSIST.FUSED c * 2 ^ 31 + getF s d PWR_ASSIST.FBB c * 2 ^ 24 + getF s d PWR_ASSIST.RBB c * 2 ^ 20 +
        getF s d PWR_ASSIST.VRET c * 2 ^ 14 + getF s d PWR_ASSIST.WLUD c * 2 ^ 10

/-- PAGE_STS: READY, FENCED (fenced, lost or held in reset) and DOMAIN_ON (R502). -/
def pageSts (s : State) (d pg : Nat) : Nat :=
  let on := match pageDom s d pg with
    | some c => domOn s d c
    | none => true
  b2n (on && !gone s d && !s.inReset) + b2n (fenced s d) * 2 + b2n on * 4

/-- The package page's PAGE_CAP (R5). -/
def pageCap (s : State) : Nat :=
  1 + b2n s.part.unitS * 2 + b2n s.part.unitC * 4 + b2n s.part.unitT * 8 + b2n s.part.unitK * 16 + s.part.dieCnt * 256 +
    getF s 0 PAGE_CAP.PROFILE * 2 ^ 12

/-- A header register of a page that is present. -/
def readHeader (s : State) (d pg off : Nat) : Nat :=
  match off with
  | 0x00 => pageType pg * 2 ^ 16 + (if pg = pgPkg then cascPos s else d)
  | 0x04 => 0x10100
  | 0x08 => if pg = pgPkg then pageCap s else 1
  | 0x0C => getF s d (PAGE_CTL.LOCK pg) * 2 ^ 31 + getF s d (PAGE_CTL.INJ_BIT pg)
  | 0x10 => pageSts s d pg
  | 0x14 => getF s d (ERR_STICKY.BITS pg)
  | 0x18 => getF s d (ERR_MASK.MASK pg) &&& maskable s d pg
  | 0x1C => sumL ((List.range 8).map fun i => getF s d (ERR_SEV.SEV pg i) * 4 ^ i)
  | 0x20 => getF s d (ERR_FIRST0.VALID pg) * 2 ^ 31 + getF s d (ERR_FIRST0.CLASS pg) * 2 ^ 29 + getF s d (ERR_FIRST0.BIT pg) * 2 ^ 24 +
      getF s d (ERR_FIRST0.ID pg) * 2 ^ 16
  | 0x24 => getF s d (ERR_FIRST1.STAMP pg)
  | 0x28 => getF s d (ERR_FIRST2.DATA pg)
  | 0x2C => getF s d (ERR_FIRST3.DATA pg)
  | 0x30 => getF s d (ERR_SECOND.VALID pg) * 2 ^ 31 + getF s d (ERR_SECOND.CLASS pg) * 2 ^ 29 + getF s d (ERR_SECOND.BIT pg) * 2 ^ 24 +
      getF s d (ERR_SECOND.ESC pg) * 2 ^ 23 + getF s d (ERR_SECOND.STAMP pg)
  | 0x34 => getF s d (ERR_NEXT_CNT.COUNT pg)
  | 0x38 | 0x3C | 0x40 | 0x44 =>
    match pageDom s d pg with
    | some c => readDomain s d c (off + 0x4C)
    | none => 0
  | _ => 0

/-! ## Banks and computed words -/

/-- The copy that a page's selector shows at an offset. -/
def bankAt (s : State) (d pg off : Nat) : Nat :=
  if pg = pgArb then (if off = 0x80 then 0 else getF s d ARB_SEL.INST)
  else if pg = pgHif then
    (if off = 0x88 ∨ off = 0x8C ∨ (0x90 ≤ off ∧ off ≤ 0xA0) then getF s 0 HIF_Q_SEL.SEL
     else if 0xA8 ≤ off ∧ off ≤ 0xB8 then getF s 0 HIF_EQ_SEL.SEL
     else if off = 0xC0 ∨ off = 0xC4 ∨ off = 0xD4 then getF s 0 HIF_PW_SEL.WIN
     else 0)
  else 0

/-- The die that holds a register: the channel registers are held once (R309). -/
def holder (d pg off : Nat) : Nat := if pg = pgLkp ∧ 0x100 ≤ off ∧ off < 0x400 then 0 else d

/-- Registers that act only on the lead die: elsewhere they read 0 and ignore writes (R278, R348, R434, R469). -/
def leadOnly (s : State) (d pg off : Nat) : Bool :=
  d != 0 &&
  ((pg == pgCel && off != 0x20C && off != 0x210) || (pg == pgPwr && decide (0xB0 ≤ off ∧ off ≤ 0xBC)) ||
   (pg == pgFlt && off != 0x80 && off != 0x88) || (pg == pgArb && off != 0x80 && getF s d ARB_SEL.INST == 3))

/-- A word with one field replaced. -/
def put (w : Nat) (f : Fld) (v : Nat) : Nat := setFld w f.lo f.width v

/-- A die's page holds a valid first record. -/
def firstValid (s : State) (d pg : Nat) : Bool := present s d pg && isF s d (ERR_FIRST0.VALID pg)

/-- FLT_SUM of a die: pages with a valid record; the ring stop's under bit 10 (R499); the package page on the lead die. -/
def fltSum (s : State) (d : Nat) : Nat :=
  maskOf ((List.range 21).filter fun i => firstValid s d i || (i == 10 && firstValid s d pgRs))

/-- A record of class `k` is valid on a die. -/
def holdsClass (s : State) (d k : Nat) : Bool :=
  (List.range 22).any fun pg => present s d pg &&
    ((isF s d (ERR_FIRST0.VALID pg) && getF s d (ERR_FIRST0.CLASS pg) == k) ||
     (isF s d (ERR_SECOND.VALID pg) && getF s d (ERR_SECOND.CLASS pg) == k))

/-- Some record reported to the host is valid. -/
def hostRecordValid (s : State) : Bool :=
  s.escal.any fun e => decide (e.2 < 128) &&
    (if e.2 < 64 then isF s e.1 (ERR_FIRST0.VALID e.2) else isF s e.1 (ERR_SECOND.VALID (e.2 - 64)))

/-- FAULT_N is driven low: a record reported to the host is valid on some die (R446, log 70). -/
def faultPin (s : State) : Bool :=
  isF s 0 FLT_ROUTE.PIN_EN && !gone s 0 && hostRecordValid s

/-- SHELF_FILL of a shelf (R59). -/
def shelfFill (s : State) (d sh : Nat) : Nat :=
  let w := getF s d PART_CTL.WIDTH (getF s d SHELF_DESC.OWNER sh)
  if !isF s d SHELF_DESC.OWNED sh || 3 < w then 0
  else
    let g := sh * 1024
    freeCount s d g w * 2 ^ 16 + (usedSlots s d g w).length

/-- Thread states by their codes (R216). -/
def stateCode : TState → Nat
  | .free => 0 | .ready => 1 | .run => 2 | .waitSearch => 3 | .waitMem => 4 | .waitJoin => 5 | .waitEvent => 6 | .halted => 7 | .faulted => 8

/-- Interface state as LKP_IF_STS shows it: an enabled interface that may train is aligning (R305, R481). -/
def shownIf (s : State) (d j : Nat) : Nat :=
  let st := getF s d (LKP_IF_STS.STATE j)
  if st = 0 && (getF s d LKP_IF_CFG.EN).testBit j && loaded s && isF s 0 PKG_BOOT.SVC && !isF s d BSQ_STS.BUSY && !gone s d then 1 else st

/-- Time as the TIM_NOW registers show it. -/
def nowSec (s : State) : Nat := counterAt s s.cyc / secUnits

/-- Background slots of the attic table that may be blanked. -/
def backSlots (s : State) (d : Nat) : Nat := catRoom s d 1 + catRoom s d 2 + catRoom s d 3 + catRoom s d 4

/-- A block register of a page without its latch. -/
def liveReg (s : State) (d pg off : Nat) : Nat :=
  let w := readWord s (holder d pg off) pg (bankAt s d pg off) off
  let cmds := s.cmds.filter fun c => c.die == d && c.acc.isSome && !c.returning && c.origin != .scrub
  let running := fun (op : Nat) => b2n (cmds.any fun c => ceOp c.entry == op)
  if leadOnly s d pg off then 0
  else if pg = pgPkg then
    (match off with
     | 0x80 => put (put (put w PKG_BOOT.SMB_ADDR s.part.smbAddr) PKG_BOOT.BOOT_SRC s.part.bootSrc) PKG_BOOT.CASC_POS (s.part.casc % 4)
     | 0x90 => s.part.dsn % 2 ^ 32
     | 0x94 => s.part.dsn / 2 ^ 32 % 2 ^ 32
     | _ => w)
  else if pg = pgAtc then
    (match off with
     | 0x80 =>
       let l := getF s d ATC_THROTTLE.T_LEVEL
       let b := if isF s d ATC_THROTTLE.FENCED then 48 else min 48 (blankedIn s d s.cyc).length
       put (put (put w ATC_THROTTLE.BLANKED b) ATC_THROTTLE.SHORT (b2n (l != 0 && decide (l < 3 ∧ backSlots s d < 16 * l))))
         ATC_THROTTLE.GOV (b2n (decide (16 * min 3 l < getF s d PWR_BLANK.GOV)))
     | 0x84 =>
       put (put w ATC_GSLOT.G_RES (gReserved s d).length) ATC_GSLOT.G_KEPT (gKept s d)
     | 0x90 => put w ATC_SUSQ.DEPTH (mget [] s.susq d).length
     | _ => w)
  else if pg = pgUpd then
    (if off = 0x84 then
      put (put (put (put (put w UPD_STS.BUSY (b2n (cmds != []))) UPD_STS.BULK (running 0xA)) UPD_STS.SPARE (running 0xB)) UPD_STS.COMPACT (running 9))
        UPD_STS.INFLIGHT (sumL (cmds.map fun c => 1 + c.conts.length))
     else w)
  else if pg = pgThr then
    (if off = 0x84 then put (put w THR_POOL.FREE (freeThreads s d)) THR_POOL.OUTST (outReserve s d)
     else if off = 0x9C then put w THR_FLTQ_STS.DEPTH (mget [] s.fltq d).length
     else if 0x140 ≤ off ∧ off < 0x180 then
       put (put w (THR_GRP_USE.USED ((off - 0x140) / 4)) (groupUsed s d ((off - 0x140) / 4))) (THR_GRP_USE.CHILD ((off - 0x140) / 4))
         (groupKids s d ((off - 0x140) / 4))
     else if 0x200 ≤ off ∧ off < 0x280 then
       let c := (off - 0x200) / 4
       let e := mget EvChan.zero s.evch (d * 32 + c)
       put (put (put (put w (THR_EVT.HELD c) (b2n e.holder.isSome)) (THR_EVT.HOLDER c) (e.holder.getD 0)) (THR_EVT.DEPTH c) e.queue.length)
         (THR_EVT.WAITERS c) e.waiters.length
     else w)
  else if pg = pgCel then (if off = 0x84 then put w CEL_STS.OUTST (fetchUsed s) else w)
  else if pg = pgCch then
    (match off with
     | 0x94 => put w CCH_FILL.INUSE (s.fills.filter fun f => f.die == d).length
     | 0x98 => put w CCH_MBUF.DEPTH (s.mbuf.filter fun e => e.die == d).length
     | _ => w)
  else if pg = pgLkp then
    (if off = 0x84 then (List.range 3).foldl (fun w j => put w (LKP_IF_STS.STATE j) (shownIf s d j)) w
     else if off = 0xA4 then
       put (put w LKP_BUF.FREE (bufFree s d)) LKP_BUF.LENT (bufLent s d)
     else if 0x300 ≤ off ∧ off < 0x400 then
       let c := (off - 0x300) / 4
       put (put (put w (LKP_CH_USE.XOFF_TX c) (b2n (xoffTx s c))) (LKP_CH_USE.USED c) (bufUsed s c)) (LKP_CH_USE.HOME c) (homeOf s c)
     else w)
  else if pg = pgCsc then (if off = 0x84 then put w CSC_STS.POS (s.part.casc % 4) else w)
  else if pg = pgArb then
    let i := getF s d ARB_SEL.INST
    (if off = 0x88 then put w ARB_STS.POS (posAt s i s.cyc)
     else if off = 0x8C then put w ARB_LOCK.CAP (lockCap i)
     else if 0xC0 ≤ off ∧ off < 0xD0 then
       (List.range 8).foldl (fun w j => put w (ARB_LEVEL.BASE (8 * ((off - 0xC0) / 4) + j)) (baseOf s d i (8 * ((off - 0xC0) / 4) + j))) w
     else w)
  else if pg = pgHif then
    (if off = 0xCC then
      put (put w HIF_PW_STS.DEPTH (mget [] s.peerQ (getF s 0 HIF_PW_SEL.WIN)).length) HIF_PW_STS.ACTIVE
        (maskOf ((List.range 8).filter fun k => (mget none s.peers k).any fun x => x.type != 0))
     else w)
  else if pg = pgTim then
    (match off with
     | 0x84 => put w TIM_STS.UNSYNC (b2n (leadUnsync s))
     | 0x90 => nowSec s % 2 ^ 32
     | 0x94 => nowSec s / 2 ^ 32 % 2 ^ 16
     | 0x98 => counterAt s s.cyc % secUnits / 2 ^ 32
     | 0x9C => counterAt s s.cyc % 2 ^ 32 / 2 ^ 16
     | _ => w)
  else if pg = pgEvd then (if off = 0x80 then put w EVD_CTL.TGT (b2n (evHost s)) else w)
  else if pg = pgPwr then
    (if 0x84 ≤ off ∧ off ≤ 0x90 then readDomain s d (getF s d PWR_DSEL.DOM) off
     else if off = 0x94 then
       maskOf ((List.range 16).filter fun b => domOn s d (domBank b)) + 2 ^ 16 * maskOf ((List.range 16).filter fun k => domExists s d (domWay k) && domOn s d (domWay k))
     else if off = 0x98 then maskOf ((List.range 6).filter fun c => domExists s d c && domOn s d c)
     else w)
  else if pg = pgClk then
    (match off with
     | 0x80 => if d = 0 then w else put w CLK_CTL.REF_SEL 0
     | 0x88 => s.cyc % 2 ^ 32
     | 0x8C => s.cyc / 2 ^ 32 % 2 ^ 16
     | _ => w)
  else if pg = pgFlt then
    (match off with
     | 0x80 => fltSum s d
     | 0x8C => maskOf ((dies s).filter fun d => fltSum s d != 0) +
         2 ^ 8 * maskOf ((dies s).filter fun d => holdsClass s d 2 || gone s d) + 2 ^ 16 * maskOf ((dies s).filter fun d => holdsClass s d 3)
     | _ => w)
  else if pg = pgSec then
    (if off = 0x8C then put (put w SEC_IMG.REVOKED s.fuseRevoked) SEC_IMG.SVN_MIN s.fuseSvn else w)
  else if pg = pgDbg then
    (if off = 0x8C then
      let t := getT s d (getF s d DBG_THREAD.THREAD)
      stateCode (if t.st == .ready && decide (s.cyc < t.readyAt) then .run else t.st) * 2 ^ 28 + t.pc % 2 ^ 14 * 2 ^ 14 + t.crec % 8 * 2 ^ 11 + b2n t.spec * 2 ^ 10 + b2n t.sent * 2 ^ 9 + b2n t.deferred * 2 ^ 8 + t.chan % 64
     else w)
  else w

/-! ## Latches (R514) -/

/-- The registers that reading a LO register latches. -/
def latchedBy (pg off : Nat) : List Nat :=
  if pg = pgAtc ∧ off = 0x94 then [0x98]
  else if pg = pgSeq ∧ off = 0x8C then [0x90]
  else if pg = pgTim ∧ off = 0x90 then [0x94, 0x98, 0x9C]
  else if pg = pgEvd ∧ off = 0xA8 then [0xAC]
  else if pg = pgClk ∧ off = 0x88 then [0x8C]
  else []

/-- The register shows a latch. -/
def isLatch (pg off : Nat) : Bool :=
  (pg == pgAtc && off == 0x98) || (pg == pgSeq && off == 0x90) || (pg == pgTim && (off == 0x94 || off == 0x98 || off == 0x9C)) ||
  (pg == pgEvd && off == 0xAC) || (pg == pgClk && off == 0x8C)

/-- Key of an accessor's latch. -/
def latchKey (acc d pg off : Nat) : Nat := ((acc * 8 + d) * 64 + pg) * 4096 + off

/-- Read a word of a page: a LO register latches, and a latched register shows the accessor's latch. -/
def readReg (s : State) (acc d pg off : Nat) : State × Nat :=
  if !present s d pg then (s, 0)
  else if off < 0x80 then (s, readHeader s d pg off)
  else if isLatch pg off then (s, mget 0 s.latches (latchKey acc d pg off))
  else
    ({ s with latches := (latchedBy pg off).foldl (fun m o => mset 0 m (latchKey acc d pg o) (liveReg s d pg o)) s.latches }, liveReg s d pg off)

/-! ## Reading a site -/

/-- A word of the MSI-X table: three words and the vector control. -/
def readMsix (s : State) (off : Nat) : Nat :=
  if off % 16 = 12 then b2n (mget true s.msixMask (off / 16)) else mget 0 s.msixTab (off / 16 * 4 + off % 16 / 4)

/-- Two words as one access, the lower address first (R355). -/
def wide (size lo hi : Nat) : Nat := if size = 8 then lo % 2 ^ 32 + hi * 2 ^ 32 else lo

/-- Perform a read of a site that is open. -/
def readOpen (s : State) (acc : Nat) (x : Site) (size : Nat) : Reply :=
  match x with
  | .page d pg off =>
    let (s, v) := readReg s acc d pg off
    if size = 8 then
      let (s, u) := readReg s acc d pg (off + 4)
      answer s 0 (wide 8 v u)
    else answer s 0 v
  | .part off => if s.twrites.any fun w => w.acc == acc then (s, none) else answer s 0 (readWord s 0 pgPart (off / 32) (off % 32))
  | .cell off =>
    if s.twrites.any fun w => w.acc == acc then (s, none)
    else answer s 0 (if s.part.unitC then readWord s 0 pgCr (off / 64) (off % 64) else 0)
  | .msix off => answer s 0 (wide size (readMsix s off) (readMsix s (off + 4)))
  | .pba off =>
    let bits := fun (k : Nat) => maskOf ((List.range 32).filter fun v => mget false s.msixPend (32 * k + v))
    answer s 0 (wide size (bits (off / 4)) (bits 1))
  | .shelf d off =>
    let word := fun (o : Nat) => if o % 8 = 0 then readWord s d pgShelf (o / 8) 0 else shelfFill s d (o / 8)
    answer s 0 (wide size (word off) (word (off + 4)))
  | .region d off => answer s 0 (if s.part.unitS then readWord s d pgSr (off / 32) (off % 32) else 0)
  | .recipe d off => readRecipe s d off size
  | .slice d off => readSliceWin s d off size
  | .rows d off => readRows s acc d off size
  | .store d off => if s.part.unitS then readStoreWin s acc d off size 0 else answer s 0 0
  | .slotWrite _ _ | .reserved => answer s 0 0

/-- An access of a wrong size or alignment: Unsupported Request, recorded (R355). -/
def badAccess (s : State) (bar : Nat) : State := raiseErr s 0 pgHif HIF_ERR.REG_ACC (it1 bar)

/-- Read `size` bytes at a site; `bar` is the offset for the error record. While the device is in reset nothing answers. -/
def readSite (s : State) (acc : Nat) (x : Site) (bar size : Nat) : Reply :=
  if s.inReset then (s, none)
  else if !sizeOk x size then answer (badAccess s bar) 1 0
  else
    let (k, d, c) := siteGate s x
    if k = 2 then answer s 2 0
    else if k = 1 then (wakeFor s d c, none)
    else readOpen s acc x size

/-- Read at a BAR0 offset. -/
def busRead (s : State) (acc bar size : Nat) : Reply := readSite s acc (siteAt s bar) bar size

/-- LATCHING_LO_READ: an accessor reads the LO register of a pair, which latches the registers above it. -/
def execLatchingLoRead (acc d pg off : Nat) (s : State) : Result :=
  .next (if latchedBy pg off != [] then giveRead acc (readSite s acc (.page d pg off) (pageBar d pg off) 4) else s)

end Sys2Proof.Machine
end

