-- ==== Sys2Proof/Machine/Cascade.lean ====
section
/-!
DEFINITION. The cascade links (R114 to R126): frames, control beats, lane drops and returns, retrains and training.
Ports are 0 (U, toward the head) and 1 (D).
-/

namespace Sys2Proof.Machine

/-! ## Ports -/

/-- Fields of a port. -/
def pUp (port : Nat) : Fld := if port = 0 then CSC_STS.U_UP else CSC_STS.D_UP
def pLanes (port : Nat) : Fld := if port = 0 then CSC_STS.U_LANES else CSC_STS.D_LANES
def pState (port : Nat) : Fld := if port = 0 then CSC_STS.U_STATE else CSC_STS.D_STATE
def pEn (port : Nat) : Fld := if port = 0 then CSC_CTL.U_EN else CSC_CTL.D_EN

/-- The port exists and is enabled (R114): the head has no U port. -/
def portOn (s : State) (port : Nat) : Bool :=
  s.part.unitK && decide (port < 2) && !(port == 0 && cascPos s == 0) && isF s 0 (pEn port)

/-- Write a link value. -/
def setLk (s : State) (k v : Nat) : State := { s with link := mset 0 s.link k v }

/-- The port carries frames now: it is up and not in a retrain. -/
def portOpen (s : State) (port : Nat) : Bool := portOn s port && isF s 0 (pUp port) && getF s 0 (pState port) != 7

/-- GMIN (R101): the fewest category 5 slots left this round on any die of this package or of any package below it. -/
def gminOf (s : State) : Nat :=
  let own := ((dies s).map fun d => gKept s d).foldl min 63
  match mget 0 s.link lkGmin with
  | 0 => own
  | n + 1 => if isF s 0 CSC_STS.D_UP then min own n else own

/-- A control beat (R119): the credit freed since the last one, GMIN, MARK where a round starts with it, the lanes, the
lane state and the position. -/
def controlBeat (s : State) (port lmap lstate : Nat) : Nat :=
  ((((((0xF * 4096 + mget 0 s.link (lkFreed port) % 4096) * 64 + gminOf s) * 2 + b2n (posAt s 0 s.cyc == 0)) * 16 + lmap % 16) * 8 + lstate % 8) * 4 +
    cascPos s) * 2 ^ 224

/-- Send a control beat: the credit it carries is given. -/
def sendControl (s : State) (port lmap lstate : Nat) : State :=
  setLk (emitOut s (.frame port [controlBeat s port lmap lstate])) (lkFreed port) 0

/-- Best-effort beats were taken from a port's receiver: their credit goes back with a control beat (R120). -/
def freeBeats (s : State) (port n : Nat) : State := setLk s (lkFreed port) (mget 0 s.link (lkFreed port) + n)

/-- A contribution from the package below that says only that it is lost, or that the link has failed. -/
def belowLost : Contrib := { Contrib.none with lost := true }
def belowFail : Contrib := { Contrib.none with dfail := true }

/-- Give a search what stands for the contribution from below. -/
def setBelow (s : State) (sid : Nat) (c : Contrib) : State := modSearch s sid fun x => { x with below := some c }

/-- Frames waiting on the package below end in LOST (R124). -/
def loseBelow (s : State) (sid : Nat) : State := setBelow s sid belowLost

/-- The searches that wait for the package below, of those that satisfy a test, get a contribution instead. -/
def giveBelow (s : State) (p : Search → Bool) (c : Contrib) : State :=
  (s.searches.filter fun x => x.launched.isSome && needsBelow s x && x.below.isNone && p x).foldl (fun s x => setBelow s x.sid c) s

/-- Start a full retrain of a port (R125): recorded, the port's pending changes are dropped, and fixed-latency searches that
wait for the package below end in RETRY. -/
def startRetrain (s : State) (port : Nat) : State :=
  let s := setLk (setLk (setF s 0 (pState port) 7) (lkPend port) 0) (lkWait port) 0
  let s := if port = 1 then giveBelow s (fun x => x.fl) belowLost else s
  raiseErr s 0 pgCsc CSC_ERR.RETRAIN it0

/-- A port goes down: it carries no lanes, and below a D port there is no package; searches that reach beyond it end in
DOMAIN_FAIL (R125). -/
def portDown (s : State) (port : Nat) : State :=
  let s := setF (setF (setF s 0 (pState port) 0) 0 (pUp port) 0) 0 (pLanes port) 0
  if port = 1 then giveBelow { setF s 0 CSC_STS.DEPTH 0 with relay := [] } (fun _ => true) belowFail else s

/-! ## Frames (R116 to R118) -/

/-- Fields of a SEARCH frame's first beat. -/
def frSid (b : Nat) : Nat := fld b 240 12
def frPart (b : Nat) : Nat := fld b 232 8
def frCmask (b : Nat) : Nat := fld b 228 4
def frMode (b : Nat) : Nat := fld b 226 2
def frWidth (b : Nat) : Nat := fld b 224 2
def frGen (b : Nat) : Nat := fld b 223 1
def frFl (b : Nat) : Bool := b.testBit 222
def frSlot (b : Nat) : Nat := fld b 216 6

/-- The key of a SEARCH frame, left-aligned. -/
def frKey (beats : List Nat) : Key :=
  let b := beats.headD 0
  let seg0 := if frWidth b = 0 then fld b 112 80 * 2 ^ 80 else fld b 32 160
  let rest := ((List.range 4).drop 1).map fun i => fld (beats.getD i 0) 96 160
  BitVec.ofNat 640 ((rest.foldl (fun a v => a * 2 ^ 160 + v) seg0))

/-- Contributions to searches that come from above, for which no die launches, are merged and sent up at once. -/
def inboundSearch (s : State) (beats : List Nat) : Search :=
  let b := beats.headD 0
  let p := frPart b
  { sid := s.nextId, home := 0, thread := 512, rno := 0, mode := frMode b, part := p, width := frWidth b, gen := frGen b,
    key := frKey beats, fl := frFl b, dieSet := dieSetOf s 0 p, cmask := max 1 (frCmask b), depth := 3, store := false, cellar := false,
    ao := true, step := none, ra := false, par := none, spec := false, launched := none, booked := false, samples := [],
    contribs := [], below := none, lost := false, forced := none, inbound := some (frSid b), srRgn := 0, clRgn := 0 }

/-- The next CS cycle whose slot has the position and is not yet settled on the dies. -/
def nextSlot (s : State) (pos : Nat) (ds : List Nat) : Nat :=
  let c := s.cyc + (pos + 64 - posAt s 0 s.cyc) % 64
  if c = s.cyc ∧ ds.any fun d => mget 0 s.settled (4 * d) == s.cyc + 1 then c + 64 else c

/-- A first beat of unknown type is discarded and counted (R116). -/
def badBeat (s : State) (port : Nat) : State :=
  raiseErr (setLk s (lkBad port) (mget 0 s.link (lkBad port) + 1)) 0 pgCsc CSC_ERR.BAD_TYPE it0

/-- Beats of a frame, by its first beat (R116). -/
def frameLen (b : Nat) : Nat :=
  if fld b 252 4 = 1 then (if frWidth b = 2 then 2 else if frWidth b = 3 then 4 else 1) else if fld b 93 1 = 1 then 2 else 1

/-- Take a frame of a type from the beats a port receives: first beats of another type are discarded one by one. -/
def takeFrame (s : State) (port ty : Nat) : List Nat → State × Option (List Nat)
  | [] => (s, none)
  | b :: rest => if fld b 252 4 = ty then (s, some ((b :: rest).take (frameLen b))) else takeFrame (badBeat s port) port ty rest

/-- A frame is whole and passes its CRC. -/
def frameGood (beats : List Nat) : Bool := beats.length == frameLen (beats.headD 0) && !frameBad beats

/-- Pass a SEARCH frame on to the D port (R117): a best-effort one spends credit per beat and waits for it, as it waits for a
retrain to end (R120). -/
def passOn (s : State) (beats : List Nat) : State :=
  if frFl (beats.headD 0) then (if portOpen s 1 then emitOut s (.frame 1 beats) else s)
  else if portOpen s 1 && s.relay == [] && decide (beats.length ≤ mget 0 s.link (lkCredit 1)) then
    emitOut (setLk s (lkCredit 1) (mget 0 s.link (lkCredit 1) - beats.length)) (.frame 1 beats)
  else if isF s 0 CSC_STS.D_UP then { s with relay := s.relay ++ [beats] } else s

/-- Send the frames that wait, oldest first, as far as the credit goes. -/
def flushRelay : Nat → State → State
  | 0, s => s
  | n + 1, s => match s.relay with
    | [] => s
    | b :: rest =>
      if portOpen s 1 && decide (b.length ≤ mget 0 s.link (lkCredit 1)) then
        flushRelay n (emitOut { setLk s (lkCredit 1) (mget 0 s.link (lkCredit 1) - b.length) with relay := rest } (.frame 1 b))
      else s

/-- A search from above that reaches beyond a D port that is down, or for a fixed-latency one in a retrain, has its
contribution from below settled (R125). -/
def beyond (s : State) (x : Search) : Search :=
  if !needsBelow s x then x
  else if !isF s 0 CSC_STS.D_UP then { x with below := some belowFail }
  else if x.fl && getF s 0 CSC_STS.D_STATE == 7 then { x with below := some belowLost }
  else x

/-- Search here for a frame from above (R117, R121): a fixed-latency search waits in its slot, which must be reserved to
cascade inbound; otherwise, and during an engine reset (R447), it contributes LOST. -/
def searchFromAbove (s : State) (beats : List Nat) : State :=
  let x := beyond s (inboundSearch s beats)
  let k := cascPos s
  let s := { s with nextId := s.nextId + 1 }
  if depthOf x.cmask < k then s
  else if !x.cmask.testBit k then { s with searches := s.searches ++ [{ x with launched := some s.cyc, dieSet := 0 }] }
  else if x.fl then
    let ds := diesOf s x.dieSet
    let pos := frSlot (beats.headD 0)
    if !isF s 0 FLT_ERST.GO && ds.all (fun d => slotOf s d 0 pos == 0x14) then
      let c := nextSlot s pos ds
      let s := { s with books := s.books ++ ds.map fun d => (⟨d, c, 0x13, 0, 512 + x.sid, 0⟩ : Book) }
      { s with searches := s.searches ++ [x] }
    else
      { s with searches := s.searches ++ [{ x with launched := some s.cyc, dieSet := 0, contribs := [(0, belowLost)] }] }
  else { s with searches := s.searches ++ [x] }

/-- CASCADE_SEARCH_FRAME (R117, R121): the frame is passed on as it arrives, and searched here when the position is in CMASK. -/
def execCascadeSearchFrame (first : Nat) (rest : List Nat) (s : State) : Result :=
  .next (
    if !portOpen s 0 then s
    else match takeFrame s 0 1 (first :: rest) with
      | (s, none) => s
      | (s, some fr) =>
        let s := passOn s fr
        let s := if frFl (fr.headD 0) then s else freeBeats s 0 fr.length
        if frameGood fr then searchFromAbove s fr else raiseErr (bumpSat s 0 CSC_CRC_CNT.U_CRC) 0 pgCsc CSC_ERR.CRC it0)

/-- The search a CONTRIB frame belongs to. -/
def contribFor (x : Search) (sid : Nat) : Bool :=
  x.launched.isSome && x.below.isNone && (match x.inbound with
    | some i => i == sid
    | none => x.sid % 4096 == sid)

/-- CASCADE_CONTRIB_FRAME (R118, R124): a frame that fails its CRC counts and merges as LOST. -/
def execCascadeContribFrame (first : Nat) (rest : List Nat) (s : State) : Result :=
  .next (
    if !portOpen s 1 then s
    else match takeFrame s 1 2 (first :: rest) with
      | (s, none) => s
      | (s, some fr) =>
        let s := if frameGood fr then s else raiseErr (bumpSat s 0 CSC_CRC_CNT.D_CRC) 0 pgCsc CSC_ERR.CRC it0
        match s.searches.find? fun x => contribFor x (fld (fr.headD 0) 240 12) && needsBelow s x with
        | none => s
        | some x =>
          let s := if x.fl then s else freeBeats s 1 fr.length
          setBelow s x.sid (if frameGood fr then contribOfFrame fr else belowLost))

/-- CASCADE_BAD_TYPE_BEAT (R116): discarded and counted. -/
def execCascadeBadTypeBeat (port : Nat) (s : State) : Result :=
  .next (if portOn s port && isF s 0 (pUp port) then badBeat s port else s)

/-- CONTRIB_TIMEOUT (R124): a fixed-latency search misses its CONTRIB. -/
def execContribTimeout (sid : Nat) (s : State) : Result :=
  .next (
    match s.searches.find? fun x => x.sid == sid && x.launched.isSome && x.fl && x.below.isNone && needsBelow s x with
    | some _ => loseBelow s sid
    | none => s)

/-! ## Control beats and lanes (R119, R125, R126) -/

/-- Switch to the pending lane map at a MARK. -/
def switchLanes (s : State) (port : Nat) : State :=
  match mget 0 s.link (lkPend port) with
  | 0 => s
  | n + 1 =>
    if mget 0 s.link (lkWait port) = 1 then s
    else
      let old := getF s 0 (pLanes port)
      let s := setLk (setF (setF s 0 (pLanes port) n) 0 (pState port) 5) (lkPend port) 0
      let s := if popcount n 4 < popcount old 4 then
          raiseErr (bumpSat s 0 (if port = 0 then CSC_DROP_CNT.U_DROPS else CSC_DROP_CNT.D_DROPS)) 0 pgCsc CSC_ERR.LANE_DROP it0
        else s
      let full := fun (p : Nat) => !isF s 0 (pUp p) || getF s 0 (pLanes p) == 15
      if full 0 && full 1 then setF s 0 CSC_CTL.RETURN 0 else s

/-- A lane map takes effect at the next MARK; `wait` holds it until the other end confirms. -/
def pendLanes (s : State) (port lmap : Nat) (wait : Bool) : State :=
  setLk (setLk s (lkPend port) (lmap % 16 + 1)) (lkWait port) (b2n wait)

/-- The lane map a change starts from: the one that waits for its MARK, else the one in use. -/
def lanesNext (s : State) (port : Nat) : Nat :=
  match mget 0 s.link (lkPend port) with
  | 0 => getF s 0 (pLanes port)
  | n + 1 => n

/-- What a received control beat says of credit, GMIN and the round. -/
def takeBeat (s : State) (port beat : Nat) : State :=
  let s := setLk s (lkCredit port) (min 256 (mget 0 s.link (lkCredit port) + fld beat 240 12))
  let s := if port = 1 then flushRelay s.relay.length (setLk s lkGmin (fld beat 234 6 + 1)) else s
  if beat.testBit 233 then switchLanes (if port = 0 then setLk s lkBase (s.cyc % 64) else s) port else s

/-- CASCADE_CONTROL_BEAT (R119). The device answers each beat with one of its own, which returns the credit it has freed
(DESIGN CHOICE, log 86). -/
def execCascadeControlBeat (port beat : Nat) (s : State) : Result :=
  .next (
    if !portOn s port || !isF s 0 (pUp port) then s
    else
      let lmap := fld beat 229 4
      let s := takeBeat s port beat
      match fld beat 226 3 with
      | 1 => sendControl (setF (pendLanes s port lmap false) 0 (pState port) 6) port lmap 2
      | 2 => sendControl (setLk s (lkWait port) 0) port (getF s 0 (pLanes port)) 0
      | 3 => sendControl (pendLanes s port lmap false) port lmap 4
      | 4 => sendControl (setLk s (lkWait port) 0) port (getF s 0 (pLanes port)) 0
      | 5 => if getF s 0 (pState port) = 7 then s else sendControl (startRetrain s port) port (getF s 0 (pLanes port)) 5
      | _ => sendControl s port (getF s 0 (pLanes port)) 0)

/-- CASCADE_LANE_FAIL (R125): the receiver proposes the surviving lanes; fewer than two start a full retrain. -/
def execCascadeLaneFail (port lane : Nat) (s : State) : Result :=
  .next (
    let old := lanesNext s port
    if !portOn s port || !isF s 0 (pUp port) || !old.testBit lane || getF s 0 (pState port) = 7 then s
    else
      let lmap := old - 2 ^ lane
      if popcount lmap 4 < 2 then startRetrain s port
      else sendControl (setF (pendLanes s port lmap true) 0 (pState port) 6) port lmap 1)

/-- CASCADE_DROP_TIMEOUT (R125): no confirmation within 2 us. -/
def execCascadeDropTimeout (port : Nat) (s : State) : Result :=
  .next (
    if portOn s port && getF s 0 (pState port) == 6 && mget 0 s.link (lkWait port) == 1 then startRetrain s port else s)

/-- The link goes down after three failed retrains. -/
def linkDown (s : State) (port : Nat) : State := raiseErr (portDown s port) 0 pgCsc CSC_ERR.LINK_DOWN it0

/-- CASCADE_RETRAIN_DONE (R125): the retrain completes on the lanes given, or fails and runs again. The link starts again
with full credit (DESIGN CHOICE, log 84). -/
def execCascadeRetrainDone (port : Nat) (ok : Bool) (lanes : Nat) (s : State) : Result :=
  .next (
    if !portOn s port || getF s 0 (pState port) != 7 then s
    else
      let n := mget 0 s.link (lkFails port) + 1
      let s := if ok then
          let t := setLk (setLk (setLk (setF (setF s 0 (pState port) 5) 0 (pLanes port) lanes) (lkFails port) 0) (lkCredit port) 256) (lkFreed port) 0
          if port = 1 then flushRelay t.relay.length t else t
        else if n < 3 then setLk s (lkFails port) n
        else linkDown (setLk s (lkFails port) 0) port
      if getF s 0 CSC_STS.U_STATE != 7 && getF s 0 CSC_STS.D_STATE != 7 then setF s 0 CSC_CTL.RETRAIN 0 else s)

/-- CASCADE_LINK_UP (R114, R115): training completes with the lanes, the neighbour's position, the flight in CS cycles
and, on the D port, the packages trained below the neighbour. On a D port that is up already it reports a change further
down the chain (log 87). -/
def execCascadeLinkUp (port lanes npos flight below : Nat) (s : State) : Result :=
  .next (
    if !portOn s port then s
    else if isF s 0 (pUp port) then (if port = 1 then setF s 0 CSC_STS.DEPTH (1 + below) else s)
    else
      let s := setF s 0 (if port = 0 then CSC_FLIGHT.U_FLIGHT else CSC_FLIGHT.D_FLIGHT) flight
      if port = 0 && npos + 1 != cascPos s then
        raiseErr (setF s 0 CSC_STS.POS_ERR 1) 0 pgCsc CSC_ERR.POS it0
      else if 3 < flight then
        raiseErr (setF s 0 CSC_STS.FLIGHT_ERR 1) 0 pgCsc CSC_ERR.FLIGHT it0
      else
        let s := if port = 0 then setF s 0 CSC_STS.POS_ERR 0 else setF s 0 CSC_STS.DEPTH (1 + below)
        let s := setF s 0 CSC_STS.FLIGHT_ERR (b2n (decide (3 < getF s 0 CSC_FLIGHT.U_FLIGHT) || decide (3 < getF s 0 CSC_FLIGHT.D_FLIGHT)))
        setLk (setLk (setF (setF (setF s 0 (pUp port) 1) 0 (pLanes port) lanes) 0 (pState port) 5) (lkCredit port) 256) (lkFreed port) 0)

/-- CASCADE_RETURN (R126): CSC_CTL.RETURN trains every dropped lane; with none dropped it is done at once. -/
def execCascadeReturn (s : State) : Result :=
  .next (
    let dropped := fun (p : Nat) => isF s 0 (pUp p) && getF s 0 (pLanes p) != 15
    if s.part.unitK && (dropped 0 || dropped 1) then setF s 0 CSC_CTL.RETURN 1 else s)

/-- CASCADE_LANE_RETURN_READY (R126): a lane held lock for 1 ms; its return is proposed and takes effect at a MARK. -/
def execCascadeLaneReturnReady (port lane : Nat) (s : State) : Result :=
  .next (
    let old := lanesNext s port
    if portOn s port && isF s 0 (pUp port) && isF s 0 CSC_CTL.RETURN && !old.testBit lane && decide (lane < 4) then
      sendControl (pendLanes s port (old + 2 ^ lane) true) port (old + 2 ^ lane) 3
    else s)

/-- CASCADE_RETRAIN (R125): CSC_CTL.RETRAIN starts a full retrain of both ports that are up. -/
def execCascadeRetrain (s : State) : Result :=
  .next (
    if !s.part.unitK then s
    else
      let up := fun (p : Nat) => portOn s p && isF s 0 (pUp p)
      let s1 := if up 0 then startRetrain s 0 else s
      let s2 := if up 1 then startRetrain s1 1 else s1
      if up 0 || up 1 then setF s2 0 CSC_CTL.RETRAIN 1 else s2)

end Sys2Proof.Machine
end

