-- ==== Sys2Proof/Machine/HostOps.lean ====
section
/-!
DEFINITION. Shared operations of the host interface: the rings (R357, R361), CQ reservations (R358), and what FLR and a
link-down reset (R367, R368).
-/

namespace Sys2Proof.Machine

/-- Entries of update queue `q`'s rings and of an event queue: SIZE + 1, where a SIZE of 0 acts as 1. -/
def qSize (s : State) (q : Nat) : Nat := max 1 (getF s 0 HIF_Q_CFG.SIZE q) + 1
def eqSize (s : State) (c : Nat) : Nat := max 1 (getF s 0 HIF_EQ_CFG.SIZE c) + 1

/-- Bases of the rings. -/
def sqBase (s : State) (q : Nat) : Nat := getF s 0 HIF_SQ_BASE_HI.ADDR q * 2 ^ 32 + getF s 0 HIF_SQ_BASE_LO.ADDR q
def cqBase (s : State) (q : Nat) : Nat := getF s 0 HIF_CQ_BASE_HI.ADDR q * 2 ^ 32 + getF s 0 HIF_CQ_BASE_LO.ADDR q
def eqBase (s : State) (c : Nat) : Nat := getF s 0 HIF_EQ_BASE_HI.ADDR c * 2 ^ 32 + getF s 0 HIF_EQ_BASE_LO.ADDR c

/-- PASID of a queue's requests. -/
def qPasid (s : State) (q : Nat) : Option Nat := if isF s 0 HIF_Q_CFG.PASID_EN q then some (getF s 0 HIF_Q_PASID.PASID q) else none

/-- BAR accesses are accepted (R367, R368). -/
def barOpen (s : State) : Bool := s.funcReady && isF s 0 HIF_STS.LINK_UP && !s.inReset

/-- Completions that a CQ will still receive for commands not yet answered. -/
def inFlight (s : State) (q : Nat) : Nat :=
  (s.cmds.filter fun c => match c.origin with
    | .sq p _ => p == q
    | .peer _ (some p) => p == q
    | _ => false).length + (s.cqPend.filter fun e => e.q == q).length

/-- Drop registers of the host-interface page that FLR resets: queues, event queues and windows. -/
def resetQueueRegs (s : State) : State :=
  { s with regs := s.regs.filter fun q =>
      let off := q.1 / 32 % 4096
      !(q.1 / (32 * 4096 * 65536) == pgHif && decide (0x84 ≤ off ∧ off < 0xD8) && off != 0xD0) }

/-- Discard the notices held: threads that wait for them go on, deferred fetches end. -/
def discardNotices (s : State) : State :=
  s.notices.foldl (fun s n =>
    let s := { s with fetches := rmFirst (fun f => f.deferred && f.done && f.chan == n.chan && f.die == n.die) s.fetches }
    match n.thread with
    | some t => if (getT s n.die t).wait == .notice then finish s n.die t true else s
    | none => s) { s with notices := [] }

/-- Commands of queues and windows that no engine has accepted are discarded, and hold nothing any more; completions of the
others will be discarded (R161). -/
def dropHostCmds (s : State) : State :=
  let host := fun (c : UCmd) => match c.origin with
    | .sq _ _ => true
    | .peer _ _ => true
    | _ => false
  let f : UCmd → UCmd := fun c => { c with origin := .dropped, conts := c.conts.map fun x => (x.1, .dropped, x.2.2) }
  let out := (s.cmds.filter fun c => host c && c.acc.isNone).map fun c => c.id
  out.foldl releaseAfter { s with cmds := updWhere host f (s.cmds.filter fun c => !(host c && c.acc.isNone)) }

/-- The cellar write loses its requests: it ends with a PCIe error (DEDUCED, log 97). -/
def endWrite (s : State) : State :=
  if s.cwrite.isNone then s else setF (setF { s with cwrite := none } 0 CEL_WCMD.GO 0) 0 CEL_WCMD.STATUS 5

/-- What FLR, link-down and Hot Reset do (R367, R368). -/
def hostReset (s : State) (cause : Nat) : State :=
  let tags := outstanding s
  let s := endWrite (cellarStop s cause)
  let s := dropHostCmds (discardNotices (resetQueueRegs s))
  let s := { s with
    xlats := [], invals := [], cqPend := [], cqUsed := [], sqTail := [], cqHead := [], cqArmed := [], eqArmed := [],
    fetchedSq := [], peers := [], peerQ := [], msixTab := [], msixMask := [], msixPend := [], funcReady := false, d3hot := false,
    quar := s.quar ++ tags }
  let s := setF (setF (setF s 0 HIF_STS.BME 0) 0 HIF_STS.ATS_EN 0) 0 HIF_STS.PASID_EN 0
  let s := setF s 0 HIF_QUAR.TAGS (min 768 (getF s 0 HIF_QUAR.TAGS + tagsOf tags))
  if s.quar = [] then s else setF s 0 HIF_STS.QUAR 1

end Sys2Proof.Machine
end

