-- ==== Sys2Proof/Machine/Cellar.lean ====
section
/-!
DEFINITION. The cellar: fetches, authentication, promotion, notices, keys, in-service writes and its online states
(R257 to R272).
-/

namespace Sys2Proof.Machine

/-! ## Fetches (R257, R258) -/

/-- An outstanding fetch that is not done. -/
def liveFetch (s : State) (id : Nat) : Option CFetch := s.fetches.find? fun f => f.id == id && !f.done

/-- CELLAR_FETCH_ENTRY_GRANT: a step that waits for the outstanding-fetch table takes a free entry. -/
def execCellarFetchEntryGrant (id : Nat) (s : State) : Result :=
  .next (
    match liveFetch s id with
    | none => s
    | some f =>
      if f.entry || 4096 ≤ fetchUsed s then s
      else sendFetch (modFetch s id fun g => { g with entry := true }) id)

/-- What an ATS completion is for: the region and the address `k` of a step (0 to 3), or of the cellar write (4 bucket, 5 tag),
while its reads wait for translations. -/
def xlateTarget (s : State) (id k : Nat) : Option (Nat × Nat) :=
  if k < 4 then
    match liveFetch s id with
    | some f => if f.atLead && !f.issued && !writeBusy s f then some (f.region, (fetchAddrs s f).getD k 0) else none
    | none => none
  else
    match s.cwrite with
    | some w => if w.issued then none else some (w.region, if k = 4 then bucketIova s w.region w.index else tagIova s w.region w.index)
    | none => none

/-- The write is over, with a status. -/
def writeOver (s : State) (st : Nat) : State :=
  advanceFetches (setF (setF { s with cwrite := none } 0 CEL_WCMD.GO 0) 0 CEL_WCMD.STATUS st)

/-- A translation is denied (R258): the region goes offline with CAUSE 3, its steps end with CELLAR_OFF, and a cellar write that
waits for it ends with a PCIe error (DEDUCED, log 97). -/
def xlateDenied (s : State) (r a : Nat) : State :=
  let s := raiseErr (regionOff s r 3 (some 8)) 0 pgCel CEL_ERR.XLATE (it2w r a)
  if s.cwrite.any fun w => w.region == r && !w.issued then writeOver s 5 else s

/-- ATS_TRANSLATION_COMPLETION: the translation of one address is granted, to the page of `log2` bits at `base`, and cached, or
denied. -/
def execAtsTranslationCompletion (id k : Nat) (range : Range) (granted : Bool) (s : State) : Result :=
  .next (
    match xlateTarget s id k with
    | none => s
    | some (r, a) =>
      let p := crPasid s r
      if !canMaster s || !isF s 0 HIF_STS.ATS_EN || xlated s p a then s
      else
        let s := bumpSat s 0 HIF_ATS.XREQ
        if granted then
          let l := max 12 range.log2
          let x : Xlat := { pasid := p, page := a / 2 ^ l * 2 ^ l, log2 := l, base := range.base / 2 ^ l * 2 ^ l }
          advanceFetches { s with xlats := s.xlats.drop (s.xlats.length - 2047) ++ [x] }
        else xlateDenied s r a)

/-- An authentication failure (R260): counted; the flag says that a window of CEL_AUTH.WIN microseconds holds too many. -/
def authFail (s : State) (d r i : Nat) : State × Bool :=
  let s := raiseErr (bump s d CEL_AUTH_CNT.COUNT) d pgCel CEL_ERR.AUTH (it2 r i)
  let recent := (s.authAt.filter fun c => decide (s.cyc < c + getF s 0 CEL_AUTH.WIN * 1500)) ++ [s.cyc]
  let burst := decide (getF s 0 CEL_AUTH.THR < recent.length)
  let s := { s with authAt := if burst then [] else recent }
  (if burst then raiseErr s 0 pgCel CEL_ERR.AUTH_BURST (it1 (readWord s 0 pgCel 0 0x208)) else s, burst)

/-- Open one bucket as a step takes it: none when its tag fails or its authenticated RGN is wrong. -/
def takeCellar (s : State) (f : CFetch) (i : Nat) (b : BitVec 1024) (tag : Nat) : State × Option (BitVec 1024) × Bool :=
  match openBucket s f.region i b tag with
  | none =>
    let (s, burst) := authFail s f.die f.region i
    (s, none, burst)
  | some x => (s, if hdrRgn (bucketHdr x) = f.region then some x else none, false)

/-- The crypto unit of the fetching die authenticates both buckets, matches their slots and writes the record; the flag
says that the authentication alarm fired. -/
def fetchData (s : State) (f : CFetch) (v : BitVec 2304) : State × Bool :=
  let part := fun (a n : Nat) => getBE v a n
  let (s, b0, u0) := takeCellar s f f.i0 (BitVec.ofNat 1024 (part 0 1024)) (part 1024 128)
  let (s, b1, u1) := takeCellar s f f.i1 (BitVec.ofNat 1024 (part 1152 1024)) (part 2176 128)
  let r := bucketRec 2 f.i0 f.i1 b0 b1 f.key f.width
  let g : CFetch → CFetch := fun g => { g with done := true }
  let s := { s with fetches := if f.deferred && f.thread < 384 then updWhere (fun g => g.id == f.id) g s.fetches
                               else s.fetches.filter fun g => g.id != f.id }
  (deliverRec (queuePromo s f r) f.die f.thread f.rno r none f.ent, u0 || u1)

/-- Data of a step reach the fetching die; an authentication burst fires alarm source 0x06 (R464). -/
def dataArrive (s : State) (f : CFetch) (v : BitVec 2304) : State :=
  let (s, burst) := fetchData s f v
  if burst then fireAlarm s 6 else s

/-- Read `k` of a step fails (R258; 1 and 2 for bucket 0 and its tag, 3 and 4 for bucket 1): the step completes with CELLAR_OFF and
the region stays online. -/
def readFail (s : State) (f : CFetch) (k : Nat) : State :=
  raiseErr (settleFetch s f.id 8) 0 pgCel CEL_ERR.CPL_ERR (it2 f.region (if k < 3 then f.i0 else f.i1))

/-- A completion that arrives for a quarantined tag is discarded and counted (R367). -/
def lateCompletion (s : State) (kind id n : Nat) : State :=
  if s.quar.contains (kind, id) then bumpSat s 0 HIF_QUAR.LATE n else s

/-- Send a step's data to its die: a message of four cells for each bucket with its tag (R257 step 5). -/
def sendData (s : State) (d id : Nat) (v : BitVec 2304) : State :=
  queueMgmt (queueMgmt s 0 d 6 (2 * id + 1) 4 (getBE v 0 1152 * 2 ^ 28) false) 0 d 6 (2 * id + 1) 4 (getBE v 1152 1152 * 2 ^ 28)

/-- CELLAR_READ_COMPLETION: the four reads of a step return (bucket 0, tag 0, bucket 1, tag 1; `fail` is 0), or read `fail` fails.
Data for another die cross the ring first. -/
def execCellarReadCompletion (id : Nat) (data : BitVec 2304) (fail : Nat) (s : State) : Result :=
  .next (
    match liveFetch s id with
    | none => lateCompletion s 0 id 4
    | some f =>
      if !f.issued || f.data.isSome || !canMaster s then s
      else if fail != 0 then advanceFetches (readFail s f fail)
      else if f.die = 0 then advanceFetches (dataArrive s f data)
      else advanceFetches (sendData (modFetch s id fun g => { g with data := some data }) f.die id data))

/-- MGMT_CELLAR_DATA (R257 steps 2 and 5): a step's request reaches the lead die, or its data reach the fetching die. -/
def execMgmtCellarData (a : Arrival) (s : State) : Result :=
  .next (
    match liveFetch s a.key with
    | none => s
    | some f =>
      if f.entry && !f.atLead then
        let (s, ok) := takeCell s 0 f.die 5 (mgmtId 6 (2 * a.key)) a.flit
        if ok then advanceFetch (modFetch s a.key fun g => { g with atLead := true }) a.key else s
      else match f.data with
        | some v =>
          let (s, ok) := takeCell s f.die 0 5 (mgmtId 6 (2 * a.key + 1)) a.flit
          if !ok || gone s f.die then s else dataArrive s f v
        | none => s)

/-! ## Promotion (R267, R268) -/

/-- A region's writes since the fetch was issued, or one in progress, make the promotion stale. -/
def promoStale (s : State) (p : Promo) : Bool :=
  getF s p.die CR_WSEQ.WSEQ p.cregion != p.wseq || s.cwrite.any fun w => w.region == p.cregion

/-- The slots of the candidate buckets in the order of R243: line, slot and flags. -/
def promoSlots (bs : List (Nat × Option (BitVec 1024))) : List (Nat × Nat × Nat × BitVec 1024) :=
  bs.flatMap fun q => match q.2 with
    | some b => (List.range 4).map fun k => (q.1, k, slotFlags b k, b)
    | none => []

/-- Write a bucket on the dies given and invalidate the lines given there; `crc` says that the write on die `d` failed CRC four
times (R253). -/
def putBucket (s : State) (d : Nat) (ds lines : List Nat) (line : Nat) (b : BitVec 1024) (crc : Bool) : State :=
  ds.foldl (fun s e => lines.foldl (fun s l => invAny s e l) (memPut s e line ⟨b, 0⟩ (crc && e == d))) s

/-- Drain the lines on the dies given. -/
def drainLines (s : State) (ds lines : List Nat) : State := ds.foldl (fun s e => lines.foldl (fun s l => drainLine s e l) s) s

/-- Lines of a promotion's two candidate buckets. -/
def promoLines (s : State) (p : Promo) : List Nat :=
  let (i0, i1) := srIdx s p.die p.region p.key p.width
  [srLine s p.die p.region i0, srLine s p.die p.region i1]

/-- Run a promotion. -/
def promote (s : State) (p : Promo) (crc : Bool) : State :=
  let d := p.die
  if promoStale s p then bumpSat s d STR_PROMO_SKIP.STALE
  else
    let lines := promoLines s p
    let l0 := lines.getD 0 0
    let l1 := lines.getD 1 0
    let s := drainLines s ((writeDies s d l0 ++ writeDies s d l1).eraseDups) lines
    let (s, b0) := takeBucket s d l0 p.region (memRead s d l0) crc
    let (s, b1) := if l1 = l0 then (s, none) else takeBucket s d l1 p.region (memRead s d l1) crc
    let all := promoSlots [(l0, b0), (l1, b1)]
    let write := fun (s : State) (q : Nat × Nat × Nat × BitVec 1024) =>
      let flags := 2 ^ 15 + 2 ^ 14 + p.user % 2 ^ 14
      let b := withHdr (putSlot q.2.2.2 q.2.1 (mkSlot (key160 p.key) p.ad.toNat flags)) (mkHdr 0 p.region)
      bump (putBucket s d (writeDies s d q.1) lines q.1 b crc) d STR_PROMO.COUNT
    if all.any fun q => holdsKey q.2.2.2 q.2.1 p.key p.width then s
    else match all.find? fun q => !q.2.2.1.testBit 15 with
      | some q => write s q
      | none =>
        let c := all.filter fun q => q.2.2.1.testBit 14
        match c.drop (getF s d STR_PROMO.COUNT % c.length) with
        | q :: _ => write s q
        | [] => bumpSat s d STR_PROMO_SKIP.FULL

/-- The lock granted to a die's promotion names its buckets (R341). -/
def nameLock (s : State) (d : Nat) (lines : List Nat) : State :=
  { s with locks := updWhere (fun l => l.die == d && l.inst == 1 && l.owner == 3 && l.start == s.cyc) (fun l => { l with lines := lines }) s.locks }

/-- PROMOTION: the oldest promotion of a die runs, as the locked sequence that the memory arbiter granted to owner 0x03 in this
cycle (R340); on a channel that does not serve, or for an invalid region, it is dropped. `crc` says that its write failed CRC four
times (R253). -/
def execPromotion (a : Attempt) (s : State) : Result :=
  .next (
    match s.promos.find? fun p => p.die == a.key with
    | none => s
    | some p =>
      let t := { s with promos := rmFirst (fun q => q == p) s.promos }
      if !strUp s a.key || !isF s a.key SR_CTL.VALID p.region then t
      else match useLock t a.key 1 3 2 with
        | none => s
        | some t => promote (nameLock t a.key (promoLines s p)) p a.crc)

/-! ## Notices (R269, R270, R361) -/

/-- A notice has been written or dropped: a deferred fetch's entry is released, and a waiting thread goes on. -/
def noticeOver (s : State) (n : Notice) : State :=
  let s := { s with notices := rmFirst (fun m => m == n) s.notices
                    fetches := rmFirst (fun f => f.deferred && f.done && f.chan == n.chan && f.die == n.die) s.fetches }
  match n.thread with
  | some t => if (getT s n.die t).wait == .notice then finish s n.die t true else s
  | none => s

/-- Drop a notice: counted and recorded (R270). -/
def dropNotice (s : State) (n : Notice) : State :=
  noticeOver (raiseErr (bumpSat s 0 CEL_DEFER.NDROP) 0 pgCel CEL_ERR.NOTICE_DROP (it1 (readWord s 0 pgCel 0 0x214))) n

/-- The lead die forms the RETRY notices of deferred requests whose die is lost (R270). -/
def lostNotices (s : State) : State :=
  ((dies s).filter fun d => gone s d).foldl (fun s d =>
    (threadsOf s d).foldl (fun s q => if q.2.deferred && !q.2.child then deviceAnswer s d q.1 3 else s) s) s

/-- NOTICE_WRITE: the oldest notice of a channel is written into its event queue, or dropped where the queue is disabled. -/
def execNoticeWrite (chan : Nat) (s : State) : Result :=
  .next (
    let s := lostNotices s
    match s.notices.find? fun n => n.chan == chan with
    | none => s
    | some n =>
      if !isF s 0 HIF_EQ_CFG.EN chan then dropNotice s n
      else
        let size := eqSize s chan
        let tail := getF s 0 HIF_EQ_STS.TAIL chan
        let next := (tail + 1) % size
        if next = getF s 0 HIF_EQ_STS.HEAD chan || !canMaster s then s
        else
          let a := eqBase s chan + 96 * tail
          let p := if isF s 0 HIF_EQ_CFG.PASID_EN chan then some (getF s 0 HIF_EQ_PASID.PASID chan) else none
          let bs := bytesBE 96 n.data.toNat
          let s := emitOut (emitOut s (.hostWrite (a + 16) p (bs.drop 16))) (.hostWrite a p (bs.take 16))
          let s := setF s 0 HIF_EQ_STS.TAIL next chan
          let s := if mget false s.eqArmed chan && isF s 0 HIF_EQ_CFG.IEN chan then
              sendMsix { s with eqArmed := mset false s.eqArmed chan false } (getF s 0 HIF_EQ_CFG.VEC chan)
            else s
          noticeOver s n)

/-- NOTICE_TIMEOUT: a notice has waited CEL_NTMO microseconds. -/
def execNoticeTimeout (chan : Nat) (s : State) : Result :=
  .next (
    match s.notices.find? fun n => n.chan == chan with
    | none => s
    | some n => if getF s 0 CEL_NTMO.TMO = 0 then s else dropNotice s n)

/-! ## Keys (R261 to R263) -/

/-- A write of CEL_KEK word `k`. -/
def writeKek (s : State) (k val : Nat) (smbus : Bool) : State :=
  if !present s 0 pgCel then s
  else if !smbus then raiseErr s 0 pgCel CEL_ERR.KEK_PCIE (it1 (val % 2 ^ 32))
  else if isF s 0 CEL_STS.KEK then s
  else
    let s := setF s 0 (CEL_KEK.KEK (k % 8)) val
    if k % 8 != 7 then s
    else
      let v := ((List.range 8).map fun i => getF s 0 (CEL_KEK.KEK i)).foldl (fun a w => a * 2 ^ 32 + w) 0
      setF { s with kek := some v } 0 CEL_STS.KEK 1

/-- KEK_WRITE. -/
def execKekWrite (k val : Nat) (smbus : Bool) (s : State) : Result := .next (writeKek s k val smbus)

/-- Regions that use a key slot. -/
def slotRegions (s : State) (k : Nat) : List Nat := (List.range 256).filter fun r => isF s 0 CR_CTL.VALID r && getF s 0 CR_CTL.KSLOT r == k

/-- Fill or empty a key slot. -/
def setKey (s : State) (k : Nat) (v : Option Nat) : State :=
  let w := getF s 0 (CEL_KVALID.VALID (k / 32))
  setF { s with keys := mset none s.keys k v } 0 (CEL_KVALID.VALID (k / 32)) (setFld w (k % 32) 1 (b2n v.isSome))

/-- The key blob: nonce, wrapped key, tag, and the last word. -/
def blobBytes (s : State) : List Nat := (List.range 16).flatMap fun i => bytesBE 4 (getF s 0 (CEL_KBLOB.BLOB i))

/-- End a key command with a status; a refused blob is recorded. -/
def keyDone (s : State) (st : Nat) : State :=
  let s := setF s 0 CEL_KCMD.STATUS st
  if 2 ≤ st then raiseErr s 0 pgCel CEL_ERR.KEY_LOAD (it1 (readWord s 0 pgCel 0 0x120)) else s

/-- Load the blob into its slot. -/
def loadKey (s : State) (k : Nat) : State :=
  match s.kek with
  | none => keyDone s 3
  | some kek =>
    let b := blobBytes s
    match gcmOpen kek (ofBytesBE (b.take 12)) (b.drop 60) ((b.drop 12).take 32) (ofBytesBE ((b.drop 44).take 16)) with
    | none => keyDone s 2
    | some key => if b.getD 60 0 != k then keyDone s 4 else keyDone (setKey s k (some (ofBytesBE key))) 0

/-- Empty a slot: its regions record CAUSE 4, unless it is 5. -/
def clearKey (s : State) (k : Nat) : State :=
  let s := setKey s k none
  keyDone ((slotRegions s k).foldl (fun s r => if getF s 0 CR_CTL.CAUSE r = 5 then s else setCause s r 4) s) 0

/-- A write of CEL_KCMD. -/
def writeKcmd (s : State) (val : Nat) : State :=
  if !present s 0 pgCel then s
  else
    let k := fld val 0 8
    let op := fld val 8 2
    let s := setF (setF s 0 CEL_KCMD.SLOT k) 0 CEL_KCMD.OP op
    if !val.testBit 31 || (op != 1 && op != 2) then s
    else if (slotRegions s k).any fun r => regionOnline s r then keyDone s 1
    else if op = 1 then loadKey s k else clearKey s k

/-- KEY_LOAD: a write of CEL_KCMD with OP = 0b01. -/
def execKeyLoad (val : Nat) (s : State) : Result := .next (if fld val 8 2 = 1 then writeKcmd s val else s)

/-- KEY_CLEAR: a write of CEL_KCMD with OP = 0b10. -/
def execKeyClear (val : Nat) (s : State) : Result := .next (if fld val 8 2 = 2 then writeKcmd s val else s)

/-! ## In-service writes (R264 to R266) -/

/-- A write of CEL_WCMD: the region and index are checked, and the old bucket and tag are read once their addresses are
translated. -/
def writeWcmd (s : State) (val : Nat) : State :=
  if !present s 0 pgCel || isF s 0 CEL_WCMD.GO then s
  else
    let r := fld val 0 8
    let i := getF s 0 CEL_WIDX.INDEX
    let s := setF s 0 CEL_WCMD.REGION r
    if !val.testBit 31 then s
    else if !regionOnline s r then setF s 0 CEL_WCMD.STATUS 1
    else if getF s 0 CR_SIZE.NBUCK r ≤ i then setF s 0 CEL_WCMD.STATUS 2
    else
      let b : BitVec 1024 := BitVec.ofNat 1024 (((List.range 32).map fun j => getF s 0 (CEL_WBUF.DATA j)).foldl (fun a w => a * 2 ^ 32 + w) 0)
      advanceWrite (setF { s with cwrite := some { region := r, index := i, data := b, issued := false } } 0 CEL_WCMD.GO 1)

/-- CELLAR_WRITE: a write of CEL_WCMD with GO. -/
def execCellarWrite (val : Nat) (s : State) : Result := .next (if val.testBit 31 then writeWcmd s val else s)

/-- Keys that a bucket's valid slots hold. -/
def bucketKeys (b : BitVec 1024) : List Nat := ((List.range 4).filter fun k => (slotFlags b k).testBit 15).map fun k => slotKey b k

/-- Clear the promoted copies of a key on a die. -/
def clearPromoted (s : State) (d sr key width : Nat) : State :=
  let k : Key := BitVec.ofNat 640 (key * 2 ^ 480)
  let (i0, i1) := srIdx s d sr k width
  [i0, i1].foldl (fun s i =>
    let line := srLine s d sr i
    let ds := writeDies s d line
    let s := drainLines s ds [line]
    let (s, b) := takeBucket s d line sr (memRead s d line) false
    match b with
    | none => s
    | some b =>
      let hits := (List.range 4).filter fun j => holdsKey b j k width && (slotFlags b j).testBit 14
      if hits = [] then s else putBucket s d ds [line] line (withHdr (hits.foldl clearV b) (mkHdr 0 sr)) false) s

/-- Widths of the keys that a slot's 160 bits may stand for: 160, and 80 where the rest is the padding (R240). -/
def keyWidths (key : Nat) : List Nat := if key % 2 ^ 80 = 0 then [0, 1] else [1]

/-- Encrypt and write the new bucket, clear promoted copies and count the write. -/
def cellarWrite (s : State) (r i key : Nat) (new_ old : BitVec 1024) : State :=
  let h := mkHdr (hdrVersion (bucketHdr old) + 1) r
  let (ct, tag) := gcmSeal key (cellarNonce i r (hdrVersion h)) (bytesBE 8 h) (bucketBody new_)
  let s := emitOut s (.hostWrite (bucketIova s r i) (crPasid s r) (bytesBE 128 (mkBucket ct h).toNat))
  let s := emitOut s (.hostWrite (tagIova s r i) (crPasid s r) (bytesBE 16 tag))
  let sr := getF s 0 CR_CTL.PROMO_SR r
  let ds := (dies s).filter fun d => isF s d SR_CTL.VALID sr && strUp s d && !(paired s d && d % 2 == 1 && strUp s (partner d))
  let s := ds.foldl (fun s d => (bucketKeys old ++ bucketKeys new_).foldl (fun s k =>
    (keyWidths k).foldl (fun s w => clearPromoted s d sr k w) s) s) s
  let s := setAll s (dies s) CR_WSEQ.WSEQ (getF s 0 CR_WSEQ.WSEQ r + 1) r
  writeOver s 0

/-- CELLAR_WRITE_COMPLETE: the old bucket and its tag arrive, or a request of the write fails. -/
def execCellarWriteComplete (bucket : BitVec 1024) (tag : Nat) (err : Bool) (s : State) : Result :=
  .next (
    match s.cwrite with
    | none => lateCompletion s 3 0 2
    | some w =>
      let r := w.region
      let i := w.index
      if !w.issued && canMaster s && !err then s
      else if err || !canMaster s then writeOver s 5
      else match mget none s.keys (getF s 0 CR_CTL.KSLOT r), openBucket s r i bucket tag with
        | some key, some old =>
          if hdrRgn (bucketHdr old) != r then writeOver s 3
          else if hdrVersion (bucketHdr old) = 2 ^ 48 - 1 then writeOver s 4
          else cellarWrite s r i key w.data old
        | _, _ =>
          let (s, burst) := authFail s 0 r i
          writeOver (if burst then fireAlarm s 6 else s) 3)

/-! ## Online and offline (R271, R272) -/

/-- A write of CEL_CTL. -/
def writeCelCtl (s : State) (val : Nat) : State :=
  if !present s 0 pgCel then s
  else if isF s 0 CEL_CTL.EN then (if val.testBit 0 then s else cellarOff s 1)
  else if val.testBit 0 && isF s 0 HIF_STS.LINK_UP && canMaster s && !isF s 0 HIF_STS.QUAR && isF s 0 CEL_STS.KEK then
    setF (setF (setF s 0 CEL_CTL.EN 1) 0 CEL_STS.ONLINE 1) 0 CEL_STS.CAUSE 0
  else s

/-- CELLAR_ENABLE: CEL_CTL.EN 0 to 1. -/
def execCellarEnable (val : Nat) (s : State) : Result := .next (if val.testBit 0 then writeCelCtl s val else s)

/-- CELLAR_DISABLE: CEL_CTL.EN 1 to 0. -/
def execCellarDisable (val : Nat) (s : State) : Result := .next (if val.testBit 0 then s else writeCelCtl s val)

/-- A write of CEL_RGN_ON. ATS Enable must be set to bring a region online (R365). -/
def writeRgnOn (s : State) (val : Nat) : State :=
  let r := fld val 0 8
  if !present s 0 pgCel then s
  else if val.testBit 8 then (if getF s 0 CR_CTL.CAUSE r == 1 || getF s 0 CR_CTL.CAUSE r == 5 then s else regionOff s r 6 none)
  else if isF s 0 CEL_STS.ONLINE && isF s 0 CR_CTL.VALID r && (mget none s.keys (getF s 0 CR_CTL.KSLOT r)).isSome && isF s 0 HIF_STS.ATS_EN then
    setCause s r 0
  else s

/-- REGION_ONLINE: CEL_RGN_ON with OFF = 0. -/
def execRegionOnline (val : Nat) (s : State) : Result := .next (if val.testBit 8 then s else writeRgnOn s val)

/-- REGION_OFFLINE: CEL_RGN_ON with OFF = 1. -/
def execRegionOffline (val : Nat) (s : State) : Result := .next (if val.testBit 8 then writeRgnOn s val else s)

end Sys2Proof.Machine
end

