-- ==== Sys2Proof/Machine/Evidence.lean ====
section
/-!
DEFINITION. The evidence log's commands: appending records, checkpoints, enabling and disabling (R394 to R404).
-/

namespace Sys2Proof.Machine

/-- The lead die takes a record: appended, lost while the log is off, or held, up to 1,024, until the log has started (R404). -/
def takeEvidence (s : State) (bits : Nat) : State :=
  if !isF s 0 EVD_CTL.EN then sendEvidence.loseRecord s 0
  else if !s.evd.enabling then appendRecord s bits
  else if 1024 ≤ s.evd.queue.length then sendEvidence.loseRecord s 0
  else { s with evd := { s.evd with queue := s.evd.queue ++ [bits] } }

/-- The cells of a die's staged record have not arrived: they wait for injection, or were dropped (R107, R111). -/
def recordWaits (s : State) (d : Nat) : Bool :=
  let me := RCell.named d 5 (mgmtId 7 d)
  d != 0 && !s.ringAir.any me && (s.ringQ.any me || s.dropped.any me)

/-- EVIDENCE_RECORD: the oldest staged record whose cells have arrived reaches the lead die. A poisoned one is repeated by
RING_RESEND_TIMEOUT. -/
def execEvidenceRecord (s : State) : Result :=
  .next (
    match s.evd.inbox.find? fun r => !recordWaits s r.die with
    | none => s
    | some r =>
      let s := { s with ringAir := rmFirst (RCell.named r.die 5 (mgmtId 7 r.die)) s.ringAir }
      takeEvidence { s with evd := { s.evd with inbox := rmFirst (fun x => x == r) s.evd.inbox } } r.bits)

/-- CHECKPOINT_IDLE_TIMEOUT: EVD_CFG.TMO milliseconds have passed after a record that no checkpoint covers. -/
def execCheckpointIdleTimeout (s : State) : Result :=
  .next (
    if !isF s 0 EVD_CTL.EN || s.evd.enabling || getF s 0 EVD_CFG.TMO = 0 || evWidx s ≤ s.evd.covered then s else ckptDue s)

/-- Bytes 0x00 to 0x77 of a checkpoint (R400). -/
def ckptBody (s : State) (c : CkptReq) (num : Nat) : List Nat :=
  let flags := getF s 0 TIM_STS.CONT * 2 ^ 31 + b2n (leadUnsync s) * 2 ^ 30 + b2n s.evd.lostSince * 2 ^ 29 + getF s 0 EVD_CFG.N_LOG2
  let prev := match s.evd.prev with
    | some b => if c.first then 0 else sha256 b
    | none => 0
  bytesBE 4 1 ++ bytesBE 4 (getF s 0 EVD_KEYID.VALUE) ++ bytesBE 8 num ++ bytesBE 8 c.recIdx ++ bytesBE 12 (nowStamp s) ++
  bytesBE 4 flags ++ bytesBE 32 c.head ++ bytesBE 32 prev ++ bytesBE 8 s.part.dsn ++ List.replicate 8 0

/-- CHECKPOINT_SIGNED: the oldest checkpoint that the signer holds is signed and written to its ring. -/
def execCheckpointSigned (s : State) : Result :=
  .next (
    match s.evd.due, s.evd.key with
    | c :: rest, some key =>
      let num := getF s 0 EVD_CPNUM.VALUE + 1
      let body := ckptBody s c num
      let (k, s) := random s
      let bytes := body ++ bytesBE 96 (ecdsaSign key (sha384 body) k) ++ List.replicate 40 0
      let blocks := (List.range 4).map fun i => ofBytesBE ((bytes.drop (64 * i)).take 64)
      let s := { s with evd := { s.evd with due := rest, prev := some body, lostSince := false } }
      let s := setF s 0 EVD_CPNUM.VALUE num
      evWrite s (evCpBase s + 256 * ((num - 1) % evCpSize s)) blocks
    | _, _ => s)

/-- Bytes of the public key registers. -/
def pubkeyBytes (s : State) : List Nat := (List.range 24).flatMap fun i => bytesBE 4 (getF s 0 (EVD_PUBKEY.KEY i))

/-- Begin a run with its START record (R397), then the records that waited for it. -/
def startLog (s : State) : State :=
  let s := setF (setF s 0 EVD_WIDX_LO.INDEX 0) 0 EVD_WIDX_HI.INDEX 0
  let wait := s.evd.queue
  let s := { s with evd := { s.evd with covered := 0, first := true, queue := [], enabling := false } }
  let s := setF (setF s 0 EVD_STS.STOP 0) 0 EVD_STS.RUN 1
  wait.foldl appendRecord (appendRecord s (evPlain 2 (nowStamp s) (getF s 0 EVD_KEYID.VALUE) (sha128 (pubkeyBytes s))))

/-- End a run with its END record and a checkpoint. -/
def endLog (s : State) : State :=
  let s := if s.evd.enabling then s else ckptDue (appendRecord s (evPlain 3 (nowStamp s) 0 0))
  let s := s.evd.queue.foldl (fun s _ => sendEvidence.loseRecord s 0) { s with evd := { s.evd with enabling := false, queue := [] } }
  setF (setF (setF s 0 EVD_CTL.EN 0) 0 EVD_STS.RUN 0) 0 EVD_STS.STOP 1

/-- A write of EVD_CTL: TGT is fixed while EN is 1. -/
def writeEvdCtl (s : State) (val : Nat) : State :=
  if !present s 0 pgEvd then s
  else
    let s := setF s 0 EVD_CTL.WRAP (val / 2)
    if isF s 0 EVD_CTL.EN then (if val.testBit 31 then s else endLog s)
    else
      let s := setF s 0 EVD_CTL.TGT val
      if !val.testBit 31 then s
      else
        let s := setF s 0 EVD_CTL.EN 1
        if s.evd.key.isSome then startLog s else { s with evd := { s.evd with enabling := true } }

/-- EVIDENCE_ENABLE: EVD_CTL.EN 0 to 1. -/
def execEvidenceEnable (val : Nat) (s : State) : Result := .next (if val.testBit 31 then writeEvdCtl s val else s)

/-- EVIDENCE_DISABLE: EVD_CTL.EN 1 to 0. -/
def execEvidenceDisable (val : Nat) (s : State) : Result := .next (if val.testBit 31 then s else writeEvdCtl s val)

/-- SIGNING_KEY_GENERATED: a fresh key pair; the run begins (R399). -/
def execSigningKeyGenerated (s : State) : Result :=
  .next (
    if !s.evd.enabling then s
    else
      let (k, s) := random s
      let pub := publicKey k
      let s := { s with evd := { s.evd with key := some k } }
      let s := (List.range 24).foldl (fun s i => setF s 0 (EVD_PUBKEY.KEY i) (pub / 2 ^ (32 * (23 - i)))) s
      let s := setF (setF s 0 EVD_STS.KEY 1) 0 EVD_CPNUM.VALUE 0
      startLog (bump s 0 EVD_KEYID.VALUE))

end Sys2Proof.Machine
end

