-- ==== Sys2Proof/Machine/Host.lean ====
section
/-!
DEFINITION. The host interface: doorbells, update queues, event queues, MSI-X, bus master enable, FLR and link-down,
translation invalidation, and peer windows (R351 to R371).
-/

namespace Sys2Proof.Machine

/-! ## Doorbells (R356, R360) -/

/-- Record an ignored doorbell. -/
def badDoorbell (s : State) (q val : Nat) : State := raiseErr s 0 pgHif HIF_ERR.DB_BAD (it2 q val)

/-- SQ_DOORBELL. -/
def execSqDoorbell (q val : Nat) (s : State) : Result :=
  .next (
    if !barOpen s || 64 ≤ q then s
    else if !isF s 0 HIF_Q_CFG.EN q || qSize s q ≤ val then badDoorbell s q val
    else { s with sqTail := mset 0 s.sqTail q val })

/-- CQ_HEAD_DOORBELL: entries up to the new head are consumed, and the CQ is armed. -/
def execCqHeadDoorbell (q val : Nat) (s : State) : Result :=
  .next (
    if !barOpen s || 64 ≤ q then s
    else if !isF s 0 HIF_Q_CFG.EN q || qSize s q ≤ val then badDoorbell s q val
    else
      let n := (val + qSize s q - mget 0 s.cqHead q) % qSize s q
      { s with cqHead := mset 0 s.cqHead q val
               cqUsed := mmod 0 s.cqUsed q fun u => u - n
               cqArmed := mset false s.cqArmed q true })

/-- EQ_HEAD_DOORBELL. -/
def execEqHeadDoorbell (c val : Nat) (s : State) : Result :=
  .next (
    if !barOpen s || 64 ≤ c then s
    else if !isF s 0 HIF_EQ_CFG.EN c || eqSize s c ≤ val then badDoorbell s c val
    else setF { s with eqArmed := mset false s.eqArmed c true } 0 HIF_EQ_STS.HEAD val c)

/-! ## Submission queues (R358) -/

/-- Entries of a fetch in flight on a queue: first slot and count. -/
def fetching (s : State) (q : Nat) : Nat × Nat := mget (0, 0) s.fetchedSq q

/-- SQ_FETCH: the device reserves CQ entries and reads the next entries of the ring. -/
def execSqFetch (q : Nat) (s : State) : Result :=
  .next (
    if 64 ≤ q || !isF s 0 HIF_Q_CFG.EN q || isF s 0 HIF_Q_CFG.ERR q || !canMaster s || !isF s 0 UPD_CTL.EN || (fetching s q).2 != 0 then s
    else
      let n := qSize s q
      let head := getF s 0 HIF_Q_STS.HEAD q
      let m := min (min ((mget 0 s.sqTail q + n - head) % n) (n - mget 0 s.cqUsed q)) (n - head)
      if m = 0 then s
      else
        let s := { s with fetchedSq := mset (0, 0) s.fetchedSq q (head, m), cqUsed := mmod 0 s.cqUsed q fun u => u + m }
        emitOut s (.hostRead (sqBase s q + 64 * head) (qPasid s q) (64 * m)))

/-- The fetch of a queue is over; its reservations are given up when no command comes of it. -/
def endFetch (s : State) (q : Nat) (release : Bool) : State :=
  let m := (fetching s q).2
  { s with fetchedSq := mset (0, 0) s.fetchedSq q (0, 0)
           cqUsed := if release then mmod 0 s.cqUsed q (fun u => u - m) else s.cqUsed }

/-- A failed fetch stops the queue. -/
def fetchFail (s : State) (q : Nat) : State :=
  let head := (fetching s q).1
  raiseErr (setF (endFetch s q true) 0 HIF_Q_CFG.ERR 1 q) 0 pgHif HIF_ERR.Q_FETCH (it2 q head)

/-- SQ_FETCH_COMPLETION: the entries are handed to the engine in order and the head advances, or the fetch fails. An entry counts
as handed over once its fetch has completed (DEDUCED, log 99). -/
def execSqFetchCompletion (q : Nat) (data : List (BitVec 512)) (fail : Bool) (s : State) : Result :=
  .next (
    let (head, m) := fetching s q
    if m = 0 then lateCompletion s 1 q 1
    else if fail then advanceFetches (fetchFail s q)
    else if data.length != m then s
    else
      let n := qSize s q
      let s := advanceFetches (endFetch s q false)
      data.zipIdx.foldl (fun s e =>
        let h := (head + e.2 + 1) % n
        sendCmd (setF s 0 HIF_Q_STS.HEAD h q) 0 q (.sq q h) e.1 false) s)

/-- PCIE_COMPLETION_TIMEOUT: a non-posted request times out: kind 0 a cellar step, 1 an SQ fetch, 2 a bulk read. -/
def execPcieCompletionTimeout (kind id : Nat) (s : State) : Result :=
  .next (
    match kind with
    | 0 =>
      match liveFetch s id with
      | some f => if f.issued && f.data.isNone then advanceFetches (readFail s f 1) else s
      | none => s
    | 1 => if (fetching s id).2 = 0 then s else advanceFetches (fetchFail s id)
    | _ =>
      match s.cmds.find? fun c => c.id == id && c.begun && c.status.isNone && ceOp c.entry == 0xA && decide (ceSrc c.entry < 2) && c.origin != .scrub with
      | some _ => modCmd s id fun x => { settle_ x 0x10 with after := [] }
      | none => s)

/-! ## Completion queues (R359, R360) -/

/-- CQ_ENTRY_WRITE: the oldest completion of a CQ is written in two writes; an armed CQ sends its message. -/
def execCqEntryWrite (q : Nat) (s : State) : Result :=
  .next (
    match s.cqPend.find? fun e => e.q == q with
    | none => s
    | some e =>
      let rest := { s with cqPend := rmFirst (fun x => x == e) s.cqPend }
      if !isF s 0 HIF_Q_CFG.EN q then rest
      else if !canMaster s then s
      else
        let s := rest
        let tail := getF s 0 HIF_Q_STS.TAIL q
        let a := cqBase s q + 32 * tail
        let p := getF s 0 HIF_Q_CFG.PHASE q
        let le := fun (w : Nat) => bytesBE 4 (swap32 w)
        let s := emitOut s (.hostWrite a (qPasid s q) (le e.w0 ++ le e.w1 ++ le e.w2 ++ le e.w3))
        let s := emitOut s (.hostWrite (a + 16) (qPasid s q) (le (p * 2 ^ 31 + e.src % 256 * 2 ^ 16 + e.sqhd % 2 ^ 16) ++ List.replicate 12 0))
        let next := (tail + 1) % qSize s q
        let s := setF s 0 HIF_Q_STS.TAIL next q
        let s := if next = 0 then setF s 0 HIF_Q_CFG.PHASE (1 - p) q else s
        if mget false s.cqArmed q && isF s 0 HIF_Q_CFG.IEN q then
          sendMsix { s with cqArmed := mset false s.cqArmed q false } (getF s 0 HIF_Q_CFG.VEC q)
        else s)

/-! ## Queue configuration (R357, R361) -/

/-- Write the configurable fields of a queue's configuration word. -/
def writeCfgFields (s : State) (q val : Nat) : State :=
  let s := setF (setF s 0 HIF_Q_CFG.IEN (val / 2 ^ 30) q) 0 HIF_Q_CFG.PASID_EN (val / 2 ^ 29) q
  setF (setF s 0 HIF_Q_CFG.VEC (val / 2 ^ 23) q) 0 HIF_Q_CFG.SIZE val q

/-- A write of HIF_Q_CFG of queue `q`: while EN is 1 only EN can change; setting EN resets the queue. -/
def writeQCfg (s : State) (q val : Nat) : State :=
  let en := val.testBit 31
  if isF s 0 HIF_Q_CFG.EN q then
    (if en then s
     else { setF s 0 HIF_Q_CFG.EN 0 q with fetchedSq := mset (0, 0) s.fetchedSq q (0, 0), cqArmed := mset false s.cqArmed q false })
  else
    let s := writeCfgFields s q val
    if !en then s
    else
      let s := setF (setF (setF s 0 HIF_Q_CFG.EN 1 q) 0 HIF_Q_CFG.ERR 0 q) 0 HIF_Q_CFG.PHASE 1 q
      let s := setF (setF s 0 HIF_Q_STS.HEAD 0 q) 0 HIF_Q_STS.TAIL 0 q
      { s with sqTail := mset 0 s.sqTail q 0, cqHead := mset 0 s.cqHead q 0, cqUsed := mset 0 s.cqUsed q (inFlight s q)
               cqArmed := mset false s.cqArmed q true }

/-- QUEUE_ENABLE: a write of HIF_Q_CFG with EN set. -/
def execQueueEnable (q val : Nat) (s : State) : Result := .next (if q < 64 ∧ val.testBit 31 then writeQCfg s q val else s)

/-- A write of HIF_EQ_CFG of channel `c`. -/
def writeEqCfg (s : State) (c val : Nat) : State :=
  let en := val.testBit 31
  if isF s 0 HIF_EQ_CFG.EN c then (if en then s else setF s 0 HIF_EQ_CFG.EN 0 c)
  else
    let s := setF (setF s 0 HIF_EQ_CFG.IEN (val / 2 ^ 30) c) 0 HIF_EQ_CFG.PASID_EN (val / 2 ^ 29) c
    let s := setF (setF s 0 HIF_EQ_CFG.VEC (val / 2 ^ 23) c) 0 HIF_EQ_CFG.SIZE val c
    if !en then s
    else
      let s := setF (setF (setF s 0 HIF_EQ_CFG.EN 1 c) 0 HIF_EQ_STS.HEAD 0 c) 0 HIF_EQ_STS.TAIL 0 c
      { s with eqArmed := mset false s.eqArmed c true }

/-- EVENT_QUEUE_ENABLE: a write of HIF_EQ_CFG with EN set. -/
def execEventQueueEnable (c val : Nat) (s : State) : Result := .next (if c < 64 ∧ val.testBit 31 then writeEqCfg s c val else s)

/-! ## MSI-X (R362) -/

/-- A write of a vector's control word: unmasking sends a pending message. -/
def writeMsixCtl (s : State) (v : Nat) (masked : Bool) : State :=
  let s := { s with msixMask := mset true s.msixMask v masked }
  if masked || !mget false s.msixPend v then s
  else if canMaster s then emitOut { s with msixPend := mset false s.msixPend v false } (.msix v)
  else s

/-- MSIX_UNMASK. -/
def execMsixUnmask (v : Nat) (s : State) : Result := .next (if v < 64 && barOpen s then writeMsixCtl s v false else s)

/-! ## Bus master enable (R366) -/

/-- Requests stop (R352, R366): the cellar goes offline with cause 2, and outstanding SQ fetches are dropped, to be fetched
again. -/
def stopMaster (s : State) : State := (List.range 64).foldl (fun s q => endFetch s q true) (cellarStop s 2)

/-- After a write to the configuration space: requests stop if they ran before and no longer may (R352, R366). -/
def stopIf (t : State) (ran : Bool) : State := if ran && !canMaster t then stopMaster t else t

/-- BUS_MASTER_DISABLE: a write of the configuration space that clears bus master enable. -/
def execBusMasterDisable (s : State) : Result := .next (stopIf (setF s 0 HIF_STS.BME 0) (canMaster s))

/-- The device may issue requests again: held evidence uploads and pending messages go out. -/
def startMaster (s : State) : State :=
  let s := s.evd.held.foldl (fun s w => emitOut s (.hostWrite w.1 w.2.1 w.2.2)) s
  let s := { s with evd := { s.evd with held := [] } }
  (List.range 64).foldl (fun s v => writeMsixCtl s v (mget true s.msixMask v)) s

/-- After a write to the configuration space: requests go on once nothing stops them. -/
def startIf (t : State) : State := if canMaster t then startMaster t else t

/-- BUS_MASTER_ENABLE: a write of the configuration space that sets bus master enable, with the ATS and PASID enables as given, or
one that changes the power state: D3hot stops requests and interrupts as a cleared enable does, and D0 lets them go on (R352; that
this command carries the power state is a DESIGN CHOICE, log 100). -/
def execBusMasterEnable (cfg : CfgWrite) (pasid : Bool) (s : State) : Result :=
  .next (
    if !isF s 0 HIF_STS.LINK_UP || s.inReset then s
    else match cfg with
      | .d3hot => stopIf { s with d3hot := true } (canMaster s)
      | .d0 => if s.funcReady then startIf { s with d3hot := false } else s
      | .master ats =>
        if s.funcReady then
          let t := setF s 0 HIF_STS.BME 1
          let t := if ats then setF t 0 HIF_STS.ATS_EN 1 else t
          startIf (if pasid then setF t 0 HIF_STS.PASID_EN 1 else t)
        else s)

/-! ## Resets of the function (R367, R368) -/

/-- FLR. -/
def execFlr (s : State) : Result :=
  .next (if isF s 0 HIF_STS.LINK_UP && !s.inReset then raiseErr (hostReset s 3) 0 pgHif HIF_ERR.FLR it0 else s)

/-- QUARANTINE_EXPIRE. -/
def execQuarantineExpire (s : State) : Result :=
  .next (if isF s 0 HIF_STS.QUAR then advanceFetches (setF (setF { s with quar := [] } 0 HIF_STS.QUAR 0) 0 HIF_QUAR.TAGS 0) else s)

/-- LINK_DOWN: a surprise link-down, or a Hot Reset, acts as FLR with cause 4. -/
def execLinkDown (s : State) : Result :=
  .next (
    if !isF s 0 HIF_STS.LINK_UP || s.inReset then s
    else
      let s := setF (setF (setF (hostReset s 4) 0 HIF_STS.LINK_UP 0) 0 HIF_STS.SPEED 0) 0 HIF_STS.WIDTH 0
      raiseErr s 0 pgHif HIF_ERR.LINK_DOWN it0)

/-- DATA_LINK_UP: the link is trained at a speed code and width. -/
def execDataLinkUp (speed width : Nat) (s : State) : Result :=
  .next (
    if s.inReset || isF s 0 HIF_STS.LINK_UP then s
    else setF (setF (setF s 0 HIF_STS.LINK_UP 1) 0 HIF_STS.SPEED speed) 0 HIF_STS.WIDTH width)

/-- FUNCTION_READY. -/
def execFunctionReady (s : State) : Result :=
  .next (if isF s 0 HIF_STS.LINK_UP && !s.inReset then { s with funcReady := true } else s)

/-! ## Translation (R363 to R365) -/

/-- A cached translation lies in a range. -/
def xlatIn (pasid : Option Nat) (page log2 : Nat) (x : Xlat) : Bool :=
  x.pasid == pasid && (let l := max log2 x.log2; page / 2 ^ l == x.page / 2 ^ l)

/-- ATS_INVALIDATION: covered translations are removed; the completion waits for reads issued with them. -/
def execAtsInvalidation (pasid : Option Nat) (page log2 : Nat) (s : State) : Result :=
  .next (
    if 32 ≤ s.invals.length || !isF s 0 HIF_STS.LINK_UP then s
    else
      let gone_ := s.xlats.filter fun x => xlatIn pasid page log2 x
      let uses := fun (f : CFetch) => f.issued && !f.done && f.data.isNone && crPasid s f.region == pasid &&
        (fetchAddrs s f).any fun a => gone_.any fun x => a / 2 ^ x.log2 == x.page / 2 ^ x.log2
      let wr := s.cwrite.filter fun w => w.issued && crPasid s w.region == pasid &&
        [bucketIova s w.region w.index, tagIova s w.region w.index].any fun a => gone_.any fun x => a / 2 ^ x.log2 == x.page / 2 ^ x.log2
      let i : Inval := { pasid := pasid, page := page, log2 := log2, waits := (s.fetches.filter uses).map (fun f => f.id), write := wr }
      bumpSat { s with xlats := s.xlats.filter (fun x => !xlatIn pasid page log2 x), invals := s.invals ++ [i] } 0 HIF_ATS.INV)

/-- ATS_INVALIDATION_COMPLETE: an invalidation whose reads have all completed sends its completion. -/
def execAtsInvalidationComplete (s : State) : Result :=
  .next (
    match s.invals.find? fun i => !(i.write.isSome && i.write == s.cwrite) &&
        !(i.waits.any fun id => s.fetches.any fun f => f.id == id && !f.done && f.data.isNone) with
    | none => s
    | some i => emitOut { s with invals := rmFirst (fun j => j == i) s.invals } (.pcie 1))

/-- ATS_DISABLE: ATS Enable or PASID Enable is cleared. -/
def execAtsDisable (ats pasid : Bool) (s : State) : Result :=
  .next (
    let offAts := ats && isF s 0 HIF_STS.ATS_EN
    let withPasid := (List.range 256).filter fun r => isF s 0 CR_CTL.PASID_EN r
    let offPasid := pasid && isF s 0 HIF_STS.PASID_EN && withPasid != []
    let s := if ats then setF s 0 HIF_STS.ATS_EN 0 else s
    let s := if pasid then setF s 0 HIF_STS.PASID_EN 0 else s
    if !offAts && !offPasid then s
    else
      let rs := if offAts then List.range 256 else withPasid
      (rs.filter fun r => regionOnline s r).foldl (fun s r => regionOff s r 3 (some 8)) { s with xlats := [] })

/-! ## Peer windows (R369 to R371) -/

/-- The active window that a BAR4 offset falls in. -/
def windowAt (s : State) (off : Nat) : Option (Nat × PeerWin) :=
  (List.range 8).findSome? fun w =>
    (mget none s.peers w).bind fun p => if (p.type = 1 ∨ p.type = 2) ∧ p.offset ≤ off ∧ off < p.offset + 2 ^ p.log2 then some (w, p) else none

/-- Commands waiting in a window's queue. -/
def peerQueue (s : State) (w : Nat) : List (BitVec 512 × Option Nat) := mget [] s.peerQ w

/-- PEER_COMMAND_WRITE: a full queue withholds credit, so the write has not arrived. -/
def execPeerCommandWrite (off : Nat) (data : BitVec 512) (s : State) : Result :=
  .next (
    match windowAt s off with
    | some (w, p) =>
      if p.type != 1 || off % 64 != 0 || 64 ≤ (peerQueue s w).length || !barOpen s then s
      else { s with peerQ := mset [] s.peerQ w (peerQueue s w ++ [(data, if p.nocpl then none else some p.cq)]) }
    | none => s)

/-- PEER_COMMAND_DISPATCH: the front command of a window goes to the engine, with its CQ entry reserved. -/
def execPeerCommandDispatch (w : Nat) (s : State) : Result :=
  .next (
    match peerQueue s w with
    | [] => s
    | (e, cq) :: rest =>
      let d := runDie s e
      let room := match cq with
        | some q => isF s 0 HIF_Q_CFG.EN q && decide (mget 0 s.cqUsed q < qSize s q)
        | none => true
      if !isF s d UPD_CTL.EN || !isF s d UPD_CTL.PEER_EN || !room then s
      else
        let s := { s with peerQ := mset [] s.peerQ w rest }
        let s := match cq with
          | some q => { s with cqUsed := mmod 0 s.cqUsed q fun u => u + 1 }
          | none => s
        sendCmd s 0 (0x40 + w) (.peer w cq) e false)

/-- PEER_SLOT_WRITE: forwarded as a slot-write record to the window's die. -/
def execPeerSlotWrite (off : Nat) (data : BitVec 512) (s : State) : Result :=
  .next (
    match windowAt s off with
    | some (_, p) => if p.type != 2 || off % 64 != 0 || !barOpen s then s else slotWrite s p.die 0 64 data
    | none => s)

/-- Count a discarded peer write. -/
def peerReject (s : State) (cause : Nat) : State := setF (bumpSat s 0 HIF_PW_REJ.COUNT) 0 HIF_PW_REJ.LAST cause

/-- PEER_UNMATCHED_WRITE. -/
def execPeerUnmatchedWrite (off : Nat) (s : State) : Result :=
  .next (
    if !barOpen s || (windowAt s off).isSome then s
    else emitOut (raiseErr (peerReject s 1) 0 pgHif HIF_ERR.PW_UNMATCHED (it1 off)) (.pcie 2))

/-- PEER_BAD_WRITE: a write of `len` bytes of the wrong size or alignment to a window. -/
def execPeerBadWrite (off len : Nat) (s : State) : Result :=
  .next (
    if !barOpen s || (windowAt s off).isNone || (len = 64 ∧ off % 64 = 0) then s
    else raiseErr (peerReject s 2) 0 pgHif HIF_ERR.PW_FMT (it1 off))

/-- A window's shadow registers. -/
def shadowWin (s : State) (w : Nat) : PeerWin :=
  { type := getF s 0 HIF_PW_CFG.TYPE w, offset := getF s 0 HIF_PW_BASE.OFFSET w * 4096, log2 := getF s 0 HIF_PW_CFG.LOG2 w,
    die := getF s 0 HIF_PW_CFG.DIE w, cq := getF s 0 HIF_PW_CFG.CQID w, nocpl := isF s 0 HIF_PW_CFG.NOCPL w }

/-- A shadow that COMMIT may not make active (R371). -/
def badWindow (s : State) (w : Nat) : Bool :=
  let p := shadowWin s w
  if p.type = 0 then false
  else
    p.offset % 2 ^ p.log2 != 0 || decide (2 ^ getF s 0 HIF_STS.BAR4_LOG2 < p.offset + 2 ^ p.log2) ||
    ((List.range 8).any fun v => v != w && (let q := shadowWin s v
      q.type != 0 && decide (p.offset < q.offset + 2 ^ q.log2 ∧ q.offset < p.offset + 2 ^ p.log2))) ||
    (p.type == 2 && (decide (s.part.dieCnt ≤ p.die) || (avail s && p.die % 2 == 1))) ||
    (p.type == 1 && !p.nocpl && !isF s 0 HIF_Q_CFG.EN p.cq)

/-- COMMIT: all shadows become active, or none does. -/
def commitWindows (s : State) : State :=
  match (List.range 8).find? fun w => badWindow s w with
  | some w => setF (setF s 0 HIF_PW_STS.REJ 1) 0 HIF_PW_STS.REJ_WIN w
  | none =>
    let ps : SMap (Option PeerWin) := (List.range 8).foldl (fun m w => mset none m w (if (shadowWin s w).type = 0 then none else some (shadowWin s w))) []
    setF (setF { s with peers := ps } 0 HIF_PW_STS.REJ 0) 0 HIF_PW_STS.REJ_WIN 0

/-- PEER_WINDOW_COMMIT: a write of HIF_PW_CTL with COMMIT. -/
def execPeerWindowCommit (s : State) : Result := .next (if barOpen s then commitWindows s else s)

end Sys2Proof.Machine
end

