-- ==== Sys2Proof/Machine/Lookup.lean ====
section
/-!
DEFINITION. The lookup port's commands (R303 to R330): bursts, release, admission, table writes, departures, flow
control, lanes, and the channel registers.
-/

namespace Sys2Proof.Machine

/-! ## Receipt (R308) -/

/-- Count and record a burst discarded or refused at ingress. -/
def countFmt (s : State) (i chan last : Nat) : State :=
  let d := ifDie i
  let s := setF (bumpSat s d LKP_FMT.COUNT) d LKP_FMT.LAST last
  if last = 1 then lkpErr (bumpSat s d LKP_CRC.BURST) i LKP_ERR.BURST_CRC chan last else lkpErr s i LKP_ERR.FMT chan last

/-- Lane map of an interface as its status shows it. -/
def laneMap (s : State) (i : Nat) : Nat := getF s (ifDie i) (LKP_IF_STS.LANES (ifIdx i))

/-- Limits of R307 on the payload length. -/
def plenOk (kind plen : Nat) : Bool := if kind = 0 then decide (plen ≤ 128) else if kind = 1 then plen == 64 else true

/-- Checks 5 to 9 of R308: the first that fails. -/
def ingressCheck (s : State) (i c : Nat) (h : W64) (len : Nat) (oneBurst : Bool) : Option Nat :=
  let e := hdrRecipe h
  let d := ifDie i
  if !oneBurst then some 4
  else if len != 8 + hdrPlen h || !plenOk (hdrKind h) (hdrPlen h) then some 5
  else if 1 < hdrKind h || fld h.toNat 0 25 != 0 then some 6
  else if hdrKind h = 1 && (chGuar s c || !isF s 0 (LKP_CH_CFG.WR c)) then some 7
  else if chMirror s c && (getF s d (SEQ_ENTRY.BUDGET e) != getF s d (LKP_IF_OBUD.OBUD (ifIdx i)) || isF s d (LKP_ENT.STORE e)) then some 8
  else none

/-- LOOKUP_BURST_RECEIVE (R308). -/
def execLookupBurstReceive (iface chan : Nat) (hdr : W64) (payload : BitVec 1024) (len : Nat) (oneBurst crcFail : Bool) (s : State) : Result :=
  .next (
    let d := ifDie iface
    if !ifUp s iface || s.part.dieCnt ≤ d then s
    else if crcFail then countFmt s iface chan 1
    else if 64 ≤ chan || getF s 0 (LKP_CH_CFG.IFX chan) != ifIdx iface || homeOf s chan != d then countFmt s iface chan 2
    else if !chEn s chan then countFmt s iface chan 3
    else if 32 ≤ (queuedOn s iface).length then
      let s := bump (countFmt s iface chan 9) d LKP_DROP.COUNT
      lkpErr s iface LKP_ERR.FC_VIOL chan (laneMap s iface)
    else
      let k := ingressCheck s iface chan hdr len oneBurst
      let r : Req :=
        { id := s.nextId, home := d, iface := iface, chan := chan, hdr := hdr, payload := payload,
          phase := .queued (k.map fun _ => 9), rel := 0, arr := 0, ledger := false, acked := false, thread := none, buf := none,
          resp := none, refusal := false, booked := none, bounded := false, readyAt := 0, next := none, moved := false }
      let s := { s with reqs := s.reqs ++ [r], nextId := s.nextId + 1 }
      match k with
      | some n => countFmt s iface chan n
      | none => s)

/-! ## Release (R306, R448) -/

/-- The pair's partner keeps the die's ledger. -/
def hasLedger (s : State) (d : Nat) : Bool := paired s d && !gone s (partner d)

/-- INGRESS_RELEASE: the oldest queued request is released; its mirror ends that of the request before it. -/
def execIngressRelease (iface : Nat) (s : State) : Result :=
  .next (
    let d := ifDie iface
    let last := mget 0 s.lastRel iface
    let full := 64 ≤ (refusalsOn s iface).length && !(s.reqs.any fun r => r.iface == iface && r.resp.isSome && !r.refusal && !chGuar s r.chan)
    match queuedOn s iface with
    | [] => s
    | r :: _ =>
      let refused := match r.phase with
        | .queued (some _) => true
        | _ => false
      if s.part.dieCnt ≤ d || gone s d || (last != 0 && decide (s.cyc < last - 1 + ifP s iface)) || (refused && full && !chMirror s r.chan) ||
         (hasLedger s d && decide (2048 ≤ ledgerUsed s d)) then s
      else
        let ph : Phase := match r.phase with
          | .queued k => .released k
          | p => p
        let arr := if s.part.unitT then capture s d s.cyc (some TIM_ARR_OFS.OFS) else 0
        let led := hasLedger s d
        let s := { s with reqs := updWhere (fun q => q.iface == iface && last != 0 && q.rel + 1 == last && q.id != r.id && q.next.isNone)
                                    (fun q => { q with next := some s.cyc }) s.reqs }
        let s := modReq s r.id fun q => { q with phase := ph, rel := s.cyc, arr := arr, ledger := led, acked := !led }
        bump { s with lastRel := mset 0 s.lastRel iface (s.cyc + 1) } d LKP_REQ.COUNT)

/-- LEDGER_ENTRY_ACK: the partner acknowledges the entry of a released request. -/
def execLedgerEntryAck (id : Nat) (s : State) : Result :=
  .next (
    match findReq s id with
    | some r => if r.ledger && hasLedger s r.home then modReq s id fun q => { q with acked := true } else s
    | none => s)

/-! ## Admission (R219, R329) -/

/-- Another guaranteed lookup of the same CQ cycle is admitted first (R344): by home die, then interface, then release cycle. -/
def admittedFirst (s : State) (r : Req) : Bool :=
  chGuar s r.chan && s.reqs.any fun q => q.id != r.id && q.acked && q.phase == .released none && hdrKind q.hdr == 0 && chGuar s q.chan &&
    !gone s q.home && q.rel / 2 == r.rel / 2 &&
    (decide (q.home < r.home) || (q.home == r.home && (decide (q.iface < r.iface) || (q.iface == r.iface && decide (q.rel < r.rel)))))

/-- ADMISSION: a released and acknowledged lookup is admitted or refused; a fenced device refuses every one (R467). -/
def execAdmission (id : Nat) (s : State) : Result :=
  .next (
    match findReq s id with
    | none => s
    | some r =>
      if !r.acked || gone s r.home then s
      else match r.phase with
        | .released (some st) => refuse s id st
        | .released none =>
          if hdrKind r.hdr != 0 then s
          else if s.fencedDev then refuse s id 0xB
          else if admittedFirst s r then s
          else match admitReq s r with
            | .refused st s => refuse s id st
            | .admitted s => s
        | _ => s)

/-- TABLE_WRITE_ADMIT: a table write takes a response buffer and an entry of the port-write queue; an engine that takes no
port writes completes it with BAD_OP. -/
def execTableWriteAdmit (id : Nat) (s : State) : Result :=
  .next (
    match findReq s id with
    | none => s
    | some r =>
      if !r.acked || gone s r.home || hdrKind r.hdr != 1 || r.phase != .released none then s
      else if s.fencedDev then refuse s id 0xB
      else
        let waiting := (s.reqs.filter fun q => q.home == r.home && q.phase == .tableWrite && q.resp.isNone).length
        match bufSite s r.chan with
        | none => refuse s id 5
        | some b =>
          if 64 ≤ waiting then refuse s id 5
          else
            let e : BitVec 512 := BitVec.ofNat 512 (getBE r.payload 0 512)
            if !isF s r.home UPD_CTL.EN || !isF s r.home UPD_CTL.LKP_EN then
              let s := countCpl s { newCmd s r.home r.home 0x48 (.lookup id) e true false with status := some 2 }
              let (w0, w1, w2, w3) := cplWords 2 (ceOp e) (ceTag e) (ceGra e) 0 0 0
              let x : Resp := { status := 0, rec1 := 0, rec2 := none, wr := some (swap32 w0 * 2 ^ 32 + swap32 w1, swap32 w2 * 2 ^ 32 + swap32 w3), deferred := false }
              modReq s id fun q => { q with phase := .tableWrite, buf := some b, resp := some x, readyAt := s.cyc }
            else
              let s := modReq s id fun q => { q with phase := .tableWrite, buf := some b }
              sendCmd s r.home 0x48 (.lookup id) e false)

/-! ## Departure (R311, R316 to R322) -/

/-- Every earlier response of an ordered channel has left. -/
def inOrder (s : State) (r : Req) : Bool :=
  !chOrdered s r.chan || ((s.reqs.find? fun q => q.chan == r.chan).map fun q => q.id) == some r.id

/-- Rank among the responses that wait for unbooked cycles (R318); none when it may not use them now. -/
def unbookedRank (s : State) (r : Req) : Option Nat :=
  if r.resp.isNone || !inOrder s r || (chMirror s r.chan && !r.moved) then none
  else match r.booked with
    | some b => if r.bounded && decide (b < r.readyAt) then some 0 else none
    | none =>
      if r.refusal then (if r.moved || r.rel + 81 ≤ s.cyc then some 1 else none)
      else if chGuar s r.chan then some 0
      else if isF s 0 (LKP_CH_USE.XOFF_RX r.chan) then none
      else some 2

/-- No other response of the interface comes first. -/
def firstUnbooked (s : State) (r : Req) (k : Nat) : Bool :=
  !s.reqs.any fun q => q.iface == r.iface && q.id != r.id && (match unbookedRank s q with
    | some j =>
      let a := if j = 0 then q.rel else q.readyAt
      let b := if k = 0 then r.rel else r.readyAt
      decide (j < k) || (j == k && (decide (a < b) || (a == b && decide (q.id < r.id))))
    | none => false)

/-- How a response may leave in this cycle: the egress cycles it must fit in, and the cycles already booked for it. -/
def departure (s : State) (r : Req) : Option (Option Nat × Bool) :=
  if chMirror s r.chan && !r.moved then
    (if inOrder s r && s.cyc == (mirrorOf s r).1 then some (r.next.map fun n => n - r.rel, false) else none)
  else if r.booked == some s.cyc && !r.refusal && inOrder s r then some (none, true)
  else match unbookedRank s r with
    | some k => if firstUnbooked s r k then some (none, false) else none
    | none => none

/-- The response has left, or never will: the thread and the evidence unit learn its departure time. -/
def afterDeparture (s : State) (r : Req) (dep : Option Nat) : State :=
  let s := match r.thread with
    | some t => if (getT s r.home t).req == some r.id then modT s r.home t fun th => { th with dep := some dep } else s
    | none => s
  let s := finishEvidence s r.id r.arr dep
  { s with reqs := s.reqs.filter fun q => q.id != r.id }

/-- The buffer of a departing response is free once its last word has left the serialiser, `n` egress cycles from now (R315). -/
def leaveBuf (s : State) (r : Req) (n : Nat) : State :=
  match r.buf with
  | some b => { s with leaving := (s.leaving.filter fun e => decide (s.cyc < e.2.2)) ++ [(r.chan, b, s.cyc + n)] }
  | none => s

/-- Send a response. -/
def sendResp (s : State) (r : Req) (x : Resp) (ts two booked : Bool) : State :=
  let d := ifDie r.iface
  let n := ceilDiv (respLen two ts) (ifK s r.iface)
  let s := emitOut s (.response d (ifIdx r.iface) r.chan (respWords s r x ts two))
  let s := leaveBuf s r n
  let s := if booked then s else { s with egress := (s.egress.filter fun e => decide (s.cyc < e.2.1 + e.2.2)) ++ [(r.iface, s.cyc, n)] }
  let s := bump s d LKP_RSP.COUNT
  let s := if x.status = 5 then bumpSat (bump s d LKP_OVL.COUNT) 0 (LKP_CH_USE.OVL r.chan) else s
  let late := s.cyc - (r.rel + 81)
  let s := if r.refusal && !r.moved && !chMirror s r.chan && getF s d LKP_RWAIT.MAX < late then setF s d LKP_RWAIT.MAX (min 65535 late) else s
  afterDeparture s r (if s.part.unitT then some (capture s d s.cyc (some TIM_DEP_OFS.OFS)) else none)

/-- RESPONSE_DEPARTURE: a response or refusal enters its serialiser; on a failed interface of the density profile it is
discarded (R305). -/
def execResponseDeparture (id : Nat) (s : State) : Result :=
  .next (
    match findReq s id with
    | none => s
    | some r =>
      match r.resp with
      | none => s
      | some x =>
        if !ifUp s r.iface then
          (if avail s then s else afterDeparture (bump s (ifDie r.iface) LKP_DROP.COUNT) r none)
        else
          match departure s r with
          | none => s
          | some (limit, booked) =>
            let ts := hdrStamp r.hdr && s.part.unitT
            let two := x.rec2.isSome && x.wr.isNone
            let k := ifK s r.iface
            let (ts2, two2) := fitResp k limit ts two
            if !booked && !chMirror s r.chan && !(egressFree s r.iface s.cyc (ceilDiv (respLen two ts) k) && mirrorsFree s r.iface s.cyc (ceilDiv (respLen two ts) k)) then s
            else
              let d := ifDie r.iface
              let s := if ts && !ts2 then bumpSat s d LKP_TRUNC.TS else s
              let s := if two && !two2 then bumpSat s d LKP_TRUNC.TWO else s
              let s := if (ts && !ts2) || (two && !two2) then lkpErr s r.iface LKP_ERR.TRUNC r.chan (laneMap s r.iface) else s
              sendResp s r x ts2 two2 booked)

/-- XOFF_RECEIVE (R328). -/
def execXoffReceive (iface chan : Nat) (xoff : Bool) (s : State) : Result :=
  .next (
    if !ifUp s iface || 64 ≤ chan || chIface s chan != iface || !chEn s chan then s
    else
      let s := setF s 0 (LKP_CH_USE.XOFF_RX chan) (b2n xoff)
      if xoff && chGuar s chan then
        lkpErr (bump s (ifDie iface) LKP_XOFF_RX.COUNT) iface LKP_ERR.XOFF_GUAR chan (laneMap s iface)
      else s)

/-! ## Lanes (R304, R305) -/

/-- A lane fails: its interface goes down and retrains; responses not sent are discarded, or its channels move. -/
def failLane (s : State) (i lane : Nat) : State :=
  let d := ifDie i
  let lanes := laneMap s i
  let s := setIfState s i 3 (if lanes.testBit lane then lanes - 2 ^ lane else lanes)
  let s := lkpErr s i LKP_ERR.LANE_FAIL 0 (laneMap s i)
  if avail s then takeover s d (some (ifIdx i)) false
  else (s.reqs.filter fun r => r.iface == i && r.resp.isSome).foldl (fun s r => afterDeparture (bump s d LKP_DROP.COUNT) r none) s

/-- LANE_FAIL. -/
def execLaneFail (iface lane : Nat) (s : State) : Result :=
  .next (if ifUp s iface && (laneMap s iface).testBit lane then failLane s iface lane else s)

/-- INTERFACE_UP: an enabled interface completes alignment; the head of the chain alone admits requests (R114), and
service must have been released (R481). -/
def execInterfaceUp (iface : Nat) (s : State) : Result :=
  .next (
    let d := ifDie iface
    let lanes := ifLanes (getF s d LKP_IF_CFG.MODE) (ifIdx iface)
    if decide (d < s.part.dieCnt) && (getF s d LKP_IF_CFG.EN).testBit (ifIdx iface) && lanes != 0 && ifState s iface != 2 &&
       loaded s && isF s 0 PKG_BOOT.SVC && cascPos s == 0 && !gone s d && !testing s d &&
       !isF s 0 FLT_ERST.GO && !s.inReset then
      setIfState s iface 2 lanes
    else s)

/-- DIAGNOSTIC_WORD: a lane's CRC32 is checked; four failures in a row fail the lane. -/
def execDiagnosticWord (iface lane : Nat) (crcFail : Bool) (s : State) : Result :=
  .next (
    if !ifUp s iface || !(laneMap s iface).testBit lane then s
    else
      let k := iface * 8 + lane
      if !crcFail then { s with diagFails := mset 0 s.diagFails k 0 }
      else
        let n := mget 0 s.diagFails k + 1
        let s := { s with diagFails := mset 0 s.diagFails k (if n < 4 then n else 0) }
        let s := lkpErr (bumpSat s (ifDie iface) LKP_CRC.META) iface LKP_ERR.META_CRC 0 (getF s (ifDie iface) LKP_FMT.LAST)
        if n < 4 then s else failLane s iface lane)

/-! ## Channel registers (R309, R310) -/

/-- A write to a channel register through a die's page: applied to every copy, or refused whole. -/
def writeChannel (s : State) (d off val : Nat) : State :=
  if locked s d pgLkp then s
  else
    let c := off / 4 % 64
    let t := loadWord s 0 pgLkp 0 off val
    if channelsBreak t then raiseErr s d pgLkp LKP_ERR.CH_REJ (it2 c val)
    else if getF t 0 (LKP_CH_CFG.DIE c) != getF s 0 (LKP_CH_CFG.DIE c) then
      setHome t c (serving t (getF t 0 (LKP_CH_CFG.DIE c)))
    else t

/-- CHANNEL_CFG_WRITE: LKP_CH_CFG of a channel through a die's page. -/
def execChannelCfgWrite (d chan val : Nat) (s : State) : Result := .next (writeChannel s d (0x100 + 4 * (chan % 64)) val)

/-- CHANNEL_BUF_WRITE: LKP_CH_BUF of a channel through a die's page. -/
def execChannelBufWrite (d chan val : Nat) (s : State) : Result := .next (writeChannel s d (0x200 + 4 * (chan % 64)) val)

end Sys2Proof.Machine
end

