-- ==== Sys2Proof/Machine/Module.lean ====
section
/-!
DEFINITION. Module sites and their inputs (R373 to R376, R489, R490): site commands and their completion, the attention
button, presence changes and stuck inputs.
-/

namespace Sys2Proof.Machine

/-- A site event (R373): its status bit rises, and with HPIE and its enable bit the vector is sent. -/
def siteEvent (s : State) (d : Nat) (bit en : Fld) : State :=
  let rises := getF s d bit == 0
  let s := setF s d bit 1
  if rises && isF s d MSS_CTL.HPIE && isF s d en then sendMsix s (getF s d MSS_CTL.VEC) else s

/-- The module of a die is powered anew, or loses power: its contents are those of R520. -/
def loseStore (s : State) (d : Nat) : State :=
  { s with store := s.store.filter fun q => q.1 / 2 ^ 29 != d
           rgnBad := s.rgnBad.filter fun q => q.1 / 2 ^ 29 != d
           storeEpoch := mmod 0 s.storeEpoch d fun n => n + 1 }

/-- A write of MSS_CTL that changes none of PCC, AIC and PIC. -/
def sameSite (s : State) (d val : Nat) : Bool :=
  fld val 5 1 == getF s d MSS_CTL.PCC && fld val 6 2 == getF s d MSS_CTL.AIC && fld val 8 2 == getF s d MSS_CTL.PIC

/-- The command a write makes: 1 power on, 2 power off, 3 indicators. -/
def siteCmd (s : State) (d val : Nat) : Nat :=
  if fld val 5 1 = getF s d MSS_CTL.PCC then 3 else if fld val 5 1 = 0 then 1 else 2

/-- A write of MSS_CTL (R373): a further command while one runs is ignored; a refused one sets REJ and CC; one that is
taken switches the load switch or the indicators at once, and completes later. -/
def writeSite (s : State) (d val : Nat) : State :=
  if sameSite s d val then writeWord s d pgMss 0 0x84 val
  else if !isF s d MSS_STS.CC && mget 0 s.msCmd d != 0 then s
  else
    let k := siteCmd s d val
    if (k = 1 && !isF s d MSS_STS.PDS) || (k = 2 && isF s d STR_STS.READY) then
      let s := siteEvent (setF s d MSS_STS.REJ 1) d MSS_STS.CC MSS_CTL.CCIE
      raiseErr s d pgMss MSS_ERR.CMD_REJ (it1 (val % 2 ^ 32))
    else
      let s := writeWord s d pgMss 0 0x84 val
      let s := { s with msCmd := mset 0 s.msCmd d k }
      if k = 1 then loseStore (setF s d MSS_STS.PWR 1) d
      else if k = 2 then loseStore (setF s d MSS_STS.PWR 0) d
      else s

/-- MODULE_POWER_ON. -/
def execModulePowerOn (d val : Nat) (s : State) : Result :=
  .next (if present s d pgMss && !sameSite s d val && siteCmd s d val == 1 then writeSite s d val else s)

/-- MODULE_POWER_OFF. -/
def execModulePowerOff (d val : Nat) (s : State) : Result :=
  .next (if present s d pgMss && !sameSite s d val && siteCmd s d val == 2 then writeSite s d val else s)

/-- INDICATOR_CHANGE. -/
def execIndicatorChange (d val : Nat) (s : State) : Result :=
  .next (if present s d pgMss && !sameSite s d val && siteCmd s d val == 3 then writeSite s d val else s)

/-- MODULE_COMMAND_COMPLETE. -/
def execModuleCommandComplete (d : Nat) (s : State) : Result :=
  .next (
    if mget 0 s.msCmd d = 0 then s
    else siteEvent { s with msCmd := mset 0 s.msCmd d 0 } d MSS_STS.CC MSS_CTL.CCIE)

/-- ATTENTION_BUTTON: a debounced press. -/
def execAttentionButton (d : Nat) (s : State) : Result :=
  .next (if present s d pgMss then siteEvent (bumpSat s d MSS_CNT.PRESSES) d MSS_STS.ABP MSS_CTL.ABPE else s)

/-- A module removed while powered (R373): it has failed, its power is off and its contents are gone. -/
def surpriseRemoval (s : State) (d : Nat) : State :=
  let s := moduleFail s d
  let s := { s with msCmd := mset 0 s.msCmd d 0 }
  let s := loseStore (setF (setF (setF s d MSS_STS.PWR 0) d MSS_CTL.PCC 1) d STR_STS.SIZE 0) d
  raiseErr (bumpSat s d MSS_CNT.SURPRISE) d pgMss MSS_ERR.SURPRISE (it1 (readWord s d pgMss 0 0x84))

/-- PRESENCE_CHANGE: a debounced change; a module removed while powered has failed. -/
def execPresenceChange (d : Nat) (here : Bool) (s : State) : Result :=
  .next (
    if !present s d pgMss || isF s d MSS_STS.PDS == here then s
    else
      let s := siteEvent (setF s d MSS_STS.PDS (b2n here)) d MSS_STS.PDC MSS_CTL.PDCE
      if here then s
      else if !isF s d MSS_STS.PWR then setF s d STR_STS.SIZE 0
      else surpriseRemoval s d)

/-- INPUT_STUCK: pin 1 MS_PRSNT_N, 2 MS_BTN_N, 3 TAMPER_N, 4 PWR_GOOD of the die. -/
def execInputStuck (d pin : Nat) (s : State) : Result :=
  .next (
    if s.part.dieCnt ≤ d || pin = 0 || 4 < pin || ((pin = 1 || pin = 2) && !s.part.unitS) || (pin = 3 && d != 0) then s
    else raiseErr s 0 pgPkg PKG_ERR.PIN_STUCK (it2 d pin))

end Sys2Proof.Machine
end

