-- ==== Sys2Proof/Machine/Update.lean ====
section
/-!
DEFINITION. The update engine's commands (R135 to R167): acceptance of each opcode, wide sequences, port operations,
guards, generation flips, bulk loads, completions, and the scrubber.
-/

namespace Sys2Proof.Machine

/-! ## Acceptance (R137, R138, R141) -/

/-- The engine of a die accepts commands (UPD_CTL). -/
def engineOn (s : State) (d : Nat) : Bool := isF s d UPD_CTL.EN && !isF s d UPD_CTL.HOLD && !isF s 0 FLT_ERST.GO && !gone s d && !s.fencedDev && !s.inReset

/-- A command waits at the front end of a die. -/
def atFront (d : Nat) (c : UCmd) : Bool := c.die == d && c.arrived && c.acc.isNone

/-- Distance of a source in the front end's turn from the one it served last, in ascending order of source (R137; the order
is a DESIGN CHOICE, log 78). -/
def turnDist (s : State) (d key : Nat) : Nat := (key + 1024 - mget 0 s.updTurn (2 * d)) % 1024

/-- The command that the front end can accept: arrived, first of its source on the die, its source next in turn, and none
accepted yet in this CQ cycle (R137). -/
def acceptable (s : State) (d cid : Nat) (ok : UCmd → Bool) : Option UCmd :=
  match s.cmds.find? fun c => c.id == cid with
  | none => none
  | some c =>
    let first := (s.cmds.find? fun x => srcKey x == srcKey c && atFront d x).map fun x => x.id
    let turn := s.cmds.all fun x => !atFront d x || decide (turnDist s d (srcKey c) ≤ turnDist s d (srcKey x))
    if engineOn s d && atFront d c && first == some cid && turn && mget 0 s.updTurn (2 * d + 1) != cq s + 1 && ok c then some c else none

/-- The head of a wide sequence of the source that still expects continuations. -/
def openHead (s : State) (c : UCmd) : Option UCmd :=
  s.cmds.find? fun x => srcKey x == srcKey c && x.die == c.die && x.acc.isSome && x.status.isNone && !x.returning && decide (x.conts.length < x.expect)

/-- Another command of the source breaks an open sequence (R141). -/
def breakWide (s : State) (c : UCmd) : State :=
  match openHead s c with
  | some h => modCmd s h.id fun x => { settle_ x 0xB with after := [] }
  | none => s

/-- Continuations that a head expects: from the width of the shelf's owner (R141). -/
def contsFor (s : State) (c : UCmd) : Nat :=
  let g := ceGra c.entry
  if badDie s g || !isF s c.die SHELF_DESC.OWNED (shelfIdx g) then 0
  else match partWidth s c.die (getF s c.die SHELF_DESC.OWNER (shelfIdx g)) with
    | 2 => 1
    | 3 => 3
    | _ => 0

/-- The front end of a command's die has served its source in this CQ cycle (R137). -/
def tookTurn (s : State) (c : UCmd) : State :=
  { s with updTurn := mset 0 (mset 0 s.updTurn (2 * c.die) (srcKey c + 1)) (2 * c.die + 1) (cq s + 1) }

/-- Mark a command accepted, with what it waits for, and plan it if nothing holds it. -/
def takeCmd (s : State) (c : UCmd) (expect : Nat) : State :=
  let w := waitsFor s c
  let s := tookTurn s c
  let s := modCmd s c.id fun x => { x with acc := some s.accepted, after := w, expect := expect }
  tryPlan { s with accepted := s.accepted + 1 } c.id

/-- Accept a command of an opcode. -/
def acceptOp (s : State) (d cid op : Nat) : State :=
  match acceptable s d cid fun c => ceOp c.entry == op && mayRequest c.src op with
  | none => s
  | some c =>
    let s := breakWide s c
    takeCmd s c (if op = 1 ∨ op = 3 then contsFor s c else 0)

/-- WRITE (R144). -/
def execWrite (d cid : Nat) (s : State) : Result := .next (acceptOp s d cid 1)
/-- DELETE (R148). -/
def execDelete (d cid : Nat) (s : State) : Result := .next (acceptOp s d cid 2)
/-- INSERT_SHIFT (R151). -/
def execInsertShift (d cid : Nat) (s : State) : Result := .next (acceptOp s d cid 3)
/-- MOVE (R149). -/
def execMove (d cid : Nat) (s : State) : Result := .next (acceptOp s d cid 4)
/-- SET_STATE (R148). -/
def execSetState (d cid : Nat) (s : State) : Result := .next (acceptOp s d cid 5)
/-- GEN_FLIP (R156): on the lead die's engine. -/
def execGenFlip (d cid : Nat) (s : State) : Result := .next (acceptOp s d cid 6)
/-- GEN_CLEAR (R157). -/
def execGenClear (d cid : Nat) (s : State) : Result := .next (acceptOp s d cid 7)
/-- SHELF (R59). -/
def execShelf (d cid : Nat) (s : State) : Result := .next (acceptOp s d cid 8)
/-- COMPACT (R154). -/
def execCompact (d cid : Nat) (s : State) : Result := .next (acceptOp s d cid 9)
/-- SPARE (R167). -/
def execSpare (d cid : Nat) (s : State) : Result := .next (acceptOp s d cid 0xB)
/-- BARRIER (R140). -/
def execBarrier (d cid : Nat) (s : State) : Result := .next (acceptOp s d cid 0xC)

/-- The row a command names lies in a shelf whose owner has a reserved WIDTH (R59). -/
def reservedOwner (s : State) (c : UCmd) : Bool :=
  let g := ceGra c.entry
  !badDie s g && isF s c.die SHELF_DESC.OWNED (shelfIdx g) && decide (3 < partWidth s c.die (getF s c.die SHELF_DESC.OWNER (shelfIdx g)))

/-- WRITE_CONT (R141): the next continuation of the source's open sequence, or one that breaks it or stands alone; in a
shelf without a valid width it is refused with BAD_WIDTH (R59). -/
def execWriteCont (d cid : Nat) (s : State) : Result :=
  .next (
    match acceptable s d cid fun c => ceOp c.entry == 0xE && mayRequest c.src 0xE with
    | none => s
    | some c =>
      match openHead s c with
      | none =>
        let s := takeCmd s c 0
        modCmd s cid fun x => { settle_ x (if reservedOwner s c then 4 else 0xB) with after := [] }
      | some h =>
        let ok := ceGra c.entry == ceGra h.entry + h.conts.length + 1
        let s := tookTurn (joinAfter { s with cmds := s.cmds.filter fun x => x.id != cid } cid h.id) c
        let s := modCmd s h.id fun x => { x with conts := x.conts ++ [(c.id, c.origin, c.entry)] }
        if ok then tryPlan s h.id else modCmd s h.id fun x => { settle_ x 0xB with after := [] })

/-- UNKNOWN_COMMAND (R138, R140): an opcode that is unknown, or that the source may not send; it ends in BAD_OP, an
INSERT_SHIFT with the continuations it expects (R141). -/
def execUnknownCommand (d cid : Nat) (s : State) : Result :=
  .next (
    match acceptable s d cid fun c => !mayRequest c.src (ceOp c.entry) with
    | none => s
    | some c =>
      let s := breakWide s c
      takeCmd s c (if ceOp c.entry = 3 then contsFor s c else 0))

/-! ## Port operations (R73, R129, R146) -/

/-- Dies on which an operation acts, the one that drives it first. -/
def opDies (s : State) (c : UCmd) (op : PortOp) : List Nat :=
  match op with
  | .spareRow _ _ | .remap _ => [graDie (ceGra2 c.entry)]
  | .genClear sh _ => pairDies s (sh / 1024)
  | _ => pairDies s c.die

/-- The operation of a command that a die's engine runs next. -/
def nextOp (s : State) (d : Nat) (c : UCmd) : Option PortOp :=
  match c.plan with
  | [] => none
  | op :: _ =>
    match op with
    | .genClear _ _ => c.plan.find? fun o => (opDies s c o).head? == some d
    | _ => if (opDies s c op).head? == some d then some op else none

/-- The slot of a CS cycle can take a pair operation: free on both dies of bookings, blanking and locks. -/
def pairFree (s : State) (d c : Nat) : Bool :=
  [d, partner d].all fun e => (bookAt s e c).isNone && (lockAt s e 0 c).isNone && !(blankedIn s e c).contains (posAt s 0 c)

/-- The target cycle of a pair operation (R129): the first free slot of its owner at least 16 cycles ahead, or else of no
guaranteed group or cascade reservation (DESIGN CHOICE, log 90); none within four rounds, and it waits. -/
def pairTarget (s : State) (d o : Nat) : Option Nat :=
  let cs := ((List.range 256).map fun i => s.cyc + 16 + i).filter (pairFree s d)
  (cs.find? fun c => slotOf s d 0 (posAt s 0 c) == o + 1).or (cs.find? fun c => slotCat s d (slotOf s d 0 (posAt s 0 c)) != 5)

/-- A copy's source entry is still readable, in every row and on every die that holds it (R149). -/
def opReadable (s : State) (ds : List Nat) : PortOp → Bool
  | .copy _ _ _ srcs _ => ds.all fun d => srcs.all fun g => (shCorrected (getRow s d g) [0, 1, 2, 3, 4]).isSome
  | _ => true

/-- Rows that an operation changes. -/
def opRows (s : State) : PortOp → List Nat
  | .empty rows _ => rows
  | .write g _ _ _ _ _ _ => [g]
  | .validate rows _ _ _ => rows
  | .setState rows _ _ => rows
  | .copy _ dst last _ dsts => if last then dst :: dsts else [dst]
  | .swap srcs dsts => srcs ++ dsts
  | .genClear sh _ => (List.range 1024).map fun i => graOn s (sh / 1024) (sh / 64 % 16) (sh % 64) 0 + i
  | _ => []

/-- Copy the shelf descriptor of a shelf, and its gap in force, from a die to another. -/
def copyShelf (s : State) (src dst sh : Nat) : State :=
  [SHELF_DESC.TAG, SHELF_DESC.TAG_MASK, SHELF_DESC.OWNER, SHELF_DESC.OWNED, SHELF_DESC.GAP_LOG2, SHELF_GAP.IN_FORCE].foldl
    (fun s f => setF s dst f (getF s src f sh) sh) s

/-- A row as the rejoining die rebuilds it: cells from the shadow (R133). -/
def rebuilt (r : Row) : Row :=
  match shCorrected r [0, 1, 2, 3, 4] with
  | some sh => { r with value := shValue sh, mask := shMask sh }
  | none => r

/-- While a pair rejoins, a change on the survivor to a row already copied, or to a descriptor, reaches the rejoining die with
it (R133; DESIGN CHOICE, log 92: in the survivor's own slot). -/
def carryOver (s : State) (d : Nat) (op : PortOp) : State :=
  match s.rejoins.find? fun r => r.surv == d && (r.phase == 3 || r.phase == 4) with
  | none => s
  | some r =>
    let s := match op with
      | .shelf sh _ => copyShelf s d (partner d) (sh % 1024)
      | _ => s
    ((opRows s op).filter fun g => decide (g % 2 ^ 20 < r.pos)).foldl (fun s g => setRow s (partner d) g (rebuilt (getRow s d g))) s

/-- An operation takes the port on its dies. -/
def runOp (s : State) (c : UCmd) (op : PortOp) (ds : List Nat) : State :=
  let d := ds.headD c.die
  if !opReadable s ds op then modCmd s c.id fun x => { settle_ x 0x10 with pairAt := none }
  else
    let s := ds.foldl (fun s e => applyOp s e op) s
    let s := carryOver s d op
    let swap := match op with
      | .swap _ _ => true
      | _ => false
    let s := if swap then bump s d UPD_MOVES.MOVES else s
    let s := if ds.length < 2 then s else queueCell s (partner d) 3 (c.id + 1) (c.id % 2 ^ 64)
    modCmd s c.id fun x =>
      { x with plan := rmFirst (fun o => o == op) x.plan, lastOp := s.cyc, moved := if swap && (ceOp x.entry == 3 || ceOp x.entry == 9) then x.moved + 1 else x.moved,
               pairAt := none, pairWait := decide (1 < ds.length) }

/-- Forget the mirror cells of a command: the operation they carry is not run. -/
def dropMirror (s : State) (id : Nat) : State :=
  let keep := fun (c : RCell) => !(c.cls == 3 && c.id == id + 1)
  { s with ringQ := s.ringQ.filter keep, ringAir := s.ringAir.filter keep, dropped := s.dropped.filter keep }

/-- A pair operation takes a target cycle on both dies and is sent to the odd die. -/
def startPair (s : State) (c : UCmd) (d o : Nat) : State :=
  match pairTarget s d o with
  | none => s
  | some t =>
    let s := { s with books := s.books ++ [d, partner d].map fun e => (⟨e, t, o, d, 512, 0⟩ : Book) }
    queueCell (modCmd (dropMirror s c.id) c.id fun x => { x with pairAt := some (t, false) }) d 3 (c.id + 1) (c.id % 2 ^ 64 * 2 ^ 48 + t % 2 ^ 48)

/-- UPDATE_PORT_OPERATION: a command's next operation takes the attic port of die `d` in a slot granted to the engine (the
scrubber for a repair). A pair operation first takes a target cycle, and then both ports in that cycle; when the odd die has
not received it by then, it takes another. -/
def execUpdatePortOperation (d cid : Nat) (s : State) : Result :=
  .next (
    match s.cmds.find? fun c => c.id == cid && c.planned && c.status.isNone && !c.pairWait with
    | none => s
    | some c =>
      match nextOp s d c with
      | none => s
      | some op =>
        let ds := opDies s c op
        let o := if c.origin == .scrub then 0x11 else 0x10
        if (opWrites op).any fun g => ds.any fun e => guarded s e g then s
        else if ds.length < 2 then
          match useGrant s d 0 o with
          | some s => runOp s c op ds
          | none => s
        else match c.pairAt with
          | some (t, got) =>
            if s.cyc = t ∧ got then
              runOp (settleSlots { s with books := s.books.filter fun b => !(b.cyc == t && ds.contains b.die && b.group == o && b.home == d) } ds) c op ds
            else if t < s.cyc then modCmd s cid fun x => { x with pairAt := none }
            else s
          | none => startPair s c d o)

/-- MIRROR_CELL_RECEIVE (R129): the odd die receives the pair operation with its target cycle, or its completion returns to
the even die; a poisoned cell is dropped. -/
def execMirrorCellReceive (a : Arrival) (s : State) : Result :=
  .next (
    match s.ringAir.find? fun x => x.cls == 3 && x.id == a.key + 1 with
    | none => s
    | some x =>
      let (s, ok) := takeCell s (partner x.src) x.src 3 (a.key + 1) a.flit
      if !ok then s
      else modCmd s a.key fun c =>
        match c.pairAt with
        | some (t, _) => { c with pairAt := some (t, true) }
        | none => { c with pairWait := false })

/-- UPDATE_GUARD_EXPIRE (R146). -/
def execUpdateGuardExpire (d gra : Nat) (s : State) : Result :=
  .next { s with guards := s.guards.filter fun g => !(g.die == d && g.gra == gra && decide (g.at_ + 32 ≤ s.cyc)) }

/-- GEN_FLIP_APPLY (R156): in the target cycle every die sets ACT_GEN. -/
def execGenFlipApply (part : Nat) (s : State) : Result :=
  .next (
    match s.flips.find? fun f => f.1 == part && decide (f.2.2 ≤ s.cyc) with
    | none => s
    | some f =>
      let s := { s with flips := rmFirst (fun x => x == f) s.flips }
      bump (setAll s (dies s) PART_CTL.ACT_GEN f.2.1 part) 0 PART_FLIPS.FLIPS 1 part)

/-! ## Completion (R141, R142, R159) -/

/-- Deliver one completion to its source. -/
def deliverCpl (s : State) (id src from_ : Nat) (o : Origin) (st op tag gra moved cause aux : Nat) : State :=
  let (w0, w1, w2, w3) := cplWords st op tag gra moved cause aux
  match o with
  | .sq q hd => { s with cqPend := s.cqPend ++ [{ q := q, w0 := w0, w1 := w1, w2 := w2, w3 := w3, src := src, sqhd := hd }] }
  | .peer w cq =>
    let s := bump s 0 HIF_PW_DONE.DONE 1 w
    match cq with
    | some q => { s with cqPend := s.cqPend ++ [{ q := q, w0 := w0, w1 := w1, w2 := w2, w3 := w3, src := src, sqhd := 0 }] }
    | none => s
  | .lookup req =>
    let x : Resp := { status := 0, rec1 := 0, rec2 := none, wr := some (swap32 w0 * 2 ^ 32 + swap32 w1, swap32 w2 * 2 ^ 32 + swap32 w3), deferred := false }
    modReq s req fun r => if r.resp.isNone then { r with resp := some x, readyAt := s.cyc } else r
  | .commit d t =>
    match (getT s d t).wait with
    | .commit i r => if i = id ∧ d = from_ then finish (setT s d t (putRec (getT s d t) r (cplRec w0 w1 w2 w3))) d t (decide (st < 2)) else s
    | _ => s
  | .scrub => s
  | .dropped => s

/-- Deliver the completions of a command and its continuations. -/
def deliverAll (s : State) (c : UCmd) : State :=
  let st := c.status.getD 0
  let s := deliverCpl s c.id c.src c.from_ c.origin st (ceOp c.entry) (ceTag c.entry) c.gra (if ceOp c.entry = 0xA then 0 else c.moved) c.cause c.aux
  c.conts.foldl (fun s x => deliverCpl s x.1 c.src c.from_ x.2.1 st (ceOp x.2.2) (ceTag x.2.2) (ceGra x.2.2) 0 0 0) s

/-- A command's work is over: its last action cycle has passed on every die. -/
def cmdOver (s : State) (c : UCmd) : Bool :=
  (c.status.isSome || (c.planned && c.plan == [] && c.target.isNone && (ceOp c.entry != 0xA || decide (ceGra2 c.entry ≤ c.aux)))) && !c.pairWait && (c.lastOp == 0 || decide (c.lastOp + 4 < s.cyc))

/-- No earlier command of its source on its engine is still to complete (R159). -/
def cplFirst (s : State) (c : UCmd) : Bool :=
  !s.cmds.any fun x => srcKey x == srcKey c && x.die == c.die && x.id != c.id && !x.returning && (match x.acc, c.acc with
    | some a, some b => decide (a < b)
    | _, _ => false)

/-- COMPACT puts the shelf's GAP_LOG2 in force. -/
def applyGap (s : State) (c : UCmd) : State :=
  if ceOp c.entry = 9 && c.status == some 0 && c.origin != .scrub then
    (if paired s c.die then [c.die, partner c.die] else [c.die]).foldl (fun s d =>
      setF s d SHELF_GAP.IN_FORCE (getF s d SHELF_DESC.GAP_LOG2 (shelfIdx (ceGra c.entry))) (shelfIdx (ceGra c.entry))) s
  else s

/-- What time does to a command before it completes: a sequence that its thread left open is closed (R195), and a GEN_FLIP
whose cycle has passed reports PART_FLIPS. -/
def lateCmd (s : State) (c : UCmd) : UCmd :=
  let c := if c.status.isNone && c.cut && decide (c.conts.length < c.expect) then { settle_ c 0xB with after := [] } else c
  match c.target with
  | some f => if f < s.cyc && !(s.flips.any fun x => x.1 == cePart c.entry && x.2.2 == f) then
      { c with target := none, aux := getF s 0 PART_FLIPS.FLIPS (cePart c.entry) } else c
  | none => c

/-- COMMAND_COMPLETE (R159): the completion is posted, or sent back over the ring (R136); a sequence that its thread left
open is closed first (R195); a GEN_FLIP completes once its cycle has passed. -/
def execCommandComplete (cid : Nat) (s : State) : Result :=
  .next (
    match s.cmds.find? fun c => c.id == cid && c.acc.isSome && !c.returning with
    | none => s
    | some c =>
      let c := lateCmd s c
      if !cmdOver s c || c.after != [] || !cplFirst s c then s
      else
        let c := { c with status := some (c.status.getD 0) }
        let s := applyGap s c
        let done := { s with cmds := s.cmds.filter fun x => x.id != cid }
        if c.origin == .scrub then releaseAfter done cid
        else
          let s := countCpl s c
          let s := { s with cmds := s.cmds.filter fun x => x.id != cid }
          if c.from_ = c.die then releaseAfter (deliverAll s c) cid
          else
            let (w0, w1, w2, w3) := cplWords (c.status.getD 0) (ceOp c.entry) (ceTag c.entry) c.gra c.moved c.cause c.aux
            let s := queueMgmt s c.die c.from_ 5 cid 1 ((((((w0 * 2 ^ 32 + w1) * 2 ^ 32 + w2) * 2 ^ 32 + w3) * 256 + c.src % 256)) * 2 ^ 159)
            releaseAfter { s with cmds := s.cmds ++ [{ c with returning := true }] } cid)

/-- MGMT_UPDATE_COMMAND (R136): a routed command reaches the die that runs it; a die that has been lost meanwhile gives way
to its partner. -/
def execMgmtUpdateCommand (a : Arrival) (s : State) : Result :=
  .next (
    match s.cmds.find? fun c => c.id == a.key && !c.arrived with
    | none => s
    | some c =>
      let (s, ok) := takeCell s c.die c.from_ 5 (mgmtId 4 a.key) a.flit
      if !ok then s
      else if gone s c.die then
        let s := countCpl s { c with die := c.from_, status := some 0x11 }
        releaseAfter (modCmd s a.key fun x => { settle_ x 0x11 with arrived := true, acc := some s.accepted, returning := true, after := [] }) a.key
      else modCmd s a.key fun x => { x with arrived := true })

/-- MGMT_COMMAND_COMPLETION (R136): a routed completion reaches its source's die. -/
def execMgmtCommandCompletion (a : Arrival) (s : State) : Result :=
  .next (
    match s.cmds.find? fun c => c.id == a.key && c.returning with
    | none => s
    | some c =>
      let (s, ok) := takeCell s c.from_ c.die 5 (mgmtId 5 a.key) a.flit
      if !ok || s.cmds.any (fun x => x.returning && srcKey x == srcKey c && x.die == c.die && decide (x.acc.getD 0 < c.acc.getD 0)) then s
      else deliverAll { s with cmds := s.cmds.filter fun x => x.id != a.key } c)

/-! ## Bulk load (R163, R164) -/

/-- BULK_LOAD: accepted; it starts once nothing holds it (`startBulk`), and its records then arrive one by one. -/
def execBulkLoad (d cid : Nat) (s : State) : Result := .next (acceptOp s d cid 0xA)

/-- Fields of a row record. -/
def brGra (r : BitVec 512) : Nat := fld (wordLE r 0) 0 25
def brWidth (r : BitVec 512) : Nat := fld (wordLE r 0) 25 3
def brPrio (r : BitVec 512) : Nat := fld (wordLE r 4) 16 16
def brState (r : BitVec 512) : Nat := fld (wordLE r 4) 14 2
def brStateB (r : BitVec 512) : Nat := fld (wordLE r 4) 12 2
def brAd (r : BitVec 512) : Nat := wordLE r 8 * 2 ^ 32 + wordLE r 12
def brWords (r : BitVec 512) (o : Nat) : Nat := ((List.range 5).map fun i => wordLE r (o + 4 * i)).foldl (fun a w => a * 2 ^ 32 + w) 0
def brValue (r : BitVec 512) : Nat := brWords r 0x10
def brMask (r : BitVec 512) : Nat := brWords r 0x24

/-- The row already holds a record's contents; PRIO and ad-word of a continuation row are 0 whatever the record says (R49). -/
def brHeld (r : Row) (b : BitVec 512) (head : Bool) : Bool :=
  r.value.toNat == brValue b &&& brMask b && r.mask.toNat == brMask b && ctrlState r.ctrl == brState b &&
  ctrlStateB r.ctrl == (if brWidth b = 1 then brStateB b else 0) && ctrlWidth r.ctrl == brWidth b &&
  r.ad.toNat == (if head then brAd b else 0) && ctrlPrio r.ctrl == (if head then brPrio b else 0)

/-- Every WRITE check of one record (R164); `got` is the number of the wide entry's records before it. The reserved word of a
record must be 0 (log 79), and a record out of sequence within a wide entry has the CAUSE WIDE_SEQ (DESIGN CHOICE, log 80). -/
def bulkCheck (s : State) (c : UCmd) (r : BitVec 512) (got head : Nat) : Option Nat :=
  let g := brGra r
  let p := cePart c.entry
  let w := partWidth s c.die p
  let row := getRow s c.die g
  if wordLE r 0x38 != 0 then some 0x12
  else if graCasc g != cascPos s || (avail s && graDie g % 2 == 1) || !ownedBy s c.die g p then some 3
  else if badWidth w (brWidth r) g then some 4
  else if got = 0 && graRow g % rowsPerSlot w != 0 then some 4
  else if got != 0 && g != head + got then some 0xB
  else if w = 0 && ((brState r != 0 && !tagOk s c.die g (brValue r / 2 ^ 152) (brMask r / 2 ^ 152)) ||
      (brStateB r != 0 && !tagOk s c.die g (brValue r / 2 ^ 72 % 256) (brMask r / 2 ^ 72 % 256))) then some 5
  else if w != 0 && got = 0 && !tagOk s c.die g (brValue r / 2 ^ 152) (brMask r / 2 ^ 152) then some 5
  else if rowUsed row then (if brHeld row r (got == 0) then none else some 7)
  else if got = 0 && atReserve s c.die g w then some 0xA
  else none

/-- Read a bulk record from the die's own channel (SRC = 0b10). -/
def bulkFromStore (s : State) (c : UCmd) : Option (BitVec 512) :=
  let a := ceAd c.entry + 64 * c.aux
  let b := forward (mbNewest s c.die (a / 128)) (memRead s c.die (a / 128))
  if b.bad || !strUp s c.die then none else some (BitVec.ofNat 512 (getBE b.data (8 * (a % 128)) 512))

/-- Count a processed record; the last one ends the load. -/
def bulkNext (s : State) (c : UCmd) : State :=
  let s := bump s c.die UPD_BULK.LOADED
  modCmd s c.id fun x => { x with aux := x.aux + 1, planned := decide (ceGra2 x.entry ≤ x.aux + 1), plan := [] }

/-- BULK_RECORD_READ: the next record arrives (`data` from host memory; from the store room the memory's own contents), or
its read fails. The record's port operations run before the next record is taken. A load whose last record ends inside a
wide entry completes, with the rows written and never validated (DESIGN CHOICE, log 81). -/
def execBulkRecordRead (d cid : Nat) (data : BitVec 512) (fail : Bool) (s : State) : Result :=
  .next (
    match s.cmds.find? fun c => c.id == cid && c.die == d && ceOp c.entry == 0xA && c.begun && c.status.isNone && c.origin != .scrub with
    | none => s
    | some c =>
      if c.plan != [] || ceGra2 c.entry ≤ c.aux || c.pairWait then s
      else
        let rec_ := if ceSrc c.entry = 2 then bulkFromStore s c else if fail || !canMaster s then none else some data
        match rec_ with
        | none => modCmd s cid fun x => settle_ x 0x10
        | some r =>
          let stop := fun (cause : Nat) => modCmd s cid fun x => { settle_ x 0xE with cause := cause, gra := brGra r }
          if crc32 (bytesBE 60 (getBE r 0 480)) != ofBytesLE (bytesBE 4 (getBE r 480 32)) then stop 0x10
          else if (if avail s then graDie (brGra r) / 2 * 2 != d / 2 * 2 else graDie (brGra r) != d) then
            bulkNext (setF s d UPD_BULK.SKIPPED (min 127 (getF s d UPD_BULK.SKIPPED + 1))) c
          else
            let w := partWidth s d (cePart c.entry)
            let n := rowsPerSlot w
            let got := graRow (brGra r) % n
            let head := brGra r - got
            match bulkCheck s c r c.moved (c.gra + 1 - c.moved) with
            | some st => stop st
            | none =>
              let g := brGra r
              let last := decide (c.moved + 1 = n)
              let held := rowUsed (getRow s d g)
              let w1 := PortOp.write g none w (if got = 0 then brPrio r else 0) (BitVec.ofNat 64 (if got = 0 then brAd r else 0))
                (BitVec.ofNat 160 (brValue r)) (BitVec.ofNat 160 (brMask r))
              let v := PortOp.validate ((List.range n).map fun i => head + i) none (brState r) (brStateB r)
              let s := modCmd s cid fun x => { x with moved := if last then 0 else x.moved + 1, gra := g }
              let s := bulkNext s c
              if held then s
              else modCmd s cid fun x => { x with plan := if last then [w1, v] else [w1], planned := true })

/-! ## Scrubbing (R165, R166) -/

/-- GRA of a die's physical position in the sweep. -/
def scrubGra (s : State) (d pos : Nat) : Nat := mkGra (cascPos s) (if avail s then d / 2 * 2 else d) (pos / 65536 % 16) (pos / 1024 % 64) (pos % 1024)

/-- The next row of the sweep from a position: rows of shelves that are not owned are passed over. -/
def nextSwept (s : State) (d pos : Nat) : Option Nat :=
  if isF s d SHELF_DESC.OWNED (pos / 1024 % 1024) then some pos
  else (((List.range 1024).drop 1).map fun i => (pos / 1024 + i) % 1024).find? (fun sh => isF s d SHELF_DESC.OWNED sh) |>.map fun sh => sh * 1024

/-- Check one row (R165): correct words in place, or queue the repair of its entry. -/
def scrubRow (s : State) (d g : Nat) : State :=
  let r := getRow s d g
  if !rowUsed r then s
  else
    let w := partWidth s d (getF s d SHELF_DESC.OWNER (shelfIdx g))
    let n := rowsPerSlot w
    let head := slotHead g n
    match shCorrected r [0, 1, 2, 3, 4], (adCheck r).data?, (ctrlCheck r.ctrl).data? with
    | some sh, some ad, some ct =>
      if ctrlSusp r.ctrl || shValue sh != r.value || shMask sh != r.mask then
        newRepair (raiseErr (bumpSat s d UPD_SCRUB_CNT.REPAIRED) d pgUpd UPD_ERR.SCRUB_REPAIR (it1 g)) d head
      else
        let n := ((List.range 5).filter fun i => (shWord r i).isCorr).length + b2n (adCheck r).isCorr + b2n (ctrlCheck r.ctrl).isCorr
        if n = 0 then s
        else
          let c : W32 := BitVec.ofNat 32 (ct * 128 + secField 25 5 ct)
          let q : Row := { r with ctrl := c, ad := BitVec.ofNat 64 ad, adChk := BitVec.ofNat 8 (secField 64 7 ad), shadow := sh, shChk := shadowChk sh }
          raiseErr (bumpSat (updRow s d g fun _ => q) d UPD_SCRUB_CNT.CORRECTED n) d pgUpd UPD_ERR.SCRUB_CORR (it1 g)
    | _, _, _ =>
      let s := bumpSat s d UPD_SCRUB_CNT.REPAIRED
      let twin := paired s d && entryAgrees s (partner d) head n
      newRepair (raiseErr s d pgUpd (if twin then UPD_ERR.SCRUB_REPAIR else UPD_ERR.SCRUB_LOST) (it1 g)) d head

/-- The scrubber may start a row: INTERVAL CS cycles, 64 at least, after the start of the one before (R165, R166). -/
def scrubDue (s : State) (d : Nat) : Bool :=
  let last := mget 0 s.scrubAt d
  last == 0 || decide (last - 1 + max 64 (getF s d UPD_SCRUB.INTERVAL) ≤ s.cyc)

/-- SCRUB_ROW: the scrubber takes the oldest suspect row, or the next row of its sweep, in a slot granted to it. -/
def execScrubRow (d : Nat) (s : State) : Result :=
  .next (
    if !isF s d UPD_CTL.SCRUB_EN || getF s d UPD_SCRUB.INTERVAL = 0 || gone s d || !scrubDue s d then s
    else match useGrant s d 0 0x11 with
      | none => s
      | some s =>
        let s := { s with scrubAt := mset 0 s.scrubAt d (s.cyc + 1) }
        match mget [] s.susq d with
        | g :: rest => scrubRow { s with susq := mset [] s.susq d rest } d g
        | [] =>
          match nextSwept s d (getF s d UPD_SCRUB_POS.POS % 1048576) with
          | none => s
          | some pos =>
            let nx := pos + 1
            let s := scrubRow s d (scrubGra s d pos)
            let wrap := decide (1048576 ≤ nx) || decide (pos < getF s d UPD_SCRUB_POS.POS % 1048576)
            let s := setF s d UPD_SCRUB_POS.POS (scrubGra s d (nx % 1048576))
            if wrap then bump s d UPD_SCRUB_POS.SWEEPS else s)

end Sys2Proof.Machine
end

