-- ==== Sys2Proof/Machine/Pair.lean ====
section
/-!
DEFINITION. Pairs of the availability profile (R129 to R134) and recovery (R449 to R455): the loss of a member, the return
of channels, the rejoin, and the fences.
-/

namespace Sys2Proof.Machine

/-- Change the state of a pair. -/
def setPair (s : State) (p v : Nat) : State := setF s 0 (PKG_PAIR_STS.PAIR p) v

/-- State of a pair after the loss of a die (R134); none when the die was lost already. -/
def lossState (st d : Nat) : Option Nat :=
  let solo := if d % 2 = 0 then 3 else 2
  match st with
  | 1 | 6 => some solo
  | 4 => some (if d % 2 = 1 then 2 else 7)
  | 5 => some (if d % 2 = 0 then 3 else 7)
  | 2 => if d % 2 = 0 then some 7 else none
  | 3 => if d % 2 = 1 then some 7 else none
  | _ => none

/-- The commands that a command and its continuations become when they are handed over anew. -/
def replayCmds (c : UCmd) (to_ : Nat) : List UCmd :=
  let fresh := fun (id : Nat) (o : Origin) (e : BitVec 512) =>
    { c with id := id, origin := o, entry := e, die := to_, conts := [], expect := 0, arrived := to_ == c.from_, acc := none, after := [],
             plan := [], pairAt := none, pairWait := false, lastOp := 0, status := none, gra := ceGra e, moved := 0, cause := 0,
             aux := 0, target := none, planned := false, begun := false, returning := false }
  fresh c.id c.origin c.entry :: c.conts.map fun x => fresh x.1 x.2.1 x.2.2

/-- Where a command's completion goes once a die is lost: requests, threads and, with the lead die, queues of it are gone. -/
def originLeft (d from_ : Nat) (o : Origin) : Origin :=
  match o with
  | .lookup _ => if from_ = d then .dropped else o
  | .commit e _ => if e = d then .dropped else o
  | .sq _ _ => if d = 0 then .dropped else o
  | .peer _ _ => if d = 0 then .dropped else o
  | _ => o

/-- The survivor's part of a command whose pair operation was under way when the driving die was lost (R132): the whole command,
when that operation is all that is left of it; otherwise the operation alone, if the survivor has yet to act on it. -/
def survivorCmd (s : State) (c : UCmd) (d : Nat) : Option UCmd :=
  let held := match c.pairAt with
    | some (_, got) => got
    | none => false
  let left := if c.pairWait then c.plan.length else c.plan.length - 1
  let here := { c with die := partner d, pairAt := none, pairWait := false, origin := originLeft d c.from_ c.origin, after := [],
                       conts := c.conts.map fun x => (x.1, originLeft d c.from_ x.2.1, x.2.2) }
  if (held || c.pairWait) && left == 0 && c.planned then some here
  else if held then some { here with id := s.nextId, origin := .dropped, conts := [], expect := 0, plan := c.plan.take 1, target := none, linked := false }
  else none

/-- The whole of a command went to the survivor. -/
def wentWhole (c : UCmd) (x : Option UCmd) : Bool := match x with
  | some y => y.id == c.id
  | none => false

/-- The lead die fetches a command of a submission queue again (R453). -/
def refetch (s : State) (o : Origin) : State :=
  match o with
  | .sq q h => if canMaster s then emitOut s (.hostRead (sqBase s q + 64 * ((h + qSize s q - 1) % qSize s q)) (qPasid s q) 64) else s
  | _ => s

/-- Commands of a lost engine (R132, R453, R454): pair operations under way are completed by the survivor; SQ commands run
again on it, and COMMITs of living threads with them; lookup-port writes are answered RETRY; the others are lost. -/
def moveCmds (s : State) (d : Nat) : State :=
  let mine := s.cmds.filter fun c => c.die == d && !c.returning
  let rest := s.cmds.filter fun c => !(c.die == d && !c.returning)
  mine.foldl (fun s c =>
    let x := if avail s then survivorCmd s c d else none
    let s := { s with cmds := s.cmds ++ x.toList, nextId := s.nextId + 1 }
    if wentWhole c x then s
    else match c.origin with
      | .sq _ _ =>
        if d = 0 then s
        else
          let t := (c.conts.map fun x => x.2.1).foldl refetch (refetch s c.origin)
          { t with cmds := t.cmds ++ replayCmds c (partner d) }
      | .commit e _ => if gone s e then s else { s with cmds := s.cmds ++ replayCmds c (partner d) }
      | .lookup id => modReq s id fun r =>
          if r.resp.isSome then r else { r with resp := some (respStatus 3), refusal := true, readyAt := s.cyc }
      | _ => s) { s with cmds := rest }

/-- Nothing waits for a command that is gone. -/
def releaseLost (s : State) : State :=
  let f : UCmd → UCmd := fun c => { c with after := c.after.filter fun i => s.cmds.any fun x => x.id == i && !x.returning }
  let s := { s with cmds := s.cmds.map f }
  (s.cmds.map fun c => c.id).foldl tryPlan s

/-- Commands that a lost die sent to other engines complete without an answer, and the pair operations of its partner go on
alone (R132); mirror cells of the pair are void. -/
def orphanCmds (s : State) (d : Nat) : State :=
  let f : UCmd → UCmd := fun c =>
    let c := if c.from_ = d then { c with origin := originLeft d c.from_ c.origin } else c
    if c.die = partner d then { c with pairAt := none, pairWait := false } else c
  let keep := fun (c : RCell) => c.src != d && !(c.cls == 3 && c.src == partner d)
  { s with cmds := s.cmds.map f, ringQ := s.ringQ.filter keep, ringAir := s.ringAir.filter keep, dropped := s.dropped.filter keep }

/-- What the loss of the lead die takes with it (R455). -/
def loseLead (s : State) : State :=
  let s := if isF s 0 HIF_STS.LINK_UP then setF (hostReset s 4) 0 HIF_STS.LINK_UP 0 else s
  let s := cellarStop s 4
  let s := (dies s).foldl staleLocal s
  let s := setF (setF s 0 EVD_CTL.EN 0) 0 EVD_STS.RUN 0
  let s := { s with evd := { s.evd with key := none, enabling := false, due := [] } }
  setF (setF (setF (setF s 0 CSC_STS.U_UP 0) 0 CSC_STS.D_UP 0) 0 CSC_STS.U_STATE 0) 0 CSC_STS.D_STATE 0

/-- PKG_PAIR_SYNC.BUSY: a rejoin copy is running (R134). -/
def copyBusy (s : State) : State := setF s 0 PKG_PAIR_SYNC.BUSY (b2n (s.rejoins.any fun r => r.phase == 3 || r.phase == 4))

/-- A pair loses a member (R131, R132, R449): the survivor takes over. -/
def loseMember (s : State) (d st : Nat) : State :=
  let p := d / 2
  let s := setPair (loseDie s d) p st
  let s := raiseErr s 0 pgPkg PKG_ERR.PAIR_SOLO (it2 p d)
  let s := stopSync (stopSync { s with rejoins := s.rejoins.filter fun r => r.pair != p } d) (partner d)
  let s := setF (copyBusy s) 0 PKG_PAIR_CTL.REJOIN (getF s 0 PKG_PAIR_CTL.REJOIN &&& (15 - 2 ^ p))
  let s := setF s 0 PKG_PAIR_CTL.RETURN (getF s 0 PKG_PAIR_CTL.RETURN &&& (15 - 2 ^ p))
  let s := { s with searches := s.searches.filter fun x => x.inbound.isSome || x.home != d }
  let s := (threadsOf s d).foldl (fun s q => if q.2.deferred && !q.2.child then deviceAnswer s d q.1 3 else s) s
  let s := takeover s d none false
  let s := endThreads s d
  let s := { s with reqs := updWhere (fun r => r.home == partner d && r.ledger && !r.acked) (fun r => { r with acked := true }) s.reqs }
  let s := releaseLost (moveCmds (orphanCmds s d) d)
  if d = 0 then loseLead s else s

/-- PAIR_MEMBER_LOST: the die is lost or its attic fenced. -/
def execPairMemberLost (d : Nat) (s : State) : Result :=
  .next (
    if !avail s || s.part.dieCnt ≤ d || !fenced s d || s.inReset then s
    else match lossState (pairSt s d) d with
      | some st => loseMember s d st
      | none => s)

/-! ## Return of channels (R450) -/

/-- Channels of a pair that are not at the home die of the image. -/
def displaced (s : State) (p : Nat) : List Nat :=
  (List.range 64).filter fun c => homeOf s c / 2 == p && homeOf s c != getF s 0 (LKP_CH_CFG.DIE c)

/-- The pair may return its channels. -/
def mayReturn (s : State) (p : Nat) : Bool :=
  getF s 0 (PKG_PAIR_STS.PAIR p) == 1 && (!s.part.unitS || (!isF s (2 * p) STR_SYNC.BUSY && !isF s (2 * p + 1) STR_SYNC.BUSY))

/-- A write of 1 to RETURN for the pairs of a mask. -/
def startReturn (s : State) (mask : Nat) : State :=
  (bitsOf mask 4).foldl (fun s p =>
    if mayReturn s p && displaced s p != [] then setF s 0 PKG_PAIR_CTL.RETURN (getF s 0 PKG_PAIR_CTL.RETURN ||| 2 ^ p) else s) s

/-- PAIR_CHANNEL_RETURN: `mask` is the value of the RETURN field written. -/
def execPairChannelReturn (mask : Nat) (s : State) : Result := .next (startReturn s mask)

/-- CHANNEL_RETURN_DRAINED: the channel has no unanswered request, and its home changes; the last one ends the return. -/
def execChannelReturnDrained (chan : Nat) (s : State) : Result :=
  .next (
    let p := homeOf s chan / 2
    if !(displaced s p).contains chan || !(getF s 0 PKG_PAIR_CTL.RETURN).testBit p || s.reqs.any (fun r => r.chan == chan) then s
    else
      let s := setHome s chan (getF s 0 (LKP_CH_CFG.DIE chan))
      if displaced s p = [] then setF s 0 PKG_PAIR_CTL.RETURN (getF s 0 PKG_PAIR_CTL.RETURN &&& (15 - 2 ^ p)) else s)

/-! ## Rejoin (R133) -/

/-- Copy the descriptor registers of a page from a die to its partner. -/
def copyRegs (s : State) (src dst pg : Nat) : State :=
  let k := 64 * 65536 * 4096 * 32
  let on := fun (q : Nat × Nat) (d : Nat) => q.1 / (65536 * 4096 * 32) == d * 64 + pg
  let kept := s.regs.filter fun q => !on q dst
  { s with regs := (s.regs.filter fun q => on q src).foldl (fun m q => mins m (q.1 - src * k + dst * k) q.2) kept }

/-- Copy the descriptors of a die to its partner (R133 step 3). -/
def copyDescs (s : State) (src dst : Nat) : State := copyRegs (copyRegs s src dst pgShelf) src dst pgPart

/-- Where the copy stands after `n` more owned rows, over the owned shelves that are left, and how many rows it copied. -/
def advanceCopy : List Nat → Nat → Nat → Nat × Nat
  | [], _, _ => (2 ^ 20, 0)
  | sh :: l, pos, n =>
    let a := max pos (1024 * sh)
    let k := 1024 * sh + 1024 - a
    if n < k then (a + n, n)
    else
      let (p, c) := advanceCopy l (1024 * sh + 1024) (n - k)
      (p, c + k)

/-- Copy the rows of a die at positions from `a` to before `b` to its partner: control word, shadow and ad-word, with cells
rebuilt from the shadow. -/
def copyRows (s : State) (src dst a b : Nat) : State :=
  let at_ := fun (d : Nat) (k : Nat) => (logShelf s d (k / 66560 % 16) (k / 1024 % 65)).map fun sh => (k / 66560 % 16 * 64 + sh) * 1024 + k % 1024
  let in_ := fun (d : Nat) (k : Nat) => k / 1064960 == d && (match at_ d k with
    | some p => decide (a ≤ p ∧ p < b)
    | none => false)
  let from_ := s.rows.filter fun q => in_ src q.1
  let s := { s with rows := s.rows.filter fun q => !in_ dst q.1 }
  from_.foldl (fun s q => setRow s dst ((at_ src q.1).getD 0) (rebuilt q.2)) s

/-- A write of 1 to REJOIN for a pair: it starts the copy, with the descriptors, when one member is lost and not held in
reset. -/
def startRejoin (s : State) (p : Nat) : State :=
  let st := getF s 0 (PKG_PAIR_STS.PAIR p)
  let lost := if st = 2 then 2 * p + 1 else 2 * p
  if (st != 2 && st != 3) || s.heldDies.testBit lost || isF s lost ATC_THROTTLE.FENCED then s
  else
    let s := { s with lostDies := s.lostDies - (if s.lostDies.testBit lost then 2 ^ lost else 0) }
    let s := setPair s p (if st = 2 then 4 else 5)
    let s := setF s 0 PKG_PAIR_CTL.REJOIN (getF s 0 PKG_PAIR_CTL.REJOIN ||| 2 ^ p)
    let s := setF s 0 PKG_PAIR_SYNC.ROWS 0
    copyDescs (copyBusy { s with rejoins := s.rejoins ++ [{ pair := p, phase := 3, since := s.cyc, surv := partner lost, pos := 0 }] }) (partner lost) lost

/-- PAIR_REJOIN. -/
def execPairRejoin (p : Nat) (s : State) : Result :=
  .next (if avail s && decide (2 * p + 1 < s.part.dieCnt) then startRejoin s p else s)

/-- The copy has passed every row: the store room follows where both channels serve (R133 step 4, R275), then the check. -/
def endCopy (s : State) (p : Nat) (r : Rejoin) : State :=
  let d := partner r.surv
  let s := copyDescs s r.surv d
  let to_ := fun (s : State) (n : Nat) =>
    { s with rejoins := updWhere (fun x => x.pair == p) (fun x => { x with phase := n, since := s.cyc }) s.rejoins }
  if s.part.unitS && strUp s r.surv && strUp s d then startSync (to_ s 4) d
  else setPair (copyBusy (to_ s 5)) p 6

/-- REJOIN_COPY_DONE: the survivor has copied the next `n` owned rows, bank by bank (R133 step 3); with the last of them the
store room follows (R275). -/
def execRejoinCopyDone (c : Progress) (s : State) : Result :=
  .next (
    match s.rejoins.find? fun r => r.pair == c.key && r.phase == 3 with
    | none => s
    | some r =>
      let owned := (List.range 1024).filter fun sh => isF s r.surv SHELF_DESC.OWNED sh && decide (r.pos < 1024 * sh + 1024)
      let (pos, k) := advanceCopy owned r.pos c.n
      let s := copyRows s r.surv (partner r.surv) r.pos pos
      let s := bump s 0 PKG_PAIR_SYNC.ROWS k
      let s := { s with rejoins := updWhere (fun x => x.pair == c.key) (fun x => { x with pos := pos }) s.rejoins }
      if pos = 2 ^ 20 then endCopy s c.key r else s)

/-- REJOIN_CHECK_EXPIRE: after one second of checking the pair is in lockstep again, from a round boundary. -/
def execRejoinCheckExpire (p : Nat) (s : State) : Result :=
  .next (
    if posAt s 0 s.cyc == 0 && s.rejoins.any fun r => r.pair == p && r.phase == 5 then
      let s := setPair { s with rejoins := s.rejoins.filter fun r => r.pair != p } p 1
      setF s 0 PKG_PAIR_CTL.REJOIN (getF s 0 PKG_PAIR_CTL.REJOIN &&& (15 - 2 ^ p))
    else s)

/-! ## Fences (R134) -/

/-- Fence a die of a pair, in lockstep only. -/
def fenceMember (s : State) (p d : Nat) : State := if getF s 0 (PKG_PAIR_STS.PAIR p) = 1 then loseDie s d else s

/-- PAIR_FENCE_EVEN. -/
def execPairFenceEven (p : Nat) (s : State) : Result := .next (if p < 4 then fenceMember s p (2 * p) else s)

/-- PAIR_FENCE_ODD. -/
def execPairFenceOdd (p : Nat) (s : State) : Result := .next (if p < 4 then fenceMember s p (2 * p + 1) else s)

end Sys2Proof.Machine
end

