-- ==== Sys2Proof/Machine/Security.lean ====
section
/-!
DEFINITION. The security controller's commands: debug unlock (R461 to R463), alarm sources (R464), zeroization by software
(R466) and endorsement (R468).
-/

namespace Sys2Proof.Machine

/-- The lead die's security controller is there. -/
def secLive (s : State) : Bool := !s.inReset && !gone s 0

/-! ## Debug unlock -/

/-- A fresh challenge of 48 bytes. -/
def challenge (s : State) : State :=
  let (v, s) := random s
  let c := v % 2 ^ 384
  let s := { s with unlock := { chal := some c, at_ := s.cyc, level := getF s 0 SEC_DBG_CMD.LEVEL } }
  (List.range 12).foldl (fun s i => setF s 0 (SEC_DBG_CHAL.DATA i) (c / 2 ^ (32 * (11 - i)))) s

/-- The challenge is used up, or gone. -/
def dropChallenge (s : State) : State := { s with unlock := { s.unlock with chal := none } }

/-- The response registers: r then s. -/
def response (s : State) : Nat := (List.range 24).foldl (fun a i => a * 2 ^ 32 + getF s 0 (SEC_DBG_RESP.DATA i)) 0

/-- The signature over challenge, Device Serial Number and level byte holds (R462). -/
def goodResponse (s : State) (c level : Nat) : Bool :=
  let r := response s
  ecdsaVerify (Config.debugKey s.part.dbgDigest) (sha384 (bytesBE 48 c ++ bytesBE 8 s.part.dsn ++ [level]))
    (r / 2 ^ 384) (r % 2 ^ 384)

/-- A failed response (R463). -/
def failResponse (s : State) : State :=
  let s := setF (bumpSat s 0 SEC_DBG_CMD.FAILS) 0 SEC_DBG_CMD.STATUS 2
  let s := raiseErr s 0 pgSec SEC_ERR.DBG_FAIL (it1 (readWord s 0 pgSec 0 0x94))
  if getF s 0 SEC_DBG_CMD.FAILS = 3 then fireAlarm s 5 else s

/-- Set the debug level of every die. -/
def setLevel (s : State) (level : Nat) : State := setAll s (dies s) DBG_CTL.LEVEL level

/-- GO: check the response, or lock. Full debug fires source 0x09 before the level takes effect. -/
def checkResponse (s : State) : State :=
  let level := getF s 0 SEC_DBG_CMD.LEVEL
  let status := fun (s : State) (v : Nat) => setF s 0 SEC_DBG_CMD.STATUS v
  if getF s 0 SEC_DBG_CMD.FAILS = 3 then status s 4
  else if level = 0 then status (setLevel s 0) 0
  else if level = 3 then status s 5
  else match s.unlock.chal with
    | none => status s 3
    | some c =>
      let s := dropChallenge s
      if goodResponse s c level then
        let s := if level = 2 then fireAlarm s 9 else s
        status (setLevel s level) 1
      else failResponse s

/-- A write of SEC_DBG_CMD: LEVEL, then CHAL, then GO. -/
def writeDbgCmd (s : State) (val : Nat) : State :=
  let s := setF s 0 SEC_DBG_CMD.LEVEL (fld val 28 2)
  let s := if val.testBit 31 then challenge s else s
  if val.testBit 30 then checkResponse s else s

/-- DEBUG_CHALLENGE: a write of SEC_DBG_CMD with CHAL. -/
def execDebugChallenge (val : Nat) (s : State) : Result := .next (if secLive s && val.testBit 31 then writeDbgCmd s val else s)

/-- DEBUG_RESPONSE: a write of SEC_DBG_CMD with GO. -/
def execDebugResponse (val : Nat) (s : State) : Result := .next (if secLive s && val.testBit 30 then writeDbgCmd s val else s)

/-- DEBUG_CHALLENGE_EXPIRE: 60 s have passed without GO. -/
def execDebugChallengeExpire (s : State) : Result := .next (dropChallenge s)

/-! ## Alarm sources -/

/-- VOLTAGE_ALARM. -/
def execVoltageAlarm (d : Nat) (s : State) : Result := .next (if d < s.part.dieCnt ∧ secLive s then fireAlarm s 1 else s)

/-- TAMPER. -/
def execTamper (s : State) : Result := .next (if secLive s then fireAlarm s 4 else s)

/-- ZEROIZE_REQUEST: SEC_ZEROIZE.GO. -/
def execZeroizeRequest (s : State) : Result := .next (if secLive s then fireAlarm s 8 else s)

/-! ## Endorsement -/

/-- Sign the evidence public key with the identity key. -/
def endorse (s : State) : State :=
  match s.evd.key, s.idKey with
  | none, _ => setF s 0 SEC_END_CMD.STATUS 1
  | _, none => setF s 0 SEC_END_CMD.STATUS 2
  | some _, some k =>
    let digest := sha384 (bytesBE 8 s.part.dsn ++ bytesBE 4 (getF s 0 EVD_KEYID.VALUE) ++ pubkeyBytes s)
    let (r, s) := random s
    let sig := ecdsaSign k digest r
    let s := (List.range 24).foldl (fun s i => setF s 0 (SEC_END_SIG.DATA i) (sig / 2 ^ (32 * (23 - i)))) s
    setF s 0 SEC_END_CMD.STATUS 0

/-- ENDORSE: SEC_END_CMD.GO. -/
def execEndorse (s : State) : Result := .next (if secLive s then endorse s else s)

end Sys2Proof.Machine
end

