-- ==== Sys2Proof/Machine/Thermal.lean ====
section
/-!
DEFINITION. Throttling: thermal levels and the fence (R97 to R101), the package power governor (R431, R432), and the
search counts of a partition (R102).
-/

namespace Sys2Proof.Machine

/-! ## Thermal levels (R97) -/

/-- Level that a junction temperature reaches. -/
def levelAt (t : Nat) : Nat := if 110 ≤ t then 4 else if 105 ≤ t then 3 else if 100 ≤ t then 2 else if 95 ≤ t then 1 else 0

/-- Threshold of a level. -/
def threshold (l : Nat) : Nat := 90 + 5 * l

/-- Apply the larger of the thermal and the governor's counts (R99, R100); level 3 and the governor reach category 5. -/
def applyBlank (s : State) (d : Nat) : State :=
  let l := getF s d ATC_THROTTLE.T_LEVEL
  let t := 16 * min 3 l
  let g := getF s d PWR_BLANK.GOV
  setBlank s d (max t g) (max g (if 3 ≤ l then t else 0))

/-- THERMAL_LEVEL_RISE: at 110 °C the attic is fenced and the temperature alarm fires, also when
level 4 still stands after the fence was cleared. TEMP shows the reading in every case (R103). -/
def execThermalLevelRise (d temp : Nat) (s : State) : Result :=
  .next (
    let l := levelAt temp
    if s.part.dieCnt ≤ d || gone s d || s.inReset || 255 < temp then s
    else if l < getF s d ATC_THROTTLE.T_LEVEL || (l = getF s d ATC_THROTTLE.T_LEVEL && (l != 4 || isF s d ATC_THROTTLE.FENCED)) then
      setF s d ATC_THROTTLE.TEMP temp
    else
      let s := applyBlank (setF (setF s d ATC_THROTTLE.TEMP temp) d ATC_THROTTLE.T_LEVEL l) d
      if l < 4 then s
      else fireAlarm (raiseErr (setF s d ATC_THROTTLE.FENCED 1) d pgAtc ATC_ERR.FENCE it0) 3)

/-- THERMAL_LEVEL_FALL: one level, once the temperature has stayed 3 °C below the level's threshold; the fence stays. -/
def execThermalLevelFall (d temp : Nat) (s : State) : Result :=
  .next (
    let l := getF s d ATC_THROTTLE.T_LEVEL
    if s.part.dieCnt ≤ d || gone s d || s.inReset || 255 < temp then s
    else if l = 0 || threshold l < temp + 3 then setF s d ATC_THROTTLE.TEMP temp
    else applyBlank (setF (setF s d ATC_THROTTLE.TEMP temp) d ATC_THROTTLE.T_LEVEL (l - 1)) d)

/-- A write of ATC_THROTTLE: FENCED is cleared below 100 °C only. -/
def writeThrottle (s : State) (d val : Nat) : State :=
  if val.testBit 31 && decide (getF s d ATC_THROTTLE.TEMP < 100) then setF s d ATC_THROTTLE.FENCED 0 else s

/-- THERMAL_FENCE_CLEAR: a write of 1 to FENCED at a junction temperature. -/
def execThermalFenceClear (d temp : Nat) (s : State) : Result :=
  .next (if d < s.part.dieCnt then writeThrottle (setF s d ATC_THROTTLE.TEMP temp) d (2 ^ 31) else s)

/-! ## The governor (R431, R432) -/

/-- CS cycles for which a written PWR_EXT counts: 10 ms. -/
def extWindow : Nat := 15000000

/-- Package power the governor uses: the estimate, or PWR_EXT when it is larger, enabled and fresh. -/
def govPower (s : State) (est : Nat) : Nat :=
  let fresh := match s.extAt with
    | some t => decide (s.cyc ≤ t + extWindow)
    | none => false
  if isF s 0 PWR_GOV.EXT_EN && fresh then max est (getF s 0 PWR_EXT.WATTS) else est

/-- The next blanking count (R432). -/
def govCount (s : State) (p : Nat) : Nat :=
  let n := getF s 0 PWR_GOV_STS.COUNT
  let cap := getF s 0 PWR_CAP.CAP
  if getF s 0 PWR_CAP.EN = 0 then 0
  else if cap < p then min 48 (n + 1)
  else if p + getF s 0 PWR_CAP.HYST < cap then n - 1
  else n

/-- GOVERNOR_STEP: the dies' estimates and the CP share arrive from their sensors. -/
def execGovernorStep (ests : List Nat) (cp : Nat) (s : State) : Result :=
  .next (
    let live := (dies s).filter fun d => !gone s d
    if s.inReset then s
    else
      let s := live.foldl (fun s d => setF s d PWR_EST.EST (ests.getD d 0)) s
      if !domOn s 0 5 || gone s 0 then s
      else
        let p := min 65535 (govPower s (sumL (live.map fun d => getF s d PWR_EST.EST) + cp))
        let n := govCount s p
        let s := setF (setF s 0 PWR_GOV_STS.COUNT n) 0 PWR_GOV_STS.PKG p
        let s := if n < 48 || p ≤ getF s 0 PWR_CAP.CAP then setF s 0 PWR_GOV_STS.SHORT 0 else s
        live.foldl (fun s d => if getF s d PWR_BLANK.GOV = n then s else applyBlank (setF s d PWR_BLANK.GOV n) d) s)

/-- GOVERNOR_SHORT_TIMEOUT. -/
def execGovernorShortTimeout (s : State) : Result :=
  .next (
    if domOn s 0 5 && !s.inReset && getF s 0 PWR_GOV_STS.COUNT == 48 && decide (getF s 0 PWR_CAP.CAP < getF s 0 PWR_GOV_STS.PKG) then
      let s := setF s 0 PWR_GOV_STS.SHORT 1
      raiseErr s 0 pgPwr PWR_ERR.GOV_SHORT (it1 (readWord s 0 pgPwr 0 0xbc))
    else s)

/-! ## Partition counts (R102) -/

/-- A write of ATC_SEL_IDX: the partition's counts are copied, and cleared after the copy with CLR. -/
def writeSelIdx (s : State) (d val : Nat) : State :=
  let p := val % 256
  let k := (d * 256 + p) * 2
  let srch := mget 0 s.selCnt k
  let shelf := mget 0 s.selCnt (k + 1)
  let owned := ((List.range 1024).filter fun sh => isF s d SHELF_DESC.OWNED sh && getF s d SHELF_DESC.OWNER sh == p).length
  let s := setF s d ATC_SEL_IDX.PART p
  let s := setF (setF s d ATC_SEL_SRCH_LO.SRCH srch) d ATC_SEL_SRCH_HI.SRCH (srch / 2 ^ 32)
  let s := setF (setF s d ATC_SEL_SHELF_LO.SHELF shelf) d ATC_SEL_SHELF_HI.SHELF (shelf / 2 ^ 32)
  let s := setF s d ATC_SEL_OWNED.OWNED owned
  if val.testBit 31 then { s with selCnt := mset 0 (mset 0 s.selCnt k 0) (k + 1) 0 } else s

/-- PARTITION_COUNT_SELECT. -/
def execPartitionCountSelect (d val : Nat) (s : State) : Result := .next (if d < s.part.dieCnt then writeSelIdx s d val else s)

end Sys2Proof.Machine
end

