-- ==== Sys2Proof/Machine/Bus.lean ====
section
/-!
DEFINITION. Writing registers and windows (R13, R355, R502 to R516): the page header, the registers whose write is a command,
all others by their access codes, and the windows.
-/

namespace Sys2Proof.Machine

/-- The state a meaning answers with. -/
def stateOf (r : Result) (s : State) : State :=
  match r with
  | .next t => t
  | _ => s

/-! ## The page header (R442, R433, R503, R504) -/

/-- A write of a domain's power register, through the header of page `pg` or the power page (R433, R434). PWR_ASSIST is
read only once that page is locked, and FUSED falls when a field leaves its fused value. -/
def writeDomain (s : State) (d pg c off val : Nat) : State :=
  if !domExists s d c then s
  else if off = 0x84 then
    let s := setF s d PWR_VOTE.HOST val c
    if val.testBit 0 then wakeEvent s d c else s
  else if off = 0x88 then
    let s := setF (setF s d PWR_STATE.LOW (val / 2 ^ 16) c) d PWR_STATE.HYST val c
    if val.testBit 31 then retryWake s d c else s
  else if off = 0x90 ∧ !locked s d pg then
    let s := setF (setF s d PWR_ASSIST.FBB (val / 2 ^ 24) c) d PWR_ASSIST.RBB (val / 2 ^ 20) c
    let s := setF (setF s d PWR_ASSIST.VRET (val / 2 ^ 14) c) d PWR_ASSIST.WLUD (val / 2 ^ 10) c
    let same := [PWR_ASSIST.FBB, PWR_ASSIST.RBB, PWR_ASSIST.VRET, PWR_ASSIST.WLUD].all fun f => getF s d f c == f.rst
    setF s d PWR_ASSIST.FUSED (b2n same) c
  else s

/-- A write of ERR_SEV: fields whose reset class is F or S keep it. -/
def writeSev (s : State) (d pg val : Nat) : State :=
  if locked s d pg then s
  else (List.range 8).foldl (fun s i => if errResetClass pg i < 2 then setF s d (ERR_SEV.SEV pg i) (val / 4 ^ i) else s) s

/-- A write of PAGE_CTL: INJ_BIT is taken, then LOCK, then INJ acts on the bit named. -/
def writePageCtl (s : State) (d pg val : Nat) : State :=
  let s := setF s d (PAGE_CTL.INJ_BIT pg) val
  let s := if val.testBit 31 then setF s d (PAGE_CTL.LOCK pg) 1 else s
  if val.testBit 8 then inject s d pg (val % 32) else s

/-- A write of a header register. -/
def writeHeader (s : State) (d pg off val : Nat) : State :=
  match off with
  | 0x0C => writePageCtl s d pg val
  | 0x14 => setF s d (ERR_STICKY.BITS pg) (getF s d (ERR_STICKY.BITS pg) - (getF s d (ERR_STICKY.BITS pg) &&& val))
  | 0x18 => if locked s d pg then s else setF s d (ERR_MASK.MASK pg) (val &&& maskable s d pg)
  | 0x1C => writeSev s d pg val
  | 0x20 => if val.testBit 31 then endHandling s d pg else s
  | 0x34 => if val.testBit 31 then setF s d (ERR_NEXT_CNT.COUNT pg) 0 else s
  | 0x38 | 0x3C | 0x40 | 0x44 =>
    match pageDom s d pg with
    | some c => writeDomain s d pg c (off + 0x4C) val
    | none => s
  | _ => s

/-! ## Registers whose write is a command -/

/-- Package page: service release, image load, pair commands. -/
def writePkg (s : State) (off val : Nat) : State :=
  match off with
  | 0x84 => writeImgCmd s val
  | 0xC4 =>
    if !avail s then s
    else
      let s := (List.range 4).foldl (fun s p => if val.testBit (4 + p) then fenceMember s p (2 * p) else s) s
      let s := (List.range 4).foldl (fun s p => if val.testBit (8 + p) then fenceMember s p (2 * p + 1) else s) s
      let s := (List.range 4).foldl (fun s p => if val.testBit p then startRejoin s p else s) s
      startReturn s (fld val 12 4)
  | _ => writeWord s 0 pgPkg 0 off val

/-- Debug page: DBG_CMD of R233 and the channel release. -/
def writeDbg (s : State) (d off val : Nat) : State :=
  match off with
  | 0x88 =>
    match val % 8 with
    | 1 => stateOf (execHalt d s) s
    | 2 => stateOf (execResume d s) s
    | 3 => stateOf (execStep d s) s
    | 4 => stateOf (execKill d s) s
    | _ => s
  | 0x90 => stateOf (execDbgChannelRelease d val s) s
  | _ => writeWord s d pgDbg 0 off val

/-- Sequencer page: PRED_CLR acts at once; SEQ_STEP_IDX selects. -/
def writeSeq (s : State) (d off val : Nat) : State :=
  match off with
  | 0x80 =>
    let s := setF (setF s d SEQ_CTL.RA_EN (val / 2 ^ 16)) d SEQ_CTL.STEP_MAX val
    if val.testBit 17 then stateOf (execPredictorClear d s) s else s
  | 0xA0 => stateOf (execStepEntrySelect d val s) s
  | _ => writeWord s d pgSeq 0 off val

/-- Cellar page. On a die other than the lead die nothing acts (R278). -/
def writeCel (s : State) (acc off val : Nat) : State :=
  if off = 0x80 then writeCelCtl s val
  else if off = 0x88 then writeRgnOn s val
  else if 0xC0 ≤ off ∧ off < 0xE0 then writeKek s ((off - 0xC0) / 4) val (acc == 1)
  else if off = 0x120 then writeKcmd s val
  else if off = 0x200 then writeWcmd s val
  else writeWord s 0 pgCel 0 off val

/-- Bucket-cache page. A write of 0 to CCH_LFSR.STATE sets 0xACE1 (R293). -/
def writeCch (s : State) (d off val : Nat) : State :=
  match off with
  | 0x80 => writeCchCtl s d val
  | 0x84 => writeWays s d val
  | 0xA0 => writePreload s d val
  | 0xA8 => writeInv s d val
  | 0x90 => setF s d CCH_LFSR.STATE (if val % 2 ^ 16 = 0 then 0xACE1 else val)
  | 0xD0 => if val.testBit 31 then setF s d CCH_BLOCK_MAX.MAX 0 else s
  | _ => writeWord s d pgCch 0 off val

/-- Store-room page. -/
def writeStr (s : State) (d off val : Nat) : State :=
  match off with
  | 0x80 => writeStrCtl s d val
  | 0xAC => if val.testBit 31 then setF s d STR_FL_MAX.MAX 0 else s
  | _ => writeWord s d pgStr 0 off val

/-- A write of LKP_IF_CFG: an interface whose EN is cleared, or that the new MODE lacks, goes down; one that is enabled begins to
align, and one that was up and gets other lanes or another rate aligns anew (R303, R331; DEDUCED, log 59). -/
def writeIfCfg (s : State) (d val : Nat) : State :=
  let t := writeWord s d pgLkp 0 0x80 val
  (List.range 3).foldl (fun u j =>
    let lanes := ifLanes (getF t d LKP_IF_CFG.MODE) j
    if !(getF t d LKP_IF_CFG.EN).testBit j || lanes == 0 then setIfState u (3 * d + j) 0 0
    else if (lanes != ifLanes (getF s d LKP_IF_CFG.MODE) j || getF t d LKP_IF_CFG.RATE != getF s d LKP_IF_CFG.RATE) &&
        ifState s (3 * d + j) == 2 || ifState s (3 * d + j) == 0 then setIfState u (3 * d + j) 1 0
    else u) t

/-- Lookup page: the interfaces' configuration; channel registers apply to every die (R309). -/
def writeLkp (s : State) (d off val : Nat) : State :=
  if off = 0x80 then writeIfCfg s d val
  else if off = 0xA0 then (if val.testBit 31 then setF s d LKP_RWAIT.MAX 0 else s)
  else if 0x100 ≤ off ∧ off < 0x300 then writeChannel s d off val
  else writeWord s d pgLkp 0 off val

/-- Cascade page: a port whose enable is cleared carries nothing more; RETURN and RETRAIN start theirs unless they read 1. -/
def writeCsc (s : State) (off val : Nat) : State :=
  if off != 0x80 then s
  else
    let s := setF (setF s 0 CSC_CTL.D_EN (val / 2)) 0 CSC_CTL.U_EN val
    let s := [0, 1].foldl (fun s p => if isF s 0 (pEn p) then s else portDown s p) s
    let s := if val.testBit 8 && !isF s 0 CSC_CTL.RETURN then stateOf (execCascadeReturn s) s else s
    if val.testBit 9 && !isF s 0 CSC_CTL.RETRAIN then stateOf (execCascadeRetrain s) s else s

/-- Arbiter page: the selected instance's commit, counter selection, base levels and shadow table (R347, R348). -/
def writeArb (s : State) (d off val : Nat) : State :=
  let i := getF s d ARB_SEL.INST
  if off = 0x84 then (if val.testBit 31 && !isF s d ARB_CTL.COMMIT i then stateOf (execArbiterCommit d s) s else s)
  else if off = 0x90 then stateOf (execArbCounterSelect d val s) s
  else if 0xC0 ≤ off ∧ off < 0xD0 then
    (List.range 8).foldl (fun s j =>
      let o := 8 * ((off - 0xC0) / 4) + j
      if i = 0 && (o < 16 || o == 0x16) then s else setF s d (ARB_LEVEL.BASE o) (val / 16 ^ j) i) s
  else if 0x100 ≤ off ∧ off < 0x140 then (if isF s d ARB_STS.PEND i then s else writeWord s d pgArb i off val)
  else writeWord s d pgArb (bankAt s d pgArb off) off val

/-- Host-interface page: while a queue's EN is 1 its other registers ignore writes (R357). -/
def writeHif (s : State) (off val : Nat) : State :=
  let b := bankAt s 0 pgHif off
  if off = 0x88 then writeQCfg s b val
  else if off = 0xA8 then writeEqCfg s b val
  else if off = 0xC8 then (if val.testBit 31 then commitWindows s else s)
  else if (off = 0x8C || (decide (0x90 ≤ off ∧ off < 0xA0))) && isF s 0 HIF_Q_CFG.EN b then s
  else if (off = 0xAC || off = 0xB0 || off = 0xB4) && isF s 0 HIF_EQ_CFG.EN b then s
  else writeWord s 0 pgHif b off val

/-- Evidence page: the configuration is fixed while EN is 1, but for WRAP, EN and the read index. -/
def writeEvd (s : State) (off val : Nat) : State :=
  if off = 0x80 then writeEvdCtl s val
  else if 0x88 ≤ off ∧ off ≤ 0xA4 ∧ isF s 0 EVD_CTL.EN then s
  else writeWord s 0 pgEvd 0 off val

/-- Power page: the selector and what it shows; PWR_EXT counts from its write (R431). -/
def writePwr (s : State) (d off val : Nat) : State :=
  if off = 0x80 then writeDsel s d val
  else if 0x84 ≤ off ∧ off ≤ 0x90 then writeDomain s d pgPwr (getF s d PWR_DSEL.DOM) off val
  else if off = 0xB8 then { writeWord s 0 pgPwr 0 off val with extAt := some s.cyc }
  else writeWord s d pgPwr 0 off val

/-- Fault page of the lead die: engine reset and golden replay. -/
def writeFlt (s : State) (d off val : Nat) : State :=
  match off with
  | 0x90 => writeErst s val
  | 0xA0 => writeGr s val
  | _ => writeWord s d pgFlt 0 off val

/-- Security page. -/
def writeSec (s : State) (off val : Nat) : State :=
  match off with
  | 0x88 => if val.testBit 31 then fireAlarm s 8 else s
  | 0x94 => writeDbgCmd s val
  | 0x98 => if val.testBit 31 then endorse s else s
  | _ => writeWord s 0 pgSec 0 off val

/-- A write of a block register at offset 0x80 or above. -/
def writeBlock (s : State) (acc d pg off val : Nat) : State :=
  if leadOnly s d pg off then s
  else match pg with
    | 0 => writePkg s off val
    | 1 => if off = 0x80 then writeThrottle s d val else if off = 0xA0 then writeSelIdx s d val else writeWord s d pgAtc 0 off val
    | 3 => writeSeq s d off val
    | 4 => if off = 0xB8 then stateOf (execThreadRelease d val s) s else writeWord s d pgThr 0 off val
    | 5 => writeStr s d off val
    | 6 => if d = 0 then writeCel s acc off val else s
    | 7 => writeCch s d off val
    | 8 => writeLkp s d off val
    | 9 => writeCsc s off val
    | 10 => writeArb s d off val
    | 11 => writeHif s off val
    | 12 => if off = 0x84 then writeSite s d val else writeWord s d pgMss 0 off val
    | 13 => if off = 0x80 then writeTimCtl s val else writeWord s 0 pgTim 0 off val
    | 14 => writeEvd s off val
    | 15 => writePwr s d off val
    | 16 => if off = 0x80 then writeClkCtl s d val else s
    | 17 => writeFlt s d off val
    | 18 => writeSec s off val
    | 19 => writeDbg s d off val
    | 20 => if off = 0x80 then writeBsq s d val else s
    | _ => writeWord s d pg (bankAt s d pg off) off val

/-- Write a word of a page: absent pages ignore it (R4). -/
def writeReg (s : State) (acc d pg off val : Nat) : State :=
  if !present s d pg then s
  else if off < 0x80 then writeHeader s d pg off (val % 2 ^ 32)
  else writeBlock s acc d pg off (val % 2 ^ 32)

/-! ## Writing a site -/

/-- A word of the MSI-X table. -/
def writeMsix (s : State) (off val : Nat) : State :=
  if off % 16 = 12 then writeMsixCtl s (off / 16) (val.testBit 0)
  else { s with msixTab := mset 0 s.msixTab (off / 16 * 4 + off % 16 / 4) (val % 2 ^ 32) }

/-- Do a write of a word or of two words, the lower address first (R355). -/
def both (size : Nat) (val : Nat) (f : State → Nat → Nat → State) (s : State) : State :=
  let s := f s 0 (val % 2 ^ 32)
  if size = 8 then f s 4 (val / 2 ^ 32 % 2 ^ 32) else s

/-- Perform a write of 4 or 8 bytes at a site that is open; `bar` is the BAR0 offset. -/
def writeOpen (s : State) (acc : Nat) (x : Site) (bar size val : Nat) : State :=
  match x with
  | .page d pg off => both size val (fun s o v => writeReg s acc d pg (off + o) v) s
  | .part _ | .cell _ => schedule s acc bar val
  | .msix off => both size val (fun s o v => writeMsix s (off + o) v) s
  | .shelf d _ | .rows d _ => raiseErr s d pgAtc ATC_ERR.WIN_WR (it1 ((bar - 0x800000) % 0x800000))
  | .region d off => if s.part.unitS then writeSr s d off val else s
  | .slice d off => writeSliceWin s d off size val
  | .slotWrite d off => if s.part.unitS then slotWrite s d off size (setBE 0 0 32 (swap32 val)) else s
  | .store d _ => if s.part.unitS then swrReject s d 4 (it1 val) else s
  | .pba _ | .recipe _ _ | .reserved => s

/-- Sizes that a site refuses as Unsupported Request for a write: the store-room windows discard by their own rule. -/
def writeSizeOk (x : Site) (size : Nat) : Bool :=
  match x with
  | .store _ _ => true
  | _ => sizeOk x size

/-- Write 4 or 8 bytes at a site; the number is 0 done, 1 Unsupported Request, 2 discarded by a domain or die that cannot
answer, 3 waiting for a domain to wake. -/
def writeAt (s : State) (acc : Nat) (x : Site) (bar size val : Nat) : State × Nat :=
  if s.inReset then (s, 3)
  else if !writeSizeOk x size then (badAccess s bar, 1)
  else
    let (k, d, c) := siteGate s x
    if k = 2 then (s, 2)
    else if k = 1 then (wakeFor s d c, 3)
    else (writeOpen s acc x bar size val, 0)

/-- Write at a BAR0 offset. -/
def busWrite (s : State) (acc bar size val : Nat) : State × Nat := writeAt s acc (siteAt s bar) bar size val

/-- REGISTER_WRITE: an accessor writes a register word; fields take it by their access codes. -/
def execRegisterWrite (acc d pg off val : Nat) (s : State) : Result :=
  .next (if pg ≤ 21 then (writeAt s acc (.page d pg off) (pageBar d pg off) 4 val).1 else s)

end Sys2Proof.Machine
end

