-- ==== Sys2Proof/Machine/Ring.lean ====
section
/-!
DEFINITION. The die ring (R107 to R112), heartbeats (R131), and the management messages whose effect is their own
(R446, R518): resent cells, path faults, fault reports, descriptor copies and reserved types.
-/

namespace Sys2Proof.Machine

/-! ## Cells and paths -/

/-- A die's record for the evidence unit met an uncorrectable flit on its way: its cell is dropped. Its arrival is a command
without operands, so that the time-out names the error (log 61). -/
def dropRecord (s : State) (a : Arrival) : State :=
  let me := RCell.named a.key 5 (mgmtId 7 a.key)
  match s.ringAir.find? me with
  | some c => if 4 ≤ a.flit then { flitSeen s 0 5 a.flit with ringAir := rmFirst me s.ringAir, dropped := s.dropped ++ [c] } else s
  | none => s

/-- RING_RESEND_TIMEOUT: a die repeats its oldest background cell whose poisoned copy was dropped (R107). -/
def execRingResendTimeout (a : Arrival) (s : State) : Result :=
  .next (
    let p := fun (c : RCell) => c.src == a.key
    let s := if s.dropped.any p then s else dropRecord s a
    match s.dropped.find? p with
    | none => s
    | some c => bumpSat { s with dropped := rmFirst p s.dropped, ringQ := s.ringQ ++ [c] } a.key ARB_RS_MGMT.RESENT)

/-- A search that crosses a stop during a switch of path carries LOST (R112). -/
def loseCell (x : Search) : Search := { x with lost := true }

/-- RING_PATH_FAULT: the path in use of direction `dir` (0 clockwise, 1 counter-clockwise) of die `d`'s stop fails. The stop
switches to the other path, or, when that one has failed before, the direction is lost. `sids` are the searches that cross
the stop meanwhile. -/
def execRingPathFault (d dir : Nat) (sids : List Nat) (s : State) : Result :=
  .next (
    let alt := if dir = 0 then ARB_RS_PATH.CW_ALT else ARB_RS_PATH.CCW_ALT
    let fail := if dir = 0 then ARB_RS_PATH.CW_FAIL else ARB_RS_PATH.CCW_FAIL
    if s.part.dieCnt ≤ d || 1 < dir || isF s d fail then s
    else
      let s := { s with searches := updWhere (fun x => sids.contains x.sid) loseCell s.searches }
      if isF s d alt then raiseErr (setF s d fail 1) d pgRs RS_ERR.PATH_FAIL (it1 dir)
      else raiseErr (bumpSat (setF s d alt 1) d ARB_RS_PATH.SWITCHES) d pgRs RS_ERR.PATH_SWITCH (it1 dir))

/-! ## Heartbeats -/

/-- The ring stop of the die works. -/
def stopLive (s : State) (d : Nat) : Bool := decide (d < s.part.dieCnt) && !gone s d && !s.inReset

/-- HEARTBEAT_SEND: one management cell to the pair partner; its MID is the sender's choice (R518). -/
def execHeartbeatSend (d : Nat) (s : State) : Result :=
  .next (
    if stopLive s d then
      let (mid, s) := freeVal s
      queueCell s d 5 0 (mgmtCell 9 (partner d) 0 0 mid 0)
    else s)

/-- HEARTBEAT_TIMEOUT: die `d` has missed its partner's heartbeat for 64 CQ cycles, which are four heartbeats; the partner
is lost (R131). -/
def execHeartbeatTimeout (d : Nat) (s : State) : Result :=
  .next (
    if avail s && stopLive s d && stopLive s (partner d) then loseDie (bumpSat s d ARB_RS_MGMT.HB_MISS 4) (partner d) else s)

/-! ## Management messages -/

/-- MGMT_FAULT_REPORT: the oldest report of die `d` reaches the lead die, which interrupts the host (R446). -/
def execMgmtFaultReport (a : Arrival) (s : State) : Result :=
  .next (
    let p := fun (m : Mgmt) => m.type == 8 && m.mid == a.key
    if s.mgmt.any p then
      let (t, ok) := takeCell s 0 a.key 5 (mgmtId 8 a.key) a.flit
      if ok then sendMsix { t with mgmt := rmFirst p t.mgmt } (getF t 0 FLT_ROUTE.VEC) else t
    else s)

/-- Copy the register fields of one bank of a page from a die to another. -/
def copyBank (s : State) (src dst pg bank : Nat) : State :=
  let k := 64 * 65536 * 4096 * 32
  let on := fun (q : Nat × Nat) (d : Nat) => q.1 / (4096 * 32) == (d * 64 + pg) * 65536 + bank
  let kept := s.regs.filter fun q => !on q dst
  { s with regs := (s.regs.filter fun q => on q src).foldl (fun m q => mins m (q.1 - src * k + dst * k) q.2) kept }

/-- MGMT_DESCRIPTOR_COPY: a descriptor of die `src` reaches die `d`: 0 partition, 1 cellar region, 2 store-room region,
3 shelf; kind 4, a wrapped key copy, changes nothing, since the model holds the key slots once (R261). -/
def execMgmtDescriptorCopy (src : Nat) (a : Arrival) (kind idx : Nat) (s : State) : Result :=
  .next (
    let (s, ok) := takeCell s a.key src 5 (mgmtId 0xB (idx * 8 + kind)) a.flit
    if !ok || !stopLive s a.key || !stopLive s src || src = a.key then s
    else match kind with
      | 0 => if idx < 256 then copyBank s src a.key pgPart idx else s
      | 1 => if idx < 256 then copyBank s src a.key pgCr idx else s
      | 2 => if idx < 256 then copyBank s src a.key pgSr idx else s
      | 3 => if idx < 1024 then copyBank s src a.key pgShelf idx else s
      | _ => s)

/-- MGMT_RESERVED_TYPE: die `d` discards the message and records it; `dir` is the direction it came from (R506, R518). -/
def execMgmtReservedType (d dir : Nat) (s : State) : Result :=
  .next (if stopLive s d then raiseErr s d pgRs RS_ERR.FLIT_UNC (it2 (dir % 2) 5) else s)

end Sys2Proof.Machine
end

