-- ==== Sys2Proof/Machine/Mgmt.lean ====
section
/-!
DEFINITION. Register traffic on the ring (R518): read and write messages performed on their die, and read completions.
-/

namespace Sys2Proof.Machine

/-- The site of an offset in the region of a die. -/
def msgSite (s : State) (d off : Nat) : Site := dieSite s d (off % 0x800000)

/-- BAR0 offset of a place in a die's region. -/
def dieBar (d off : Nat) : Nat := 0x800000 * (d + 1) + off % 0x800000

/-- MGMT_REG_READ: a read of 4 or 8 bytes at an offset of the die's region is performed, and its completion starts back. -/
def execMgmtRegRead (acc : Nat) (a : Arrival) (off size : Nat) (s : State) : Result :=
  .next (
    let (s, ok) := takeCell s a.key 0 5 (mgmtId 1 acc) a.flit
    if !ok || s.part.dieCnt ≤ a.key || (size != 4 && size != 8) then s
    else
      let (s, r) := readSite s acc (msgSite s a.key off) (dieBar a.key off) size
      match r with
      | some (st, v) =>
        let s := queueMgmt s a.key 0 3 acc 1 ((st % 8 * 2 ^ 64 + v % 2 ^ 64) * 2 ^ 228)
        { s with mgmt := s.mgmt ++ [{ type := 3, dest := 0, mid := a.key, acc := acc, off := off, size := size, data := v, status := st }] }
      | none => s)

/-- MGMT_REG_WRITE: a write of 4, 8, 64 or 128 bytes at an offset of the die's region is performed. A number of 4 or 8 bytes
is the register value; longer data is the byte image, first byte most significant. -/
def execMgmtRegWrite (acc : Nat) (a : Arrival) (off size data : Nat) (s : State) : Result :=
  .next (
    let (s, ok) := takeCell s a.key 0 5 (mgmtId 2 acc) a.flit
    if !ok || s.part.dieCnt ≤ a.key then s
    else match size with
      | 4 | 8 => (writeAt s acc (msgSite s a.key off) (dieBar a.key off) size data).1
      | 64 | 128 =>
        let x := msgSite s a.key off
        let (k, e, c) := siteGate s x
        if s.inReset then s
        else match x with
          | .slotWrite _ o =>
            if !s.part.unitS || k = 2 then s else if k = 1 then wakeFor s e c
            else slotWrite s a.key o size (BitVec.ofNat 512 data)
          | .store _ o =>
            if !s.part.unitS || k = 2 then s else if k = 1 then wakeFor s e c
            else if o % size != 0 then swrReject s a.key 4 (it1 (data / 2 ^ (8 * size - 32) % 2 ^ 32))
            else if size = 128 then writeStoreWin s a.key o 15 false fun _ => ⟨BitVec.ofNat 1024 data, 0⟩
            else writeStoreWin s a.key o (halfSlots (o % 128)) false (putHalf64 (o % 128) data)
          | .reserved => s
          | _ => badAccess s (dieBar a.key off)
      | _ => s)

/-- MGMT_READ_COMPLETION: the oldest completion of an accessor's reads reaches it. -/
def execMgmtReadCompletion (a : Arrival) (s : State) : Result :=
  .next (
    let p := fun (m : Mgmt) => m.type == 3 && m.acc == a.key
    match s.mgmt.find? p with
    | some m =>
      let (s, ok) := takeCell s 0 m.mid 5 (mgmtId 3 a.key) a.flit
      if ok then emitOut { s with mgmt := rmFirst p s.mgmt } (.readData a.key m.status m.data) else s
    | none => s)

end Sys2Proof.Machine
end

