-- ==== Sys2Proof/Machine/SMBus.lean ====
section
/-!
DEFINITION. The SMBus management port and its hatch (R427 to R430).
-/

namespace Sys2Proof.Machine

/-- The port answers: CP is ON. -/
def portLive (s : State) : Bool := domOn s 0 5 && !gone s 0 && !s.inReset

/-- SMBUS_REGISTER_WRITE: command 0x10; a write whose PEC fails is discarded, and one that cannot be performed is answered
with NACK. -/
def execSmbusRegisterWrite (addr val : Nat) (pecFail : Bool) (s : State) : Result :=
  .next (
    if !portLive s || pecFail then s
    else
      let (s, k) := busWrite s 1 addr 4 (val % 2 ^ 32)
      if k = 1 ∨ k = 2 then emitOut s .smbusNack else s)

/-- SMBUS_SET_READ_ADDRESS: command 0x11. -/
def execSmbusSetReadAddress (addr : Nat) (pecFail : Bool) (s : State) : Result :=
  .next (if !portLive s || pecFail then s else { s with sm := { s.sm with rdAddr := addr % 2 ^ 32 } })

/-- SMBUS_BLOCK_READ: command 0x12; four bytes, most significant first, and the read address advances by 4. -/
def execSmbusBlockRead (s : State) : Result :=
  .next (
    if !portLive s then s
    else
      let a := s.sm.rdAddr
      let (s, r) := busRead s 1 a 4
      match r with
      | some (0, v) => emitOut { s with sm := { s.sm with rdAddr := (a + 4) % 2 ^ 32 } } (.smbus (bytesBE 4 v))
      | some _ => emitOut s .smbusNack
      | none => s)

/-- HATCH_LATCH_READ: command 0xF7; bit 3 of the latch is cleared. -/
def execHatchLatchRead (s : State) : Result :=
  .next (
    if s.inReset then s
    else emitOut { s with sm := { s.sm with latch := s.sm.latch % 8 } } (.smbus [0xA0 + s.sm.latch % 16]))

/-- A hatch wake has failed: the latch takes the code, SCL is released and the address is answered with NACK. -/
def hatchFail (s : State) (code : Nat) : State :=
  emitOut { s with sm := { s.sm with latch := 8 + code % 8, due := true, stretching := false } } .smbusNack

/-- HATCH_ADDRESS_MATCH: while CP is not ON, SCL is held and CP gets a wake event; a FAILED CP fails at once. -/
def execHatchAddressMatch (s : State) : Result :=
  .next (
    if !domLive s 0 5 || domOn s 0 5 then s
    else if domFailed s 0 5 then hatchFail s 4
    else wakeEvent { s with sm := { s.sm with stretching := true } } 0 5)

/-- HATCH_WAKE_FAIL: the stretch reached 20 ms (`limit`), or CP reached FAILED for want of supply-good or of PLL lock. -/
def execHatchWakeFail (limit : Bool) (s : State) : Result :=
  .next (
    if !s.sm.stretching then s
    else if limit then hatchFail s 3
    else if domFailed s 0 5 then hatchFail s (if getF s 0 PWR_REFUSE.LAST 5 = 0x21 then 2 else 1)
    else s)

/-- SMBUS_TIMEOUT: SCL low for 25 ms resets the port's interface; SCL is held no longer. -/
def execSmbusTimeout (s : State) : Result := .next { s with sm := { s.sm with stretching := false } }

end Sys2Proof.Machine
end

