-- ==== Sys2Proof/Machine/Dispatch.lean ====
section
/-!
DEFINITION. Dispatch: every command to its meaning.
-/

namespace Sys2Proof.Machine

/-- What a command does to everything but the queue. -/
def exec (i : Instr) (s : State) : Host.Outcome State Fault Refusal :=
  match i with
  | .lookupBurstReceive iface chan hdr payload len oneBurst crcFail => Sys2Proof.Machine.execLookupBurstReceive iface chan hdr payload len oneBurst crcFail s
  | .ingressRelease iface => Sys2Proof.Machine.execIngressRelease iface s
  | .ledgerEntryAck id => Sys2Proof.Machine.execLedgerEntryAck id s
  | .admission id => Sys2Proof.Machine.execAdmission id s
  | .tableWriteAdmit id => Sys2Proof.Machine.execTableWriteAdmit id s
  | .responseDeparture id => Sys2Proof.Machine.execResponseDeparture id s
  | .xoffReceive iface chan xoff => Sys2Proof.Machine.execXoffReceive iface chan xoff s
  | .laneFail iface lane => Sys2Proof.Machine.execLaneFail iface lane s
  | .interfaceUp iface => Sys2Proof.Machine.execInterfaceUp iface s
  | .channelCfgWrite d chan val => Sys2Proof.Machine.execChannelCfgWrite d chan val s
  | .channelBufWrite d chan val => Sys2Proof.Machine.execChannelBufWrite d chan val s
  | .xtr d t => Sys2Proof.Machine.execXtr d t s
  | .lit d t => Sys2Proof.Machine.execLit d t s
  | .hsh d t => Sys2Proof.Machine.execHsh d t s
  | .srch d t => Sys2Proof.Machine.execSrch d t s
  | .probe d t => Sys2Proof.Machine.execProbe d t s
  | .cfetch d t => Sys2Proof.Machine.execCfetch d t s
  | .stamp d t => Sys2Proof.Machine.execStamp d t s
  | .log d t => Sys2Proof.Machine.execLog d t s
  | .fork d t => Sys2Proof.Machine.execFork d t s
  | .join d t => Sys2Proof.Machine.execJoin d t s
  | .send d t => Sys2Proof.Machine.execSend d t s
  | .waite d t => Sys2Proof.Machine.execWaite d t s
  | .commit d t => Sys2Proof.Machine.execCommit d t s
  | .emit d t => Sys2Proof.Machine.execEmit d t s
  | .trap d t => Sys2Proof.Machine.execTrap d t s
  | .endThread d t => Sys2Proof.Machine.execEnd d t s
  | .unusedOpcodeFetch d t => Sys2Proof.Machine.execUnusedOpcodeFetch d t s
  | .recipeWordRestore d addr => Sys2Proof.Machine.execRecipeWordRestore d addr s
  | .searchLaunch sid => Sys2Proof.Machine.execSearchLaunch sid s
  | .dieContribution sid d => Sys2Proof.Machine.execDieContribution sid d s
  | .packageMerge sid => Sys2Proof.Machine.execPackageMerge sid s
  | .pairReverify => Sys2Proof.Machine.execPairReverify s
  | .speculationResolve d t => Sys2Proof.Machine.execSpeculationResolve d t s
  | .cascadeSearchFrame first rest => Sys2Proof.Machine.execCascadeSearchFrame first rest s
  | .cascadeContribFrame first rest => Sys2Proof.Machine.execCascadeContribFrame first rest s
  | .cascadeControlBeat port beat => Sys2Proof.Machine.execCascadeControlBeat port beat s
  | .cascadeBadTypeBeat port => Sys2Proof.Machine.execCascadeBadTypeBeat port s
  | .contribTimeout sid => Sys2Proof.Machine.execContribTimeout sid s
  | .cascadeLaneFail port lane => Sys2Proof.Machine.execCascadeLaneFail port lane s
  | .cascadeDropTimeout port => Sys2Proof.Machine.execCascadeDropTimeout port s
  | .cascadeRetrainDone port ok lanes => Sys2Proof.Machine.execCascadeRetrainDone port ok lanes s
  | .cascadeLinkUp port lanes npos flight below => Sys2Proof.Machine.execCascadeLinkUp port lanes npos flight below s
  | .cascadeReturn => Sys2Proof.Machine.execCascadeReturn s
  | .cascadeLaneReturnReady port lane => Sys2Proof.Machine.execCascadeLaneReturnReady port lane s
  | .cascadeRetrain => Sys2Proof.Machine.execCascadeRetrain s
  | .ringResendTimeout d => Sys2Proof.Machine.execRingResendTimeout d s
  | .ringPathFault d dir sids => Sys2Proof.Machine.execRingPathFault d dir sids s
  | .mgmtRegRead acc d off size => Sys2Proof.Machine.execMgmtRegRead acc d off size s
  | .mgmtRegWrite acc d off size data => Sys2Proof.Machine.execMgmtRegWrite acc d off size data s
  | .mgmtReadCompletion acc => Sys2Proof.Machine.execMgmtReadCompletion acc s
  | .mgmtUpdateCommand cid => Sys2Proof.Machine.execMgmtUpdateCommand cid s
  | .mgmtCommandCompletion cid => Sys2Proof.Machine.execMgmtCommandCompletion cid s
  | .mgmtCellarData id => Sys2Proof.Machine.execMgmtCellarData id s
  | .mgmtFaultReport d => Sys2Proof.Machine.execMgmtFaultReport d s
  | .mgmtDescriptorCopy src d kind idx => Sys2Proof.Machine.execMgmtDescriptorCopy src d kind idx s
  | .mgmtReservedType d dir => Sys2Proof.Machine.execMgmtReservedType d dir s
  | .mirrorCellReceive cid => Sys2Proof.Machine.execMirrorCellReceive cid s
  | .heartbeatSend d => Sys2Proof.Machine.execHeartbeatSend d s
  | .heartbeatTimeout d => Sys2Proof.Machine.execHeartbeatTimeout d s
  | .pairMemberLost d => Sys2Proof.Machine.execPairMemberLost d s
  | .pairChannelReturn mask => Sys2Proof.Machine.execPairChannelReturn mask s
  | .channelReturnDrained chan => Sys2Proof.Machine.execChannelReturnDrained chan s
  | .pairRejoin p => Sys2Proof.Machine.execPairRejoin p s
  | .rejoinCopyDone p => Sys2Proof.Machine.execRejoinCopyDone p s
  | .rejoinCheckExpire p => Sys2Proof.Machine.execRejoinCheckExpire p s
  | .pairFenceEven p => Sys2Proof.Machine.execPairFenceEven p s
  | .pairFenceOdd p => Sys2Proof.Machine.execPairFenceOdd p s
  | .write d cid => Sys2Proof.Machine.execWrite d cid s
  | .writeCont d cid => Sys2Proof.Machine.execWriteCont d cid s
  | .delete d cid => Sys2Proof.Machine.execDelete d cid s
  | .insertShift d cid => Sys2Proof.Machine.execInsertShift d cid s
  | .move d cid => Sys2Proof.Machine.execMove d cid s
  | .setState d cid => Sys2Proof.Machine.execSetState d cid s
  | .genFlip d cid => Sys2Proof.Machine.execGenFlip d cid s
  | .genFlipApply part => Sys2Proof.Machine.execGenFlipApply part s
  | .genClear d cid => Sys2Proof.Machine.execGenClear d cid s
  | .shelf d cid => Sys2Proof.Machine.execShelf d cid s
  | .compact d cid => Sys2Proof.Machine.execCompact d cid s
  | .bulkLoad d cid => Sys2Proof.Machine.execBulkLoad d cid s
  | .bulkRecordRead d cid data fail => Sys2Proof.Machine.execBulkRecordRead d cid data fail s
  | .spare d cid => Sys2Proof.Machine.execSpare d cid s
  | .barrier d cid => Sys2Proof.Machine.execBarrier d cid s
  | .unknownCommand d cid => Sys2Proof.Machine.execUnknownCommand d cid s
  | .updatePortOperation d cid => Sys2Proof.Machine.execUpdatePortOperation d cid s
  | .updateGuardExpire d gra => Sys2Proof.Machine.execUpdateGuardExpire d gra s
  | .commandComplete cid => Sys2Proof.Machine.execCommandComplete cid s
  | .scrubRow d => Sys2Proof.Machine.execScrubRow d s
  | .storeRoomStepDone id => Sys2Proof.Machine.execStoreRoomStepDone id s
  | .cacheFillAllocate id b => Sys2Proof.Machine.execCacheFillAllocate id b s
  | .fillLineArrive id ecc => Sys2Proof.Machine.execFillLineArrive id ecc s
  | .fillInstall id => Sys2Proof.Machine.execFillInstall id s
  | .slotWriteRecord d off len data => Sys2Proof.Machine.execSlotWriteRecord d off len data s
  | .slotWriteApply d => Sys2Proof.Machine.execSlotWriteApply d s
  | .mbufDrainStart d => Sys2Proof.Machine.execMbufDrainStart d s
  | .mbufDrainAccept id crcFail => Sys2Proof.Machine.execMbufDrainAccept id crcFail s
  | .arbiterSlotGrant d inst ready lockOwner n => Sys2Proof.Machine.execArbiterSlotGrant d inst ready lockOwner n s
  | .arbiterCommit d => Sys2Proof.Machine.execArbiterCommit d s
  | .arbiterTableSwitch d inst => Sys2Proof.Machine.execArbiterTableSwitch d inst s
  | .patrolScrubRead d ecc => Sys2Proof.Machine.execPatrolScrubRead d ecc s
  | .cellarFetchEntryGrant id => Sys2Proof.Machine.execCellarFetchEntryGrant id s
  | .atsTranslationCompletion id k range granted => Sys2Proof.Machine.execAtsTranslationCompletion id k range granted s
  | .cellarReadCompletion id data fail => Sys2Proof.Machine.execCellarReadCompletion id data fail s
  | .pcieCompletionTimeout kind id => Sys2Proof.Machine.execPcieCompletionTimeout kind id s
  | .promotion d => Sys2Proof.Machine.execPromotion d s
  | .noticeWrite chan => Sys2Proof.Machine.execNoticeWrite chan s
  | .noticeTimeout chan => Sys2Proof.Machine.execNoticeTimeout chan s
  | .kekWrite k val smbus => Sys2Proof.Machine.execKekWrite k val smbus s
  | .keyLoad val => Sys2Proof.Machine.execKeyLoad val s
  | .keyClear val => Sys2Proof.Machine.execKeyClear val s
  | .cellarWrite val => Sys2Proof.Machine.execCellarWrite val s
  | .cellarWriteComplete bucket tag err => Sys2Proof.Machine.execCellarWriteComplete bucket tag err s
  | .cellarEnable val => Sys2Proof.Machine.execCellarEnable val s
  | .cellarDisable val => Sys2Proof.Machine.execCellarDisable val s
  | .regionOnline val => Sys2Proof.Machine.execRegionOnline val s
  | .regionOffline val => Sys2Proof.Machine.execRegionOffline val s
  | .partitionDescWrite n => Sys2Proof.Machine.execPartitionDescWrite n s
  | .srRegionWrite d off val => Sys2Proof.Machine.execSrRegionWrite d off val s
  | .crRegionWrite n => Sys2Proof.Machine.execCrRegionWrite n s
  | .packageWindowWrite acc off val => Sys2Proof.Machine.execPackageWindowWrite acc off val s
  | .targetCycleApply => Sys2Proof.Machine.execTargetCycleApply s
  | .moduleFail d => Sys2Proof.Machine.execModuleFail d s
  | .storeChannelEnable d val => Sys2Proof.Machine.execStoreChannelEnable d val s
  | .storeChannelDisable d val => Sys2Proof.Machine.execStoreChannelDisable d val s
  | .channelTrained d gib => Sys2Proof.Machine.execChannelTrained d gib s
  | .storeResyncDone d => Sys2Proof.Machine.execStoreResyncDone d s
  | .storeWindowRead acc d off size ecc => Sys2Proof.Machine.execStoreWindowRead acc d off size ecc s
  | .storeWindowWrite128 d off data => Sys2Proof.Machine.execStoreWindowWrite128 d off data s
  | .storeWindowWrite64 d off data => Sys2Proof.Machine.execStoreWindowWrite64 d off data s
  | .storeWindowBadWrite d off len word => Sys2Proof.Machine.execStoreWindowBadWrite d off len word s
  | .atticWindowRead acc d off size => Sys2Proof.Machine.execAtticWindowRead acc d off size s
  | .atticWindowWrite d off => Sys2Proof.Machine.execAtticWindowWrite d off s
  | .recipeWindowRead acc d off size => Sys2Proof.Machine.execRecipeWindowRead acc d off size s
  | .sliceWindowWrite d off size val => Sys2Proof.Machine.execSliceWindowWrite d off size val s
  | .cachePreload d val => Sys2Proof.Machine.execCachePreload d val s
  | .cachePreloadDone d badAt => Sys2Proof.Machine.execCachePreloadDone d badAt s
  | .cacheRangeInvalidate d val => Sys2Proof.Machine.execCacheRangeInvalidate d val s
  | .cacheRangeInvalidateDone d => Sys2Proof.Machine.execCacheRangeInvalidateDone d s
  | .lockedLineRefetch d line ecc => Sys2Proof.Machine.execLockedLineRefetch d line ecc s
  | .cacheWaysWrite d val => Sys2Proof.Machine.execCacheWaysWrite d val s
  | .wayCleanDone d w => Sys2Proof.Machine.execWayCleanDone d w s
  | .cacheEnableWrite d val => Sys2Proof.Machine.execCacheEnableWrite d val s
  | .sqDoorbell q val => Sys2Proof.Machine.execSqDoorbell q val s
  | .cqHeadDoorbell q val => Sys2Proof.Machine.execCqHeadDoorbell q val s
  | .eqHeadDoorbell c val => Sys2Proof.Machine.execEqHeadDoorbell c val s
  | .sqFetch q => Sys2Proof.Machine.execSqFetch q s
  | .sqFetchCompletion q data fail => Sys2Proof.Machine.execSqFetchCompletion q data fail s
  | .cqEntryWrite q => Sys2Proof.Machine.execCqEntryWrite q s
  | .queueEnable q val => Sys2Proof.Machine.execQueueEnable q val s
  | .eventQueueEnable c val => Sys2Proof.Machine.execEventQueueEnable c val s
  | .msixUnmask v => Sys2Proof.Machine.execMsixUnmask v s
  | .busMasterDisable => Sys2Proof.Machine.execBusMasterDisable s
  | .busMasterEnable cfg pasid => Sys2Proof.Machine.execBusMasterEnable cfg pasid s
  | .flr => Sys2Proof.Machine.execFlr s
  | .quarantineExpire => Sys2Proof.Machine.execQuarantineExpire s
  | .linkDown => Sys2Proof.Machine.execLinkDown s
  | .atsInvalidation pasid page log2 => Sys2Proof.Machine.execAtsInvalidation pasid page log2 s
  | .atsInvalidationComplete => Sys2Proof.Machine.execAtsInvalidationComplete s
  | .atsDisable ats pasid => Sys2Proof.Machine.execAtsDisable ats pasid s
  | .peerCommandWrite off data => Sys2Proof.Machine.execPeerCommandWrite off data s
  | .peerCommandDispatch w => Sys2Proof.Machine.execPeerCommandDispatch w s
  | .peerSlotWrite off data => Sys2Proof.Machine.execPeerSlotWrite off data s
  | .peerUnmatchedWrite off => Sys2Proof.Machine.execPeerUnmatchedWrite off s
  | .peerBadWrite off len => Sys2Proof.Machine.execPeerBadWrite off len s
  | .peerWindowCommit => Sys2Proof.Machine.execPeerWindowCommit s
  | .modulePowerOn d val => Sys2Proof.Machine.execModulePowerOn d val s
  | .modulePowerOff d val => Sys2Proof.Machine.execModulePowerOff d val s
  | .indicatorChange d val => Sys2Proof.Machine.execIndicatorChange d val s
  | .moduleCommandComplete d => Sys2Proof.Machine.execModuleCommandComplete d s
  | .attentionButton d => Sys2Proof.Machine.execAttentionButton d s
  | .presenceChange d here => Sys2Proof.Machine.execPresenceChange d here s
  | .inputStuck d pin => Sys2Proof.Machine.execInputStuck d pin s
  | .ppsEdge idle => Sys2Proof.Machine.execPpsEdge idle s
  | .todArm val => Sys2Proof.Machine.execTodArm val s
  | .ppsStuckTimeout => Sys2Proof.Machine.execPpsStuckTimeout s
  | .ppsMissingTimeout => Sys2Proof.Machine.execPpsMissingTimeout s
  | .holdoverExpire => Sys2Proof.Machine.execHoldoverExpire s
  | .timeCellBroadcast => Sys2Proof.Machine.execTimeCellBroadcast s
  | .timeCellReceive d => Sys2Proof.Machine.execTimeCellReceive d s
  | .localTimeTimeout d => Sys2Proof.Machine.execLocalTimeTimeout d s
  | .refSelectChange val => Sys2Proof.Machine.execRefSelectChange val s
  | .evidenceRecord => Sys2Proof.Machine.execEvidenceRecord s
  | .checkpointIdleTimeout => Sys2Proof.Machine.execCheckpointIdleTimeout s
  | .checkpointSigned => Sys2Proof.Machine.execCheckpointSigned s
  | .evidenceEnable val => Sys2Proof.Machine.execEvidenceEnable val s
  | .signingKeyGenerated => Sys2Proof.Machine.execSigningKeyGenerated s
  | .evidenceDisable val => Sys2Proof.Machine.execEvidenceDisable val s
  | .thermalLevelRise d temp => Sys2Proof.Machine.execThermalLevelRise d temp s
  | .thermalLevelFall d temp => Sys2Proof.Machine.execThermalLevelFall d temp s
  | .thermalFenceClear d temp => Sys2Proof.Machine.execThermalFenceClear d temp s
  | .governorStep ests cp => Sys2Proof.Machine.execGovernorStep ests cp s
  | .governorShortTimeout => Sys2Proof.Machine.execGovernorShortTimeout s
  | .partitionCountSelect d val => Sys2Proof.Machine.execPartitionCountSelect d val s
  | .stepEntrySelect d val => Sys2Proof.Machine.execStepEntrySelect d val s
  | .arbCounterSelect d val => Sys2Proof.Machine.execArbCounterSelect d val s
  | .powerDomainSelect d val => Sys2Proof.Machine.execPowerDomainSelect d val s
  | .latchingLoRead acc d pg off => Sys2Proof.Machine.execLatchingLoRead acc d pg off s
  | .predictorClear d => Sys2Proof.Machine.execPredictorClear d s
  | .sendSlotGrant d ch => Sys2Proof.Machine.execSendSlotGrant d ch s
  | .messageVisible d ch => Sys2Proof.Machine.execMessageVisible d ch s
  | .eventTimeout d t => Sys2Proof.Machine.execEventTimeout d t s
  | .forkWaitGrant d => Sys2Proof.Machine.execForkWaitGrant d s
  | .forkTimeout d t => Sys2Proof.Machine.execForkTimeout d t s
  | .faultNoticeDispatch d => Sys2Proof.Machine.execFaultNoticeDispatch d s
  | .threadRelease d val => Sys2Proof.Machine.execThreadRelease d val s
  | .quiesceFire d => Sys2Proof.Machine.execQuiesceFire d s
  | .quiesceKill d => Sys2Proof.Machine.execQuiesceKill d s
  | .halt d => Sys2Proof.Machine.execHalt d s
  | .resume d => Sys2Proof.Machine.execResume d s
  | .step d => Sys2Proof.Machine.execStep d s
  | .kill d => Sys2Proof.Machine.execKill d s
  | .haltedBudgetAbort d t => Sys2Proof.Machine.execHaltedBudgetAbort d t s
  | .dbgChannelRelease d val => Sys2Proof.Machine.execDbgChannelRelease d val s
  | .dbgAutoRelease d ch => Sys2Proof.Machine.execDbgAutoRelease d ch s
  | .hysteresisExpire d c => Sys2Proof.Machine.execHysteresisExpire d c s
  | .powerEntryStep d c => Sys2Proof.Machine.execPowerEntryStep d c s
  | .wakeEvent d c => Sys2Proof.Machine.execWakeEvent d c s
  | .powerWakeStep d c => Sys2Proof.Machine.execPowerWakeStep d c s
  | .wakeFailTimeout d c pll => Sys2Proof.Machine.execWakeFailTimeout d c pll s
  | .domainWakeRetry d c => Sys2Proof.Machine.execDomainWakeRetry d c s
  | .pllLock d => Sys2Proof.Machine.execPllLock d s
  | .pllLockLoss d => Sys2Proof.Machine.execPllLockLoss d s
  | .referenceBad d => Sys2Proof.Machine.execReferenceBad d s
  | .smbusRegisterWrite addr val pecFail => Sys2Proof.Machine.execSmbusRegisterWrite addr val pecFail s
  | .smbusSetReadAddress addr pecFail => Sys2Proof.Machine.execSmbusSetReadAddress addr pecFail s
  | .smbusBlockRead => Sys2Proof.Machine.execSmbusBlockRead s
  | .hatchLatchRead => Sys2Proof.Machine.execHatchLatchRead s
  | .hatchAddressMatch => Sys2Proof.Machine.execHatchAddressMatch s
  | .hatchWakeFail limit => Sys2Proof.Machine.execHatchWakeFail limit s
  | .smbusTimeout => Sys2Proof.Machine.execSmbusTimeout s
  | .errorHandlingEnd d pg => Sys2Proof.Machine.execErrorHandlingEnd d pg s
  | .supervisorEscalation d pg => Sys2Proof.Machine.execSupervisorEscalation d pg s
  | .errorInject d pg bit => Sys2Proof.Machine.execErrorInject d pg bit s
  | .pageLock d pg => Sys2Proof.Machine.execPageLock d pg s
  | .engineReset val => Sys2Proof.Machine.execEngineReset val s
  | .engineResetDone => Sys2Proof.Machine.execEngineResetDone s
  | .goldenReplay val => Sys2Proof.Machine.execGoldenReplay val s
  | .goldenVector data fail => Sys2Proof.Machine.execGoldenVector data fail s
  | .goldenReplayDone => Sys2Proof.Machine.execGoldenReplayDone s
  | .imageLoadHost val => Sys2Proof.Machine.execImageLoadHost val s
  | .flashBoot hdrA hdrB => Sys2Proof.Machine.execFlashBoot hdrA hdrB s
  | .imageCheck img => Sys2Proof.Machine.execImageCheck img s
  | .debugChallenge val => Sys2Proof.Machine.execDebugChallenge val s
  | .debugResponse val => Sys2Proof.Machine.execDebugResponse val s
  | .debugChallengeExpire => Sys2Proof.Machine.execDebugChallengeExpire s
  | .voltageAlarm d => Sys2Proof.Machine.execVoltageAlarm d s
  | .tamper => Sys2Proof.Machine.execTamper s
  | .zeroizeRequest => Sys2Proof.Machine.execZeroizeRequest s
  | .endorse => Sys2Proof.Machine.execEndorse s
  | .resetRelease good casc bootSrc smb => Sys2Proof.Machine.execResetRelease good casc bootSrc smb s
  | .conventionalReset => Sys2Proof.Machine.execConventionalReset s
  | .dieResetTimeout good casc bootSrc smb => Sys2Proof.Machine.execDieResetTimeout good casc bootSrc smb s
  | .diePowerGoodLoss d => Sys2Proof.Machine.execDiePowerGoodLoss d s
  | .bsqStart d val => Sys2Proof.Machine.execBsqStart d val s
  | .bsqPhaseDone d ways fault shelves ms => Sys2Proof.Machine.execBsqPhaseDone d ways fault shelves ms s
  | .serviceRelease => Sys2Proof.Machine.execServiceRelease s
  | .registerWrite acc d pg off val => Sys2Proof.Machine.execRegisterWrite acc d pg off val s
  | .dataLinkUp speed width => Sys2Proof.Machine.execDataLinkUp speed width s
  | .functionReady => Sys2Proof.Machine.execFunctionReady s
  | .diagnosticWord iface lane crcFail => Sys2Proof.Machine.execDiagnosticWord iface lane crcFail s

end Sys2Proof.Machine
end

