-- ==== Sys2Proof/Machine/Step.lean ====
section
/-!
DEFINITION. One step of the block: the command at the front of the queue, or a CS cycle when none waits.
-/

namespace Sys2Proof.Machine

/-- A CS cycle passes (log 2): the bucket caches' bank ports and lookups run with it (R282, R283); whatever else follows from it
happens by the commands that name it. -/
def tick (s : State) : State := csCycle s

/-- A step: the command at the front of the queue runs on the state with the rest of the queue; on an empty queue a cycle passes. -/
def step (s : State) : Host.Outcome State Fault Refusal :=
  match s.pending with
  | [] => .next (tick s)
  | i :: rest => exec i { s with pending := rest }

/-- The state with the command that a word spells put at the front of its queue; unchanged where the word spells none. -/
def State.withFetchWord (s : State) (nbits w : Nat) : State :=
  match Sys2Proof.decodeTableWord nbits w with
  | some i => { s with pending := i :: s.pending }
  | none => s

end Sys2Proof.Machine
end

