-- ==== Sys2Proof/Safety.lean ====
section
/-!
DEFINITION. The terms in which claims about the block are stated: what a command may change, what holds of every state
that a run reaches, and what a step may never do.
-/

namespace Sys2Proof.Machine

/-! ## Frames -/

/-- Nothing differs between the two states but register fields, and of those only the ones with a listed key. -/
structure OnlyRegs (keys : List Nat) (s t : State) : Prop where
  rest : t = { s with regs := t.regs }
  regs : ∀ d g c, rkey d g c ∉ keys → getF t d g c = getF s d g c

/-- A register field that raising an error leaves alone: it is no error register of a page header (R502), and no register of
the fault-notice queue (R236). -/
def errFree (g : Fld) (c : Nat) : Bool :=
  decide ((g.off < 0x14 ∨ 0x38 ≤ g.off) ∧ g.off < 4096 ∧ g.lo < 32 ∧ g.page < 64 ∧ c < 65536) &&
  !(g.page == pgThr && decide (0x9c ≤ g.off ∧ g.off < 0xb0))

/-- What raising errors may change (R438 to R446, R227): error registers, the fault-notice queues, reports and their ring cells on their way, outputs,
pending interrupts and the set of lost dies. A sticky bit once set stays set, and outputs
are only added. -/
structure ErrOnly (s t : State) : Prop where
  rest : t = { s with regs := t.regs, fltq := t.fltq, escal := t.escal, mgmt := t.mgmt, ringQ := t.ringQ, out := t.out, msixPend := t.msixPend, lostDies := t.lostDies }
  regs : ∀ d g c, errFree g c = true → getF t d g c = getF s d g c
  sticky : ∀ d pg bit, bit < 32 → (getF s d (ERR_STICKY.BITS pg)).testBit bit = true →
    (getF t d (ERR_STICKY.BITS pg)).testBit bit = true
  out : s.out <+: t.out

/-- What writing the evidence log may change beyond what raising errors may: the log's own registers and state, its rings in
memory, and uploads among the outputs (R395 to R404). -/
structure EvdOnly (s t : State) : Prop where
  rest : t = { s with regs := t.regs, fltq := t.fltq, escal := t.escal, mgmt := t.mgmt, ringQ := t.ringQ, out := t.out, msixPend := t.msixPend, lostDies := t.lostDies, evd := t.evd, store := t.store }
  regs : ∀ d g c, errFree g c = true → g.page ≠ pgEvd → getF t d g c = getF s d g c
  sticky : ∀ d pg bit, bit < 32 → (getF s d (ERR_STICKY.BITS pg)).testBit bit = true →
    (getF t d (ERR_STICKY.BITS pg)).testBit bit = true
  out : s.out <+: t.out

/-- The sticky bit of an error is set (R439). -/
def stickySet (s : State) (d pg bit : Nat) : Prop := (getF s d (ERR_STICKY.BITS pg)).testBit bit = true

/-! ## Instruction starts -/

/-- The command that runs one instruction of a thread, by the opcode of R175. -/
def insCmd (op d t : Nat) : Option Instr :=
  match op with
  | 1 => some (.xtr d t)
  | 2 => some (.lit d t)
  | 3 => some (.hsh d t)
  | 4 => some (.srch d t)
  | 5 => some (.probe d t)
  | 6 => some (.cfetch d t)
  | 7 => some (.stamp d t)
  | 8 => some (.log d t)
  | 9 => some (.fork d t)
  | 10 => some (.join d t)
  | 11 => some (.send d t)
  | 12 => some (.waite d t)
  | 13 => some (.commit d t)
  | 14 => some (.emit d t)
  | 15 => some (.trap d t)
  | 16 => some (.endThread d t)
  | _ => none

/-- What settling the issue slots of a CQ cycle may change (R225): the slots settled, the threads that start, and the ages of the
contests. -/
def IssueOnly (s t : State) : Prop := t = { s with lanes := t.lanes, starts := t.starts, arbAge := t.arbAge }

/-- The state in which the thread uses its issue slot of this CQ cycle (R216, R225). -/
def issued (s : State) (d t : Nat) : State := useStart (settleIssue s d) d t

/-- The thread as its instruction begins at a CS cycle: RUN for the cycles of R199, one more step counted, the word fetched. -/
def insThread (cyc : Nat) (th : Thread) (w : W64) : Thread :=
  { th with st := .run, steps := th.steps + 1, word := w, lastPc := th.pc, readyAt := cyc + insCost (insOp w) }

/-- The state in which the instruction's own effect begins: the slot is used and the start is counted (R209). -/
def insStart (s : State) (d t : Nat) (w : W64) : State :=
  setT (countInstr (issued s d t) d) d t (insThread s.cyc (getT s d t) w)

/-- The next instruction of the thread is the word `w`, readable without error, and nothing stands in its way: an issue slot of
this CQ cycle is the thread's (R225), the step limit (R181) and the waits of R204 do not apply, and its context words are without
error (R215). -/
structure Starts (s : State) (d t : Nat) (w : W64) : Prop where
  run : canRun s d t = true
  slot : (settleIssue s d).starts.contains (d, t, cq s) = true
  fetch : recipeFetch s d (getT s d t).pc = .ok w.toNat
  ready : needsResolve (getT s d t) w = false
  limit : (getT s d t).steps + 1 ≤ stepMax s d
  unc : ctxUnc (getT s d t) = false
  cor : ctxCor (getT s d t) = false

/-- A thread whose instruction has finished with `ok` and goes on at its successor (R177). -/
def wentOn (cyc : Nat) (th : Thread) (ok : Bool) : Thread :=
  settle cyc { th with pc := if condTrue th ok then insT th.word else insF th.word }

/-! ## What every run keeps -/

/-- The same part: manufacture fixes everything in it but what the straps set at the release of PERST_N (R456). -/
def Part.same (a b : Part) : Prop := { b with casc := a.casc, bootSrc := a.bootSrc, smbAddr := a.smbAddr } = a

/-- The arrays of the block are in canonical form: keys strictly rising, and no entry equal to what an unlisted place reads as.
They are the attic's rows, the store module's buckets, the recipe store, the store cache and the thread table. -/
def ArraysWf (s : State) : Prop :=
  mwf Row.zero s.rows = true ∧ mwf none s.store = true ∧ mwf ⟨0, 0⟩ s.recipe = true ∧ mwf Line.zero s.cache = true ∧ mwf Thread.zero s.threads = true

end Sys2Proof.Machine
end

