-- ==== Sys2Proof/Certificates/Slice0/Obligations.lean ====
section
/-!
DEFINITION. The statements for the provers: the rules that hold of every step, and for every command what it does and that it
is performed, from the rules of spec/ that the docstrings cite.
-/

open Sys2Proof Sys2Proof.Machine

/-- A step performs the command at the front of the queue. For every state whose queue is a command c followed by a rest,
step answers exactly what exec answers for c in that state with the queue cut to the rest. The queue is the block form
of the model (log 1), not a rule of the manual. (spec/95_what_each_step_holds.md) -/
def Obligations.StepTakesTheFrontCommand : Prop :=
  ∀ (c : Instr) (s : State) (rest : List Instr), s.pending = c :: rest → step s = exec c { s with pending := rest }

/-- With no command waiting, a step passes one CS cycle. For every state with an empty queue, step answers a next state whose
cycle count is one higher. In an even cycle nothing else changes. At the end of an odd one a CQ cycle ends and the next
begins in the bucket caches: lookups take bank ports, and the views that are due are taken; with no store-room step under
way only the ports are given back. Nothing changes but the steps, their ports, the cache and its registers, and what
raising a cache error changes. That the idle step is one CS cycle is the model's choice (log 2).
(spec/09_bucket_cache.md, spec/14_power_and_clocks.md) -/
def Obligations.IdleStepPassesOneCycle : Prop :=
  ∀ s : State, s.pending = [] → ∃ t, step s = .next t ∧ t.cyc = s.cyc + 1 ∧
    (s.cyc % 2 = 0 → t = { s with cyc := s.cyc + 1 }) ∧
    (s.cyc % 2 = 1 → t = openCq { closeCq s with cyc := s.cyc + 1 }) ∧
    (s.cyc % 2 = 1 → s.steps = [] → t = { s with cyc := s.cyc + 1, ports := [] }) ∧
    t = { s with cyc := t.cyc, ports := t.ports, steps := t.steps, regs := t.regs, cache := t.cache, walks := t.walks, wayErrAt := t.wayErrAt,
                 fltq := t.fltq, escal := t.escal, mgmt := t.mgmt, ringQ := t.ringQ, out := t.out, msixPend := t.msixPend,
                 lostDies := t.lostDies }

/-- No command puts another command into the queue or takes one out. For every state and every command: when step answers
a next state, its queue is the old queue without its first command (an empty queue stays empty). So commands run in
the order in which they were sent, and nothing but the sender adds to the queue (the block form of the model, log 1).
(spec/95_what_each_step_holds.md) -/
def Obligations.QueueIsFirstInFirstOut : Prop :=
  ∀ s t : State, step s = .next t → t.pending = s.pending.tail

/-- Every step keeps the part and the TAP and never lets a fuse fall. For every state, every command: when step answers a next
state, the part is the same but for its three straps, the fused security version is at least what it was, every revoked
key stays revoked, and the test access port stands as it was: no command of the table clocks it (log 101). Rests on R460 (the version fuse and the revocation fuses) and R475 (a conventional reset leaves
fuses). (R460, R475, spec/15_faults_and_security.md, spec/00_scope.md) -/
def Obligations.PartStaysAndFusesOnlyRise : Prop :=
  ∀ s t : State, step s = .next t → Part.same t.part s.part ∧ s.fuseSvn ≤ t.fuseSvn ∧
    (∀ k, s.fuseRevoked.testBit k = true → t.fuseRevoked.testBit k = true) ∧ t.tap = s.tap

/-- Every step keeps the arrays in canonical form. For every state whose five arrays (attic rows, store module buckets,
recipe store, store cache lines, thread table) are in canonical form (keys strictly rising, no entry equal to what an
unlisted place reads as), and every command: when step answers a next state, its arrays are in canonical form.
(spec/02_entries_and_keys.md, spec/06_recipes.md, spec/07_threads.md, spec/08_store_room_and_cellar.md,
spec/09_bucket_cache.md) -/
def Obligations.ArraysStayCanonical : Prop :=
  ∀ s t : State, ArraysWf s → step s = .next t → ArraysWf t

/-- Reset leaves the registers at the values of the register tables. After reset every array is empty and canonical, every
register field reads its reset value, and on every page of the lead die the header reads: type code as R498 numbers
the blocks, version 0x00010100, PAGE_CAP 1 (0x81F on the package page of an LMP-DZ8-SCTK, R5), no error sticky, and
ERR_SEV as the table of R498. The part itself (LMP-DZ8-SCTK) is the model's choice (log 4). (R5, R498, R502,
spec/17_register_map.md) -/
def Obligations.ResetLeavesTheTablesValues : Prop :=
  ArraysWf State.reset ∧
  (∀ (d b : Nat) (f : Fld), getF State.reset d f b = f.rst) ∧
  (∀ pg, pg ≤ 21 → readHeader State.reset 0 pg 0 = (pg + 1) * 0x10000 ∧ readHeader State.reset 0 pg 4 = 0x00010100 ∧
    readHeader State.reset 0 pg 8 = (if pg = 0 then 0x81F else 1) ∧ readHeader State.reset 0 pg 0x14 = 0 ∧
    readHeader State.reset 0 pg 0x1C = [0x98, 0x7010, 0x1410, 0x104, 0x5514, 0x514, 0x45C, 0x1500, 0x1040, 0x540, 0x40, 0x1100, 0x4, 0x410, 0x51,
      0x56, 0x38, 0x54, 0xF1, 0, 0x20, 0x84].getD pg 0)

/-- Every command is performed; only the fetch of an unused opcode can stop. For every command and every state, exec
answers a next state, or the command is UNUSED_OPCODE_FETCH and exec answers the fault reservedOpcode. (R175,
spec/06_recipes.md) -/
def Obligations.EveryCommandAnswers : Prop :=
  ∀ (c : Instr) (s : State), (∃ t, exec c s = .next t) ∨ ∃ d t, c = .unusedOpcodeFetch d t ∧ exec c s = .fault .reservedOpcode

/-- The SECDED code of R519 corrects one wrong bit and detects two. For every 64-bit word: its check field has 8 bits; the
word with that field reads as it is; with any one data bit or any one check bit wrong it reads corrected; with any two
different data bits wrong it reads uncorrectable. (R519) -/
def Obligations.SecdedCorrectsOneBit : Prop :=
  ∀ v : Nat, v < 2 ^ 64 →
    secDecode 64 7 v (secField 64 7 v) = .ok v ∧ secField 64 7 v < 256 ∧
    (∀ i, i < 64 → secDecode 64 7 (v ^^^ 2 ^ i) (secField 64 7 v) = .corrected v) ∧
    (∀ j, j < 8 → secDecode 64 7 v (secField 64 7 v ^^^ 2 ^ j) = .corrected v) ∧
    (∀ i k, i < 64 → k < 64 → i ≠ k → secDecode 64 7 (v ^^^ 2 ^ i ^^^ 2 ^ k) (secField 64 7 v) = .bad)

/-- A register write changes one field, as its access code says. For every state, die, bank, written word and field: the
write changes nothing but that field. RO leaves the state as it is. RW, and RWL on a page that is not locked, take the
written bits. RWL on a locked page leaves the state as it is. W1C clears the bits written 1, W1S sets them. (R503,
spec/17_register_map.md) -/
def Obligations.FieldsFollowTheirAccessCodes : Prop :=
  ∀ (s : State) (d bank val : Nat) (f : Fld), ∃ t, writeFld s d bank val f = t ∧ OnlyRegs [rkey d f bank] s t ∧
    (f.acc = .ro → t = s) ∧
    (f.acc = .rw ∨ f.acc = .rwl ∧ isF s d (PAGE_CTL.LOCK f.page) = false → getF t d f bank = val / 2 ^ f.lo % 2 ^ f.width) ∧
    (f.acc = .rwl → isF s d (PAGE_CTL.LOCK f.page) = true → t = s) ∧
    (∀ i, i < f.width → f.acc = .w1c → (getF t d f bank).testBit i = ((getF s d f bank).testBit i && !val.testBit (f.lo + i))) ∧
    (∀ i, i < f.width → f.acc = .w1s → (getF t d f bank).testBit i = ((getF s d f bank).testBit i || val.testBit (f.lo + i)))

/-- The candidates of a die are the entries no other precedes, and the merge takes the best of all. For every two hits,
one precedes the other exactly when its priority is lower, or equal and its entry address lower. The first candidate
of any hits is one that no other precedes, absent only when there are none. The second is one that none but the first
precedes, absent exactly when fewer than two hits exist. Beyond the cited rule: for every list of die contributions
the merge has a winner exactly when one has a candidate, and no other candidate precedes it; its count is the sum,
saturated at 65,536 (R110), its flags the union; and its multiplicity is that of the contributions with the best
priority, as the pseudocode of R84 forms it. (R78) -/
def Obligations.BestEntryWinsTheMerge : Prop :=
  (∀ a b : Hit, a.before b = true ↔ a.prio < b.prio ∨ a.prio = b.prio ∧ (a.gra < b.gra ∨ a.gra = b.gra ∧ a.h < b.h)) ∧
  (∀ hs : List Hit, (bestHit hs = none ↔ hs = []) ∧ ∀ b, bestHit hs = some b → b ∈ hs ∧ ∀ h ∈ hs, h.before b = false) ∧
  (∀ (s : State) (d p width gen : Nat) (key : Key) (hs : List Hit), hs = dieHits s d p width gen key →
    (diePass s d p width gen key).count = hs.length ∧ (diePass s d p width gen key).first = bestHit hs ∧
    ((diePass s d p width gen key).second = none ↔ hs.length < 2) ∧
    (∀ b, (diePass s d p width gen key).second = some b → b ∈ hs ∧ ∀ h ∈ hs, (diePass s d p width gen key).first ≠ some h → h.before b = false)) ∧
  (∀ l : List Contrib,
    ((mergeAll l).cand = none ↔ ∀ c ∈ l, c.cand = none) ∧
    (∀ w, (mergeAll l).cand = some w → (∃ c ∈ l, c.cand = some w) ∧ ∀ c ∈ l, ∀ x, c.cand = some x → x.before w = false) ∧
    (mergeAll l).count = min 65536 (l.map fun c => c.count).sum ∧ (mergeAll l).vfy = l.any (fun c => c.vfy) ∧ (mergeAll l).vfail = l.any (fun c => c.vfail) ∧
    (∀ p, (∀ c ∈ l, 0 < c.count → p ≤ c.bprio) → (∃ c ∈ l, 0 < c.count ∧ c.bprio = p) → (∀ c ∈ l, c.tien ≤ 2) →
      (mergeAll l).bprio = p ∧
      (mergeAll l).tien = min 2 ((l.filter fun c => decide (0 < c.count ∧ c.bprio = p)).map fun c => c.tien).sum))

/-- An error sets its sticky bit whatever the mask, and is recorded by the first line of R440 that applies. For every
present page and bit: raising the error sets its sticky bit. A class above U is never masked; a masked error changes
the sticky bit alone. An unmasked error is recorded: in ERR_FIRST when that is free; else in ERR_SECOND when that is
free, escalated exactly when its class is higher; else, when its class is above both, it replaces ERR_SECOND,
escalated, and the displaced record is counted; else only the count rises. Each case changes the named record fields
alone. (R439, R440) -/
def Obligations.ErrorsSetStickyBitsAndRecords : Prop :=
  ∀ (s : State) (d pg bit : Nat) (i : ErrItem), present s d pg = true → pg ≤ 21 → bit < 8 →
    stickySet (raiseErr s d pg bit i) d pg bit ∧
    (2 ≤ errClass s d pg bit → errMasked s d pg bit = false) ∧
    (errMasked s d pg bit = true → raiseErr s d pg bit i = setSticky s d pg bit) ∧
    (∀ k f e, errClass s d pg bit = k → getF s d (ERR_FIRST0.VALID pg) = f → getF s d (ERR_SECOND.VALID pg) = e →
      (f = 0 → ∃ t, recordErr s d pg bit i = (t, some false) ∧ getF t d (ERR_FIRST0.VALID pg) = 1 ∧ getF t d (ERR_FIRST0.CLASS pg) = k % 4 ∧
        getF t d (ERR_FIRST0.BIT pg) = bit ∧
        OnlyRegs [rkey d (ERR_FIRST0.VALID pg) 0, rkey d (ERR_FIRST0.CLASS pg) 0, rkey d (ERR_FIRST0.BIT pg) 0, rkey d (ERR_FIRST0.ID pg) 0,
          rkey d (ERR_FIRST1.STAMP pg) 0, rkey d (ERR_FIRST2.DATA pg) 0, rkey d (ERR_FIRST3.DATA pg) 0] s t) ∧
      (f ≠ 0 → e = 0 → ∃ t, recordErr s d pg bit i = (t, if getF s d (ERR_FIRST0.CLASS pg) < k then some true else none) ∧
        getF t d (ERR_SECOND.VALID pg) = 1 ∧ getF t d (ERR_SECOND.CLASS pg) = k % 4 ∧ getF t d (ERR_SECOND.BIT pg) = bit ∧
        getF t d (ERR_SECOND.ESC pg) = (if getF s d (ERR_FIRST0.CLASS pg) < k then 1 else 0) ∧
        OnlyRegs [rkey d (ERR_SECOND.VALID pg) 0, rkey d (ERR_SECOND.CLASS pg) 0, rkey d (ERR_SECOND.BIT pg) 0, rkey d (ERR_SECOND.ESC pg) 0,
          rkey d (ERR_SECOND.STAMP pg) 0] s t) ∧
      (f ≠ 0 → e ≠ 0 → getF s d (ERR_FIRST0.CLASS pg) < k → getF s d (ERR_SECOND.CLASS pg) < k →
        ∃ t, recordErr s d pg bit i = (bumpSat t d (ERR_NEXT_CNT.COUNT pg), some true) ∧
        getF t d (ERR_SECOND.VALID pg) = 1 ∧ getF t d (ERR_SECOND.CLASS pg) = k % 4 ∧ getF t d (ERR_SECOND.BIT pg) = bit ∧ getF t d (ERR_SECOND.ESC pg) = 1 ∧
        OnlyRegs [rkey d (ERR_SECOND.VALID pg) 0, rkey d (ERR_SECOND.CLASS pg) 0, rkey d (ERR_SECOND.BIT pg) 0, rkey d (ERR_SECOND.ESC pg) 0,
          rkey d (ERR_SECOND.STAMP pg) 0] s t) ∧
      (f ≠ 0 → e ≠ 0 → k ≤ getF s d (ERR_FIRST0.CLASS pg) ∨ k ≤ getF s d (ERR_SECOND.CLASS pg) →
        recordErr s d pg bit i = (bumpSat s d (ERR_NEXT_CNT.COUNT pg), none)))

/-- A lookup burst is checked in the order of R308: discarded, refused or queued. On an up interface of an existing die: a
CRC error discards the burst and counts it; a channel not configured there is a format error of cause 2, a disabled
channel of cause 3, a full ingress queue a drop of cause 9; each sets its sticky bit and queues nothing. Otherwise one
request joins the queue with its header, payload, channel and home die, marked for refusal with status 9 exactly when
a later check fails. The reading of checks 2 and 3 is log 62. (R308, spec/10_lookup_port.md) -/
def Obligations.BurstCheckedThenQueued : Prop :=
  ∀ (s : State) (iface chan : Nat) (hdr : W64) (payload : BitVec 1024) (len : Nat) (oneBurst : Bool),
    ifUp s iface = true → ifDie iface < s.part.dieCnt →
    (∃ t, exec (.lookupBurstReceive iface chan hdr payload len oneBurst true) s = .next t ∧ t.reqs = s.reqs ∧
      getF t (ifDie iface) LKP_FMT.LAST = 1 ∧
      getF t (ifDie iface) LKP_CRC.BURST = min 65535 (getF s (ifDie iface) LKP_CRC.BURST + 1) ∧
      stickySet t (ifDie iface) pgLkp LKP_ERR.BURST_CRC) ∧
    (64 ≤ chan ∨ getF s 0 (LKP_CH_CFG.IFX chan) ≠ ifIdx iface ∨ homeOf s chan ≠ ifDie iface →
      ∃ t, exec (.lookupBurstReceive iface chan hdr payload len oneBurst false) s = .next t ∧ t.reqs = s.reqs ∧
        getF t (ifDie iface) LKP_FMT.LAST = 2 ∧ stickySet t (ifDie iface) pgLkp LKP_ERR.FMT) ∧
    (chan < 64 → getF s 0 (LKP_CH_CFG.IFX chan) = ifIdx iface → homeOf s chan = ifDie iface →
      (chEn s chan = false → ∃ t, exec (.lookupBurstReceive iface chan hdr payload len oneBurst false) s = .next t ∧
        t.reqs = s.reqs ∧ getF t (ifDie iface) LKP_FMT.LAST = 3 ∧ stickySet t (ifDie iface) pgLkp LKP_ERR.FMT) ∧
      (chEn s chan = true →
        (32 ≤ (queuedOn s iface).length →
          ∃ t, exec (.lookupBurstReceive iface chan hdr payload len oneBurst false) s = .next t ∧ t.reqs = s.reqs ∧
            getF t (ifDie iface) LKP_FMT.LAST = 9 ∧
            getF t (ifDie iface) LKP_DROP.COUNT = (getF s (ifDie iface) LKP_DROP.COUNT + 1) % 2 ^ 32 ∧
            stickySet t (ifDie iface) pgLkp LKP_ERR.FC_VIOL) ∧
        ((queuedOn s iface).length < 32 →
          ∃ t r, exec (.lookupBurstReceive iface chan hdr payload len oneBurst false) s = .next t ∧ t.reqs = s.reqs ++ [r] ∧
            r.id = s.nextId ∧ r.home = ifDie iface ∧ r.iface = iface ∧ r.chan = chan ∧ r.hdr = hdr ∧ r.payload = payload ∧
            (∀ n, ingressCheck s iface chan hdr len oneBurst = some n →
              r.phase = .queued (some 9) ∧ stickySet t (ifDie iface) pgLkp LKP_ERR.FMT) ∧
            (ingressCheck s iface chan hdr len oneBurst = none →
              r.phase = .queued none ∧ t = { s with reqs := s.reqs ++ [r], nextId := s.nextId + 1 }))))

/-- The oldest request of an interface is released once per release interval, and its ledger entry acknowledged. When the
interval since the last release has passed, the ledger has room and refusals are not full, the oldest queued request
gets its release cycle, its arrival time (unit T), its ledger mark, and the release is counted. Inside the interval
nothing changes. The acknowledgement of a ledger entry sets acked on that request alone. (R306, R448,
spec/10_lookup_port.md, spec/15_faults_and_security.md) -/
def Obligations.RequestReleasedAndAcknowledged : Prop :=
  (∀ (s : State) (iface : Nat) (r : Req) (rest : List Req) (k : Option Nat),
    queuedOn s iface = r :: rest → ifDie iface < s.part.dieCnt → gone s (ifDie iface) = false →
    (mget 0 s.lastRel iface = 0 ∨ mget 0 s.lastRel iface - 1 + ifP s iface ≤ s.cyc) →
    (hasLedger s (ifDie iface) = true → ledgerUsed s (ifDie iface) < 2048) →
    r.phase = .queued k → (k = none ∨ (refusalsOn s iface).length < 64) →
      ∃ t, exec (.ingressRelease iface) s = .next t ∧ t.reqs.map (·.id) = s.reqs.map (·.id) ∧
        (∀ q ∈ t.reqs, q.id = r.id → q.phase = .released k ∧ q.rel = s.cyc ∧ q.ledger = hasLedger s (ifDie iface) ∧
          q.acked = !hasLedger s (ifDie iface) ∧
          q.arr = if s.part.unitT then capture s (ifDie iface) s.cyc (some TIM_ARR_OFS.OFS) else 0) ∧
        mget 0 t.lastRel iface = s.cyc + 1 ∧
        getF t (ifDie iface) LKP_REQ.COUNT = (getF s (ifDie iface) LKP_REQ.COUNT + 1) % 2 ^ 32) ∧
  (∀ (s : State) (iface : Nat), mget 0 s.lastRel iface ≠ 0 → s.cyc < mget 0 s.lastRel iface - 1 + ifP s iface →
    exec (.ingressRelease iface) s = .next s) ∧
  (∀ (s : State) (id : Nat) (r : Req), findReq s id = some r → r.ledger = true → hasLedger s r.home = true →
    exec (.ledgerEntryAck id) s = .next { s with reqs := s.reqs.map fun q => if q.id = id then { q with acked := true } else q })

/-- Admission takes a thread, a buffer and every booking, or refuses with the status that says why. For every released,
acknowledged lookup request: a released refusal is formed with its status; a fenced device refuses with 0xB; one that
another request of its CQ cycle is admitted before waits; an invalid entry, or an entry without FIXED on a guaranteed channel, with 9 and a recipe error; no thread room, no
buffer, no egress or no booking with 5, counted. Otherwise the lowest free thread starts at the entry, holds the
buffer and, on a guaranteed channel, the plan's bookings and, where not ordered, its egress cycles. (R219,
spec/07_threads.md) -/
def Obligations.AdmissionTakesAllOrRefuses : Prop :=
  ∀ (s : State) (id : Nat) (r : Req), findReq s id = some r → r.acked = true → gone s r.home = false →
    (∀ st, r.phase = .released (some st) → exec (.admission id) s = .next (refuse s id st)) ∧
    (r.phase = .released none → hdrKind r.hdr = 0 →
      (s.fencedDev = true → exec (.admission id) s = .next (refuse s id 0xB)) ∧
      (s.fencedDev = false → admittedFirst s r = true → exec (.admission id) s = .next s) ∧
      (s.fencedDev = false → admittedFirst s r = false →
        (isF s r.home (SEQ_ENTRY.VALID (hdrRecipe r.hdr)) = false →
          exec (.admission id) s = .next (refuse (rerr s r.home 1 (hdrRecipe r.hdr)) id 9)) ∧
        (isF s r.home (SEQ_ENTRY.VALID (hdrRecipe r.hdr)) = true →
          (chGuar s r.chan = true → isF s r.home (SEQ_ENTRY.FIXED (hdrRecipe r.hdr)) = false →
            exec (.admission id) s = .next (refuse (rerr s r.home 2 (hdrRecipe r.hdr)) id 9)) ∧
          (chGuar s r.chan = false ∨ isF s r.home (SEQ_ENTRY.FIXED (hdrRecipe r.hdr)) = true →
            (threadRoom s r.home (chGroup s r.chan) = false ∨ bufSite s r.chan = none →
              exec (.admission id) s = .next (refuse (bump s r.home THR_ADMIT_FAIL.FAILS) id 5)) ∧
            (∀ t b, threadRoom s r.home (chGroup s r.chan) = true → lowestFree s r.home = some t →
              bufSite s r.chan = some b →
              (chGuar s r.chan = false →
                exec (.admission id) s = .next (modReq
                  (setT s r.home t (newThread s r.home (hdrRecipe r.hdr) r.chan r.hdr r.payload (some r.id) r.arr false)) r.id
                  fun q => { q with phase := .admitted, thread := some t, buf := some b, booked := none })) ∧
              (∀ a n, chGuar s r.chan = true → chOrdered s r.chan = false →
                a = r.rel + getF s r.home (SEQ_ENTRY.BUDGET (hdrRecipe r.hdr)) - 1 →
                n = ceilDiv (respLen (isF s r.home (LKP_ENT.TWO (hdrRecipe r.hdr))) (hdrStamp r.hdr && s.part.unitT)) (ifK s r.iface) →
                (egressFree s r.iface a n = false →
                  exec (.admission id) s = .next (refuse (bump s r.home THR_ADMIT_FAIL.FAILS) id 5)) ∧
                (∀ u, egressFree s r.iface a n = true →
                  bookPlan s r.home t (chGroup s r.chan) r.rel (mget Plan.none s.plans (hdrRecipe r.hdr)) = some u →
                  exec (.admission id) s = .next (modReq
                    (setT { u with egress := u.egress ++ [(r.iface, a, n)] } r.home t
                      (newThread { u with egress := u.egress ++ [(r.iface, a, n)] } r.home (hdrRecipe r.hdr) r.chan r.hdr r.payload
                        (some r.id) r.arr false)) r.id
                    fun q => { q with phase := .admitted, thread := some t, buf := some b, booked := some a }))) ∧
              (chGuar s r.chan = true → chOrdered s r.chan = true →
                (bookPlan s r.home t (chGroup s r.chan) r.rel (mget Plan.none s.plans (hdrRecipe r.hdr)) = none →
                  exec (.admission id) s =
                    .next (refuse (bump (bumpSat s r.home ARB_BOOK.FAIL) r.home THR_ADMIT_FAIL.FAILS) id 5)) ∧
                (∀ u, bookPlan s r.home t (chGroup s r.chan) r.rel (mget Plan.none s.plans (hdrRecipe r.hdr)) = some u →
                  exec (.admission id) s = .next (modReq
                    (setT u r.home t (newThread u r.home (hdrRecipe r.hdr) r.chan r.hdr r.payload (some r.id) r.arr false)) r.id
                    fun q => { q with phase := .admitted, thread := some t, buf := some b, booked := none }))))))))

/-- A table write takes a buffer and is sent to the update engine, or is refused. For every released, acknowledged table-
write request: fenced refuses with 0xB; no buffer, or 64 table writes waiting on the die, with 5. With a buffer and
room the command completes: the request holds the buffer, and with the engine and lookup writes on its command entry
waits for the engine of the die it names under the lookup source; with either off the request is answered at once with
status 0 and a completion BAD_OP, which the die counts. (R313, R329, spec/10_lookup_port.md) -/
def Obligations.TableWriteAdmitted : Prop :=
  ∀ (s : State) (id : Nat) (r : Req), findReq s id = some r → r.acked = true → gone s r.home = false →
    hdrKind r.hdr = 1 → r.phase = .released none →
    (s.fencedDev = true → exec (.tableWriteAdmit id) s = .next (refuse s id 0xB)) ∧
    (s.fencedDev = false →
      (bufSite s r.chan = none ∨
        64 ≤ (s.reqs.filter fun q => q.home == r.home && q.phase == .tableWrite && q.resp.isNone).length →
        exec (.tableWriteAdmit id) s = .next (refuse s id 5)) ∧
      (∀ b, bufSite s r.chan = some b →
        (s.reqs.filter fun q => q.home == r.home && q.phase == .tableWrite && q.resp.isNone).length < 64 →
        ∀ e, e = BitVec.ofNat 512 (getBE r.payload 0 512) →
        (isF s r.home UPD_CTL.EN = true → isF s r.home UPD_CTL.LKP_EN = true →
          ∃ t, exec (.tableWriteAdmit id) s = .next t ∧
            t = sendCmd (modReq s id fun q => { q with phase := .tableWrite, buf := some b }) r.home 0x48 (.lookup id) e false ∧
            findReq t id = some { r with phase := .tableWrite, buf := some b } ∧
            t.cmds = s.cmds ++ [newCmd s (runDie s e) r.home 0x48 (.lookup id) e (runDie s e == r.home) false]) ∧
        (isF s r.home UPD_CTL.EN = false ∨ isF s r.home UPD_CTL.LKP_EN = false →
          ∃ t x, exec (.tableWriteAdmit id) s = .next t ∧ x.status = 0 ∧ x.wr.isSome = true ∧
            t = modReq (countCpl s { newCmd s r.home r.home 0x48 (.lookup id) e true false with status := some 2 }) id
              (fun q => { q with phase := .tableWrite, buf := some b, resp := some x, readyAt := s.cyc }) ∧
            t.cmds = s.cmds ∧ getF t r.home UPD_REJ.LAST = 2)))

/-- A formed response leaves on its interface once, and its request ends. On an up interface: before its departure cycle
nothing changes; at it, when it fits (booked, ordered or unbooked with free egress), the response words are output,
the request ends and the response is counted. On an interface that is down in the density profile the response is
dropped and counted. (R316, spec/10_lookup_port.md) -/
def Obligations.ResponseLeavesOnce : Prop :=
  ∀ (s : State) (id : Nat) (r : Req) (x : Resp), findReq s id = some r → r.resp = some x →
    (ifUp s r.iface = true →
      (departure s r = none → exec (.responseDeparture id) s = .next s) ∧
      (∀ limit booked ts two, departure s r = some (limit, booked) → ts = (hdrStamp r.hdr && s.part.unitT) →
        two = (x.rec2.isSome && x.wr.isNone) → fitResp (ifK s r.iface) limit ts two = (ts, two) →
        (booked = true ∨ chMirror s r.chan = true ∨
          (egressFree s r.iface s.cyc (ceilDiv (respLen two ts) (ifK s r.iface)) = true ∧
            mirrorsFree s r.iface s.cyc (ceilDiv (respLen two ts) (ifK s r.iface)) = true)) → r.chan < 64 →
        ∃ t, exec (.responseDeparture id) s = .next t ∧
          s.out ++ [.response (ifDie r.iface) (ifIdx r.iface) r.chan (respWords s r x ts two)] <+: t.out ∧
          t.reqs = s.reqs.filter (fun q => q.id != r.id) ∧
          getF t (ifDie r.iface) LKP_RSP.COUNT = (getF s (ifDie r.iface) LKP_RSP.COUNT + 1) % 2 ^ 32)) ∧
    (ifUp s r.iface = false → avail s = false →
      ∃ t, exec (.responseDeparture id) s = .next t ∧ t.reqs = s.reqs.filter (fun q => q.id != r.id) ∧
        getF t (ifDie r.iface) LKP_DROP.COUNT = (getF s (ifDie r.iface) LKP_DROP.COUNT + 1) % 2 ^ 32)

/-- XOFF is kept per channel, failed lanes leave, and interfaces come up. XOFF and XON set the channel's flag alone, but
XOFF of a guaranteed channel is also counted and raises an error. A failed lane of an up interface is taken out. A
good diagnostic word clears the lane's count of failures, a bad one raises it, is counted and recorded, and the fourth
in a row takes the lane out. An interface whose conditions of R304 hold comes up with its mode's lanes. (R304, R305,
R328, spec/10_lookup_port.md) -/
def Obligations.FlowControlAndLanes : Prop :=
  (∀ (s : State) (iface chan : Nat) (xoff : Bool), ifUp s iface = true → chan < 64 → chIface s chan = iface →
    chEn s chan = true → ∃ t, exec (.xoffReceive iface chan xoff) s = .next t ∧
      getF t 0 (LKP_CH_USE.XOFF_RX chan) = (if xoff then 1 else 0) ∧
      (chGuar s chan = false ∨ xoff = false → OnlyRegs [rkey 0 (LKP_CH_USE.XOFF_RX chan) 0] s t) ∧
      (chGuar s chan = true → xoff = true → ifDie iface < s.part.dieCnt →
        getF t (ifDie iface) LKP_XOFF_RX.COUNT = (getF s (ifDie iface) LKP_XOFF_RX.COUNT + 1) % 2 ^ 32 ∧
        stickySet t (ifDie iface) pgLkp LKP_ERR.XOFF_GUAR)) ∧
  (∀ (s : State) (iface lane : Nat), ifUp s iface = true → (laneMap s iface).testBit lane = true →
    exec (.laneFail iface lane) s = .next (failLane s iface lane)) ∧
  (∀ (s : State) (iface lane : Nat), ifUp s iface = true → (laneMap s iface).testBit lane = true →
    (∃ t, exec (.diagnosticWord iface lane false) s = .next t ∧ mget 0 t.diagFails (iface * 8 + lane) = 0 ∧
      t = { s with diagFails := t.diagFails }) ∧
    (mget 0 s.diagFails (iface * 8 + lane) < 3 →
      ∃ t, exec (.diagnosticWord iface lane true) s = .next t ∧
        mget 0 t.diagFails (iface * 8 + lane) = mget 0 s.diagFails (iface * 8 + lane) + 1 ∧
        getF t (ifDie iface) LKP_CRC.META = min 65535 (getF s (ifDie iface) LKP_CRC.META + 1) ∧
        (ifDie iface < s.part.dieCnt → stickySet t (ifDie iface) pgLkp LKP_ERR.META_CRC)) ∧
    (mget 0 s.diagFails (iface * 8 + lane) = 3 →
      ∃ u, exec (.diagnosticWord iface lane true) s = .next (failLane u iface lane) ∧
        mget 0 u.diagFails (iface * 8 + lane) = 0)) ∧
  (∀ (s : State) (iface : Nat), ifDie iface < s.part.dieCnt → (getF s (ifDie iface) LKP_IF_CFG.EN).testBit (ifIdx iface) = true →
    ifLanes (getF s (ifDie iface) LKP_IF_CFG.MODE) (ifIdx iface) ≠ 0 → ifState s iface ≠ 2 → loaded s = true →
    isF s 0 PKG_BOOT.SVC = true → cascPos s = 0 → gone s (ifDie iface) = false → testing s (ifDie iface) = false →
    isF s 0 FLT_ERST.GO = false → s.inReset = false →
    exec (.interfaceUp iface) s =
      .next (setIfState s iface 2 (ifLanes (getF s (ifDie iface) LKP_IF_CFG.MODE) (ifIdx iface))))

/-- A channel register write takes effect whole or is rejected whole. For both channel registers of every channel: a
locked page ignores the write; a write that would break a channel rule of R310 changes only error state and records
CH_REJ; any other write takes the register as written and moves the channel's home when its die changes. (R310,
spec/10_lookup_port.md) -/
def Obligations.ChannelRegistersAllOrNothing : Prop :=
  ∀ (s : State) (d chan val off : Nat) (i : Instr), d < s.part.dieCnt → chan < 64 →
    (i = .channelCfgWrite d chan val ∧ off = 0x100 + 4 * chan ∨ i = .channelBufWrite d chan val ∧ off = 0x200 + 4 * chan) →
    (locked s d pgLkp = true → exec i s = .next s) ∧
    (locked s d pgLkp = false →
      (channelsBreak (loadWord s 0 pgLkp 0 off val) = true →
        ∃ t, exec i s = .next t ∧ ErrOnly s t ∧ stickySet t d pgLkp LKP_ERR.CH_REJ) ∧
      (channelsBreak (loadWord s 0 pgLkp 0 off val) = false →
        ∃ t, exec i s = .next t ∧ t.regs = (loadWord s 0 pgLkp 0 off val).regs ∧
          t = { s with regs := t.regs, homes := t.homes } ∧
          (getF t 0 (LKP_CH_CFG.DIE chan) ≠ getF s 0 (LKP_CH_CFG.DIE chan) →
            homeOf t chan = serving t (getF t 0 (LKP_CH_CFG.DIE chan)))))

/-- Every recipe instruction needs an issue slot, fetches, and checks its word, its context and its step limit before it acts. For
each of the sixteen instructions: a thread that may not run changes nothing, nor does a word of another opcode. Without an
issue slot of this CQ cycle only the issue contest is settled. With one, an uncorrectable word faults the thread with
cause 3 and records it; a word that needs a pending speculation resolved waits for it, or faults with cause 6 under a lock
or an open link; an uncorrectable context word faults with cause 7; a start beyond STEP_MAX faults with cause 2 and records
it. A speculating thread waits for the resolution where it would fault on an error. Settling the issue slots changes the
slots and the contest's ages alone. (R172, R175, R181, R203, R215, R216, R225, spec/06_recipes.md, spec/07_threads.md) -/
def Obligations.InstructionFetchAndLimits : Prop :=
  ∀ (s : State) (d t op pc : Nat) (i : Instr) (u : State), insCmd op d t = some i → (op = 13 → sequenceOpen s d t = false) →
    u = issued s d t → pc = (getT s d t).pc →
    (canRun s d t = false → exec i s = .next s) ∧
    IssueOnly s (settleIssue s d) ∧ IssueOnly s u ∧
    (∀ a b c k, (getT a d t).spec = false → faultErr a b d t c k = faultThread b d t c k) ∧
    (∀ a b c k, (getT a d t).spec = true → faultErr a b d t c k = waitResolve a d t) ∧
    (canRun s d t = true →
      (∀ w : W64, recipeFetch s d pc = .ok w.toNat → insOp w ≠ op → exec i s = .next s) ∧
      ((settleIssue s d).starts.contains (d, t, cq s) = false →
        (recipeFetch s d pc = .bad ∨ ∃ w : W64, recipeFetch s d pc = .ok w.toNat ∧ insOp w = op) →
        exec i s = .next (settleIssue s d)) ∧
      ((settleIssue s d).starts.contains (d, t, cq s) = true →
        (recipeFetch s d pc = .bad →
          exec i s = .next (faultErr u (raiseErr u d pgSeq SEQ_ERR.STORE_UNC (it1 pc)) d t 3 0)) ∧
        (∀ (w : W64) (v : State), recipeFetch s d pc = .ok w.toNat → insOp w = op → v = insStart s d t w →
          (needsResolve (getT s d t) w = true →
            (mayNotWait (getT s d t) = true → exec i s = .next (faultThread u d t 6 0)) ∧
            (mayNotWait (getT s d t) = false →
              exec i s = .next (setT u d t { getT s d t with st := .waitSearch, wait := .resolve }))) ∧
          (needsResolve (getT s d t) w = false → ctxCor (getT s d t) = false →
            (ctxUnc (getT s d t) = true →
              exec i s = .next (faultErr v (raiseErr v d pgThr THR_ERR.SLICE_UNC (it2 t 0)) d t 7 0)) ∧
            (ctxUnc (getT s d t) = false → stepMax s d < (getT s d t).steps + 1 →
              exec i s = .next (faultErr v (raiseErr v d pgSeq SEQ_ERR.STEP (it1 pc)) d t 2 0))))))

/-- XTR, LIT, HSH and STAMP write what R185 to R190 compute, and the thread goes on. For every start of the instruction: XTR
copies the bit or byte field, LIT writes its literal, HSH writes the two hashes of the key under the region's seeds, STAMP
writes the current or the arrival time. An uncorrectable word among the slice bytes read faults with cause 7. The thread
then goes on at its successor, or faults with cause 7 when its condition reads an uncorrectable record. Nothing but the
start count, the slot and the thread changes. (R177, R185, R186, R187, R190, R215, spec/06_recipes.md) -/
def Obligations.SliceInstructionsCompute : Prop :=
  ∀ (s : State) (d t : Nat) (w : W64) (u : State) (th : Thread), Starts s d t w → u = insStart s d t w →
    th = insThread s.cyc (getT s d t) w → (th.child && th.orphan) = false →
    (∀ (v : Thread) (ok : Bool), (v.child && v.orphan) = false →
      (condUnc v = false → finish (setT u d t v) d t ok = setT u d t (wentOn s.cyc v ok)) ∧
      (condUnc v = true → finish (setT u d t v) d t ok =
        faultErr (setT u d t v) (sliceUnc (setT u d t v) d t (0x100 + 32 * v.crec)) d t 7 0)) ∧
    (∀ a n x v, insOp w = 1 → a = (if opnd w 27 1 = 0 then opnd w 15 12 else 8 * opnd w 18 9) →
      n = (if opnd w 27 1 = 0 then opnd w 0 5 + 1 else 8 * (opnd w 3 6 + 1)) →
      x = (if opnd w 27 1 = 0 then 1024 + opnd w 5 10 else 8 * opnd w 9 9) →
      v = putSlice th x n (readSlice th a n) →
      (readUnc th (a / 8) ((a + n - 1) / 8 - a / 8 + 1) = true →
        exec (.xtr d t) s = .next (faultErr u (sliceUnc u d t (a / 8)) d t 7 0)) ∧
      (readUnc th (a / 8) ((a + n - 1) / 8 - a / 8 + 1) = false → readCor th (a / 8) ((a + n - 1) / 8 - a / 8 + 1) = false →
        condUnc v = false → exec (.xtr d t) s = .next (setT u d t (wentOn s.cyc v true)))) ∧
    (∀ v, insOp w = 2 → v = putSlice th (1024 + 4 * opnd w 20 8) (opnd w 16 4 + 1) (opnd w 0 16) →
      condUnc v = false → exec (.lit d t) s = .next (setT u d t (wentOn s.cyc v true))) ∧
    (∀ p b seeds v, insOp w = 3 → p = opnd w 20 8 → b = widthBits (partWidth u d p) →
      seeds = (if opnd w 19 1 = 0 then srSeeds u d (getF u d PART_REGION.SR_REGION p)
        else crSeeds u d (getF u d PART_REGION.CL_REGION p)) →
      v = putSlice th (64 * opnd w 10 6) 64
        (hashKey seeds.1 (keyOf th (partWidth u d p)) b * 2 ^ 32 + hashKey seeds.2 (keyOf th (partWidth u d p)) b) →
      (readUnc th 0x80 (b / 8) = true → exec (.hsh d t) s = .next (faultErr u (sliceUnc u d t 0x80) d t 7 0)) ∧
      (readUnc th 0x80 (b / 8) = false → readCor th 0x80 (b / 8) = false → condUnc v = false →
        exec (.hsh d t) s = .next (setT u d t (wentOn s.cyc v true)))) ∧
    (∀ v, insOp w = 7 → v = putSlice th (64 * opnd w 22 6) 96 (if opnd w 21 1 = 0 then capture u d s.cyc none else th.arr) →
      condUnc v = false → exec (.stamp d t) s = .next (setT u d t (wentOn s.cyc v true)))

/-- SRCH, PROBE and CFETCH issue their search, step or fetch. For every start: a reserved result record faults with cause 4; a
held lock or an open link with cause 6; an invalid partition is a recipe error of code 3; an uncorrectable key word faults
with cause 7; a speculating thread waits for the resolution instead. Otherwise PROBE issues the store step and CFETCH the
cellar fetch. SRCH consults the step entry of its address and settles its search with DFAIL when a die of a best-effort
search is uncovered; else it queues the search, with a parallel store step when asked for; with a confident entry and RA
the thread runs ahead on its prediction, else it waits for the record. (R92, R188, R189, R202, R205, R215) -/
def Obligations.SearchAndStepInstructionsIssue : Prop :=
  ∀ (s : State) (d t : Nat) (w : W64) (u : State) (th : Thread) (i : Instr) (p r width : Nat) (key : Key), Starts s d t w →
    u = insStart s d t w → th = insThread s.cyc (getT s d t) w → p = opnd w 20 8 → r = opnd w 15 3 →
    width = partWidth u d p → key = keyOf th width →
    (insOp w = 4 ∧ i = .srch d t ∨ insOp w = 5 ∧ i = .probe d t ∨ insOp w = 6 ∧ i = .cfetch d t) →
    (reserved th r = true → exec i s = .next (faultErr u u d t 4 0)) ∧
    ((reserved th r || (insOp w == 4 && opnd w 18 2 == 2 && reserved th (r + 1))) = false →
      (mayNotWait th = true → exec i s = .next (faultErr u u d t 6 0)) ∧
      (mayNotWait th = false →
        (partValid u d p = false → exec i s = .next (if th.spec then waitResolve u d t else recipeError u d t 3)) ∧
        (partValid u d p = true → readUnc th 0x80 (widthBits width / 8) = true →
          exec i s = .next (faultErr u (sliceUnc u d t 0x80) d t 7 0)) ∧
        (partValid u d p = true → readUnc th 0x80 (widthBits width / 8) = false → readCor th 0x80 (widthBits width / 8) = false →
          (insOp w = 5 → exec i s = .next (issueStep
            (modT (waitRecord u d t r false .waitMem) d t fun th => { th with bounded := true })
            d t r (getF u d PART_REGION.SR_REGION p) key width (partFixed u d p) none none none 0)) ∧
          (insOp w = 6 → exec i s = .next (issueFetch (waitRecord u d t r false .waitMem) d t r
            (getF u d PART_REGION.CL_REGION p) (getF u d PART_REGION.SR_REGION p) key width none)) ∧
          (∀ v ent two ra x, insOp w = 4 → ent = entAt u d th.pc → v = consult u d ent → two = (opnd w 18 2 == 2) →
            ra = (opnd w 14 1 == 1 && isF v d SEQ_CTL.RA_EN && ent.isSome) →
            x = newSearch v d t r (opnd w 18 2) p (opnd w 10 2) (opnd w 12 1 == 1) key ent none ra →
            ((!partFixed v d p && (diesOf v (dieSetOf v d p)).any fun e => uncovered v (dieSetOf v d p) e) = true →
              exec i s = .next (settleSearch (waitRecord { v with nextId := v.nextId + 1 } d t r two .waitSearch) x 7)) ∧
            ((!partFixed v d p && (diesOf v (dieSetOf v d p)).any fun e => uncovered v (dieSetOf v d p) e) = false →
              (∀ y z, opnd w 13 1 = 1 →
                y = { v with nextId := v.nextId + 1, searches := v.searches ++ [{ x with par := some (v.nextId + 1) }] } →
                z = (match ent with
                  | some e => modEnt y d e fun q => { q with issue := wrapInc 32 q.issue 1 }
                  | none => y) →
                exec i s = .next (waitRecord (issueStep z d t r (getF v d PART_REGION.SR_REGION p) key (partWidth v d p)
                  (partFixed v d p) (some v.nextId) none none 4) d t r two .waitSearch)) ∧
              (∀ y, opnd w 13 1 = 0 → y = { v with nextId := v.nextId + 1, searches := v.searches ++ [x] } →
                (mayAhead v d th ent ra = none → exec i s = .next (waitRecord y d t r two .waitSearch)) ∧
                (∀ e, mayAhead v d th ent ra = some e → exec i s = .next (runAhead y d t e r two th w))))))))

/-- LOG, FORK and JOIN act, wait or fault as their rules give. LOG falls through without unit T, in golden replay or
without LOG; it counts with evidence off, else it sends the evidence part of the answer. FORK fails without a free
child slot; starts the child when there is room; else waits when asked to and a time-out is set, and fails when not;
where it would wait under a lock or an open link it faults with cause 6. JOIN under a lock or an open link with a running
child faults with cause 6; else it waits for the covered children. (R191, R192, R193, spec/06_recipes.md) -/
def Obligations.LogForkJoinComplete : Prop :=
  ∀ (s : State) (d t : Nat) (w : W64) (u : State) (th : Thread), Starts s d t w → u = insStart s d t w →
    th = insThread s.cyc (getT s d t) w →
    (insOp w = 8 →
      ((th.golden || !(hdrLog th.hdr || opnd w 24 1 == 1) || !u.part.unitT) = true →
        exec (.log d t) s = .next (finish u d t false)) ∧
      ((th.golden || !(hdrLog th.hdr || opnd w 24 1 == 1) || !u.part.unitT) = false →
        readUnc th (0x100 + 32 * min (opnd w 25 3) 5) (if opnd w 25 3 = 7 then 0 else 32) = false →
        readCor th (0x100 + 32 * min (opnd w 25 3) 5) (if opnd w 25 3 = 7 then 0 else 32) = false →
        (isF u 0 EVD_CTL.EN = false → exec (.log d t) s = .next (finish (bump u 0 EVD_OFF.COUNT) d t true)) ∧
        (isF u 0 EVD_CTL.EN = true → ∃ p : EvPart, p.die = d ∧ p.digest = reqDigest (answering u d th) ∧
          p.chan = th.chan ∧ p.forced = (opnd w 24 1 == 1 && !hdrLog th.hdr) ∧
          p.bits = (if opnd w 25 3 = 7 then th.respBits.getD 0 else recOf th (min (opnd w 25 3) 5)) ∧
          exec (.log d t) s = .next (match (answering u d th).dep with
            | some dep => finish (sendEvidence u p (answering u d th).arr dep) d t true
            | none => finish { u with evd := { u.evd with parts := u.evd.parts ++ [p] } } d t true)))) ∧
    (insOp w = 9 →
      (freeKid th = none → exec (.fork d t) s = .next (finish u d t false)) ∧
      (freeKid th ≠ none →
        ((forkRoom u d && (lowestFree u d).isSome && mget [] u.forkWait d == []) = true →
          readUnc th 0x1C0 64 = false → readCor th 0x1C0 64 = false →
          exec (.fork d t) s = .next (finish (startChild u d t (opnd w 14 14) (opnd w 10 3)) d t true)) ∧
        ((forkRoom u d && (lowestFree u d).isSome && mget [] u.forkWait d == []) = false →
          (opnd w 13 1 = 1 → getF u d THR_FORK_TMO.TMO ≠ 0 →
            (mayNotWait th = true → exec (.fork d t) s = .next (faultThread u d t 6 0)) ∧
            (mayNotWait th = false → readUnc th 0x1C0 64 = false → readCor th 0x1C0 64 = false →
              exec (.fork d t) s = .next { setT u d t { th with st := .waitJoin, wait := .fork (opnd w 14 14) (opnd w 10 3) s.cyc } with
                forkWait := mmod [] u.forkWait d fun l => l ++ [t] })) ∧
          (opnd w 13 1 = 0 ∨ getF u d THR_FORK_TMO.TMO = 0 → exec (.fork d t) s = .next (finish u d t false))))) ∧
    (insOp w = 10 →
      (mayNotWait th = true → (th.kids.filter (covered (opnd w 21 7))).any (fun k => !k.ended) = true →
        exec (.join d t) s = .next (faultThread u d t 6 0)) ∧
      (mayNotWait th = false ∨ (th.kids.filter (covered (opnd w 21 7))).all (fun k => k.ended) = true →
        exec (.join d t) s = .next
          (parentCheck (setT u d t { th with st := .waitJoin, wait := .join (opnd w 21 7) (opnd w 18 3) }) d t)))

/-- SEND and WAITE stage, take or wait for messages of an event channel. SEND of a golden thread fails. SEND takes a free
channel with room in its queue and stages its words, else waits as a sender. WAITE takes the oldest message, else
waits. Where it would wait under a lock, either faults with cause 6. Either faults with cause 6 inside an open linked sequence. (R194,
spec/06_recipes.md) -/
def Obligations.MessagesSentAndTaken : Prop :=
  ∀ (s : State) (d t : Nat) (w : W64) (u : State) (th : Thread) (ch : Nat), Starts s d t w → u = insStart s d t w →
    th = insThread s.cyc (getT s d t) w → ch = opnd w 23 5 →
    (insOp w = 11 → th.golden = true → exec (.send d t) s = .next (finish u d t false)) ∧
    (insOp w = 11 → th.golden = false → th.link = 0 → readUnc th (8 * opnd w 15 6) (8 * (opnd w 21 2 + 1)) = false →
      readCor th (8 * opnd w 15 6) (8 * (opnd w 21 2 + 1)) = false →
      ((getCh u d ch).holder = none → (getCh u d ch).senders = [] → (getCh u d ch).queue.length < 8 →
        exec (.send d t) s = .next (setT
          (modCh u d ch fun e => { e with holder := some t, staged := sliceWords th (8 * opnd w 15 6) (opnd w 21 2 + 1) }) d t
          { th with st := .run, wait := .send ch (sliceWords th (8 * opnd w 15 6) (opnd w 21 2 + 1)) s.cyc })) ∧
      (th.lock = false → ((getCh u d ch).holder ≠ none ∨ (getCh u d ch).senders ≠ [] ∨ 8 ≤ (getCh u d ch).queue.length) →
        exec (.send d t) s = .next (setT (modCh u d ch fun e => { e with senders := e.senders ++ [t] }) d t
          { th with st := .waitEvent, wait := .send ch (sliceWords th (8 * opnd w 15 6) (opnd w 21 2 + 1)) s.cyc })) ∧
      (th.lock = true → ((getCh u d ch).holder ≠ none ∨ (getCh u d ch).senders ≠ [] ∨ 8 ≤ (getCh u d ch).queue.length) →
        exec (.send d t) s = .next (faultThread u d t 6 0))) ∧
    (insOp w = 12 → th.link = 0 →
      (∀ m rest, (getCh u d ch).queue = m :: rest →
        exec (.waite d t) s = .next (finish (setT (restartWindow (modCh u d ch fun e => { e with queue := rest }) d) d t
          (putWords th (8 * opnd w 17 6) m)) d t true)) ∧
      ((getCh u d ch).queue = [] → th.lock = false →
        exec (.waite d t) s = .next (setT (modCh u d ch fun e => { e with waiters := e.waiters ++ [t] }) d t
          { th with st := .waitEvent, wait := .waite ch (8 * opnd w 17 6) s.cyc })) ∧
      ((getCh u d ch).queue = [] → th.lock = true → exec (.waite d t) s = .next (faultThread u d t 6 0))) ∧
    (insOp w = 11 ∨ insOp w = 12 → th.golden = false → 0 < th.link →
      exec (if insOp w = 11 then .send d t else .waite d t) s = .next (faultThread u d t 6 0))

/-- COMMIT, EMIT, TRAP and END send, answer, fault and end. COMMIT with waiting inside a link or lock faults with cause 6, with
a reserved record with cause 4; in golden replay it fails; with commits disabled it fails, posts its completion record when
it waits, and with LINK = 0 ends the open sequence (log 96); else it sends the area's command, links it, or waits for its
completion. EMIT answers the parent, sends the deferred notice (faulting with cause 6 under a lock or an open link), counts
an answer after an abort, faults on a second answer, or forms the response. TRAP faults with its code. END ends a child,
ends a top thread once its children have ended, or waits for them, faulting with cause 6 under a lock or an open link.
(R195, R196, R197, spec/06_recipes.md) -/
def Obligations.CommitEmitTrapEnd : Prop :=
  ∀ (s : State) (d t : Nat) (w : W64) (u : State) (th : Thread), Starts s d t w → u = insStart s d t w →
    th = insThread s.cyc (getT s d t) w →
    (∀ a waitc link r e, insOp w = 13 → sequenceOpen s d t = false →
      a = commitArea w → waitc = (opnd w 25 1 == 1) →
      link = (opnd w 24 1 == 1) → r = opnd w 21 3 → e = BitVec.ofNat 512 (readSlice th (8 * a) 512) →
      (waitc = true → link = true ∨ th.lock = true → exec (.commit d t) s = .next (faultThread u d t 6 0)) ∧
      (waitc = true → link = false → th.lock = false → reserved th r = true →
        exec (.commit d t) s = .next (faultThread u d t 4 0)) ∧
      (waitc = false ∨ link = false ∧ th.lock = false ∧ reserved th r = false →
        (readUnc th a 64 = true → exec (.commit d t) s = .next (faultErr u (sliceUnc u d t a) d t 7 0)) ∧
        (readUnc th a 64 = false → readCor th a 64 = false →
          (th.golden = true → exec (.commit d t) s = .next (finish u d t false)) ∧
          (∀ v y w0 w1 w2 w3, th.golden = false → isF u d UPD_CTL.COMMIT_EN = false ∨ isF u d UPD_CTL.EN = false →
            v = (if link then u else closeLink u d t) → y = (if link then th else { th with link := 0 }) →
            cplWords 2 (ceOp e) (ceTag e) (ceGra e) 0 0 0 = (w0, w1, w2, w3) →
            exec (.commit d t) s = .next (finish (setT v d t (if waitc then putRec y r (cplRec w0 w1 w2 w3) else y)) d t false)) ∧
          (th.golden = false → isF u d UPD_CTL.COMMIT_EN = true → isF u d UPD_CTL.EN = true →
            (waitc = false → link = true → th.link + 1 < 4 → exec (.commit d t) s = .next
              (finish (setT (sendCmd u d 0x49 (.commit d t) e true) d t { th with link := th.link + 1 }) d t true)) ∧
            (waitc = false → link = false ∨ 4 ≤ th.link + 1 → exec (.commit d t) s = .next
              (finish (setT (closeLink (sendCmd u d 0x49 (.commit d t) e false) d t) d t { th with link := 0 }) d t true)) ∧
            (waitc = true → exec (.commit d t) s = .next
              (setT (closeLink (sendCmd u d 0x49 (.commit d t) e false) d t) d t
                { th with link := 0, st := .waitMem, wait := .commit u.nextId r })))))) ∧
    (∀ r two x, insOp w = 14 → r = opnd w 25 3 → two = (opnd w 24 1 == 1 && opnd w 20 4 == 15) →
      x = (if opnd w 20 4 = 15 then recOf th r else encRec { status := opnd w 20 4 }) →
      (readUnc th (0x100 + 32 * r) (if two then 64 else 32) = true →
        exec (.emit d t) s = .next (faultErr u (sliceUnc u d t (0x100 + 32 * r)) d t 7 0)) ∧
      (readUnc th (0x100 + 32 * r) (if two then 64 else 32) = false →
       readCor th (0x100 + 32 * r) (if two then 64 else 32) = false →
        (th.child = true → exec (.emit d t) s =
          .next (finish (modT u d th.parent fun p => putRecBoth p th.rrec x) d t true)) ∧
        (th.child = false → th.deferred = true →
          (mayNotWait th = true → exec (.emit d t) s = .next (faultThread u d t 6 0)) ∧
          (mayNotWait th = false → exec (.emit d t) s =
            .next (pushNotice (setT u d t { th with deferred := false, st := .waitMem, wait := .notice }) d th.chan (hdrTag th.hdr)
              (hdrRecipe th.hdr) (decRec x).status two false x (if two then recOf th (r + 1) else 0) (some t)))) ∧
        (th.child = false → th.deferred = false → th.sent = true →
          (th.aborted = true → exec (.emit d t) s = .next (finish (bump u d DBG_LATE_EMIT.COUNT) d t true)) ∧
          (th.aborted = false → exec (.emit d t) s = .next (faultThread u d t 5 0))) ∧
        (th.child = false → th.deferred = false → th.sent = false → exec (.emit d t) s =
          .next (finish (formResp u d t { status := (decRec x).status, rec1 := x, rec2 := if two then some (recOf th (r + 1)) else none, wr := none, deferred := false }) d t true)))) ∧
    (insOp w = 15 → exec (.trap d t) s = .next (faultThread u d t 1 (opnd w 20 8))) ∧
    (insOp w = 16 →
      (th.child = true → exec (.endThread d t) s = .next (childEnd u d t false)) ∧
      (th.child = false → th.kids.all (fun k => k.ended) = true → exec (.endThread d t) s = .next (endTop u d t)) ∧
      (th.child = false → th.kids.any (fun k => !k.ended) = true →
        (mayNotWait th = true → exec (.endThread d t) s = .next (faultThread u d t 6 0)) ∧
        (mayNotWait th = false →
          exec (.endThread d t) s = .next (setT u d t { th with st := .waitJoin, wait := .kids }))))

/-- A resolved speculation confirms or squashes; a bad recipe word is restored; an unused opcode stops. When the real
record equals the predicted one in its match fields the speculation area becomes the slice, the real records stand in it,
the use is counted, and the thread goes on: an instruction that waited for the resolution can run again, a test that waited
for the record is made, a cellar step that was put off starts. Otherwise the speculative work is dropped, the squash
counted, and the thread continues from the step with the real record, four CS cycles later.
RECIPE_WORD_RESTORE leaves a readable word and rewrites a bad one from the first die with a readable copy.
UNUSED_OPCODE_FETCH on a thread that may run faults reservedOpcode exactly when its word holds a reserved opcode, and
otherwise changes nothing. (R172, R176, R203, spec/06_recipes.md) -/
def Obligations.SpeculationResolvesAndWordsRestore : Prop :=
  ∀ (s : State) (d t : Nat),
    (∀ v th real pred, th = getT s d t → th.real = some v → th.spec = true → real = decRec v → pred = decRec (recOf th th.specRec) →
      (∀ u x, encRec (matchFields real) = encRec (matchFields pred) →
        u = modEnt s d th.specEnt (fun y => { y with use := wrapInc 32 y.use 1 }) →
        x = putReal { th with slice := sliceView th, unc := execSpeculationResolve.moveBits th.unc,
                              cor := execSpeculationResolve.moveBits th.cor, spec := false, real := none, real2 := none, held := none }
              th.specRec { real with spec := true, pend := false } th.real2 →
        (x.wait = .resolve → exec (.speculationResolve d t) s = .next (setT u d t (again u.cyc x))) ∧
        (x.wait = .record th.specRec → exec (.speculationResolve d t) s =
          .next (finish (setT u d t { x with word := th.specWord }) d t (decide (real.status < 2)))) ∧
        (∀ r, x.wait = .record r → r ≠ th.specRec →
          (th.held = none → exec (.speculationResolve d t) s = .next (setT u d t x)) ∧
          (∀ h, th.held = some h → exec (.speculationResolve d t) s =
            .next (startFetch (setT u d t x) d t h.rno h.region h.srRgn h.key h.width h.ent)))) ∧
      (∀ u x, encRec (matchFields real) ≠ encRec (matchFields pred) →
        u = dropSpeculative (modEnt s d th.specEnt fun y => { y with squash := wrapInc 32 y.squash 1 }) d t →
        x = putReal { th with unc := execSpeculationResolve.dropArea th.unc, cor := execSpeculationResolve.dropArea th.cor,
                              spec := false, real := none, real2 := none, held := none, readyAt := s.cyc + 4 }
              th.specRec { real with spec := false, pend := false } th.real2 →
        exec (.speculationResolve d t) s =
          .next (finish (setT u d t { x with crec := th.specRec, word := th.specWord }) d t (decide (real.status < 2))))) ∧
    (∀ a, recipeFetch s d a ≠ .bad → exec (.recipeWordRestore d a) s = .next s) ∧
    (∀ a v, recipeFetch s d a = .bad →
      ((restoreOrder s d).filter fun e => !fenced s e).findSome? (fun e => (recipeFetch s e a).data?) = some v →
      exec (.recipeWordRestore d a) s = .next { s with
        recipe := mset ⟨0, 0⟩ s.recipe (d * 16384 + a % 16384) ⟨BitVec.ofNat 64 v, BitVec.ofNat 8 (secField 64 7 v)⟩ }) ∧
    (∀ w : W64, canRun s d t = true → recipeFetch s d (getT s d t).pc = .ok w.toNat →
      (reservedOp (insOp w) = true → exec (.unusedOpcodeFetch d t) s = .fault .reservedOpcode) ∧
      (reservedOp (insOp w) = false → exec (.unusedOpcodeFetch d t) s = .next s)) ∧
    (canRun s d t = false → exec (.unusedOpcodeFetch d t) s = .next s)

/-- Each wait of a thread ends by its event, its time-out or its grant. A sender at the head takes the free channel; a
visible message is queued and handed to the first waiter; an event time-out fails the waiting instruction; a waiting
FORK starts when there is room and fails at its time-out; a fault notice starts the supervisor on thread 0 when its
entry is valid; a faulted thread is released once its children ended; the quiescence detector fires, then kills, as
R231 and R232 give. (R192, R194, R221, R222, R227, R228, R231, R232, spec/06_recipes.md, spec/07_threads.md) -/
def Obligations.ThreadWaitsEnd : Prop :=
  ∀ (s : State) (d ch t : Nat),
    (∀ rest ws n x v th, (getCh s d ch).senders = t :: rest → th = getT s d t → th.wait = .send n ws x →
      (getCh s d ch).holder = none → (getCh s d ch).queue.length < 8 →
      v = modCh s d ch (fun e => { e with holder := some t, staged := ws, senders := rest }) →
      exec (.sendSlotGrant d ch) s = .next (quiet (setT v d t
        (if th.st = .halted then { th with rem := .run, haltAt := s.cyc } else { th with st := .run })) d)) ∧
    (∀ v, (getCh s d ch).holder = some t → (getT s d t).st = .run →
      v = modCh s d ch (fun e => { e with queue := e.queue ++ [e.staged], staged := [], holder := none }) →
      exec (.messageVisible d ch) s = .next (takeMessage (finish (restartWindow v d) d t true) d ch)) ∧
    (∀ m q w ws n dst x v, (getCh s d ch).queue = m :: q → (getCh s d ch).waiters = w :: ws → (getT s d w).wait = .waite n dst x →
      v = restartWindow (modCh s d ch (fun e => { e with queue := q, waiters := ws })) d →
      takeMessage s d ch = finish (setT v d w (putWords (getT v d w) dst m)) d w true) ∧
    (∀ v, v = modCh s d ch (fun e => { e with senders := e.senders.filter (· != t), waiters := e.waiters.filter (· != t) }) →
      (getF s d THR_EVT_TMO.TMO = 0 → exec (.eventTimeout d t) s = .next s) ∧
      (getF s d THR_EVT_TMO.TMO ≠ 0 →
        (∃ a b, (getT s d t).wait = .send ch a b ∧ (getCh s d ch).senders.contains t = true) ∨
        (∃ a b, (getT s d t).wait = .waite ch a b ∧ (getCh s d ch).waiters.contains t = true) →
        exec (.eventTimeout d t) s = .next (quiet (finish v d t false) d))) ∧
    (∀ rest target rrec x, mget [] s.forkWait d = t :: rest → (getT s d t).wait = .fork target rrec x →
      (forkRoom s d = true → lowestFree s d ≠ none → exec (.forkWaitGrant d) s =
        .next (finish (startChild { s with forkWait := mset [] s.forkWait d rest } d t target rrec) d t true)) ∧
      (forkRoom s d = false → exec (.forkWaitGrant d) s = .next s)) ∧
    (∀ target rrec x, (getT s d t).wait = .fork target rrec x → exec (.forkTimeout d t) s =
      .next (finish { s with forkWait := mmod [] s.forkWait d fun l => l.filter (· != t) } d t false)) ∧
    (∀ n rest e w, mget [] s.fltq d = n :: rest → w = setBE 0 (8 * 0x1C0) 128 n → (getT s d 0).st = .free → e = getF s d THR_SUP.ENTRY →
      isF s d (SEQ_ENTRY.VALID e) = true → gone s d = false →
      exec (.faultNoticeDispatch d) s = .next (setT { s with fltq := mset [] s.fltq d rest } d 0
        { Thread.zero with st := .ready, pc := getF s d (SEQ_ENTRY.START e), slice := w, readyAt := s.cyc, supPage := noticePage (n / 2 ^ 96) })) ∧
    (∀ val, t = val % 512 → (getT s d t).st = .faulted →
      ((∀ k ∈ (getT s d t).kids, k.ended = true) → exec (.threadRelease d val) s = .next (freeT s d t)) ∧
      ((∃ k ∈ (getT s d t).kids, k.ended = false) → exec (.threadRelease d val) s = .next s)) ∧
    (∀ u, u = bumpSat (detectorNotice { s with quiesce := mset 0 s.quiesce d 1 } d 0x10 (eventSet s d).length) d THR_QUIESCE_CNT.FIRES →
      isF s d THR_CTL.QUIESCE_EN = true → eventSet s d ≠ [] → mget 0 s.quiesce d = 0 →
      exec (.quiesceFire d) s = .next (
        if (eventSet s d).contains 0 then raiseErr (raiseErr u d pgThr THR_ERR.QUIESCE (it1 (0x10 * 2 ^ 24))) d pgThr THR_ERR.QSUP (it1 (0x10 * 2 ^ 24))
        else raiseErr u d pgThr THR_ERR.QUIESCE (it1 (0x10 * 2 ^ 24)))) ∧
    (mget 0 s.quiesce d = 1 → getF s d THR_QUIESCE_KILL.KILL ≠ 0 →
      (eventSet s d = [] → exec (.quiesceKill d) s = .next (restartWindow s d)) ∧
      (∀ u kids tops, eventSet s d ≠ [] → kids = (eventSet s d).filter (fun t => (getT s d t).child) →
        tops = (eventSet s d).filter (fun t => !(getT s d t).child) →
        u = raiseErr (bumpSat (detectorNotice s d 8 (eventSet s d).length) d THR_QUIESCE_CNT.KILLS) d pgThr THR_ERR.QKILL (it1 (8 * 2 ^ 24)) →
        exec (.quiesceKill d) s = .next (restartWindow ((kids ++ tops).foldl (fun s t => quiesceEnd s d t)
          (tops.foldl (fun s t => deviceAnswer s d t 10) u)) d)))

/-- The debugger halts, resumes, steps and kills only while a debug level is granted. With LEVEL 0 the four commands
change nothing. Otherwise HALT halts a thread in any other state, RESUME and STEP put it back, KILL faults it with
cause 9. A halted guaranteed top thread is answered at its budget with status 6. A halted holder's channel slot is
released by command or by the hold limit, counted. PREDICTOR_CLEAR clears every confidence, and STEP_ENTRY_SELECT
shows an entry and may clear its counts. HALT in any state but FREE is log 39. (R202, R206, R233, R234, R235,
spec/06_recipes.md, spec/07_threads.md) -/
def Obligations.DebuggerHaltsAndResumes : Prop :=
  ∀ (s : State) (d ch t : Nat), t = getF s d DBG_THREAD.THREAD →
    (getF s d DBG_CTL.LEVEL = 0 → ∀ c ∈ [Instr.halt d, .resume d, .step d, .kill d], exec c s = .next s) ∧
    (getF s d DBG_CTL.LEVEL ≠ 0 →
      ((getT s d t).st ≠ .free → (getT s d t).st ≠ .halted →
        ∀ th, th = getT s d t →
        exec (.halt d) s = .next (quiet (setT s d t { th with st := .halted, rem := th.st, haltAt := s.cyc, step1 := false }) d)) ∧
      ((getT s d t).st = .halted →
        (exec (.resume d) s = .next (unhalt s d t false)) ∧
        ((getT s d t).rem ≠ .faulted → exec (.step d) s = .next (unhalt s d t true) ∧ exec (.kill d) s = .next (faultThread s d t 9 0))) ∧
      ((getT s d t).st ≠ .free → (getT s d t).st ≠ .faulted → (getT s d t).st ≠ .halted → exec (.kill d) s = .next (faultThread s d t 9 0))) ∧
    (∀ one th, th = getT s d t → th.sendLost = false → th.wait ≠ .kids → th.rem ≠ .faulted →
      unhalt s d t one = setT s d t { th with st := th.rem, rem := .free, step1 := one, sendLost := false }) ∧
    (∀ t u, (getT s d t).st = .halted → (getT s d t).child = false → (getT s d t).sent = false → t ≠ 0 →
      isF s 0 (LKP_CH_CFG.CLASS (getT s d t).chan) = true → u = formResp s d t (respStatus 6) →
      exec (.haltedBudgetAbort d t) s = .next (raiseErr (modT u d t fun th => { th with aborted := true }) d pgDbg DBG_ERR.ABORTED it0)) ∧
    (∀ t, (getCh s d ch).holder = some t → (getT s d t).st = .halted →
      (∀ val, ch = val % 32 → exec (.dbgChannelRelease d val) s = .next (releaseSlot s d ch t)) ∧
      (getF s d DBG_CTL.LEVEL = 1 → getF s d DBG_HOLD_MAX.HOLD ≠ 0 → exec (.dbgAutoRelease d ch) s =
        .next (raiseErr (bump (releaseSlot s d ch t) d DBG_AUTO_REL.COUNT) d pgDbg DBG_ERR.AUTO_REL it0)) ∧
      (∀ e, e = getCh s d ch → getCh (releaseSlot s d ch t) d ch = { e with holder := none, staged := [] }) ∧
      (∀ th, th = getT s d t → getT (releaseSlot s d ch t) d t = { th with sendLost := true }) ∧
      getF (releaseSlot s d ch t) d (THR_EVT.DROPPED ch) =
        min (2 ^ (THR_EVT.DROPPED ch).width - 1) (getF s d (THR_EVT.DROPPED ch) + 1)) ∧
    (∃ u, exec (.predictorClear d) s = .next u ∧ (∀ e, e < 256 → getEnt u d e = { getEnt s d e with conf := 0 }) ∧ u.regs = s.regs) ∧
    (∀ val e, e = val % 256 → ∃ u, exec (.stepEntrySelect d val) s = .next u ∧
      getF u d SEQ_STEP_IDX.STEP = e ∧
      getF u d SEQ_STEP_ADDR.ADDR = (getEnt s d e).addr % 2 ^ SEQ_STEP_ADDR.ADDR.width ∧
      getF u d SEQ_STEP_ISSUE.COUNT = (getEnt s d e).issue % 2 ^ 32 ∧ getF u d SEQ_STEP_USE.COUNT = (getEnt s d e).use % 2 ^ 32 ∧
      getF u d SEQ_STEP_SQUASH.COUNT = (getEnt s d e).squash % 2 ^ 32 ∧
      getEnt u d e = if val.testBit 31 then { getEnt s d e with issue := 0, use := 0, squash := 0 } else getEnt s d e)

/-- A search launches on its dies, each die contributes, and the merge settles it. A search of an invalid or too deep
partition is a recipe error (3 or 4), for a speculating thread only once the speculation is resolved; one with an
uncovered die, or that reaches beyond the packages there are, settles with DFAIL; with the port below in a retrain a
fixed-latency one settles with RETRY and another waits; else it launches: a booked search on its booked slots, or with
RETRY when they are not there; another on granted slots, and with the credit its frame needs. Each die's contribution
follows R80 and R89, and a poisoned result cell makes the search LOST (R107). When all contributions have come the merge
sends them up the cascade or settles the record. A pair mismatch re-verifies the row on each die whose control word has
not changed. (R71, R80, R84, R107, R120, R130, spec/03_attic_search.md, spec/04_dies_cascade_mirroring.md) -/
def Obligations.SearchesLaunchVerifyAndMerge : Prop :=
  ∀ (s : State) (sid : Nat),
    (∀ x, s.searches.find? (fun x => x.sid == sid && x.launched.isNone) = some x →
      (∀ b, x.inbound = some b →
        ((diesOf s x.dieSet).any (fun d => uncovered s x.dieSet d) = true → exec (.searchLaunch sid) s = .next
          (modSearch s sid fun x => { x with launched := some s.cyc, dieSet := 0, contribs := [(0, { Contrib.none with dfail := true })] })) ∧
        ((diesOf s x.dieSet).any (fun d => uncovered s x.dieSet d) = false →
          exec (.searchLaunch sid) s = .next (launchPorts s { x with launched := some s.cyc, booked := isBooked s x }))) ∧
      (∀ ask, x.inbound = none → ask = (x.spec && (getT s x.home x.thread).spec) →
        (ask = true → partValid s x.home x.part = false ∨ x.depth < partDepth s x.home x.part → exec (.searchLaunch sid) s = .next s) ∧
        (ask = false → partValid s x.home x.part = false →
          exec (.searchLaunch sid) s = .next (recipeError (dropSearch s sid) x.home x.thread 3)) ∧
        (ask = false → partValid s x.home x.part = true → x.depth < partDepth s x.home x.part →
          exec (.searchLaunch sid) s = .next (recipeError (dropSearch s sid) x.home x.thread 4)) ∧
        (∀ y dep, partValid s x.home x.part = true → dep = partDepth s x.home x.part → dep ≤ x.depth →
          y = { fixDescriptor s x with booked := isBooked s (fixDescriptor s x) } →
          ((diesOf s y.dieSet).any (fun d => uncovered s y.dieSet d) = true →
            exec (.searchLaunch sid) s = .next (settleSearch s y 7)) ∧
          ((diesOf s y.dieSet).any (fun d => uncovered s y.dieSet d) = false →
            (dep = 0 → exec (.searchLaunch sid) s = .next (launchPorts s y)) ∧
            (dep ≠ 0 → getF s 0 CSC_STS.DEPTH < dep ∨ isF s 0 CSC_STS.D_UP = false →
              exec (.searchLaunch sid) s = .next (settleSearch s y 7)) ∧
            (dep ≠ 0 → dep ≤ getF s 0 CSC_STS.DEPTH → isF s 0 CSC_STS.D_UP = true →
              exec (.searchLaunch sid) s = .next (if getF s 0 CSC_STS.D_STATE = 7 then (if y.fl then settleSearch s y 3 else s)
                else launchPorts s y)))))) ∧
    (∀ x ds, ds = (diesOf s x.dieSet).filter (fun d => launches s d) →
      (∀ (own mine : Book → Bool) t, x.booked = true → own = (fun b => b.home == x.home && b.thread == bookName x) →
        mine = (fun b => b.cyc == s.cyc && own b) → t = { s with books := s.books.filter fun b => !mine b } →
        (s.books.any mine = true →
          ((∀ d ∈ ds, s.books.any (fun b => mine b && b.die == d) = true) → launchPorts s x = launchOn (settleSlots t ds) x ds) ∧
          ((∃ d ∈ ds, s.books.any (fun b => mine b && b.die == d) = false) → launchPorts s x = missSlot t x)) ∧
        (s.books.any mine = false → launchPorts s x =
          if s.books.any (fun b => own b && decide (s.cyc < b.cyc)) then s else if ds = [] then launchOn s x ds else missSlot s x)) ∧
      (∀ (mine : Grant → Bool) beats, x.booked = false →
        mine = (fun g => g.inst == 0 && g.cyc == s.cyc && g.owner == searchOwner s x && ds.contains g.die) →
        beats = (if x.inbound = none ∧ depthOf x.cmask ≠ 0 then (searchFrame s x).length else 0) →
        (mget 0 s.link (lkCredit 1) < beats ∨ (∃ d ∈ ds, s.grants.any (fun g => mine g && g.die == d) = false) → launchPorts s x = s) ∧
        (beats ≤ mget 0 s.link (lkCredit 1) → (∀ d ∈ ds, s.grants.any (fun g => mine g && g.die == d) = true) →
          launchPorts s x = launchOn { s with link := mset 0 s.link (lkCredit 1) (mget 0 s.link (lkCredit 1) - beats)
                                              grants := s.grants.filter fun g => !mine g } x ds))) ∧
    (∀ d flit x y f, s.searches.find? (fun x => x.sid == sid) = some x → x.samples.find? (fun y => y.die == d) = some y →
      contribAt x d = none → f = (if d = x.home then 0 else flit) →
      ∃ t, exec (.dieContribution sid ⟨d, flit⟩) s = .next t ∧
        t.searches = (modSearch s sid fun z =>
          { z with contribs := z.contribs ++ [(d, contribOf x.mode x.width x.key y)], lost := z.lost || decide (4 ≤ f) }).searches ∧
        (x.mode = 1 → t.rows = s.rows ∧ (f = 0 → t.regs = s.regs))) ∧
    (∀ x u v own c, s.searches.find? (fun x => x.sid == sid && x.launched.isSome) = some x → samplesIn s x = true →
      (needsBelow s x = true → x.below ≠ none) → packageResult s x = (u, own) → v = emitResult u x →
      c = (let o := { own with dfail := own.dfail || (!avail s && x.samples.any fun y => (contribAt x y.die).isNone), lost := own.lost || x.lost }
           match x.below with
           | some b => mergeC o b
           | none => o) →
      (∀ b fr, x.inbound = some b → fr = sealFrame (contribFrame b x.mode c) →
        (isF v 0 CSC_STS.U_UP = true → getF v 0 CSC_STS.U_STATE ≠ 7 → x.fl = true →
          exec (.packageMerge sid) s = .next (dropSearch (emitOut v (.frame 0 fr)) sid)) ∧
        (isF v 0 CSC_STS.U_UP = true → getF v 0 CSC_STS.U_STATE ≠ 7 → x.fl = false → fr.length ≤ mget 0 v.link (lkCredit 0) →
          exec (.packageMerge sid) s = .next (dropSearch (emitOut
            { v with link := mset 0 v.link (lkCredit 0) (mget 0 v.link (lkCredit 0) - fr.length) } (.frame 0 fr)) sid)) ∧
        (isF v 0 CSC_STS.U_UP = false ∨ getF v 0 CSC_STS.U_STATE = 7 ∧ x.fl = true →
          exec (.packageMerge sid) s = .next (dropSearch v sid))) ∧
      (x.inbound = none → exec (.packageMerge sid) s = .next
        (afterSearch (if c.lost && !c.dfail && u.part.unitK then bump v 0 CSC_LOST_CNT.LOST else v) x (searchRec x.mode c) (searchRec2 c)))) ∧
    (∀ c rest u, s.pairChecks = c :: rest → u = { s with pairChecks := rest } →
      exec .pairReverify s = .next (reverify (reverify u c (2 * c.pair) c.ctrlE) c (2 * c.pair + 1) c.ctrlO)) ∧
    (∀ c d was, reverify s c d was = if (getRow s d c.gra).ctrl ≠ was ∨ (verify c.width c.key (entryAt s d c)).pass = true then s
      else queueSuspect (markSuspect s d c.gra) d c.gra)

/-- Search frames pass down, contributions pass up, and lost ones are timed out. A beat of an unknown type is discarded,
counted and recorded. A SEARCH frame is passed on to the D port, waiting for credit when it is best-effort, and its beats
give credit back; a CRC error counts and records it; a frame that does not concern this package is not searched here; one
that does queues its search, or contributes LOST when its fixed slots are not owned. A CONTRIB frame settles the search
that waits for it; a CRC error or a time-out makes it LOST. (R116, R117, R118, R120, R124, spec/04_dies_cascade_mirroring.md) -/
def Obligations.CascadeFramesAndTimeouts : Prop :=
  ∀ (s : State) (b : Nat) (rest fr : List Nat), fr = (b :: rest).take (frameLen b) →
    (portOpen s 0 = true →
      (fld b 252 4 ≠ 1 → exec (.cascadeSearchFrame b []) s = .next (badBeat s 0) ∧
        ∀ c cs, rest = c :: cs → exec (.cascadeSearchFrame b rest) s = exec (.cascadeSearchFrame c cs) (badBeat s 0)) ∧
      (∀ u, fld b 252 4 = 1 → u = (if frFl b then passOn s fr else freeBeats (passOn s fr) 0 fr.length) →
        (frameGood fr = false → exec (.cascadeSearchFrame b rest) s =
          .next (raiseErr (bumpSat u 0 CSC_CRC_CNT.U_CRC) 0 pgCsc CSC_ERR.CRC it0)) ∧
        (∀ x k v, frameGood fr = true → x = beyond u (inboundSearch u fr) → k = cascPos u → v = { u with nextId := u.nextId + 1 } →
          (depthOf x.cmask < k → exec (.cascadeSearchFrame b rest) s = .next v) ∧
          (k ≤ depthOf x.cmask → x.cmask.testBit k = false → exec (.cascadeSearchFrame b rest) s =
            .next { v with searches := v.searches ++ [{ x with launched := some v.cyc, dieSet := 0 }] }) ∧
          (k ≤ depthOf x.cmask → x.cmask.testBit k = true → x.fl = false → exec (.cascadeSearchFrame b rest) s =
            .next { v with searches := v.searches ++ [x] }) ∧
          (∀ ds pos c, k ≤ depthOf x.cmask → x.cmask.testBit k = true → x.fl = true → ds = diesOf v x.dieSet → pos = frSlot (fr.headD 0) →
            c = nextSlot v pos ds →
            ((!isF v 0 FLT_ERST.GO && ds.all (fun d => slotOf v d 0 pos == 0x14)) = true → exec (.cascadeSearchFrame b rest) s =
              .next { v with books := v.books ++ (ds.map fun d => (⟨d, c, 0x13, 0, 512 + x.sid, 0⟩ : Book)), searches := v.searches ++ [x] }) ∧
            ((!isF v 0 FLT_ERST.GO && ds.all (fun d => slotOf v d 0 pos == 0x14)) = false → exec (.cascadeSearchFrame b rest) s =
              .next { v with searches := v.searches ++ [{ x with launched := some v.cyc, dieSet := 0, contribs := [(0, belowLost)] }] })))) ∧
      (frFl (fr.headD 0) = true → passOn s fr = if portOpen s 1 then emitOut s (.frame 1 fr) else s) ∧
      (frFl (fr.headD 0) = false → portOpen s 1 = true → s.relay = [] → fr.length ≤ mget 0 s.link (lkCredit 1) →
        passOn s fr = emitOut (setLk s (lkCredit 1) (mget 0 s.link (lkCredit 1) - fr.length)) (.frame 1 fr))) ∧
    (portOpen s 1 = true → fld b 252 4 = 2 →
      ∀ u x, u = (if frameGood fr then s else raiseErr (bumpSat s 0 CSC_CRC_CNT.D_CRC) 0 pgCsc CSC_ERR.CRC it0) →
        (u.searches.find? fun x => contribFor x (fld (fr.headD 0) 240 12) && needsBelow u x) = some x →
        exec (.cascadeContribFrame b rest) s = .next (setBelow (if x.fl then u else freeBeats u 1 fr.length) x.sid
          (if frameGood fr then contribOfFrame fr else belowLost))) ∧
    (∀ sid x, (s.searches.find? fun x => x.sid == sid && x.launched.isSome && x.fl && x.below.isNone && needsBelow s x) = some x →
      exec (.contribTimeout sid) s = .next (setBelow s sid belowLost)) ∧
    (∀ port, portOn s port = true → isF s 0 (pUp port) = true → exec (.cascadeBadTypeBeat port) s =
      .next (raiseErr (setLk s (lkBad port) (mget 0 s.link (lkBad port) + 1)) 0 pgCsc CSC_ERR.BAD_TYPE it0))

/-- Cascade lanes drop, return and retrain by control beats. Control beats carry credit and lane maps and answer the drop
and return handshakes, each with a beat of the device's own (log 86); a failed lane starts the drop handshake or, below
two lanes, a retrain; a returned lane is proposed when returns are enabled, each beside the change that waits for its
MARK; a retrain ends with the lanes trained and full credit (log 84), or with the link down after three failures; a link
comes up only with the right position and a flight time of at most 3, and an up D port follows the chain below it (log
87). (R114, R119, R125, R126, spec/04_dies_cascade_mirroring.md) -/
def Obligations.CascadeLanesDropAndReturn : Prop :=
  ∀ (s : State) (port lane : Nat), portOn s port = true →
    (isF s 0 (pUp port) = true →
      (∀ beat u v w lmap, lmap = fld beat 229 4 → u = setLk s (lkCredit port) (min 256 (mget 0 s.link (lkCredit port) + fld beat 240 12)) →
        v = (if port = 1 then flushRelay u.relay.length (setLk u lkGmin (fld beat 234 6 + 1)) else u) →
        w = (if beat.testBit 233 then switchLanes (if port = 0 then setLk v lkBase (v.cyc % 64) else v) port else v) →
        (fld beat 226 3 = 1 → exec (.cascadeControlBeat port beat) s =
          .next (sendControl (setF (pendLanes w port lmap false) 0 (pState port) 6) port lmap 2)) ∧
        (fld beat 226 3 = 2 ∨ fld beat 226 3 = 4 → exec (.cascadeControlBeat port beat) s =
          .next (sendControl (setLk w (lkWait port) 0) port (getF w 0 (pLanes port)) 0)) ∧
        (fld beat 226 3 = 3 → exec (.cascadeControlBeat port beat) s = .next (sendControl (pendLanes w port lmap false) port lmap 4)) ∧
        (fld beat 226 3 = 5 → exec (.cascadeControlBeat port beat) s = .next (if getF w 0 (pState port) = 7 then w
          else sendControl (startRetrain w port) port (getF (startRetrain w port) 0 (pLanes port)) 5)) ∧
        (fld beat 226 3 = 0 → exec (.cascadeControlBeat port beat) s = .next (sendControl w port (getF w 0 (pLanes port)) 0))) ∧
      (∀ lmap lstate, sendControl s port lmap lstate =
        setLk (emitOut s (.frame port [controlBeat s port lmap lstate])) (lkFreed port) 0) ∧
      (∀ old, old = lanesNext s port → old.testBit lane = true → getF s 0 (pState port) ≠ 7 →
        (popcount (old - 2 ^ lane) 4 < 2 → exec (.cascadeLaneFail port lane) s = .next (startRetrain s port)) ∧
        (2 ≤ popcount (old - 2 ^ lane) 4 → exec (.cascadeLaneFail port lane) s =
          .next (sendControl (setF (pendLanes s port (old - 2 ^ lane) true) 0 (pState port) 6) port (old - 2 ^ lane) 1))) ∧
      (∀ new_, isF s 0 CSC_CTL.RETURN = true → (lanesNext s port).testBit lane = false → lane < 4 → new_ = lanesNext s port + 2 ^ lane →
        exec (.cascadeLaneReturnReady port lane) s = .next (sendControl (pendLanes s port new_ true) port new_ 3)) ∧
      (getF s 0 (pLanes port) ≠ 15 → exec .cascadeReturn s = .next (setF s 0 CSC_CTL.RETURN 1)) ∧
      (∀ u v, u = (if portOn s 0 && isF s 0 (pUp 0) then startRetrain s 0 else s) →
        v = (if portOn s 1 && isF s 0 (pUp 1) then startRetrain u 1 else u) → exec .cascadeRetrain s = .next (setF v 0 CSC_CTL.RETRAIN 1)) ∧
      (∀ lanes npos flight below, exec (.cascadeLinkUp port lanes npos flight below) s =
        .next (if port = 1 then setF s 0 CSC_STS.DEPTH (1 + below) else s))) ∧
    (getF s 0 (pState port) = 6 → mget 0 s.link (lkWait port) = 1 → exec (.cascadeDropTimeout port) s = .next (startRetrain s port)) ∧
    (getF s 0 (pState port) = 7 → ∀ (ok : Bool) lanes n t u, n = mget 0 s.link (lkFails port) + 1 →
      t = setLk (setLk (setLk (setF (setF s 0 (pState port) 5) 0 (pLanes port) lanes) (lkFails port) 0) (lkCredit port) 256) (lkFreed port) 0 →
      u = (if ok then (if port = 1 then flushRelay t.relay.length t else t)
        else if n < 3 then setLk s (lkFails port) n else linkDown (setLk s (lkFails port) 0) port) →
      exec (.cascadeRetrainDone port ok lanes) s =
        .next (if getF u 0 CSC_STS.U_STATE = 7 ∨ getF u 0 CSC_STS.D_STATE = 7 then u else setF u 0 CSC_CTL.RETRAIN 0)) ∧
    (isF s 0 (pUp port) = false → ∀ lanes npos flight below u,
      u = setF s 0 (if port = 0 then CSC_FLIGHT.U_FLIGHT else CSC_FLIGHT.D_FLIGHT) flight →
      (port = 0 → npos + 1 ≠ cascPos s → exec (.cascadeLinkUp port lanes npos flight below) s =
        .next (raiseErr (setF u 0 CSC_STS.POS_ERR 1) 0 pgCsc CSC_ERR.POS it0)) ∧
      (port ≠ 0 ∨ npos + 1 = cascPos s → 3 < flight → exec (.cascadeLinkUp port lanes npos flight below) s =
        .next (raiseErr (setF u 0 CSC_STS.FLIGHT_ERR 1) 0 pgCsc CSC_ERR.FLIGHT it0)) ∧
      (port ≠ 0 ∨ npos + 1 = cascPos s → flight ≤ 3 → ∃ t, exec (.cascadeLinkUp port lanes npos flight below) s = .next t ∧
        isF t 0 (pUp port) = true ∧ getF t 0 (pLanes port) = lanes % 16 ∧ getF t 0 (pState port) = 5 ∧ mget 0 t.link (lkCredit port) = 256))

/-- Ring path faults, resends, heartbeats and management cells are handled on each stop. A cell whose poisoned copy was
dropped is queued again and counted, an evidence record's cell as it is dropped. A path fault switches to the second path, or, when that is in use, fails the
direction; searches whose cells were lost are marked. A heartbeat is queued each period (its MID is a free value, log 3);
its time-out loses the partner. A cell that arrives whole is taken, one that arrives poisoned is dropped, and either is
recorded. A reserved management type records an uncorrectable flit. A fault report becomes an interrupt, and a
descriptor copy brings the bank to the target. (R107, R112, R131, R446, R518, spec/04_dies_cascade_mirroring.md,
spec/15_faults_and_security.md, spec/17_register_map.md) -/
def Obligations.RingFaultsAndHeartbeats : Prop :=
  ∀ (s : State) (d : Nat), d < s.part.dieCnt →
    (∀ p : RCell → Bool, p = (fun c => c.src == d) →
      (∀ c flit, s.dropped.find? p = some c → exec (.ringResendTimeout ⟨d, flit⟩) s =
        .next (bumpSat { s with dropped := rmFirst p s.dropped, ringQ := s.ringQ ++ [c] } d ARB_RS_MGMT.RESENT)) ∧
      (∀ flit me, s.dropped.any p = false → me = RCell.named d 5 (mgmtId 7 d) →
        (flit < 4 ∨ s.ringAir.find? me = none → exec (.ringResendTimeout ⟨d, flit⟩) s = .next s) ∧
        (∀ c t, 4 ≤ flit → s.ringAir.find? me = some c → t = flitSeen s 0 5 flit → exec (.ringResendTimeout ⟨d, flit⟩) s =
          .next (bumpSat { t with ringAir := rmFirst me s.ringAir, dropped := s.dropped, ringQ := t.ringQ ++ [c] } d ARB_RS_MGMT.RESENT)))) ∧
    (∀ dir sids alt fail, dir < 2 → alt = (if dir = 0 then ARB_RS_PATH.CW_ALT else ARB_RS_PATH.CCW_ALT) →
      fail = (if dir = 0 then ARB_RS_PATH.CW_FAIL else ARB_RS_PATH.CCW_FAIL) → isF s d fail = false →
      ∃ t, exec (.ringPathFault d dir sids) s = .next t ∧
        t.searches = updWhere (fun x => sids.contains x.sid) (fun x => { x with lost := true }) s.searches ∧
        (isF s d alt = true → isF t d fail = true ∧ stickySet t d pgRs RS_ERR.PATH_FAIL) ∧
        (isF s d alt = false → isF t d alt = true ∧ isF t d fail = false ∧ stickySet t d pgRs RS_ERR.PATH_SWITCH)) ∧
    (stopLive s d = true →
      (∃ mid, exec (.heartbeatSend d) s = .next { s with free := s.free + 1, ringQ := s.ringQ ++
        [{ src := d, cls := 5, id := 0, payload := mgmtCell 9 (partner d) 0 0 mid 0 }] }) ∧
      (avail s = true → stopLive s (partner d) = true →
        ∃ t, exec (.heartbeatTimeout d) s = .next t ∧ t.lostDies.testBit (partner d) = true ∧
          getF t d ARB_RS_MGMT.HB_MISS = min (2 ^ ARB_RS_MGMT.HB_MISS.width - 1) (getF s d ARB_RS_MGMT.HB_MISS + 4)) ∧
      (∀ dir, ∃ t, exec (.mgmtReservedType d dir) s = .next t ∧ ErrOnly s t ∧ stickySet t d pgRs RS_ERR.FLIT_UNC)) ∧
    (∀ src cls id flit me t, me = RCell.named src cls id → s.ringAir.any me = true →
      t = flitSeen { s with ringAir := rmFirst me s.ringAir } d cls flit →
      (flit < 4 → takeCell s d src cls id flit = (t, true)) ∧
      (4 ≤ flit → ∃ c, s.ringAir.find? me = some c ∧ takeCell s d src cls id flit = ({ t with dropped := t.dropped ++ [c] }, false))) ∧
    (∀ cls flit, flitSeen s d cls flit = if flit < 2 then s
      else if flit < 4 then raiseErr (bumpSat s d ARB_RS_ECC.CORR) d pgRs RS_ERR.FLIT_CORR (it2 (flit % 2) cls)
      else raiseErr (bumpSat s d ARB_RS_ECC.UNC) d pgRs RS_ERR.FLIT_UNC (it2 (flit % 2) cls)) ∧
    (∀ flit t ok, (s.mgmt.any fun m => m.type == 8 && m.mid == d) = true → takeCell s 0 d 5 (mgmtId 8 d) flit = (t, ok) →
      exec (.mgmtFaultReport ⟨d, flit⟩) s = .next (if ok then
        sendMsix { t with mgmt := rmFirst (fun m => m.type == 8 && m.mid == d) t.mgmt } (getF t 0 FLT_ROUTE.VEC) else t)) ∧
    (∀ src kind idx pg n flit t ok, (kind, pg, n) ∈ [(0, pgPart, 256), (1, pgCr, 256), (2, pgSr, 256), (3, pgShelf, 1024)] → idx < n →
      takeCell s d src 5 (mgmtId 0xB (idx * 8 + kind)) flit = (t, ok) → stopLive t d = true → stopLive t src = true → src ≠ d →
      exec (.mgmtDescriptorCopy src ⟨d, flit⟩ kind idx) s = .next (if ok then copyBank t src d pg idx else t))

/-- A pair loses a member, runs solo, and takes it back by copy and check. A lost member takes the pair to the state of
R131; channels return to a rejoined die once drained; REJOIN starts the copy, its end the check, and the check's end
lockstep at a round boundary; fencing either die of a locked pair loses it. The copy takes the owned rows in order, and the
count of rows rises with it. The table of next states is stated whole. (R131, R133, R134, R450, spec/04_dies_cascade_mirroring.md, spec/15_faults_and_security.md) -/
def Obligations.PairsLoseAndRegainMembers : Prop :=
  ∀ (s : State),
    (∀ d st, avail s = true → d < s.part.dieCnt → s.inReset = false → fenced s d = true →
      (lossState (pairSt s d) d = some st → exec (.pairMemberLost d) s = .next (loseMember s d st)) ∧
      (lossState (pairSt s d) d = none → exec (.pairMemberLost d) s = .next s)) ∧
    (∀ mask, mask < 16 → (∀ p, mask.testBit p = true → mayReturn s p = true ∧ displaced s p ≠ []) →
      (∃ p, mask = 2 ^ p ∧ p < 4) →
      ∃ t, exec (.pairChannelReturn mask) s = .next t ∧ OnlyRegs [rkey 0 PKG_PAIR_CTL.RETURN 0] s t ∧
        getF t 0 PKG_PAIR_CTL.RETURN = (getF s 0 PKG_PAIR_CTL.RETURN ||| mask) % 2 ^ PKG_PAIR_CTL.RETURN.width) ∧
    (∀ chan p u, p = homeOf s chan / 2 → (displaced s p).contains chan = true → (getF s 0 PKG_PAIR_CTL.RETURN).testBit p = true →
      s.reqs.any (fun r => r.chan == chan) = false → u = setHome s chan (getF s 0 (LKP_CH_CFG.DIE chan)) →
      exec (.channelReturnDrained chan) s = .next (if displaced u p = [] then
        setF u 0 PKG_PAIR_CTL.RETURN (getF u 0 PKG_PAIR_CTL.RETURN &&& (15 - 2 ^ p)) else u)) ∧
    (∀ p st lost, avail s = true → 2 * p + 1 < s.part.dieCnt → p < 4 → getF s 0 (PKG_PAIR_STS.PAIR p) = st → st = 2 ∨ st = 3 →
      lost = (if st = 2 then 2 * p + 1 else 2 * p) → s.heldDies.testBit lost = false → isF s lost ATC_THROTTLE.FENCED = false →
      ∃ t, exec (.pairRejoin p) s = .next (copyDescs t (partner lost) lost) ∧ getF t 0 (PKG_PAIR_STS.PAIR p) = (if st = 2 then 4 else 5) ∧
        getF t 0 PKG_PAIR_SYNC.BUSY = 1 ∧ t.rejoins = s.rejoins ++ [{ pair := p, phase := 3, since := s.cyc, surv := partner lost, pos := 0 }] ∧
        t.lostDies = s.lostDies - (if s.lostDies.testBit lost then 2 ^ lost else 0)) ∧
    (∀ p n crc r owned pos k u v, p < 4 → s.rejoins.find? (fun r => r.pair == p && r.phase == 3) = some r →
      owned = (List.range 1024).filter (fun sh => isF s r.surv SHELF_DESC.OWNED sh && decide (r.pos < 1024 * sh + 1024)) →
      advanceCopy owned r.pos n = (pos, k) → u = bump (copyRows s r.surv (partner r.surv) r.pos pos) 0 PKG_PAIR_SYNC.ROWS k →
      v = { u with rejoins := updWhere (fun x => x.pair == p) (fun x => { x with pos := pos }) u.rejoins } →
      (pos ≠ 2 ^ 20 → exec (.rejoinCopyDone ⟨p, n, crc⟩) s = .next v) ∧
      (pos = 2 ^ 20 → exec (.rejoinCopyDone ⟨p, n, crc⟩) s = .next (endCopy v p r) ∧
        (s.part.unitS = false → getF (endCopy v p r) 0 (PKG_PAIR_STS.PAIR p) = 6))) ∧
    (∀ p, p < 4 → s.rejoins.any (fun r => r.pair == p && r.phase == 5) = true →
      (posAt s 0 s.cyc = 0 → ∃ t, exec (.rejoinCheckExpire p) s = .next t ∧ getF t 0 (PKG_PAIR_STS.PAIR p) = 1 ∧
        t.rejoins = s.rejoins.filter (fun r => r.pair != p)) ∧
      (posAt s 0 s.cyc ≠ 0 → exec (.rejoinCheckExpire p) s = .next s)) ∧
    (∀ p, p < 4 → getF s 0 (PKG_PAIR_STS.PAIR p) = 1 →
      exec (.pairFenceEven p) s = .next (loseDie s (2 * p)) ∧ exec (.pairFenceOdd p) s = .next (loseDie s (2 * p + 1))) ∧
    (∀ d st, lossState st d = if d % 2 = 0 then
        (match st with | 1 | 6 => some 3 | 4 => some 7 | 5 => some 3 | 2 => some 7 | _ => none)
      else (match st with | 1 | 6 => some 2 | 4 => some 2 | 5 => some 7 | 3 => some 7 | _ => none))

/-- A table command is accepted in order by the engine of its die, or rejected by its source or form. Every command of
R140 from a source that may send it is accepted when it is the oldest of its source and its source's turn has come; one
from a source that may not send it is accepted and planned to end with status 2. WRITE_CONT joins the open wide write or
ends with 0xB, or 4 in a shelf without a valid width. A BULK_LOAD that nothing holds checks its die, source and length and
reads its first record. The table of what each source may request is stated whole. The order of turns is log 78. (R59,
R137, R138, R140, R141, R144, R148, R149, R151, R154, R156, R157) -/
def Obligations.UpdateCommandsAccepted : Prop :=
  ∀ (s : State) (d cid : Nat),
    (∀ c u, ∀ q ∈ [(1, Instr.write d cid), (2, .delete d cid), (3, .insertShift d cid), (4, .move d cid), (5, .setState d cid), (6, .genFlip d cid),
        (7, .genClear d cid), (8, .shelf d cid), (9, .compact d cid), (0xA, .bulkLoad d cid), (0xB, .spare d cid), (0xC, .barrier d cid)],
      acceptable s d cid (fun c => ceOp c.entry == q.1 && mayRequest c.src q.1) = some c → u = breakWide s c →
      exec q.2 s = .next (takeCmd u c (if q.1 = 1 ∨ q.1 = 3 then contsFor u c else 0))) ∧
    (∀ c u, acceptable s d cid (fun c => !mayRequest c.src (ceOp c.entry)) = some c → u = breakWide s c →
      exec (.unknownCommand d cid) s = .next (takeCmd u c (if ceOp c.entry = 3 then contsFor u c else 0)) ∧
      (∀ v x, x.origin ≠ .scrub → mayRequest x.src (ceOp x.entry) = false → planCmd v x = settle_ x 2)) ∧
    (∀ c, acceptable s d cid (fun c => ceOp c.entry == 0xE && mayRequest c.src 0xE) = some c →
      (∀ u, openHead s c = none → u = takeCmd s c 0 → exec (.writeCont d cid) s =
        .next (modCmd u cid fun x => { settle_ x (if reservedOwner u c then 4 else 0xB) with after := [] })) ∧
      (∀ h u v, openHead s c = some h → u = tookTurn (joinAfter { s with cmds := s.cmds.filter fun x => x.id != cid } cid h.id) c →
        v = modCmd u h.id (fun x => { x with conts := x.conts ++ [(c.id, c.origin, c.entry)] }) →
        exec (.writeCont d cid) s = .next (if ceGra c.entry = ceGra h.entry + h.conts.length + 1 then tryPlan v h.id
          else modCmd v h.id fun x => { settle_ x 0xB with after := [] }))) ∧
    (∀ c e st, e = c.entry →
      st = (if fenced s c.die then some 0x11 else if badDieField s (ceGra e) then some 3
        else if ceReserved e = false ∨ ceSrc e = 3 ∨ ceAd e % 64 ≠ 0 then some 0x12
        else if ceSrc e = 2 ∧ s.part.unitS = false then some 0xF else none) →
      (∀ v, st = some v → startBulk s c = modCmd s c.id fun x => settle_ x v) ∧
      (∀ v, st = none → v = modCmd (setF (setF s c.die UPD_BULK.LOADED 0) c.die UPD_BULK.SKIPPED 0) c.id
          (fun x => { x with begun := true, planned := ceGra2 e == 0 }) →
        startBulk s c = if ceGra2 e ≠ 0 ∧ ceSrc e < 2 then
          emitOut v (.hostRead (ceAd e) (if ceSrc e = 1 then some (ceValue e % 2 ^ 20) else none) (64 * ceGra2 e)) else v)) ∧
    (∀ src op, mayRequest src op = true ↔
      (src < 0x40 ∧ (1 ≤ op ∧ op ≤ 0xC ∨ op = 0xE)) ∨
      (0x40 ≤ src ∧ src < 0x48 ∧ (1 ≤ op ∧ op ≤ 0xC ∨ op = 0xE) ∧ op ≠ 8 ∧ op ≠ 0xA ∧ op ≠ 0xB) ∨
      (0x48 ≤ src ∧ (op = 1 ∨ op = 0xE ∨ op = 2 ∨ op = 5 ∨ op = 0xC)))

/-- Port operations wait for guards and grants, run on both dies of a pair at once, and complete the command. An operation
on a guarded row waits; a single-die operation needs a grant of the same cycle; a paired one books the same cycle on
both dies, is sent to the odd die, runs when it has been received, and takes another cycle when it has not (log 90).
Running applies it on every die, and on a rejoining die for the rows already copied. A guard ends after 32 cycles. A
generation flip applies at its target cycle on every die. A command that is over completes in order and is delivered to
its source, over the ring where that is another die. (R73, R129, R136, R146, R156, R159, spec/03_attic_search.md,
spec/04_dies_cascade_mirroring.md, spec/05_table_maintenance.md) -/
def Obligations.UpdateOperationsRunAndComplete : Prop :=
  ∀ (s : State) (d cid : Nat),
    (∀ c op ds o, (s.cmds.find? fun c => c.id == cid && c.planned && c.status.isNone && !c.pairWait) = some c → nextOp s d c = some op →
      ds = opDies s c op → o = (if c.origin == .scrub then 0x11 else 0x10) →
      ((opWrites op).any (fun g => ds.any fun e => guarded s e g) = true → exec (.updatePortOperation d cid) s = .next s) ∧
      ((opWrites op).any (fun g => ds.any fun e => guarded s e g) = false →
        (ds.length < 2 → (useGrant s d 0 o = none → exec (.updatePortOperation d cid) s = .next s) ∧
          ∀ u, useGrant s d 0 o = some u → exec (.updatePortOperation d cid) s = .next (runOp u c op ds)) ∧
        (2 ≤ ds.length → c.pairAt = none →
          (pairTarget s d o = none → exec (.updatePortOperation d cid) s = .next s) ∧
          (∀ t u, pairTarget s d o = some t →
            u = { s with books := s.books ++ [d, partner d].map fun e => (⟨e, t, o, d, 512, 0⟩ : Book) } →
            exec (.updatePortOperation d cid) s = .next (queueCell (modCmd (dropMirror u c.id) c.id fun x => { x with pairAt := some (t, false) })
              d 3 (c.id + 1) (c.id % 2 ^ 64 * 2 ^ 48 + t % 2 ^ 48)))) ∧
        (2 ≤ ds.length → c.pairAt = some (s.cyc, true) → exec (.updatePortOperation d cid) s =
          .next (runOp (settleSlots { s with books := s.books.filter fun b =>
            !(b.cyc == s.cyc && ds.contains b.die && b.group == o && b.home == d) } ds) c op ds)) ∧
        (∀ t got, 2 ≤ ds.length → c.pairAt = some (t, got) → t < s.cyc →
          exec (.updatePortOperation d cid) s = .next (modCmd s cid fun x => { x with pairAt := none })))) ∧
    (∀ (c : UCmd) op ds, opReadable s ds op = false → runOp s c op ds = modCmd s c.id fun x => { settle_ x 0x10 with pairAt := none }) ∧
    (∀ (c : UCmd) op ds e u v, e = ds.headD c.die → opReadable s ds op = true → u = carryOver (ds.foldl (fun s e => applyOp s e op) s) e op →
      v = (if ds.length < 2 then u else queueCell u (partner e) 3 (c.id + 1) (c.id % 2 ^ 64)) →
      (∀ a b, op ≠ .swap a b) → runOp s c op ds = modCmd v c.id fun x =>
        { x with plan := rmFirst (fun o => o == op) x.plan, lastOp := v.cyc, pairAt := none, pairWait := decide (1 < ds.length) }) ∧
    (∀ flit x t, (s.ringAir.find? fun x => x.cls == 3 && x.id == cid + 1) = some x →
      (takeCell s (partner x.src) x.src 3 (cid + 1) flit = (t, false) → exec (.mirrorCellReceive ⟨cid, flit⟩) s = .next t) ∧
      (takeCell s (partner x.src) x.src 3 (cid + 1) flit = (t, true) →
        ∃ u, exec (.mirrorCellReceive ⟨cid, flit⟩) s = .next u ∧ (∀ c ∈ t.cmds, c.id = cid →
          (∀ n b, c.pairAt = some (n, b) → { c with pairAt := some (n, true) } ∈ u.cmds) ∧
          (c.pairAt = none → { c with pairWait := false } ∈ u.cmds)))) ∧
    (∀ gra, exec (.updateGuardExpire d gra) s =
      .next { s with guards := s.guards.filter fun g => !(g.die == d && g.gra == gra && decide (g.at_ + 32 ≤ s.cyc)) }) ∧
    (∀ part f u, (s.flips.find? fun f => f.1 == part && decide (f.2.2 ≤ s.cyc)) = some f → u = { s with flips := rmFirst (fun x => x == f) s.flips } →
      exec (.genFlipApply part) s = .next (bump (setAll u (dies u) PART_CTL.ACT_GEN f.2.1 part) 0 PART_FLIPS.FLIPS 1 part)) ∧
    (∀ c, c.target = none → (c.cut = false ∨ c.status ≠ none ∨ c.expect ≤ c.conts.length) → lateCmd s c = c) ∧
    (∀ x c st u v, (s.cmds.find? fun c => c.id == cid && c.acc.isSome && !c.returning) = some x → c = lateCmd s x → c.after = [] →
      cmdOver s c = true → cplFirst s c = true → c.origin ≠ .scrub →
      st = ({ c with status := some (c.status.getD 0) } : UCmd) → u = countCpl (applyGap s st) st → v = { u with cmds := u.cmds.filter fun x => x.id != cid } →
      (c.from_ = c.die → exec (.commandComplete cid) s = .next (releaseAfter (deliverAll v st) cid)) ∧
      (∀ w0 w1 w2 w3 y, c.from_ ≠ c.die → cplWords (c.status.getD 0) (ceOp c.entry) (ceTag c.entry) c.gra c.moved c.cause c.aux = (w0, w1, w2, w3) →
        y = queueMgmt v c.die c.from_ 5 cid 1 ((((((w0 * 2 ^ 32 + w1) * 2 ^ 32 + w2) * 2 ^ 32 + w3) * 256 + c.src % 256)) * 2 ^ 159) →
        exec (.commandComplete cid) s = .next (releaseAfter { y with cmds := y.cmds ++ [{ st with returning := true }] } cid))) ∧
    (∀ c flit t, (s.cmds.find? fun c => c.id == cid && !c.arrived) = some c →
      (takeCell s c.die c.from_ 5 (mgmtId 4 cid) flit = (t, false) → exec (.mgmtUpdateCommand ⟨cid, flit⟩) s = .next t) ∧
      (takeCell s c.die c.from_ 5 (mgmtId 4 cid) flit = (t, true) →
        (gone t c.die = false → exec (.mgmtUpdateCommand ⟨cid, flit⟩) s = .next (modCmd t cid fun x => { x with arrived := true })) ∧
        (∀ u, gone t c.die = true → u = countCpl t { c with die := c.from_, status := some 0x11 } →
          exec (.mgmtUpdateCommand ⟨cid, flit⟩) s = .next (releaseAfter (modCmd u cid fun x =>
            { settle_ x 0x11 with arrived := true, acc := some u.accepted, returning := true, after := [] }) cid)))) ∧
    (∀ c flit t, (s.cmds.find? fun c => c.id == cid && c.returning) = some c →
      (takeCell s c.from_ c.die 5 (mgmtId 5 cid) flit = (t, false) → exec (.mgmtCommandCompletion ⟨cid, flit⟩) s = .next t) ∧
      (takeCell s c.from_ c.die 5 (mgmtId 5 cid) flit = (t, true) →
        t.cmds.any (fun x => x.returning && srcKey x == srcKey c && x.die == c.die && decide (x.acc.getD 0 < c.acc.getD 0)) = false →
        exec (.mgmtCommandCompletion ⟨cid, flit⟩) s = .next (deliverAll { t with cmds := t.cmds.filter fun x => x.id != cid } c)))

/-- Bulk records are checked, skipped or written; the scrubber sweeps suspects first. A record that cannot be read ends
the load with 0x10, one with a bad CRC or a failed check with 0xE and its cause; a record of another die is skipped
and counted; else its row is written unless occupied, a continuation row with no priority and no ad-word. The scrubber
needs its interval and a grant, takes suspect rows first, then the next used row, and counts sweeps. (R49, R144, R164, R165, spec/05_table_maintenance.md) -/
def Obligations.BulkRecordsAndScrubbing : Prop :=
  ∀ (s : State) (d : Nat),
    (∀ cid data fail c rec_, (s.cmds.find? fun c => c.id == cid && c.die == d && ceOp c.entry == 0xA && c.begun && c.status.isNone && c.origin != .scrub) = some c →
      c.plan = [] → c.aux < ceGra2 c.entry → c.pairWait = false →
      rec_ = (if ceSrc c.entry = 2 then bulkFromStore s c else if fail || !canMaster s then none else some data) →
      (rec_ = none → exec (.bulkRecordRead d cid data fail) s = .next (modCmd s cid fun x => settle_ x 0x10)) ∧
      (∀ r, rec_ = some r →
        (crc32 (bytesBE 60 (getBE r 0 480)) ≠ ofBytesLE (bytesBE 4 (getBE r 480 32)) → exec (.bulkRecordRead d cid data fail) s =
          .next (modCmd s cid fun x => { settle_ x 0xE with cause := 0x10, gra := brGra r })) ∧
        (crc32 (bytesBE 60 (getBE r 0 480)) = ofBytesLE (bytesBE 4 (getBE r 480 32)) →
          (∀ u, (if avail s then graDie (brGra r) / 2 * 2 ≠ d / 2 * 2 else graDie (brGra r) ≠ d) →
            u = setF s d UPD_BULK.SKIPPED (min 127 (getF s d UPD_BULK.SKIPPED + 1)) →
            exec (.bulkRecordRead d cid data fail) s = .next (bulkNext u c)) ∧
          ((if avail s then graDie (brGra r) / 2 * 2 = d / 2 * 2 else graDie (brGra r) = d) →
            (∀ st, bulkCheck s c r c.moved (c.gra + 1 - c.moved) = some st → exec (.bulkRecordRead d cid data fail) s =
              .next (modCmd s cid fun x => { settle_ x 0xE with cause := st, gra := brGra r })) ∧
            (∀ n w u w1 v head got, bulkCheck s c r c.moved (c.gra + 1 - c.moved) = none → w = partWidth s d (cePart c.entry) → n = rowsPerSlot w →
              got = graRow (brGra r) % n → head = brGra r - got →
              u = bulkNext (modCmd s cid fun x => { x with moved := if c.moved + 1 = n then 0 else x.moved + 1, gra := brGra r }) c →
              w1 = PortOp.write (brGra r) none w (if got = 0 then brPrio r else 0) (BitVec.ofNat 64 (if got = 0 then brAd r else 0)) (BitVec.ofNat 160 (brValue r)) (BitVec.ofNat 160 (brMask r)) →
              v = PortOp.validate ((List.range n).map fun i => head + i) none (brState r) (brStateB r) →
              exec (.bulkRecordRead d cid data fail) s = .next (if rowUsed (getRow s d (brGra r)) then u
                else modCmd u cid fun x => { x with plan := if c.moved + 1 = n then [w1, v] else [w1], planned := true })))))) ∧
    (isF s d UPD_CTL.SCRUB_EN = true → getF s d UPD_SCRUB.INTERVAL ≠ 0 → gone s d = false →
      (mget 0 s.scrubAt d = 0 ∨ mget 0 s.scrubAt d - 1 + max 64 (getF s d UPD_SCRUB.INTERVAL) ≤ s.cyc →
        (useGrant s d 0 0x11 = none → exec (.scrubRow d) s = .next s) ∧
        (∀ t u, useGrant s d 0 0x11 = some t → u = { t with scrubAt := mset 0 t.scrubAt d (t.cyc + 1) } →
          (∀ g rest, mget [] u.susq d = g :: rest → exec (.scrubRow d) s = .next (Machine.scrubRow { u with susq := mset [] u.susq d rest } d g)) ∧
          (∀ pos v w, mget [] u.susq d = [] → nextSwept u d (getF u d UPD_SCRUB_POS.POS % 1048576) = some pos → v = Machine.scrubRow u d (scrubGra u d pos) →
            w = setF v d UPD_SCRUB_POS.POS (scrubGra v d ((pos + 1) % 1048576)) → exec (.scrubRow d) s =
              .next (if 1048576 ≤ pos + 1 ∨ pos < getF v d UPD_SCRUB_POS.POS % 1048576 then bump w d UPD_SCRUB_POS.SWEEPS else w)))) ∧
      (mget 0 s.scrubAt d ≠ 0 → s.cyc < mget 0 s.scrubAt d - 1 + max 64 (getF s d UPD_SCRUB.INTERVAL) → exec (.scrubRow d) s = .next s))

/-- Store steps wait for their lines; fills join, arrive and install. A ready step forms its record and delivers it, or
issues the cellar fetch it falls through to. A needed line joins a fill under way, is answered by one that has arrived or
by a line cached meanwhile, or starts a fill when there is room and the bank is not blocked. The line of a granted read
answers its waiters with pending writes merged, and is then installed in its way once the bank is free, which blocks the
bank for 36 cycles. (R248, R284, R285, R290, spec/08_store_room_and_cellar.md, spec/09_bucket_cache.md) -/
def Obligations.StoreStepsAndFillsComplete : Prop :=
  ∀ (s : State) (id : Nat),
    (∀ x u r crc, (s.steps.find? fun x => x.id == id && x.done.isNone) = some x → stepReady s x = true → (u, r) = stepRec (noteStep s x) x crc →
      (x.par ≠ none → exec (.storeRoomStepDone ⟨id, crc⟩) s = .next (modStep u id fun y => { y with done := some (encRec r) })) ∧
      (∀ v q, x.par = none → v = { u with steps := u.steps.filter fun y => y.id != id } → q = (if x.spec then { r with spec := true } else r) →
        exec (.storeRoomStepDone ⟨id, crc⟩) s = .next (match x.next with
          | some p => if q.status = 1 ∧ x.squashed = false then issueFetch v x.die x.thread x.rno p x.region x.key x.width x.ent
            else deliverRec v x.die x.thread x.rno q none x.ent
          | none => deliverRec v x.die x.thread x.rno q none x.ent))) ∧
    (∀ b x line, (s.steps.find? fun x => x.id == id) = some x → stepNeeds x b = true → x.forced = none → line = stepLine s x b →
      (∀ f u, (s.fills.find? fun f => f.die == x.die && f.line == line) = some f → u = bump s f.die CCH_JOIN.COUNT →
        (∀ v, f.arrived = none →
          v = { u with fills := updWhere (fun h => h.id == f.id) (fun f => { f with waiters := f.waiters ++ [(id, b)] }) u.fills } →
          exec (.cacheFillAllocate id b) s = .next (modStep v id (noNeed b))) ∧
        (∀ a, f.arrived = some a → exec (.cacheFillAllocate id b) s = .next (settleNeed u id b (forwardAll u f.die f.line a)))) ∧
      ((s.fills.find? fun f => f.die == x.die && f.line == line) = none →
        (∀ w, isF s x.die CCH_CTL.EN = true → wayOf s x.die line = some w → exec (.cacheFillAllocate id b) s =
          .next (settleNeed s id b (forwardAll s x.die line ⟨(getLine s x.die w (lineSet line)).data, 0⟩))) ∧
        (isF s x.die CCH_CTL.EN = false ∨ wayOf s x.die line = none →
          (fillRoom s x.die x.fixed = false ∨ s.cyc < bankBusy s x.die line → exec (.cacheFillAllocate id b) s = .next s) ∧
          (fillRoom s x.die x.fixed = true → bankBusy s x.die line ≤ s.cyc →
            (s.walks.find? fun k => k.die == x.die && k.kind == 2 && k.base == line) = none →
            exec (.cacheFillAllocate id b) s = .next (modStep (takeFill s x.die line x.fixed [(id, b)] none) id (noNeed b)))))) ∧
    (∀ ecc f u b v w a, (s.fills.find? fun f => f.id == id && f.arrived.isNone) = some f →
      f.granted = true → strUp s f.die = true → domOn s f.die 1 = true → f.fixed = true ∨ lockedLine s f.die f.line = false →
      (u, b) = readMem s f.die f.line ecc → a = forwardAll u f.die f.line b →
      v = f.waiters.foldl (fun s q => answerStep s q.1 q.2 a) u → w = (if lockedLine v f.die f.line then noInstall v (fun h => h.id == id) else v) →
      exec (.fillLineArrive id ecc) s = .next { w with fills := updWhere (fun h => h.id == id) (fun h => { h with arrived := some a, waiters := [] }) w.fills }) ∧
    (∀ f b g, (s.fills.find? fun f => f.id == id) = some f → f.arrived = some b → g = { s with fills := s.fills.filter fun h => h.id != id } →
      (f.way = none → exec (.fillInstall id) s = .next g) ∧
      (∀ w a u, f.way = some w → bankBusy s f.die f.line ≤ s.cyc → fixedWaits s f.die f.line = false → portUse s f.die f.line = 0 →
        a = forwardAll s f.die f.line b →
        u = setLine g f.die w (lineSet f.line) (if wayEn s f.die w && domOn s f.die (domWay w) && !a.bad then
          { tag := lineTag f.line, valid := true, pend := false, data := a.data, ecc := 0 } else Line.zero) →
        exec (.fillInstall id) s = .next { u with bankBusy := mset 0 u.bankBusy (f.die * 16 + f.line % 16) (2 * cq s + 36) }))

/-- Slot writes are checked, queued, merged and drained; the patrol scrubber reads line by line. A record that fails a
check of R254 is rejected with its cause in the order given; a good one is queued, and taken on every die that is to hold
the line once each has room for it. The oldest or the asked-for entry drains when the buffer is full or aged, its read
granted; a write that fails its CRC leaves a free value in the line (log 3, log 33). The scrubber, at its interval and with
a grant, reads the next line and repairs it from the pair partner. (R254, R256, R283, R288, R289,
spec/08_store_room_and_cellar.md, spec/09_bucket_cache.md) -/
def Obligations.SlotWritesDrainAndScrub : Prop :=
  ∀ (s : State) (d : Nat),
    (∀ off len data w op reg bucket, w = ceWord data 0 → op = fld w 24 8 → reg = fld w 16 8 → bucket = fld (ceWord data 4) 0 29 →
      present s d pgStr = true →
      ∀ cause, cause = (if len ≠ 64 ∨ off % 64 ≠ 0 then 4 else if isF s d STR_CTL.SWR_EN = false then 7
        else if avail s = true ∧ d % 2 = 1 then 5 else if op ≠ 1 ∧ op ≠ 2 then 1 else if isF s d SR_CTL.VALID reg = false then 2
        else if getF s d SR_SIZE.NBUCK reg ≤ bucket then 3 else 0) →
      (cause ≠ 0 → exec (.slotWriteRecord d off len data) s = .next (swrReject s d cause (it1 w))) ∧
      (cause = 0 → (s.swq.filter fun r => r.die == d).length < 64 → ∃ r : SwRec, r.die = d ∧ r.op = op ∧ r.region = reg ∧
        r.slot = fld w 0 2 ∧ r.bucket = bucket ∧ r.image = BitVec.ofNat 256 (getBE data 256 256) ∧
        exec (.slotWriteRecord d off len data) s = .next { s with swq := s.swq ++ [r] })) ∧
    (∀ r ds, (s.swq.find? fun r => r.die == d) = some r → ds = writeDies s d (srLine s d r.region r.bucket) →
      (ds = [] ∨ (∃ e ∈ ds, recordRoom s r e = false) → exec (.slotWriteApply d) s = .next s) ∧
      (ds ≠ [] → (∀ e ∈ ds, recordRoom s r e = true) → exec (.slotWriteApply d) s =
        .next (bump (ds.foldl (fun s e => takeRecord { usePort s e (srLine s e r.region r.bucket) with swAt := mset 0 s.swAt e (cq s + 1) } e r)
          { s with swq := rmFirst (fun q => q == r) s.swq }) d STR_SWR_DONE.DONE))) ∧
    ((∀ e, (s.mbuf.find? fun e => e.die == d && !e.draining && cleanAsks s e) = some e → exec (.mbufDrainStart d) s = .next (startDrain s e)) ∧
      ((s.mbuf.find? fun e => e.die == d && !e.draining && cleanAsks s e) = none → ∀ e, oldestEntry s d = some e →
        (48 ≤ mbUsed s d ∨ 2 * max 1 (getF s d CCH_MBUF.AGE) ≤ s.cyc - e.born → exec (.mbufDrainStart d) s = .next (startDrain s e)) ∧
        (mbUsed s d < 48 → s.cyc - e.born < 2 * max 1 (getF s d CCH_MBUF.AGE) → exec (.mbufDrainStart d) s = .next s))) ∧
    (∀ id e crc, (s.mbuf.find? fun e => e.id == id) = some e → e.draining = true → e.granted = true → firstOfLine s e = true →
      strUp s e.die = true → domOn s e.die 1 = true → exec (.mbufDrainAccept id crc) s = .next (drainEntry s e crc)) ∧
    (∀ line b, memPut s d line b false = memWrite s d line b ∧
      ∀ v w x y, (v, w) = freeVal (memWrite s d line b) → (x, y) = freeVal w → memPut s d line b true =
        raiseErr (memWrite y d line ⟨BitVec.ofNat 1024 v, lostAll (x.testBit 0)⟩) d pgStr STR_ERR.WR_CRC (it1 (line * 128))) ∧
    (∀ ecc crc n, n = modBuckets s d → n ≠ 0 → isF s d STR_CTL.SCRUB_EN = true → getF s d STR_SCRUB.INTERVAL ≠ 0 → strUp s d = true →
      (patrolDue s d = false ∨ useGrant s d 1 5 = none → exec (.patrolScrubRead ⟨d, crc⟩ ecc) s = .next s) ∧
      (∀ g line u b v q, patrolDue s d = true → useGrant s d 1 5 = some g → line = getF g d STR_SCRUB_POS.POS % n → (u, b) = readMem g d line ecc →
        v = setF { u with patrolAt := mset 0 u.patrolAt d (u.cyc + 1) } d STR_SCRUB_POS.POS ((line + 1) % n) →
        (b.bad = false → exec (.patrolScrubRead ⟨d, crc⟩ ecc) s = .next v) ∧
        (∀ w, b.bad = true → w = unreadable v d line STR_ERR.ECC_UNC → q = memRead w (partner d) line → exec (.patrolScrubRead ⟨d, crc⟩ ecc) s =
          .next (if paired w d && strUp w (partner d) && holdsCopy w (partner d) line && !q.bad then invAny (memPut w d line q crc) d line else w))))

/-- The store channel is enabled, trained, failed and disabled. A module failure takes the channel down and records it;
enabling clears FAILED; disabling takes it down; the lookup channels of a channel that goes pass to the partner's where it
serves. Training sets READY and the size, and starts the copy from a serving partner. The copy takes buckets in order
and counts them in DONE; its end clears SYNC and BUSY. (R253, R274, R275, R276, R374, spec/08_store_room_and_cellar.md,
spec/12_host_interface.md) -/
def Obligations.StoreChannelComesAndGoes : Prop :=
  ∀ (s : State) (d : Nat), present s d pgStr = true →
    (isF s d STR_CTL.EN = true → isF s d STR_STS.FAILED = false → ∃ u, u = (if isF s d STR_STS.READY then channelDown s d else s) ∧
      exec (.moduleFail d) s = .next (passChannels (raiseErr (setF u d STR_STS.FAILED 1) d pgStr STR_ERR.MOD_FAIL it0) d)) ∧
    (∀ v, passChannels v d = if avail v = true ∧ gone v (partner d) = false ∧ strUp v (partner d) = true ∧ isF v (partner d) STR_STS.SYNC = false
      then takeover v d none true else v) ∧
    (∀ val u, u = writeWord s d pgStr 0 0x80 val →
      (isF s d STR_CTL.EN = false → val.testBit 0 = true → isF u d STR_CTL.EN = true → exec (.storeChannelEnable d val) s = .next (setF u d STR_STS.FAILED 0)) ∧
      (isF s d STR_CTL.EN = true → val.testBit 0 = false → isF u d STR_CTL.EN = false →
        exec (.storeChannelDisable d val) s = .next (if isF u d STR_STS.READY then passChannels (channelDown u d) d else u))) ∧
    (∀ gib t, isF s d STR_CTL.EN = true → isF s d STR_STS.READY = false → isF s d STR_STS.FAILED = false → domOn s d 1 = true → 0 < gib →
      t = setF (setF s d STR_STS.READY 1) d STR_STS.SIZE gib →
      exec (.channelTrained d gib) s =
        .next (if paired t d && strUp t (partner d) && !isF t (partner d) STR_STS.SYNC then startSync t d else t) ∧
      (∀ u, startSync u d = setF (setF (setF u d STR_STS.SYNC 1) d STR_SYNC.BUSY 1) d STR_SYNC.DONE 0)) ∧
    (∀ n crc a b u, isF s d STR_STS.SYNC = true → strUp s d = true → strUp s (partner d) = true → a = getF s d STR_SYNC.DONE →
      b = min (regionBuckets s (partner d)) (a + n) → u = setF (copyBuckets s d a b crc) d STR_SYNC.DONE b →
      (b ≠ regionBuckets u (partner d) → exec (.storeResyncDone ⟨d, n, crc⟩) s = .next u) ∧
      (b = regionBuckets u (partner d) → exec (.storeResyncDone ⟨d, n, crc⟩) s = .next (endSync u d) ∧
        isF (endSync u d) d STR_STS.SYNC = false ∧ isF (endSync u d) d STR_SYNC.BUSY = false))

/-- Ways are enabled, locked, preloaded and invalidated as R294 to R300 give. A preload of a disabled way or one that
would leave fewer than two ways is refused with its status, else it loads its lines and may lock the way; a range
invalidation drops the lines in range, locked lines are fetched again; a ways register write that leaves fewer than
two active ways is refused; a cleaned way is empty; disabling the cache empties it. (R294, R295, R296, R297, R298,
R300, spec/09_bucket_cache.md) -/
def Obligations.CacheWaysPreloadAndInvalidate : Prop :=
  ∀ (s : State) (d : Nat), present s d pgCch = true →
    (∀ val w u en, val.testBit 31 = true → isF s d CCH_PRE_CMD.GO = false → w = fld val 20 4 →
      u = setF (setF (setF s d CCH_PRE_CMD.LOCK (fld val 24 1)) d CCH_PRE_CMD.WAY w) d CCH_PRE_CMD.COUNT (fld val 0 13) → en = getF u d CCH_WAYS.EN →
      (en.testBit w = false → exec (.cachePreload d val) s = .next (setF u d CCH_PRE_CMD.STATUS 2)) ∧
      (en.testBit w = true → activeWays u d (en &&& (65535 - 2 ^ w)) (getF u d CCH_WAYS.LOCK) < 2 →
        exec (.cachePreload d val) s = .next (refuseWays (setF u d CCH_PRE_CMD.STATUS 1) d (val % 2 ^ 32))) ∧
      (∀ k : CacheWalk, en.testBit w = true → 2 ≤ activeWays u d (en &&& (65535 - 2 ^ w)) (getF u d CCH_WAYS.LOCK) →
        k = { die := d, kind := 0, base := getF u d CCH_PRE_BASE.LINE, count := fld val 0 13, way := w, lock := val.testBit 24 } →
        exec (.cachePreload d val) s = .next (setF { u with walks := u.walks ++ [k] } d CCH_PRE_CMD.GO 1))) ∧
    (∀ badAt k u st v lock, (s.walks.find? fun k => k.die == d && k.kind == 0) = some k → strUp s d = true →
      (∀ i, i < min 16 k.count → walkRoom s d (k.base + i) = true) →
      (u, st) = preloadFrom d k.way k.base k.count badAt k.count { s with walks := rmFirst (fun j => j == k) s.walks } →
      v = setF (setF u d CCH_PRE_CMD.GO 0) d CCH_PRE_CMD.STATUS st → lock = getF v d CCH_WAYS.LOCK ||| 2 ^ k.way →
      (k.lock = false → exec (.cachePreloadDone d badAt) s = .next v) ∧
      (k.lock = true → 2 ≤ activeWays v d (getF v d CCH_WAYS.EN) lock → exec (.cachePreloadDone d badAt) s = .next (setF v d CCH_WAYS.LOCK lock))) ∧
    (∀ val n b u lines v, val.testBit 31 = true → isF s d CCH_INV_CMD.GO = false → n = fld val 0 29 → u = setF s d CCH_INV_CMD.COUNT n →
      b = getF u d CCH_INV_BASE.LINE →
      lines = ((u.cache.filter fun q => q.1 / 65536 == d && q.2.valid).map fun q => (q.1 / 4096 % 16, q.2.tag * 4096 + q.1 % 4096)) →
      v = (lines.filter fun q => decide (b ≤ q.2 ∧ q.2 < b + n)).foldl (fun s q => invLine s d q.1 q.2) u →
      ∃ k : CacheWalk, k.die = d ∧ k.kind = 1 ∧ k.base = b ∧ k.count = n ∧
        exec (.cacheRangeInvalidate d val) s = .next (setF { v with walks := v.walks ++ [k] } d CCH_INV_CMD.GO 1)) ∧
    (∀ k, (s.walks.find? fun k => k.die == d && k.kind == 1) = some k →
      s.walks.any (fun j => j.die == d && j.kind == 2 && decide (k.base ≤ j.base ∧ j.base < k.base + k.count)) = false →
      (∀ i, i < min 16 k.count → walkRoom s d (k.base + i) = true) →
      exec (.cacheRangeInvalidateDone d) s = .next (setF { s with walks := rmFirst (fun j => j == k) s.walks } d CCH_INV_CMD.GO 0)) ∧
    (∀ line ecc k u b, (s.walks.find? fun k => k.die == d && k.kind == 2 && k.base == line) = some k → strUp s d = true → walkRoom s d line = true →
      lockedLine s d line = false →
      (u, b) = readMem (bump { usePort s d line with walks := rmFirst (fun j => j == k) s.walks } d CCH_REFRESH.COUNT) d line ecc →
      exec (.lockedLineRefetch d line ecc) s = .next (if b.bad || !wayEn u d k.way then u else preloadLine u d k.way line b)) ∧
    (∀ val, exec (.cacheWaysWrite d val) s = .next (writeWays s d val)) ∧
    (∀ val en, en = maskOf ((List.range 16).filter fun w => val.testBit w && (!(getF s d CCH_WAY_STS.FAILED).testBit w || (getF s d CCH_WAYS.EN).testBit w)) →
      activeWays s d en (fld val 16 16) < 2 → exec (.cacheWaysWrite d val) s = .next (refuseWays s d (val % 2 ^ 32))) ∧
    (∀ w, w < 16 → (getF s d CCH_WAY_STS.CLEANING).testBit w = true → s.mbuf.any (fun e => e.die == d && wayOf s d e.line == some w) = false →
      exec (.wayCleanDone d w) s = .next (setF (clearWay s d w) d CCH_WAY_STS.CLEANING (getF s d CCH_WAY_STS.CLEANING &&& (65535 - 2 ^ w)))) ∧
    (∀ val u, u = writeWord s d pgCch 0 0x80 val →
      (isF s d CCH_CTL.EN = true → isF u d CCH_CTL.EN = false → ∃ t, exec (.cacheEnableWrite d val) s = .next t ∧
        t = { noInstall u (fun f => f.die == d) with cache := (noInstall u (fun f => f.die == d)).cache.filter (fun q => q.1 / 65536 != d) }) ∧
      (isF s d CCH_CTL.EN = false ∨ isF u d CCH_CTL.EN = true → exec (.cacheEnableWrite d val) s = .next u))

/-- Cellar fetches are granted, translated, read and authenticated; notices are written or dropped. A granted fetch is sent to
the lead die; a translation, of a step's address or of the cellar write's, is cached with its page, and one denied takes
the region offline with cause 3; an arriving completion is decrypted on the lead die or sent to the fetching die; a
failed read ends the step; a completion of no fetch is a late one. A promotion needs the memory lock, and one whose slot
has changed is skipped. A notice is written and signalled when its queue has room, waits when it has none, and is dropped
when disabled or timed out. (R257, R258, R267, R270, R340, spec/08_store_room_and_cellar.md) -/
def Obligations.CellarFetchesAndNotices : Prop :=
  ∀ (s : State) (id chan d : Nat),
    (∀ k log2 base r a x l u, xlateTarget s id k = some (r, a) → canMaster s = true → isF s 0 HIF_STS.ATS_EN = true →
      xlated s (crPasid s r) a = false → l = max 12 log2 →
      x = ({ pasid := crPasid s r, page := a / 2 ^ l * 2 ^ l, log2 := l, base := base / 2 ^ l * 2 ^ l } : Xlat) → u = bumpSat s 0 HIF_ATS.XREQ →
      exec (.atsTranslationCompletion id k ⟨log2, base⟩ true) s =
        .next (advanceFetches { u with xlats := u.xlats.drop (u.xlats.length - 2047) ++ [x] }) ∧
      (∀ v, v = raiseErr (regionOff u r 3 (some 8)) 0 pgCel CEL_ERR.XLATE (it2w r a) →
        exec (.atsTranslationCompletion id k ⟨log2, base⟩ false) s =
          .next (if v.cwrite.any fun w => w.region == r && !w.issued then writeOver v 5 else v))) ∧
    (∀ w, s.cwrite = some w → w.issued = false → xlateTarget s id 4 = some (w.region, bucketIova s w.region w.index) ∧
      xlateTarget s id 5 = some (w.region, tagIova s w.region w.index)) ∧
    (∀ f, liveFetch s id = some f →
      (∀ k, k < 4 → f.atLead = true → f.issued = false → writeBusy s f = false → xlateTarget s id k = some (f.region, (fetchAddrs s f).getD k 0)) ∧
      (∀ v, v = modFetch s id (fun g => { g with entry := true }) → f.entry = false →
        exec (.cellarFetchEntryGrant id) s = .next (if fetchUsed s < 4096 then sendFetch v id else s)) ∧
      (∀ data, f.issued = true → f.data = none → canMaster s = true →
        (∀ n, n ≠ 0 → exec (.cellarReadCompletion id data n) s = .next (advanceFetches (readFail s f n))) ∧
        (f.die = 0 → exec (.cellarReadCompletion id data 0) s = .next (advanceFetches (dataArrive s f data))) ∧
        (f.die ≠ 0 → exec (.cellarReadCompletion id data 0) s =
          .next (advanceFetches (sendData (modFetch s id fun g => { g with data := some data }) f.die id data)))) ∧
      (∀ flit t ok, f.entry = true → f.atLead = false → takeCell s 0 f.die 5 (mgmtId 6 (2 * id)) flit = (t, ok) → exec (.mgmtCellarData ⟨id, flit⟩) s =
        .next (if ok then advanceFetch (modFetch t id fun g => { g with atLead := true }) id else t)) ∧
      (∀ v flit t ok, f.atLead = true → f.data = some v → takeCell s f.die 0 5 (mgmtId 6 (2 * id + 1)) flit = (t, ok) →
        exec (.mgmtCellarData ⟨id, flit⟩) s = .next (if ok = true ∧ gone t f.die = false then dataArrive t f v else t))) ∧
    (∀ data fail, liveFetch s id = none → exec (.cellarReadCompletion id data fail) s = .next (lateCompletion s 0 id 4)) ∧
    (∀ p u crc, (s.promos.find? fun p => p.die == d) = some p → u = { s with promos := rmFirst (fun q => q == p) s.promos } →
      (strUp s d = false ∨ isF s d SR_CTL.VALID p.region = false → exec (.promotion ⟨d, crc⟩) s = .next u) ∧
      (strUp s d = true → isF s d SR_CTL.VALID p.region = true →
        (useLock u d 1 3 2 = none → exec (.promotion ⟨d, crc⟩) s = .next s) ∧
        (∀ v, useLock u d 1 3 2 = some v → exec (.promotion ⟨d, crc⟩) s = .next (promote (nameLock v d (promoLines s p)) p crc)))) ∧
    (∀ p crc, promoStale s p = true → promote s p crc = bumpSat s p.die STR_PROMO_SKIP.STALE) ∧
    ((∀ e, e < s.part.dieCnt → gone s e = false) → lostNotices s = s) ∧
    (∀ n, lostNotices s = s → (s.notices.find? fun n => n.chan == chan) = some n →
      (isF s 0 HIF_EQ_CFG.EN chan = false → exec (.noticeWrite chan) s = .next (dropNotice s n)) ∧
      (∀ tail next a p bs u v, isF s 0 HIF_EQ_CFG.EN chan = true → canMaster s = true → tail = getF s 0 HIF_EQ_STS.TAIL chan →
        next = (tail + 1) % eqSize s chan → a = eqBase s chan + 96 * tail → bs = bytesBE 96 n.data.toNat →
        p = (if isF s 0 HIF_EQ_CFG.PASID_EN chan then some (getF s 0 HIF_EQ_PASID.PASID chan) else none) →
        u = setF (emitOut (emitOut s (.hostWrite (a + 16) p (bs.drop 16))) (.hostWrite a p (bs.take 16))) 0 HIF_EQ_STS.TAIL next chan →
        v = { u with eqArmed := mset false u.eqArmed chan false } →
        (next = getF s 0 HIF_EQ_STS.HEAD chan → exec (.noticeWrite chan) s = .next s) ∧
        (next ≠ getF s 0 HIF_EQ_STS.HEAD chan → exec (.noticeWrite chan) s = .next (noticeOver
          (if mget false u.eqArmed chan && isF u 0 HIF_EQ_CFG.IEN chan then sendMsix v (getF u 0 HIF_EQ_CFG.VEC chan) else u) n))) ∧
      exec (.noticeTimeout chan) s = .next (if getF s 0 CEL_NTMO.TMO = 0 then s else dropNotice s n))

/-- The cellar takes its key only over SMBus, loads keys, writes buckets and goes online and offline. A KEK write over
PCIe records an error; over SMBus the eighth word fixes the key, and a fixed key is kept. Key commands are refused
while a region of the slot is online. A cellar write reads the bucket, checks region and version, and writes it back;
a failed tag counts. Enabling needs link, bus master, no quarantine and the key. Regions go online with a key and ATS,
offline with cause 6 unless they already have cause 1 or 5. (R261, R262, R264, R271, R272, spec/08_store_room_and_cellar.md) -/
def Obligations.CellarKeysWritesAndStates : Prop :=
  ∀ (s : State), present s 0 pgCel = true →
    (∀ k val, exec (.kekWrite k val false) s = .next (raiseErr s 0 pgCel CEL_ERR.KEK_PCIE (it1 (val % 2 ^ 32))) ∧
      (isF s 0 CEL_STS.KEK = true → exec (.kekWrite k val true) s = .next s) ∧
      (∀ u, isF s 0 CEL_STS.KEK = false → u = setF s 0 (CEL_KEK.KEK (k % 8)) val →
        (k % 8 ≠ 7 → exec (.kekWrite k val true) s = .next u) ∧
        (∀ v, k % 8 = 7 → v = ((List.range 8).map fun i => getF u 0 (CEL_KEK.KEK i)).foldl (fun a w => a * 2 ^ 32 + w) 0 →
          exec (.kekWrite k val true) s = .next (setF { u with kek := some v } 0 CEL_STS.KEK 1)))) ∧
    (∀ val k op u, k = fld val 0 8 → op = fld val 8 2 → val.testBit 31 = true → u = setF (setF s 0 CEL_KCMD.SLOT k) 0 CEL_KCMD.OP op →
      ∀ c, (op = 1 ∧ c = Instr.keyLoad val ∨ op = 2 ∧ c = Instr.keyClear val) →
        ((slotRegions u k).any (fun r => regionOnline u r) = true → exec c s = .next (keyDone u 1)) ∧
        ((slotRegions u k).any (fun r => regionOnline u r) = false →
          exec c s = .next (if op = 1 then loadKey u k else clearKey u k))) ∧
    (∀ val r i u, val.testBit 31 = true → isF s 0 CEL_WCMD.GO = false → r = fld val 0 8 → i = getF s 0 CEL_WIDX.INDEX →
      u = setF s 0 CEL_WCMD.REGION r →
      (regionOnline u r = false → exec (.cellarWrite val) s = .next (setF u 0 CEL_WCMD.STATUS 1)) ∧
      (regionOnline u r = true → getF u 0 CR_SIZE.NBUCK r ≤ i → exec (.cellarWrite val) s = .next (setF u 0 CEL_WCMD.STATUS 2)) ∧
      (regionOnline u r = true → i < getF u 0 CR_SIZE.NBUCK r → ∃ w : CWrite, w.region = r ∧ w.index = i ∧ w.issued = false ∧
        w.data = BitVec.ofNat 1024 (((List.range 32).map fun j => getF u 0 (CEL_WBUF.DATA j)).foldl (fun a w => a * 2 ^ 32 + w) 0) ∧
        exec (.cellarWrite val) s = .next (advanceWrite (setF { u with cwrite := some w } 0 CEL_WCMD.GO 1)))) ∧
    (∀ bucket tag w r i, s.cwrite = some w → r = w.region → i = w.index →
      exec (.cellarWriteComplete bucket tag true) s = .next (writeOver s 5) ∧
      (canMaster s = true → w.issued = false → exec (.cellarWriteComplete bucket tag false) s = .next s) ∧
      (canMaster s = true → w.issued = true → ∀ key old, mget none s.keys (getF s 0 CR_CTL.KSLOT r) = some key → openBucket s r i bucket tag = some old →
        (hdrRgn (bucketHdr old) ≠ r → exec (.cellarWriteComplete bucket tag false) s = .next (writeOver s 3)) ∧
        (hdrRgn (bucketHdr old) = r → hdrVersion (bucketHdr old) = 2 ^ 48 - 1 →
          exec (.cellarWriteComplete bucket tag false) s = .next (writeOver s 4)) ∧
        (hdrRgn (bucketHdr old) = r → hdrVersion (bucketHdr old) ≠ 2 ^ 48 - 1 →
          exec (.cellarWriteComplete bucket tag false) s = .next (cellarWrite s r i key w.data old))) ∧
      (canMaster s = true → w.issued = true → openBucket s r i bucket tag = none → exec (.cellarWriteComplete bucket tag false) s = .next
        (writeOver (if (authFail s 0 r i).2 then fireAlarm (authFail s 0 r i).1 6 else (authFail s 0 r i).1) 3))) ∧
    (∀ val, val.testBit 0 = true → isF s 0 CEL_CTL.EN = false →
      (isF s 0 HIF_STS.LINK_UP = true → canMaster s = true → isF s 0 HIF_STS.QUAR = false → isF s 0 CEL_STS.KEK = true →
        ∃ t, exec (.cellarEnable val) s = .next t ∧ isF t 0 CEL_CTL.EN = true ∧ isF t 0 CEL_STS.ONLINE = true ∧ getF t 0 CEL_STS.CAUSE = 0) ∧
      (isF s 0 HIF_STS.LINK_UP = false ∨ canMaster s = false ∨ isF s 0 HIF_STS.QUAR = true ∨ isF s 0 CEL_STS.KEK = false →
        exec (.cellarEnable val) s = .next s)) ∧
    (∀ val, val.testBit 0 = false → isF s 0 CEL_CTL.EN = true → exec (.cellarDisable val) s = .next (cellarOff s 1)) ∧
    (∀ val r, r = fld val 0 8 →
      (val.testBit 8 = false → isF s 0 CEL_STS.ONLINE = true → isF s 0 CR_CTL.VALID r = true →
        mget none s.keys (getF s 0 CR_CTL.KSLOT r) ≠ none → isF s 0 HIF_STS.ATS_EN = true → exec (.regionOnline val) s = .next (setCause s r 0)) ∧
      (val.testBit 8 = true → exec (.regionOffline val) s =
        .next (if getF s 0 CR_CTL.CAUSE r = 1 ∨ getF s 0 CR_CTL.CAUSE r = 5 then s else regionOff s r 6 none)))

/-- Doorbells, submission fetches and completion entries move the queues of R356 to R361. A doorbell out of range or of a
disabled queue is a bad doorbell; a good one moves its pointer and re-arms. A fetch asks for as many entries as the
queue holds and the completion queue can take, up to the wrap; its data become commands in order, its failure stops
the queue. A completion entry is written in two parts, with the phase, and signalled when armed. Enabling a queue
clears its pointers and arms it. (R258, R356, R357, R358, R359, R361, spec/08_store_room_and_cellar.md,
spec/12_host_interface.md) -/
def Obligations.HostQueuesMove : Prop :=
  ∀ (s : State) (q val : Nat),
    (barOpen s = true → q < 64 →
      (isF s 0 HIF_Q_CFG.EN q = false ∨ qSize s q ≤ val →
        exec (.sqDoorbell q val) s = .next (badDoorbell s q val) ∧ exec (.cqHeadDoorbell q val) s = .next (badDoorbell s q val)) ∧
      (isF s 0 HIF_EQ_CFG.EN q = false ∨ eqSize s q ≤ val → exec (.eqHeadDoorbell q val) s = .next (badDoorbell s q val)) ∧
      (isF s 0 HIF_Q_CFG.EN q = true → val < qSize s q →
        exec (.sqDoorbell q val) s = .next { s with sqTail := mset 0 s.sqTail q val } ∧
        (∃ t, exec (.cqHeadDoorbell q val) s = .next t ∧ mget 0 t.cqHead q = val ∧ mget false t.cqArmed q = true ∧
          mget 0 t.cqUsed q = mget 0 s.cqUsed q - (val + qSize s q - mget 0 s.cqHead q) % qSize s q)) ∧
      (isF s 0 HIF_EQ_CFG.EN q = true → val < eqSize s q →
        exec (.eqHeadDoorbell q val) s = .next (setF { s with eqArmed := mset false s.eqArmed q true } 0 HIF_EQ_STS.HEAD val q))) ∧
    (∀ n head m, q < 64 → isF s 0 HIF_Q_CFG.EN q = true → isF s 0 HIF_Q_CFG.ERR q = false → canMaster s = true → isF s 0 UPD_CTL.EN = true →
      (fetching s q).2 = 0 → n = qSize s q → head = getF s 0 HIF_Q_STS.HEAD q →
      m = min (min ((mget 0 s.sqTail q + n - head) % n) (n - mget 0 s.cqUsed q)) (n - head) →
      (m = 0 → exec (.sqFetch q) s = .next s) ∧
      (∀ u, m ≠ 0 → u = { s with fetchedSq := mset (0, 0) s.fetchedSq q (head, m), cqUsed := mmod 0 s.cqUsed q fun u => u + m } →
        exec (.sqFetch q) s = .next (emitOut u (.hostRead (sqBase u q + 64 * head) (qPasid u q) (64 * m))))) ∧
    (∀ head m, fetching s q = (head, m) →
      (m = 0 → ∀ data fail, exec (.sqFetchCompletion q data fail) s = .next (lateCompletion s 1 q 1)) ∧
      (m ≠ 0 → ∀ data, exec (.sqFetchCompletion q data true) s = .next (advanceFetches (fetchFail s q)) ∧
        (∀ u n, data.length = m → n = qSize s q → u = advanceFetches (endFetch s q false) → exec (.sqFetchCompletion q data false) s = .next (data.zipIdx.foldl
          (fun s e => sendCmd (setF s 0 HIF_Q_STS.HEAD ((head + e.2 + 1) % n) q) 0 q (.sq q ((head + e.2 + 1) % n)) e.1 false) u)) ∧
        exec (.pcieCompletionTimeout 1 q) s = .next (advanceFetches (fetchFail s q)))) ∧
    (∀ f, liveFetch s q = some f → f.issued = true → f.data = none →
      exec (.pcieCompletionTimeout 0 q) s = .next (advanceFetches (readFail s f 1))) ∧
    (∀ e u a p tail v w, (s.cqPend.find? fun e => e.q == q) = some e → u = { s with cqPend := rmFirst (fun x => x == e) s.cqPend } →
      (isF s 0 HIF_Q_CFG.EN q = false → exec (.cqEntryWrite q) s = .next u) ∧
      (isF s 0 HIF_Q_CFG.EN q = true → canMaster s = true → tail = getF u 0 HIF_Q_STS.TAIL q → a = cqBase u q + 32 * tail →
        p = getF u 0 HIF_Q_CFG.PHASE q →
        v = setF (emitOut (emitOut u (.hostWrite a (qPasid u q) (bytesBE 4 (swap32 e.w0) ++ bytesBE 4 (swap32 e.w1) ++ bytesBE 4 (swap32 e.w2) ++ bytesBE 4 (swap32 e.w3))))
          (.hostWrite (a + 16) (qPasid u q) (bytesBE 4 (swap32 (p * 2 ^ 31 + e.src % 256 * 2 ^ 16 + e.sqhd % 2 ^ 16)) ++ List.replicate 12 0)))
          0 HIF_Q_STS.TAIL ((tail + 1) % qSize u q) q →
        w = (if (tail + 1) % qSize u q = 0 then setF v 0 HIF_Q_CFG.PHASE (1 - p) q else v) →
        exec (.cqEntryWrite q) s = .next (if mget false w.cqArmed q && isF w 0 HIF_Q_CFG.IEN q then
          sendMsix { w with cqArmed := mset false w.cqArmed q false } (getF w 0 HIF_Q_CFG.VEC q) else w))) ∧
    (q < 64 → val.testBit 31 = true →
      exec (.queueEnable q val) s = .next (writeQCfg s q val) ∧ exec (.eventQueueEnable q val) s = .next (writeEqCfg s q val) ∧
      (isF s 0 HIF_Q_CFG.EN q = true → writeQCfg s q val = s) ∧
      (isF s 0 HIF_Q_CFG.EN q = false → isF (writeQCfg s q val) 0 HIF_Q_CFG.EN q = true ∧ isF (writeQCfg s q val) 0 HIF_Q_CFG.ERR q = false ∧
        isF (writeQCfg s q val) 0 HIF_Q_CFG.PHASE q = true ∧ getF (writeQCfg s q val) 0 HIF_Q_STS.HEAD q = 0 ∧
        getF (writeQCfg s q val) 0 HIF_Q_STS.TAIL q = 0 ∧ mget 0 (writeQCfg s q val).sqTail q = 0 ∧ mget false (writeQCfg s q val).cqArmed q = true))

/-- Bus mastering, resets of the function, link events and ATS events act as R362 to R368 give. Unmasking sends a pending
vector; clearing bus master, or D3hot (log 100), takes the cellar offline and ends fetches; setting it, or D0, writes held
evidence and sends pending vectors; FLR and link loss reset the host interface and record it; the link comes up with its speed and width;
an invalidation drops its translations and completes when no read uses them; switching ATS or PASID off takes the
regions that need it offline. (R362, R364, R365, R366, R367, R368, spec/12_host_interface.md) -/
def Obligations.FunctionAndTranslationEvents : Prop :=
  ∀ (s : State),
    (∀ v, v < 64 → barOpen s = true → ∀ u, u = { s with msixMask := mset true s.msixMask v false } →
      (mget false s.msixPend v = false → exec (.msixUnmask v) s = .next u) ∧
      (mget false s.msixPend v = true → canMaster s = true → exec (.msixUnmask v) s =
        .next (emitOut { u with msixPend := mset false u.msixPend v false } (.msix v)))) ∧
    (∀ (t : State) (d3 : Bool), t = (if d3 then { s with d3hot := true } else setF s 0 HIF_STS.BME 0) →
      d3 = false ∨ isF s 0 HIF_STS.LINK_UP = true ∧ s.inReset = false →
      exec (if d3 then .busMasterEnable .d3hot false else .busMasterDisable) s = .next (if canMaster s = true ∧ canMaster t = false then
        (List.range 64).foldl (fun s q => endFetch s q true) (cellarStop t 2) else t)) ∧
    (∀ cause, cellarStop s cause = if isF s 0 CEL_STS.ONLINE then cellarOff s cause
      else settleFetches s ((s.fetches.filter fun f => !f.done).map fun f => f.id) 8) ∧
    (s.funcReady = true → isF s 0 HIF_STS.LINK_UP = true → s.inReset = false → ∀ (ats pasid d0 : Bool) u v w x,
      u = setF s 0 HIF_STS.BME 1 → v = (if ats then setF u 0 HIF_STS.ATS_EN 1 else u) →
      w = (if d0 then { s with d3hot := false } else if pasid then setF v 0 HIF_STS.PASID_EN 1 else v) →
      x = w.evd.held.foldl (fun s w => emitOut s (.hostWrite w.1 w.2.1 w.2.2)) w → ∀ e, e = { x.evd with held := [] } →
      exec (.busMasterEnable (if d0 then .d0 else .master ats) pasid) s = .next (if canMaster w then
        (List.range 64).foldl (fun s v => writeMsixCtl s v (mget true s.msixMask v)) { x with evd := e } else w)) ∧
    (isF s 0 HIF_STS.LINK_UP = true → s.inReset = false → exec .flr s = .next (raiseErr (hostReset s 3) 0 pgHif HIF_ERR.FLR it0) ∧
      exec .linkDown s = .next (raiseErr (setF (setF (setF (hostReset s 4) 0 HIF_STS.LINK_UP 0) 0 HIF_STS.SPEED 0) 0 HIF_STS.WIDTH 0) 0 pgHif HIF_ERR.LINK_DOWN it0) ∧
      exec .functionReady s = .next { s with funcReady := true }) ∧
    (isF s 0 HIF_STS.QUAR = true → ∃ t, exec .quarantineExpire s = .next (advanceFetches t) ∧ t.quar = [] ∧ isF t 0 HIF_STS.QUAR = false ∧
      getF t 0 HIF_QUAR.TAGS = 0) ∧
    (s.inReset = false → isF s 0 HIF_STS.LINK_UP = false → ∀ speed width, ∃ t, exec (.dataLinkUp speed width) s = .next t ∧
      OnlyRegs [rkey 0 HIF_STS.LINK_UP 0, rkey 0 HIF_STS.SPEED 0, rkey 0 HIF_STS.WIDTH 0] s t ∧ isF t 0 HIF_STS.LINK_UP = true ∧
      getF t 0 HIF_STS.SPEED = speed % 2 ^ HIF_STS.SPEED.width ∧ getF t 0 HIF_STS.WIDTH = width % 2 ^ HIF_STS.WIDTH.width) ∧
    (∀ pasid page log2, s.invals.length < 32 → isF s 0 HIF_STS.LINK_UP = true → ∃ t i, exec (.atsInvalidation pasid page log2) s = .next t ∧
      t.xlats = s.xlats.filter (fun x => !xlatIn pasid page log2 x) ∧ t.invals = s.invals ++ [i] ∧ i.pasid = pasid ∧ i.page = page ∧ i.log2 = log2 ∧
      OnlyRegs [rkey 0 HIF_ATS.INV 0] { s with xlats := t.xlats, invals := t.invals } t) ∧
    (∀ i, (s.invals.find? fun i => !(i.write.isSome && i.write == s.cwrite) && !(i.waits.any fun id => s.fetches.any fun f => f.id == id && !f.done && f.data.isNone)) = some i →
      exec .atsInvalidationComplete s = .next (emitOut { s with invals := rmFirst (fun j => j == i) s.invals } (.pcie 1))) ∧
    (∀ (ats pasid : Bool) u v offAts offPasid wp, wp = (List.range 256).filter (fun r => isF s 0 CR_CTL.PASID_EN r) →
      offAts = (ats && isF s 0 HIF_STS.ATS_EN) → offPasid = (pasid && isF s 0 HIF_STS.PASID_EN && wp != []) →
      u = (if ats then setF s 0 HIF_STS.ATS_EN 0 else s) → v = (if pasid then setF u 0 HIF_STS.PASID_EN 0 else u) →
      exec (.atsDisable ats pasid) s = .next (if offAts = false ∧ offPasid = false then v else
        ((if offAts then List.range 256 else wp).filter fun r => regionOnline v r).foldl (fun s r => regionOff s r 3 (some 8)) { v with xlats := [] }))

/-- Peer windows take commands and slot writes, and are committed whole or not at all. A 64-byte write in a command window
joins its queue; in a slot window it is a slot write; any other size is rejected with cause 2, an unmatched address
with cause 1. A queued command is sent when its die's engine and peer commands are enabled and its completion queue
has room. A commit with a bad window names it and changes nothing else; a good one takes all eight. (R369, R370, R371,
spec/12_host_interface.md) -/
def Obligations.PeerWindowsCarryCommands : Prop :=
  ∀ (s : State) (off : Nat), barOpen s = true →
    (∀ w p, windowAt s off = some (w, p) →
      (∀ data, off % 64 = 0 → p.type = 1 → (peerQueue s w).length < 64 → exec (.peerCommandWrite off data) s =
        .next { s with peerQ := mset [] s.peerQ w (peerQueue s w ++ [(data, if p.nocpl then none else some p.cq)]) }) ∧
      (∀ data, off % 64 = 0 → p.type = 2 → exec (.peerSlotWrite off data) s = .next (slotWrite s p.die 0 64 data)) ∧
      (∀ len, len ≠ 64 ∨ off % 64 ≠ 0 → exec (.peerBadWrite off len) s = .next (raiseErr (peerReject s 2) 0 pgHif HIF_ERR.PW_FMT (it1 off)))) ∧
    (windowAt s off = none → exec (.peerUnmatchedWrite off) s =
      .next (emitOut (raiseErr (peerReject s 1) 0 pgHif HIF_ERR.PW_UNMATCHED (it1 off)) (.pcie 2))) ∧
    (∀ w e cq rest d, peerQueue s w = (e, cq) :: rest → d = runDie s e → isF s d UPD_CTL.EN = true → isF s d UPD_CTL.PEER_EN = true →
      ∀ u, u = { s with peerQ := mset [] s.peerQ w rest } →
      (cq = none → exec (.peerCommandDispatch w) s = .next (sendCmd u 0 (0x40 + w) (.peer w none) e false)) ∧
      (∀ q, cq = some q → isF s 0 HIF_Q_CFG.EN q = true → mget 0 s.cqUsed q < qSize s q → exec (.peerCommandDispatch w) s =
        .next (sendCmd { u with cqUsed := mmod 0 u.cqUsed q fun u => u + 1 } 0 (0x40 + w) (.peer w (some q)) e false)) ∧
      (∀ q, cq = some q → isF s 0 HIF_Q_CFG.EN q = false ∨ qSize s q ≤ mget 0 s.cqUsed q → exec (.peerCommandDispatch w) s = .next s)) ∧
    ((∀ w, ((List.range 8).find? fun w => badWindow s w) = some w → exec .peerWindowCommit s =
        .next (setF (setF s 0 HIF_PW_STS.REJ 1) 0 HIF_PW_STS.REJ_WIN w)) ∧
      (((List.range 8).find? fun w => badWindow s w) = none → ∃ t, exec .peerWindowCommit s = .next t ∧ isF t 0 HIF_PW_STS.REJ = false ∧
        ∀ w, w < 8 → mget none t.peers w = if (shadowWin s w).type = 0 then none else some (shadowWin s w)))

/-- Evidence records are appended or lost and counted; checkpoints are signed; the log starts and stops. The oldest record
whose cells have reached the lead die is appended, or lost and counted: with the log off, with no room, or
with a target that takes none; one that arrives while the key is generated waits, up to 1,024. An idle log asks for a
checkpoint. A signed checkpoint writes its body and signature to the ring. Enabling starts the log, after generating a
key when there is none (the key is an opaque random value, log 13); disabling stops it with STOP 1. (R395, R397, R399,
R400, R404, spec/13_time_and_evidence.md) -/
def Obligations.EvidenceLogRuns : Prop :=
  ∀ (s : State),
    (s.evd.inbox.find? (fun r => !recordWaits s r.die) = none → exec .evidenceRecord s = .next s) ∧
    (∀ r u, s.evd.inbox.find? (fun r => !recordWaits s r.die) = some r →
      u = { s with ringAir := rmFirst (RCell.named r.die 5 (mgmtId 7 r.die)) s.ringAir, evd := { s.evd with inbox := rmFirst (fun x => x == r) s.evd.inbox } } →
      exec .evidenceRecord s = .next (takeEvidence u r.bits)) ∧
    (∀ bits, isF s 0 EVD_CTL.EN = true →
      (s.evd.enabling = true → s.evd.queue.length < 1024 →
        takeEvidence s bits = { s with evd := { s.evd with queue := s.evd.queue ++ [bits] } }) ∧
      (s.evd.enabling = false → evReady s = true → evRoom s = true → s.evd.gap = 0 → takeEvidence s bits = putRecord s bits)) ∧
    (∀ bits u, u = takeEvidence s bits →
      isF s 0 EVD_CTL.EN = false ∨ s.evd.enabling = true ∧ 1024 ≤ s.evd.queue.length ∨
        s.evd.enabling = false ∧ (evReady s = false ∨ evRoom s = false) →
      u.evd.gap = s.evd.gap + 1 ∧ u.evd.lostSince = true ∧ u.evd.last16 = s.evd.last16 ∧
        getF u 0 EVD_LOST.COUNT = (getF s 0 EVD_LOST.COUNT + 1) % 2 ^ 32) ∧
    (isF s 0 EVD_CTL.EN = true → s.evd.enabling = false → getF s 0 EVD_CFG.TMO ≠ 0 → s.evd.covered < evWidx s →
      exec .checkpointIdleTimeout s = .next (ckptDue s)) ∧
    (∀ c rest key u, s.evd.due = c :: rest → s.evd.key = some key →
      u = setF { s with free := s.free + 1
                        evd := { s.evd with due := rest, prev := some (ckptBody s c (getF s 0 EVD_CPNUM.VALUE + 1)), lostSince := false } }
            0 EVD_CPNUM.VALUE (getF s 0 EVD_CPNUM.VALUE + 1) →
      exec .checkpointSigned s = .next (evWrite u (evCpBase u + 256 * (getF s 0 EVD_CPNUM.VALUE % evCpSize u))
        ((List.range 4).map fun i => ofBytesBE (((ckptBody s c (getF s 0 EVD_CPNUM.VALUE + 1) ++
          bytesBE 96 (ecdsaSign key (sha384 (ckptBody s c (getF s 0 EVD_CPNUM.VALUE + 1))) (Config.random s.free)) ++
          List.replicate 40 0).drop (64 * i)).take 64)))) ∧
    (∀ val u, val.testBit 31 = true → present s 0 pgEvd = true → isF s 0 EVD_CTL.EN = false →
      u = setF (setF (setF s 0 EVD_CTL.WRAP (val / 2)) 0 EVD_CTL.TGT val) 0 EVD_CTL.EN 1 →
      (∀ k, s.evd.key = some k → exec (.evidenceEnable val) s = .next (startLog u)) ∧
      (s.evd.key = none → exec (.evidenceEnable val) s = .next { u with evd := { s.evd with enabling := true } })) ∧
    (s.evd.enabling = true →
      ∃ v, exec .signingKeyGenerated s = .next (startLog v) ∧ v.evd.key = some (Config.random s.free) ∧ v.free = s.free + 1 ∧
        getF v 0 EVD_STS.KEY = 1 ∧ getF v 0 EVD_CPNUM.VALUE = 0 ∧
        getF v 0 EVD_KEYID.VALUE = (getF s 0 EVD_KEYID.VALUE + 1) % 2 ^ 32 ∧
        ∀ i, i < 24 → getF v 0 (EVD_PUBKEY.KEY i) = publicKey (Config.random s.free) / 2 ^ (32 * (23 - i)) % 2 ^ 32) ∧
    (∀ val, val.testBit 31 = false → present s 0 pgEvd = true → isF s 0 EVD_CTL.EN = true →
      ∃ t, exec (.evidenceDisable val) s = .next t ∧ getF t 0 EVD_CTL.EN = 0 ∧ getF t 0 EVD_STS.RUN = 0 ∧
        getF t 0 EVD_STS.STOP = 1 ∧ t.evd.enabling = false)

/-- A PPS edge is ignored, or accepted and used to load the time of day or to steer the rate. A disabled input changes
nothing. An edge on a stuck input, or one within half a second of the last, is counted as ignored. Otherwise it is
accepted and counted, clears the stuck flag, and loads the time of day when armed, else feeds the servo with the
offset. (R383, spec/13_time_and_evidence.md) -/
def Obligations.PpsEdgeCountedThenUsed : Prop :=
  ∀ (s : State) (idle : Bool),
    (isF s 0 TIM_CTL.PPS_EN = false → exec (.ppsEdge idle) s = .next s) ∧
    (timeOn s = true → isF s 0 TIM_CTL.PPS_EN = true →
      (isF s 0 TIM_STS.PPS_STUCK = true → idle = false →
        ∃ t, exec (.ppsEdge idle) s = .next t ∧ OnlyRegs [rkey 0 TIM_PPS_CNT.IGNORED 0] s t ∧
          getF t 0 TIM_PPS_CNT.IGNORED = min 65535 (getF s 0 TIM_PPS_CNT.IGNORED + 1)) ∧
      (isF s 0 TIM_STS.PPS_STUCK = false ∨ idle = true →
        (ppsTooSoon s = true →
          ∃ t, exec (.ppsEdge idle) s = .next t ∧ t.tim = s.tim ∧
            getF t 0 TIM_PPS_CNT.IGNORED = min 65535 (getF s 0 TIM_PPS_CNT.IGNORED + 1) ∧
            getF t 0 TIM_PPS_CNT.ACCEPTED = getF s 0 TIM_PPS_CNT.ACCEPTED) ∧
        (ppsTooSoon s = false →
          ∃ u, u.tim.lastEdge = some s.cyc ∧ u.tim.time = counterAt s s.cyc ∧
            getF u 0 TIM_STS.PPS_STUCK = 0 ∧
            getF u 0 TIM_PPS_CNT.ACCEPTED = (getF s 0 TIM_PPS_CNT.ACCEPTED + 1) % 65536 ∧
            exec (.ppsEdge idle) s = .next
              (if isF s 0 TIM_CTL.TOD_ARM then loadTod u (ofsUnits (getF s 0 TIM_PPS_OFS.OFS))
               else servo u (offsetOf ((counterAt s s.cyc : Int) - ofsUnits (getF s 0 TIM_PPS_OFS.OFS)))))))

/-- Holdover, stuck and missing PPS, time cells and the reference change act as R383 to R388 give. Arming without PPS
loads the time of day at once. A stuck or missing PPS starts holdover and is recorded; holdover's end makes time
stamps UNSYNC. A time cell is sent to every die with the counter and UNSYNC, and a die whose sequencer is ON takes it,
unless the cell is lost; one that misses it is UNSYNC. A reference change is recorded and scales the rate. (R383, R384, R386, R387, R388, R412,
spec/13_time_and_evidence.md, spec/14_power_and_clocks.md) -/
def Obligations.TimeUnitEventsHappen : Prop :=
  ∀ (s : State),
    (∀ val, val.testBit 3 = true → present s 0 pgTim = true →
      (isF (writeWord s 0 pgTim 0 0x80 val) 0 TIM_CTL.PPS_EN = false →
        exec (.todArm val) s = .next (loadTod (writeWord s 0 pgTim 0 0x80 val) 0)) ∧
      (isF (writeWord s 0 pgTim 0 0x80 val) 0 TIM_CTL.PPS_EN = true →
        exec (.todArm val) s = .next (writeWord s 0 pgTim 0 0x80 val))) ∧
    (timeOn s = true → present s 0 pgTim = true →
      (isF s 0 TIM_CTL.PPS_EN = true → isF s 0 TIM_STS.PPS_STUCK = false →
        ∃ t, exec .ppsStuckTimeout s = .next t ∧ getF t 0 TIM_STS.PPS_STUCK = 1 ∧ getF t 0 TIM_STS.SYNC = 3 ∧
          stickySet t 0 pgTim TIM_ERR.PPS_STUCK) ∧
      (getF s 0 TIM_STS.SYNC = 1 ∨ getF s 0 TIM_STS.SYNC = 2 →
        ∃ t, exec .ppsMissingTimeout s = .next t ∧ getF t 0 TIM_STS.SYNC = 3 ∧
          t.tim.everLocked = (getF s 0 TIM_STS.SYNC == 2) ∧ t.tim.holdExp = false ∧ stickySet t 0 pgTim TIM_ERR.PPS_MISS) ∧
      (getF s 0 TIM_STS.SYNC = 3 → s.tim.holdExp = false →
        ∃ t, exec .holdoverExpire s = .next t ∧ t.tim.holdExp = true ∧ leadUnsync t = true ∧
          stickySet t 0 pgTim TIM_ERR.HOLD_EXP) ∧
      (∃ t x, exec .timeCellBroadcast s = .next t ∧ t.tim.stepped = false ∧ t.mgmt = s.mgmt ++ x ∧
        x.map (fun m => (m.dest, m.data, m.status)) = (dies s).map (fun d => (d, counterAt s s.cyc, b2n (leadUnsync s))))) ∧
    (∀ d flit m u ok, (s.mgmt.find? fun m => m.type == timeCellType && m.dest == d) = some m →
      takeCell s d 0 4 0 (if d = 0 then 0 else flit) = (u, ok) →
      (ok = false → exec (.timeCellReceive ⟨d, flit⟩) s = .next u) ∧
      (ok = true → gone u d = false → domOn u d 0 = true →
        ∃ t, exec (.timeCellReceive ⟨d, flit⟩) s = .next t ∧ t.mgmt = rmFirst (fun x => x == m) u.mgmt ∧
          mget Local.zero t.local_ d = ⟨true, m.data, m.off, m.size, m.status == 1⟩ ∧
          ∀ e, e ≠ d → mget Local.zero t.local_ e = mget Local.zero u.local_ e)) ∧
    (∀ d, ∃ t, exec (.localTimeTimeout d) s = .next t ∧ dieUnsync t d = true ∧
      (∀ e, e ≠ d → mget Local.zero t.local_ e = mget Local.zero s.local_ e) ∧ t = { s with local_ := t.local_ }) ∧
    (∀ val, present s 0 pgClk = true → locked s 0 pgClk = false → fld val 1 1 ≠ getF s 0 CLK_CTL.REF_SEL →
      ∃ t, exec (.refSelectChange val) s = .next t ∧ getF t 0 CLK_CTL.REF_SEL = fld val 1 1 ∧
        getF t 0 CLK_STS.REF_SEL = fld val 1 1 ∧ stickySet t 0 pgClk CLK_ERR.REF_SEL ∧
        (s.part.unitT = true → getF s 0 TIM_REF.KHZ ≠ 0 →
          t.tim.rate = s.tim.rate * s.tim.refKhz / getF s 0 TIM_REF.KHZ ∧ t.tim.refKhz = getF s 0 TIM_REF.KHZ ∧
          t.tim.time = counterAt s s.cyc))

/-- Thermal levels rise and fall with hysteresis; the governor blanks slots on every die alike. A rising temperature takes
the level of its threshold and its blanking, at level 4 with a fence and an alarm. A fall of one level needs 3 degrees
below the threshold, and a fence clears below 100. The governor takes the power of the live dies, sets the same
blanking on each, and records a short time-out at its limit. Selecting a partition shows its counts and may clear
them. (R97, R102, R432, spec/03_attic_search.md, spec/14_power_and_clocks.md) -/
def Obligations.ThermalLevelsAndGovernorAct : Prop :=
  ∀ (s : State),
    (∀ d temp v, d < s.part.dieCnt → gone s d = false → s.inReset = false → temp ≤ 255 →
      getF s d ATC_THROTTLE.T_LEVEL < levelAt temp →
      v = applyBlank (setF (setF s d ATC_THROTTLE.TEMP temp) d ATC_THROTTLE.T_LEVEL (levelAt temp)) d →
      (getF v d ATC_THROTTLE.TEMP = temp ∧ getF v d ATC_THROTTLE.T_LEVEL = levelAt temp) ∧
      (levelAt temp < 4 → exec (.thermalLevelRise d temp) s = .next v) ∧
      (levelAt temp = 4 → exec (.thermalLevelRise d temp) s =
        .next (fireAlarm (raiseErr (setF v d ATC_THROTTLE.FENCED 1) d pgAtc ATC_ERR.FENCE it0) 3))) ∧
    (∀ d temp, d < s.part.dieCnt → gone s d = false → s.inReset = false → temp ≤ 255 →
      levelAt temp < getF s d ATC_THROTTLE.T_LEVEL → exec (.thermalLevelRise d temp) s = .next (setF s d ATC_THROTTLE.TEMP temp)) ∧
    (∀ d temp, d < s.part.dieCnt → gone s d = false → s.inReset = false → getF s d ATC_THROTTLE.T_LEVEL ≠ 0 →
      temp + 3 ≤ threshold (getF s d ATC_THROTTLE.T_LEVEL) → getF s d ATC_THROTTLE.T_LEVEL < 8 →
      ∃ t, exec (.thermalLevelFall d temp) s = .next t ∧
        getF t d ATC_THROTTLE.T_LEVEL = getF s d ATC_THROTTLE.T_LEVEL - 1 ∧
        getF t d ATC_THROTTLE.FENCED = getF s d ATC_THROTTLE.FENCED) ∧
    (∀ d temp, d < s.part.dieCnt → temp ≤ 255 →
      ∃ t, exec (.thermalFenceClear d temp) s = .next t ∧
        OnlyRegs [rkey d ATC_THROTTLE.TEMP 0, rkey d ATC_THROTTLE.FENCED 0] s t ∧
        getF t d ATC_THROTTLE.FENCED = if temp < 100 then 0 else getF s d ATC_THROTTLE.FENCED) ∧
    (∀ ests cp live u p n, live = (dies s).filter (fun d => !gone s d) → s.inReset = false → domOn s 0 5 = true →
      gone s 0 = false → u = live.foldl (fun s d => setF s d PWR_EST.EST (ests.getD d 0)) s →
      p = min 65535 (govPower u (sumL (live.map fun d => getF u d PWR_EST.EST) + cp)) → n = govCount u p →
      n < 64 →
      ∃ t, exec (.governorStep ests cp) s = .next t ∧ getF t 0 PWR_GOV_STS.COUNT = n ∧ getF t 0 PWR_GOV_STS.PKG = p ∧
        ∀ d ∈ live, getF t d PWR_BLANK.GOV = n) ∧
    (domOn s 0 5 = true → s.inReset = false → present s 0 pgPwr = true → getF s 0 PWR_GOV_STS.COUNT = 48 →
      getF s 0 PWR_CAP.CAP < getF s 0 PWR_GOV_STS.PKG →
      ∃ t, exec .governorShortTimeout s = .next t ∧ getF t 0 PWR_GOV_STS.SHORT = 1 ∧ stickySet t 0 pgPwr PWR_ERR.GOV_SHORT) ∧
    (∀ d val, d < s.part.dieCnt →
      ∃ t, exec (.partitionCountSelect d val) s = .next t ∧ getF t d ATC_SEL_IDX.PART = val % 256 ∧
        getF t d ATC_SEL_SRCH_LO.SRCH = mget 0 s.selCnt ((d * 256 + val % 256) * 2) % 2 ^ 32 ∧
        getF t d ATC_SEL_SHELF_LO.SHELF = mget 0 s.selCnt ((d * 256 + val % 256) * 2 + 1) % 2 ^ 32 ∧
        (val.testBit 31 = true → mget 0 t.selCnt ((d * 256 + val % 256) * 2) = 0 ∧
          mget 0 t.selCnt ((d * 256 + val % 256) * 2 + 1) = 0) ∧
        (val.testBit 31 = false → t.selCnt = s.selCnt))

/-- Domains fall asleep without votes, wake in steps, fail and are retried. An idle domain enters its low state unless a
refusal stands, each refusal counted with its code; a wake during entry aborts it; a sleeping domain wakes in 3 or 4
steps once the PLL has locked; a time-out fails it with code 0x20 or 0x21; a retry starts over. PLL lock, its loss and
a bad reference are recorded, and the reading stands in CLK_STS. Selecting a domain may clear its counts. (R411, R413, R420, R421, R422, R423, R425,
R434, spec/14_power_and_clocks.md) -/
def Obligations.PowerDomainsSleepAndWake : Prop :=
  ∀ (s : State) (d c : Nat),
    (domLive s d c = true →
      (∀ low, domOn s d c = true → votes s d c = 0 → getF s d PWR_STATE.LOW c = low → low = 1 ∨ low = 2 →
        (refusal s d c low = none → exec (.hysteresisExpire d c) s = .next (setPhase s d c (.entering low 0))) ∧
        (∀ k, refusal s d c low = some k → exec (.hysteresisExpire d c) s = .next (refuseCode s d c PWR_REFUSE.REFUSALS k))) ∧
      (∀ low n wake, (getDom s d c).phase = .entering low n → wake = ((getDom s d c).wake || wakeStands s d c low) →
        (n < 4 → wake = false → exec (.powerEntryStep d c) s = .next (setPhase s d c (.entering low (n + 1)))) ∧
        (n < 4 → wake = true → exec (.powerEntryStep d c) s =
          .next (refuseCode (setPhase s d c .on) d c PWR_REFUSE.ABORTS (0x11 + n))) ∧
        (4 ≤ n → wake = false → exec (.powerEntryStep d c) s = .next (stopPll (reachLow s d c low) d)) ∧
        (4 ≤ n → wake = true → exec (.powerEntryStep d c) s = .next (startWake (reachLow s d c low) d c low))) ∧
      (((getDom s d c).phase = .ret → exec (.wakeEvent d c) s = .next (startWake s d c 1)) ∧
        ((getDom s d c).phase = .off → exec (.wakeEvent d c) s = .next (startWake s d c 2)) ∧
        (∀ low n, (getDom s d c).phase = .entering low n →
          exec (.wakeEvent d c) s = .next (setPhase s d c (.entering low n) true)) ∧
        ((getDom s d c).phase = .on → exec (.wakeEvent d c) s = .next s)) ∧
      (∀ low n, (getDom s d c).phase = .waking low n → isF s d CLK_STS.LOCK = true →
        (n + 1 < (if low = 1 then 3 else 4) → exec (.powerWakeStep d c) s = .next (setPhase s d c (.waking low (n + 1)))) ∧
        ((if low = 1 then 3 else 4) ≤ n + 1 → c ≠ 5 →
          ∃ t, exec (.powerWakeStep d c) s = .next t ∧ domOn t d c = true ∧ getF t d PWR_STATE.RETRY c = 0) ∧
        ((if low = 1 then 3 else 4) ≤ n + 1 → c = 5 →
          exec (.powerWakeStep d c) s = .next (cpOn (setF (setPhase s d c .on) d PWR_STATE.RETRY 0 c) low))) ∧
      (∀ low n, (getDom s d c).phase = .waking low n →
        exec (.wakeFailTimeout d c false) s = .next (failWake s d c low 0x20) ∧
        (isF s d CLK_STS.LOCK = false → isF s d CLK_STS.PLL_RUN = true →
          exec (.wakeFailTimeout d c true) s = .next (failWake s d c low 0x21)))) ∧
    (∀ low, domExists s d c = true → s.inReset = false → (getDom s d c).phase = .failed low →
      ∃ t, exec (.domainWakeRetry d c) s = .next t ∧ (getDom t d c).phase = .waking low 0 ∧ getF t d PWR_STATE.RETRY c = 1 ∧
        (c < 65536 → isF t d CLK_STS.PLL_RUN = true)) ∧
    (d < s.part.dieCnt → s.inReset = false →
      (isF s d CLK_STS.PLL_RUN = true → isF s d CLK_STS.LOCK = false →
        ∃ t, exec (.pllLock d) s = .next t ∧ OnlyRegs [rkey d CLK_STS.LOCK 0] s t ∧ isF t d CLK_STS.LOCK = true) ∧
      (gone s d = false → isF s d CLK_STS.LOCK = true →
        ∃ t, exec (.pllLockLoss d) s = .next t ∧ isF t d CLK_STS.LOCK = false ∧ stickySet t d pgClk CLK_ERR.LOCK_LOSS) ∧
      (∀ khz u, gone s d = false → khz < 2 ^ 20 → u = measured s d khz →
        getF u d CLK_STS.REF_KHZ = khz ∧
        (98000 ≤ khz → khz ≤ 102000 → exec (.referenceBad ⟨d, khz⟩) s = .next u ∧ isF u d CLK_STS.REF_BAD = false) ∧
        (khz < 98000 ∨ 102000 < khz → isF u d CLK_STS.REF_BAD = true ∧ exec (.referenceBad ⟨d, khz⟩) s =
          .next (fireAlarm (raiseErr u d pgClk CLK_ERR.REF_MON (it1 (readWord u d pgClk 0 0x84))) 2))) ∧
      (∀ val, ∃ t, exec (.powerDomainSelect d val) s = .next t ∧ t = { s with regs := t.regs } ∧
        (val.testBit 31 = false → OnlyRegs [rkey d PWR_DSEL.DOM 0] s t) ∧
        (val.testBit 31 = true → domExists s d (val % 256) = true → getF t d PWR_REFUSE.FAILS (val % 256) = 0 ∧
          getF t d PWR_REFUSE.ABORTS (val % 256) = 0 ∧ getF t d PWR_REFUSE.REFUSALS (val % 256) = 0)))

/-- Module site commands and events act as R373 to R376 give. A site command while one is in progress is ignored; power on
of an empty site and power off of a running channel are rejected and recorded; else the site is switched and its
contents lost, or its indicators change. The button and presence changes are events; removal under power is a surprise
removal. A stuck input is recorded with its pin. The ignored command is log 43. (R373, R375, R489, R490,
spec/12_host_interface.md, spec/16_bring_up_and_pins.md) -/
def Obligations.SiteCommandsAndEventsHappen : Prop :=
  ∀ (s : State) (d : Nat),
    (present s d pgMss = true →
      (∀ val k c, sameSite s d val = false → siteCmd s d val = k →
        c = (if k = 1 then Instr.modulePowerOn d val else if k = 2 then .modulePowerOff d val else .indicatorChange d val) →
        (isF s d MSS_STS.CC = false → mget 0 s.msCmd d ≠ 0 → exec c s = .next s) ∧
        (isF s d MSS_STS.CC = true ∨ mget 0 s.msCmd d = 0 →
          (k = 1 ∧ isF s d MSS_STS.PDS = false ∨ k = 2 ∧ isF s d STR_STS.READY = true →
            exec c s = .next (raiseErr (siteEvent (setF s d MSS_STS.REJ 1) d MSS_STS.CC MSS_CTL.CCIE)
              d pgMss MSS_ERR.CMD_REJ (it1 (val % 2 ^ 32)))) ∧
          (∀ u, u = writeWord s d pgMss 0 0x84 val →
            (k = 1 → isF s d MSS_STS.PDS = true →
              exec c s = .next (loseStore (setF { u with msCmd := mset 0 u.msCmd d k } d MSS_STS.PWR 1) d)) ∧
            (k = 2 → isF s d STR_STS.READY = false →
              exec c s = .next (loseStore (setF { u with msCmd := mset 0 u.msCmd d k } d MSS_STS.PWR 0) d)) ∧
            (k = 3 → exec c s = .next { u with msCmd := mset 0 u.msCmd d k })))) ∧
      exec (.attentionButton d) s = .next (siteEvent (bumpSat s d MSS_CNT.PRESSES) d MSS_STS.ABP MSS_CTL.ABPE) ∧
      (∀ here u, isF s d MSS_STS.PDS = !here → u = siteEvent (setF s d MSS_STS.PDS (b2n here)) d MSS_STS.PDC MSS_CTL.PDCE →
        (here = true → exec (.presenceChange d here) s = .next u) ∧
        (here = false → isF u d MSS_STS.PWR = false → exec (.presenceChange d here) s = .next (setF u d STR_STS.SIZE 0)) ∧
        (here = false → isF u d MSS_STS.PWR = true →
          ∃ t, t = surpriseRemoval u d ∧ exec (.presenceChange d here) s = .next t ∧ mget 0 t.msCmd d = 0 ∧
            getF t d MSS_STS.PWR = 0 ∧ getF t d MSS_CTL.PCC = 1 ∧ ∀ c ∈ t.store, c.1 / 2 ^ 29 ≠ d))) ∧
    (mget 0 s.msCmd d ≠ 0 → exec (.moduleCommandComplete d) s =
      .next (siteEvent { s with msCmd := mset 0 s.msCmd d 0 } d MSS_STS.CC MSS_CTL.CCIE)) ∧
    (∀ pin, d < s.part.dieCnt → 0 < pin → pin ≤ 4 → (pin ≤ 2 → s.part.unitS = true) → (pin = 3 → d = 0) →
      exec (.inputStuck d pin) s = .next (raiseErr s 0 pgPkg PKG_ERR.PIN_STUCK (it2 d pin)))

/-- Register reads and writes are performed, refused or wait for their domain, on every path. A misaligned write is a bad
access; otherwise the gate of the page decides: performed, ignored, or the domain is woken and the access presented
again (log 17). A latching read answers the low word and latches the rest. The management path performs the same
accesses, of 4, 8, 64 and 128 bytes, when its message arrives intact, and a read's completion carries its data and
status back. (R13, R103, R518, spec/00_scope.md, spec/03_attic_search.md, spec/17_register_map.md) -/
def Obligations.RegisterAccessesPerformed : Prop :=
  ∀ (s : State), s.inReset = false → ∀ (acc d : Nat),
    (∀ pg off val, pg ≤ 21 →
      (off % 4 ≠ 0 → exec (.registerWrite acc d pg off val) s = .next (badAccess s (pageBar d pg off))) ∧
      (∀ k e c, off % 4 = 0 → siteGate s (.page d pg off) = (k, e, c) →
        (k = 2 → exec (.registerWrite acc d pg off val) s = .next s) ∧
        (k = 1 → exec (.registerWrite acc d pg off val) s = .next (wakeFor s e c)) ∧
        (k = 0 → exec (.registerWrite acc d pg off val) s = .next (writeReg s acc d pg off (val % 2 ^ 32))))) ∧
    (∀ pg off e c, latchedBy pg off ≠ [] → siteGate s (.page d pg off) = (0, e, c) → present s d pg = true →
      ∃ t, exec (.latchingLoRead acc d pg off) s = .next t ∧ t.out = s.out ++ [.readData acc 0 (liveReg s d pg off)] ∧
        t.latches = (latchedBy pg off).foldl (fun m o => mset 0 m (latchKey acc d pg o) (liveReg s d pg o)) s.latches ∧
        t.regs = s.regs) ∧
    (∀ off size flit u t, d < s.part.dieCnt → size = 4 ∨ size = 8 → takeCell s d 0 5 (mgmtId 1 acc) flit = (u, true) →
      (∀ st v, readSite u acc (msgSite u d off) (dieBar d off) size = (t, some (st, v)) →
        exec (.mgmtRegRead acc ⟨d, flit⟩ off size) s = .next
          { queueMgmt t d 0 3 acc 1 ((st % 8 * 2 ^ 64 + v % 2 ^ 64) * 2 ^ 228) with mgmt := t.mgmt ++
            [{ type := 3, dest := 0, mid := d, acc := acc, off := off, size := size, data := v, status := st }] }) ∧
      (readSite u acc (msgSite u d off) (dieBar d off) size = (t, none) →
        exec (.mgmtRegRead acc ⟨d, flit⟩ off size) s = .next t)) ∧
    (∀ off size data flit u, d < s.part.dieCnt → size = 4 ∨ size = 8 → takeCell s d 0 5 (mgmtId 2 acc) flit = (u, true) →
      exec (.mgmtRegWrite acc ⟨d, flit⟩ off size data) s = .next (writeAt u acc (msgSite u d off) (dieBar d off) size data).1) ∧
    (∀ off size data flit o e u, d < s.part.dieCnt → size = 64 ∨ size = 128 → s.part.unitS = true →
      takeCell s d 0 5 (mgmtId 2 acc) flit = (u, true) →
      (∀ c, msgSite u d off = .slotWrite e o → siteGate u (.slotWrite e o) = (0, e, c) →
        exec (.mgmtRegWrite acc ⟨d, flit⟩ off size data) s = .next (slotWrite u d o size (BitVec.ofNat 512 data))) ∧
      (∀ c, msgSite u d off = .store e o → siteGate u (.store e o) = (0, e, c) → o % size = 0 →
        exec (.mgmtRegWrite acc ⟨d, flit⟩ off size data) s = .next (if size = 128 then
            writeStoreWin u d o 15 false fun _ => ⟨BitVec.ofNat 1024 data, 0⟩
          else writeStoreWin u d o (halfSlots (o % 128)) false (putHalf64 (o % 128) data)))) ∧
    (∀ off size flit u, takeCell s d 0 5 (mgmtId 1 acc) flit = (u, false) → exec (.mgmtRegRead acc ⟨d, flit⟩ off size) s = .next u) ∧
    (∀ off size data flit u, takeCell s d 0 5 (mgmtId 2 acc) flit = (u, false) →
      exec (.mgmtRegWrite acc ⟨d, flit⟩ off size data) s = .next u) ∧
    (∀ m flit u, s.mgmt.find? (fun m => m.type == 3 && m.acc == acc) = some m →
      (takeCell s 0 m.mid 5 (mgmtId 3 acc) flit = (u, false) → exec (.mgmtReadCompletion ⟨acc, flit⟩) s = .next u) ∧
      (takeCell s 0 m.mid 5 (mgmtId 3 acc) flit = (u, true) → exec (.mgmtReadCompletion ⟨acc, flit⟩) s = .next (emitOut
        { u with mgmt := rmFirst (fun m => m.type == 3 && m.acc == acc) u.mgmt } (.readData acc m.status m.data))))

/-- The SMBus port writes, reads and reports, and the hatch wakes the control processor. A PEC error changes nothing; a
write that is refused is not acknowledged; a block read answers 4 bytes, most significant first, and advances by 4.
The hatch latch reads its code and is cleared. An address match on a sleeping control processor stretches the clock
and wakes it, or fails with its code. (R427, R428, R429, R430, spec/14_power_and_clocks.md) -/
def Obligations.SmbusPortAnswers : Prop :=
  ∀ (s : State),
    (portLive s = true → ∀ (addr val : Nat),
      exec (.smbusRegisterWrite addr val true) s = .next s ∧
      (∀ t k, busWrite s 1 addr 4 (val % 2 ^ 32) = (t, k) →
        exec (.smbusRegisterWrite addr val false) s = .next (if k = 1 ∨ k = 2 then emitOut t .smbusNack else t)) ∧
      (exec (.smbusSetReadAddress addr true) s = .next s ∧
        exec (.smbusSetReadAddress addr false) s = .next { s with sm := { s.sm with rdAddr := addr % 2 ^ 32 } }) ∧
      (∀ t v, busRead s 1 s.sm.rdAddr 4 = (t, some (0, v)) →
        exec .smbusBlockRead s = .next (emitOut { t with sm := { t.sm with rdAddr := (s.sm.rdAddr + 4) % 2 ^ 32 } } (.smbus (bytesBE 4 v))))) ∧
    (s.inReset = false →
      exec .hatchLatchRead s = .next
        (emitOut { s with sm := { s.sm with latch := s.sm.latch % 8 } } (.smbus [0xA0 + s.sm.latch % 16]))) ∧
    (domLive s 0 5 = true → domOn s 0 5 = false →
      (domFailed s 0 5 = true → exec .hatchAddressMatch s = .next (hatchFail s 4)) ∧
      (domFailed s 0 5 = false →
        exec .hatchAddressMatch s = .next (wakeEvent { s with sm := { s.sm with stretching := true } } 0 5))) ∧
    (s.sm.stretching = true →
      exec (.hatchWakeFail true) s = .next (hatchFail s 3) ∧
      (domFailed s 0 5 = true → exec (.hatchWakeFail false) s =
        .next (hatchFail s (if getF s 0 PWR_REFUSE.LAST 5 = 0x21 then 2 else 1)))) ∧
    exec .smbusTimeout s = .next { s with sm := { s.sm with stretching := false } } ∧
    (∀ code, (hatchFail s code).sm.latch = 8 + code % 8 ∧ (hatchFail s code).sm.stretching = false ∧
      (hatchFail s code).out = s.out ++ [.smbusNack])

/-- Each arbiter slot goes to its lock, its booking, its owner or the winner of the contest, in that order. At a slot
cycle of an arbiter, once: a lock's owner takes it, or nobody; then a booking; then nobody on a blanked position; then
the slot's owner if ready; else the winner of the contest, while the losers age. A slot settled already, one inside a
grant of several slots and one of a fenced attic change nothing. A commit with a bad table is rejected with its
position, a good one is taken at the next wrap, on both dies of a pair. Selecting a counter shows it and may clear it.
(R97, R334, R336, R347, R348, spec/03_attic_search.md, spec/11_arbitration.md) -/
def Obligations.ArbiterSettlesEverySlot : Prop :=
  ∀ (s : State) (d inst : Nat),
    (∀ ready lo n span p rs u, p = pruneSlots s → d < s.part.dieCnt → inst ≤ 3 → (inst = 3 → d = 0) → gone p d = false →
      s.cyc % slotCyc inst = 0 → rs = readyOwners p d inst ready →
      u = ((List.range (ownerCount inst)).filter fun o => !rs.contains o && ageOf p d inst o != 0).foldl
        (fun s o => clearAge s d inst o) { p with settled := mset 0 p.settled (4 * d + inst) (s.cyc + 1) } →
      (mget 0 p.settled (4 * d + inst) = s.cyc + 1 ∨ inSpan p d inst = true ∨ inst = 0 ∧ isF p d ATC_THROTTLE.FENCED = true →
        exec (.arbiterSlotGrant d inst ready lo ⟨n, span⟩) s = .next p) ∧
      (mget 0 p.settled (4 * d + inst) ≠ s.cyc + 1 → inSpan p d inst = false → (inst = 0 → isF p d ATC_THROTTLE.FENCED = false) →
        ∀ v, v = noteSpan (settleSlot u d inst rs lo n) d inst span → exec (.arbiterSlotGrant d inst ready lo ⟨n, span⟩) s =
          .next (if inst = 2 then injectCell v d else if inst = 1 then useMemSlot v d else v))) ∧
    (∀ rs lo n,
      (∀ l, lockAt s d inst s.cyc = some l → rs.contains l.owner = true → settleSlot s d inst rs lo n = giveSlot s d inst l.owner) ∧
      (∀ l, lockAt s d inst s.cyc = some l → rs.contains l.owner = false → inst ≠ 1 → settleSlot s d inst rs lo n = s) ∧
      (lockAt s d inst s.cyc = none →
        (∀ b, inst = 0 → bookAt s d s.cyc = some b → settleSlot s d inst rs lo n = countGrant s d inst b.group) ∧
        (inst = 0 → bookAt s d s.cyc = none → (blankedIn s d s.cyc).contains (posAt s 0 s.cyc) = true →
          settleSlot s d inst rs lo n = s) ∧
        (inst ≠ 0 ∨ bookAt s d s.cyc = none ∧ (blankedIn s d s.cyc).contains (posAt s 0 s.cyc) = false → n ≤ 1 →
          (∀ o, slotOf s d inst (posAt s inst s.cyc) = o + 1 → rs.contains o = true →
            settleSlot s d inst rs lo n = giveSlot s d inst o) ∧
          (∀ o, spanEnd s d inst = none → slotOf s d inst (posAt s inst s.cyc) = 0 → contestWinner s d inst rs = some o →
            settleSlot s d inst rs lo n = giveSlot
              ((rs.filter fun x => x != o).foldl (fun s x => loseContest s d inst x) (clearAge s d inst o)) d inst o)))) ∧
    (∀ i, getF s d ARB_SEL.INST = i → (i = 3 → d = 0) → isF s d ARB_STS.PEND i = false →
      (∀ p, commitBreak s d i = some p → exec (.arbiterCommit d) s = .next
        (raiseErr (setF (setF s d ARB_STS.REJ 1 i) d ARB_STS.REJ_POS p i) d pgArb ARB_ERR.COMMIT_REJ (it2 i p))) ∧
      (commitBreak s d i = none → ∃ t, exec (.arbiterCommit d) s = .next t ∧
        OnlyRegs [rkey d ARB_CTL.COMMIT i, rkey d ARB_STS.PEND i, rkey d ARB_STS.REJ i] s t ∧ (i < 65536 → isF t d ARB_STS.PEND i = true))) ∧
    (∀ u v, isF s d ARB_STS.PEND inst = true → posAt s inst s.cyc = 0 → s.cyc % slotCyc inst = 0 → v = takeTable s d d inst →
      u = (if avail v && inst != 3 then takeTable v d (partner d) inst else v) →
      exec (.arbiterTableSwitch d inst) s = .next (setF (setF u d ARB_STS.PEND 0 inst) d ARB_CTL.COMMIT 0 inst)) ∧
    (∀ val i k, getF s d ARB_SEL.INST = i → k = okey d i (val % 32) →
      ∃ t, exec (.arbCounterSelect d val) s = .next t ∧
        getF t d ARB_CNT_GRANT.GRANTS i = mget 0 s.arbGrants k % 2 ^ 32 ∧
        (val.testBit 31 = true → mget 0 t.arbGrants k = 0 ∧ mget 0 t.arbWait (4 * k + 1) = 0) ∧
        (val.testBit 31 = false → t.arbGrants = s.arbGrants ∧ t.arbWait = s.arbWait))

/-- The end of error handling moves the second record up; errors may be injected with a debug level; pages lock. Injecting
an error stores INJ_BIT and, unless the debug level is 0, the bit is reserved or its class is S, raises that bit with
ID 0xFF and no data. Beyond the cited rule: ending the handling clears the first record, or moves the second up
without its data; the supervisor's time-out escalates a record once; locking a page sets its lock alone. (R504) -/
def Obligations.ErrorRecordsHandled : Prop :=
  ∀ (s : State) (d pg : Nat), pageHere s d pg = true →
    (isF s d (ERR_FIRST0.VALID pg) = true → getF s d (ERR_SECOND.VALID pg) = 0 →
      ∃ t, exec (.errorHandlingEnd d pg) s = .next t ∧ getF t d (ERR_FIRST0.VALID pg) = 0 ∧
        getF t d (ERR_STICKY.BITS pg) = getF s d (ERR_STICKY.BITS pg)) ∧
    (∀ k b, isF s d (ERR_FIRST0.VALID pg) = true → isF s d (ERR_SECOND.VALID pg) = true → getF s d (ERR_SECOND.ESC pg) = 1 →
      getF s d (ERR_SECOND.CLASS pg) = k → getF s d (ERR_SECOND.BIT pg) = b → k < 4 → b < 32 →
      ∃ t, exec (.errorHandlingEnd d pg) s = .next t ∧ getF t d (ERR_FIRST0.VALID pg) = 1 ∧ getF t d (ERR_FIRST0.CLASS pg) = k ∧
        getF t d (ERR_FIRST0.BIT pg) = b ∧ getF t d (ERR_SECOND.VALID pg) = 0) ∧
    (∀ k b, isF s d (ERR_FIRST0.VALID pg) = true → getF s d (ERR_FIRST0.CLASS pg) = k → getF s d (ERR_FIRST0.BIT pg) = b → k < 2 →
      getF s d FLT_SUP_TMO.TMO ≠ 0 → s.escal.contains (d, 128 + slotMark pg false) = false →
      exec (.supervisorEscalation d pg) s = .next (escalate s d pg false k b)) ∧
    (∀ bit u, bit < 32 → u = setF s d (PAGE_CTL.INJ_BIT pg) bit →
      (getF u d DBG_CTL.LEVEL = 0 ∨ errBits pg ≤ bit ∨ errClass u d pg bit = 3 → exec (.errorInject d pg bit) s = .next u) ∧
      (getF u d DBG_CTL.LEVEL ≠ 0 → bit < errBits pg → errClass u d pg bit ≠ 3 →
        exec (.errorInject d pg bit) s = .next (raiseErr u d pg bit ⟨0xFF, 0⟩))) ∧
    (∃ t, exec (.pageLock d pg) s = .next t ∧ OnlyRegs [rkey d (PAGE_CTL.LOCK pg) 0] s t ∧ isF t d (PAGE_CTL.LOCK pg) = true)

/-- An engine reset ends the work in flight, with UNLOAD the contents too; golden replay compares digests. A reset starts
once and, when accepted commands, responses and merging buffers are done, ends with cache, fills, steps, searches and
bookings empty, and with UNLOAD also rows, recipes and profile. A replay without vectors ends with result 5; a vector
that cannot be read with 4; else each vector runs. At the end a wrong vector digest gives 3, the expected result
digest 1, any other 2, the last two recorded. (R447, R457, R458, spec/15_faults_and_security.md) -/
def Obligations.EngineResetAndGoldenReplay : Prop :=
  ∀ (s : State),
    (s.inReset = false → gone s 0 = false → ∀ (val : Nat), val.testBit 31 = true →
      (isF s 0 FLT_ERST.GO = false → ∃ t, exec (.engineReset val) s = .next t ∧ t = startErst s (val.testBit 30) ∧ t.fltq = [] ∧
        (∀ q ∈ t.stepEnts, q.2.conf = 0) ∧ ∀ f ∈ t.fetches, f.done = true) ∧
      (isF s 0 FLT_ERST.GO = true → exec (.engineReset val) s = .next s) ∧
      (∀ u, isF s 0 FLT_GR_CTL.GO = false →
        u = setF (setF (setF s 0 FLT_GR_CTL.SRC (val / 2 ^ 30)) 0 FLT_GR_CTL.SDIE (val / 2 ^ 27)) 0 FLT_GR_CTL.GROUP (val / 2 ^ 16) →
        (getF u 0 FLT_GR_CNT.COUNT = 0 → exec (.goldenReplay val) s = .next (setF u 0 FLT_GR_STS.RESULT 5)) ∧
        (getF u 0 FLT_GR_CNT.COUNT ≠ 0 → ∃ t, exec (.goldenReplay val) s = .next t ∧
          t.golden = some { vecBytes := [], resBytes := [], expectVec := s.goldVec, running := none } ∧
          getF t 0 FLT_GR_CTL.GO = 1 ∧ getF t 0 FLT_GR_STS.BUSY = 1 ∧ getF t 0 FLT_GR_CNT.DONE = 0))) ∧
    (isF s 0 FLT_ERST.GO = true → s.mbuf = [] → s.cmds.any (fun c => c.acc.isSome) = false → s.reqs.any (fun r => r.resp.isSome) = false →
      ∃ t, exec .engineResetDone s = .next t ∧ t.cache = [] ∧ t.fills = [] ∧ t.steps = [] ∧ t.searches = [] ∧ t.books = [] ∧
        t.issues = [] ∧ t.egress = [] ∧ getF t 0 FLT_ERST.GO = 0 ∧
        (isF s 0 FLT_ERST.UNLOAD = false → t.rows = s.rows ∧ t.recipe = s.recipe) ∧
        (isF s 0 FLT_ERST.UNLOAD = true → t.rows = [] ∧ t.recipe = [] ∧ t.slots = [] ∧ getF t 0 PAGE_CAP.PROFILE = 0)) ∧
    (∀ g, s.golden = some g → goldenIdle s g = true →
      (getF s 0 FLT_GR_CNT.DONE < getF s 0 FLT_GR_CNT.COUNT → ∀ (data : BitVec 1152) (fail : Bool),
        (isF s 0 FLT_GR_CTL.SRC = false →
          (fail = true ∨ canMaster s = false → exec (.goldenVector data fail) s = .next (endGolden s 4)) ∧
          (fail = false → canMaster s = true → exec (.goldenVector data fail) s = .next (runVector s g (bytesBE 144 data.toNat)))) ∧
        (isF s 0 FLT_GR_CTL.SRC = true →
          ∀ a, a = goldenBase s + 144 * getF s 0 FLT_GR_CNT.DONE →
          (storeVector s (getF s 0 FLT_GR_CTL.SDIE) a = none → exec (.goldenVector data fail) s = .next (endGolden s 4)) ∧
          (∀ v, storeVector s (getF s 0 FLT_GR_CTL.SDIE) a = some v →
            exec (.goldenVector data fail) s = .next (runVector s g v)))) ∧
      (getF s 0 FLT_GR_CNT.COUNT ≤ getF s 0 FLT_GR_CNT.DONE → ∀ u want,
        u = (List.range 8).foldl (fun s i => setF s 0 (FLT_GR_DIG.DIGEST i) (sha256 g.resBytes / 2 ^ (32 * (7 - i)))) s →
        want = (List.range 8).foldl (fun a i => a * 2 ^ 32 + getF s 0 (FLT_GR_EXP.DIGEST i)) 0 →
        (sha256 g.vecBytes ≠ g.expectVec → exec .goldenReplayDone s =
          .next (raiseErr (endGolden u 3) 0 pgFlt FLT_ERR.GR_VEC (it1 (getF u 0 FLT_GR_CNT.DONE)))) ∧
        (sha256 g.vecBytes = g.expectVec → sha256 g.resBytes % 2 ^ 256 = want →
          exec .goldenReplayDone s = .next (endGolden u 1)) ∧
        (sha256 g.vecBytes = g.expectVec → sha256 g.resBytes % 2 ^ 256 ≠ want → exec .goldenReplayDone s =
          .next (raiseErr (endGolden u 2) 0 pgFlt FLT_ERR.GR_MIS (it1 (getF u 0 FLT_GR_CNT.DONE))))))

/-- Reset is left when every die is good, held dies are named, and self-qualification runs its phases. With the lead die
good, reset is left when all dies are, or at its time-out with the missing dies held and recorded. A conventional
reset restores the reset state but for what outlives it (log 53). Power loss loses the die. Service release sets SVC
alone. Self-qualification starts when accepted, else is refused, and runs its six phases with their findings, the
operands of the command (log 54). (R475, R476, R481, R482, R485, spec/16_bring_up_and_pins.md) -/
def Obligations.ResetsAndSelfQualification : Prop :=
  ∀ (s : State),
    (s.inReset = true → ∀ (good casc boot smb : Nat), good.testBit 0 = true →
      (allDies s &&& good = allDies s → exec (.resetRelease good casc boot smb) s = .next (leaveReset s good casc boot smb)) ∧
      (allDies s &&& good ≠ allDies s →
        exec (.resetRelease good casc boot smb) s = .next s ∧
        exec (.dieResetTimeout good casc boot smb) s = .next
          (((dies (leaveReset s good casc boot smb)).filter fun d => !good.testBit d).foldl
            (fun s d => raiseErr s 0 pgPkg PKG_ERR.DIE_DOWN (it1 d)) (leaveReset s good casc boot smb))) ∧
      (∃ r, leaveReset s good casc boot smb = { s with
        free := s.free + 1, inReset := false, cyc := 0, heldDies := allDies s - (allDies s &&& good), regs := r,
        part := { s.part with casc := casc % 4, bootSrc := boot % 4, smbAddr := smb % 8 },
        idKey := some (Config.identityKey s.part.dsn) }) ∧
      getF (leaveReset s good casc boot smb) 0 PKG_BOOT.DIE_UP = (allDies s &&& good) % 2 ^ PKG_BOOT.DIE_UP.width) ∧
    (∃ e, exec .conventionalReset s = .next { State.reset with
      pending := s.pending, part := s.part, free := s.free, nextId := s.nextId, out := s.out,
      fuseSvn := s.fuseSvn, fuseRevoked := s.fuseRevoked, tap := s.tap, storeEpoch := e }) ∧
    (∀ d, d < s.part.dieCnt → s.inReset = false → gone s d = false →
      ∃ t, exec (.diePowerGoodLoss d) s = .next t ∧ gone t d = true ∧ t = { s with lostDies := t.lostDies }) ∧
    (s.inReset = false → gone s 0 = false →
      ∃ t, exec .serviceRelease s = .next t ∧ OnlyRegs [rkey 0 PKG_BOOT.SVC 0] s t ∧ isF t 0 PKG_BOOT.SVC = true) ∧
    (∀ d val, present s d pgBsq = true → s.heldDies.testBit d = false → s.inReset = false → val.testBit 31 = true →
      isF s d BSQ_CTL.GO = false → ∀ u, u = setF s d BSQ_CTL.REPAIR val →
      (bsqAccepts u d = true → exec (.bsqStart d val) s = .next (startBsq u d)) ∧
      (bsqAccepts u d = false → exec (.bsqStart d val) s = .next (setF u d BSQ_STS.REFUSED 1))) ∧
    (∀ d ways fault shelves ms n u, isF s d BSQ_STS.BUSY = true → d < s.part.dieCnt → getF s d BSQ_STS.PHASE = n →
      u = setF s d BSQ_STS.PHASE (n + 1) →
      (n = 6 → exec (.bsqPhaseDone d ways fault shelves ms) s = .next (endBsq s d ms)) ∧
      (n = 2 → exec (.bsqPhaseDone d ways fault shelves ms) s = .next (wayPhase u d ways)) ∧
      (n = 4 → exec (.bsqPhaseDone d ways fault shelves ms) s = .next (bankPhase u d shelves)) ∧
      (n = 1 ∨ n = 3 ∨ n = 5 → fault = false → exec (.bsqPhaseDone d ways fault shelves ms) s = .next u) ∧
      (∀ c, (n, c) ∈ [(1, 7), (3, 5), (5, 6)] → fault = true →
        exec (.bsqPhaseDone d ways fault shelves ms) s = .next (bsqCause u d c 0 0 0)))

/-- An image is checked in the order of R460, and the first failing check gives its status. Format and version, key,
signature and security version give statuses 1 to 4, the digest 5, the contents 6; a good image is loaded and started.
Loading from the host needs GO and no load in progress, and reads the header; booting from flash takes the first slot
with a good header. The image's body layout is the model's choice (log 48). (R460, R479, R480,
spec/15_faults_and_security.md, spec/16_bring_up_and_pins.md) -/
def Obligations.ImageCheckedInOrder : Prop :=
  ∀ (s : State) (h : BitVec 4096) (kd : Bool) (sig : Bool),
    kd = (!s.fuseRevoked.testBit (imgKeyIdx h) &&
      sha384 (bytesBE 96 (imgKey h)) == s.part.keyDigest.getD (imgKeyIdx h) 0) →
    sig = ecdsaVerify (imgKey h) (sha384 (bytesBE 0xA8 (getBE h 0 (8 * 0xA8)))) (imgSigR h) (imgSigS h) →
    (hdrWord h 0 ≠ 0x4C5A4431 ∨ hdrWord h 4 ≠ 1 → headerStatus s h = 1) ∧
    (hdrWord h 0 = 0x4C5A4431 → hdrWord h 4 = 1 →
      (kd = false → headerStatus s h = 2) ∧
      (kd = true → sig = false → headerStatus s h = 3) ∧
      (kd = true → sig = true → imgSvn h < s.fuseSvn → headerStatus s h = 4) ∧
      (kd = true → sig = true → s.fuseSvn ≤ imgSvn h → headerStatus s h = 0)) ∧
    (∀ img, img.header = h → s.loading ≠ 0 → s.inReset = false → gone s 0 = false →
      (headerStatus s h ≠ 0 → exec (.imageCheck img) s = .next (endLoad (imgStatus s h (headerStatus s h)) true)) ∧
      (headerStatus s h = 0 →
        (sha384 (img.body.take (imgLength h)) ≠ imgDigest h →
          exec (.imageCheck img) s = .next (endLoad (imgStatus s h 5) true)) ∧
        (∀ u, sha384 (img.body.take (imgLength h)) = imgDigest h →
          (checkContents s img.cont = (false, u) → exec (.imageCheck img) s = .next (endLoad (raiseErr (imgStatus u h 6) 0 pgSec SEC_ERR.IMG_REJ
            (it1 (readWord (imgStatus u h 6) 0 pgSec 0 0x8C))) true)) ∧
          (checkContents s img.cont = (true, u) →
            exec (.imageCheck img) s = .next (endLoad (startImage (finishLoad (imgStatus u h 0) img.cont) h) false))))) ∧
    (s.inReset = false → gone s 0 = false →
      (∀ val, val.testBit 31 = true → isF s 0 PKG_IMG_CMD.GO = false →
        (hostLoadOk s = false ∨ s.loading ≠ 0 →
          exec (.imageLoadHost val) s = .next (setF s 0 PKG_IMG_CMD.STATE 4)) ∧
        (hostLoadOk s = true → s.loading = 0 →
          ∃ t, exec (.imageLoadHost val) s = .next t ∧ t.loading = 3 ∧ getF t 0 PKG_IMG_CMD.STATE = 1 ∧ getF t 0 PKG_IMG_CMD.GO = 1 ∧
            t.out = s.out ++ [.hostRead (getF s 0 PKG_IMG_HI.ADDR * 2 ^ 32 + getF s 0 PKG_IMG_LO.ADDR / 4096 * 4096) none 512])) ∧
      (∀ b u v, s.loading = 0 → getF s 0 PAGE_CAP.PROFILE = 0 → isF s 0 HIF_STS.LINK_UP = false → s.part.bootSrc % 2 ≠ 1 →
        u = imgStatus s h (headerStatus s h) → v = imgStatus u b (headerStatus u b) →
        (headerStatus u h = 0 →
          exec (.flashBoot h b) s = .next (setF { u with loading := 1 } 0 HIF_STS.BAR4_LOG2 (bar4Of h))) ∧
        (headerStatus u h ≠ 0 → headerStatus v b = 0 →
          exec (.flashBoot h b) s = .next (setF { v with loading := 2 } 0 HIF_STS.BAR4_LOG2 (bar4Of b))) ∧
        (headerStatus u h ≠ 0 → headerStatus v b ≠ 0 →
          exec (.flashBoot h b) s = .next (setF v 0 HIF_STS.BAR4_LOG2 20))))

/-- Debug unlock, alarms, zeroization and endorsement act as R461 to R468 give. A challenge stores a random value and
shows it; a response is checked against it: three failures lock out, level 0 drops the level, level 3 is refused, a
good response grants its level. Tamper, voltage and zeroize requests fire their alarms. An endorsement signs serial
number, key number and key, or says what is missing. Random values and signatures are opaque (log 13). (R462, R464,
R466, R468, spec/15_faults_and_security.md) -/
def Obligations.SecurityCommandsAct : Prop :=
  ∀ (s : State),
    (secLive s = true → ∀ (val : Nat),
      (val.testBit 31 = true → val.testBit 30 = false →
        ∃ t, exec (.debugChallenge val) s = .next t ∧ t.unlock.chal = some (Config.random s.free % 2 ^ 384) ∧ t.unlock.at_ = s.cyc ∧
          t.free = s.free + 1 ∧ getF t 0 SEC_DBG_CMD.LEVEL = fld val 28 2 ∧
          ∀ i, i < 12 → getF t 0 (SEC_DBG_CHAL.DATA i) = Config.random s.free % 2 ^ 384 / 2 ^ (32 * (11 - i)) % 2 ^ 32) ∧
      (∀ u, val.testBit 31 = false → val.testBit 30 = true → u = setF s 0 SEC_DBG_CMD.LEVEL (fld val 28 2) →
        (getF u 0 SEC_DBG_CMD.FAILS = 3 → exec (.debugResponse val) s = .next (setF u 0 SEC_DBG_CMD.STATUS 4)) ∧
        (getF u 0 SEC_DBG_CMD.FAILS ≠ 3 →
          (fld val 28 2 = 0 → exec (.debugResponse val) s = .next (setF (setLevel u 0) 0 SEC_DBG_CMD.STATUS 0)) ∧
          (fld val 28 2 = 3 → exec (.debugResponse val) s = .next (setF u 0 SEC_DBG_CMD.STATUS 5)) ∧
          (fld val 28 2 = 1 ∨ fld val 28 2 = 2 →
            (s.unlock.chal = none → exec (.debugResponse val) s = .next (setF u 0 SEC_DBG_CMD.STATUS 3)) ∧
            (∀ c, s.unlock.chal = some c →
              (goodResponse (dropChallenge u) c (fld val 28 2) = true →
                exec (.debugResponse val) s = .next (setF
                  (setLevel (if fld val 28 2 = 2 then fireAlarm (dropChallenge u) 9 else dropChallenge u) (fld val 28 2))
                  0 SEC_DBG_CMD.STATUS 1)) ∧
              (goodResponse (dropChallenge u) c (fld val 28 2) = false →
                exec (.debugResponse val) s = .next (failResponse (dropChallenge u))))))) ∧
      exec .tamper s = .next (fireAlarm s 4) ∧
      exec .zeroizeRequest s = .next (fireAlarm s 8) ∧
      (∀ d, d < s.part.dieCnt → exec (.voltageAlarm d) s = .next (fireAlarm s 1)) ∧
      (∀ k e, s.evd.key = some k → s.idKey = some e →
        ∃ t, exec .endorse s = .next t ∧ getF t 0 SEC_END_CMD.STATUS = 0 ∧ t.free = s.free + 1 ∧
          ∀ i, i < 24 → getF t 0 (SEC_END_SIG.DATA i) = ecdsaSign e (sha384 (bytesBE 8 s.part.dsn ++
            bytesBE 4 (getF s 0 EVD_KEYID.VALUE) ++ pubkeyBytes s)) (Config.random s.free) / 2 ^ (32 * (23 - i)) % 2 ^ 32) ∧
      (s.evd.key = none → exec .endorse s = .next (setF s 0 SEC_END_CMD.STATUS 1)) ∧
      (∀ k, s.evd.key = some k → s.idKey = none → exec .endorse s = .next (setF s 0 SEC_END_CMD.STATUS 2))) ∧
    exec .debugChallengeExpire s = .next { s with unlock := { s.unlock with chal := none } }

/-- Descriptors are written at their target cycle on every die, and only in the states that allow it. A package window
write is queued for 64 cycles later and announced; at that cycle it is applied. A valid descriptor takes only its
first word; one made valid with a bad combination is rejected and recorded. Clearing a cellar region's VALID takes it
offline; a region of no buckets is rejected. A store region write is checked in order 5, 6, 8, recorded with the byte
offset of its descriptor, and goes to both dies of a pair. What a rejected write of a descriptor records is log 93. (R65, R244, R245, R513, spec/02_entries_and_keys.md, spec/08_store_room_and_cellar.md,
spec/17_register_map.md) -/
def Obligations.DescriptorTablesWritten : Prop :=
  ∀ (s : State) (n off val : Nat),
    (∀ acc pg bank o w, (pg = pgPart ∧ bank < 256 ∧ o < 32 ∧ off = 0x10000 + 32 * bank + o ∨
        pg = pgCr ∧ bank < 256 ∧ o < 64 ∧ off = 0x20000 + 64 * bank + o ∧ s.part.unitC = true) →
      w = ({ acc := acc, page := pg, bank := bank, off := o, value := val % 2 ^ 32, at_ := s.cyc + 64 } : TargetWrite) →
      exec (.packageWindowWrite acc off val) s = .next (sendTarget { s with twrites := s.twrites ++ [w] } s.nextId (s.cyc + 64)
        ((((w.page * 65536 + bank) * 4096 + o) * 2 ^ 32 + val % 2 ^ 32) * 2 ^ 181))) ∧
    (∀ w, (s.twrites.find? fun w => decide (w.at_ ≤ s.cyc) && (w.page == pgPart && w.bank == n)) = some w →
      exec (.partitionDescWrite n) s = .next (applyTarget s w)) ∧
    (∀ w, (s.twrites.find? fun w => decide (w.at_ ≤ s.cyc) && (w.page == pgCr && w.bank == n)) = some w →
      exec (.crRegionWrite n) s = .next (applyTarget s w)) ∧
    exec .targetCycleApply s = .next ((s.twrites.filter fun w => decide (w.at_ ≤ s.cyc)).foldl applyTarget s) ∧
    (∀ w u, u = { s with twrites := rmFirst (fun x => x == w) s.twrites } →
      applyTarget s w = if w.page = pgPart then writePart u w.bank w.off w.value else writeCr u w.bank w.off w.value) ∧
    (isF s 0 PART_CTL.VALID n = true → off ≠ 0 → writePart s n off val = descErr s pgAtc ATC_ERR.DESC_WR (n * 32 + off)) ∧
    (∀ t, t = writeCopies s pgPart n off val → isF s 0 PART_CTL.VALID n = false → isF t 0 PART_CTL.VALID n = true →
      writePart s n off val = if badPartition t n then descErr s pgAtc ATC_ERR.DESC_WR (n * 32 + off) else t) ∧
    (badPartition s n = true ↔ 3 < getF s 0 PART_CTL.WIDTH n ∨ isF s 0 PART_CTL.CELLAR n = true ∧ isF s 0 PART_CTL.STORE n = false ∨
      (isF s 0 PART_CTL.STORE n = true ∨ isF s 0 PART_CTL.CELLAR n = true) ∧ 1 < getF s 0 PART_CTL.WIDTH n) ∧
    (isF s 0 CR_CTL.VALID n = true → off ≠ 0 → writeCr s n off val = descErr s pgCel CEL_ERR.DESC_WR (val % 2 ^ 32)) ∧
    (∀ t, t = writeCopies s pgCr n off val →
      (isF s 0 CR_CTL.VALID n = true → off = 0 → isF t 0 CR_CTL.VALID n = false → writeCr s n off val = regionOff t n 1 (some 8)) ∧
      (isF s 0 CR_CTL.VALID n = false → isF t 0 CR_CTL.VALID n = true → getF t 0 CR_SIZE.NBUCK n = 0 →
        writeCr s n off val = descErr s pgCel CEL_ERR.DESC_WR (val % 2 ^ 32))) ∧
    (∀ d nb k, off < 0x2000 → present s d pgStr = true → k = off / 32 → nb = getF s d SR_SIZE.NBUCK k →
      (avail s = true ∧ d % 2 = 1 → exec (.srRegionWrite d off val) s = .next (swrReject s d 5 (it2 (k * 32) val))) ∧
      (avail s = false ∨ d % 2 = 0 →
        (isF s d SR_CTL.VALID k = true → off % 32 ≠ 0 → exec (.srRegionWrite d off val) s = .next (swrReject s d 6 (it2 (k * 32) val))) ∧
        (isF s d SR_CTL.VALID k = false ∨ off % 32 = 0 →
          (off % 32 = 0 ∧ val.testBit 31 = true ∧ (nb = 0 ∨ 2 ^ 29 < nb) → exec (.srRegionWrite d off val) s = .next (swrReject s d 8 (it2 (k * 32) val))) ∧
          (off % 32 ≠ 0 ∨ val.testBit 31 = false ∨ (0 < nb ∧ nb ≤ 2 ^ 29) → exec (.srRegionWrite d off val) s = .next
            ((if avail s then [d, partner d] else [d]).foldl (fun s e => writeWord s e pgSr k (off % 32) val) s)))))

/-- The array windows read rows, buckets and recipe words, and take store and slice writes. A row read answers from the
snapshot of its accessor or takes one with a grant; writes to rows are ignored and recorded. A store read past the
module or of a bad line answers ones; a store write of 64 or 128 bytes replaces its bytes, or fails CRC four times, and
drops the cached line, any other is rejected with cause 4. A recipe read answers the word. A slice write needs a halted
thread and a debug level. (R58, R501, R508, R510, R512, spec/02_entries_and_keys.md, spec/17_register_map.md) -/
def Obligations.ArrayWindowsAnswer : Prop :=
  ∀ (s : State) (d acc off size : Nat),
    (∀ o bank v sh k, gone s d = false → o = off % 2 ^ 20 → bank = getF s d ATC_WIN_BASE.BANK → domFailed s d (domBank bank) = false →
      v = o / 128 → sh = 8 * getF s d ATC_WIN_BASE.SGRP + v / 1024 → k = pkey d bank (physShelf s d bank sh) (v % 1024) →
      (∀ l, ((snapOf s acc d false).bind fun x => snapRow x k) = some l →
        exec (.atticWindowRead acc d off size) s = .next (emitOut s (.readData acc 0 (cutLE l (o % 128) size)))) ∧
      (((snapOf s acc d false).bind fun x => snapRow x k) = none → domOn s d (domBank bank) = true →
        (∀ u t x, useLock s d 0 0x12 (entryRows (mget Row.zero s.rows k)) = some u → (t, x) = takeRowSnap u acc d bank sh (v % 1024) →
          exec (.atticWindowRead acc d off size) s = .next (emitOut t (.readData acc 0 (cutLE ((snapRow x k).getD []) (o % 128) size)))) ∧
        (useLock s d 0 0x12 (entryRows (mget Row.zero s.rows k)) = none → exec (.atticWindowRead acc d off size) s = .next s))) ∧
    (∀ r flags, (rowView r flags).length = 128) ∧
    exec (.atticWindowWrite d off) s = .next (raiseErr s d pgAtc ATC_ERR.WIN_WR (it1 off)) ∧
    (∀ ecc line ones, line = winLine s d (off % 2 ^ 20) → ones = 2 ^ (8 * size) - 1 →
      (gone s d = true ∨ isF s d STR_STS.READY = false → exec (.storeWindowRead acc d off size ecc) s = .next (emitOut s (.readData acc 2 0))) ∧
      (gone s d = false → isF s d STR_STS.READY = true →
        (modBuckets s d ≤ line → exec (.storeWindowRead acc d off size ecc) s = .next (emitOut s (.readData acc 0 ones))) ∧
        (line < modBuckets s d →
          (∀ x, snapOf s acc d true = some x → x.base = line → exec (.storeWindowRead acc d off size ecc) s =
            .next (emitOut s (.readData acc 0 (if x.flags = 1 then ones else cutLE (bytesBE 128 x.bucket.toNat) (off % 128) size)))) ∧
          (∀ u m b v, (∀ x, snapOf s acc d true = some x → x.base ≠ line) → (u, m) = readMem s d line ecc → b = forwardAll u d line m →
            v = (if b.bad then unreadable u d line STR_ERR.ECC_UNC else u) →
            ∃ x : Snap, x.acc = acc ∧ x.die = d ∧ x.base = line ∧ x.bucket = b.data ∧ exec (.storeWindowRead acc d off size ecc) s =
              .next (emitOut (putSnap v x) (.readData acc 0 (if b.bad then ones else cutLE (bytesBE 128 b.data.toNat) (off % 128) size))))))) ∧
    (∀ line u crc, line = winLine s d (off % 2 ^ 20) → u = drainLine s d line →
      gone s d = false → isF s d STR_STS.READY = true → line < modBuckets s d →
      (∀ data, off % 128 = 0 → exec (.storeWindowWrite128 ⟨d, crc⟩ off data) s =
        .next (invAny (memPut (rewritten u d line 15) d line ⟨data, 0⟩ crc) d line)) ∧
      (∀ data, off % 64 = 0 → exec (.storeWindowWrite64 ⟨d, crc⟩ off data) s =
        .next (invAny (memPut (rewritten u d line (halfSlots (off % 2 ^ 20 % 128))) d line
          (putHalf64 (off % 2 ^ 20 % 128) data.toNat (memRead u d line)) crc) d line))) ∧
    (∀ len word, ¬ (len = 128 ∧ off % 128 = 0) → ¬ (len = 64 ∧ off % 64 = 0) →
      exec (.storeWindowBadWrite d off len word) s = .next (swrReject s d 4 (it1 (word % 2 ^ 32)))) ∧
    (∀ a v, gone s d = false → a = off % 2 ^ 17 / 8 → (recipeFetch s d a).data? = some v →
      exec (.recipeWindowRead acc d off size) s =
        .next (emitOut s (.readData acc 0 (if size = 8 then v % 2 ^ 64 else v / 2 ^ (8 * (off % 8 / 4 * 4)) % 2 ^ 32)))) ∧
    (∀ val th, off < 0x30000 → size = 4 ∨ size = 8 → off % size = 0 → th = getT s d (off / 512) →
      (getF s d DBG_CTL.LEVEL ≠ 0 → th.st = .halted → exec (.sliceWindowWrite d off size val) s = .next (setT s d (off / 512)
        { th with slice := setBE th.slice (8 * (off % 512)) (8 * size) (ofBytesLE (bytesBE size val)) })) ∧
      (getF s d DBG_CTL.LEVEL = 0 ∨ th.st ≠ .halted → exec (.sliceWindowWrite d off size val) s =
        .next (raiseErr s d pgDbg DBG_ERR.SLICE_WR it0)))
end

