-- ==== Sys2Proof/Laws/Maps.lean ====
section
/-!
SUPPORT. The laws of sparse maps: a read after a write, what a write leaves alone, and that a write keeps the
canonical form.
-/

namespace Sys2Proof.Machine

variable {α : Type}

theorem mget_mdel_self (dflt : α) (m : SMap α) (k : Nat) : mget dflt (mdel m k) k = dflt := by
  induction m with
  | nil => rfl
  | cons p m ih =>
    obtain ⟨j, v⟩ := p
    by_cases h : j = k <;> simp [mdel, mget, h, ih]

theorem mget_mdel_ne (dflt : α) (m : SMap α) {k j : Nat} (h : j ≠ k) : mget dflt (mdel m k) j = mget dflt m j := by
  induction m with
  | nil => rfl
  | cons p m ih =>
    obtain ⟨i, v⟩ := p
    by_cases hi : i = k
    · subst hi; simp [mdel, mget, ih, Ne.symm h]
    · simp [mdel, mget, hi, ih]

theorem mget_mins_self (dflt : α) (m : SMap α) (k : Nat) (v : α) (h : mget dflt m k = dflt)
    (hk : ∀ p ∈ m, p.1 ≠ k) : mget dflt (mins m k v) k = v := by
  induction m with
  | nil => simp [mins, mget]
  | cons p m ih =>
    obtain ⟨j, w⟩ := p
    have hj : j ≠ k := hk (j, w) (by simp)
    by_cases hlt : k < j
    · simp [mins, mget, hlt]
    · simp only [mins, hlt, if_false, mget, hj]
      exact ih (by simpa [mget, hj] using h) fun p hp => hk p (by simp [hp])

theorem mget_mins_ne (dflt : α) (m : SMap α) {k j : Nat} (v : α) (h : j ≠ k) :
    mget dflt (mins m k v) j = mget dflt m j := by
  induction m with
  | nil => simp [mins, mget, Ne.symm h]
  | cons p m ih =>
    obtain ⟨i, w⟩ := p
    by_cases hlt : k < i
    · simp [mins, mget, hlt, Ne.symm h]
    · simp [mins, mget, hlt, ih]

theorem key_not_mem_mdel (m : SMap α) (k : Nat) : ∀ p ∈ mdel m k, p.1 ≠ k := by
  induction m with
  | nil => simp [mdel]
  | cons q m ih =>
    obtain ⟨j, w⟩ := q
    by_cases h : j = k
    · simpa [mdel, h] using ih
    · intro p hp
      simp only [mdel, h, if_false, List.mem_cons] at hp
      rcases hp with rfl | hp
      · exact h
      · exact ih p hp

/-- A read of the key just written gives the value written. -/
@[simp] theorem mget_mset_self [DecidableEq α] (dflt : α) (m : SMap α) (k : Nat) (v : α) :
    mget dflt (mset dflt m k v) k = v := by
  by_cases h : v = dflt
  · simp [mset, h, mget_mdel_self]
  · simp only [mset, h, if_false]
    exact mget_mins_self dflt _ k v (mget_mdel_self dflt m k) (key_not_mem_mdel m k)

/-- A write leaves every other key alone, whatever the default of the read. -/
theorem mget_mset_ne [DecidableEq α] (dflt d2 : α) (m : SMap α) {k j : Nat} (v : α) (h : j ≠ k) :
    mget d2 (mset dflt m k v) j = mget d2 m j := by
  by_cases hv : v = dflt
  · simp [mset, hv, mget_mdel_ne d2 m h]
  · simp [mset, hv, mget_mins_ne d2 _ v h, mget_mdel_ne d2 m h]

theorem mdel_mdel (m : SMap α) (k : Nat) : mdel (mdel m k) k = mdel m k := by
  induction m with
  | nil => rfl
  | cons p m ih =>
    obtain ⟨j, v⟩ := p
    by_cases h : j = k <;> simp [mdel, h, ih]

theorem mdel_mins (m : SMap α) (k : Nat) (v : α) : mdel (mins m k v) k = mdel m k := by
  induction m with
  | nil => simp [mins, mdel]
  | cons p m ih =>
    obtain ⟨j, w⟩ := p
    by_cases hlt : k < j
    · simp [mins, hlt, mdel]
    · by_cases h : j = k <;> simp [mins, hlt, mdel, h, ih]

/-- The second of two writes of one key is what stays. -/
@[simp] theorem mset_mset [DecidableEq α] (dflt : α) (m : SMap α) (k : Nat) (v w : α) :
    mset dflt (mset dflt m k v) k w = mset dflt m k w := by
  by_cases hv : v = dflt <;> by_cases hw : w = dflt <;> simp [mset, hv, hw, mdel_mdel, mdel_mins]

/-! ## The canonical form -/

theorem mabove_mdel {k j : Nat} (m : SMap α) (h : mabove j m = true) : mabove j (mdel m k) = true := by
  induction m with
  | nil => exact h
  | cons p m ih =>
    obtain ⟨i, v⟩ := p
    have h' : decide (j < i) = true ∧ mabove j m = true := by simpa only [mabove, List.all_cons, Bool.and_eq_true] using h
    by_cases hi : i = k
    · simpa [mdel, hi] using ih h'.2
    · simp only [mdel, hi, if_false, mabove, List.all_cons, Bool.and_eq_true]
      exact ⟨h'.1, ih h'.2⟩

theorem mwf_mdel [DecidableEq α] (dflt : α) (m : SMap α) (k : Nat) (h : mwf dflt m = true) :
    mwf dflt (mdel m k) = true := by
  induction m with
  | nil => exact h
  | cons p m ih =>
    obtain ⟨i, v⟩ := p
    simp only [mwf, Bool.and_eq_true] at h
    by_cases hi : i = k
    · simpa [mdel, hi] using ih h.2
    · simp only [mdel, hi, if_false, mwf, Bool.and_eq_true]
      exact ⟨⟨mabove_mdel m h.1.1, h.1.2⟩, ih h.2⟩

theorem mabove_mins {j k : Nat} (m : SMap α) (v : α) (h : mabove j m = true) (hk : j < k) :
    mabove j (mins m k v) = true := by
  induction m with
  | nil => simp [mins, mabove, hk]
  | cons p m ih =>
    obtain ⟨i, w⟩ := p
    have h' : decide (j < i) = true ∧ mabove j m = true := by simpa only [mabove, List.all_cons, Bool.and_eq_true] using h
    by_cases hlt : k < i
    · simp only [mins, hlt, if_true, mabove, List.all_cons, Bool.and_eq_true]
      exact ⟨by simpa using hk, h'.1, h'.2⟩
    · simp only [mins, hlt, if_false, mabove, List.all_cons, Bool.and_eq_true]
      exact ⟨h'.1, ih h'.2⟩

theorem mabove_trans {j k : Nat} (m : SMap α) (h : mabove k m = true) (hj : j < k) : mabove j m = true := by
  simp only [mabove, List.all_eq_true, decide_eq_true_eq] at h ⊢
  exact fun p hp => Nat.lt_trans hj (h p hp)

theorem mwf_mins [DecidableEq α] (dflt : α) (m : SMap α) (k : Nat) (v : α) (h : mwf dflt m = true)
    (hk : ∀ p ∈ m, p.1 ≠ k) (hv : v ≠ dflt) : mwf dflt (mins m k v) = true := by
  induction m with
  | nil => simp [mins, mwf, mabove, hv]
  | cons p m ih =>
    obtain ⟨i, w⟩ := p
    have hi : i ≠ k := hk (i, w) (by simp)
    have h' := h
    simp only [mwf, Bool.and_eq_true] at h
    by_cases hlt : k < i
    · have ha : mabove k m = true := mabove_trans m h.1.1 hlt
      have ha2 : mabove k ((i, w) :: m) = true := by
        simp only [mabove, List.all_cons, Bool.and_eq_true, decide_eq_true_eq]
        exact ⟨hlt, by simpa [mabove] using ha⟩
      simp only [mins, hlt, if_true]
      rw [mwf, ha2, h']
      simp [hv]
    · have hik : i < k := by omega
      simp only [mins, hlt, if_false, mwf, Bool.and_eq_true]
      exact ⟨⟨mabove_mins m v h.1.1 hik, h.1.2⟩, ih h.2 fun p hp => hk p (by simp [hp])⟩

/-- A write keeps the canonical form. -/
theorem mwf_mset [DecidableEq α] (dflt : α) (m : SMap α) (k : Nat) (v : α) (h : mwf dflt m = true) :
    mwf dflt (mset dflt m k v) = true := by
  by_cases hv : v = dflt
  · simpa [mset, hv] using mwf_mdel dflt m k h
  · simp only [mset, hv, if_false]
    exact mwf_mins dflt _ k v (mwf_mdel dflt m k h) (key_not_mem_mdel m k) hv

/-- A change of one key keeps the canonical form. -/
theorem mwf_mmod [DecidableEq α] (dflt : α) (m : SMap α) (k : Nat) (f : α → α) (h : mwf dflt m = true) :
    mwf dflt (mmod dflt m k f) = true := mwf_mset dflt m k _ h

/-- A filter keeps keys above a bound. -/
theorem mabove_filter {α : Type} (j : Nat) (p : Nat × α → Bool) (m : SMap α) (h : mabove j m = true) : mabove j (m.filter p) = true := by
  unfold mabove at *
  rw [List.all_eq_true] at *
  exact fun x hx => h x (List.mem_filter.mp hx).1

/-- A filter keeps the canonical form. -/
theorem mwf_filter {α : Type} [DecidableEq α] (d : α) (p : Nat × α → Bool) (m : SMap α) (h : mwf d m = true) : mwf d (m.filter p) = true := by
  induction m with
  | nil => rfl
  | cons q m ih =>
    simp only [mwf, Bool.and_eq_true] at h
    rw [List.filter_cons]
    split
    · simp only [mwf, Bool.and_eq_true]
      exact ⟨⟨mabove_filter _ _ _ h.1.1, h.1.2⟩, ih h.2⟩
    · exact ih h.2

/-- A fold of operations that keep the canonical form keeps it. -/
theorem mwf_foldl {α β : Type} [DecidableEq α] (d : α) (f : SMap α → β → SMap α) (hf : ∀ m b, mwf d m = true → mwf d (f m b) = true) (l : List β) (m : SMap α)
    (h : mwf d m = true) : mwf d (l.foldl f m) = true := by
  induction l generalizing m with
  | nil => exact h
  | cons b l ih => exact ih _ (hf m b h)

/-- The empty map is in canonical form. -/
theorem mwf_nil {α : Type} [DecidableEq α] (d : α) : mwf d ([] : SMap α) = true := rfl

end Sys2Proof.Machine
end

