-- ==== Sys2Proof/Laws/Regs.lean ====
section
/-!
SUPPORT. The laws of register fields: a read after a write of the same field, and that a write leaves every other
field, bank and die alone.
-/

namespace Sys2Proof.Machine

/-- Two field names with their banks are different places of a page map, on any dies. -/
def fne (f : Fld) (b : Nat) (g : Fld) (c : Nat) : Bool :=
  decide (f.off < 4096 ∧ g.off < 4096 ∧ f.lo < 32 ∧ g.lo < 32) &&
  (decide (f.off ≠ g.off) || decide (f.lo ≠ g.lo) ||
    (decide (b < 65536 ∧ c < 65536) && (decide (b ≠ c) || decide (f.page < 64 ∧ g.page < 64 ∧ f.page ≠ g.page))))

theorem rkey_ne_of_fne {d e : Nat} {f g : Fld} {b c : Nat} (h : fne f b g c = true) : rkey d f b ≠ rkey e g c := by
  simp only [fne, Bool.and_eq_true, Bool.or_eq_true, decide_eq_true_eq] at h
  simp only [rkey]
  omega

/-- Fields of different words are different places. -/
theorem fne_of_off {f g : Fld} {b c : Nat} (hf : f.off < 4096 ∧ f.lo < 32) (hg : g.off < 4096 ∧ g.lo < 32)
    (h : f.off ≠ g.off) : fne f b g c = true := by
  simp [fne, hf.1, hf.2, hg.1, hg.2, h]

/-- Fields that begin at different bits are different places. -/
theorem fne_of_lo {f g : Fld} {b c : Nat} (hf : f.off < 4096 ∧ f.lo < 32) (hg : g.off < 4096 ∧ g.lo < 32)
    (h : f.lo ≠ g.lo) : fne f b g c = true := by
  simp [fne, hf.1, hf.2, hg.1, hg.2, h]

/-- The field, with its bank, stands inside its page. -/
def finside (f : Fld) (b : Nat) : Bool := decide (f.page < 64 ∧ b < 65536 ∧ f.off < 4096 ∧ f.lo < 32)

theorem rkey_ne_of_die {d e : Nat} {f g : Fld} {b c : Nat} (hd : d ≠ e) (hf : finside f b = true)
    (hg : finside g c = true) : rkey d f b ≠ rkey e g c := by
  simp only [finside, decide_eq_true_eq] at hf hg
  simp only [rkey]
  omega

/-- A field just written reads as the value cut to its width. -/
@[simp] theorem getF_setF_self (s : State) (d : Nat) (f : Fld) (v b : Nat) :
    getF (setF s d f v b) d f b = v % 2 ^ f.width := by
  simp [getF, setF]

/-- Another place reads as before. -/
theorem getF_setF_of_key (s : State) {d e : Nat} {f g : Fld} (v : Nat) {b c : Nat} (h : rkey e g c ≠ rkey d f b) :
    getF (setF s d f v b) e g c = getF s e g c := by
  simp only [getF, setF]
  exact mget_mset_ne _ _ _ _ h

/-- Another field reads as before, on every die. -/
theorem getF_setF_ne (s : State) (d e : Nat) (f g : Fld) (v b c : Nat) (h : fne g c f b = true) :
    getF (setF s d f v b) e g c = getF s e g c :=
  getF_setF_of_key s v (rkey_ne_of_fne h)

/-- Another die's fields read as before. -/
theorem getF_setF_die (s : State) {d e : Nat} (f g : Fld) (v b c : Nat) (hd : e ≠ d) (hg : finside g c = true)
    (hf : finside f b = true) : getF (setF s d f v b) e g c = getF s e g c :=
  getF_setF_of_key s v (rkey_ne_of_die hd hg hf)

/-- The registers a state shows depend on its register map alone. -/
theorem getF_of_regs {s t : State} (h : t.regs = s.regs) (d : Nat) (f : Fld) (b : Nat) : getF t d f b = getF s d f b := by
  simp [getF, h]

/-- A register write keeps the register map canonical only up to each field's own reset value: the written entry is gone
exactly when it holds the reset value. -/
theorem setF_reset (s : State) (d : Nat) (f : Fld) (b : Nat) (h : f.rst < 2 ^ f.width) :
    (setF s d f f.rst b).regs = mdel s.regs (rkey d f b) := by
  simp [setF, mset, Nat.mod_eq_of_lt h]

end Sys2Proof.Machine
end

