-- ==== Sys2Proof/Laws/Frames.lean ====
section
/-!
SUPPORT. The laws of the frames that claims use: register-only changes and what raising an error can do.
-/

namespace Sys2Proof.Machine

/-! ## Register-only changes -/

theorem OnlyRegs.refl (ks : List Nat) (s : State) : OnlyRegs ks s s := ⟨rfl, fun _ _ _ _ => rfl⟩

theorem OnlyRegs.trans {k l : List Nat} {s t u : State} (h : OnlyRegs k s t) (g : OnlyRegs l t u) :
    OnlyRegs (k ++ l) s u := by
  constructor
  · have h1 := h.rest
    have g1 := g.rest
    rw [h1] at g1
    exact g1
  · intro d f c hk
    rw [g.regs d f c (fun h => hk (by simp [h])), h.regs d f c (fun h => hk (by simp [h]))]

theorem OnlyRegs.mono {k l : List Nat} {s t : State} (h : OnlyRegs k s t) (hkl : ∀ x ∈ k, x ∈ l) : OnlyRegs l s t :=
  ⟨h.rest, fun d g c hn => h.regs d g c fun hm => hn (hkl _ hm)⟩

/-- One write changes one field. -/
theorem onlyRegs_setF (s : State) (d : Nat) (f : Fld) (v b : Nat) : OnlyRegs [rkey d f b] s (setF s d f v b) :=
  ⟨rfl, fun _ _ _ hk => getF_setF_of_key s v (by simpa using hk)⟩

/-- A further write adds its field to the list. -/
theorem OnlyRegs.set {ks : List Nat} {s t : State} (h : OnlyRegs ks s t) (d : Nat) (f : Fld) (v b : Nat)
    (hk : rkey d f b ∈ ks) : OnlyRegs ks s (setF t d f v b) := by
  refine (h.trans (onlyRegs_setF t d f v b)).mono ?_
  intro x hx
  simp only [List.mem_append, List.mem_singleton] at hx
  rcases hx with hx | rfl
  · exact hx
  · exact hk

/-! ## Raising an error -/

theorem ErrOnly.refl (s : State) : ErrOnly s s := ⟨rfl, fun _ _ _ _ => rfl, fun _ _ _ _ h => h, List.prefix_refl _⟩

theorem ErrOnly.trans {s t u : State} (h : ErrOnly s t) (g : ErrOnly t u) : ErrOnly s u := by
  constructor
  · have h1 := h.rest
    have g1 := g.rest
    rw [h1] at g1
    exact g1
  · intro d f c hf
    rw [g.regs d f c hf, h.regs d f c hf]
  · exact fun d pg bit hb hs => g.sticky d pg bit hb (h.sticky d pg bit hb hs)
  · exact h.out.trans g.out

/-- A write of an error register outside the sticky bits. -/
theorem errOnly_setF (s : State) (d : Nat) (f : Fld) (v : Nat) (hoff : 0x14 < f.off ∧ f.off < 0x38 ∧ f.lo < 32) :
    ErrOnly s (setF s d f v) := by
  refine ⟨rfl, fun e g c hg => getF_setF_of_key s v ?_, fun e pg bit _ hs => ?_, List.prefix_refl _⟩
  · simp only [errFree, Bool.and_eq_true, decide_eq_true_eq] at hg
    simp only [rkey]
    omega
  · rwa [getF_setF_of_key s v]
    simp only [rkey, ERR_STICKY.BITS]
    omega

/-- A write of a register of the fault-notice queue. -/
theorem errOnly_setF_fltq (s : State) (d : Nat) (f : Fld) (v : Nat)
    (h : f.page = 4 ∧ 0x9c ≤ f.off ∧ f.off < 0xb0 ∧ f.lo < 32) : ErrOnly s (setF s d f v) := by
  refine ⟨rfl, fun e g c hg => getF_setF_of_key s v ?_, fun e pg bit _ hs => ?_, List.prefix_refl _⟩
  · simp only [errFree, pgThr, Bool.and_eq_true, decide_eq_true_eq, Bool.not_eq_true', Bool.and_eq_false_iff,
      beq_eq_false_iff_ne, decide_eq_false_iff_not] at hg
    simp only [rkey]
    omega
  · rwa [getF_setF_of_key s v]
    simp only [rkey, ERR_STICKY.BITS]
    omega

theorem errOnly_setSticky (s : State) (d pg bit : Nat) : ErrOnly s (setSticky s d pg bit) := by
  refine ⟨rfl, fun e g c hg => getF_setF_of_key s _ ?_, fun e p k hk hs => ?_, List.prefix_refl _⟩
  · simp only [errFree, Bool.and_eq_true, decide_eq_true_eq] at hg
    simp only [rkey, ERR_STICKY.BITS]
    omega
  · have hf : ∀ (t : State) e p, getF t e (ERR_STICKY.BITS p) = mget 0 t.regs (rkey e (ERR_STICKY.BITS p) 0) :=
      fun _ _ _ => rfl
    by_cases h : rkey e (ERR_STICKY.BITS p) 0 = rkey d (ERR_STICKY.BITS pg) 0
    · rw [hf, h, ← hf] at hs ⊢
      rw [setSticky, getF_setF_self, Nat.testBit_mod_two_pow]
      rw [Nat.testBit_lor, hs]
      rw [Bool.true_or, Bool.and_true]
      exact decide_eq_true hk
    · rwa [setSticky, getF_setF_of_key s _ h]

theorem errOnly_of_rest {s t : State} (hr : t.regs = s.regs) (ho : s.out <+: t.out)
    (h : t = { s with regs := t.regs, fltq := t.fltq, escal := t.escal, mgmt := t.mgmt, ringQ := t.ringQ, out := t.out, msixPend := t.msixPend, lostDies := t.lostDies }) : ErrOnly s t :=
  ⟨h, fun d g c _ => getF_of_regs hr d g c, fun d pg bit _ hs => by rwa [getF_of_regs hr], ho⟩

theorem errOnly_sendMsix (s : State) (v : Nat) : ErrOnly s (sendMsix s v) := by
  unfold sendMsix
  split
  · exact errOnly_of_rest rfl (List.prefix_refl _) rfl
  · exact errOnly_of_rest rfl (List.prefix_append _ _) rfl

/-- The cells of a management message are queued in the order of their index, and nothing else changes. -/
theorem queueMgmt_eq (s : State) (src dest mtype key n body : Nat) (named : Bool) :
    queueMgmt s src dest mtype key n body named = { s with ringQ := s.ringQ ++ (List.range n).map fun i =>
      { src := src, cls := 5, id := if named && i + 1 == n then mgmtId mtype key else 0
        payload := mgmtCell mtype dest i (n - 1) key (body / 2 ^ (295 * (n - 1 - i))) } } := by
  unfold queueMgmt
  generalize List.range n = l
  suffices h : ∀ u : State, l.foldl (fun s i =>
      queueCell s src 5 (if named && i + 1 == n then mgmtId mtype key else 0)
        (mgmtCell mtype dest i (n - 1) key (body / 2 ^ (295 * (n - 1 - i))))) u =
      { u with ringQ := u.ringQ ++ l.map fun i =>
        { src := src, cls := 5, id := if named && i + 1 == n then mgmtId mtype key else 0
          payload := mgmtCell mtype dest i (n - 1) key (body / 2 ^ (295 * (n - 1 - i))) } } from h s
  induction l with
  | nil => intro u; simp
  | cons i l ih => intro u; rw [List.foldl_cons, ih]; simp [queueCell]

theorem errOnly_queueMgmt (s : State) (src dest mtype key n body : Nat) (named : Bool) :
    ErrOnly s (queueMgmt s src dest mtype key n body named) := by
  rw [queueMgmt_eq]
  exact errOnly_of_rest rfl (List.prefix_refl _) rfl

theorem errOnly_hostReport (s : State) (d pg bit cls : Nat) : ErrOnly s (hostReport s d pg bit cls) := by
  unfold hostReport
  split
  · exact errOnly_sendMsix _ _
  · exact (errOnly_queueMgmt _ _ _ _ _ _ _ _).trans (errOnly_of_rest rfl (List.prefix_refl _) rfl)

theorem errOnly_bumpSat (s : State) (d : Nat) (f : Fld) (n : Nat) (h : 0x14 < f.off ∧ f.off < 0x38 ∧ f.lo < 32) :
    ErrOnly s (bumpSat s d f n) := errOnly_setF s d f _ h

theorem errOnly_putFirst (s : State) (d pg cls bit : Nat) (i : ErrItem) (stamp : Nat) :
    ErrOnly s (putFirst s d pg cls bit i stamp) := by
  unfold putFirst
  iterate 6 refine .trans ?_ (errOnly_setF _ _ _ _ (by simp [ERR_FIRST0.CLASS, ERR_FIRST0.BIT, ERR_FIRST0.ID, ERR_FIRST1.STAMP, ERR_FIRST2.DATA, ERR_FIRST3.DATA]))
  exact errOnly_setF _ _ _ _ (by simp [ERR_FIRST0.VALID])

theorem errOnly_putSecond (s : State) (d pg cls bit esc : Nat) : ErrOnly s (putSecond s d pg cls bit esc) := by
  unfold putSecond
  iterate 4 refine .trans ?_ (errOnly_setF _ _ _ _ (by simp [ERR_SECOND.CLASS, ERR_SECOND.BIT, ERR_SECOND.ESC, ERR_SECOND.STAMP]))
  exact errOnly_setF _ _ _ _ (by simp [ERR_SECOND.VALID])

theorem errOnly_dropMarks (s : State) (d pg : Nat) (second : Bool) : ErrOnly s (dropMarks s d pg second) :=
  errOnly_of_rest rfl (List.prefix_refl _) rfl

theorem errOnly_setMark (s : State) (d m : Nat) : ErrOnly s (setMark s d m) := by
  unfold setMark
  split
  · exact .refl s
  · exact errOnly_of_rest rfl (List.prefix_refl _) rfl

theorem errOnly_hostRecord (s : State) (d pg bit k : Nat) (second : Bool) : ErrOnly s (hostRecord s d pg bit k second) :=
  (errOnly_setMark _ _ _).trans (errOnly_hostReport _ _ _ _ _)

theorem errOnly_unreported (s u : State) (d pg bit k : Nat) : ErrOnly u (unreported s u d pg bit k) := by
  unfold unreported
  split
  · exact .refl u
  · split
    · exact errOnly_hostRecord _ _ _ _ _ _
    · exact errOnly_hostReport _ _ _ _ _

theorem errOnly_recordErr (s : State) (d pg bit : Nat) (i : ErrItem) : ErrOnly s (recordErr s d pg bit i).1 := by
  unfold recordErr
  dsimp only
  split
  · exact (errOnly_dropMarks _ _ _ _).trans (errOnly_putFirst _ _ _ _ _ _ _)
  · split
    · exact (errOnly_dropMarks _ _ _ _).trans (errOnly_putSecond _ _ _ _ _ _)
    · split
      · exact ((errOnly_dropMarks _ _ _ _).trans (errOnly_putSecond _ _ _ _ _ _)).trans (errOnly_bumpSat _ _ _ _ (by simp [ERR_NEXT_CNT.COUNT]))
      · exact errOnly_bumpSat _ _ _ _ (by simp [ERR_NEXT_CNT.COUNT])

theorem errOnly_raiseHost (s : State) (d pg bit : Nat) (i : ErrItem) : ErrOnly s (raiseHost s d pg bit i) := by
  unfold raiseHost
  dsimp only
  split
  · exact errOnly_setSticky _ _ _ _
  · generalize hp : recordErr (setSticky s d pg bit) d pg bit i = r
    have h1 : ErrOnly s r.1 := hp ▸ (errOnly_setSticky s d pg bit).trans (errOnly_recordErr _ _ _ _ _)
    obtain ⟨u, o⟩ := r
    cases o with
    | none => exact h1.trans (errOnly_unreported _ _ _ _ _ _)
    | some e => exact h1.trans ((errOnly_hostRecord _ _ _ _ _ _).trans (errOnly_setMark _ _ _))

theorem errOnly_postNotice (s : State) (d w0 w1 w2 w3 : Nat) : ErrOnly s (postNotice s d w0 w1 w2 w3).1 := by
  have h4 : ErrOnly s (setF (setF (setF (setF s d (THR_FLTQ_LAST.WORD 0) w0) d (THR_FLTQ_LAST.WORD 1) w1) d
      (THR_FLTQ_LAST.WORD 2) w2) d (THR_FLTQ_LAST.WORD 3) w3) := by
    iterate 3 refine .trans ?_ (errOnly_setF_fltq _ _ _ _ (by simp [THR_FLTQ_LAST.WORD]))
    exact errOnly_setF_fltq _ _ _ _ (by simp [THR_FLTQ_LAST.WORD])
  unfold postNotice
  dsimp only
  split
  · exact h4.trans (errOnly_of_rest rfl (List.prefix_refl _) rfl)
  · exact h4.trans (.trans (errOnly_setF_fltq _ _ _ _ (by simp [THR_FLTQ_STS.DROPS])) (errOnly_raiseHost _ _ _ _ _))

theorem errOnly_report (s : State) (d pg bit k : Nat) (esc : Bool) (data : Nat) :
    ErrOnly s (report s d pg bit k esc data) := by
  unfold report
  split
  · exact errOnly_hostRecord _ _ _ _ _ _
  · dsimp only
    generalize hp : postNotice s d _ _ _ _ = r
    have h1 : ErrOnly s r.1 := hp ▸ errOnly_postNotice s d _ _ _ _
    obtain ⟨u, ok⟩ := r
    cases ok with
    | true =>
      simp only [if_true]
      split
      · exact h1.trans (errOnly_hostRecord _ _ _ _ _ _)
      · exact h1
    | false =>
      have h2 := h1.trans (((errOnly_hostRecord u d pg bit k esc).trans (errOnly_setMark _ d (128 + slotMark pg esc))).trans
        (errOnly_raiseHost _ d pgFlt FLT_ERR.SUP_ESC (it2 pg bit)))
      simp only [Bool.false_eq_true, if_false]
      split
      · exact h2.trans (errOnly_hostRecord _ _ _ _ _ _)
      · exact h2

theorem errOnly_loseDie (s : State) (d : Nat) : ErrOnly s (loseDie s d) := errOnly_of_rest rfl (List.prefix_refl _) rfl

/-- Everything raising an error can do. -/
theorem errOnly_raiseErr (s : State) (d pg bit : Nat) (i : ErrItem) : ErrOnly s (raiseErr s d pg bit i) := by
  unfold raiseErr
  split
  · dsimp only
    split
    · exact errOnly_setSticky _ _ _ _
    · generalize hp : recordErr (setSticky s d pg bit) d pg bit i = r
      have h1 : ErrOnly s r.1 := hp ▸ (errOnly_setSticky s d pg bit).trans (errOnly_recordErr _ _ _ _ _)
      obtain ⟨u, o⟩ := r
      cases o with
      | none =>
        have h2 := h1.trans (errOnly_unreported (setSticky s d pg bit) u d pg bit (errClass (setSticky s d pg bit) d pg bit))
        dsimp only
        split
        · exact h2.trans (errOnly_loseDie _ _)
        · exact h2
      | some e =>
        have h2 := h1.trans (errOnly_report u d pg bit (errClass (setSticky s d pg bit) d pg bit) e
          (if e then 0 else i.data))
        dsimp only
        split
        · exact h2.trans (errOnly_loseDie _ _)
        · exact h2
  · exact .refl s

/-- An error of a page that the die has leaves its sticky bit set. -/
theorem raiseErr_sticky (s : State) (d pg bit : Nat) (i : ErrItem) (hp : present s d pg = true) (hb : bit < 32) :
    stickySet (raiseErr s d pg bit i) d pg bit := by
  have h0 : stickySet (setSticky s d pg bit) d pg bit := by
    rw [stickySet, setSticky, getF_setF_self, Nat.testBit_mod_two_pow]
    rw [Nat.testBit_lor, Nat.testBit_two_pow_self, Bool.or_true, Bool.and_true]
    exact decide_eq_true hb
  unfold raiseErr
  simp only [hp, if_true]
  split
  · exact h0
  · generalize hq : recordErr (setSticky s d pg bit) d pg bit i = r
    have h1 : ErrOnly (setSticky s d pg bit) r.1 := hq ▸ errOnly_recordErr _ _ _ _ _
    obtain ⟨u, o⟩ := r
    cases o with
    | none =>
      dsimp only
      have h2 := h1.trans (errOnly_unreported (setSticky s d pg bit) u d pg bit (errClass (setSticky s d pg bit) d pg bit))
      split
      · exact (h2.trans (errOnly_loseDie _ _)).sticky d pg bit hb h0
      · exact h2.sticky d pg bit hb h0
    | some e =>
      have h2 := h1.trans (errOnly_report u d pg bit (errClass (setSticky s d pg bit) d pg bit) e
        (if e then 0 else i.data))
      dsimp only
      split
      · exact (h2.trans (errOnly_loseDie _ _)).sticky d pg bit hb h0
      · exact h2.sticky d pg bit hb h0

/-- An error of a page that the die lacks changes nothing. -/
theorem raiseErr_absent (s : State) (d pg bit : Nat) (i : ErrItem) (hp : present s d pg = false) :
    raiseErr s d pg bit i = s := by simp [raiseErr, hp]

/-! ## Taking a cell from the ring -/

/-- Taking a cell from the ring changes the cells in flight, the cells dropped, and what counting and raising an ECC error change. -/
theorem takeCell_rest (s : State) (d src cls id flit : Nat) :
    (takeCell s d src cls id flit).1 = { s with
      ringAir := (takeCell s d src cls id flit).1.ringAir, dropped := (takeCell s d src cls id flit).1.dropped
      regs := (takeCell s d src cls id flit).1.regs, fltq := (takeCell s d src cls id flit).1.fltq
      escal := (takeCell s d src cls id flit).1.escal, mgmt := (takeCell s d src cls id flit).1.mgmt
      ringQ := (takeCell s d src cls id flit).1.ringQ, out := (takeCell s d src cls id flit).1.out
      msixPend := (takeCell s d src cls id flit).1.msixPend, lostDies := (takeCell s d src cls id flit).1.lostDies } := by
  have hf : ∀ (u : State), flitSeen u d cls flit = { u with
      regs := (flitSeen u d cls flit).regs, fltq := (flitSeen u d cls flit).fltq, escal := (flitSeen u d cls flit).escal
      mgmt := (flitSeen u d cls flit).mgmt, ringQ := (flitSeen u d cls flit).ringQ, out := (flitSeen u d cls flit).out
      msixPend := (flitSeen u d cls flit).msixPend, lostDies := (flitSeen u d cls flit).lostDies } := by
    intro u
    unfold flitSeen
    split
    · rfl
    · split
      · exact (errOnly_raiseErr ..).rest
      · exact (errOnly_raiseErr ..).rest
  unfold takeCell
  dsimp only
  split
  · rfl
  · split
    · dsimp only; rw [hf]
    · dsimp only; rw [hf]

end Sys2Proof.Machine
end

