-- ==== Sys2Proof/Laws/State.lean ====
section
/-!
SUPPORT. What each shared update leaves alone, field by field.
-/

namespace Sys2Proof.Machine

/-! ## setF -/

@[simp] theorem setF_pending (s : State) (d : Nat) (f : Fld) (v b : Nat) : (setF s d f v b).pending = s.pending := rfl
@[simp] theorem setF_part (s : State) (d : Nat) (f : Fld) (v b : Nat) : (setF s d f v b).part = s.part := rfl
@[simp] theorem setF_cyc (s : State) (d : Nat) (f : Fld) (v b : Nat) : (setF s d f v b).cyc = s.cyc := rfl
@[simp] theorem setF_free (s : State) (d : Nat) (f : Fld) (v b : Nat) : (setF s d f v b).free = s.free := rfl
@[simp] theorem setF_nextId (s : State) (d : Nat) (f : Fld) (v b : Nat) : (setF s d f v b).nextId = s.nextId := rfl
@[simp] theorem setF_rows (s : State) (d : Nat) (f : Fld) (v b : Nat) : (setF s d f v b).rows = s.rows := rfl
@[simp] theorem setF_susq (s : State) (d : Nat) (f : Fld) (v b : Nat) : (setF s d f v b).susq = s.susq := rfl
@[simp] theorem setF_selCnt (s : State) (d : Nat) (f : Fld) (v b : Nat) : (setF s d f v b).selCnt = s.selCnt := rfl
@[simp] theorem setF_blank (s : State) (d : Nat) (f : Fld) (v b : Nat) : (setF s d f v b).blank = s.blank := rfl
@[simp] theorem setF_searches (s : State) (d : Nat) (f : Fld) (v b : Nat) : (setF s d f v b).searches = s.searches := rfl
@[simp] theorem setF_pairChecks (s : State) (d : Nat) (f : Fld) (v b : Nat) : (setF s d f v b).pairChecks = s.pairChecks := rfl
@[simp] theorem setF_missed (s : State) (d : Nat) (f : Fld) (v b : Nat) : (setF s d f v b).missed = s.missed := rfl
@[simp] theorem setF_snaps (s : State) (d : Nat) (f : Fld) (v b : Nat) : (setF s d f v b).snaps = s.snaps := rfl
@[simp] theorem setF_latches (s : State) (d : Nat) (f : Fld) (v b : Nat) : (setF s d f v b).latches = s.latches := rfl
@[simp] theorem setF_recipe (s : State) (d : Nat) (f : Fld) (v b : Nat) : (setF s d f v b).recipe = s.recipe := rfl
@[simp] theorem setF_stepEnts (s : State) (d : Nat) (f : Fld) (v b : Nat) : (setF s d f v b).stepEnts = s.stepEnts := rfl
@[simp] theorem setF_plans (s : State) (d : Nat) (f : Fld) (v b : Nat) : (setF s d f v b).plans = s.plans := rfl
@[simp] theorem setF_threads (s : State) (d : Nat) (f : Fld) (v b : Nat) : (setF s d f v b).threads = s.threads := rfl
@[simp] theorem setF_evch (s : State) (d : Nat) (f : Fld) (v b : Nat) : (setF s d f v b).evch = s.evch := rfl
@[simp] theorem setF_fltq (s : State) (d : Nat) (f : Fld) (v b : Nat) : (setF s d f v b).fltq = s.fltq := rfl
@[simp] theorem setF_forkWait (s : State) (d : Nat) (f : Fld) (v b : Nat) : (setF s d f v b).forkWait = s.forkWait := rfl
@[simp] theorem setF_quiesce (s : State) (d : Nat) (f : Fld) (v b : Nat) : (setF s d f v b).quiesce = s.quiesce := rfl
@[simp] theorem setF_reqs (s : State) (d : Nat) (f : Fld) (v b : Nat) : (setF s d f v b).reqs = s.reqs := rfl
@[simp] theorem setF_books (s : State) (d : Nat) (f : Fld) (v b : Nat) : (setF s d f v b).books = s.books := rfl
@[simp] theorem setF_egress (s : State) (d : Nat) (f : Fld) (v b : Nat) : (setF s d f v b).egress = s.egress := rfl
@[simp] theorem setF_leaving (s : State) (d : Nat) (f : Fld) (v b : Nat) : (setF s d f v b).leaving = s.leaving := rfl
@[simp] theorem setF_lastRel (s : State) (d : Nat) (f : Fld) (v b : Nat) : (setF s d f v b).lastRel = s.lastRel := rfl
@[simp] theorem setF_diagFails (s : State) (d : Nat) (f : Fld) (v b : Nat) : (setF s d f v b).diagFails = s.diagFails := rfl
@[simp] theorem setF_issues (s : State) (d : Nat) (f : Fld) (v b : Nat) : (setF s d f v b).issues = s.issues := rfl
@[simp] theorem setF_express (s : State) (d : Nat) (f : Fld) (v b : Nat) : (setF s d f v b).express = s.express := rfl
@[simp] theorem setF_grants (s : State) (d : Nat) (f : Fld) (v b : Nat) : (setF s d f v b).grants = s.grants := rfl
@[simp] theorem setF_spans (s : State) (d : Nat) (f : Fld) (v b : Nat) : (setF s d f v b).spans = s.spans := rfl
@[simp] theorem setF_locks (s : State) (d : Nat) (f : Fld) (v b : Nat) : (setF s d f v b).locks = s.locks := rfl
@[simp] theorem setF_slots (s : State) (d : Nat) (f : Fld) (v b : Nat) : (setF s d f v b).slots = s.slots := rfl
@[simp] theorem setF_arbAge (s : State) (d : Nat) (f : Fld) (v b : Nat) : (setF s d f v b).arbAge = s.arbAge := rfl
@[simp] theorem setF_arbGrants (s : State) (d : Nat) (f : Fld) (v b : Nat) : (setF s d f v b).arbGrants = s.arbGrants := rfl
@[simp] theorem setF_arbWait (s : State) (d : Nat) (f : Fld) (v b : Nat) : (setF s d f v b).arbWait = s.arbWait := rfl
@[simp] theorem setF_cmds (s : State) (d : Nat) (f : Fld) (v b : Nat) : (setF s d f v b).cmds = s.cmds := rfl
@[simp] theorem setF_accepted (s : State) (d : Nat) (f : Fld) (v b : Nat) : (setF s d f v b).accepted = s.accepted := rfl
@[simp] theorem setF_updTurn (s : State) (d : Nat) (f : Fld) (v b : Nat) : (setF s d f v b).updTurn = s.updTurn := rfl
@[simp] theorem setF_scrubAt (s : State) (d : Nat) (f : Fld) (v b : Nat) : (setF s d f v b).scrubAt = s.scrubAt := rfl
@[simp] theorem setF_settled (s : State) (d : Nat) (f : Fld) (v b : Nat) : (setF s d f v b).settled = s.settled := rfl
@[simp] theorem setF_lanes (s : State) (d : Nat) (f : Fld) (v b : Nat) : (setF s d f v b).lanes = s.lanes := rfl
@[simp] theorem setF_starts (s : State) (d : Nat) (f : Fld) (v b : Nat) : (setF s d f v b).starts = s.starts := rfl
@[simp] theorem setF_guards (s : State) (d : Nat) (f : Fld) (v b : Nat) : (setF s d f v b).guards = s.guards := rfl
@[simp] theorem setF_twrites (s : State) (d : Nat) (f : Fld) (v b : Nat) : (setF s d f v b).twrites = s.twrites := rfl
@[simp] theorem setF_flips (s : State) (d : Nat) (f : Fld) (v b : Nat) : (setF s d f v b).flips = s.flips := rfl
@[simp] theorem setF_store (s : State) (d : Nat) (f : Fld) (v b : Nat) : (setF s d f v b).store = s.store := rfl
@[simp] theorem setF_storeEpoch (s : State) (d : Nat) (f : Fld) (v b : Nat) : (setF s d f v b).storeEpoch = s.storeEpoch := rfl
@[simp] theorem setF_cache (s : State) (d : Nat) (f : Fld) (v b : Nat) : (setF s d f v b).cache = s.cache := rfl
@[simp] theorem setF_fills (s : State) (d : Nat) (f : Fld) (v b : Nat) : (setF s d f v b).fills = s.fills := rfl
@[simp] theorem setF_bankBusy (s : State) (d : Nat) (f : Fld) (v b : Nat) : (setF s d f v b).bankBusy = s.bankBusy := rfl
@[simp] theorem setF_ports (s : State) (d : Nat) (f : Fld) (v b : Nat) : (setF s d f v b).ports = s.ports := rfl
@[simp] theorem setF_swAt (s : State) (d : Nat) (f : Fld) (v b : Nat) : (setF s d f v b).swAt = s.swAt := rfl
@[simp] theorem setF_rgnBad (s : State) (d : Nat) (f : Fld) (v b : Nat) : (setF s d f v b).rgnBad = s.rgnBad := rfl
@[simp] theorem setF_patrolAt (s : State) (d : Nat) (f : Fld) (v b : Nat) : (setF s d f v b).patrolAt = s.patrolAt := rfl
@[simp] theorem setF_mbuf (s : State) (d : Nat) (f : Fld) (v b : Nat) : (setF s d f v b).mbuf = s.mbuf := rfl
@[simp] theorem setF_steps (s : State) (d : Nat) (f : Fld) (v b : Nat) : (setF s d f v b).steps = s.steps := rfl
@[simp] theorem setF_swq (s : State) (d : Nat) (f : Fld) (v b : Nat) : (setF s d f v b).swq = s.swq := rfl
@[simp] theorem setF_walks (s : State) (d : Nat) (f : Fld) (v b : Nat) : (setF s d f v b).walks = s.walks := rfl
@[simp] theorem setF_wayErrAt (s : State) (d : Nat) (f : Fld) (v b : Nat) : (setF s d f v b).wayErrAt = s.wayErrAt := rfl
@[simp] theorem setF_promos (s : State) (d : Nat) (f : Fld) (v b : Nat) : (setF s d f v b).promos = s.promos := rfl
@[simp] theorem setF_fetches (s : State) (d : Nat) (f : Fld) (v b : Nat) : (setF s d f v b).fetches = s.fetches := rfl
@[simp] theorem setF_notices (s : State) (d : Nat) (f : Fld) (v b : Nat) : (setF s d f v b).notices = s.notices := rfl
@[simp] theorem setF_nseq (s : State) (d : Nat) (f : Fld) (v b : Nat) : (setF s d f v b).nseq = s.nseq := rfl
@[simp] theorem setF_kek (s : State) (d : Nat) (f : Fld) (v b : Nat) : (setF s d f v b).kek = s.kek := rfl
@[simp] theorem setF_keys (s : State) (d : Nat) (f : Fld) (v b : Nat) : (setF s d f v b).keys = s.keys := rfl
@[simp] theorem setF_cwrite (s : State) (d : Nat) (f : Fld) (v b : Nat) : (setF s d f v b).cwrite = s.cwrite := rfl
@[simp] theorem setF_authAt (s : State) (d : Nat) (f : Fld) (v b : Nat) : (setF s d f v b).authAt = s.authAt := rfl
@[simp] theorem setF_xlats (s : State) (d : Nat) (f : Fld) (v b : Nat) : (setF s d f v b).xlats = s.xlats := rfl
@[simp] theorem setF_invals (s : State) (d : Nat) (f : Fld) (v b : Nat) : (setF s d f v b).invals = s.invals := rfl
@[simp] theorem setF_cqPend (s : State) (d : Nat) (f : Fld) (v b : Nat) : (setF s d f v b).cqPend = s.cqPend := rfl
@[simp] theorem setF_cqUsed (s : State) (d : Nat) (f : Fld) (v b : Nat) : (setF s d f v b).cqUsed = s.cqUsed := rfl
@[simp] theorem setF_sqTail (s : State) (d : Nat) (f : Fld) (v b : Nat) : (setF s d f v b).sqTail = s.sqTail := rfl
@[simp] theorem setF_cqHead (s : State) (d : Nat) (f : Fld) (v b : Nat) : (setF s d f v b).cqHead = s.cqHead := rfl
@[simp] theorem setF_cqArmed (s : State) (d : Nat) (f : Fld) (v b : Nat) : (setF s d f v b).cqArmed = s.cqArmed := rfl
@[simp] theorem setF_eqArmed (s : State) (d : Nat) (f : Fld) (v b : Nat) : (setF s d f v b).eqArmed = s.eqArmed := rfl
@[simp] theorem setF_fetchedSq (s : State) (d : Nat) (f : Fld) (v b : Nat) : (setF s d f v b).fetchedSq = s.fetchedSq := rfl
@[simp] theorem setF_peers (s : State) (d : Nat) (f : Fld) (v b : Nat) : (setF s d f v b).peers = s.peers := rfl
@[simp] theorem setF_peerQ (s : State) (d : Nat) (f : Fld) (v b : Nat) : (setF s d f v b).peerQ = s.peerQ := rfl
@[simp] theorem setF_msixTab (s : State) (d : Nat) (f : Fld) (v b : Nat) : (setF s d f v b).msixTab = s.msixTab := rfl
@[simp] theorem setF_msixMask (s : State) (d : Nat) (f : Fld) (v b : Nat) : (setF s d f v b).msixMask = s.msixMask := rfl
@[simp] theorem setF_msixPend (s : State) (d : Nat) (f : Fld) (v b : Nat) : (setF s d f v b).msixPend = s.msixPend := rfl
@[simp] theorem setF_quar (s : State) (d : Nat) (f : Fld) (v b : Nat) : (setF s d f v b).quar = s.quar := rfl
@[simp] theorem setF_funcReady (s : State) (d : Nat) (f : Fld) (v b : Nat) : (setF s d f v b).funcReady = s.funcReady := rfl
@[simp] theorem setF_d3hot (s : State) (d : Nat) (f : Fld) (v b : Nat) : (setF s d f v b).d3hot = s.d3hot := rfl
@[simp] theorem setF_mgmt (s : State) (d : Nat) (f : Fld) (v b : Nat) : (setF s d f v b).mgmt = s.mgmt := rfl
@[simp] theorem setF_ringQ (s : State) (d : Nat) (f : Fld) (v b : Nat) : (setF s d f v b).ringQ = s.ringQ := rfl
@[simp] theorem setF_ringAir (s : State) (d : Nat) (f : Fld) (v b : Nat) : (setF s d f v b).ringAir = s.ringAir := rfl
@[simp] theorem setF_dropped (s : State) (d : Nat) (f : Fld) (v b : Nat) : (setF s d f v b).dropped = s.dropped := rfl
@[simp] theorem setF_relay (s : State) (d : Nat) (f : Fld) (v b : Nat) : (setF s d f v b).relay = s.relay := rfl
@[simp] theorem setF_homes (s : State) (d : Nat) (f : Fld) (v b : Nat) : (setF s d f v b).homes = s.homes := rfl
@[simp] theorem setF_link (s : State) (d : Nat) (f : Fld) (v b : Nat) : (setF s d f v b).link = s.link := rfl
@[simp] theorem setF_tim (s : State) (d : Nat) (f : Fld) (v b : Nat) : (setF s d f v b).tim = s.tim := rfl
@[simp] theorem setF_local_ (s : State) (d : Nat) (f : Fld) (v b : Nat) : (setF s d f v b).local_ = s.local_ := rfl
@[simp] theorem setF_evd (s : State) (d : Nat) (f : Fld) (v b : Nat) : (setF s d f v b).evd = s.evd := rfl
@[simp] theorem setF_doms (s : State) (d : Nat) (f : Fld) (v b : Nat) : (setF s d f v b).doms = s.doms := rfl
@[simp] theorem setF_sm (s : State) (d : Nat) (f : Fld) (v b : Nat) : (setF s d f v b).sm = s.sm := rfl
@[simp] theorem setF_golden (s : State) (d : Nat) (f : Fld) (v b : Nat) : (setF s d f v b).golden = s.golden := rfl
@[simp] theorem setF_goldVec (s : State) (d : Nat) (f : Fld) (v b : Nat) : (setF s d f v b).goldVec = s.goldVec := rfl
@[simp] theorem setF_extAt (s : State) (d : Nat) (f : Fld) (v b : Nat) : (setF s d f v b).extAt = s.extAt := rfl
@[simp] theorem setF_bsq (s : State) (d : Nat) (f : Fld) (v b : Nat) : (setF s d f v b).bsq = s.bsq := rfl
@[simp] theorem setF_msCmd (s : State) (d : Nat) (f : Fld) (v b : Nat) : (setF s d f v b).msCmd = s.msCmd := rfl
@[simp] theorem setF_escal (s : State) (d : Nat) (f : Fld) (v b : Nat) : (setF s d f v b).escal = s.escal := rfl
@[simp] theorem setF_unlock (s : State) (d : Nat) (f : Fld) (v b : Nat) : (setF s d f v b).unlock = s.unlock := rfl
@[simp] theorem setF_fuseSvn (s : State) (d : Nat) (f : Fld) (v b : Nat) : (setF s d f v b).fuseSvn = s.fuseSvn := rfl
@[simp] theorem setF_fuseRevoked (s : State) (d : Nat) (f : Fld) (v b : Nat) : (setF s d f v b).fuseRevoked = s.fuseRevoked := rfl
@[simp] theorem setF_idKey (s : State) (d : Nat) (f : Fld) (v b : Nat) : (setF s d f v b).idKey = s.idKey := rfl
@[simp] theorem setF_lostDies (s : State) (d : Nat) (f : Fld) (v b : Nat) : (setF s d f v b).lostDies = s.lostDies := rfl
@[simp] theorem setF_heldDies (s : State) (d : Nat) (f : Fld) (v b : Nat) : (setF s d f v b).heldDies = s.heldDies := rfl
@[simp] theorem setF_fencedDev (s : State) (d : Nat) (f : Fld) (v b : Nat) : (setF s d f v b).fencedDev = s.fencedDev := rfl
@[simp] theorem setF_inReset (s : State) (d : Nat) (f : Fld) (v b : Nat) : (setF s d f v b).inReset = s.inReset := rfl
@[simp] theorem setF_rejoins (s : State) (d : Nat) (f : Fld) (v b : Nat) : (setF s d f v b).rejoins = s.rejoins := rfl
@[simp] theorem setF_loading (s : State) (d : Nat) (f : Fld) (v b : Nat) : (setF s d f v b).loading = s.loading := rfl
@[simp] theorem setF_tap (s : State) (d : Nat) (f : Fld) (v b : Nat) : (setF s d f v b).tap = s.tap := rfl
@[simp] theorem setF_out (s : State) (d : Nat) (f : Fld) (v b : Nat) : (setF s d f v b).out = s.out := rfl
@[simp] theorem getT_setF (s : State) (d : Nat) (f : Fld) (v b : Nat) (e u : Nat) : getT (setF s d f v b) e u = getT s e u := rfl
@[simp] theorem getDom_setF (s : State) (d : Nat) (f : Fld) (v b : Nat) (e u : Nat) : getDom (setF s d f v b) e u = getDom s e u := rfl
@[simp] theorem present_setF (s : State) (d : Nat) (f : Fld) (v b : Nat) (e p : Nat) : present (setF s d f v b) e p = present s e p := rfl

/-! ## emitOut -/

@[simp] theorem emitOut_pending (s : State) (o : Output) : (emitOut s o).pending = s.pending := rfl
@[simp] theorem emitOut_part (s : State) (o : Output) : (emitOut s o).part = s.part := rfl
@[simp] theorem emitOut_cyc (s : State) (o : Output) : (emitOut s o).cyc = s.cyc := rfl
@[simp] theorem emitOut_free (s : State) (o : Output) : (emitOut s o).free = s.free := rfl
@[simp] theorem emitOut_nextId (s : State) (o : Output) : (emitOut s o).nextId = s.nextId := rfl
@[simp] theorem emitOut_regs (s : State) (o : Output) : (emitOut s o).regs = s.regs := rfl
@[simp] theorem emitOut_rows (s : State) (o : Output) : (emitOut s o).rows = s.rows := rfl
@[simp] theorem emitOut_susq (s : State) (o : Output) : (emitOut s o).susq = s.susq := rfl
@[simp] theorem emitOut_selCnt (s : State) (o : Output) : (emitOut s o).selCnt = s.selCnt := rfl
@[simp] theorem emitOut_blank (s : State) (o : Output) : (emitOut s o).blank = s.blank := rfl
@[simp] theorem emitOut_searches (s : State) (o : Output) : (emitOut s o).searches = s.searches := rfl
@[simp] theorem emitOut_pairChecks (s : State) (o : Output) : (emitOut s o).pairChecks = s.pairChecks := rfl
@[simp] theorem emitOut_missed (s : State) (o : Output) : (emitOut s o).missed = s.missed := rfl
@[simp] theorem emitOut_snaps (s : State) (o : Output) : (emitOut s o).snaps = s.snaps := rfl
@[simp] theorem emitOut_latches (s : State) (o : Output) : (emitOut s o).latches = s.latches := rfl
@[simp] theorem emitOut_recipe (s : State) (o : Output) : (emitOut s o).recipe = s.recipe := rfl
@[simp] theorem emitOut_stepEnts (s : State) (o : Output) : (emitOut s o).stepEnts = s.stepEnts := rfl
@[simp] theorem emitOut_plans (s : State) (o : Output) : (emitOut s o).plans = s.plans := rfl
@[simp] theorem emitOut_threads (s : State) (o : Output) : (emitOut s o).threads = s.threads := rfl
@[simp] theorem emitOut_evch (s : State) (o : Output) : (emitOut s o).evch = s.evch := rfl
@[simp] theorem emitOut_fltq (s : State) (o : Output) : (emitOut s o).fltq = s.fltq := rfl
@[simp] theorem emitOut_forkWait (s : State) (o : Output) : (emitOut s o).forkWait = s.forkWait := rfl
@[simp] theorem emitOut_quiesce (s : State) (o : Output) : (emitOut s o).quiesce = s.quiesce := rfl
@[simp] theorem emitOut_reqs (s : State) (o : Output) : (emitOut s o).reqs = s.reqs := rfl
@[simp] theorem emitOut_books (s : State) (o : Output) : (emitOut s o).books = s.books := rfl
@[simp] theorem emitOut_egress (s : State) (o : Output) : (emitOut s o).egress = s.egress := rfl
@[simp] theorem emitOut_leaving (s : State) (o : Output) : (emitOut s o).leaving = s.leaving := rfl
@[simp] theorem emitOut_lastRel (s : State) (o : Output) : (emitOut s o).lastRel = s.lastRel := rfl
@[simp] theorem emitOut_diagFails (s : State) (o : Output) : (emitOut s o).diagFails = s.diagFails := rfl
@[simp] theorem emitOut_issues (s : State) (o : Output) : (emitOut s o).issues = s.issues := rfl
@[simp] theorem emitOut_express (s : State) (o : Output) : (emitOut s o).express = s.express := rfl
@[simp] theorem emitOut_grants (s : State) (o : Output) : (emitOut s o).grants = s.grants := rfl
@[simp] theorem emitOut_spans (s : State) (o : Output) : (emitOut s o).spans = s.spans := rfl
@[simp] theorem emitOut_locks (s : State) (o : Output) : (emitOut s o).locks = s.locks := rfl
@[simp] theorem emitOut_slots (s : State) (o : Output) : (emitOut s o).slots = s.slots := rfl
@[simp] theorem emitOut_arbAge (s : State) (o : Output) : (emitOut s o).arbAge = s.arbAge := rfl
@[simp] theorem emitOut_arbGrants (s : State) (o : Output) : (emitOut s o).arbGrants = s.arbGrants := rfl
@[simp] theorem emitOut_arbWait (s : State) (o : Output) : (emitOut s o).arbWait = s.arbWait := rfl
@[simp] theorem emitOut_cmds (s : State) (o : Output) : (emitOut s o).cmds = s.cmds := rfl
@[simp] theorem emitOut_accepted (s : State) (o : Output) : (emitOut s o).accepted = s.accepted := rfl
@[simp] theorem emitOut_updTurn (s : State) (o : Output) : (emitOut s o).updTurn = s.updTurn := rfl
@[simp] theorem emitOut_scrubAt (s : State) (o : Output) : (emitOut s o).scrubAt = s.scrubAt := rfl
@[simp] theorem emitOut_settled (s : State) (o : Output) : (emitOut s o).settled = s.settled := rfl
@[simp] theorem emitOut_lanes (s : State) (o : Output) : (emitOut s o).lanes = s.lanes := rfl
@[simp] theorem emitOut_starts (s : State) (o : Output) : (emitOut s o).starts = s.starts := rfl
@[simp] theorem emitOut_guards (s : State) (o : Output) : (emitOut s o).guards = s.guards := rfl
@[simp] theorem emitOut_twrites (s : State) (o : Output) : (emitOut s o).twrites = s.twrites := rfl
@[simp] theorem emitOut_flips (s : State) (o : Output) : (emitOut s o).flips = s.flips := rfl
@[simp] theorem emitOut_store (s : State) (o : Output) : (emitOut s o).store = s.store := rfl
@[simp] theorem emitOut_storeEpoch (s : State) (o : Output) : (emitOut s o).storeEpoch = s.storeEpoch := rfl
@[simp] theorem emitOut_cache (s : State) (o : Output) : (emitOut s o).cache = s.cache := rfl
@[simp] theorem emitOut_fills (s : State) (o : Output) : (emitOut s o).fills = s.fills := rfl
@[simp] theorem emitOut_bankBusy (s : State) (o : Output) : (emitOut s o).bankBusy = s.bankBusy := rfl
@[simp] theorem emitOut_ports (s : State) (o : Output) : (emitOut s o).ports = s.ports := rfl
@[simp] theorem emitOut_swAt (s : State) (o : Output) : (emitOut s o).swAt = s.swAt := rfl
@[simp] theorem emitOut_rgnBad (s : State) (o : Output) : (emitOut s o).rgnBad = s.rgnBad := rfl
@[simp] theorem emitOut_patrolAt (s : State) (o : Output) : (emitOut s o).patrolAt = s.patrolAt := rfl
@[simp] theorem emitOut_mbuf (s : State) (o : Output) : (emitOut s o).mbuf = s.mbuf := rfl
@[simp] theorem emitOut_steps (s : State) (o : Output) : (emitOut s o).steps = s.steps := rfl
@[simp] theorem emitOut_swq (s : State) (o : Output) : (emitOut s o).swq = s.swq := rfl
@[simp] theorem emitOut_walks (s : State) (o : Output) : (emitOut s o).walks = s.walks := rfl
@[simp] theorem emitOut_wayErrAt (s : State) (o : Output) : (emitOut s o).wayErrAt = s.wayErrAt := rfl
@[simp] theorem emitOut_promos (s : State) (o : Output) : (emitOut s o).promos = s.promos := rfl
@[simp] theorem emitOut_fetches (s : State) (o : Output) : (emitOut s o).fetches = s.fetches := rfl
@[simp] theorem emitOut_notices (s : State) (o : Output) : (emitOut s o).notices = s.notices := rfl
@[simp] theorem emitOut_nseq (s : State) (o : Output) : (emitOut s o).nseq = s.nseq := rfl
@[simp] theorem emitOut_kek (s : State) (o : Output) : (emitOut s o).kek = s.kek := rfl
@[simp] theorem emitOut_keys (s : State) (o : Output) : (emitOut s o).keys = s.keys := rfl
@[simp] theorem emitOut_cwrite (s : State) (o : Output) : (emitOut s o).cwrite = s.cwrite := rfl
@[simp] theorem emitOut_authAt (s : State) (o : Output) : (emitOut s o).authAt = s.authAt := rfl
@[simp] theorem emitOut_xlats (s : State) (o : Output) : (emitOut s o).xlats = s.xlats := rfl
@[simp] theorem emitOut_invals (s : State) (o : Output) : (emitOut s o).invals = s.invals := rfl
@[simp] theorem emitOut_cqPend (s : State) (o : Output) : (emitOut s o).cqPend = s.cqPend := rfl
@[simp] theorem emitOut_cqUsed (s : State) (o : Output) : (emitOut s o).cqUsed = s.cqUsed := rfl
@[simp] theorem emitOut_sqTail (s : State) (o : Output) : (emitOut s o).sqTail = s.sqTail := rfl
@[simp] theorem emitOut_cqHead (s : State) (o : Output) : (emitOut s o).cqHead = s.cqHead := rfl
@[simp] theorem emitOut_cqArmed (s : State) (o : Output) : (emitOut s o).cqArmed = s.cqArmed := rfl
@[simp] theorem emitOut_eqArmed (s : State) (o : Output) : (emitOut s o).eqArmed = s.eqArmed := rfl
@[simp] theorem emitOut_fetchedSq (s : State) (o : Output) : (emitOut s o).fetchedSq = s.fetchedSq := rfl
@[simp] theorem emitOut_peers (s : State) (o : Output) : (emitOut s o).peers = s.peers := rfl
@[simp] theorem emitOut_peerQ (s : State) (o : Output) : (emitOut s o).peerQ = s.peerQ := rfl
@[simp] theorem emitOut_msixTab (s : State) (o : Output) : (emitOut s o).msixTab = s.msixTab := rfl
@[simp] theorem emitOut_msixMask (s : State) (o : Output) : (emitOut s o).msixMask = s.msixMask := rfl
@[simp] theorem emitOut_msixPend (s : State) (o : Output) : (emitOut s o).msixPend = s.msixPend := rfl
@[simp] theorem emitOut_quar (s : State) (o : Output) : (emitOut s o).quar = s.quar := rfl
@[simp] theorem emitOut_funcReady (s : State) (o : Output) : (emitOut s o).funcReady = s.funcReady := rfl
@[simp] theorem emitOut_d3hot (s : State) (o : Output) : (emitOut s o).d3hot = s.d3hot := rfl
@[simp] theorem emitOut_mgmt (s : State) (o : Output) : (emitOut s o).mgmt = s.mgmt := rfl
@[simp] theorem emitOut_ringQ (s : State) (o : Output) : (emitOut s o).ringQ = s.ringQ := rfl
@[simp] theorem emitOut_ringAir (s : State) (o : Output) : (emitOut s o).ringAir = s.ringAir := rfl
@[simp] theorem emitOut_dropped (s : State) (o : Output) : (emitOut s o).dropped = s.dropped := rfl
@[simp] theorem emitOut_relay (s : State) (o : Output) : (emitOut s o).relay = s.relay := rfl
@[simp] theorem emitOut_homes (s : State) (o : Output) : (emitOut s o).homes = s.homes := rfl
@[simp] theorem emitOut_link (s : State) (o : Output) : (emitOut s o).link = s.link := rfl
@[simp] theorem emitOut_tim (s : State) (o : Output) : (emitOut s o).tim = s.tim := rfl
@[simp] theorem emitOut_local_ (s : State) (o : Output) : (emitOut s o).local_ = s.local_ := rfl
@[simp] theorem emitOut_evd (s : State) (o : Output) : (emitOut s o).evd = s.evd := rfl
@[simp] theorem emitOut_doms (s : State) (o : Output) : (emitOut s o).doms = s.doms := rfl
@[simp] theorem emitOut_sm (s : State) (o : Output) : (emitOut s o).sm = s.sm := rfl
@[simp] theorem emitOut_golden (s : State) (o : Output) : (emitOut s o).golden = s.golden := rfl
@[simp] theorem emitOut_goldVec (s : State) (o : Output) : (emitOut s o).goldVec = s.goldVec := rfl
@[simp] theorem emitOut_extAt (s : State) (o : Output) : (emitOut s o).extAt = s.extAt := rfl
@[simp] theorem emitOut_bsq (s : State) (o : Output) : (emitOut s o).bsq = s.bsq := rfl
@[simp] theorem emitOut_msCmd (s : State) (o : Output) : (emitOut s o).msCmd = s.msCmd := rfl
@[simp] theorem emitOut_escal (s : State) (o : Output) : (emitOut s o).escal = s.escal := rfl
@[simp] theorem emitOut_unlock (s : State) (o : Output) : (emitOut s o).unlock = s.unlock := rfl
@[simp] theorem emitOut_fuseSvn (s : State) (o : Output) : (emitOut s o).fuseSvn = s.fuseSvn := rfl
@[simp] theorem emitOut_fuseRevoked (s : State) (o : Output) : (emitOut s o).fuseRevoked = s.fuseRevoked := rfl
@[simp] theorem emitOut_idKey (s : State) (o : Output) : (emitOut s o).idKey = s.idKey := rfl
@[simp] theorem emitOut_lostDies (s : State) (o : Output) : (emitOut s o).lostDies = s.lostDies := rfl
@[simp] theorem emitOut_heldDies (s : State) (o : Output) : (emitOut s o).heldDies = s.heldDies := rfl
@[simp] theorem emitOut_fencedDev (s : State) (o : Output) : (emitOut s o).fencedDev = s.fencedDev := rfl
@[simp] theorem emitOut_inReset (s : State) (o : Output) : (emitOut s o).inReset = s.inReset := rfl
@[simp] theorem emitOut_rejoins (s : State) (o : Output) : (emitOut s o).rejoins = s.rejoins := rfl
@[simp] theorem emitOut_loading (s : State) (o : Output) : (emitOut s o).loading = s.loading := rfl
@[simp] theorem emitOut_tap (s : State) (o : Output) : (emitOut s o).tap = s.tap := rfl
@[simp] theorem getF_emitOut (s : State) (o : Output) (e : Nat) (g : Fld) (c : Nat) : getF (emitOut s o) e g c = getF s e g c := rfl
@[simp] theorem getT_emitOut (s : State) (o : Output) (e u : Nat) : getT (emitOut s o) e u = getT s e u := rfl
@[simp] theorem getDom_emitOut (s : State) (o : Output) (e u : Nat) : getDom (emitOut s o) e u = getDom s e u := rfl
@[simp] theorem present_emitOut (s : State) (o : Output) (e p : Nat) : present (emitOut s o) e p = present s e p := rfl

/-! ## setT -/

@[simp] theorem setT_pending (s : State) (d t : Nat) (x : Thread) : (setT s d t x).pending = s.pending := rfl
@[simp] theorem setT_part (s : State) (d t : Nat) (x : Thread) : (setT s d t x).part = s.part := rfl
@[simp] theorem setT_cyc (s : State) (d t : Nat) (x : Thread) : (setT s d t x).cyc = s.cyc := rfl
@[simp] theorem setT_free (s : State) (d t : Nat) (x : Thread) : (setT s d t x).free = s.free := rfl
@[simp] theorem setT_nextId (s : State) (d t : Nat) (x : Thread) : (setT s d t x).nextId = s.nextId := rfl
@[simp] theorem setT_regs (s : State) (d t : Nat) (x : Thread) : (setT s d t x).regs = s.regs := rfl
@[simp] theorem setT_rows (s : State) (d t : Nat) (x : Thread) : (setT s d t x).rows = s.rows := rfl
@[simp] theorem setT_susq (s : State) (d t : Nat) (x : Thread) : (setT s d t x).susq = s.susq := rfl
@[simp] theorem setT_selCnt (s : State) (d t : Nat) (x : Thread) : (setT s d t x).selCnt = s.selCnt := rfl
@[simp] theorem setT_blank (s : State) (d t : Nat) (x : Thread) : (setT s d t x).blank = s.blank := rfl
@[simp] theorem setT_searches (s : State) (d t : Nat) (x : Thread) : (setT s d t x).searches = s.searches := rfl
@[simp] theorem setT_pairChecks (s : State) (d t : Nat) (x : Thread) : (setT s d t x).pairChecks = s.pairChecks := rfl
@[simp] theorem setT_missed (s : State) (d t : Nat) (x : Thread) : (setT s d t x).missed = s.missed := rfl
@[simp] theorem setT_snaps (s : State) (d t : Nat) (x : Thread) : (setT s d t x).snaps = s.snaps := rfl
@[simp] theorem setT_latches (s : State) (d t : Nat) (x : Thread) : (setT s d t x).latches = s.latches := rfl
@[simp] theorem setT_recipe (s : State) (d t : Nat) (x : Thread) : (setT s d t x).recipe = s.recipe := rfl
@[simp] theorem setT_stepEnts (s : State) (d t : Nat) (x : Thread) : (setT s d t x).stepEnts = s.stepEnts := rfl
@[simp] theorem setT_plans (s : State) (d t : Nat) (x : Thread) : (setT s d t x).plans = s.plans := rfl
@[simp] theorem setT_evch (s : State) (d t : Nat) (x : Thread) : (setT s d t x).evch = s.evch := rfl
@[simp] theorem setT_fltq (s : State) (d t : Nat) (x : Thread) : (setT s d t x).fltq = s.fltq := rfl
@[simp] theorem setT_forkWait (s : State) (d t : Nat) (x : Thread) : (setT s d t x).forkWait = s.forkWait := rfl
@[simp] theorem setT_quiesce (s : State) (d t : Nat) (x : Thread) : (setT s d t x).quiesce = s.quiesce := rfl
@[simp] theorem setT_reqs (s : State) (d t : Nat) (x : Thread) : (setT s d t x).reqs = s.reqs := rfl
@[simp] theorem setT_books (s : State) (d t : Nat) (x : Thread) : (setT s d t x).books = s.books := rfl
@[simp] theorem setT_egress (s : State) (d t : Nat) (x : Thread) : (setT s d t x).egress = s.egress := rfl
@[simp] theorem setT_leaving (s : State) (d t : Nat) (x : Thread) : (setT s d t x).leaving = s.leaving := rfl
@[simp] theorem setT_lastRel (s : State) (d t : Nat) (x : Thread) : (setT s d t x).lastRel = s.lastRel := rfl
@[simp] theorem setT_diagFails (s : State) (d t : Nat) (x : Thread) : (setT s d t x).diagFails = s.diagFails := rfl
@[simp] theorem setT_issues (s : State) (d t : Nat) (x : Thread) : (setT s d t x).issues = s.issues := rfl
@[simp] theorem setT_express (s : State) (d t : Nat) (x : Thread) : (setT s d t x).express = s.express := rfl
@[simp] theorem setT_grants (s : State) (d t : Nat) (x : Thread) : (setT s d t x).grants = s.grants := rfl
@[simp] theorem setT_spans (s : State) (d t : Nat) (x : Thread) : (setT s d t x).spans = s.spans := rfl
@[simp] theorem setT_locks (s : State) (d t : Nat) (x : Thread) : (setT s d t x).locks = s.locks := rfl
@[simp] theorem setT_slots (s : State) (d t : Nat) (x : Thread) : (setT s d t x).slots = s.slots := rfl
@[simp] theorem setT_arbAge (s : State) (d t : Nat) (x : Thread) : (setT s d t x).arbAge = s.arbAge := rfl
@[simp] theorem setT_arbGrants (s : State) (d t : Nat) (x : Thread) : (setT s d t x).arbGrants = s.arbGrants := rfl
@[simp] theorem setT_arbWait (s : State) (d t : Nat) (x : Thread) : (setT s d t x).arbWait = s.arbWait := rfl
@[simp] theorem setT_cmds (s : State) (d t : Nat) (x : Thread) : (setT s d t x).cmds = s.cmds := rfl
@[simp] theorem setT_accepted (s : State) (d t : Nat) (x : Thread) : (setT s d t x).accepted = s.accepted := rfl
@[simp] theorem setT_updTurn (s : State) (d t : Nat) (x : Thread) : (setT s d t x).updTurn = s.updTurn := rfl
@[simp] theorem setT_scrubAt (s : State) (d t : Nat) (x : Thread) : (setT s d t x).scrubAt = s.scrubAt := rfl
@[simp] theorem setT_settled (s : State) (d t : Nat) (x : Thread) : (setT s d t x).settled = s.settled := rfl
@[simp] theorem setT_lanes (s : State) (d t : Nat) (x : Thread) : (setT s d t x).lanes = s.lanes := rfl
@[simp] theorem setT_starts (s : State) (d t : Nat) (x : Thread) : (setT s d t x).starts = s.starts := rfl
@[simp] theorem setT_guards (s : State) (d t : Nat) (x : Thread) : (setT s d t x).guards = s.guards := rfl
@[simp] theorem setT_twrites (s : State) (d t : Nat) (x : Thread) : (setT s d t x).twrites = s.twrites := rfl
@[simp] theorem setT_flips (s : State) (d t : Nat) (x : Thread) : (setT s d t x).flips = s.flips := rfl
@[simp] theorem setT_store (s : State) (d t : Nat) (x : Thread) : (setT s d t x).store = s.store := rfl
@[simp] theorem setT_storeEpoch (s : State) (d t : Nat) (x : Thread) : (setT s d t x).storeEpoch = s.storeEpoch := rfl
@[simp] theorem setT_cache (s : State) (d t : Nat) (x : Thread) : (setT s d t x).cache = s.cache := rfl
@[simp] theorem setT_fills (s : State) (d t : Nat) (x : Thread) : (setT s d t x).fills = s.fills := rfl
@[simp] theorem setT_bankBusy (s : State) (d t : Nat) (x : Thread) : (setT s d t x).bankBusy = s.bankBusy := rfl
@[simp] theorem setT_ports (s : State) (d t : Nat) (x : Thread) : (setT s d t x).ports = s.ports := rfl
@[simp] theorem setT_swAt (s : State) (d t : Nat) (x : Thread) : (setT s d t x).swAt = s.swAt := rfl
@[simp] theorem setT_rgnBad (s : State) (d t : Nat) (x : Thread) : (setT s d t x).rgnBad = s.rgnBad := rfl
@[simp] theorem setT_patrolAt (s : State) (d t : Nat) (x : Thread) : (setT s d t x).patrolAt = s.patrolAt := rfl
@[simp] theorem setT_mbuf (s : State) (d t : Nat) (x : Thread) : (setT s d t x).mbuf = s.mbuf := rfl
@[simp] theorem setT_steps (s : State) (d t : Nat) (x : Thread) : (setT s d t x).steps = s.steps := rfl
@[simp] theorem setT_swq (s : State) (d t : Nat) (x : Thread) : (setT s d t x).swq = s.swq := rfl
@[simp] theorem setT_walks (s : State) (d t : Nat) (x : Thread) : (setT s d t x).walks = s.walks := rfl
@[simp] theorem setT_wayErrAt (s : State) (d t : Nat) (x : Thread) : (setT s d t x).wayErrAt = s.wayErrAt := rfl
@[simp] theorem setT_promos (s : State) (d t : Nat) (x : Thread) : (setT s d t x).promos = s.promos := rfl
@[simp] theorem setT_fetches (s : State) (d t : Nat) (x : Thread) : (setT s d t x).fetches = s.fetches := rfl
@[simp] theorem setT_notices (s : State) (d t : Nat) (x : Thread) : (setT s d t x).notices = s.notices := rfl
@[simp] theorem setT_nseq (s : State) (d t : Nat) (x : Thread) : (setT s d t x).nseq = s.nseq := rfl
@[simp] theorem setT_kek (s : State) (d t : Nat) (x : Thread) : (setT s d t x).kek = s.kek := rfl
@[simp] theorem setT_keys (s : State) (d t : Nat) (x : Thread) : (setT s d t x).keys = s.keys := rfl
@[simp] theorem setT_cwrite (s : State) (d t : Nat) (x : Thread) : (setT s d t x).cwrite = s.cwrite := rfl
@[simp] theorem setT_authAt (s : State) (d t : Nat) (x : Thread) : (setT s d t x).authAt = s.authAt := rfl
@[simp] theorem setT_xlats (s : State) (d t : Nat) (x : Thread) : (setT s d t x).xlats = s.xlats := rfl
@[simp] theorem setT_invals (s : State) (d t : Nat) (x : Thread) : (setT s d t x).invals = s.invals := rfl
@[simp] theorem setT_cqPend (s : State) (d t : Nat) (x : Thread) : (setT s d t x).cqPend = s.cqPend := rfl
@[simp] theorem setT_cqUsed (s : State) (d t : Nat) (x : Thread) : (setT s d t x).cqUsed = s.cqUsed := rfl
@[simp] theorem setT_sqTail (s : State) (d t : Nat) (x : Thread) : (setT s d t x).sqTail = s.sqTail := rfl
@[simp] theorem setT_cqHead (s : State) (d t : Nat) (x : Thread) : (setT s d t x).cqHead = s.cqHead := rfl
@[simp] theorem setT_cqArmed (s : State) (d t : Nat) (x : Thread) : (setT s d t x).cqArmed = s.cqArmed := rfl
@[simp] theorem setT_eqArmed (s : State) (d t : Nat) (x : Thread) : (setT s d t x).eqArmed = s.eqArmed := rfl
@[simp] theorem setT_fetchedSq (s : State) (d t : Nat) (x : Thread) : (setT s d t x).fetchedSq = s.fetchedSq := rfl
@[simp] theorem setT_peers (s : State) (d t : Nat) (x : Thread) : (setT s d t x).peers = s.peers := rfl
@[simp] theorem setT_peerQ (s : State) (d t : Nat) (x : Thread) : (setT s d t x).peerQ = s.peerQ := rfl
@[simp] theorem setT_msixTab (s : State) (d t : Nat) (x : Thread) : (setT s d t x).msixTab = s.msixTab := rfl
@[simp] theorem setT_msixMask (s : State) (d t : Nat) (x : Thread) : (setT s d t x).msixMask = s.msixMask := rfl
@[simp] theorem setT_msixPend (s : State) (d t : Nat) (x : Thread) : (setT s d t x).msixPend = s.msixPend := rfl
@[simp] theorem setT_quar (s : State) (d t : Nat) (x : Thread) : (setT s d t x).quar = s.quar := rfl
@[simp] theorem setT_funcReady (s : State) (d t : Nat) (x : Thread) : (setT s d t x).funcReady = s.funcReady := rfl
@[simp] theorem setT_d3hot (s : State) (d t : Nat) (x : Thread) : (setT s d t x).d3hot = s.d3hot := rfl
@[simp] theorem setT_mgmt (s : State) (d t : Nat) (x : Thread) : (setT s d t x).mgmt = s.mgmt := rfl
@[simp] theorem setT_ringQ (s : State) (d t : Nat) (x : Thread) : (setT s d t x).ringQ = s.ringQ := rfl
@[simp] theorem setT_ringAir (s : State) (d t : Nat) (x : Thread) : (setT s d t x).ringAir = s.ringAir := rfl
@[simp] theorem setT_dropped (s : State) (d t : Nat) (x : Thread) : (setT s d t x).dropped = s.dropped := rfl
@[simp] theorem setT_relay (s : State) (d t : Nat) (x : Thread) : (setT s d t x).relay = s.relay := rfl
@[simp] theorem setT_homes (s : State) (d t : Nat) (x : Thread) : (setT s d t x).homes = s.homes := rfl
@[simp] theorem setT_link (s : State) (d t : Nat) (x : Thread) : (setT s d t x).link = s.link := rfl
@[simp] theorem setT_tim (s : State) (d t : Nat) (x : Thread) : (setT s d t x).tim = s.tim := rfl
@[simp] theorem setT_local_ (s : State) (d t : Nat) (x : Thread) : (setT s d t x).local_ = s.local_ := rfl
@[simp] theorem setT_evd (s : State) (d t : Nat) (x : Thread) : (setT s d t x).evd = s.evd := rfl
@[simp] theorem setT_doms (s : State) (d t : Nat) (x : Thread) : (setT s d t x).doms = s.doms := rfl
@[simp] theorem setT_sm (s : State) (d t : Nat) (x : Thread) : (setT s d t x).sm = s.sm := rfl
@[simp] theorem setT_golden (s : State) (d t : Nat) (x : Thread) : (setT s d t x).golden = s.golden := rfl
@[simp] theorem setT_goldVec (s : State) (d t : Nat) (x : Thread) : (setT s d t x).goldVec = s.goldVec := rfl
@[simp] theorem setT_extAt (s : State) (d t : Nat) (x : Thread) : (setT s d t x).extAt = s.extAt := rfl
@[simp] theorem setT_bsq (s : State) (d t : Nat) (x : Thread) : (setT s d t x).bsq = s.bsq := rfl
@[simp] theorem setT_msCmd (s : State) (d t : Nat) (x : Thread) : (setT s d t x).msCmd = s.msCmd := rfl
@[simp] theorem setT_escal (s : State) (d t : Nat) (x : Thread) : (setT s d t x).escal = s.escal := rfl
@[simp] theorem setT_unlock (s : State) (d t : Nat) (x : Thread) : (setT s d t x).unlock = s.unlock := rfl
@[simp] theorem setT_fuseSvn (s : State) (d t : Nat) (x : Thread) : (setT s d t x).fuseSvn = s.fuseSvn := rfl
@[simp] theorem setT_fuseRevoked (s : State) (d t : Nat) (x : Thread) : (setT s d t x).fuseRevoked = s.fuseRevoked := rfl
@[simp] theorem setT_idKey (s : State) (d t : Nat) (x : Thread) : (setT s d t x).idKey = s.idKey := rfl
@[simp] theorem setT_lostDies (s : State) (d t : Nat) (x : Thread) : (setT s d t x).lostDies = s.lostDies := rfl
@[simp] theorem setT_heldDies (s : State) (d t : Nat) (x : Thread) : (setT s d t x).heldDies = s.heldDies := rfl
@[simp] theorem setT_fencedDev (s : State) (d t : Nat) (x : Thread) : (setT s d t x).fencedDev = s.fencedDev := rfl
@[simp] theorem setT_inReset (s : State) (d t : Nat) (x : Thread) : (setT s d t x).inReset = s.inReset := rfl
@[simp] theorem setT_rejoins (s : State) (d t : Nat) (x : Thread) : (setT s d t x).rejoins = s.rejoins := rfl
@[simp] theorem setT_loading (s : State) (d t : Nat) (x : Thread) : (setT s d t x).loading = s.loading := rfl
@[simp] theorem setT_tap (s : State) (d t : Nat) (x : Thread) : (setT s d t x).tap = s.tap := rfl
@[simp] theorem setT_out (s : State) (d t : Nat) (x : Thread) : (setT s d t x).out = s.out := rfl
@[simp] theorem getF_setT (s : State) (d t : Nat) (x : Thread) (e : Nat) (g : Fld) (c : Nat) : getF (setT s d t x) e g c = getF s e g c := rfl
@[simp] theorem getDom_setT (s : State) (d t : Nat) (x : Thread) (e u : Nat) : getDom (setT s d t x) e u = getDom s e u := rfl
@[simp] theorem present_setT (s : State) (d t : Nat) (x : Thread) (e p : Nat) : present (setT s d t x) e p = present s e p := rfl

/-! ## setDom -/

@[simp] theorem setDom_pending (s : State) (d c : Nat) (x : Dom) : (setDom s d c x).pending = s.pending := rfl
@[simp] theorem setDom_part (s : State) (d c : Nat) (x : Dom) : (setDom s d c x).part = s.part := rfl
@[simp] theorem setDom_cyc (s : State) (d c : Nat) (x : Dom) : (setDom s d c x).cyc = s.cyc := rfl
@[simp] theorem setDom_free (s : State) (d c : Nat) (x : Dom) : (setDom s d c x).free = s.free := rfl
@[simp] theorem setDom_nextId (s : State) (d c : Nat) (x : Dom) : (setDom s d c x).nextId = s.nextId := rfl
@[simp] theorem setDom_regs (s : State) (d c : Nat) (x : Dom) : (setDom s d c x).regs = s.regs := rfl
@[simp] theorem setDom_rows (s : State) (d c : Nat) (x : Dom) : (setDom s d c x).rows = s.rows := rfl
@[simp] theorem setDom_susq (s : State) (d c : Nat) (x : Dom) : (setDom s d c x).susq = s.susq := rfl
@[simp] theorem setDom_selCnt (s : State) (d c : Nat) (x : Dom) : (setDom s d c x).selCnt = s.selCnt := rfl
@[simp] theorem setDom_blank (s : State) (d c : Nat) (x : Dom) : (setDom s d c x).blank = s.blank := rfl
@[simp] theorem setDom_searches (s : State) (d c : Nat) (x : Dom) : (setDom s d c x).searches = s.searches := rfl
@[simp] theorem setDom_pairChecks (s : State) (d c : Nat) (x : Dom) : (setDom s d c x).pairChecks = s.pairChecks := rfl
@[simp] theorem setDom_missed (s : State) (d c : Nat) (x : Dom) : (setDom s d c x).missed = s.missed := rfl
@[simp] theorem setDom_snaps (s : State) (d c : Nat) (x : Dom) : (setDom s d c x).snaps = s.snaps := rfl
@[simp] theorem setDom_latches (s : State) (d c : Nat) (x : Dom) : (setDom s d c x).latches = s.latches := rfl
@[simp] theorem setDom_recipe (s : State) (d c : Nat) (x : Dom) : (setDom s d c x).recipe = s.recipe := rfl
@[simp] theorem setDom_stepEnts (s : State) (d c : Nat) (x : Dom) : (setDom s d c x).stepEnts = s.stepEnts := rfl
@[simp] theorem setDom_plans (s : State) (d c : Nat) (x : Dom) : (setDom s d c x).plans = s.plans := rfl
@[simp] theorem setDom_threads (s : State) (d c : Nat) (x : Dom) : (setDom s d c x).threads = s.threads := rfl
@[simp] theorem setDom_evch (s : State) (d c : Nat) (x : Dom) : (setDom s d c x).evch = s.evch := rfl
@[simp] theorem setDom_fltq (s : State) (d c : Nat) (x : Dom) : (setDom s d c x).fltq = s.fltq := rfl
@[simp] theorem setDom_forkWait (s : State) (d c : Nat) (x : Dom) : (setDom s d c x).forkWait = s.forkWait := rfl
@[simp] theorem setDom_quiesce (s : State) (d c : Nat) (x : Dom) : (setDom s d c x).quiesce = s.quiesce := rfl
@[simp] theorem setDom_reqs (s : State) (d c : Nat) (x : Dom) : (setDom s d c x).reqs = s.reqs := rfl
@[simp] theorem setDom_books (s : State) (d c : Nat) (x : Dom) : (setDom s d c x).books = s.books := rfl
@[simp] theorem setDom_egress (s : State) (d c : Nat) (x : Dom) : (setDom s d c x).egress = s.egress := rfl
@[simp] theorem setDom_leaving (s : State) (d c : Nat) (x : Dom) : (setDom s d c x).leaving = s.leaving := rfl
@[simp] theorem setDom_lastRel (s : State) (d c : Nat) (x : Dom) : (setDom s d c x).lastRel = s.lastRel := rfl
@[simp] theorem setDom_diagFails (s : State) (d c : Nat) (x : Dom) : (setDom s d c x).diagFails = s.diagFails := rfl
@[simp] theorem setDom_issues (s : State) (d c : Nat) (x : Dom) : (setDom s d c x).issues = s.issues := rfl
@[simp] theorem setDom_express (s : State) (d c : Nat) (x : Dom) : (setDom s d c x).express = s.express := rfl
@[simp] theorem setDom_grants (s : State) (d c : Nat) (x : Dom) : (setDom s d c x).grants = s.grants := rfl
@[simp] theorem setDom_spans (s : State) (d c : Nat) (x : Dom) : (setDom s d c x).spans = s.spans := rfl
@[simp] theorem setDom_locks (s : State) (d c : Nat) (x : Dom) : (setDom s d c x).locks = s.locks := rfl
@[simp] theorem setDom_slots (s : State) (d c : Nat) (x : Dom) : (setDom s d c x).slots = s.slots := rfl
@[simp] theorem setDom_arbAge (s : State) (d c : Nat) (x : Dom) : (setDom s d c x).arbAge = s.arbAge := rfl
@[simp] theorem setDom_arbGrants (s : State) (d c : Nat) (x : Dom) : (setDom s d c x).arbGrants = s.arbGrants := rfl
@[simp] theorem setDom_arbWait (s : State) (d c : Nat) (x : Dom) : (setDom s d c x).arbWait = s.arbWait := rfl
@[simp] theorem setDom_cmds (s : State) (d c : Nat) (x : Dom) : (setDom s d c x).cmds = s.cmds := rfl
@[simp] theorem setDom_accepted (s : State) (d c : Nat) (x : Dom) : (setDom s d c x).accepted = s.accepted := rfl
@[simp] theorem setDom_updTurn (s : State) (d c : Nat) (x : Dom) : (setDom s d c x).updTurn = s.updTurn := rfl
@[simp] theorem setDom_scrubAt (s : State) (d c : Nat) (x : Dom) : (setDom s d c x).scrubAt = s.scrubAt := rfl
@[simp] theorem setDom_settled (s : State) (d c : Nat) (x : Dom) : (setDom s d c x).settled = s.settled := rfl
@[simp] theorem setDom_lanes (s : State) (d c : Nat) (x : Dom) : (setDom s d c x).lanes = s.lanes := rfl
@[simp] theorem setDom_starts (s : State) (d c : Nat) (x : Dom) : (setDom s d c x).starts = s.starts := rfl
@[simp] theorem setDom_guards (s : State) (d c : Nat) (x : Dom) : (setDom s d c x).guards = s.guards := rfl
@[simp] theorem setDom_twrites (s : State) (d c : Nat) (x : Dom) : (setDom s d c x).twrites = s.twrites := rfl
@[simp] theorem setDom_flips (s : State) (d c : Nat) (x : Dom) : (setDom s d c x).flips = s.flips := rfl
@[simp] theorem setDom_store (s : State) (d c : Nat) (x : Dom) : (setDom s d c x).store = s.store := rfl
@[simp] theorem setDom_storeEpoch (s : State) (d c : Nat) (x : Dom) : (setDom s d c x).storeEpoch = s.storeEpoch := rfl
@[simp] theorem setDom_cache (s : State) (d c : Nat) (x : Dom) : (setDom s d c x).cache = s.cache := rfl
@[simp] theorem setDom_fills (s : State) (d c : Nat) (x : Dom) : (setDom s d c x).fills = s.fills := rfl
@[simp] theorem setDom_bankBusy (s : State) (d c : Nat) (x : Dom) : (setDom s d c x).bankBusy = s.bankBusy := rfl
@[simp] theorem setDom_ports (s : State) (d c : Nat) (x : Dom) : (setDom s d c x).ports = s.ports := rfl
@[simp] theorem setDom_swAt (s : State) (d c : Nat) (x : Dom) : (setDom s d c x).swAt = s.swAt := rfl
@[simp] theorem setDom_rgnBad (s : State) (d c : Nat) (x : Dom) : (setDom s d c x).rgnBad = s.rgnBad := rfl
@[simp] theorem setDom_patrolAt (s : State) (d c : Nat) (x : Dom) : (setDom s d c x).patrolAt = s.patrolAt := rfl
@[simp] theorem setDom_mbuf (s : State) (d c : Nat) (x : Dom) : (setDom s d c x).mbuf = s.mbuf := rfl
@[simp] theorem setDom_steps (s : State) (d c : Nat) (x : Dom) : (setDom s d c x).steps = s.steps := rfl
@[simp] theorem setDom_swq (s : State) (d c : Nat) (x : Dom) : (setDom s d c x).swq = s.swq := rfl
@[simp] theorem setDom_walks (s : State) (d c : Nat) (x : Dom) : (setDom s d c x).walks = s.walks := rfl
@[simp] theorem setDom_wayErrAt (s : State) (d c : Nat) (x : Dom) : (setDom s d c x).wayErrAt = s.wayErrAt := rfl
@[simp] theorem setDom_promos (s : State) (d c : Nat) (x : Dom) : (setDom s d c x).promos = s.promos := rfl
@[simp] theorem setDom_fetches (s : State) (d c : Nat) (x : Dom) : (setDom s d c x).fetches = s.fetches := rfl
@[simp] theorem setDom_notices (s : State) (d c : Nat) (x : Dom) : (setDom s d c x).notices = s.notices := rfl
@[simp] theorem setDom_nseq (s : State) (d c : Nat) (x : Dom) : (setDom s d c x).nseq = s.nseq := rfl
@[simp] theorem setDom_kek (s : State) (d c : Nat) (x : Dom) : (setDom s d c x).kek = s.kek := rfl
@[simp] theorem setDom_keys (s : State) (d c : Nat) (x : Dom) : (setDom s d c x).keys = s.keys := rfl
@[simp] theorem setDom_cwrite (s : State) (d c : Nat) (x : Dom) : (setDom s d c x).cwrite = s.cwrite := rfl
@[simp] theorem setDom_authAt (s : State) (d c : Nat) (x : Dom) : (setDom s d c x).authAt = s.authAt := rfl
@[simp] theorem setDom_xlats (s : State) (d c : Nat) (x : Dom) : (setDom s d c x).xlats = s.xlats := rfl
@[simp] theorem setDom_invals (s : State) (d c : Nat) (x : Dom) : (setDom s d c x).invals = s.invals := rfl
@[simp] theorem setDom_cqPend (s : State) (d c : Nat) (x : Dom) : (setDom s d c x).cqPend = s.cqPend := rfl
@[simp] theorem setDom_cqUsed (s : State) (d c : Nat) (x : Dom) : (setDom s d c x).cqUsed = s.cqUsed := rfl
@[simp] theorem setDom_sqTail (s : State) (d c : Nat) (x : Dom) : (setDom s d c x).sqTail = s.sqTail := rfl
@[simp] theorem setDom_cqHead (s : State) (d c : Nat) (x : Dom) : (setDom s d c x).cqHead = s.cqHead := rfl
@[simp] theorem setDom_cqArmed (s : State) (d c : Nat) (x : Dom) : (setDom s d c x).cqArmed = s.cqArmed := rfl
@[simp] theorem setDom_eqArmed (s : State) (d c : Nat) (x : Dom) : (setDom s d c x).eqArmed = s.eqArmed := rfl
@[simp] theorem setDom_fetchedSq (s : State) (d c : Nat) (x : Dom) : (setDom s d c x).fetchedSq = s.fetchedSq := rfl
@[simp] theorem setDom_peers (s : State) (d c : Nat) (x : Dom) : (setDom s d c x).peers = s.peers := rfl
@[simp] theorem setDom_peerQ (s : State) (d c : Nat) (x : Dom) : (setDom s d c x).peerQ = s.peerQ := rfl
@[simp] theorem setDom_msixTab (s : State) (d c : Nat) (x : Dom) : (setDom s d c x).msixTab = s.msixTab := rfl
@[simp] theorem setDom_msixMask (s : State) (d c : Nat) (x : Dom) : (setDom s d c x).msixMask = s.msixMask := rfl
@[simp] theorem setDom_msixPend (s : State) (d c : Nat) (x : Dom) : (setDom s d c x).msixPend = s.msixPend := rfl
@[simp] theorem setDom_quar (s : State) (d c : Nat) (x : Dom) : (setDom s d c x).quar = s.quar := rfl
@[simp] theorem setDom_funcReady (s : State) (d c : Nat) (x : Dom) : (setDom s d c x).funcReady = s.funcReady := rfl
@[simp] theorem setDom_d3hot (s : State) (d c : Nat) (x : Dom) : (setDom s d c x).d3hot = s.d3hot := rfl
@[simp] theorem setDom_mgmt (s : State) (d c : Nat) (x : Dom) : (setDom s d c x).mgmt = s.mgmt := rfl
@[simp] theorem setDom_ringQ (s : State) (d c : Nat) (x : Dom) : (setDom s d c x).ringQ = s.ringQ := rfl
@[simp] theorem setDom_ringAir (s : State) (d c : Nat) (x : Dom) : (setDom s d c x).ringAir = s.ringAir := rfl
@[simp] theorem setDom_dropped (s : State) (d c : Nat) (x : Dom) : (setDom s d c x).dropped = s.dropped := rfl
@[simp] theorem setDom_relay (s : State) (d c : Nat) (x : Dom) : (setDom s d c x).relay = s.relay := rfl
@[simp] theorem setDom_homes (s : State) (d c : Nat) (x : Dom) : (setDom s d c x).homes = s.homes := rfl
@[simp] theorem setDom_link (s : State) (d c : Nat) (x : Dom) : (setDom s d c x).link = s.link := rfl
@[simp] theorem setDom_tim (s : State) (d c : Nat) (x : Dom) : (setDom s d c x).tim = s.tim := rfl
@[simp] theorem setDom_local_ (s : State) (d c : Nat) (x : Dom) : (setDom s d c x).local_ = s.local_ := rfl
@[simp] theorem setDom_evd (s : State) (d c : Nat) (x : Dom) : (setDom s d c x).evd = s.evd := rfl
@[simp] theorem setDom_sm (s : State) (d c : Nat) (x : Dom) : (setDom s d c x).sm = s.sm := rfl
@[simp] theorem setDom_golden (s : State) (d c : Nat) (x : Dom) : (setDom s d c x).golden = s.golden := rfl
@[simp] theorem setDom_goldVec (s : State) (d c : Nat) (x : Dom) : (setDom s d c x).goldVec = s.goldVec := rfl
@[simp] theorem setDom_extAt (s : State) (d c : Nat) (x : Dom) : (setDom s d c x).extAt = s.extAt := rfl
@[simp] theorem setDom_bsq (s : State) (d c : Nat) (x : Dom) : (setDom s d c x).bsq = s.bsq := rfl
@[simp] theorem setDom_msCmd (s : State) (d c : Nat) (x : Dom) : (setDom s d c x).msCmd = s.msCmd := rfl
@[simp] theorem setDom_escal (s : State) (d c : Nat) (x : Dom) : (setDom s d c x).escal = s.escal := rfl
@[simp] theorem setDom_unlock (s : State) (d c : Nat) (x : Dom) : (setDom s d c x).unlock = s.unlock := rfl
@[simp] theorem setDom_fuseSvn (s : State) (d c : Nat) (x : Dom) : (setDom s d c x).fuseSvn = s.fuseSvn := rfl
@[simp] theorem setDom_fuseRevoked (s : State) (d c : Nat) (x : Dom) : (setDom s d c x).fuseRevoked = s.fuseRevoked := rfl
@[simp] theorem setDom_idKey (s : State) (d c : Nat) (x : Dom) : (setDom s d c x).idKey = s.idKey := rfl
@[simp] theorem setDom_lostDies (s : State) (d c : Nat) (x : Dom) : (setDom s d c x).lostDies = s.lostDies := rfl
@[simp] theorem setDom_heldDies (s : State) (d c : Nat) (x : Dom) : (setDom s d c x).heldDies = s.heldDies := rfl
@[simp] theorem setDom_fencedDev (s : State) (d c : Nat) (x : Dom) : (setDom s d c x).fencedDev = s.fencedDev := rfl
@[simp] theorem setDom_inReset (s : State) (d c : Nat) (x : Dom) : (setDom s d c x).inReset = s.inReset := rfl
@[simp] theorem setDom_rejoins (s : State) (d c : Nat) (x : Dom) : (setDom s d c x).rejoins = s.rejoins := rfl
@[simp] theorem setDom_loading (s : State) (d c : Nat) (x : Dom) : (setDom s d c x).loading = s.loading := rfl
@[simp] theorem setDom_tap (s : State) (d c : Nat) (x : Dom) : (setDom s d c x).tap = s.tap := rfl
@[simp] theorem setDom_out (s : State) (d c : Nat) (x : Dom) : (setDom s d c x).out = s.out := rfl
@[simp] theorem getF_setDom (s : State) (d c : Nat) (x : Dom) (e : Nat) (g : Fld) (c : Nat) : getF (setDom s d c x) e g c = getF s e g c := rfl
@[simp] theorem getT_setDom (s : State) (d c : Nat) (x : Dom) (e u : Nat) : getT (setDom s d c x) e u = getT s e u := rfl
@[simp] theorem present_setDom (s : State) (d c : Nat) (x : Dom) (e p : Nat) : present (setDom s d c x) e p = present s e p := rfl

/-! ## queueCell -/

@[simp] theorem queueCell_pending (s : State) (src cls id payload : Nat) : (queueCell s src cls id payload).pending = s.pending := rfl
@[simp] theorem queueCell_part (s : State) (src cls id payload : Nat) : (queueCell s src cls id payload).part = s.part := rfl
@[simp] theorem queueCell_cyc (s : State) (src cls id payload : Nat) : (queueCell s src cls id payload).cyc = s.cyc := rfl
@[simp] theorem queueCell_free (s : State) (src cls id payload : Nat) : (queueCell s src cls id payload).free = s.free := rfl
@[simp] theorem queueCell_nextId (s : State) (src cls id payload : Nat) : (queueCell s src cls id payload).nextId = s.nextId := rfl
@[simp] theorem queueCell_regs (s : State) (src cls id payload : Nat) : (queueCell s src cls id payload).regs = s.regs := rfl
@[simp] theorem queueCell_rows (s : State) (src cls id payload : Nat) : (queueCell s src cls id payload).rows = s.rows := rfl
@[simp] theorem queueCell_susq (s : State) (src cls id payload : Nat) : (queueCell s src cls id payload).susq = s.susq := rfl
@[simp] theorem queueCell_selCnt (s : State) (src cls id payload : Nat) : (queueCell s src cls id payload).selCnt = s.selCnt := rfl
@[simp] theorem queueCell_blank (s : State) (src cls id payload : Nat) : (queueCell s src cls id payload).blank = s.blank := rfl
@[simp] theorem queueCell_searches (s : State) (src cls id payload : Nat) : (queueCell s src cls id payload).searches = s.searches := rfl
@[simp] theorem queueCell_pairChecks (s : State) (src cls id payload : Nat) : (queueCell s src cls id payload).pairChecks = s.pairChecks := rfl
@[simp] theorem queueCell_missed (s : State) (src cls id payload : Nat) : (queueCell s src cls id payload).missed = s.missed := rfl
@[simp] theorem queueCell_snaps (s : State) (src cls id payload : Nat) : (queueCell s src cls id payload).snaps = s.snaps := rfl
@[simp] theorem queueCell_latches (s : State) (src cls id payload : Nat) : (queueCell s src cls id payload).latches = s.latches := rfl
@[simp] theorem queueCell_recipe (s : State) (src cls id payload : Nat) : (queueCell s src cls id payload).recipe = s.recipe := rfl
@[simp] theorem queueCell_stepEnts (s : State) (src cls id payload : Nat) : (queueCell s src cls id payload).stepEnts = s.stepEnts := rfl
@[simp] theorem queueCell_plans (s : State) (src cls id payload : Nat) : (queueCell s src cls id payload).plans = s.plans := rfl
@[simp] theorem queueCell_threads (s : State) (src cls id payload : Nat) : (queueCell s src cls id payload).threads = s.threads := rfl
@[simp] theorem queueCell_evch (s : State) (src cls id payload : Nat) : (queueCell s src cls id payload).evch = s.evch := rfl
@[simp] theorem queueCell_fltq (s : State) (src cls id payload : Nat) : (queueCell s src cls id payload).fltq = s.fltq := rfl
@[simp] theorem queueCell_forkWait (s : State) (src cls id payload : Nat) : (queueCell s src cls id payload).forkWait = s.forkWait := rfl
@[simp] theorem queueCell_quiesce (s : State) (src cls id payload : Nat) : (queueCell s src cls id payload).quiesce = s.quiesce := rfl
@[simp] theorem queueCell_reqs (s : State) (src cls id payload : Nat) : (queueCell s src cls id payload).reqs = s.reqs := rfl
@[simp] theorem queueCell_books (s : State) (src cls id payload : Nat) : (queueCell s src cls id payload).books = s.books := rfl
@[simp] theorem queueCell_egress (s : State) (src cls id payload : Nat) : (queueCell s src cls id payload).egress = s.egress := rfl
@[simp] theorem queueCell_leaving (s : State) (src cls id payload : Nat) : (queueCell s src cls id payload).leaving = s.leaving := rfl
@[simp] theorem queueCell_lastRel (s : State) (src cls id payload : Nat) : (queueCell s src cls id payload).lastRel = s.lastRel := rfl
@[simp] theorem queueCell_diagFails (s : State) (src cls id payload : Nat) : (queueCell s src cls id payload).diagFails = s.diagFails := rfl
@[simp] theorem queueCell_issues (s : State) (src cls id payload : Nat) : (queueCell s src cls id payload).issues = s.issues := rfl
@[simp] theorem queueCell_express (s : State) (src cls id payload : Nat) : (queueCell s src cls id payload).express = s.express := rfl
@[simp] theorem queueCell_grants (s : State) (src cls id payload : Nat) : (queueCell s src cls id payload).grants = s.grants := rfl
@[simp] theorem queueCell_spans (s : State) (src cls id payload : Nat) : (queueCell s src cls id payload).spans = s.spans := rfl
@[simp] theorem queueCell_locks (s : State) (src cls id payload : Nat) : (queueCell s src cls id payload).locks = s.locks := rfl
@[simp] theorem queueCell_slots (s : State) (src cls id payload : Nat) : (queueCell s src cls id payload).slots = s.slots := rfl
@[simp] theorem queueCell_arbAge (s : State) (src cls id payload : Nat) : (queueCell s src cls id payload).arbAge = s.arbAge := rfl
@[simp] theorem queueCell_arbGrants (s : State) (src cls id payload : Nat) : (queueCell s src cls id payload).arbGrants = s.arbGrants := rfl
@[simp] theorem queueCell_arbWait (s : State) (src cls id payload : Nat) : (queueCell s src cls id payload).arbWait = s.arbWait := rfl
@[simp] theorem queueCell_cmds (s : State) (src cls id payload : Nat) : (queueCell s src cls id payload).cmds = s.cmds := rfl
@[simp] theorem queueCell_accepted (s : State) (src cls id payload : Nat) : (queueCell s src cls id payload).accepted = s.accepted := rfl
@[simp] theorem queueCell_updTurn (s : State) (src cls id payload : Nat) : (queueCell s src cls id payload).updTurn = s.updTurn := rfl
@[simp] theorem queueCell_scrubAt (s : State) (src cls id payload : Nat) : (queueCell s src cls id payload).scrubAt = s.scrubAt := rfl
@[simp] theorem queueCell_settled (s : State) (src cls id payload : Nat) : (queueCell s src cls id payload).settled = s.settled := rfl
@[simp] theorem queueCell_lanes (s : State) (src cls id payload : Nat) : (queueCell s src cls id payload).lanes = s.lanes := rfl
@[simp] theorem queueCell_starts (s : State) (src cls id payload : Nat) : (queueCell s src cls id payload).starts = s.starts := rfl
@[simp] theorem queueCell_guards (s : State) (src cls id payload : Nat) : (queueCell s src cls id payload).guards = s.guards := rfl
@[simp] theorem queueCell_twrites (s : State) (src cls id payload : Nat) : (queueCell s src cls id payload).twrites = s.twrites := rfl
@[simp] theorem queueCell_flips (s : State) (src cls id payload : Nat) : (queueCell s src cls id payload).flips = s.flips := rfl
@[simp] theorem queueCell_store (s : State) (src cls id payload : Nat) : (queueCell s src cls id payload).store = s.store := rfl
@[simp] theorem queueCell_storeEpoch (s : State) (src cls id payload : Nat) : (queueCell s src cls id payload).storeEpoch = s.storeEpoch := rfl
@[simp] theorem queueCell_cache (s : State) (src cls id payload : Nat) : (queueCell s src cls id payload).cache = s.cache := rfl
@[simp] theorem queueCell_fills (s : State) (src cls id payload : Nat) : (queueCell s src cls id payload).fills = s.fills := rfl
@[simp] theorem queueCell_bankBusy (s : State) (src cls id payload : Nat) : (queueCell s src cls id payload).bankBusy = s.bankBusy := rfl
@[simp] theorem queueCell_ports (s : State) (src cls id payload : Nat) : (queueCell s src cls id payload).ports = s.ports := rfl
@[simp] theorem queueCell_swAt (s : State) (src cls id payload : Nat) : (queueCell s src cls id payload).swAt = s.swAt := rfl
@[simp] theorem queueCell_rgnBad (s : State) (src cls id payload : Nat) : (queueCell s src cls id payload).rgnBad = s.rgnBad := rfl
@[simp] theorem queueCell_patrolAt (s : State) (src cls id payload : Nat) : (queueCell s src cls id payload).patrolAt = s.patrolAt := rfl
@[simp] theorem queueCell_mbuf (s : State) (src cls id payload : Nat) : (queueCell s src cls id payload).mbuf = s.mbuf := rfl
@[simp] theorem queueCell_steps (s : State) (src cls id payload : Nat) : (queueCell s src cls id payload).steps = s.steps := rfl
@[simp] theorem queueCell_swq (s : State) (src cls id payload : Nat) : (queueCell s src cls id payload).swq = s.swq := rfl
@[simp] theorem queueCell_walks (s : State) (src cls id payload : Nat) : (queueCell s src cls id payload).walks = s.walks := rfl
@[simp] theorem queueCell_wayErrAt (s : State) (src cls id payload : Nat) : (queueCell s src cls id payload).wayErrAt = s.wayErrAt := rfl
@[simp] theorem queueCell_promos (s : State) (src cls id payload : Nat) : (queueCell s src cls id payload).promos = s.promos := rfl
@[simp] theorem queueCell_fetches (s : State) (src cls id payload : Nat) : (queueCell s src cls id payload).fetches = s.fetches := rfl
@[simp] theorem queueCell_notices (s : State) (src cls id payload : Nat) : (queueCell s src cls id payload).notices = s.notices := rfl
@[simp] theorem queueCell_nseq (s : State) (src cls id payload : Nat) : (queueCell s src cls id payload).nseq = s.nseq := rfl
@[simp] theorem queueCell_kek (s : State) (src cls id payload : Nat) : (queueCell s src cls id payload).kek = s.kek := rfl
@[simp] theorem queueCell_keys (s : State) (src cls id payload : Nat) : (queueCell s src cls id payload).keys = s.keys := rfl
@[simp] theorem queueCell_cwrite (s : State) (src cls id payload : Nat) : (queueCell s src cls id payload).cwrite = s.cwrite := rfl
@[simp] theorem queueCell_authAt (s : State) (src cls id payload : Nat) : (queueCell s src cls id payload).authAt = s.authAt := rfl
@[simp] theorem queueCell_xlats (s : State) (src cls id payload : Nat) : (queueCell s src cls id payload).xlats = s.xlats := rfl
@[simp] theorem queueCell_invals (s : State) (src cls id payload : Nat) : (queueCell s src cls id payload).invals = s.invals := rfl
@[simp] theorem queueCell_cqPend (s : State) (src cls id payload : Nat) : (queueCell s src cls id payload).cqPend = s.cqPend := rfl
@[simp] theorem queueCell_cqUsed (s : State) (src cls id payload : Nat) : (queueCell s src cls id payload).cqUsed = s.cqUsed := rfl
@[simp] theorem queueCell_sqTail (s : State) (src cls id payload : Nat) : (queueCell s src cls id payload).sqTail = s.sqTail := rfl
@[simp] theorem queueCell_cqHead (s : State) (src cls id payload : Nat) : (queueCell s src cls id payload).cqHead = s.cqHead := rfl
@[simp] theorem queueCell_cqArmed (s : State) (src cls id payload : Nat) : (queueCell s src cls id payload).cqArmed = s.cqArmed := rfl
@[simp] theorem queueCell_eqArmed (s : State) (src cls id payload : Nat) : (queueCell s src cls id payload).eqArmed = s.eqArmed := rfl
@[simp] theorem queueCell_fetchedSq (s : State) (src cls id payload : Nat) : (queueCell s src cls id payload).fetchedSq = s.fetchedSq := rfl
@[simp] theorem queueCell_peers (s : State) (src cls id payload : Nat) : (queueCell s src cls id payload).peers = s.peers := rfl
@[simp] theorem queueCell_peerQ (s : State) (src cls id payload : Nat) : (queueCell s src cls id payload).peerQ = s.peerQ := rfl
@[simp] theorem queueCell_msixTab (s : State) (src cls id payload : Nat) : (queueCell s src cls id payload).msixTab = s.msixTab := rfl
@[simp] theorem queueCell_msixMask (s : State) (src cls id payload : Nat) : (queueCell s src cls id payload).msixMask = s.msixMask := rfl
@[simp] theorem queueCell_msixPend (s : State) (src cls id payload : Nat) : (queueCell s src cls id payload).msixPend = s.msixPend := rfl
@[simp] theorem queueCell_quar (s : State) (src cls id payload : Nat) : (queueCell s src cls id payload).quar = s.quar := rfl
@[simp] theorem queueCell_funcReady (s : State) (src cls id payload : Nat) : (queueCell s src cls id payload).funcReady = s.funcReady := rfl
@[simp] theorem queueCell_d3hot (s : State) (src cls id payload : Nat) : (queueCell s src cls id payload).d3hot = s.d3hot := rfl
@[simp] theorem queueCell_mgmt (s : State) (src cls id payload : Nat) : (queueCell s src cls id payload).mgmt = s.mgmt := rfl
@[simp] theorem queueCell_ringAir (s : State) (src cls id payload : Nat) : (queueCell s src cls id payload).ringAir = s.ringAir := rfl
@[simp] theorem queueCell_dropped (s : State) (src cls id payload : Nat) : (queueCell s src cls id payload).dropped = s.dropped := rfl
@[simp] theorem queueCell_relay (s : State) (src cls id payload : Nat) : (queueCell s src cls id payload).relay = s.relay := rfl
@[simp] theorem queueCell_homes (s : State) (src cls id payload : Nat) : (queueCell s src cls id payload).homes = s.homes := rfl
@[simp] theorem queueCell_link (s : State) (src cls id payload : Nat) : (queueCell s src cls id payload).link = s.link := rfl
@[simp] theorem queueCell_tim (s : State) (src cls id payload : Nat) : (queueCell s src cls id payload).tim = s.tim := rfl
@[simp] theorem queueCell_local_ (s : State) (src cls id payload : Nat) : (queueCell s src cls id payload).local_ = s.local_ := rfl
@[simp] theorem queueCell_evd (s : State) (src cls id payload : Nat) : (queueCell s src cls id payload).evd = s.evd := rfl
@[simp] theorem queueCell_doms (s : State) (src cls id payload : Nat) : (queueCell s src cls id payload).doms = s.doms := rfl
@[simp] theorem queueCell_sm (s : State) (src cls id payload : Nat) : (queueCell s src cls id payload).sm = s.sm := rfl
@[simp] theorem queueCell_golden (s : State) (src cls id payload : Nat) : (queueCell s src cls id payload).golden = s.golden := rfl
@[simp] theorem queueCell_goldVec (s : State) (src cls id payload : Nat) : (queueCell s src cls id payload).goldVec = s.goldVec := rfl
@[simp] theorem queueCell_extAt (s : State) (src cls id payload : Nat) : (queueCell s src cls id payload).extAt = s.extAt := rfl
@[simp] theorem queueCell_bsq (s : State) (src cls id payload : Nat) : (queueCell s src cls id payload).bsq = s.bsq := rfl
@[simp] theorem queueCell_msCmd (s : State) (src cls id payload : Nat) : (queueCell s src cls id payload).msCmd = s.msCmd := rfl
@[simp] theorem queueCell_escal (s : State) (src cls id payload : Nat) : (queueCell s src cls id payload).escal = s.escal := rfl
@[simp] theorem queueCell_unlock (s : State) (src cls id payload : Nat) : (queueCell s src cls id payload).unlock = s.unlock := rfl
@[simp] theorem queueCell_fuseSvn (s : State) (src cls id payload : Nat) : (queueCell s src cls id payload).fuseSvn = s.fuseSvn := rfl
@[simp] theorem queueCell_fuseRevoked (s : State) (src cls id payload : Nat) : (queueCell s src cls id payload).fuseRevoked = s.fuseRevoked := rfl
@[simp] theorem queueCell_idKey (s : State) (src cls id payload : Nat) : (queueCell s src cls id payload).idKey = s.idKey := rfl
@[simp] theorem queueCell_lostDies (s : State) (src cls id payload : Nat) : (queueCell s src cls id payload).lostDies = s.lostDies := rfl
@[simp] theorem queueCell_heldDies (s : State) (src cls id payload : Nat) : (queueCell s src cls id payload).heldDies = s.heldDies := rfl
@[simp] theorem queueCell_fencedDev (s : State) (src cls id payload : Nat) : (queueCell s src cls id payload).fencedDev = s.fencedDev := rfl
@[simp] theorem queueCell_inReset (s : State) (src cls id payload : Nat) : (queueCell s src cls id payload).inReset = s.inReset := rfl
@[simp] theorem queueCell_rejoins (s : State) (src cls id payload : Nat) : (queueCell s src cls id payload).rejoins = s.rejoins := rfl
@[simp] theorem queueCell_loading (s : State) (src cls id payload : Nat) : (queueCell s src cls id payload).loading = s.loading := rfl
@[simp] theorem queueCell_tap (s : State) (src cls id payload : Nat) : (queueCell s src cls id payload).tap = s.tap := rfl
@[simp] theorem queueCell_out (s : State) (src cls id payload : Nat) : (queueCell s src cls id payload).out = s.out := rfl
@[simp] theorem getF_queueCell (s : State) (src cls id payload : Nat) (e : Nat) (g : Fld) (c : Nat) : getF (queueCell s src cls id payload) e g c = getF s e g c := rfl
@[simp] theorem getT_queueCell (s : State) (src cls id payload : Nat) (e u : Nat) : getT (queueCell s src cls id payload) e u = getT s e u := rfl
@[simp] theorem getDom_queueCell (s : State) (src cls id payload : Nat) (e u : Nat) : getDom (queueCell s src cls id payload) e u = getDom s e u := rfl
@[simp] theorem present_queueCell (s : State) (src cls id payload : Nat) (e p : Nat) : present (queueCell s src cls id payload) e p = present s e p := rfl

/-! ## setHome -/

@[simp] theorem setHome_pending (s : State) (c d : Nat) : (setHome s c d).pending = s.pending := rfl
@[simp] theorem setHome_part (s : State) (c d : Nat) : (setHome s c d).part = s.part := rfl
@[simp] theorem setHome_cyc (s : State) (c d : Nat) : (setHome s c d).cyc = s.cyc := rfl
@[simp] theorem setHome_free (s : State) (c d : Nat) : (setHome s c d).free = s.free := rfl
@[simp] theorem setHome_nextId (s : State) (c d : Nat) : (setHome s c d).nextId = s.nextId := rfl
@[simp] theorem setHome_regs (s : State) (c d : Nat) : (setHome s c d).regs = s.regs := rfl
@[simp] theorem setHome_rows (s : State) (c d : Nat) : (setHome s c d).rows = s.rows := rfl
@[simp] theorem setHome_susq (s : State) (c d : Nat) : (setHome s c d).susq = s.susq := rfl
@[simp] theorem setHome_selCnt (s : State) (c d : Nat) : (setHome s c d).selCnt = s.selCnt := rfl
@[simp] theorem setHome_blank (s : State) (c d : Nat) : (setHome s c d).blank = s.blank := rfl
@[simp] theorem setHome_searches (s : State) (c d : Nat) : (setHome s c d).searches = s.searches := rfl
@[simp] theorem setHome_pairChecks (s : State) (c d : Nat) : (setHome s c d).pairChecks = s.pairChecks := rfl
@[simp] theorem setHome_missed (s : State) (c d : Nat) : (setHome s c d).missed = s.missed := rfl
@[simp] theorem setHome_snaps (s : State) (c d : Nat) : (setHome s c d).snaps = s.snaps := rfl
@[simp] theorem setHome_latches (s : State) (c d : Nat) : (setHome s c d).latches = s.latches := rfl
@[simp] theorem setHome_recipe (s : State) (c d : Nat) : (setHome s c d).recipe = s.recipe := rfl
@[simp] theorem setHome_stepEnts (s : State) (c d : Nat) : (setHome s c d).stepEnts = s.stepEnts := rfl
@[simp] theorem setHome_plans (s : State) (c d : Nat) : (setHome s c d).plans = s.plans := rfl
@[simp] theorem setHome_threads (s : State) (c d : Nat) : (setHome s c d).threads = s.threads := rfl
@[simp] theorem setHome_evch (s : State) (c d : Nat) : (setHome s c d).evch = s.evch := rfl
@[simp] theorem setHome_fltq (s : State) (c d : Nat) : (setHome s c d).fltq = s.fltq := rfl
@[simp] theorem setHome_forkWait (s : State) (c d : Nat) : (setHome s c d).forkWait = s.forkWait := rfl
@[simp] theorem setHome_quiesce (s : State) (c d : Nat) : (setHome s c d).quiesce = s.quiesce := rfl
@[simp] theorem setHome_reqs (s : State) (c d : Nat) : (setHome s c d).reqs = s.reqs := rfl
@[simp] theorem setHome_books (s : State) (c d : Nat) : (setHome s c d).books = s.books := rfl
@[simp] theorem setHome_egress (s : State) (c d : Nat) : (setHome s c d).egress = s.egress := rfl
@[simp] theorem setHome_leaving (s : State) (c d : Nat) : (setHome s c d).leaving = s.leaving := rfl
@[simp] theorem setHome_lastRel (s : State) (c d : Nat) : (setHome s c d).lastRel = s.lastRel := rfl
@[simp] theorem setHome_diagFails (s : State) (c d : Nat) : (setHome s c d).diagFails = s.diagFails := rfl
@[simp] theorem setHome_issues (s : State) (c d : Nat) : (setHome s c d).issues = s.issues := rfl
@[simp] theorem setHome_express (s : State) (c d : Nat) : (setHome s c d).express = s.express := rfl
@[simp] theorem setHome_grants (s : State) (c d : Nat) : (setHome s c d).grants = s.grants := rfl
@[simp] theorem setHome_spans (s : State) (c d : Nat) : (setHome s c d).spans = s.spans := rfl
@[simp] theorem setHome_locks (s : State) (c d : Nat) : (setHome s c d).locks = s.locks := rfl
@[simp] theorem setHome_slots (s : State) (c d : Nat) : (setHome s c d).slots = s.slots := rfl
@[simp] theorem setHome_arbAge (s : State) (c d : Nat) : (setHome s c d).arbAge = s.arbAge := rfl
@[simp] theorem setHome_arbGrants (s : State) (c d : Nat) : (setHome s c d).arbGrants = s.arbGrants := rfl
@[simp] theorem setHome_arbWait (s : State) (c d : Nat) : (setHome s c d).arbWait = s.arbWait := rfl
@[simp] theorem setHome_cmds (s : State) (c d : Nat) : (setHome s c d).cmds = s.cmds := rfl
@[simp] theorem setHome_accepted (s : State) (c d : Nat) : (setHome s c d).accepted = s.accepted := rfl
@[simp] theorem setHome_updTurn (s : State) (c d : Nat) : (setHome s c d).updTurn = s.updTurn := rfl
@[simp] theorem setHome_scrubAt (s : State) (c d : Nat) : (setHome s c d).scrubAt = s.scrubAt := rfl
@[simp] theorem setHome_settled (s : State) (c d : Nat) : (setHome s c d).settled = s.settled := rfl
@[simp] theorem setHome_lanes (s : State) (c d : Nat) : (setHome s c d).lanes = s.lanes := rfl
@[simp] theorem setHome_starts (s : State) (c d : Nat) : (setHome s c d).starts = s.starts := rfl
@[simp] theorem setHome_guards (s : State) (c d : Nat) : (setHome s c d).guards = s.guards := rfl
@[simp] theorem setHome_twrites (s : State) (c d : Nat) : (setHome s c d).twrites = s.twrites := rfl
@[simp] theorem setHome_flips (s : State) (c d : Nat) : (setHome s c d).flips = s.flips := rfl
@[simp] theorem setHome_store (s : State) (c d : Nat) : (setHome s c d).store = s.store := rfl
@[simp] theorem setHome_storeEpoch (s : State) (c d : Nat) : (setHome s c d).storeEpoch = s.storeEpoch := rfl
@[simp] theorem setHome_cache (s : State) (c d : Nat) : (setHome s c d).cache = s.cache := rfl
@[simp] theorem setHome_fills (s : State) (c d : Nat) : (setHome s c d).fills = s.fills := rfl
@[simp] theorem setHome_bankBusy (s : State) (c d : Nat) : (setHome s c d).bankBusy = s.bankBusy := rfl
@[simp] theorem setHome_ports (s : State) (c d : Nat) : (setHome s c d).ports = s.ports := rfl
@[simp] theorem setHome_swAt (s : State) (c d : Nat) : (setHome s c d).swAt = s.swAt := rfl
@[simp] theorem setHome_rgnBad (s : State) (c d : Nat) : (setHome s c d).rgnBad = s.rgnBad := rfl
@[simp] theorem setHome_patrolAt (s : State) (c d : Nat) : (setHome s c d).patrolAt = s.patrolAt := rfl
@[simp] theorem setHome_mbuf (s : State) (c d : Nat) : (setHome s c d).mbuf = s.mbuf := rfl
@[simp] theorem setHome_steps (s : State) (c d : Nat) : (setHome s c d).steps = s.steps := rfl
@[simp] theorem setHome_swq (s : State) (c d : Nat) : (setHome s c d).swq = s.swq := rfl
@[simp] theorem setHome_walks (s : State) (c d : Nat) : (setHome s c d).walks = s.walks := rfl
@[simp] theorem setHome_wayErrAt (s : State) (c d : Nat) : (setHome s c d).wayErrAt = s.wayErrAt := rfl
@[simp] theorem setHome_promos (s : State) (c d : Nat) : (setHome s c d).promos = s.promos := rfl
@[simp] theorem setHome_fetches (s : State) (c d : Nat) : (setHome s c d).fetches = s.fetches := rfl
@[simp] theorem setHome_notices (s : State) (c d : Nat) : (setHome s c d).notices = s.notices := rfl
@[simp] theorem setHome_nseq (s : State) (c d : Nat) : (setHome s c d).nseq = s.nseq := rfl
@[simp] theorem setHome_kek (s : State) (c d : Nat) : (setHome s c d).kek = s.kek := rfl
@[simp] theorem setHome_keys (s : State) (c d : Nat) : (setHome s c d).keys = s.keys := rfl
@[simp] theorem setHome_cwrite (s : State) (c d : Nat) : (setHome s c d).cwrite = s.cwrite := rfl
@[simp] theorem setHome_authAt (s : State) (c d : Nat) : (setHome s c d).authAt = s.authAt := rfl
@[simp] theorem setHome_xlats (s : State) (c d : Nat) : (setHome s c d).xlats = s.xlats := rfl
@[simp] theorem setHome_invals (s : State) (c d : Nat) : (setHome s c d).invals = s.invals := rfl
@[simp] theorem setHome_cqPend (s : State) (c d : Nat) : (setHome s c d).cqPend = s.cqPend := rfl
@[simp] theorem setHome_cqUsed (s : State) (c d : Nat) : (setHome s c d).cqUsed = s.cqUsed := rfl
@[simp] theorem setHome_sqTail (s : State) (c d : Nat) : (setHome s c d).sqTail = s.sqTail := rfl
@[simp] theorem setHome_cqHead (s : State) (c d : Nat) : (setHome s c d).cqHead = s.cqHead := rfl
@[simp] theorem setHome_cqArmed (s : State) (c d : Nat) : (setHome s c d).cqArmed = s.cqArmed := rfl
@[simp] theorem setHome_eqArmed (s : State) (c d : Nat) : (setHome s c d).eqArmed = s.eqArmed := rfl
@[simp] theorem setHome_fetchedSq (s : State) (c d : Nat) : (setHome s c d).fetchedSq = s.fetchedSq := rfl
@[simp] theorem setHome_peers (s : State) (c d : Nat) : (setHome s c d).peers = s.peers := rfl
@[simp] theorem setHome_peerQ (s : State) (c d : Nat) : (setHome s c d).peerQ = s.peerQ := rfl
@[simp] theorem setHome_msixTab (s : State) (c d : Nat) : (setHome s c d).msixTab = s.msixTab := rfl
@[simp] theorem setHome_msixMask (s : State) (c d : Nat) : (setHome s c d).msixMask = s.msixMask := rfl
@[simp] theorem setHome_msixPend (s : State) (c d : Nat) : (setHome s c d).msixPend = s.msixPend := rfl
@[simp] theorem setHome_quar (s : State) (c d : Nat) : (setHome s c d).quar = s.quar := rfl
@[simp] theorem setHome_funcReady (s : State) (c d : Nat) : (setHome s c d).funcReady = s.funcReady := rfl
@[simp] theorem setHome_d3hot (s : State) (c d : Nat) : (setHome s c d).d3hot = s.d3hot := rfl
@[simp] theorem setHome_mgmt (s : State) (c d : Nat) : (setHome s c d).mgmt = s.mgmt := rfl
@[simp] theorem setHome_ringQ (s : State) (c d : Nat) : (setHome s c d).ringQ = s.ringQ := rfl
@[simp] theorem setHome_ringAir (s : State) (c d : Nat) : (setHome s c d).ringAir = s.ringAir := rfl
@[simp] theorem setHome_dropped (s : State) (c d : Nat) : (setHome s c d).dropped = s.dropped := rfl
@[simp] theorem setHome_relay (s : State) (c d : Nat) : (setHome s c d).relay = s.relay := rfl
@[simp] theorem setHome_link (s : State) (c d : Nat) : (setHome s c d).link = s.link := rfl
@[simp] theorem setHome_tim (s : State) (c d : Nat) : (setHome s c d).tim = s.tim := rfl
@[simp] theorem setHome_local_ (s : State) (c d : Nat) : (setHome s c d).local_ = s.local_ := rfl
@[simp] theorem setHome_evd (s : State) (c d : Nat) : (setHome s c d).evd = s.evd := rfl
@[simp] theorem setHome_doms (s : State) (c d : Nat) : (setHome s c d).doms = s.doms := rfl
@[simp] theorem setHome_sm (s : State) (c d : Nat) : (setHome s c d).sm = s.sm := rfl
@[simp] theorem setHome_golden (s : State) (c d : Nat) : (setHome s c d).golden = s.golden := rfl
@[simp] theorem setHome_goldVec (s : State) (c d : Nat) : (setHome s c d).goldVec = s.goldVec := rfl
@[simp] theorem setHome_extAt (s : State) (c d : Nat) : (setHome s c d).extAt = s.extAt := rfl
@[simp] theorem setHome_bsq (s : State) (c d : Nat) : (setHome s c d).bsq = s.bsq := rfl
@[simp] theorem setHome_msCmd (s : State) (c d : Nat) : (setHome s c d).msCmd = s.msCmd := rfl
@[simp] theorem setHome_escal (s : State) (c d : Nat) : (setHome s c d).escal = s.escal := rfl
@[simp] theorem setHome_unlock (s : State) (c d : Nat) : (setHome s c d).unlock = s.unlock := rfl
@[simp] theorem setHome_fuseSvn (s : State) (c d : Nat) : (setHome s c d).fuseSvn = s.fuseSvn := rfl
@[simp] theorem setHome_fuseRevoked (s : State) (c d : Nat) : (setHome s c d).fuseRevoked = s.fuseRevoked := rfl
@[simp] theorem setHome_idKey (s : State) (c d : Nat) : (setHome s c d).idKey = s.idKey := rfl
@[simp] theorem setHome_lostDies (s : State) (c d : Nat) : (setHome s c d).lostDies = s.lostDies := rfl
@[simp] theorem setHome_heldDies (s : State) (c d : Nat) : (setHome s c d).heldDies = s.heldDies := rfl
@[simp] theorem setHome_fencedDev (s : State) (c d : Nat) : (setHome s c d).fencedDev = s.fencedDev := rfl
@[simp] theorem setHome_inReset (s : State) (c d : Nat) : (setHome s c d).inReset = s.inReset := rfl
@[simp] theorem setHome_rejoins (s : State) (c d : Nat) : (setHome s c d).rejoins = s.rejoins := rfl
@[simp] theorem setHome_loading (s : State) (c d : Nat) : (setHome s c d).loading = s.loading := rfl
@[simp] theorem setHome_tap (s : State) (c d : Nat) : (setHome s c d).tap = s.tap := rfl
@[simp] theorem setHome_out (s : State) (c d : Nat) : (setHome s c d).out = s.out := rfl
@[simp] theorem getF_setHome (s : State) (c d : Nat) (e : Nat) (g : Fld) (c : Nat) : getF (setHome s c d) e g c = getF s e g c := rfl
@[simp] theorem getT_setHome (s : State) (c d : Nat) (e u : Nat) : getT (setHome s c d) e u = getT s e u := rfl
@[simp] theorem getDom_setHome (s : State) (c d : Nat) (e u : Nat) : getDom (setHome s c d) e u = getDom s e u := rfl
@[simp] theorem present_setHome (s : State) (c d : Nat) (e p : Nat) : present (setHome s c d) e p = present s e p := rfl

/-! ## loseDie -/

@[simp] theorem loseDie_pending (s : State) (d : Nat) : (loseDie s d).pending = s.pending := rfl
@[simp] theorem loseDie_part (s : State) (d : Nat) : (loseDie s d).part = s.part := rfl
@[simp] theorem loseDie_cyc (s : State) (d : Nat) : (loseDie s d).cyc = s.cyc := rfl
@[simp] theorem loseDie_free (s : State) (d : Nat) : (loseDie s d).free = s.free := rfl
@[simp] theorem loseDie_nextId (s : State) (d : Nat) : (loseDie s d).nextId = s.nextId := rfl
@[simp] theorem loseDie_regs (s : State) (d : Nat) : (loseDie s d).regs = s.regs := rfl
@[simp] theorem loseDie_rows (s : State) (d : Nat) : (loseDie s d).rows = s.rows := rfl
@[simp] theorem loseDie_susq (s : State) (d : Nat) : (loseDie s d).susq = s.susq := rfl
@[simp] theorem loseDie_selCnt (s : State) (d : Nat) : (loseDie s d).selCnt = s.selCnt := rfl
@[simp] theorem loseDie_blank (s : State) (d : Nat) : (loseDie s d).blank = s.blank := rfl
@[simp] theorem loseDie_searches (s : State) (d : Nat) : (loseDie s d).searches = s.searches := rfl
@[simp] theorem loseDie_pairChecks (s : State) (d : Nat) : (loseDie s d).pairChecks = s.pairChecks := rfl
@[simp] theorem loseDie_missed (s : State) (d : Nat) : (loseDie s d).missed = s.missed := rfl
@[simp] theorem loseDie_snaps (s : State) (d : Nat) : (loseDie s d).snaps = s.snaps := rfl
@[simp] theorem loseDie_latches (s : State) (d : Nat) : (loseDie s d).latches = s.latches := rfl
@[simp] theorem loseDie_recipe (s : State) (d : Nat) : (loseDie s d).recipe = s.recipe := rfl
@[simp] theorem loseDie_stepEnts (s : State) (d : Nat) : (loseDie s d).stepEnts = s.stepEnts := rfl
@[simp] theorem loseDie_plans (s : State) (d : Nat) : (loseDie s d).plans = s.plans := rfl
@[simp] theorem loseDie_threads (s : State) (d : Nat) : (loseDie s d).threads = s.threads := rfl
@[simp] theorem loseDie_evch (s : State) (d : Nat) : (loseDie s d).evch = s.evch := rfl
@[simp] theorem loseDie_fltq (s : State) (d : Nat) : (loseDie s d).fltq = s.fltq := rfl
@[simp] theorem loseDie_forkWait (s : State) (d : Nat) : (loseDie s d).forkWait = s.forkWait := rfl
@[simp] theorem loseDie_quiesce (s : State) (d : Nat) : (loseDie s d).quiesce = s.quiesce := rfl
@[simp] theorem loseDie_reqs (s : State) (d : Nat) : (loseDie s d).reqs = s.reqs := rfl
@[simp] theorem loseDie_books (s : State) (d : Nat) : (loseDie s d).books = s.books := rfl
@[simp] theorem loseDie_egress (s : State) (d : Nat) : (loseDie s d).egress = s.egress := rfl
@[simp] theorem loseDie_leaving (s : State) (d : Nat) : (loseDie s d).leaving = s.leaving := rfl
@[simp] theorem loseDie_lastRel (s : State) (d : Nat) : (loseDie s d).lastRel = s.lastRel := rfl
@[simp] theorem loseDie_diagFails (s : State) (d : Nat) : (loseDie s d).diagFails = s.diagFails := rfl
@[simp] theorem loseDie_issues (s : State) (d : Nat) : (loseDie s d).issues = s.issues := rfl
@[simp] theorem loseDie_express (s : State) (d : Nat) : (loseDie s d).express = s.express := rfl
@[simp] theorem loseDie_grants (s : State) (d : Nat) : (loseDie s d).grants = s.grants := rfl
@[simp] theorem loseDie_spans (s : State) (d : Nat) : (loseDie s d).spans = s.spans := rfl
@[simp] theorem loseDie_locks (s : State) (d : Nat) : (loseDie s d).locks = s.locks := rfl
@[simp] theorem loseDie_slots (s : State) (d : Nat) : (loseDie s d).slots = s.slots := rfl
@[simp] theorem loseDie_arbAge (s : State) (d : Nat) : (loseDie s d).arbAge = s.arbAge := rfl
@[simp] theorem loseDie_arbGrants (s : State) (d : Nat) : (loseDie s d).arbGrants = s.arbGrants := rfl
@[simp] theorem loseDie_arbWait (s : State) (d : Nat) : (loseDie s d).arbWait = s.arbWait := rfl
@[simp] theorem loseDie_cmds (s : State) (d : Nat) : (loseDie s d).cmds = s.cmds := rfl
@[simp] theorem loseDie_accepted (s : State) (d : Nat) : (loseDie s d).accepted = s.accepted := rfl
@[simp] theorem loseDie_updTurn (s : State) (d : Nat) : (loseDie s d).updTurn = s.updTurn := rfl
@[simp] theorem loseDie_scrubAt (s : State) (d : Nat) : (loseDie s d).scrubAt = s.scrubAt := rfl
@[simp] theorem loseDie_settled (s : State) (d : Nat) : (loseDie s d).settled = s.settled := rfl
@[simp] theorem loseDie_lanes (s : State) (d : Nat) : (loseDie s d).lanes = s.lanes := rfl
@[simp] theorem loseDie_starts (s : State) (d : Nat) : (loseDie s d).starts = s.starts := rfl
@[simp] theorem loseDie_guards (s : State) (d : Nat) : (loseDie s d).guards = s.guards := rfl
@[simp] theorem loseDie_twrites (s : State) (d : Nat) : (loseDie s d).twrites = s.twrites := rfl
@[simp] theorem loseDie_flips (s : State) (d : Nat) : (loseDie s d).flips = s.flips := rfl
@[simp] theorem loseDie_store (s : State) (d : Nat) : (loseDie s d).store = s.store := rfl
@[simp] theorem loseDie_storeEpoch (s : State) (d : Nat) : (loseDie s d).storeEpoch = s.storeEpoch := rfl
@[simp] theorem loseDie_cache (s : State) (d : Nat) : (loseDie s d).cache = s.cache := rfl
@[simp] theorem loseDie_fills (s : State) (d : Nat) : (loseDie s d).fills = s.fills := rfl
@[simp] theorem loseDie_bankBusy (s : State) (d : Nat) : (loseDie s d).bankBusy = s.bankBusy := rfl
@[simp] theorem loseDie_ports (s : State) (d : Nat) : (loseDie s d).ports = s.ports := rfl
@[simp] theorem loseDie_swAt (s : State) (d : Nat) : (loseDie s d).swAt = s.swAt := rfl
@[simp] theorem loseDie_rgnBad (s : State) (d : Nat) : (loseDie s d).rgnBad = s.rgnBad := rfl
@[simp] theorem loseDie_patrolAt (s : State) (d : Nat) : (loseDie s d).patrolAt = s.patrolAt := rfl
@[simp] theorem loseDie_mbuf (s : State) (d : Nat) : (loseDie s d).mbuf = s.mbuf := rfl
@[simp] theorem loseDie_steps (s : State) (d : Nat) : (loseDie s d).steps = s.steps := rfl
@[simp] theorem loseDie_swq (s : State) (d : Nat) : (loseDie s d).swq = s.swq := rfl
@[simp] theorem loseDie_walks (s : State) (d : Nat) : (loseDie s d).walks = s.walks := rfl
@[simp] theorem loseDie_wayErrAt (s : State) (d : Nat) : (loseDie s d).wayErrAt = s.wayErrAt := rfl
@[simp] theorem loseDie_promos (s : State) (d : Nat) : (loseDie s d).promos = s.promos := rfl
@[simp] theorem loseDie_fetches (s : State) (d : Nat) : (loseDie s d).fetches = s.fetches := rfl
@[simp] theorem loseDie_notices (s : State) (d : Nat) : (loseDie s d).notices = s.notices := rfl
@[simp] theorem loseDie_nseq (s : State) (d : Nat) : (loseDie s d).nseq = s.nseq := rfl
@[simp] theorem loseDie_kek (s : State) (d : Nat) : (loseDie s d).kek = s.kek := rfl
@[simp] theorem loseDie_keys (s : State) (d : Nat) : (loseDie s d).keys = s.keys := rfl
@[simp] theorem loseDie_cwrite (s : State) (d : Nat) : (loseDie s d).cwrite = s.cwrite := rfl
@[simp] theorem loseDie_authAt (s : State) (d : Nat) : (loseDie s d).authAt = s.authAt := rfl
@[simp] theorem loseDie_xlats (s : State) (d : Nat) : (loseDie s d).xlats = s.xlats := rfl
@[simp] theorem loseDie_invals (s : State) (d : Nat) : (loseDie s d).invals = s.invals := rfl
@[simp] theorem loseDie_cqPend (s : State) (d : Nat) : (loseDie s d).cqPend = s.cqPend := rfl
@[simp] theorem loseDie_cqUsed (s : State) (d : Nat) : (loseDie s d).cqUsed = s.cqUsed := rfl
@[simp] theorem loseDie_sqTail (s : State) (d : Nat) : (loseDie s d).sqTail = s.sqTail := rfl
@[simp] theorem loseDie_cqHead (s : State) (d : Nat) : (loseDie s d).cqHead = s.cqHead := rfl
@[simp] theorem loseDie_cqArmed (s : State) (d : Nat) : (loseDie s d).cqArmed = s.cqArmed := rfl
@[simp] theorem loseDie_eqArmed (s : State) (d : Nat) : (loseDie s d).eqArmed = s.eqArmed := rfl
@[simp] theorem loseDie_fetchedSq (s : State) (d : Nat) : (loseDie s d).fetchedSq = s.fetchedSq := rfl
@[simp] theorem loseDie_peers (s : State) (d : Nat) : (loseDie s d).peers = s.peers := rfl
@[simp] theorem loseDie_peerQ (s : State) (d : Nat) : (loseDie s d).peerQ = s.peerQ := rfl
@[simp] theorem loseDie_msixTab (s : State) (d : Nat) : (loseDie s d).msixTab = s.msixTab := rfl
@[simp] theorem loseDie_msixMask (s : State) (d : Nat) : (loseDie s d).msixMask = s.msixMask := rfl
@[simp] theorem loseDie_msixPend (s : State) (d : Nat) : (loseDie s d).msixPend = s.msixPend := rfl
@[simp] theorem loseDie_quar (s : State) (d : Nat) : (loseDie s d).quar = s.quar := rfl
@[simp] theorem loseDie_funcReady (s : State) (d : Nat) : (loseDie s d).funcReady = s.funcReady := rfl
@[simp] theorem loseDie_d3hot (s : State) (d : Nat) : (loseDie s d).d3hot = s.d3hot := rfl
@[simp] theorem loseDie_mgmt (s : State) (d : Nat) : (loseDie s d).mgmt = s.mgmt := rfl
@[simp] theorem loseDie_ringQ (s : State) (d : Nat) : (loseDie s d).ringQ = s.ringQ := rfl
@[simp] theorem loseDie_ringAir (s : State) (d : Nat) : (loseDie s d).ringAir = s.ringAir := rfl
@[simp] theorem loseDie_dropped (s : State) (d : Nat) : (loseDie s d).dropped = s.dropped := rfl
@[simp] theorem loseDie_relay (s : State) (d : Nat) : (loseDie s d).relay = s.relay := rfl
@[simp] theorem loseDie_homes (s : State) (d : Nat) : (loseDie s d).homes = s.homes := rfl
@[simp] theorem loseDie_link (s : State) (d : Nat) : (loseDie s d).link = s.link := rfl
@[simp] theorem loseDie_tim (s : State) (d : Nat) : (loseDie s d).tim = s.tim := rfl
@[simp] theorem loseDie_local_ (s : State) (d : Nat) : (loseDie s d).local_ = s.local_ := rfl
@[simp] theorem loseDie_evd (s : State) (d : Nat) : (loseDie s d).evd = s.evd := rfl
@[simp] theorem loseDie_doms (s : State) (d : Nat) : (loseDie s d).doms = s.doms := rfl
@[simp] theorem loseDie_sm (s : State) (d : Nat) : (loseDie s d).sm = s.sm := rfl
@[simp] theorem loseDie_golden (s : State) (d : Nat) : (loseDie s d).golden = s.golden := rfl
@[simp] theorem loseDie_goldVec (s : State) (d : Nat) : (loseDie s d).goldVec = s.goldVec := rfl
@[simp] theorem loseDie_extAt (s : State) (d : Nat) : (loseDie s d).extAt = s.extAt := rfl
@[simp] theorem loseDie_bsq (s : State) (d : Nat) : (loseDie s d).bsq = s.bsq := rfl
@[simp] theorem loseDie_msCmd (s : State) (d : Nat) : (loseDie s d).msCmd = s.msCmd := rfl
@[simp] theorem loseDie_escal (s : State) (d : Nat) : (loseDie s d).escal = s.escal := rfl
@[simp] theorem loseDie_unlock (s : State) (d : Nat) : (loseDie s d).unlock = s.unlock := rfl
@[simp] theorem loseDie_fuseSvn (s : State) (d : Nat) : (loseDie s d).fuseSvn = s.fuseSvn := rfl
@[simp] theorem loseDie_fuseRevoked (s : State) (d : Nat) : (loseDie s d).fuseRevoked = s.fuseRevoked := rfl
@[simp] theorem loseDie_idKey (s : State) (d : Nat) : (loseDie s d).idKey = s.idKey := rfl
@[simp] theorem loseDie_heldDies (s : State) (d : Nat) : (loseDie s d).heldDies = s.heldDies := rfl
@[simp] theorem loseDie_fencedDev (s : State) (d : Nat) : (loseDie s d).fencedDev = s.fencedDev := rfl
@[simp] theorem loseDie_inReset (s : State) (d : Nat) : (loseDie s d).inReset = s.inReset := rfl
@[simp] theorem loseDie_rejoins (s : State) (d : Nat) : (loseDie s d).rejoins = s.rejoins := rfl
@[simp] theorem loseDie_loading (s : State) (d : Nat) : (loseDie s d).loading = s.loading := rfl
@[simp] theorem loseDie_tap (s : State) (d : Nat) : (loseDie s d).tap = s.tap := rfl
@[simp] theorem loseDie_out (s : State) (d : Nat) : (loseDie s d).out = s.out := rfl
@[simp] theorem getF_loseDie (s : State) (d : Nat) (e : Nat) (g : Fld) (c : Nat) : getF (loseDie s d) e g c = getF s e g c := rfl
@[simp] theorem getT_loseDie (s : State) (d : Nat) (e u : Nat) : getT (loseDie s d) e u = getT s e u := rfl
@[simp] theorem getDom_loseDie (s : State) (d : Nat) (e u : Nat) : getDom (loseDie s d) e u = getDom s e u := rfl
@[simp] theorem present_loseDie (s : State) (d : Nat) (e p : Nat) : present (loseDie s d) e p = present s e p := rfl

/-! ## raiseErr -/

@[simp] theorem raiseErr_pending (s : State) (d pg bit : Nat) (i : ErrItem) : (raiseErr s d pg bit i).pending = s.pending := by rw [(errOnly_raiseErr s d pg bit i).rest]
@[simp] theorem raiseErr_part (s : State) (d pg bit : Nat) (i : ErrItem) : (raiseErr s d pg bit i).part = s.part := by rw [(errOnly_raiseErr s d pg bit i).rest]
@[simp] theorem raiseErr_cyc (s : State) (d pg bit : Nat) (i : ErrItem) : (raiseErr s d pg bit i).cyc = s.cyc := by rw [(errOnly_raiseErr s d pg bit i).rest]
@[simp] theorem raiseErr_free (s : State) (d pg bit : Nat) (i : ErrItem) : (raiseErr s d pg bit i).free = s.free := by rw [(errOnly_raiseErr s d pg bit i).rest]
@[simp] theorem raiseErr_nextId (s : State) (d pg bit : Nat) (i : ErrItem) : (raiseErr s d pg bit i).nextId = s.nextId := by rw [(errOnly_raiseErr s d pg bit i).rest]
@[simp] theorem raiseErr_rows (s : State) (d pg bit : Nat) (i : ErrItem) : (raiseErr s d pg bit i).rows = s.rows := by rw [(errOnly_raiseErr s d pg bit i).rest]
@[simp] theorem raiseErr_susq (s : State) (d pg bit : Nat) (i : ErrItem) : (raiseErr s d pg bit i).susq = s.susq := by rw [(errOnly_raiseErr s d pg bit i).rest]
@[simp] theorem raiseErr_selCnt (s : State) (d pg bit : Nat) (i : ErrItem) : (raiseErr s d pg bit i).selCnt = s.selCnt := by rw [(errOnly_raiseErr s d pg bit i).rest]
@[simp] theorem raiseErr_blank (s : State) (d pg bit : Nat) (i : ErrItem) : (raiseErr s d pg bit i).blank = s.blank := by rw [(errOnly_raiseErr s d pg bit i).rest]
@[simp] theorem raiseErr_searches (s : State) (d pg bit : Nat) (i : ErrItem) : (raiseErr s d pg bit i).searches = s.searches := by rw [(errOnly_raiseErr s d pg bit i).rest]
@[simp] theorem raiseErr_pairChecks (s : State) (d pg bit : Nat) (i : ErrItem) : (raiseErr s d pg bit i).pairChecks = s.pairChecks := by rw [(errOnly_raiseErr s d pg bit i).rest]
@[simp] theorem raiseErr_missed (s : State) (d pg bit : Nat) (i : ErrItem) : (raiseErr s d pg bit i).missed = s.missed := by rw [(errOnly_raiseErr s d pg bit i).rest]
@[simp] theorem raiseErr_snaps (s : State) (d pg bit : Nat) (i : ErrItem) : (raiseErr s d pg bit i).snaps = s.snaps := by rw [(errOnly_raiseErr s d pg bit i).rest]
@[simp] theorem raiseErr_latches (s : State) (d pg bit : Nat) (i : ErrItem) : (raiseErr s d pg bit i).latches = s.latches := by rw [(errOnly_raiseErr s d pg bit i).rest]
@[simp] theorem raiseErr_recipe (s : State) (d pg bit : Nat) (i : ErrItem) : (raiseErr s d pg bit i).recipe = s.recipe := by rw [(errOnly_raiseErr s d pg bit i).rest]
@[simp] theorem raiseErr_stepEnts (s : State) (d pg bit : Nat) (i : ErrItem) : (raiseErr s d pg bit i).stepEnts = s.stepEnts := by rw [(errOnly_raiseErr s d pg bit i).rest]
@[simp] theorem raiseErr_plans (s : State) (d pg bit : Nat) (i : ErrItem) : (raiseErr s d pg bit i).plans = s.plans := by rw [(errOnly_raiseErr s d pg bit i).rest]
@[simp] theorem raiseErr_threads (s : State) (d pg bit : Nat) (i : ErrItem) : (raiseErr s d pg bit i).threads = s.threads := by rw [(errOnly_raiseErr s d pg bit i).rest]
@[simp] theorem raiseErr_evch (s : State) (d pg bit : Nat) (i : ErrItem) : (raiseErr s d pg bit i).evch = s.evch := by rw [(errOnly_raiseErr s d pg bit i).rest]
@[simp] theorem raiseErr_forkWait (s : State) (d pg bit : Nat) (i : ErrItem) : (raiseErr s d pg bit i).forkWait = s.forkWait := by rw [(errOnly_raiseErr s d pg bit i).rest]
@[simp] theorem raiseErr_quiesce (s : State) (d pg bit : Nat) (i : ErrItem) : (raiseErr s d pg bit i).quiesce = s.quiesce := by rw [(errOnly_raiseErr s d pg bit i).rest]
@[simp] theorem raiseErr_reqs (s : State) (d pg bit : Nat) (i : ErrItem) : (raiseErr s d pg bit i).reqs = s.reqs := by rw [(errOnly_raiseErr s d pg bit i).rest]
@[simp] theorem raiseErr_books (s : State) (d pg bit : Nat) (i : ErrItem) : (raiseErr s d pg bit i).books = s.books := by rw [(errOnly_raiseErr s d pg bit i).rest]
@[simp] theorem raiseErr_egress (s : State) (d pg bit : Nat) (i : ErrItem) : (raiseErr s d pg bit i).egress = s.egress := by rw [(errOnly_raiseErr s d pg bit i).rest]
@[simp] theorem raiseErr_leaving (s : State) (d pg bit : Nat) (i : ErrItem) : (raiseErr s d pg bit i).leaving = s.leaving := by rw [(errOnly_raiseErr s d pg bit i).rest]
@[simp] theorem raiseErr_lastRel (s : State) (d pg bit : Nat) (i : ErrItem) : (raiseErr s d pg bit i).lastRel = s.lastRel := by rw [(errOnly_raiseErr s d pg bit i).rest]
@[simp] theorem raiseErr_diagFails (s : State) (d pg bit : Nat) (i : ErrItem) : (raiseErr s d pg bit i).diagFails = s.diagFails := by rw [(errOnly_raiseErr s d pg bit i).rest]
@[simp] theorem raiseErr_issues (s : State) (d pg bit : Nat) (i : ErrItem) : (raiseErr s d pg bit i).issues = s.issues := by rw [(errOnly_raiseErr s d pg bit i).rest]
@[simp] theorem raiseErr_express (s : State) (d pg bit : Nat) (i : ErrItem) : (raiseErr s d pg bit i).express = s.express := by rw [(errOnly_raiseErr s d pg bit i).rest]
@[simp] theorem raiseErr_grants (s : State) (d pg bit : Nat) (i : ErrItem) : (raiseErr s d pg bit i).grants = s.grants := by rw [(errOnly_raiseErr s d pg bit i).rest]
@[simp] theorem raiseErr_spans (s : State) (d pg bit : Nat) (i : ErrItem) : (raiseErr s d pg bit i).spans = s.spans := by rw [(errOnly_raiseErr s d pg bit i).rest]
@[simp] theorem raiseErr_locks (s : State) (d pg bit : Nat) (i : ErrItem) : (raiseErr s d pg bit i).locks = s.locks := by rw [(errOnly_raiseErr s d pg bit i).rest]
@[simp] theorem raiseErr_slots (s : State) (d pg bit : Nat) (i : ErrItem) : (raiseErr s d pg bit i).slots = s.slots := by rw [(errOnly_raiseErr s d pg bit i).rest]
@[simp] theorem raiseErr_arbAge (s : State) (d pg bit : Nat) (i : ErrItem) : (raiseErr s d pg bit i).arbAge = s.arbAge := by rw [(errOnly_raiseErr s d pg bit i).rest]
@[simp] theorem raiseErr_arbGrants (s : State) (d pg bit : Nat) (i : ErrItem) : (raiseErr s d pg bit i).arbGrants = s.arbGrants := by rw [(errOnly_raiseErr s d pg bit i).rest]
@[simp] theorem raiseErr_arbWait (s : State) (d pg bit : Nat) (i : ErrItem) : (raiseErr s d pg bit i).arbWait = s.arbWait := by rw [(errOnly_raiseErr s d pg bit i).rest]
@[simp] theorem raiseErr_cmds (s : State) (d pg bit : Nat) (i : ErrItem) : (raiseErr s d pg bit i).cmds = s.cmds := by rw [(errOnly_raiseErr s d pg bit i).rest]
@[simp] theorem raiseErr_accepted (s : State) (d pg bit : Nat) (i : ErrItem) : (raiseErr s d pg bit i).accepted = s.accepted := by rw [(errOnly_raiseErr s d pg bit i).rest]
@[simp] theorem raiseErr_updTurn (s : State) (d pg bit : Nat) (i : ErrItem) : (raiseErr s d pg bit i).updTurn = s.updTurn := by rw [(errOnly_raiseErr s d pg bit i).rest]
@[simp] theorem raiseErr_scrubAt (s : State) (d pg bit : Nat) (i : ErrItem) : (raiseErr s d pg bit i).scrubAt = s.scrubAt := by rw [(errOnly_raiseErr s d pg bit i).rest]
@[simp] theorem raiseErr_settled (s : State) (d pg bit : Nat) (i : ErrItem) : (raiseErr s d pg bit i).settled = s.settled := by rw [(errOnly_raiseErr s d pg bit i).rest]
@[simp] theorem raiseErr_lanes (s : State) (d pg bit : Nat) (i : ErrItem) : (raiseErr s d pg bit i).lanes = s.lanes := by rw [(errOnly_raiseErr s d pg bit i).rest]
@[simp] theorem raiseErr_starts (s : State) (d pg bit : Nat) (i : ErrItem) : (raiseErr s d pg bit i).starts = s.starts := by rw [(errOnly_raiseErr s d pg bit i).rest]
@[simp] theorem raiseErr_guards (s : State) (d pg bit : Nat) (i : ErrItem) : (raiseErr s d pg bit i).guards = s.guards := by rw [(errOnly_raiseErr s d pg bit i).rest]
@[simp] theorem raiseErr_twrites (s : State) (d pg bit : Nat) (i : ErrItem) : (raiseErr s d pg bit i).twrites = s.twrites := by rw [(errOnly_raiseErr s d pg bit i).rest]
@[simp] theorem raiseErr_flips (s : State) (d pg bit : Nat) (i : ErrItem) : (raiseErr s d pg bit i).flips = s.flips := by rw [(errOnly_raiseErr s d pg bit i).rest]
@[simp] theorem raiseErr_store (s : State) (d pg bit : Nat) (i : ErrItem) : (raiseErr s d pg bit i).store = s.store := by rw [(errOnly_raiseErr s d pg bit i).rest]
@[simp] theorem raiseErr_storeEpoch (s : State) (d pg bit : Nat) (i : ErrItem) : (raiseErr s d pg bit i).storeEpoch = s.storeEpoch := by rw [(errOnly_raiseErr s d pg bit i).rest]
@[simp] theorem raiseErr_cache (s : State) (d pg bit : Nat) (i : ErrItem) : (raiseErr s d pg bit i).cache = s.cache := by rw [(errOnly_raiseErr s d pg bit i).rest]
@[simp] theorem raiseErr_fills (s : State) (d pg bit : Nat) (i : ErrItem) : (raiseErr s d pg bit i).fills = s.fills := by rw [(errOnly_raiseErr s d pg bit i).rest]
@[simp] theorem raiseErr_bankBusy (s : State) (d pg bit : Nat) (i : ErrItem) : (raiseErr s d pg bit i).bankBusy = s.bankBusy := by rw [(errOnly_raiseErr s d pg bit i).rest]
@[simp] theorem raiseErr_ports (s : State) (d pg bit : Nat) (i : ErrItem) : (raiseErr s d pg bit i).ports = s.ports := by rw [(errOnly_raiseErr s d pg bit i).rest]
@[simp] theorem raiseErr_swAt (s : State) (d pg bit : Nat) (i : ErrItem) : (raiseErr s d pg bit i).swAt = s.swAt := by rw [(errOnly_raiseErr s d pg bit i).rest]
@[simp] theorem raiseErr_rgnBad (s : State) (d pg bit : Nat) (i : ErrItem) : (raiseErr s d pg bit i).rgnBad = s.rgnBad := by rw [(errOnly_raiseErr s d pg bit i).rest]
@[simp] theorem raiseErr_patrolAt (s : State) (d pg bit : Nat) (i : ErrItem) : (raiseErr s d pg bit i).patrolAt = s.patrolAt := by rw [(errOnly_raiseErr s d pg bit i).rest]
@[simp] theorem raiseErr_mbuf (s : State) (d pg bit : Nat) (i : ErrItem) : (raiseErr s d pg bit i).mbuf = s.mbuf := by rw [(errOnly_raiseErr s d pg bit i).rest]
@[simp] theorem raiseErr_steps (s : State) (d pg bit : Nat) (i : ErrItem) : (raiseErr s d pg bit i).steps = s.steps := by rw [(errOnly_raiseErr s d pg bit i).rest]
@[simp] theorem raiseErr_swq (s : State) (d pg bit : Nat) (i : ErrItem) : (raiseErr s d pg bit i).swq = s.swq := by rw [(errOnly_raiseErr s d pg bit i).rest]
@[simp] theorem raiseErr_walks (s : State) (d pg bit : Nat) (i : ErrItem) : (raiseErr s d pg bit i).walks = s.walks := by rw [(errOnly_raiseErr s d pg bit i).rest]
@[simp] theorem raiseErr_wayErrAt (s : State) (d pg bit : Nat) (i : ErrItem) : (raiseErr s d pg bit i).wayErrAt = s.wayErrAt := by rw [(errOnly_raiseErr s d pg bit i).rest]
@[simp] theorem raiseErr_promos (s : State) (d pg bit : Nat) (i : ErrItem) : (raiseErr s d pg bit i).promos = s.promos := by rw [(errOnly_raiseErr s d pg bit i).rest]
@[simp] theorem raiseErr_fetches (s : State) (d pg bit : Nat) (i : ErrItem) : (raiseErr s d pg bit i).fetches = s.fetches := by rw [(errOnly_raiseErr s d pg bit i).rest]
@[simp] theorem raiseErr_notices (s : State) (d pg bit : Nat) (i : ErrItem) : (raiseErr s d pg bit i).notices = s.notices := by rw [(errOnly_raiseErr s d pg bit i).rest]
@[simp] theorem raiseErr_nseq (s : State) (d pg bit : Nat) (i : ErrItem) : (raiseErr s d pg bit i).nseq = s.nseq := by rw [(errOnly_raiseErr s d pg bit i).rest]
@[simp] theorem raiseErr_kek (s : State) (d pg bit : Nat) (i : ErrItem) : (raiseErr s d pg bit i).kek = s.kek := by rw [(errOnly_raiseErr s d pg bit i).rest]
@[simp] theorem raiseErr_keys (s : State) (d pg bit : Nat) (i : ErrItem) : (raiseErr s d pg bit i).keys = s.keys := by rw [(errOnly_raiseErr s d pg bit i).rest]
@[simp] theorem raiseErr_cwrite (s : State) (d pg bit : Nat) (i : ErrItem) : (raiseErr s d pg bit i).cwrite = s.cwrite := by rw [(errOnly_raiseErr s d pg bit i).rest]
@[simp] theorem raiseErr_authAt (s : State) (d pg bit : Nat) (i : ErrItem) : (raiseErr s d pg bit i).authAt = s.authAt := by rw [(errOnly_raiseErr s d pg bit i).rest]
@[simp] theorem raiseErr_xlats (s : State) (d pg bit : Nat) (i : ErrItem) : (raiseErr s d pg bit i).xlats = s.xlats := by rw [(errOnly_raiseErr s d pg bit i).rest]
@[simp] theorem raiseErr_invals (s : State) (d pg bit : Nat) (i : ErrItem) : (raiseErr s d pg bit i).invals = s.invals := by rw [(errOnly_raiseErr s d pg bit i).rest]
@[simp] theorem raiseErr_cqPend (s : State) (d pg bit : Nat) (i : ErrItem) : (raiseErr s d pg bit i).cqPend = s.cqPend := by rw [(errOnly_raiseErr s d pg bit i).rest]
@[simp] theorem raiseErr_cqUsed (s : State) (d pg bit : Nat) (i : ErrItem) : (raiseErr s d pg bit i).cqUsed = s.cqUsed := by rw [(errOnly_raiseErr s d pg bit i).rest]
@[simp] theorem raiseErr_sqTail (s : State) (d pg bit : Nat) (i : ErrItem) : (raiseErr s d pg bit i).sqTail = s.sqTail := by rw [(errOnly_raiseErr s d pg bit i).rest]
@[simp] theorem raiseErr_cqHead (s : State) (d pg bit : Nat) (i : ErrItem) : (raiseErr s d pg bit i).cqHead = s.cqHead := by rw [(errOnly_raiseErr s d pg bit i).rest]
@[simp] theorem raiseErr_cqArmed (s : State) (d pg bit : Nat) (i : ErrItem) : (raiseErr s d pg bit i).cqArmed = s.cqArmed := by rw [(errOnly_raiseErr s d pg bit i).rest]
@[simp] theorem raiseErr_eqArmed (s : State) (d pg bit : Nat) (i : ErrItem) : (raiseErr s d pg bit i).eqArmed = s.eqArmed := by rw [(errOnly_raiseErr s d pg bit i).rest]
@[simp] theorem raiseErr_fetchedSq (s : State) (d pg bit : Nat) (i : ErrItem) : (raiseErr s d pg bit i).fetchedSq = s.fetchedSq := by rw [(errOnly_raiseErr s d pg bit i).rest]
@[simp] theorem raiseErr_peers (s : State) (d pg bit : Nat) (i : ErrItem) : (raiseErr s d pg bit i).peers = s.peers := by rw [(errOnly_raiseErr s d pg bit i).rest]
@[simp] theorem raiseErr_peerQ (s : State) (d pg bit : Nat) (i : ErrItem) : (raiseErr s d pg bit i).peerQ = s.peerQ := by rw [(errOnly_raiseErr s d pg bit i).rest]
@[simp] theorem raiseErr_msixTab (s : State) (d pg bit : Nat) (i : ErrItem) : (raiseErr s d pg bit i).msixTab = s.msixTab := by rw [(errOnly_raiseErr s d pg bit i).rest]
@[simp] theorem raiseErr_msixMask (s : State) (d pg bit : Nat) (i : ErrItem) : (raiseErr s d pg bit i).msixMask = s.msixMask := by rw [(errOnly_raiseErr s d pg bit i).rest]
@[simp] theorem raiseErr_quar (s : State) (d pg bit : Nat) (i : ErrItem) : (raiseErr s d pg bit i).quar = s.quar := by rw [(errOnly_raiseErr s d pg bit i).rest]
@[simp] theorem raiseErr_funcReady (s : State) (d pg bit : Nat) (i : ErrItem) : (raiseErr s d pg bit i).funcReady = s.funcReady := by rw [(errOnly_raiseErr s d pg bit i).rest]
@[simp] theorem raiseErr_d3hot (s : State) (d pg bit : Nat) (i : ErrItem) : (raiseErr s d pg bit i).d3hot = s.d3hot := by rw [(errOnly_raiseErr s d pg bit i).rest]
@[simp] theorem raiseErr_ringAir (s : State) (d pg bit : Nat) (i : ErrItem) : (raiseErr s d pg bit i).ringAir = s.ringAir := by rw [(errOnly_raiseErr s d pg bit i).rest]
@[simp] theorem raiseErr_dropped (s : State) (d pg bit : Nat) (i : ErrItem) : (raiseErr s d pg bit i).dropped = s.dropped := by rw [(errOnly_raiseErr s d pg bit i).rest]
@[simp] theorem raiseErr_relay (s : State) (d pg bit : Nat) (i : ErrItem) : (raiseErr s d pg bit i).relay = s.relay := by rw [(errOnly_raiseErr s d pg bit i).rest]
@[simp] theorem raiseErr_homes (s : State) (d pg bit : Nat) (i : ErrItem) : (raiseErr s d pg bit i).homes = s.homes := by rw [(errOnly_raiseErr s d pg bit i).rest]
@[simp] theorem raiseErr_link (s : State) (d pg bit : Nat) (i : ErrItem) : (raiseErr s d pg bit i).link = s.link := by rw [(errOnly_raiseErr s d pg bit i).rest]
@[simp] theorem raiseErr_tim (s : State) (d pg bit : Nat) (i : ErrItem) : (raiseErr s d pg bit i).tim = s.tim := by rw [(errOnly_raiseErr s d pg bit i).rest]
@[simp] theorem raiseErr_local_ (s : State) (d pg bit : Nat) (i : ErrItem) : (raiseErr s d pg bit i).local_ = s.local_ := by rw [(errOnly_raiseErr s d pg bit i).rest]
@[simp] theorem raiseErr_evd (s : State) (d pg bit : Nat) (i : ErrItem) : (raiseErr s d pg bit i).evd = s.evd := by rw [(errOnly_raiseErr s d pg bit i).rest]
@[simp] theorem raiseErr_doms (s : State) (d pg bit : Nat) (i : ErrItem) : (raiseErr s d pg bit i).doms = s.doms := by rw [(errOnly_raiseErr s d pg bit i).rest]
@[simp] theorem raiseErr_sm (s : State) (d pg bit : Nat) (i : ErrItem) : (raiseErr s d pg bit i).sm = s.sm := by rw [(errOnly_raiseErr s d pg bit i).rest]
@[simp] theorem raiseErr_golden (s : State) (d pg bit : Nat) (i : ErrItem) : (raiseErr s d pg bit i).golden = s.golden := by rw [(errOnly_raiseErr s d pg bit i).rest]
@[simp] theorem raiseErr_goldVec (s : State) (d pg bit : Nat) (i : ErrItem) : (raiseErr s d pg bit i).goldVec = s.goldVec := by rw [(errOnly_raiseErr s d pg bit i).rest]
@[simp] theorem raiseErr_extAt (s : State) (d pg bit : Nat) (i : ErrItem) : (raiseErr s d pg bit i).extAt = s.extAt := by rw [(errOnly_raiseErr s d pg bit i).rest]
@[simp] theorem raiseErr_bsq (s : State) (d pg bit : Nat) (i : ErrItem) : (raiseErr s d pg bit i).bsq = s.bsq := by rw [(errOnly_raiseErr s d pg bit i).rest]
@[simp] theorem raiseErr_msCmd (s : State) (d pg bit : Nat) (i : ErrItem) : (raiseErr s d pg bit i).msCmd = s.msCmd := by rw [(errOnly_raiseErr s d pg bit i).rest]
@[simp] theorem raiseErr_unlock (s : State) (d pg bit : Nat) (i : ErrItem) : (raiseErr s d pg bit i).unlock = s.unlock := by rw [(errOnly_raiseErr s d pg bit i).rest]
@[simp] theorem raiseErr_fuseSvn (s : State) (d pg bit : Nat) (i : ErrItem) : (raiseErr s d pg bit i).fuseSvn = s.fuseSvn := by rw [(errOnly_raiseErr s d pg bit i).rest]
@[simp] theorem raiseErr_fuseRevoked (s : State) (d pg bit : Nat) (i : ErrItem) : (raiseErr s d pg bit i).fuseRevoked = s.fuseRevoked := by rw [(errOnly_raiseErr s d pg bit i).rest]
@[simp] theorem raiseErr_idKey (s : State) (d pg bit : Nat) (i : ErrItem) : (raiseErr s d pg bit i).idKey = s.idKey := by rw [(errOnly_raiseErr s d pg bit i).rest]
@[simp] theorem raiseErr_heldDies (s : State) (d pg bit : Nat) (i : ErrItem) : (raiseErr s d pg bit i).heldDies = s.heldDies := by rw [(errOnly_raiseErr s d pg bit i).rest]
@[simp] theorem raiseErr_fencedDev (s : State) (d pg bit : Nat) (i : ErrItem) : (raiseErr s d pg bit i).fencedDev = s.fencedDev := by rw [(errOnly_raiseErr s d pg bit i).rest]
@[simp] theorem raiseErr_inReset (s : State) (d pg bit : Nat) (i : ErrItem) : (raiseErr s d pg bit i).inReset = s.inReset := by rw [(errOnly_raiseErr s d pg bit i).rest]
@[simp] theorem raiseErr_rejoins (s : State) (d pg bit : Nat) (i : ErrItem) : (raiseErr s d pg bit i).rejoins = s.rejoins := by rw [(errOnly_raiseErr s d pg bit i).rest]
@[simp] theorem raiseErr_loading (s : State) (d pg bit : Nat) (i : ErrItem) : (raiseErr s d pg bit i).loading = s.loading := by rw [(errOnly_raiseErr s d pg bit i).rest]
@[simp] theorem raiseErr_tap (s : State) (d pg bit : Nat) (i : ErrItem) : (raiseErr s d pg bit i).tap = s.tap := by rw [(errOnly_raiseErr s d pg bit i).rest]
@[simp] theorem getT_raiseErr (s : State) (d pg bit : Nat) (i : ErrItem) (e u : Nat) : getT (raiseErr s d pg bit i) e u = getT s e u := by rw [getT, raiseErr_threads, getT]
@[simp] theorem getDom_raiseErr (s : State) (d pg bit : Nat) (i : ErrItem) (e u : Nat) : getDom (raiseErr s d pg bit i) e u = getDom s e u := by rw [getDom, raiseErr_doms, getDom]
@[simp] theorem present_raiseErr (s : State) (d pg bit : Nat) (i : ErrItem) (e p : Nat) : present (raiseErr s d pg bit i) e p = present s e p := by simp only [present, raiseErr_part]

/-! ## What the updates write -/

@[simp] theorem emitOut_out (s : State) (o : Output) : (emitOut s o).out = s.out ++ [o] := rfl
@[simp] theorem queueCell_ringQ (s : State) (src cls id payload : Nat) :
    (queueCell s src cls id payload).ringQ = s.ringQ ++ [{ src := src, cls := cls, id := id, payload := payload }] := rfl
@[simp] theorem loseDie_lostDies (s : State) (d : Nat) : (loseDie s d).lostDies = s.lostDies ||| 2 ^ d := rfl
@[simp] theorem getT_setT_self (s : State) (d t : Nat) (x : Thread) : getT (setT s d t x) d t = x := by
  simp [getT, setT]
@[simp] theorem getDom_setDom_self (s : State) (d c : Nat) (x : Dom) : getDom (setDom s d c x) d c = x := by
  simp [getDom, setDom]

@[simp] theorem setT_setT (s : State) (d t : Nat) (x y : Thread) : setT (setT s d t x) d t y = setT s d t y := by
  simp [setT]
@[simp] theorem setF_setF (s : State) (d : Nat) (f : Fld) (v w b : Nat) :
    setF (setF s d f v b) d f w b = setF s d f w b := by
  simp [setF]

/-- Writing one thread leaves every other thread alone. -/
theorem getT_setT_ne (s : State) {d t e u : Nat} (x : Thread) (h : tkey e u ≠ tkey d t) :
    getT (setT s d t x) e u = getT s e u := by
  simp only [getT, setT]
  exact mget_mset_ne _ _ _ _ h

/-- Writing one domain leaves every other domain alone. -/
theorem getDom_setDom_ne (s : State) {d c e k : Nat} (x : Dom) (h : dkey e k ≠ dkey d c) :
    getDom (setDom s d c x) e k = getDom s e k := by
  simp only [getDom, setDom]
  exact mget_mset_ne _ _ _ _ h

/-- Raising an error leaves every register alone that is no error register. -/
theorem getF_raiseErr (s : State) (d pg bit : Nat) (i : ErrItem) (e : Nat) (g : Fld) (c : Nat)
    (h : errFree g c = true) : getF (raiseErr s d pg bit i) e g c = getF s e g c :=
  (errOnly_raiseErr s d pg bit i).regs e g c h

/-- A counter that wraps. -/
theorem getF_bump_self (s : State) (d : Nat) (f : Fld) (n b : Nat) :
    getF (bump s d f n b) d f b = (getF s d f b + n) % 2 ^ f.width := getF_setF_self s d f _ b

/-- A counter that saturates stops at the largest value of its width. -/
theorem getF_bumpSat_self (s : State) (d : Nat) (f : Fld) (n b : Nat) :
    getF (bumpSat s d f n b) d f b = min (2 ^ f.width - 1) (getF s d f b + n) := by
  rw [bumpSat, getF_setF_self, Nat.mod_eq_of_lt]
  have := Nat.two_pow_pos f.width
  omega

end Sys2Proof.Machine
end

