-- ==== Sys2Proof/Laws/Evidence.lean ====
section
/-!
SUPPORT. What the shared operations of the evidence log can do: each changes only what EvdOnly names.
-/

namespace Sys2Proof.Machine

theorem EvdOnly.refl (s : State) : EvdOnly s s := ⟨rfl, fun _ _ _ _ _ => rfl, fun _ _ _ _ h => h, List.prefix_refl _⟩

theorem EvdOnly.trans {s t u : State} (h : EvdOnly s t) (g : EvdOnly t u) : EvdOnly s u := by
  constructor
  · have h1 := h.rest
    have g1 := g.rest
    rw [h1] at g1
    exact g1
  · intro d f c hf hp
    rw [g.regs d f c hf hp, h.regs d f c hf hp]
  · exact fun d pg bit hb hs => g.sticky d pg bit hb (h.sticky d pg bit hb hs)
  · exact h.out.trans g.out

theorem ErrOnly.evd {s t : State} (h : ErrOnly s t) : EvdOnly s t := by
  refine ⟨?_, fun d g c hg _ => h.regs d g c hg, h.sticky, h.out⟩
  have h1 := h.rest
  rw [h1]

/-- A write of a register of the evidence page. -/
theorem evdOnly_setF (s : State) (d : Nat) (f : Fld) (v : Nat)
    (h : f.page = 14 ∧ 0x80 ≤ f.off ∧ f.off < 4096 ∧ f.lo < 32) : EvdOnly s (setF s d f v) := by
  refine ⟨rfl, fun e g c hg hp => getF_setF_of_key s v ?_, fun e pg bit _ hs => ?_, List.prefix_refl _⟩
  · simp only [errFree, Bool.and_eq_true, decide_eq_true_eq, pgEvd] at hg hp
    simp only [rkey]
    omega
  · rwa [getF_setF_of_key s v]
    simp only [rkey, ERR_STICKY.BITS]
    omega

/-- A change that leaves the registers alone. -/
theorem evdOnly_of_rest {s t : State} (hr : t.regs = s.regs) (ho : s.out <+: t.out)
    (h : t = { s with regs := t.regs, fltq := t.fltq, escal := t.escal, mgmt := t.mgmt, ringQ := t.ringQ, out := t.out, msixPend := t.msixPend, lostDies := t.lostDies, evd := t.evd, store := t.store }) :
    EvdOnly s t :=
  ⟨h, fun d g c _ _ => getF_of_regs hr d g c, fun d pg bit _ hs => by rwa [getF_of_regs hr], ho⟩

theorem evdOnly_foldl {α : Type} (f : State → α → State) (l : List α) (h : ∀ s a, EvdOnly s (f s a)) (s : State) :
    EvdOnly s (l.foldl f s) := by
  induction l generalizing s with
  | nil => exact .refl s
  | cons a l ih => exact (h s a).trans (ih _)

theorem evdOnly_evd (s : State) (e : Evidence) : EvdOnly s { s with evd := e } := evdOnly_of_rest rfl (List.prefix_refl _) rfl

theorem evdOnly_err (s : State) (d pg bit : Nat) (i : ErrItem) : EvdOnly s (raiseErr s d pg bit i) :=
  (errOnly_raiseErr s d pg bit i).evd

theorem evdOnly_setStop (s : State) (code run : Nat) : EvdOnly s (setF (setF s 0 EVD_STS.STOP code) 0 EVD_STS.RUN run) :=
  (evdOnly_setF s 0 EVD_STS.STOP code (by decide)).trans (evdOnly_setF _ 0 EVD_STS.RUN run (by decide))

theorem evdOnly_loseRecord (s : State) (code : Nat) : EvdOnly s (sendEvidence.loseRecord s code) := by
  unfold sendEvidence.loseRecord
  extract_lets s1 e s2 s3 s4
  have h2 : EvdOnly s s2 := (evdOnly_setF s 0 EVD_LOST.COUNT _ (by decide)).trans (evdOnly_evd s1 _)
  have h3 : EvdOnly s2 s3 := by
    show EvdOnly s2 (if _ then _ else _)
    split
    · exact .refl s2
    · exact evdOnly_setStop _ _ _
  have h4 : EvdOnly s s4 := h2.trans (h3.trans (evdOnly_err _ _ _ _ _))
  split
  · exact h4.trans (evdOnly_err _ _ _ _ _)
  · exact h4

theorem evdOnly_sendEvidence (s : State) (p : EvPart) (arr : Nat) (dep : Option Nat) :
    EvdOnly s (sendEvidence s p arr dep) := by
  have hc : ∀ (d bits : Nat) (e : Evidence), EvdOnly s { (if d = 0 then s else queueMgmt s d 0 7 d 2 bits) with evd := e } := by
    intro d bits e
    split
    · exact evdOnly_evd _ _
    · exact (errOnly_queueMgmt _ _ _ _ _ _ _ _).evd.trans (evdOnly_evd _ _)
  cases dep <;> (unfold sendEvidence; dsimp only; generalize (if gone s p.die = true then 0 else p.die) = d; split)
  · exact evdOnly_loseRecord _ _
  · exact hc _ _ _
  · exact evdOnly_loseRecord _ _
  · exact hc _ _ _

theorem evdOnly_finishEvidence (s : State) (id arr : Nat) (dep : Option Nat) : EvdOnly s (finishEvidence s id arr dep) := by
  unfold finishEvidence
  exact (evdOnly_evd s _).trans (evdOnly_foldl (fun s p => sendEvidence s p arr dep) _
    (fun s a => evdOnly_sendEvidence s a arr dep) _)

theorem evdOnly_evPost (s : State) (addr : Nat) (bytes : List Nat) : EvdOnly s (evPost s addr bytes) := by
  unfold evPost
  dsimp only
  split
  · exact evdOnly_of_rest rfl (List.prefix_append _ _) rfl
  · exact evdOnly_evd _ _

theorem evdOnly_evWrite (s : State) (addr : Nat) (blocks : List Nat) : EvdOnly s (evWrite s addr blocks) := by
  unfold evWrite
  split
  · exact evdOnly_evPost _ _ _
  · exact evdOnly_foldl (fun s (q : Nat × Nat) => (evDies s).foldl (fun s d => putHalf s (addr + 64 * q.2) q.1 d) s) _
      (fun s q => evdOnly_foldl (fun s d => putHalf s (addr + 64 * q.2) q.1 d) _
        (fun s _ => evdOnly_of_rest rfl (List.prefix_refl _) rfl) s) s

theorem evdOnly_ckptDue (s : State) : EvdOnly s (ckptDue s) := by
  unfold ckptDue
  split
  · exact .trans (evdOnly_setF _ _ _ _ (by simp [EVD_CP_SKIP.COUNT])) (errOnly_raiseErr _ _ _ _ _).evd
  · exact evdOnly_of_rest rfl (List.prefix_refl _) rfl

theorem evdOnly_advance (s : State) (n : Nat) : EvdOnly s
    (setF (setF (setF (setF s 0 EVD_WIDX_LO.INDEX n) 0 EVD_WIDX_HI.INDEX (n / 2 ^ 32)) 0 EVD_STS.STOP 0) 0 EVD_STS.RUN 1) := by
  refine .trans ?_ (evdOnly_setStop _ _ _)
  exact (evdOnly_setF s 0 EVD_WIDX_LO.INDEX n (by decide)).trans (evdOnly_setF _ 0 EVD_WIDX_HI.INDEX (n / 2 ^ 32) (by decide))

theorem evdOnly_putRecord (s : State) (bits : Nat) : EvdOnly s (putRecord s bits) := by
  unfold putRecord
  extract_lets n link r s1 e s2 s3 s4
  have h : EvdOnly s s4 := (evdOnly_evWrite s _ _).trans ((evdOnly_evd s1 _).trans (.trans (evdOnly_advance s2 (n + 1)) (.refl _)))
  split
  · exact h.trans (evdOnly_ckptDue _)
  · exact h

/-- Everything appending a record can do. -/
theorem evdOnly_appendRecord (s : State) (bits : Nat) : EvdOnly s (appendRecord s bits) := by
  unfold appendRecord
  split
  · exact evdOnly_loseRecord _ _
  · split
    · exact evdOnly_loseRecord _ _
    · extract_lets start g e s1
      have h : ∀ t, EvdOnly t (if evRoom t = true then putRecord t bits else sendEvidence.loseRecord t 2) := by
        intro t
        split
        · exact evdOnly_putRecord _ _
        · exact evdOnly_loseRecord _ _
      have h1 : EvdOnly s s1 := by
        show EvdOnly s (if _ then _ else _)
        split
        · exact .refl s
        · exact (evdOnly_evd s _).trans (evdOnly_putRecord _ _)
      exact h1.trans (h s1)

/-- Everything a discontinuity record can do. -/
theorem evdOnly_discont (s : State) (before cause : Nat) : EvdOnly s (discont s before cause) := by
  unfold discont
  split
  · exact evdOnly_appendRecord _ _
  · exact .refl s

end Sys2Proof.Machine
end

