-- ==== Sys2Proof/Laws/Recipe.lean ====
section
/-!
SUPPORT. How an instruction starts and finishes, said once for all sixteen opcodes.
-/

namespace Sys2Proof.Machine

theorem getF_countInstr (s : State) (d e : Nat) (g : Fld) (c : Nat) (h1 : fne g c SEQ_INSTR_LO.INSTR 0 = true)
    (h2 : fne g c SEQ_INSTR_HI.INSTR 0 = true) : getF (countInstr s d) e g c = getF s e g c := by
  unfold countInstr
  dsimp only
  rw [getF_setF_ne _ _ _ _ _ _ _ _ h2, getF_setF_ne _ _ _ _ _ _ _ _ h1]

theorem stepMax_countInstr (s : State) (d e : Nat) : stepMax (countInstr s e) d = stepMax s d := by
  have h : getF (countInstr s e) d SEQ_CTL.STEP_MAX = getF s d SEQ_CTL.STEP_MAX :=
    getF_countInstr s e d _ 0 (by decide) (by decide)
  rw [stepMax, h, stepMax]

theorem getT_countInstr (s : State) (e d t : Nat) : getT (countInstr s e) d t = getT s d t := by
  unfold countInstr
  rw [getT_setF, getT_setF]

/-! ## Issue slots -/

theorem IssueOnly.refl (s : State) : IssueOnly s s := rfl

theorem IssueOnly.trans {s t u : State} (h : IssueOnly s t) (g : IssueOnly t u) : IssueOnly s u := by
  unfold IssueOnly at h g ⊢
  rw [h] at g
  exact g

theorem IssueOnly.foldl {α : Type} {f : State → α → State} (hf : ∀ s a, IssueOnly s (f s a)) (l : List α) (s : State) :
    IssueOnly s (l.foldl f s) := by
  induction l generalizing s with
  | nil => exact .refl s
  | cons a l ih => exact (hf s a).trans (ih _)

theorem issueOnly_giveStart (s : State) (d t : Nat) : IssueOnly s (giveStart s d t) := rfl
theorem issueOnly_resetAge (s : State) (d inst o : Nat) : IssueOnly s (resetAge s d inst o) := rfl
theorem issueOnly_useStart (s : State) (d t : Nat) : IssueOnly s (useStart s d t) := rfl

theorem issueOnly_raiseAge (s : State) (d inst o : Nat) : IssueOnly s (raiseAge s d inst o) := by
  unfold raiseAge
  split
  · rfl
  · exact .refl s

theorem issueOnly_contestLane (s : State) (d : Nat) (ws : List (Nat × Nat × Nat)) : IssueOnly s (contestLane s d ws).1 := by
  unfold contestLane
  dsimp only
  split
  · exact .refl s
  · next o _ =>
    have h : IssueOnly s ((((ws.map fun q => q.1).eraseDups).filter fun x => x != o).foldl (fun s x => raiseAge s d 4 x) (resetAge s d 4 o)) :=
      (issueOnly_resetAge s d 4 o).trans (IssueOnly.foldl (fun s x => issueOnly_raiseAge s d 4 x) _ _)
    split
    · exact h.trans (issueOnly_giveStart _ _ _)
    · exact h

theorem issueOnly_settleLane (d : Nat) (x : State × List (Nat × Nat × Nat) × List Nat) (k : Nat) : IssueOnly x.1 (settleLane d x k).1 := by
  obtain ⟨s, ws, bs⟩ := x
  unfold settleLane
  dsimp only
  split
  · exact issueOnly_contestLane s d ws
  · split
    · exact .refl s
    · split
      · exact issueOnly_giveStart _ _ _
      · exact issueOnly_contestLane s d ws

theorem issueOnly_lanes (d : Nat) (l : List Nat) (x : State × List (Nat × Nat × Nat) × List Nat) :
    IssueOnly x.1 (l.foldl (settleLane d) x).1 := by
  induction l generalizing x with
  | nil => exact .refl x.1
  | cons a l ih => exact (issueOnly_settleLane d x a).trans (ih _)

/-- Everything settling the issue slots can do. -/
theorem issueOnly_settleIssue (s : State) (d : Nat) : IssueOnly s (settleIssue s d) := by
  unfold settleIssue
  split
  · exact .refl s
  · extract_lets ws s1
    have h1 : IssueOnly s s1 := rfl
    have h2 : IssueOnly s1 (bookedStarts s1 d) := by unfold bookedStarts; exact IssueOnly.foldl (fun s (i : Issue) => issueOnly_giveStart s d i.thread) _ s1
    have h3 : IssueOnly (bookedStarts s1 d) (withdraw (bookedStarts s1 d) d ws) := by unfold withdraw; exact IssueOnly.foldl (fun s o => issueOnly_resetAge s d 4 o) _ _
    exact (h1.trans (h2.trans h3)).trans (issueOnly_lanes d _ (_, _, _))

theorem issueOnly_issued (s : State) (d t : Nat) : IssueOnly s (issued s d t) :=
  (issueOnly_settleIssue s d).trans (issueOnly_useStart _ d t)

theorem IssueOnly.cyc {s t : State} (h : IssueOnly s t) : t.cyc = s.cyc := by rw [h]
theorem IssueOnly.getF {s t : State} (h : IssueOnly s t) (d : Nat) (f : Fld) (c : Nat) : getF t d f c = Sys2Proof.Machine.getF s d f c := by rw [h]; rfl
theorem IssueOnly.getT {s t : State} (h : IssueOnly s t) (d k : Nat) : getT t d k = Sys2Proof.Machine.getT s d k := by rw [h]; rfl

/-! ## Starts -/

/-- A word that nothing stands in the way of runs its body on the started state. -/
theorem runIns_of_starts {s : State} {d t : Nat} {w : W64} (h : Starts s d t w) (body : State → Thread → W64 → State) :
    runIns s d t (insOp w) body = body (insStart s d t w) (insThread s.cyc (getT s d t) w) w := by
  have hi := issueOnly_issued s d t
  have hl : ¬ stepMax (insStart s d t w) d < (getT s d t).steps + 1 := by
    have := h.limit
    rw [insStart, stepMax, getF_setT, ← stepMax, stepMax_countInstr, stepMax, hi.getF, ← stepMax]
    omega
  have hw : BitVec.ofNat 64 w.toNat = w := by simp
  have hc : cq (settleIssue s d) = cq s := by rw [cq, (issueOnly_settleIssue s d).cyc, cq]
  have hcy : (countInstr (issued s d t) d).cyc = s.cyc := by unfold countInstr; rw [setF_cyc, setF_cyc, hi.cyc]
  have hs : startIns (issued s d t) d t w false body = body (insStart s d t w) (insThread s.cyc (getT s d t) w) w := by
    unfold startIns
    rw [hi.getT]
    extract_lets th s1 s2 s3 th1 s4
    have e2 : s2 = issued s d t := by simp only [s2, s1, th, h.cor, Bool.false_eq_true, if_false]
    have e3 : th1 = insThread s.cyc (getT s d t) w := by simp only [th1, s3, e2, hcy, insThread, th]
    have e4 : s4 = insStart s d t w := by simp only [s4, s3, e2, e3, insStart]
    rw [if_neg (by rw [h.ready]; decide), e4, e3, if_neg (show ¬ ctxUnc (insThread s.cyc (getT s d t) w) = true from by
      have := h.unc; simp_all [ctxUnc, insThread]),
      if_neg (show ¬ stepMax (insStart s d t w) d < (insThread s.cyc (getT s d t) w).steps from hl)]
  simp only [runIns, h.run, if_true, h.fetch, Ecc.data?, Option.all_some, hw, beq_self_eq_true, hc, h.slot, Ecc.isCorr]
  exact hs

/-- Another opcode leaves the state alone. -/
theorem runIns_other {s : State} {d t op : Nat} {w : W64} (h : Starts s d t w) (ho : insOp w ≠ op)
    (body : State → Thread → W64 → State) : runIns s d t op body = s := by
  simp [runIns, h.run, h.fetch, Ecc.data?, ho]

/-- A thread that does not run leaves the state alone. -/
theorem runIns_idle {s : State} {d t op : Nat} (h : canRun s d t = false) (body : State → Thread → W64 → State) :
    runIns s d t op body = s := by
  simp [runIns, h]

/-- A thread that is no orphan, and whose condition reads a record without error, goes on at its successor. -/
theorem finish_of_top (s : State) (d t : Nat) (ok : Bool) (h : ((getT s d t).child && (getT s d t).orphan) = false)
    (hc : condUnc (getT s d t) = false) : finish s d t ok = setT s d t (wentOn s.cyc (getT s d t) ok) := by
  simp [finish, h, hc, goOn, modT, wentOn]

@[simp] theorem putView_child (th : Thread) (v : BitVec 4096) : (putView th v).child = th.child := by
  unfold putView; split <;> rfl
@[simp] theorem putView_orphan (th : Thread) (v : BitVec 4096) : (putView th v).orphan = th.orphan := by
  unfold putView; split <;> rfl
@[simp] theorem putSlice_child (th : Thread) (a n x : Nat) : (putSlice th a n x).child = th.child := by
  unfold putSlice; dsimp only; split <;> exact putView_child _ _
@[simp] theorem putSlice_orphan (th : Thread) (a n x : Nat) : (putSlice th a n x).orphan = th.orphan := by
  unfold putSlice; dsimp only; split <;> exact putView_orphan _ _

/-- Finishing on a thread just written. -/
theorem finish_setT (s : State) (d t : Nat) (th : Thread) (ok : Bool) (h : (th.child && th.orphan) = false)
    (hc : condUnc th = false) : finish (setT s d t th) d t ok = setT s d t (wentOn s.cyc th ok) := by
  rw [finish_of_top _ _ _ _ (by rw [getT_setT_self]; exact h) (by rw [getT_setT_self]; exact hc)]
  simp

theorem insStart_cyc (s : State) (d t : Nat) (w : W64) : (insStart s d t w).cyc = s.cyc := by
  unfold insStart countInstr
  rw [setT_cyc, setF_cyc, setF_cyc, (issueOnly_issued s d t).cyc]

theorem insStart_getT (s : State) (d t : Nat) (w : W64) : getT (insStart s d t w) d t = insThread s.cyc (getT s d t) w := by
  unfold insStart
  rw [getT_setT_self]

/-- A read of slice bytes without an uncorrectable word goes on; a corrected word is only recorded. -/
theorem reading_of_good (s : State) (d t : Nat) (th : Thread) (a n : Nat) (k : State → State)
    (h : readUnc th a n = false) (hc : readCor th a n = false) : reading s d t th a n k = k s := by
  simp [reading, h, hc]

end Sys2Proof.Machine
end

