-- ==== Sys2Proof/Laws/Commands.lean ====
section
/-!
SUPPORT. What the shared steps of the commands do: the fields they leave alone, and the one thing each changes.
-/

namespace Sys2Proof.Machine

/-! ## Register map reads, in the form that `getF` unfolds to -/

theorem mr_self (x : Nat) (m : SMap Nat) (d : Nat) (f : Fld) (b v : Nat) : mget x (mset x m (rkey d f b) v) (rkey d f b) = v := mget_mset_self _ _ _ _

theorem mr_ne (x y : Nat) (m : SMap Nat) (d e : Nat) (f g : Fld) (b c v : Nat) (h : fne g c f b = true) :
  mget x (mset y m (rkey d f b) v) (rkey e g c) = mget x m (rkey e g c) := mget_mset_ne _ _ _ _ (rkey_ne_of_fne h)

theorem mr_die (x y : Nat) (m : SMap Nat) (d e : Nat) (f g : Fld) (b c v : Nat) (h : d ≠ e) (hg : finside g c = true) (hf : finside f b = true)  :
  mget x (mset y m (rkey d f b) v) (rkey e g c) = mget x m (rkey e g c) := mget_mset_ne _ _ _ _ (rkey_ne_of_die (Ne.symm h) hg hf)

theorem mr_err (s : State) (d pg bit : Nat) (i : ErrItem) (e : Nat) (g : Fld) (c : Nat) (h : errFree g c = true) :
  mget g.rst (raiseErr s d pg bit i).regs (rkey e g c) = mget g.rst s.regs (rkey e g c) := getF_raiseErr s d pg bit i e g c h

theorem ite_next (c : Prop) [Decidable c] (a b : State) : (if c then (Host.Outcome.next a : Result) else .next b) = .next (if c then a else b) := by split <;> rfl

/-! ## Lookup port -/

theorem present_lkp (s : State) (d : Nat) (h : d < s.part.dieCnt) : present s d pgLkp = true := by
  simp [present, h, pgLkp, pgStr, pgCch, pgMss, pgCel, pgTim, pgEvd, pgCsc, pgPkg, pgHif, pgSec]

theorem sticky_lkpErr (s : State) (i bit chan last : Nat) (h : ifDie i < s.part.dieCnt) (hb : bit < 32) :
   stickySet (lkpErr s i bit chan last) (ifDie i) pgLkp bit := raiseErr_sticky _ _ _ _ _ (present_lkp _ _ h) hb

theorem sticky_countFmt (s : State) (i chan last : Nat) (h : ifDie i < s.part.dieCnt) (hl : last ≠ 1) :
   stickySet (countFmt s i chan last) (ifDie i) pgLkp LKP_ERR.FMT := by
  unfold countFmt; dsimp only; rw [if_neg hl]
  exact sticky_lkpErr _ _ _ _ _ h (by decide)

theorem countFmt_reqs (s : State) (i chan last : Nat) : (countFmt s i chan last).reqs = s.reqs := by
  unfold countFmt; dsimp only; split <;> simp [lkpErr, bumpSat]

theorem countFmt_part (s : State) (i chan last : Nat) : (countFmt s i chan last).part = s.part := by
  unfold countFmt; dsimp only; split <;> simp [lkpErr, bumpSat]

theorem countFmt_last (s : State) (i chan last : Nat) (hl : last < 256) : getF (countFmt s i chan last) (ifDie i) LKP_FMT.LAST = last := by
  have : last % 2 ^ LKP_FMT.LAST.width = last := Nat.mod_eq_of_lt hl
  unfold countFmt; dsimp only; split <;> simp (disch := first | decide | assumption | omega) [getF, setF, isF, bump, bumpSat, mr_self, mr_ne, mr_err, stickySet, lkpErr, bumpSat] <;> exact this

/-! ## Responses and channel registers -/

theorem afterDeparture_reqs (s : State) (r : Req) (dep : Option Nat) :
    (afterDeparture s r dep).reqs = s.reqs.filter fun q => q.id != r.id := by
  unfold afterDeparture
  extract_lets s1 s2
  show s2.reqs.filter _ = _
  have h : s2.reqs = s1.reqs := by
    have := (evdOnly_finishEvidence s1 r.id r.arr dep).rest
    show (finishEvidence s1 r.id r.arr dep).reqs = _
    rw [this]
  have h1 : s1.reqs = s.reqs := by
    show (match r.thread with | some t => _ | none => s).reqs = _
    split
    · split <;> rfl
    · rfl
  rw [h, h1]

theorem afterDeparture_getF (s : State) (r : Req) (dep : Option Nat) (d : Nat) (g : Fld) (c : Nat)
    (h : (errFree g c && g.page != pgEvd) = true) : getF (afterDeparture s r dep) d g c = getF s d g c := by
  simp only [Bool.and_eq_true, bne_iff_ne] at h
  unfold afterDeparture
  extract_lets s1 s2
  show getF s2 d g c = _
  rw [(evdOnly_finishEvidence s1 r.id r.arr dep).regs d g c h.1 h.2]
  show getF (match r.thread with | some t => _ | none => s) d g c = _
  split
  · split <;> rfl
  · rfl

theorem afterDeparture_out (s : State) (r : Req) (dep : Option Nat) : s.out <+: (afterDeparture s r dep).out := by
  unfold afterDeparture
  extract_lets s1 s2
  show s.out <+: s2.out
  have h1 : s1.out = s.out := by
    show (match r.thread with | some t => _ | none => s).out = _
    split
    · split <;> rfl
    · rfl
  rw [← h1]
  exact (evdOnly_finishEvidence s1 r.id r.arr dep).out

theorem sendResp_spec (s : State) (r : Req) (x : Resp) (ts two booked : Bool) (hc : r.chan < 64) :
    (s.out ++ [.response (ifDie r.iface) (ifIdx r.iface) r.chan (respWords s r x ts two)] <+: (sendResp s r x ts two booked).out) ∧
    (sendResp s r x ts two booked).reqs = (s.reqs.filter fun q => q.id != r.id) ∧
    getF (sendResp s r x ts two booked) (ifDie r.iface) LKP_RSP.COUNT = (getF s (ifDie r.iface) LKP_RSP.COUNT + 1) % 2 ^ 32 := by
  unfold sendResp
  extract_lets d n s1 s2 s3 s4 s5 late s6
  have h3 : s3.out = s1.out ∧ s3.reqs = s1.reqs ∧ s3.regs = s1.regs := by
    have h2 : s2.out = s1.out ∧ s2.reqs = s1.reqs ∧ s2.regs = s1.regs := by
      show (leaveBuf s1 r n).out = _ ∧ (leaveBuf s1 r n).reqs = _ ∧ (leaveBuf s1 r n).regs = _
      unfold leaveBuf
      split <;> exact ⟨rfl, rfl, rfl⟩
    rw [← h2.1, ← h2.2.1, ← h2.2.2]
    show (if booked = true then s2 else _).out = _ ∧ (if booked = true then s2 else _).reqs = _ ∧ (if booked = true then s2 else _).regs = _
    cases booked <;> exact ⟨rfl, rfl, rfl⟩
  have h4 : getF s4 d LKP_RSP.COUNT = (getF s d LKP_RSP.COUNT + 1) % 2 ^ 32 := by
    show getF (bump s3 d LKP_RSP.COUNT) d LKP_RSP.COUNT = _
    rw [getF_bump_self, getF_of_regs h3.2.2]
    rfl
  have h5 : s5.out = s3.out ∧ s5.reqs = s3.reqs ∧ getF s5 d LKP_RSP.COUNT = getF s4 d LKP_RSP.COUNT := by
    show (if _ then _ else s4).out = _ ∧ (if _ then _ else s4).reqs = _ ∧ getF (if _ then _ else s4) _ _ = _
    split
    · refine ⟨rfl, rfl, ?_⟩
      unfold bumpSat bump
      rw [getF_setF_ne _ _ _ _ _ _ _ _ (by first | (apply fne_of_off <;> dsimp only [LKP_RSP.COUNT, LKP_CH_USE.OVL] <;> omega) | (apply fne_of_lo <;> dsimp only [LKP_RSP.COUNT, LKP_CH_USE.OVL] <;> omega)), getF_setF_ne _ _ _ _ _ _ _ _ (by decide)]
    · exact ⟨rfl, rfl, rfl⟩
  have h6 : s6.out = s5.out ∧ s6.reqs = s5.reqs ∧ getF s6 d LKP_RSP.COUNT = getF s5 d LKP_RSP.COUNT := by
    show (if _ then _ else s5).out = _ ∧ (if _ then _ else s5).reqs = _ ∧ getF (if _ then _ else s5) _ _ = _
    split
    · refine ⟨rfl, rfl, ?_⟩
      rw [getF_setF_ne _ _ _ _ _ _ _ _ (by decide)]
    · exact ⟨rfl, rfl, rfl⟩
  refine ⟨?_, ?_, ?_⟩
  · have : s1.out <+: s6.out := by rw [h6.1, h5.1, h3.1]
    exact List.IsPrefix.trans this (afterDeparture_out _ _ _)
  · rw [afterDeparture_reqs, h6.2.1, h5.2.1, h3.2.1]; rfl
  · rw [afterDeparture_getF _ _ _ _ _ _ (by decide), h6.2.2, h5.2.2, h4]

theorem loadWord_rest (s : State) (d pg bank off val : Nat) : loadWord s d pg bank off val = { s with regs := (loadWord s d pg bank off val).regs } := by
  unfold loadWord
  generalize fieldsAt pg off = l
  induction l generalizing s with
  | nil => rfl
  | cons a l ih => simp only [List.foldl_cons]; rw [ih]; simp [setF]

theorem loadWord_homes (s : State) (d pg bank off val : Nat) : (loadWord s d pg bank off val).homes = s.homes := by
  rw [loadWord_rest]

/-! ## Instructions -/

theorem insCmd_runIns (s : State) (d t op : Nat) (i : Instr) (h : insCmd op d t = some i) (hc : op = 13 → sequenceOpen s d t = false) :
   ∃ body, exec i s = .next (runIns s d t op body) := by
  unfold insCmd at h
  split at h <;> simp at h <;> subst h
  all_goals first
    | exact ⟨_, rfl⟩
    | (refine ⟨?_, ?_⟩; rotate_left; (simp only [exec, execCommit, hc, if_false, Bool.false_eq_true]); rfl)

theorem exec_ins (s : State) (d t op : Nat) (w : W64) (h : Starts s d t w) (ho : insOp w = op) (body) :
   runIns s d t op body = body (insStart s d t w) (insThread s.cyc (getT s d t) w) w := by subst ho; exact runIns_of_starts h body

theorem closeLink_getT (s : State) (d t e v : Nat) : getT (closeLink s d t) e v = getT s e v := rfl

/-! ## Time -/

theorem holdover_sync (s : State) : getF (holdover s) 0 TIM_STS.SYNC = 3 := by
  unfold holdover
  split
  · assumption
  · exact getF_setF_self _ _ _ _ _

theorem holdover_getF (s : State) (d : Nat) (g : Fld) (c : Nat) (h : fne g c TIM_STS.SYNC 0 = true) :
    getF (holdover s) d g c = getF s d g c := by
  unfold holdover
  split
  · rfl
  · exact getF_setF_ne _ _ _ _ _ _ _ _ h

theorem holdover_present (s : State) (d pg : Nat) : present (holdover s) d pg = present s d pg := by
  unfold holdover; split <;> rfl

theorem dieUnsync_stale (s : State) (d : Nat) : dieUnsync (staleLocal s d) d = true := by
  simp [dieUnsync, staleLocal, mmod]


theorem rescale_getF (s : State) (d : Nat) (g : Fld) (c : Nat) (h1 : fne g c TIM_RATE_LO.FRAC 0 = true) (h2 : fne g c TIM_RATE_HI.NS 0 = true) :
    getF (rescale s) d g c = getF s d g c := by
  unfold rescale
  split
  · rfl
  · dsimp only
    split
    · rfl
    · show getF (setF (setF _ _ _ _) _ _ _) _ _ _ = _
      rw [getF_setF_ne _ _ _ _ _ _ _ _ h2, getF_setF_ne _ _ _ _ _ _ _ _ h1]
      rfl

theorem rescale_tim (s : State) (h : s.part.unitT = true) (hk : getF s 0 TIM_REF.KHZ ≠ 0) :
    (rescale s).tim.rate = s.tim.rate * s.tim.refKhz / getF s 0 TIM_REF.KHZ ∧ (rescale s).tim.refKhz = getF s 0 TIM_REF.KHZ ∧
    (rescale s).tim.time = counterAt s s.cyc := by
  simp [rescale, h, hk, setRate, rebase, counterAt]

theorem present_of_part {s t : State} (h : t.part = s.part) (d pg : Nat) : present t d pg = present s d pg := by
  simp [present, h]

theorem rescale_part (s : State) : (rescale s).part = s.part := by
  unfold rescale
  split
  · rfl
  · dsimp only
    split <;> rfl

theorem writeFld_part (s : State) (d b v : Nat) (f : Fld) : (writeFld s d b v f).part = s.part := by
  unfold writeFld; dsimp only; split
  · rfl
  · split <;> rfl
  · rfl
  · split <;> rfl
  · rfl
  · rfl

theorem writeWord_part (s : State) (d pg b o v : Nat) : (writeWord s d pg b o v).part = s.part := by
  unfold writeWord
  generalize fieldsAt pg o = l
  induction l generalizing s with
  | nil => rfl
  | cons f l ih => rw [List.foldl_cons, ih, writeFld_part]

/-! ## Evidence -/

theorem pubkey_fold (pub : Nat) (n : Nat) (hn : n ≤ 24) (s : State) :
    let t := (List.range n).foldl (fun s i => setF s 0 (EVD_PUBKEY.KEY i) (pub / 2 ^ (32 * (23 - i)))) s
    t.evd = s.evd ∧ t.free = s.free ∧
    (∀ g c, (g.off < 4096 ∧ g.lo < 32) → (g.off < 0x100) → getF t 0 g c = getF s 0 g c) ∧
    ∀ i, i < n → getF t 0 (EVD_PUBKEY.KEY i) = pub / 2 ^ (32 * (23 - i)) % 2 ^ 32 := by
  induction n generalizing s with
  | zero => exact ⟨rfl, rfl, fun _ _ _ _ => rfl, fun i h => by omega⟩
  | succ n ih =>
    obtain ⟨h1, h2, h3, h4⟩ := ih (by omega) s
    rw [List.range_succ, List.foldl_append]
    refine ⟨h1, h2, fun g c hg hlt => ?_, fun i hi => ?_⟩
    · show getF (setF _ _ _ _ _) _ _ _ = _
      rw [getF_setF_ne _ _ _ _ _ _ _ _ (fne_of_off hg (by simp [EVD_PUBKEY.KEY]; omega) (by simp [EVD_PUBKEY.KEY]; omega))]
      exact h3 g c hg hlt
    · show getF (setF _ _ _ _ _) _ _ _ = _
      by_cases he : i = n
      · subst he; exact getF_setF_self _ _ _ _ _
      · rw [getF_setF_ne _ _ _ _ _ _ _ _ (fne_of_off (by simp [EVD_PUBKEY.KEY]; omega) (by simp [EVD_PUBKEY.KEY]; omega) (by simp [EVD_PUBKEY.KEY]; omega))]
        exact h4 i (by omega)

/-! ## Thermal response and governor -/

theorem levelAt_lt (t : Nat) : levelAt t < 8 := by unfold levelAt; split_ifs <;> omega

theorem applyBlank_getF (s : State) (d e : Nat) (g : Fld) (c : Nat) : getF (applyBlank s d) e g c = getF s e g c := rfl

theorem applyBlank_part (s : State) (d : Nat) : (applyBlank s d).part = s.part := rfl

theorem estFold_getF (ests : List Nat) (l : List Nat) (s : State) (d : Nat) (g : Fld) (c : Nat) (h : fne g c PWR_EST.EST 0 = true) :
    getF (l.foldl (fun s d => setF s d PWR_EST.EST (ests.getD d 0)) s) d g c = getF s d g c := by
  induction l generalizing s with
  | nil => rfl
  | cons x l ih => rw [List.foldl_cons, ih, getF_setF_ne _ _ _ _ _ _ _ _ h]

theorem estFold_doms (ests : List Nat) (l : List Nat) (s : State) :
    (l.foldl (fun s d => setF s d PWR_EST.EST (ests.getD d 0)) s).doms = s.doms ∧
    (l.foldl (fun s d => setF s d PWR_EST.EST (ests.getD d 0)) s).lostDies = s.lostDies ∧
    (l.foldl (fun s d => setF s d PWR_EST.EST (ests.getD d 0)) s).heldDies = s.heldDies := by
  induction l generalizing s with
  | nil => exact ⟨rfl, rfl, rfl⟩
  | cons x l ih => rw [List.foldl_cons]; exact ih _

def govF (n : Nat) (s : State) (d : Nat) : State := if getF s d PWR_BLANK.GOV = n then s else applyBlank (setF s d PWR_BLANK.GOV n) d

theorem govF_getF (n : Nat) (s : State) (d e : Nat) (g : Fld) (c : Nat) (h : fne g c PWR_BLANK.GOV 0 = true) : getF (govF n s d) e g c = getF s e g c := by
  unfold govF; split
  · rfl
  · rw [applyBlank_getF, getF_setF_ne _ _ _ _ _ _ _ _ h]

theorem govF_self (n : Nat) (hn : n < 64) (s : State) (d : Nat) : getF (govF n s d) d PWR_BLANK.GOV = n := by
  unfold govF; split
  · assumption
  · rw [applyBlank_getF, getF_setF_self]; exact Nat.mod_eq_of_lt hn

theorem govF_keep (n : Nat) (hn : n < 64) (s : State) (d e : Nat) (h : getF s e PWR_BLANK.GOV = n) : getF (govF n s d) e PWR_BLANK.GOV = n := by
  by_cases he : e = d
  · subst he; exact govF_self n hn s e
  · unfold govF; split
    · exact h
    · rw [applyBlank_getF, getF_setF_die _ _ _ _ _ _ he (by decide) (by decide)]; exact h

theorem govFold (n : Nat) (hn : n < 64) (l : List Nat) (s : State) :
    (∀ e g c, fne g c PWR_BLANK.GOV 0 = true → getF (l.foldl (govF n) s) e g c = getF s e g c) ∧
    (∀ e, getF s e PWR_BLANK.GOV = n ∨ e ∈ l → getF (l.foldl (govF n) s) e PWR_BLANK.GOV = n) := by
  induction l generalizing s with
  | nil => exact ⟨fun _ _ _ _ => rfl, fun e h => h.resolve_right (by simp)⟩
  | cons x l ih =>
    obtain ⟨h1, h2⟩ := ih (govF n s x)
    rw [List.foldl_cons]
    refine ⟨fun e g c h => (h1 e g c h).trans (govF_getF n s x e g c h), fun e h => h2 e ?_⟩
    rcases h with h | h
    · exact .inl (govF_keep n hn s x e h)
    · rcases List.mem_cons.mp h with rfl | h
      · exact .inl (govF_self n hn s e)
      · exact .inr h

/-! ## Module sites -/

theorem loseStore_getF (s : State) (d e : Nat) (g : Fld) (c : Nat) : getF (loseStore s d) e g c = getF s e g c := rfl

/-! ## Register reads -/

theorem latchedBy_facts {pg off : Nat} (h : latchedBy pg off ≠ []) : off % 4 = 0 ∧ ¬ off < 0x80 ∧ isLatch pg off = false := by
  unfold latchedBy at h
  split_ifs at h with h1 h2 h3 h4 h5
  · obtain ⟨rfl, rfl⟩ := h1; decide
  · obtain ⟨rfl, rfl⟩ := h2; decide
  · obtain ⟨rfl, rfl⟩ := h3; decide
  · obtain ⟨rfl, rfl⟩ := h4; decide
  · obtain ⟨rfl, rfl⟩ := h5; decide
  · exact absurd rfl h

/-! ## Folds over registers -/

theorem foldRegs {α : Type} (f : State → α → State) (hf : ∀ s a, f s a = { s with regs := (f s a).regs }) (l : List α) (s : State) :
    l.foldl f s = { s with regs := (l.foldl f s).regs } := by
  induction l generalizing s with
  | nil => rfl
  | cons a l ih =>
    rw [List.foldl_cons]
    conv_lhs => rw [ih (f s a)]
    rw [hf s a]

theorem foldGetF {α : Type} (f : State → α → State) (d : Nat) (g : Fld) (c : Nat) (hf : ∀ s a, getF (f s a) d g c = getF s d g c) (l : List α) (s : State) :
    getF (l.foldl f s) d g c = getF s d g c := by
  induction l generalizing s with
  | nil => rfl
  | cons a l ih => rw [List.foldl_cons, ih, hf]

theorem dataFold (F : Nat → Fld) (base : Nat) (hF : ∀ i, (F i).off = base + 4 * i ∧ (F i).lo = 0 ∧ (F i).width = 32) (hb : base + 4 * 24 < 4096)
    (v : Nat → Nat) (n : Nat) (hn : n ≤ 24) (s : State) :
    let t := (List.range n).foldl (fun s i => setF s 0 (F i) (v i)) s
    t = { s with regs := t.regs } ∧
    (∀ g c, (g.off < 4096 ∧ g.lo < 32) → (g.off < base ∨ base + 4 * 24 ≤ g.off) → getF t 0 g c = getF s 0 g c) ∧
    ∀ i, i < n → getF t 0 (F i) = v i % 2 ^ 32 := by
  induction n generalizing s with
  | zero => exact ⟨rfl, fun _ _ _ _ => rfl, fun i h => by omega⟩
  | succ n ih =>
    obtain ⟨h1, h3, h4⟩ := ih (by omega) s
    rw [List.range_succ, List.foldl_append]
    obtain ⟨u, hu⟩ : ∃ u, u = List.foldl (fun s i => setF s 0 (F i) (v i)) s (List.range n) := ⟨_, rfl⟩
    rw [← hu] at h1 h3 h4 ⊢
    have hk := fun i => hF i
    refine ⟨?_, fun g c hg hlt => ?_, fun i hi => ?_⟩
    · show setF u 0 (F n) (v n) = _
      conv_lhs => rw [h1]
      rfl
    · show getF (setF _ _ _ _ _) _ _ _ = _
      rw [getF_setF_ne _ _ _ _ _ _ _ _ (fne_of_off hg (by have := hF n; omega) (by have := hF n; omega))]
      exact h3 g c hg hlt
    · show getF (setF _ _ _ _ _) _ _ _ = _
      by_cases he : i = n
      · subst he; rw [getF_setF_self, (hF i).2.2]
      · rw [getF_setF_ne _ _ _ _ _ _ _ _ (fne_of_off (by have := hF i; omega) (by have := hF n; omega) (by have := hF i; have := hF n; omega))]
        exact h4 i (by omega)

/-! ## Unload -/

theorem unloadImage_eq (s : State) : ∃ r, unloadImage s = { s with regs := r, recipe := [], stepEnts := [], plans := [], rows := [], susq := [], slots := [], homes := [], pairChecks := [] } ∧ getF (unloadImage s) 0 PAGE_CAP.PROFILE = 0 := by
  refine ⟨(unloadImage s).regs, ?_, ?_⟩
  · unfold unloadImage
    extract_lets s1 s2 s3
    have h1 : s1 = { s with regs := s1.regs } := foldRegs (fun s (q : Nat × Nat × Nat) => dropRegs s q.1 q.2.1 q.2.2) (fun _ _ => rfl) _ _
    have h2 : s2 = { s1 with regs := s2.regs } := foldRegs (fun s d => setF (setF (setF s d SEQ_STS.LOADED 0) d SEQ_STS.ENTRIES 0) d SEQ_STS.STEPS 0) (fun _ _ => rfl) _ _
    have h3 : s3 = { s2 with regs := s3.regs } := foldRegs (fun s i => setF s 0 (CEL_OFF.OFF i) 0xFFFFFFFF) (fun _ _ => rfl) _ _
    clear_value s3 s2 s1
    rw [h3, h2, h1]
    rfl
  · unfold unloadImage
    exact getF_setF_self _ _ _ _ _

/-! ## Power domains -/

theorem getDom_setDom (s : State) (d c : Nat) (x : Dom) : getDom (setDom s d c x) d c = x := mget_mset_self _ _ _ _

/-! ## Searches -/

theorem queueSuspect_searches (s : State) (d g : Nat) : (queueSuspect s d g).searches = s.searches := by
  unfold queueSuspect
  dsimp only
  split
  · rfl
  · rw [raiseErr_searches]; rfl

theorem raiseAll_searches {α : Type} (l : List α) (d pg bit : Nat) (i : α → ErrItem) (s : State) :
    (l.foldl (fun s a => raiseErr s d pg bit (i a)) s).searches = s.searches := by
  induction l generalizing s with
  | nil => rfl
  | cons a l ih => rw [List.foldl_cons, ih, raiseErr_searches]

theorem markSuspect_searches (s : State) (d g : Nat) : (markSuspect s d g).searches = s.searches := rfl

theorem afterVerify_searches (s : State) (d w : Nat) (key : Key) (h : Option Hit) : (afterVerify s d w key h).searches = s.searches := by
  unfold afterVerify
  split
  · rfl
  · dsimp only
    split
    · exact raiseAll_searches _ _ _ _ _ _
    · rw [queueSuspect_searches, markSuspect_searches]
      exact raiseAll_searches _ _ _ _ _ _

/-! ## Cascade -/

theorem getF_setLk (s : State) (k v d : Nat) (f : Fld) (b : Nat) : getF (setLk s k v) d f b = getF s d f b := rfl

theorem setLk_self (s : State) (k v : Nat) : mget 0 (setLk s k v).link k = v := mget_mset_self _ _ _ _

theorem cascPos_setF (s : State) (f : Fld) (v : Nat) : cascPos (setF s 0 f v) = cascPos s := rfl

theorem portOn_cases {s : State} {port : Nat} (h : portOn s port = true) : s.part.unitK = true ∧ (port = 0 ∨ port = 1) := by
  unfold portOn at h
  simp only [Bool.and_eq_true, decide_eq_true_eq] at h
  exact ⟨h.1.1.1, by omega⟩

/-! ## Update engines -/

theorem modCmd_mem (s : State) (id : Nat) (f : UCmd → UCmd) (c : UCmd) (h : c ∈ s.cmds) (hi : c.id = id) : f c ∈ (modCmd s id f).cmds := by
  unfold modCmd updWhere
  exact List.mem_map.mpr ⟨c, h, by rw [if_pos (by simp [hi])]⟩

/-! ## Peer windows -/

theorem peers_fold (s : State) (n : Nat) (m : SMap (Option PeerWin)) (hm : m = (List.range n).foldl (fun m w => mset none m w (if (shadowWin s w).type = 0 then none else some (shadowWin s w))) []) :
    ∀ w, mget none m w = if w < n then (if (shadowWin s w).type = 0 then none else some (shadowWin s w)) else none := by
  induction n generalizing m with
  | zero => intro w; rw [hm]; simp [mget]
  | succ n ih =>
    intro w
    rw [List.range_succ, List.foldl_append, List.foldl_cons, List.foldl_nil] at hm
    have ih := ih _ rfl
    generalize (List.range n).foldl (fun m w => mset none m w (if (shadowWin s w).type = 0 then none else some (shadowWin s w))) [] = k at ih hm
    rw [hm]
    by_cases h : w = n
    · subst h; rw [mget_mset_self, if_pos (show w < w + 1 by omega)]
    · rw [mget_mset_ne _ _ _ _ h, ih]
      by_cases h2 : w < n
      · rw [if_pos h2, if_pos (show w < n + 1 by omega)]
      · rw [if_neg h2, if_neg (show ¬ w < n + 1 by omega)]

/-! ## Debugger -/

theorem getCh_modCh_self (s : State) (d c : Nat) (f : EvChan → EvChan) : getCh (modCh s d c f) d c = f (getCh s d c) := mget_mset_self _ _ _ _

theorem getEnt_modEnt_self (s : State) (d e : Nat) (f : StepEnt → StepEnt) : getEnt (modEnt s d e f) d e = f (getEnt s d e) := mget_mset_self _ _ _ _

theorem getEnt_modEnt_ne (s : State) (d e j : Nat) (f : StepEnt → StepEnt) (h : j ≠ e) : getEnt (modEnt s d e f) d j = getEnt s d j :=
  mget_mset_ne _ _ _ _ (by unfold ekey; omega)

theorem predictor_fold (s : State) (d n : Nat) :
    ∀ u, u = (List.range n).foldl (fun s e => modEnt s d e fun y => { y with conf := 0 }) s →
    (∀ e, getEnt u d e = if e < n then { getEnt s d e with conf := 0 } else getEnt s d e) ∧ u.regs = s.regs := by
  induction n with
  | zero => exact fun u hu => by rw [hu]; exact ⟨fun e => by simp, rfl⟩
  | succ n ih =>
    intro u hu
    rw [List.range_succ, List.foldl_append, List.foldl_cons, List.foldl_nil] at hu
    obtain ⟨ih1, ih2⟩ := ih _ rfl
    generalize (List.range n).foldl (fun s e => modEnt s d e fun y => { y with conf := 0 }) s = v at ih1 ih2 hu
    subst hu
    refine ⟨fun e => ?_, ih2⟩
    by_cases h : e = n
    · subst h; rw [getEnt_modEnt_self, ih1, if_neg (by omega), if_pos (by omega)]
    · rw [getEnt_modEnt_ne _ _ _ _ _ h, ih1]
      by_cases h2 : e < n
      · rw [if_pos h2, if_pos (by omega)]
      · rw [if_neg h2, if_neg (by omega)]

theorem predictor_exec (d : Nat) (s : State) : exec (.predictorClear d) s = .next ((List.range 256).foldl (fun s e => modEnt s d e fun y => { y with conf := 0 }) s) := by
  delta exec
  dsimp only
  delta execPredictorClear
  exact Eq.refl _

theorem showEntry_ents (s : State) (d e : Nat) : (showEntry s d e).stepEnts = s.stepEnts := by
  unfold showEntry; simp

/-! ## Windows -/

theorem bytesBE_len (n v : Nat) : (bytesBE n v).length = n := by
  induction n with
  | zero => rfl
  | succ n ih => simp only [bytesBE, List.length_cons, ih]

theorem giveRead_answer (acc : Nat) (s : State) (st v : Nat) : giveRead acc (answer s st v) = emitOut s (.readData acc st v) := rfl

theorem snapOf_filter (s : State) (acc d line : Nat) : (snapOf s acc d true).filter (fun x => x.base == line) =
    match snapOf s acc d true with
    | some x => if x.base = line then some x else none
    | none => none := by
  cases h : snapOf s acc d true <;> simp [Option.filter]

end Sys2Proof.Machine
end

