-- ==== Sys2Proof/Laws/Keeps.lean ====
section
/-!
SUPPORT. What every operation and every command keeps (`Keeps`), and how that passes through the ways a state is built: a
changed field, a choice, a fold, a pair. Laws/KeepsAll.lean proves it of each operation and each command.
-/

namespace Sys2Proof.Machine

/-- What every command keeps: the queue of commands, the part, the fuses (which only ever rise), the canonical form of the arrays, and
the boundary-scan port. -/
structure Keeps (s t : State) : Prop where
  pending : t.pending = s.pending
  part : Part.same t.part s.part
  svn : s.fuseSvn ≤ t.fuseSvn
  revoked : ∀ k, s.fuseRevoked.testBit k = true → t.fuseRevoked.testBit k = true
  arrays : ArraysWf s → ArraysWf t
  tap : t.tap = s.tap

theorem Keeps.refl (s : State) : Keeps s s := ⟨rfl, rfl, Nat.le_refl _, fun _ h => h, fun h => h, rfl⟩

/-- A change of anything else keeps it. -/
theorem Keeps.rest {o u t : State} (h : Keeps o u) (h0 : t.pending = u.pending) (h1 : t.part = u.part) (h2 : t.fuseSvn = u.fuseSvn) (h3 : t.fuseRevoked = u.fuseRevoked)
    (h4 : t.rows = u.rows) (h5 : t.store = u.store) (h6 : t.recipe = u.recipe) (h7 : t.cache = u.cache) (h8 : t.threads = u.threads)
    (h9 : t.tap = u.tap) : Keeps o t :=
  ⟨by rw [h0]; exact h.pending, by rw [h1]; exact h.part, by rw [h2]; exact h.svn, by rw [h3]; exact h.revoked, by unfold ArraysWf; rw [h4, h5, h6, h7, h8]; exact h.arrays, by rw [h9]; exact h.tap⟩

/-- `Keeps o` over the fields alone. -/
def KeepsF (o : State) (q : List Instr) (p : Part) (v k : Nat) (r : SMap Row) (b : SMap (Option Bucket)) (c : SMap RWord) (l : SMap Line) (t : SMap Thread) (a : Tap) : Prop :=
  q = o.pending ∧ Part.same p o.part ∧ o.fuseSvn ≤ v ∧ (∀ j, o.fuseRevoked.testBit j = true → k.testBit j = true) ∧
  (ArraysWf o → mwf Row.zero r = true ∧ mwf none b = true ∧ mwf ⟨0, 0⟩ c = true ∧ mwf Line.zero l = true ∧ mwf Thread.zero t = true) ∧ a = o.tap

theorem Keeps.lit {o t : State} (h : KeepsF o t.pending t.part t.fuseSvn t.fuseRevoked t.rows t.store t.recipe t.cache t.threads t.tap) : Keeps o t := ⟨h.1, h.2.1, h.2.2.1, h.2.2.2.1, h.2.2.2.2.1, h.2.2.2.2.2⟩
theorem Keeps.of {o t : State} (h : Keeps o t) : KeepsF o t.pending t.part t.fuseSvn t.fuseRevoked t.rows t.store t.recipe t.cache t.threads t.tap := ⟨h.pending, h.part, h.svn, h.revoked, h.arrays, h.tap⟩

theorem KeepsF.rows {o : State} {y : List Instr} {p : Part} {v k : Nat} {r r' : SMap Row} {b : SMap (Option Bucket)} {c : SMap RWord} {l : SMap Line} {t : SMap Thread} {x : Tap}
    (hr : mwf Row.zero r = true → mwf Row.zero r' = true) (h : KeepsF o y p v k r b c l t x) : KeepsF o y p v k r' b c l t x :=
  ⟨h.1, h.2.1, h.2.2.1, h.2.2.2.1, fun a => ⟨hr (h.2.2.2.2.1 a).1, (h.2.2.2.2.1 a).2⟩, h.2.2.2.2.2⟩
theorem KeepsF.store {o : State} {y : List Instr} {p : Part} {v k : Nat} {r : SMap Row} {b b' : SMap (Option Bucket)} {c : SMap RWord} {l : SMap Line} {t : SMap Thread} {x : Tap}
    (hr : mwf none b = true → mwf none b' = true) (h : KeepsF o y p v k r b c l t x) : KeepsF o y p v k r b' c l t x :=
  ⟨h.1, h.2.1, h.2.2.1, h.2.2.2.1, fun a => ⟨(h.2.2.2.2.1 a).1, hr (h.2.2.2.2.1 a).2.1, (h.2.2.2.2.1 a).2.2⟩, h.2.2.2.2.2⟩
theorem KeepsF.recipe {o : State} {y : List Instr} {p : Part} {v k : Nat} {r : SMap Row} {b : SMap (Option Bucket)} {c c' : SMap RWord} {l : SMap Line} {t : SMap Thread} {x : Tap}
    (hr : mwf ⟨0, 0⟩ c = true → mwf ⟨0, 0⟩ c' = true) (h : KeepsF o y p v k r b c l t x) : KeepsF o y p v k r b c' l t x :=
  ⟨h.1, h.2.1, h.2.2.1, h.2.2.2.1, fun a => ⟨(h.2.2.2.2.1 a).1, (h.2.2.2.2.1 a).2.1, hr (h.2.2.2.2.1 a).2.2.1, (h.2.2.2.2.1 a).2.2.2⟩, h.2.2.2.2.2⟩
theorem KeepsF.cache {o : State} {y : List Instr} {p : Part} {v k : Nat} {r : SMap Row} {b : SMap (Option Bucket)} {c : SMap RWord} {l l' : SMap Line} {t : SMap Thread} {x : Tap}
    (hr : mwf Line.zero l = true → mwf Line.zero l' = true) (h : KeepsF o y p v k r b c l t x) : KeepsF o y p v k r b c l' t x :=
  ⟨h.1, h.2.1, h.2.2.1, h.2.2.2.1, fun a => ⟨(h.2.2.2.2.1 a).1, (h.2.2.2.2.1 a).2.1, (h.2.2.2.2.1 a).2.2.1, hr (h.2.2.2.2.1 a).2.2.2.1, (h.2.2.2.2.1 a).2.2.2.2⟩, h.2.2.2.2.2⟩
theorem KeepsF.threads {o : State} {y : List Instr} {p : Part} {v k : Nat} {r : SMap Row} {b : SMap (Option Bucket)} {c : SMap RWord} {l : SMap Line} {t t' : SMap Thread} {x : Tap}
    (hr : mwf Thread.zero t = true → mwf Thread.zero t' = true) (h : KeepsF o y p v k r b c l t x) : KeepsF o y p v k r b c l t' x :=
  ⟨h.1, h.2.1, h.2.2.1, h.2.2.2.1, fun a => ⟨(h.2.2.2.2.1 a).1, (h.2.2.2.2.1 a).2.1, (h.2.2.2.2.1 a).2.2.1, (h.2.2.2.2.1 a).2.2.2.1, hr (h.2.2.2.2.1 a).2.2.2.2⟩, h.2.2.2.2.2⟩

theorem Keeps.of_pair {α : Type} {o x : State} {y : α} {e : State × α} (he : e = (x, y)) (h : Keeps o e.1) : Keeps o x := by rw [he] at h; exact h
theorem Keeps.of_snd {α : Type} {o x : State} {y : α} {e : α × State} (he : e = (y, x)) (h : Keeps o e.2) : Keeps o x := by rw [he] at h; exact h

/-- A fold of operations that keep it keeps it. -/
theorem Keeps.foldl {α : Type} {o u : State} {f : State → α → State} {l : List α} (hf : ∀ v a, Keeps o v → Keeps o (f v a)) (h : Keeps o u) :
    Keeps o (l.foldl f u) := by
  induction l generalizing u with
  | nil => exact h
  | cons a l ih => exact ih (hf _ _ h)

theorem KeepsF.foldlThreads {β : Type} {f : SMap Thread → β → SMap Thread} (hf : ∀ m b, mwf Thread.zero m = true → mwf Thread.zero (f m b) = true) (q : List β)
    {o : State} {y : List Instr} {p : Part} {v k : Nat} {r : SMap Row} {b : SMap (Option Bucket)} {c : SMap RWord} {l : SMap Line} {t : SMap Thread} {x : Tap}
    (h : KeepsF o y p v k r b c l t x) : KeepsF o y p v k r b c l (q.foldl f t) x := h.threads (mwf_foldl _ f hf q t)
theorem KeepsF.foldlRecipe {β : Type} {f : SMap RWord → β → SMap RWord} (hf : ∀ m b, mwf ⟨0, 0⟩ m = true → mwf ⟨0, 0⟩ (f m b) = true) (q : List β)
    {o : State} {y : List Instr} {p : Part} {v k : Nat} {r : SMap Row} {b : SMap (Option Bucket)} {c : SMap RWord} {l : SMap Line} {t : SMap Thread} {x : Tap}
    (h : KeepsF o y p v k r b c l t x) : KeepsF o y p v k r b (q.foldl f c) l t x := h.recipe (mwf_foldl _ f hf q c)

/-- The first of a pair chosen by a condition. -/
theorem Keeps.ite_fst {α : Type} {o : State} {a b : State × α} {c : Prop} [Decidable c] (h1 : Keeps o a.1) (h2 : Keeps o b.1) : Keeps o (if c then a else b).1 := by
  split
  · exact h1
  · exact h2

theorem Keeps.ite {o a b : State} {c : Prop} [Decidable c] (h1 : Keeps o a) (h2 : Keeps o b) : Keeps o (if c then a else b) := by
  split
  · exact h1
  · exact h2

/-- The outcome of a command keeps it. -/
def KeepsR (o : State) : Result → Prop
  | .next t => Keeps o t
  | _ => True

theorem keepsR_next {o t : State} (h : Keeps o t) : KeepsR o (.next t) := h
theorem keepsR_fault (o : State) (f : Fault) : KeepsR o (.fault f) := trivial

end Sys2Proof.Machine
end

