-- ==== Sys2Proof/Laws/KeepsAll.lean ====
section
/-!
SUPPORT. Every operation of the block, and every command, keeps the queue, the part, the fuses and the canonical form of the arrays
(`Keeps`): one lemma per definition, each proved from the lemmas of the definitions that it calls.
-/

namespace Sys2Proof.Machine

theorem keeps_modReq {o₀ s : State} (hk : Keeps o₀ s) (id : Nat) (f : Req → Req) : Keeps o₀ (modReq s id f) := by
  unfold modReq
  repeat' first | with_reducible (first | assumption) | (with_reducible refine Keeps.lit ?_; dsimp only; with_reducible first | exact Keeps.of hk | refine Keeps.of ?_) | intro _ | dsimp only

theorem keeps_setT {o₀ s : State} (hk : Keeps o₀ s) (d : Nat) (t : Nat) (x : Thread) : Keeps o₀ (setT s d t x) := by
  unfold setT
  repeat' first | with_reducible (first | assumption) | ((with_reducible refine Keeps.lit ?_); dsimp only; (try with_reducible (first | refine KeepsF.rows (fun hm => mwf_mset _ _ _ _ hm) ?_ | refine KeepsF.rows (fun hm => mwf_filter _ _ _ hm) ?_ | apply KeepsF.rows (fun _ => mwf_nil _))); (try with_reducible (first | refine KeepsF.store (fun hm => mwf_mset _ _ _ _ hm) ?_ | refine KeepsF.store (fun hm => mwf_filter _ _ _ hm) ?_ | apply KeepsF.store (fun _ => mwf_nil _))); (try with_reducible (first | refine KeepsF.recipe (fun hm => mwf_mset _ _ _ _ hm) ?_ | refine KeepsF.recipe (fun hm => mwf_filter _ _ _ hm) ?_ | apply KeepsF.recipe (fun _ => mwf_nil _) | refine KeepsF.foldlRecipe (fun _ _ hm => mwf_mset _ _ _ _ hm) _ ?_)); (try with_reducible (first | refine KeepsF.cache (fun hm => mwf_mset _ _ _ _ hm) ?_ | refine KeepsF.cache (fun hm => mwf_filter _ _ _ hm) ?_ | apply KeepsF.cache (fun _ => mwf_nil _))); (try with_reducible (first | refine KeepsF.threads (fun hm => mwf_mset _ _ _ _ hm) ?_ | refine KeepsF.threads (fun hm => mwf_filter _ _ _ hm) ?_ | apply KeepsF.threads (fun _ => mwf_nil _) | refine KeepsF.foldlThreads (fun _ _ hm => mwf_mmod _ _ _ _ hm) _ ?_)); with_reducible first | exact Keeps.of hk | refine Keeps.of ?_) | dsimp only

theorem keeps_formResp {o₀ s : State} (hk : Keeps o₀ s) (d : Nat) (t : Nat) (x : Resp) : Keeps o₀ (formResp s d t x) := by
  unfold formResp
  repeat' first | with_reducible (first | assumption | apply keeps_modReq | apply keeps_setT | refine Keeps.ite ?_ ?_) | (with_reducible refine Keeps.lit ?_; dsimp only; with_reducible first | exact Keeps.of hk | refine Keeps.of ?_) | split | intro _ | dsimp only

theorem keeps_pushNotice {o₀ s : State} (hk : Keeps o₀ s) (d : Nat) (chan : Nat) (tag : Nat) (recipe : Nat) (status : Nat) (two : Bool) (dev : Bool) (r1 : BitVec 256) (r2 : BitVec 256) (thread : Option Nat) : Keeps o₀ (pushNotice s d chan tag recipe status two dev r1 r2 thread) := by
  unfold pushNotice
  repeat' first | with_reducible (first | assumption | refine Keeps.ite ?_ ?_) | (with_reducible refine Keeps.lit ?_; dsimp only; with_reducible first | exact Keeps.of hk | refine Keeps.of ?_) | split | dsimp only

theorem keeps_deviceAnswer {o₀ s : State} (hk : Keeps o₀ s) (d : Nat) (t : Nat) (status : Nat) : Keeps o₀ (deviceAnswer s d t status) := by
  unfold deviceAnswer
  repeat' first | with_reducible (first | assumption | apply keeps_formResp | apply keeps_pushNotice | apply keeps_setT | refine Keeps.ite ?_ ?_) | (with_reducible refine Keeps.lit ?_; dsimp only; with_reducible first | exact Keeps.of hk | refine Keeps.of ?_) | split | dsimp only

theorem keeps_dropWork {o₀ s : State} (hk : Keeps o₀ s) (d : Nat) (t : Nat) : Keeps o₀ (dropWork s d t) := by
  unfold dropWork
  repeat' first | with_reducible (first | assumption | refine Keeps.ite ?_ ?_ | refine Keeps.foldl (fun _ _ _ => ?_) ?_) | (with_reducible refine Keeps.lit ?_; dsimp only; with_reducible first | exact Keeps.of hk | refine Keeps.of ?_) | split | intro _ | dsimp only

theorem keeps_restartWindow {o₀ s : State} (hk : Keeps o₀ s) (d : Nat) : Keeps o₀ (restartWindow s d) := by
  unfold restartWindow
  repeat' first | with_reducible (first | assumption) | (with_reducible refine Keeps.lit ?_; dsimp only; with_reducible first | exact Keeps.of hk | refine Keeps.of ?_) | dsimp only

theorem keeps_quiet {o₀ s : State} (hk : Keeps o₀ s) (d : Nat) : Keeps o₀ (quiet s d) := by
  unfold quiet
  repeat' first | with_reducible (first | assumption | apply keeps_restartWindow | refine Keeps.ite ?_ ?_) | split | intro _ | dsimp only

theorem keeps_freeT {o₀ s : State} (hk : Keeps o₀ s) (d : Nat) (t : Nat) : Keeps o₀ (freeT s d t) := by
  unfold freeT
  repeat' first | with_reducible (first | assumption | apply keeps_dropWork | apply keeps_quiet | apply keeps_setT) | (with_reducible refine Keeps.lit ?_; dsimp only; with_reducible first | exact Keeps.of hk | refine Keeps.of ?_) | dsimp only

theorem keeps_endThreads {o₀ s : State} (hk : Keeps o₀ s) (d : Nat) : Keeps o₀ (endThreads s d) := by
  unfold endThreads
  repeat' first | with_reducible (first | assumption | apply keeps_freeT | refine Keeps.foldl (fun _ _ _ => ?_) ?_) | intro _ | dsimp only

theorem keeps_abortThreads {o₀ s : State} (hk : Keeps o₀ s) (d : Nat) : Keeps o₀ (abortThreads s d) := by
  unfold abortThreads
  repeat' first | with_reducible (first | assumption | apply keeps_endThreads | apply keeps_deviceAnswer | refine Keeps.foldl (fun _ _ _ => ?_) ?_) | intro _ | dsimp only

theorem keeps_setF {o₀ s : State} (hk : Keeps o₀ s) (d : Nat) (f : Fld) (v : Nat) (bank : Nat) : Keeps o₀ (setF s d f v bank) := by
  unfold setF
  repeat' first | with_reducible (first | assumption) | (with_reducible refine Keeps.lit ?_; dsimp only; with_reducible first | exact Keeps.of hk | refine Keeps.of ?_) | dsimp only

theorem keeps_bump {o₀ s : State} (hk : Keeps o₀ s) (d : Nat) (f : Fld) (n : Nat) (bank : Nat) : Keeps o₀ (bump s d f n bank) := by
  unfold bump
  repeat' first | with_reducible (first | assumption | apply keeps_setF) | dsimp only

theorem keeps_emitOut {o₀ s : State} (hk : Keeps o₀ s) (o : Output) : Keeps o₀ (emitOut s o) := by
  unfold emitOut
  repeat' first | with_reducible (first | assumption) | (with_reducible refine Keeps.lit ?_; dsimp only; with_reducible first | exact Keeps.of hk | refine Keeps.of ?_) | dsimp only

theorem keeps_giveRead {o₀ : State} (acc : Nat) {r : Reply} (h : Keeps o₀ r.1) : Keeps o₀ (giveRead acc r) := by
  unfold giveRead
  split
  · exact keeps_emitOut h ..
  · exact h

theorem keeps_rebase {o₀ s : State} (hk : Keeps o₀ s) : Keeps o₀ (rebase s) := by
  unfold rebase
  repeat' first | with_reducible (first | assumption) | (with_reducible refine Keeps.lit ?_; dsimp only; with_reducible first | exact Keeps.of hk | refine Keeps.of ?_) | dsimp only

theorem keeps_queueCell {o₀ s : State} (hk : Keeps o₀ s) (src : Nat) (cls : Nat) (id : Nat) (payload : Nat) : Keeps o₀ (queueCell s src cls id payload) := by
  unfold queueCell
  repeat' first | with_reducible (first | assumption) | (with_reducible refine Keeps.lit ?_; dsimp only; with_reducible first | exact Keeps.of hk | refine Keeps.of ?_) | dsimp only

theorem keeps_broadcastTime {o₀ s : State} (hk : Keeps o₀ s) : Keeps o₀ (broadcastTime s) := by
  unfold broadcastTime
  repeat' first | with_reducible (first | assumption | apply keeps_queueCell | apply keeps_rebase) | (with_reducible refine Keeps.lit ?_; dsimp only; with_reducible first | exact Keeps.of hk | refine Keeps.of ?_) | intro _ | dsimp only

theorem keeps_loseDie {o₀ s : State} (hk : Keeps o₀ s) (d : Nat) : Keeps o₀ (loseDie s d) := by
  unfold loseDie
  repeat' first | with_reducible (first | assumption) | (with_reducible refine Keeps.lit ?_; dsimp only; with_reducible first | exact Keeps.of hk | refine Keeps.of ?_) | dsimp only

theorem keeps_bumpSat {o₀ s : State} (hk : Keeps o₀ s) (d : Nat) (f : Fld) (n : Nat) (bank : Nat) : Keeps o₀ (bumpSat s d f n bank) := by
  unfold bumpSat
  repeat' first | with_reducible (first | assumption | apply keeps_setF) | dsimp only

theorem keeps_putFirst {o₀ s : State} (hk : Keeps o₀ s) (d : Nat) (pg : Nat) (cls : Nat) (bit : Nat) (i : ErrItem) (stamp : Nat) : Keeps o₀ (putFirst s d pg cls bit i stamp) := by
  unfold putFirst
  repeat' first | with_reducible (first | assumption | apply keeps_setF) | dsimp only

theorem keeps_putSecond {o₀ s : State} (hk : Keeps o₀ s) (d : Nat) (pg : Nat) (cls : Nat) (bit : Nat) (esc : Nat) : Keeps o₀ (putSecond s d pg cls bit esc) := by
  unfold putSecond
  repeat' first | with_reducible (first | assumption | apply keeps_setF) | dsimp only

theorem keeps_dropMarks {o₀ s : State} (hk : Keeps o₀ s) (d : Nat) (pg : Nat) (second : Bool) : Keeps o₀ (dropMarks s d pg second) := by
  unfold dropMarks
  repeat' first | with_reducible (first | assumption) | (with_reducible refine Keeps.lit ?_; dsimp only; with_reducible first | exact Keeps.of hk | refine Keeps.of ?_) | dsimp only

theorem keeps_setMark {o₀ s : State} (hk : Keeps o₀ s) (d : Nat) (m : Nat) : Keeps o₀ (setMark s d m) := by
  unfold setMark
  repeat' first | with_reducible (first | assumption | refine Keeps.ite ?_ ?_) | (with_reducible refine Keeps.lit ?_; dsimp only; with_reducible first | exact Keeps.of hk | refine Keeps.of ?_) | split | dsimp only

theorem keeps_recordErr {o₀ s : State} (hk : Keeps o₀ s) (d : Nat) (pg : Nat) (bit : Nat) (i : ErrItem) : Keeps o₀ (recordErr s d pg bit i).1 := by
  unfold recordErr
  repeat' first | with_reducible (first | assumption | apply keeps_dropMarks | apply keeps_putFirst | apply keeps_bumpSat | apply keeps_putSecond | refine Keeps.ite ?_ ?_) | split | dsimp only

theorem keeps_sendMsix {o₀ s : State} (hk : Keeps o₀ s) (v : Nat) : Keeps o₀ (sendMsix s v) := by
  unfold sendMsix
  repeat' first | with_reducible (first | assumption | apply keeps_emitOut | refine Keeps.ite ?_ ?_) | (with_reducible refine Keeps.lit ?_; dsimp only; with_reducible first | exact Keeps.of hk | refine Keeps.of ?_) | split | dsimp only

theorem keeps_queueMgmt {o₀ s : State} (hk : Keeps o₀ s) (src : Nat) (dest : Nat) (mtype : Nat) (key : Nat) (n : Nat) (body : Nat) (named : Bool) : Keeps o₀ (queueMgmt s src dest mtype key n body named) := by
  unfold queueMgmt
  repeat' first | with_reducible (first | assumption | apply keeps_queueCell | refine Keeps.ite ?_ ?_ | refine Keeps.foldl (fun _ _ _ => ?_) ?_) | split | intro _ | dsimp only

theorem keeps_hostReport {o₀ s : State} (hk : Keeps o₀ s) (d : Nat) (pg : Nat) (bit : Nat) (cls : Nat) : Keeps o₀ (hostReport s d pg bit cls) := by
  unfold hostReport
  repeat' first | with_reducible (first | assumption | apply keeps_queueMgmt | apply keeps_sendMsix | refine Keeps.ite ?_ ?_) | (with_reducible refine Keeps.lit ?_; dsimp only; with_reducible first | exact Keeps.of hk | refine Keeps.of ?_) | split | dsimp only

theorem keeps_setSticky {o₀ s : State} (hk : Keeps o₀ s) (d : Nat) (pg : Nat) (bit : Nat) : Keeps o₀ (setSticky s d pg bit) := by
  unfold setSticky
  repeat' first | with_reducible (first | assumption | apply keeps_setF) | dsimp only

theorem keeps_hostRecord {o₀ s : State} (hk : Keeps o₀ s) (d : Nat) (pg : Nat) (bit : Nat) (k : Nat) (second : Bool) : Keeps o₀ (hostRecord s d pg bit k second) := by
  unfold hostRecord
  repeat' first | with_reducible (first | assumption | apply keeps_setMark | apply keeps_hostReport) | dsimp only

theorem keeps_unreported {o₀ u : State} (hk : Keeps o₀ u) (s : State) (d pg bit k : Nat) : Keeps o₀ (unreported s u d pg bit k) := by
  unfold unreported
  exact Keeps.ite hk (Keeps.ite (keeps_hostRecord hk ..) (keeps_hostReport hk ..))

theorem keeps_raiseHost {o₀ s : State} (hk : Keeps o₀ s) (d : Nat) (pg : Nat) (bit : Nat) (i : ErrItem) : Keeps o₀ (raiseHost s d pg bit i) := by
  unfold raiseHost
  repeat' first | with_reducible (first | assumption | apply keeps_hostRecord | apply keeps_recordErr | apply keeps_setMark | apply keeps_setSticky | apply keeps_unreported | refine Keeps.of_pair ‹_ = (_, _)› ?_ | refine Keeps.ite ?_ ?_) | split | dsimp only

theorem keeps_postNotice {o₀ s : State} (hk : Keeps o₀ s) (d : Nat) (w0 : Nat) (w1 : Nat) (w2 : Nat) (w3 : Nat) : Keeps o₀ (postNotice s d w0 w1 w2 w3).1 := by
  unfold postNotice
  repeat' first | with_reducible (first | assumption | apply keeps_raiseHost | apply keeps_bumpSat | apply keeps_setF | refine Keeps.ite ?_ ?_) | (with_reducible refine Keeps.lit ?_; dsimp only; with_reducible first | exact Keeps.of hk | refine Keeps.of ?_) | split | dsimp only

theorem keeps_report {o₀ s : State} (hk : Keeps o₀ s) (d : Nat) (pg : Nat) (bit : Nat) (k : Nat) (esc : Bool) (data : Nat) : Keeps o₀ (report s d pg bit k esc data) := by
  unfold report
  repeat' first | with_reducible (first | assumption | apply keeps_raiseHost | apply keeps_postNotice | apply keeps_setMark | apply keeps_hostRecord | refine Keeps.ite ?_ ?_) | split | dsimp only

theorem keeps_raiseErr {o₀ s : State} (hk : Keeps o₀ s) (d : Nat) (pg : Nat) (bit : Nat) (i : ErrItem) : Keeps o₀ (raiseErr s d pg bit i) := by
  unfold raiseErr
  repeat' first | with_reducible (first | assumption | apply keeps_loseDie | apply keeps_recordErr | apply keeps_report | apply keeps_setSticky | apply keeps_unreported | refine Keeps.of_pair ‹_ = (_, _)› ?_ | refine Keeps.ite ?_ ?_) | split | dsimp only

theorem keeps_ckptDue {o₀ s : State} (hk : Keeps o₀ s) : Keeps o₀ (ckptDue s) := by
  unfold ckptDue
  repeat' first | with_reducible (first | assumption | apply keeps_bump | apply keeps_raiseErr | refine Keeps.ite ?_ ?_) | (with_reducible refine Keeps.lit ?_; dsimp only; with_reducible first | exact Keeps.of hk | refine Keeps.of ?_) | split | dsimp only

theorem keeps_evPost {o₀ s : State} (hk : Keeps o₀ s) (addr : Nat) (bytes : List Nat) : Keeps o₀ (evPost s addr bytes) := by
  unfold evPost
  repeat' first | with_reducible (first | assumption | apply keeps_emitOut | refine Keeps.ite ?_ ?_) | (with_reducible refine Keeps.lit ?_; dsimp only; with_reducible first | exact Keeps.of hk | refine Keeps.of ?_) | split | dsimp only

theorem keeps_memWrite {o₀ s : State} (hk : Keeps o₀ s) (d : Nat) (line : Nat) (b : Bucket) : Keeps o₀ (memWrite s d line b) := by
  unfold memWrite
  repeat' first | with_reducible (first | assumption) | ((with_reducible refine Keeps.lit ?_); dsimp only; (try with_reducible (first | refine KeepsF.rows (fun hm => mwf_mset _ _ _ _ hm) ?_ | refine KeepsF.rows (fun hm => mwf_filter _ _ _ hm) ?_ | apply KeepsF.rows (fun _ => mwf_nil _))); (try with_reducible (first | refine KeepsF.store (fun hm => mwf_mset _ _ _ _ hm) ?_ | refine KeepsF.store (fun hm => mwf_filter _ _ _ hm) ?_ | apply KeepsF.store (fun _ => mwf_nil _))); (try with_reducible (first | refine KeepsF.recipe (fun hm => mwf_mset _ _ _ _ hm) ?_ | refine KeepsF.recipe (fun hm => mwf_filter _ _ _ hm) ?_ | apply KeepsF.recipe (fun _ => mwf_nil _) | refine KeepsF.foldlRecipe (fun _ _ hm => mwf_mset _ _ _ _ hm) _ ?_)); (try with_reducible (first | refine KeepsF.cache (fun hm => mwf_mset _ _ _ _ hm) ?_ | refine KeepsF.cache (fun hm => mwf_filter _ _ _ hm) ?_ | apply KeepsF.cache (fun _ => mwf_nil _))); (try with_reducible (first | refine KeepsF.threads (fun hm => mwf_mset _ _ _ _ hm) ?_ | refine KeepsF.threads (fun hm => mwf_filter _ _ _ hm) ?_ | apply KeepsF.threads (fun _ => mwf_nil _) | refine KeepsF.foldlThreads (fun _ _ hm => mwf_mmod _ _ _ _ hm) _ ?_)); with_reducible first | exact Keeps.of hk | refine Keeps.of ?_) | dsimp only

theorem keeps_putHalf {o₀ s : State} (hk : Keeps o₀ s) (addr : Nat) (v : Nat) (d : Nat) : Keeps o₀ (putHalf s addr v d) := by
  unfold putHalf
  repeat' first | with_reducible (first | assumption | apply keeps_memWrite) | dsimp only

theorem keeps_evWrite {o₀ s : State} (hk : Keeps o₀ s) (addr : Nat) (blocks : List Nat) : Keeps o₀ (evWrite s addr blocks) := by
  unfold evWrite
  repeat' first | with_reducible (first | assumption | apply keeps_putHalf | apply keeps_evPost | refine Keeps.ite ?_ ?_ | refine Keeps.foldl (fun _ _ _ => ?_) ?_) | split | intro _ | dsimp only

theorem keeps_putRecord {o₀ s : State} (hk : Keeps o₀ s) (bits : Nat) : Keeps o₀ (putRecord s bits) := by
  unfold putRecord
  repeat' first | with_reducible (first | assumption | apply keeps_ckptDue | apply keeps_evWrite | apply keeps_setF | refine Keeps.ite ?_ ?_) | (with_reducible refine Keeps.lit ?_; dsimp only; with_reducible first | exact Keeps.of hk | refine Keeps.of ?_) | split | dsimp only

theorem keeps_sendEvidence_loseRecord {o₀ s : State} (hk : Keeps o₀ s) (code : Nat) : Keeps o₀ (sendEvidence.loseRecord s code) := by
  unfold sendEvidence.loseRecord
  repeat' first | with_reducible (first | assumption | apply keeps_bump | apply keeps_setF | apply keeps_raiseErr | refine Keeps.ite ?_ ?_) | (with_reducible refine Keeps.lit ?_; dsimp only; with_reducible first | exact Keeps.of hk | refine Keeps.of ?_) | split | dsimp only

theorem keeps_sendEvidence {o₀ s : State} (hk : Keeps o₀ s) (p : EvPart) (arr : Nat) (dep : Option Nat) : Keeps o₀ (sendEvidence s p arr dep) := by
  unfold sendEvidence
  extract_lets r sec
  split
  dsimp only
  refine Keeps.ite (keeps_sendEvidence_loseRecord hk _) (Keeps.rest (Keeps.ite hk (keeps_queueMgmt hk ..)) rfl rfl rfl rfl rfl rfl rfl rfl rfl rfl)

theorem keeps_appendRecord {o₀ s : State} (hk : Keeps o₀ s) (bits : Nat) : Keeps o₀ (appendRecord s bits) := by
  unfold appendRecord
  repeat' first | with_reducible (first | assumption | apply keeps_putRecord | apply keeps_sendEvidence | apply keeps_sendEvidence_loseRecord | refine Keeps.ite ?_ ?_) | (with_reducible refine Keeps.lit ?_; dsimp only; with_reducible first | exact Keeps.of hk | refine Keeps.of ?_) | split | dsimp only

theorem keeps_discont {o₀ s : State} (hk : Keeps o₀ s) (before : Nat) (cause : Nat) : Keeps o₀ (discont s before cause) := by
  unfold discont
  repeat' first | with_reducible (first | assumption | apply keeps_appendRecord | refine Keeps.ite ?_ ?_) | split | dsimp only

theorem keeps_setCounter {o₀ s : State} (hk : Keeps o₀ s) (t : Nat) (cause : Nat) (load : Bool) : Keeps o₀ (setCounter s t cause load) := by
  unfold setCounter
  repeat' first | with_reducible (first | assumption | apply keeps_broadcastTime | apply keeps_discont | apply keeps_rebase | apply keeps_setF | apply keeps_raiseErr | refine Keeps.ite ?_ ?_) | (with_reducible refine Keeps.lit ?_; dsimp only; with_reducible first | exact Keeps.of hk | refine Keeps.of ?_) | split | dsimp only

theorem keeps_setSync {o₀ s : State} (hk : Keeps o₀ s) (v : Nat) : Keeps o₀ (setSync s v) := by
  unfold setSync
  repeat' first | with_reducible (first | assumption | apply keeps_setF) | dsimp only

theorem keeps_loadTod {o₀ s : State} (hk : Keeps o₀ s) (ofs : Int) : Keeps o₀ (loadTod s ofs) := by
  unfold loadTod
  repeat' first | with_reducible (first | assumption | apply keeps_discont | apply keeps_setCounter | apply keeps_setF | apply keeps_setSync | refine Keeps.ite ?_ ?_) | (with_reducible refine Keeps.lit ?_; dsimp only; with_reducible first | exact Keeps.of hk | refine Keeps.of ?_) | split | dsimp only

theorem keeps_acquire {o₀ s : State} (hk : Keeps o₀ s) : Keeps o₀ (acquire s) := by
  unfold acquire
  repeat' first | with_reducible (first | assumption | apply keeps_setSync | apply keeps_discont | refine Keeps.ite ?_ ?_) | (with_reducible refine Keeps.lit ?_; dsimp only; with_reducible first | exact Keeps.of hk | refine Keeps.of ?_) | split | dsimp only

theorem keeps_setRate {o₀ s : State} (hk : Keeps o₀ s) (r : Nat) : Keeps o₀ (setRate s r) := by
  unfold setRate
  repeat' first | with_reducible (first | assumption | apply keeps_rebase | apply keeps_setF) | (with_reducible refine Keeps.lit ?_; dsimp only; with_reducible first | exact Keeps.of hk | refine Keeps.of ?_) | dsimp only

theorem keeps_servo {o₀ s : State} (hk : Keeps o₀ s) (e : Int) : Keeps o₀ (servo s e) := by
  unfold servo
  have h1 := keeps_setF hk 0 TIM_PERR.VALUE (toU32 (e.tdiv u32)) 0
  extract_lets s1 was s2 t2 s3 u f adj n t3 s4 s5
  have h2 : Keeps o₀ s2 := Keeps.ite (keeps_acquire h1) h1
  have h3 : Keeps o₀ s3 := Keeps.rest h2 rfl rfl rfl rfl rfl rfl rfl rfl rfl rfl
  have h4 : Keeps o₀ s4 := Keeps.rest h3 rfl rfl rfl rfl rfl rfl rfl rfl rfl rfl
  have h5 : Keeps o₀ s5 := keeps_setRate (keeps_setF h4 ..) ..
  exact Keeps.ite (keeps_setCounter (keeps_rebase h3) ..) (Keeps.ite (keeps_setSync h5 ..) h5)

theorem keeps_acceptEdge {o₀ s : State} (hk : Keeps o₀ s) : Keeps o₀ (acceptEdge s) := by
  unfold acceptEdge
  repeat' first | with_reducible (first | assumption | apply keeps_servo | apply keeps_bump | apply keeps_loadTod | apply keeps_rebase | refine Keeps.ite ?_ ?_) | (with_reducible refine Keeps.lit ?_; dsimp only; with_reducible first | exact Keeps.of hk | refine Keeps.of ?_) | split | dsimp only

theorem keeps_modCmd {o₀ s : State} (hk : Keeps o₀ s) (id : Nat) (f : UCmd → UCmd) : Keeps o₀ (modCmd s id f) := by
  unfold modCmd
  repeat' first | with_reducible (first | assumption) | (with_reducible refine Keeps.lit ?_; dsimp only; with_reducible first | exact Keeps.of hk | refine Keeps.of ?_) | intro _ | dsimp only

theorem keeps_breakWide {o₀ s : State} (hk : Keeps o₀ s) (c : UCmd) : Keeps o₀ (breakWide s c) := by
  unfold breakWide
  repeat' first | with_reducible (first | assumption | apply keeps_modCmd) | (with_reducible refine Keeps.lit ?_; dsimp only; with_reducible first | exact Keeps.of hk | refine Keeps.of ?_) | split | intro _ | dsimp only

theorem keeps_sendTarget {o₀ s : State} (hk : Keeps o₀ s) (key : Nat) (cyc : Nat) (change : Nat) : Keeps o₀ (sendTarget s key cyc change) := by
  unfold sendTarget
  repeat' first | with_reducible (first | assumption | apply keeps_queueCell | refine Keeps.foldl (fun _ _ _ => ?_) ?_) | intro _ | dsimp only

theorem keeps_startFlip {o₀ s : State} (hk : Keeps o₀ s) (c : UCmd) : Keeps o₀ (startFlip s c) := by
  unfold startFlip
  repeat' first | with_reducible (first | assumption | apply keeps_modCmd | apply keeps_sendTarget | refine Keeps.ite ?_ ?_) | (with_reducible refine Keeps.lit ?_; dsimp only; with_reducible first | exact Keeps.of hk | refine Keeps.of ?_) | split | intro _ | dsimp only

theorem keeps_startBulk {o₀ s : State} (hk : Keeps o₀ s) (c : UCmd) : Keeps o₀ (startBulk s c) := by
  unfold startBulk
  repeat' first | with_reducible (first | assumption | apply keeps_emitOut | apply keeps_modCmd | apply keeps_setF | refine Keeps.of_pair ‹_ = (_, _)› ?_ | refine Keeps.ite ?_ ?_) | (with_reducible refine Keeps.lit ?_; dsimp only; with_reducible first | exact Keeps.of hk | refine Keeps.of ?_) | split | intro _ | dsimp only

theorem keeps_tryPlan {o₀ s : State} (hk : Keeps o₀ s) (id : Nat) : Keeps o₀ (tryPlan s id) := by
  unfold tryPlan
  repeat' first | with_reducible (first | assumption | apply keeps_modCmd | apply keeps_startBulk | apply keeps_startFlip | refine Keeps.of_pair ‹_ = (_, _)› ?_ | refine Keeps.ite ?_ ?_) | split | intro _ | dsimp only

theorem keeps_tookTurn {o₀ s : State} (hk : Keeps o₀ s) (c : UCmd) : Keeps o₀ (tookTurn s c) := by
  unfold tookTurn
  repeat' first | with_reducible (first | assumption) | (with_reducible refine Keeps.lit ?_; dsimp only; with_reducible first | exact Keeps.of hk | refine Keeps.of ?_) | dsimp only

theorem keeps_takeCmd {o₀ s : State} (hk : Keeps o₀ s) (c : UCmd) (expect : Nat) : Keeps o₀ (takeCmd s c expect) := by
  unfold takeCmd
  repeat' first | with_reducible (first | assumption | apply keeps_modCmd | apply keeps_tookTurn | apply keeps_tryPlan) | (with_reducible refine Keeps.lit ?_; dsimp only; with_reducible first | exact Keeps.of hk | refine Keeps.of ?_) | intro _ | dsimp only

theorem keeps_acceptOp {o₀ s : State} (hk : Keeps o₀ s) (d : Nat) (cid : Nat) (op : Nat) : Keeps o₀ (acceptOp s d cid op) := by
  unfold acceptOp
  repeat' first | with_reducible (first | assumption | apply keeps_breakWide | apply keeps_takeCmd | refine Keeps.ite ?_ ?_) | split | intro _ | dsimp only

theorem keeps_modFetch {o₀ s : State} (hk : Keeps o₀ s) (id : Nat) (f : CFetch → CFetch) : Keeps o₀ (modFetch s id f) := by
  unfold modFetch
  repeat' first | with_reducible (first | assumption) | (with_reducible refine Keeps.lit ?_; dsimp only; with_reducible first | exact Keeps.of hk | refine Keeps.of ?_) | intro _ | dsimp only

theorem keeps_touchXlats {o₀ s : State} (hk : Keeps o₀ s) (pasid : Option Nat) (as_ : List Nat) : Keeps o₀ (touchXlats s pasid as_) := by
  unfold touchXlats
  repeat' first | with_reducible (first | assumption) | (with_reducible refine Keeps.lit ?_; dsimp only; with_reducible first | exact Keeps.of hk | refine Keeps.of ?_) | intro _ | dsimp only

theorem keeps_readHost {o₀ s : State} (hk : Keeps o₀ s) (pasid : Option Nat) (a : Nat) (n : Nat) : Keeps o₀ (readHost s pasid a n) := by
  unfold readHost
  repeat' first | with_reducible (first | assumption | apply keeps_emitOut) | dsimp only

theorem keeps_advanceFetch {o₀ s : State} (hk : Keeps o₀ s) (id : Nat) : Keeps o₀ (advanceFetch s id) := by
  unfold advanceFetch
  repeat' first | with_reducible (first | assumption | apply keeps_modFetch | apply keeps_readHost | apply keeps_touchXlats | refine Keeps.of_pair ‹_ = (_, _)› ?_ | refine Keeps.ite ?_ ?_) | (with_reducible refine Keeps.lit ?_; dsimp only; with_reducible first | exact Keeps.of hk | refine Keeps.of ?_) | split | intro _ | dsimp only

theorem keeps_advanceWrite {o₀ s : State} (hk : Keeps o₀ s) : Keeps o₀ (advanceWrite s) := by
  unfold advanceWrite
  repeat' first | with_reducible (first | assumption | apply keeps_readHost | apply keeps_touchXlats | refine Keeps.of_pair ‹_ = (_, _)› ?_ | refine Keeps.ite ?_ ?_) | (with_reducible refine Keeps.lit ?_; dsimp only; with_reducible first | exact Keeps.of hk | refine Keeps.of ?_) | split | intro _ | dsimp only

theorem keeps_advanceFetches {o₀ s : State} (hk : Keeps o₀ s) : Keeps o₀ (advanceFetches s) := by
  unfold advanceFetches
  repeat' first | with_reducible (first | assumption | apply keeps_advanceFetch | apply keeps_advanceWrite | refine Keeps.foldl (fun _ _ _ => ?_) ?_) | intro _ | dsimp only

theorem keeps_finishEvidence {o₀ s : State} (hk : Keeps o₀ s) (id : Nat) (arr : Nat) (dep : Option Nat) : Keeps o₀ (finishEvidence s id arr dep) := by
  unfold finishEvidence
  repeat' first | with_reducible (first | assumption | apply keeps_sendEvidence | refine Keeps.foldl (fun _ _ _ => ?_) ?_) | (with_reducible refine Keeps.lit ?_; dsimp only; with_reducible first | exact Keeps.of hk | refine Keeps.of ?_) | intro _ | dsimp only

theorem keeps_modT {o₀ s : State} (hk : Keeps o₀ s) (d : Nat) (t : Nat) (f : Thread → Thread) : Keeps o₀ (modT s d t f) := by
  unfold modT
  repeat' first | with_reducible (first | assumption | apply keeps_setT) | dsimp only

theorem keeps_afterDeparture {o₀ s : State} (hk : Keeps o₀ s) (r : Req) (dep : Option Nat) : Keeps o₀ (afterDeparture s r dep) := by
  unfold afterDeparture
  repeat' first | with_reducible (first | assumption | apply keeps_modT | apply keeps_finishEvidence | refine Keeps.ite ?_ ?_) | (with_reducible refine Keeps.lit ?_; dsimp only; with_reducible first | exact Keeps.of hk | refine Keeps.of ?_) | split | intro _ | dsimp only

theorem keeps_endHandling {o₀ s : State} (hk : Keeps o₀ s) (d : Nat) (pg : Nat) : Keeps o₀ (endHandling s d pg) := by
  unfold endHandling
  repeat' first | with_reducible (first | assumption | apply keeps_dropMarks | apply keeps_putFirst | apply keeps_report | apply keeps_setF | refine Keeps.ite ?_ ?_) | (with_reducible refine Keeps.lit ?_; dsimp only; with_reducible first | exact Keeps.of hk | refine Keeps.of ?_) | split | intro _ | dsimp only

theorem keeps_rerr {o₀ s : State} (hk : Keeps o₀ s) (d : Nat) (cause : Nat) (entry : Nat) : Keeps o₀ (rerr s d cause entry) := by
  unfold rerr
  repeat' first | with_reducible (first | assumption | apply keeps_bumpSat | apply keeps_setF | apply keeps_raiseErr) | dsimp only

theorem keeps_endTop {o₀ s : State} (hk : Keeps o₀ s) (d : Nat) (t : Nat) : Keeps o₀ (endTop s d t) := by
  unfold endTop
  repeat' first | with_reducible (first | assumption | apply keeps_rerr | apply keeps_endHandling | apply keeps_deviceAnswer | apply keeps_freeT | refine Keeps.ite ?_ ?_) | split | dsimp only

theorem keeps_orphanKid {o₀ s : State} (hk : Keeps o₀ s) (d : Nat) (t : Nat) : Keeps o₀ (orphanKid s d t) := by
  unfold orphanKid
  repeat' first | with_reducible (first | assumption | apply keeps_bumpSat | apply keeps_setT | apply keeps_freeT | refine Keeps.ite ?_ ?_) | (with_reducible refine Keeps.lit ?_; dsimp only; with_reducible first | exact Keeps.of hk | refine Keeps.of ?_) | split | dsimp only

theorem keeps_orphanKids {o₀ s : State} (hk : Keeps o₀ s) (d : Nat) (t : Nat) : Keeps o₀ (orphanKids s d t) := by
  unfold orphanKids
  repeat' first | with_reducible (first | assumption | apply keeps_modT | apply keeps_orphanKid | refine Keeps.foldl (fun _ _ _ => ?_) ?_) | (with_reducible refine Keeps.lit ?_; dsimp only; with_reducible first | exact Keeps.of hk | refine Keeps.of ?_) | intro _ | dsimp only

theorem keeps_enterFaulted {o₀ s : State} (hk : Keeps o₀ s) (d : Nat) (t : Nat) (cause : Nat) (code : Nat) : Keeps o₀ (enterFaulted s d t cause code) := by
  unfold enterFaulted
  repeat' first | with_reducible (first | assumption | apply keeps_bumpSat | apply keeps_deviceAnswer | apply keeps_dropWork | apply keeps_modT | apply keeps_orphanKids | apply keeps_postNotice | apply keeps_quiet | refine Keeps.of_pair ‹_ = (_, _)› ?_) | (with_reducible refine Keeps.lit ?_; dsimp only; with_reducible first | exact Keeps.of hk | refine Keeps.of ?_) | intro _ | dsimp only

theorem keeps_releaseFaulted {o₀ s : State} (hk : Keeps o₀ s) (d : Nat) (t : Nat) : Keeps o₀ (releaseFaulted s d t) := by
  unfold releaseFaulted
  repeat' first | with_reducible (first | assumption | apply keeps_freeT | refine Keeps.ite ?_ ?_) | split | intro _ | dsimp only

theorem keeps_faultTop {o₀ s : State} (hk : Keeps o₀ s) (d : Nat) (t : Nat) (cause : Nat) (code : Nat) : Keeps o₀ (faultTop s d t cause code) := by
  unfold faultTop
  repeat' first | with_reducible (first | assumption | apply keeps_bumpSat | apply keeps_enterFaulted | apply keeps_freeT | apply keeps_raiseHost | apply keeps_releaseFaulted | refine Keeps.ite ?_ ?_) | split | dsimp only

theorem keeps_goOn {o₀ s : State} (hk : Keeps o₀ s) (d : Nat) (t : Nat) (ok : Bool) : Keeps o₀ (goOn s d t ok) := by
  unfold goOn
  repeat' first | with_reducible (first | assumption | apply keeps_modT | refine Keeps.ite ?_ ?_) | (with_reducible refine Keeps.lit ?_; dsimp only; with_reducible first | exact Keeps.of hk | refine Keeps.of ?_) | split | intro _ | dsimp only

theorem keeps_sliceUnc {o₀ s : State} (hk : Keeps o₀ s) (d : Nat) (t : Nat) (a : Nat) : Keeps o₀ (sliceUnc s d t a) := by
  unfold sliceUnc
  repeat' first | with_reducible (first | assumption | apply keeps_raiseErr) | dsimp only

theorem keeps_finishTop {o₀ s : State} (hk : Keeps o₀ s) (d : Nat) (t : Nat) (ok : Bool) : Keeps o₀ (finishTop s d t ok) := by
  unfold finishTop
  repeat' first | with_reducible (first | assumption | apply keeps_faultTop | apply keeps_goOn | apply keeps_sliceUnc | refine Keeps.ite ?_ ?_) | split | dsimp only

theorem keeps_parentCheck {o₀ s : State} (hk : Keeps o₀ s) (d : Nat) (p : Nat) : Keeps o₀ (parentCheck s d p) := by
  unfold parentCheck
  repeat' first | with_reducible (first | assumption | apply keeps_endTop | apply keeps_finishTop | apply keeps_releaseFaulted | apply keeps_setT | refine Keeps.of_pair ‹_ = (_, _)› ?_ | refine Keeps.ite ?_ ?_) | (with_reducible refine Keeps.lit ?_; dsimp only; with_reducible first | exact Keeps.of hk | refine Keeps.of ?_) | split | intro _ | dsimp only

theorem keeps_kidOver {o₀ s : State} (hk : Keeps o₀ s) (d : Nat) (p : Nat) (t : Nat) (faulted : Bool) : Keeps o₀ (kidOver s d p t faulted) := by
  unfold kidOver
  repeat' first | with_reducible (first | assumption | apply keeps_modT | apply keeps_parentCheck) | (with_reducible refine Keeps.lit ?_; dsimp only; with_reducible first | exact Keeps.of hk | refine Keeps.of ?_) | intro _ | dsimp only

theorem keeps_childEnd {o₀ s : State} (hk : Keeps o₀ s) (d : Nat) (t : Nat) (faulted : Bool) : Keeps o₀ (childEnd s d t faulted) := by
  unfold childEnd
  repeat' first | with_reducible (first | assumption | apply keeps_kidOver | apply keeps_freeT) | dsimp only

theorem keeps_faultThread {o₀ s : State} (hk : Keeps o₀ s) (d : Nat) (t : Nat) (cause : Nat) (code : Nat) : Keeps o₀ (faultThread s d t cause code) := by
  unfold faultThread
  repeat' first | with_reducible (first | assumption | apply keeps_childEnd | apply keeps_enterFaulted | apply keeps_faultTop | apply keeps_kidOver | refine Keeps.ite ?_ ?_) | split | dsimp only

theorem keeps_waitResolve {o₀ s : State} (hk : Keeps o₀ s) (d : Nat) (t : Nat) : Keeps o₀ (waitResolve s d t) := by
  unfold waitResolve
  repeat' first | with_reducible (first | assumption | apply keeps_modT) | (with_reducible refine Keeps.lit ?_; dsimp only; with_reducible first | exact Keeps.of hk | refine Keeps.of ?_) | intro _ | dsimp only

theorem keeps_faultErr {o₀ s u : State} (hs : Keeps o₀ s) (hk : Keeps o₀ u) (d t cause code : Nat) : Keeps o₀ (faultErr s u d t cause code) := by
  unfold faultErr
  exact Keeps.ite (keeps_waitResolve hs ..) (keeps_faultThread hk ..)

theorem keeps_finish {o₀ s : State} (hk : Keeps o₀ s) (d : Nat) (t : Nat) (ok : Bool) : Keeps o₀ (finish s d t ok) := by
  unfold finish
  repeat' first | with_reducible (first | assumption | apply keeps_bumpSat | apply keeps_childEnd | apply keeps_faultErr | apply keeps_goOn | apply keeps_sliceUnc | refine Keeps.ite ?_ ?_) | split | dsimp only

theorem keeps_deliver {o₀ s : State} (hk : Keeps o₀ s) (d : Nat) (t : Nat) (r : Nat) (x : BitVec 256) (x2 : Option (BitVec 256)) (ok : Bool) : Keeps o₀ (deliver s d t r x x2 ok) := by
  unfold deliver
  repeat' first | with_reducible (first | assumption | apply keeps_finish | apply keeps_setT | refine Keeps.ite ?_ ?_) | (with_reducible refine Keeps.lit ?_; dsimp only; with_reducible first | exact Keeps.of hk | refine Keeps.of ?_) | split | dsimp only

theorem keeps_modEnt {o₀ s : State} (hk : Keeps o₀ s) (d : Nat) (e : Nat) (f : StepEnt → StepEnt) : Keeps o₀ (modEnt s d e f) := by
  unfold modEnt
  repeat' first | with_reducible (first | assumption) | (with_reducible refine Keeps.lit ?_; dsimp only; with_reducible first | exact Keeps.of hk | refine Keeps.of ?_) | dsimp only

theorem keeps_train {o₀ s : State} (hk : Keeps o₀ s) (d : Nat) (ent : Option Nat) (x : Rec) : Keeps o₀ (train s d ent x) := by
  unfold train
  repeat' first | with_reducible (first | assumption | apply keeps_modEnt | refine Keeps.of_pair ‹_ = (_, _)› ?_ | refine Keeps.ite ?_ ?_) | (with_reducible refine Keeps.lit ?_; dsimp only; with_reducible first | exact Keeps.of hk | refine Keeps.of ?_) | split | intro _ | dsimp only

theorem keeps_consult {o₀ s : State} (hk : Keeps o₀ s) (d : Nat) (ent : Option Nat) : Keeps o₀ (consult s d ent) := by
  unfold consult
  repeat' first | with_reducible (first | assumption | apply keeps_modEnt | apply keeps_raiseErr | refine Keeps.of_pair ‹_ = (_, _)› ?_ | refine Keeps.ite ?_ ?_) | (with_reducible refine Keeps.lit ?_; dsimp only; with_reducible first | exact Keeps.of hk | refine Keeps.of ?_) | split | intro _ | dsimp only

theorem keeps_deliverRec {o₀ s : State} (hk : Keeps o₀ s) (d : Nat) (t : Nat) (r : Nat) (x : Rec) (x2 : Option (BitVec 256)) (ent : Option Nat) : Keeps o₀ (deliverRec s d t r x x2 ent) := by
  unfold deliverRec
  repeat' first | with_reducible (first | assumption | apply keeps_consult | apply keeps_deliver | apply keeps_setT | apply keeps_train | refine Keeps.ite ?_ ?_) | (with_reducible refine Keeps.lit ?_; dsimp only; with_reducible first | exact Keeps.of hk | refine Keeps.of ?_) | split | dsimp only

theorem keeps_dropSearch {o₀ s : State} (hk : Keeps o₀ s) (sid : Nat) : Keeps o₀ (dropSearch s sid) := by
  unfold dropSearch
  repeat' first | with_reducible (first | assumption) | (with_reducible refine Keeps.lit ?_; dsimp only; with_reducible first | exact Keeps.of hk | refine Keeps.of ?_) | intro _ | dsimp only

theorem keeps_deferThread {o₀ s : State} (hk : Keeps o₀ s) (d : Nat) (t : Nat) : Keeps o₀ (deferThread s d t) := by
  unfold deferThread
  repeat' first | with_reducible (first | assumption | apply keeps_formResp | apply keeps_bumpSat | apply keeps_modT) | (with_reducible refine Keeps.lit ?_; dsimp only; with_reducible first | exact Keeps.of hk | refine Keeps.of ?_) | intro _ | dsimp only

theorem keeps_sendFetch {o₀ s : State} (hk : Keeps o₀ s) (id : Nat) : Keeps o₀ (sendFetch s id) := by
  unfold sendFetch
  repeat' first | with_reducible (first | assumption | apply keeps_advanceFetch | apply keeps_queueMgmt | refine Keeps.of_pair ‹_ = (_, _)› ?_ | refine Keeps.ite ?_ ?_) | (with_reducible refine Keeps.lit ?_; dsimp only; with_reducible first | exact Keeps.of hk | refine Keeps.of ?_) | split | intro _ | dsimp only

theorem keeps_waitLower {o₀ s : State} (hk : Keeps o₀ s) (d : Nat) (t : Nat) (r : Nat) : Keeps o₀ (waitLower s d t r) := by
  unfold waitLower
  repeat' first | with_reducible (first | assumption | apply keeps_modT | refine Keeps.ite ?_ ?_) | (with_reducible refine Keeps.lit ?_; dsimp only; with_reducible first | exact Keeps.of hk | refine Keeps.of ?_) | split | intro _ | dsimp only

theorem keeps_startFetch {o₀ s : State} (hk : Keeps o₀ s) (d : Nat) (t : Nat) (r : Nat) (reg : Nat) (sr : Nat) (key : Key) (width : Nat) (ent : Option Nat) : Keeps o₀ (startFetch s d t r reg sr key width ent) := by
  unfold startFetch
  repeat' first | with_reducible (first | assumption | apply keeps_bump | apply keeps_deferThread | apply keeps_deliverRec | apply keeps_sendFetch | apply keeps_waitLower | refine Keeps.of_pair ‹_ = (_, _)› ?_ | refine Keeps.ite ?_ ?_) | ((with_reducible refine Keeps.lit ?_); dsimp only; (try with_reducible (first | refine KeepsF.recipe (fun hm => mwf_mset _ _ _ _ hm) ?_ | refine KeepsF.recipe (fun hm => mwf_filter _ _ _ hm) ?_ | apply KeepsF.recipe (fun _ => mwf_nil _) | refine KeepsF.foldlRecipe (fun _ _ hm => mwf_mset _ _ _ _ hm) _ ?_)); with_reducible first | exact Keeps.of hk | refine Keeps.of ?_) | split | dsimp only

theorem keeps_issueFetch {o₀ s : State} (hk : Keeps o₀ s) (d : Nat) (t : Nat) (r : Nat) (reg : Nat) (sr : Nat) (key : Key) (width : Nat) (ent : Option Nat) : Keeps o₀ (issueFetch s d t r reg sr key width ent) := by
  unfold issueFetch
  repeat' first | with_reducible (first | assumption | apply keeps_modT | apply keeps_startFetch | apply keeps_waitLower | refine Keeps.ite ?_ ?_) | (with_reducible refine Keeps.lit ?_; dsimp only; with_reducible first | exact Keeps.of hk | refine Keeps.of ?_) | split | intro _ | dsimp only

theorem keeps_setLine {o₀ s : State} (hk : Keeps o₀ s) (d : Nat) (w : Nat) (set : Nat) (l : Line) : Keeps o₀ (setLine s d w set l) := by
  unfold setLine
  repeat' first | with_reducible (first | assumption) | ((with_reducible refine Keeps.lit ?_); dsimp only; (try with_reducible (first | refine KeepsF.rows (fun hm => mwf_mset _ _ _ _ hm) ?_ | refine KeepsF.rows (fun hm => mwf_filter _ _ _ hm) ?_ | apply KeepsF.rows (fun _ => mwf_nil _))); (try with_reducible (first | refine KeepsF.store (fun hm => mwf_mset _ _ _ _ hm) ?_ | refine KeepsF.store (fun hm => mwf_filter _ _ _ hm) ?_ | apply KeepsF.store (fun _ => mwf_nil _))); (try with_reducible (first | refine KeepsF.recipe (fun hm => mwf_mset _ _ _ _ hm) ?_ | refine KeepsF.recipe (fun hm => mwf_filter _ _ _ hm) ?_ | apply KeepsF.recipe (fun _ => mwf_nil _) | refine KeepsF.foldlRecipe (fun _ _ hm => mwf_mset _ _ _ _ hm) _ ?_)); (try with_reducible (first | refine KeepsF.cache (fun hm => mwf_mset _ _ _ _ hm) ?_ | refine KeepsF.cache (fun hm => mwf_filter _ _ _ hm) ?_ | apply KeepsF.cache (fun _ => mwf_nil _))); (try with_reducible (first | refine KeepsF.threads (fun hm => mwf_mset _ _ _ _ hm) ?_ | refine KeepsF.threads (fun hm => mwf_filter _ _ _ hm) ?_ | apply KeepsF.threads (fun _ => mwf_nil _) | refine KeepsF.foldlThreads (fun _ _ hm => mwf_mmod _ _ _ _ hm) _ ?_)); with_reducible first | exact Keeps.of hk | refine Keeps.of ?_) | dsimp only

theorem keeps_addWalk {o₀ s : State} (hk : Keeps o₀ s) (k : CacheWalk) : Keeps o₀ { s with walks := s.walks ++ [k] } := Keeps.rest hk rfl rfl rfl rfl rfl rfl rfl rfl rfl rfl

theorem keeps_invLine {o₀ s : State} (hk : Keeps o₀ s) (d w line : Nat) : Keeps o₀ (invLine s d w line) := by
  unfold invLine
  have h1 := keeps_setLine hk d w (lineSet line) Line.zero
  generalize setLine s d w (lineSet line) Line.zero = u at h1 ⊢
  exact Keeps.ite (keeps_addWalk h1 _) h1

theorem keeps_clearWay {o₀ s : State} (hk : Keeps o₀ s) (d : Nat) (w : Nat) : Keeps o₀ (clearWay s d w) := by
  unfold clearWay
  repeat' first | with_reducible (first | assumption) | ((with_reducible refine Keeps.lit ?_); dsimp only; (try with_reducible (first | refine KeepsF.rows (fun hm => mwf_mset _ _ _ _ hm) ?_ | refine KeepsF.rows (fun hm => mwf_filter _ _ _ hm) ?_ | apply KeepsF.rows (fun _ => mwf_nil _))); (try with_reducible (first | refine KeepsF.store (fun hm => mwf_mset _ _ _ _ hm) ?_ | refine KeepsF.store (fun hm => mwf_filter _ _ _ hm) ?_ | apply KeepsF.store (fun _ => mwf_nil _))); (try with_reducible (first | refine KeepsF.recipe (fun hm => mwf_mset _ _ _ _ hm) ?_ | refine KeepsF.recipe (fun hm => mwf_filter _ _ _ hm) ?_ | apply KeepsF.recipe (fun _ => mwf_nil _) | refine KeepsF.foldlRecipe (fun _ _ hm => mwf_mset _ _ _ _ hm) _ ?_)); (try with_reducible (first | refine KeepsF.cache (fun hm => mwf_mset _ _ _ _ hm) ?_ | refine KeepsF.cache (fun hm => mwf_filter _ _ _ hm) ?_ | apply KeepsF.cache (fun _ => mwf_nil _))); (try with_reducible (first | refine KeepsF.threads (fun hm => mwf_mset _ _ _ _ hm) ?_ | refine KeepsF.threads (fun hm => mwf_filter _ _ _ hm) ?_ | apply KeepsF.threads (fun _ => mwf_nil _) | refine KeepsF.foldlThreads (fun _ _ hm => mwf_mmod _ _ _ _ hm) _ ?_)); with_reducible first | exact Keeps.of hk | refine Keeps.of ?_) | intro _ | dsimp only

theorem keeps_disableWay {o₀ s : State} (hk : Keeps o₀ s) (d : Nat) (w : Nat) : Keeps o₀ (disableWay s d w) := by
  unfold disableWay
  repeat' first | with_reducible (first | assumption | apply keeps_setF) | dsimp only

theorem keeps_autoDisable {o₀ s : State} (hk : Keeps o₀ s) (d : Nat) (w : Nat) : Keeps o₀ (autoDisable s d w) := by
  unfold autoDisable
  repeat' first | with_reducible (first | assumption | apply keeps_clearWay | apply keeps_disableWay | apply keeps_setF | apply keeps_raiseErr | refine Keeps.ite ?_ ?_) | split | intro _ | dsimp only

theorem keeps_wayError {o₀ s : State} (hk : Keeps o₀ s) (d : Nat) (w : Nat) (set : Nat) (unc : Bool) : Keeps o₀ (wayError s d w set unc) := by
  unfold wayError
  repeat' first | with_reducible (first | assumption | apply keeps_bumpSat | apply keeps_autoDisable | apply keeps_raiseErr | refine Keeps.ite ?_ ?_) | (with_reducible refine Keeps.lit ?_; dsimp only; with_reducible first | exact Keeps.of hk | refine Keeps.of ?_) | split | intro _ | dsimp only

theorem keeps_cacheLookup {o₀ s : State} (hk : Keeps o₀ s) (d : Nat) (line : Nat) : Keeps o₀ (cacheLookup s d line).1 := by
  unfold cacheLookup
  repeat' first | with_reducible (first | assumption | apply keeps_bump | apply keeps_invLine | apply keeps_setLine | apply keeps_wayError | refine Keeps.of_pair ‹_ = (_, _)› ?_ | refine Keeps.ite ?_ ?_) | (with_reducible refine Keeps.lit ?_; dsimp only; with_reducible first | exact Keeps.of hk | refine Keeps.of ?_) | split | intro _ | dsimp only

theorem keeps_issueStep {o₀ s : State} (hk : Keeps o₀ s) (d : Nat) (t : Nat) (r : Nat) (reg : Nat) (key : Key) (width : Nat) (fixed : Bool) (par : Option Nat) (next : Option Nat) (ent : Option Nat) (after : Nat) : Keeps o₀ (issueStep s d t r reg key width fixed par next ent after) := by
  unfold issueStep
  repeat' first | with_reducible (first | assumption | apply keeps_bump | refine Keeps.of_pair ‹_ = (_, _)› ?_ | refine Keeps.ite ?_ ?_) | (with_reducible refine Keeps.lit ?_; dsimp only; with_reducible first | exact Keeps.of hk | refine Keeps.of ?_) | split | dsimp only

theorem keeps_squashPar {o₀ s : State} (hk : Keeps o₀ s) (x : Search) : Keeps o₀ (squashPar s x) := by
  unfold squashPar
  repeat' first | with_reducible (first | assumption | apply keeps_modEnt) | (with_reducible refine Keeps.lit ?_; dsimp only; with_reducible first | exact Keeps.of hk | refine Keeps.of ?_) | split | intro _ | dsimp only

theorem keeps_afterSearch {o₀ s : State} (hk : Keeps o₀ s) (x : Search) (r : Rec) (r2 : Rec) : Keeps o₀ (afterSearch s x r r2) := by
  unfold afterSearch
  repeat' first | with_reducible (first | assumption | apply keeps_deliverRec | apply keeps_dropSearch | apply keeps_issueFetch | apply keeps_issueStep | apply keeps_modEnt | apply keeps_squashPar | apply keeps_waitLower | refine Keeps.of_pair ‹_ = (_, _)› ?_ | refine Keeps.ite ?_ ?_) | (with_reducible refine Keeps.lit ?_; dsimp only; with_reducible first | exact Keeps.of hk | refine Keeps.of ?_) | split | intro _ | dsimp only

theorem keeps_setRow {o₀ s : State} (hk : Keeps o₀ s) (d : Nat) (g : Nat) (r : Row) : Keeps o₀ (setRow s d g r) := by
  unfold setRow
  repeat' first | with_reducible (first | assumption) | ((with_reducible refine Keeps.lit ?_); dsimp only; (try with_reducible (first | refine KeepsF.rows (fun hm => mwf_mset _ _ _ _ hm) ?_ | refine KeepsF.rows (fun hm => mwf_filter _ _ _ hm) ?_ | apply KeepsF.rows (fun _ => mwf_nil _))); (try with_reducible (first | refine KeepsF.store (fun hm => mwf_mset _ _ _ _ hm) ?_ | refine KeepsF.store (fun hm => mwf_filter _ _ _ hm) ?_ | apply KeepsF.store (fun _ => mwf_nil _))); (try with_reducible (first | refine KeepsF.recipe (fun hm => mwf_mset _ _ _ _ hm) ?_ | refine KeepsF.recipe (fun hm => mwf_filter _ _ _ hm) ?_ | apply KeepsF.recipe (fun _ => mwf_nil _) | refine KeepsF.foldlRecipe (fun _ _ hm => mwf_mset _ _ _ _ hm) _ ?_)); (try with_reducible (first | refine KeepsF.cache (fun hm => mwf_mset _ _ _ _ hm) ?_ | refine KeepsF.cache (fun hm => mwf_filter _ _ _ hm) ?_ | apply KeepsF.cache (fun _ => mwf_nil _))); (try with_reducible (first | refine KeepsF.threads (fun hm => mwf_mset _ _ _ _ hm) ?_ | refine KeepsF.threads (fun hm => mwf_filter _ _ _ hm) ?_ | apply KeepsF.threads (fun _ => mwf_nil _) | refine KeepsF.foldlThreads (fun _ _ hm => mwf_mmod _ _ _ _ hm) _ ?_)); with_reducible first | exact Keeps.of hk | refine Keeps.of ?_) | dsimp only

theorem keeps_modRow {o₀ s : State} (hk : Keeps o₀ s) (d : Nat) (g : Nat) (f : Row → Row) : Keeps o₀ (modRow s d g f) := by
  unfold modRow
  repeat' first | with_reducible (first | assumption | apply keeps_setRow) | dsimp only

theorem keeps_markSuspect {o₀ s : State} (hk : Keeps o₀ s) (d : Nat) (gra : Nat) : Keeps o₀ (markSuspect s d gra) := by
  unfold markSuspect
  repeat' first | with_reducible (first | assumption | apply keeps_modRow) | (with_reducible refine Keeps.lit ?_; dsimp only; with_reducible first | exact Keeps.of hk | refine Keeps.of ?_) | intro _ | dsimp only

theorem keeps_queueSuspect {o₀ s : State} (hk : Keeps o₀ s) (d : Nat) (gra : Nat) : Keeps o₀ (queueSuspect s d gra) := by
  unfold queueSuspect
  repeat' first | with_reducible (first | assumption | apply keeps_bumpSat | apply keeps_raiseErr | refine Keeps.ite ?_ ?_) | (with_reducible refine Keeps.lit ?_; dsimp only; with_reducible first | exact Keeps.of hk | refine Keeps.of ?_) | split | dsimp only

theorem keeps_afterVerify {o₀ s : State} (hk : Keeps o₀ s) (d : Nat) (width : Nat) (key : Key) (h : Option Hit) : Keeps o₀ (afterVerify s d width key h) := by
  unfold afterVerify
  repeat' first | with_reducible (first | assumption | apply keeps_markSuspect | apply keeps_queueSuspect | apply keeps_raiseErr | refine Keeps.of_pair ‹_ = (_, _)› ?_ | refine Keeps.ite ?_ ?_ | refine Keeps.foldl (fun _ _ _ => ?_) ?_) | split | intro _ | dsimp only

theorem keeps_answer {o₀ s : State} (hk : Keeps o₀ s) (st : Nat) (data : Nat) : Keeps o₀ (answer s st data).1 := by
  unfold answer
  repeat' first | with_reducible (first | assumption) | dsimp only

theorem keeps_answerAll {o₀ s : State} (hk : Keeps o₀ s) (ds : List Nat) (status : Nat) : Keeps o₀ (answerAll s ds status) := by
  unfold answerAll
  repeat' first | with_reducible (first | assumption | apply keeps_deviceAnswer | refine Keeps.ite ?_ ?_ | refine Keeps.foldl (fun _ _ _ => ?_) ?_) | (with_reducible refine Keeps.lit ?_; dsimp only; with_reducible first | exact Keeps.of hk | refine Keeps.of ?_) | split | intro _ | dsimp only

theorem keeps_modStep {o₀ s : State} (hk : Keeps o₀ s) (id : Nat) (f : SStep → SStep) : Keeps o₀ (modStep s id f) := by
  unfold modStep
  repeat' first | with_reducible (first | assumption) | (with_reducible refine Keeps.lit ?_; dsimp only; with_reducible first | exact Keeps.of hk | refine Keeps.of ?_) | intro _ | dsimp only

theorem keeps_answerStep {o₀ s : State} (hk : Keeps o₀ s) (id : Nat) (b : Nat) (a : Bucket) : Keeps o₀ (answerStep s id b a) := by
  unfold answerStep
  repeat' first | with_reducible (first | assumption | apply keeps_modStep | refine Keeps.ite ?_ ?_) | (with_reducible refine Keeps.lit ?_; dsimp only; with_reducible first | exact Keeps.of hk | refine Keeps.of ?_) | split | intro _ | dsimp only

theorem keeps_setBlank {o₀ s : State} (hk : Keeps o₀ s) (d : Nat) (n : Nat) (n5 : Nat) : Keeps o₀ (setBlank s d n n5) := by
  unfold setBlank
  repeat' first | with_reducible (first | assumption) | (with_reducible refine Keeps.lit ?_; dsimp only; with_reducible first | exact Keeps.of hk | refine Keeps.of ?_) | dsimp only

theorem keeps_applyBlank {o₀ s : State} (hk : Keeps o₀ s) (d : Nat) : Keeps o₀ (applyBlank s d) := by
  unfold applyBlank
  repeat' first | with_reducible (first | assumption | apply keeps_setBlank | refine Keeps.ite ?_ ?_) | split | dsimp only

theorem keeps_descErr {o₀ s : State} (hk : Keeps o₀ s) (pg : Nat) (bit : Nat) (item : Nat) : Keeps o₀ (descErr s pg bit item) := by
  unfold descErr
  repeat' first | with_reducible (first | assumption | apply keeps_raiseErr | refine Keeps.foldl (fun _ _ _ => ?_) ?_) | intro _ | dsimp only

theorem keeps_setAll {o₀ s : State} (hk : Keeps o₀ s) (ds : List Nat) (f : Fld) (v : Nat) (bank : Nat) : Keeps o₀ (setAll s ds f v bank) := by
  unfold setAll
  repeat' first | with_reducible (first | assumption | apply keeps_setF | refine Keeps.foldl (fun _ _ _ => ?_) ?_) | intro _ | dsimp only

theorem keeps_setCause {o₀ s : State} (hk : Keeps o₀ s) (r : Nat) (cause : Nat) : Keeps o₀ (setCause s r cause) := by
  unfold setCause
  repeat' first | with_reducible (first | assumption | apply keeps_setF | apply keeps_setAll | refine Keeps.ite ?_ ?_) | split | dsimp only

theorem keeps_settleFetch {o₀ s : State} (hk : Keeps o₀ s) (id : Nat) (st : Nat) : Keeps o₀ (settleFetch s id st) := by
  unfold settleFetch
  repeat' first | with_reducible (first | assumption | apply keeps_deliverRec | refine Keeps.ite ?_ ?_) | (with_reducible refine Keeps.lit ?_; dsimp only; with_reducible first | exact Keeps.of hk | refine Keeps.of ?_) | split | intro _ | dsimp only

theorem keeps_settleFetches {o₀ s : State} (hk : Keeps o₀ s) (ids : List Nat) (st : Nat) : Keeps o₀ (settleFetches s ids st) := by
  unfold settleFetches
  repeat' first | with_reducible (first | assumption | apply keeps_settleFetch | refine Keeps.foldl (fun _ _ _ => ?_) ?_) | intro _ | dsimp only

theorem keeps_regionOff {o₀ s : State} (hk : Keeps o₀ s) (r : Nat) (cause : Nat) (st : Option Nat) : Keeps o₀ (regionOff s r cause st) := by
  unfold regionOff
  repeat' first | with_reducible (first | assumption | apply keeps_setCause | apply keeps_settleFetches | refine Keeps.ite ?_ ?_) | split | intro _ | dsimp only

theorem keeps_writeFld {o₀ s : State} (hk : Keeps o₀ s) (d : Nat) (bank : Nat) (val : Nat) (f : Fld) : Keeps o₀ (writeFld s d bank val f) := by
  unfold writeFld
  repeat' first | with_reducible (first | assumption | apply keeps_setF | refine Keeps.ite ?_ ?_) | split | dsimp only

theorem keeps_writeWord {o₀ s : State} (hk : Keeps o₀ s) (d : Nat) (pg : Nat) (bank : Nat) (off : Nat) (val : Nat) : Keeps o₀ (writeWord s d pg bank off val) := by
  unfold writeWord
  repeat' first | with_reducible (first | assumption | apply keeps_writeFld | refine Keeps.foldl (fun _ _ _ => ?_) ?_) | intro _ | dsimp only

theorem keeps_writeCopies {o₀ s : State} (hk : Keeps o₀ s) (pg : Nat) (n : Nat) (off : Nat) (val : Nat) : Keeps o₀ (writeCopies s pg n off val) := by
  unfold writeCopies
  repeat' first | with_reducible (first | assumption | apply keeps_writeWord | apply keeps_setAll | refine Keeps.ite ?_ ?_ | refine Keeps.foldl (fun _ _ _ => ?_) ?_) | split | intro _ | dsimp only

theorem keeps_writeCr {o₀ s : State} (hk : Keeps o₀ s) (n : Nat) (off : Nat) (val : Nat) : Keeps o₀ (writeCr s n off val) := by
  unfold writeCr
  repeat' first | with_reducible (first | assumption | apply keeps_descErr | apply keeps_regionOff | apply keeps_setCause | apply keeps_writeCopies | refine Keeps.ite ?_ ?_) | split | intro _ | dsimp only

theorem keeps_writePart {o₀ s : State} (hk : Keeps o₀ s) (n : Nat) (off : Nat) (val : Nat) : Keeps o₀ (writePart s n off val) := by
  unfold writePart
  repeat' first | with_reducible (first | assumption | apply keeps_writeCopies | apply keeps_descErr | apply keeps_setAll | refine Keeps.ite ?_ ?_) | split | intro _ | dsimp only

theorem keeps_applyTarget {o₀ s : State} (hk : Keeps o₀ s) (w : TargetWrite) : Keeps o₀ (applyTarget s w) := by
  unfold applyTarget
  repeat' first | with_reducible (first | assumption | apply keeps_writeCr | apply keeps_writePart | refine Keeps.ite ?_ ?_) | (with_reducible refine Keeps.lit ?_; dsimp only; with_reducible first | exact Keeps.of hk | refine Keeps.of ?_) | split | intro _ | dsimp only

theorem keeps_applyDue {o₀ s : State} (hk : Keeps o₀ s) (ok : TargetWrite → Bool) : Keeps o₀ (applyDue s ok) := by
  unfold applyDue
  repeat' first | with_reducible (first | assumption | apply keeps_applyTarget) | split | intro _ | dsimp only

theorem keeps_applyGap {o₀ s : State} (hk : Keeps o₀ s) (c : UCmd) : Keeps o₀ (applyGap s c) := by
  unfold applyGap
  repeat' first | with_reducible (first | assumption | apply keeps_setF | refine Keeps.ite ?_ ?_ | refine Keeps.foldl (fun _ _ _ => ?_) ?_) | split | intro _ | dsimp only

theorem keeps_guardRow {o₀ s : State} (hk : Keeps o₀ s) (d : Nat) (g : Nat) (whole : Bool) : Keeps o₀ (guardRow s d g whole) := by
  unfold guardRow
  repeat' first | with_reducible (first | assumption) | (with_reducible refine Keeps.lit ?_; dsimp only; with_reducible first | exact Keeps.of hk | refine Keeps.of ?_) | dsimp only

theorem keeps_putDesc {o₀ s : State} (hk : Keeps o₀ s) (d : Nat) (sh : Nat) (v : Nat) (empty : Bool) : Keeps o₀ (putDesc s d sh v empty) := by
  unfold putDesc
  repeat' first | with_reducible (first | assumption | apply keeps_setF | refine Keeps.ite ?_ ?_) | split | dsimp only

theorem keeps_updRow {o₀ s : State} (hk : Keeps o₀ s) (d : Nat) (g : Nat) (f : Row → Row) : Keeps o₀ (updRow s d g f) := by
  unfold updRow
  repeat' first | with_reducible (first | assumption | apply keeps_modRow | refine Keeps.ite ?_ ?_) | ((with_reducible refine Keeps.lit ?_); dsimp only; (try with_reducible (first | refine KeepsF.rows (fun hm => mwf_mset _ _ _ _ hm) ?_ | refine KeepsF.rows (fun hm => mwf_filter _ _ _ hm) ?_ | apply KeepsF.rows (fun _ => mwf_nil _))); (try with_reducible (first | refine KeepsF.store (fun hm => mwf_mset _ _ _ _ hm) ?_ | refine KeepsF.store (fun hm => mwf_filter _ _ _ hm) ?_ | apply KeepsF.store (fun _ => mwf_nil _))); (try with_reducible (first | refine KeepsF.recipe (fun hm => mwf_mset _ _ _ _ hm) ?_ | refine KeepsF.recipe (fun hm => mwf_filter _ _ _ hm) ?_ | apply KeepsF.recipe (fun _ => mwf_nil _) | refine KeepsF.foldlRecipe (fun _ _ hm => mwf_mset _ _ _ _ hm) _ ?_)); (try with_reducible (first | refine KeepsF.cache (fun hm => mwf_mset _ _ _ _ hm) ?_ | refine KeepsF.cache (fun hm => mwf_filter _ _ _ hm) ?_ | apply KeepsF.cache (fun _ => mwf_nil _))); (try with_reducible (first | refine KeepsF.threads (fun hm => mwf_mset _ _ _ _ hm) ?_ | refine KeepsF.threads (fun hm => mwf_filter _ _ _ hm) ?_ | apply KeepsF.threads (fun _ => mwf_nil _) | refine KeepsF.foldlThreads (fun _ _ hm => mwf_mmod _ _ _ _ hm) _ ?_)); with_reducible first | exact Keeps.of hk | refine Keeps.of ?_) | split | dsimp only

theorem keeps_setCtrl {o₀ s : State} (hk : Keeps o₀ s) (d : Nat) (g : Nat) (f : W32 → W32) : Keeps o₀ (setCtrl s d g f) := by
  unfold setCtrl
  repeat' first | with_reducible (first | assumption | apply keeps_updRow) | (with_reducible refine Keeps.lit ?_; dsimp only; with_reducible first | exact Keeps.of hk | refine Keeps.of ?_) | intro _ | dsimp only

theorem keeps_applyOp {o₀ s : State} (hk : Keeps o₀ s) (d : Nat) (op : PortOp) : Keeps o₀ (applyOp s d op) := by
  unfold applyOp
  repeat' first | with_reducible (first | assumption | apply keeps_guardRow | apply keeps_putDesc | apply keeps_raiseErr | apply keeps_setCtrl | apply keeps_setF | apply keeps_updRow | refine Keeps.of_pair ‹_ = (_, _)› ?_ | refine Keeps.ite ?_ ?_ | refine Keeps.foldl (fun _ _ _ => ?_) ?_) | ((with_reducible refine Keeps.lit ?_); dsimp only; (try with_reducible (first | refine KeepsF.rows (fun hm => mwf_mset _ _ _ _ hm) ?_ | refine KeepsF.rows (fun hm => mwf_filter _ _ _ hm) ?_ | apply KeepsF.rows (fun _ => mwf_nil _))); with_reducible first | exact Keeps.of hk | refine Keeps.of ?_) | split | intro _ | dsimp only

theorem keeps_authFail {o₀ s : State} (hk : Keeps o₀ s) (d : Nat) (r : Nat) (i : Nat) : Keeps o₀ (authFail s d r i).1 := by
  unfold authFail
  repeat' first | with_reducible (first | assumption | apply keeps_bump | apply keeps_raiseErr | refine Keeps.ite ?_ ?_) | (with_reducible refine Keeps.lit ?_; dsimp only; with_reducible first | exact Keeps.of hk | refine Keeps.of ?_) | split | intro _ | dsimp only

theorem keeps_badAccess {o₀ s : State} (hk : Keeps o₀ s) (bar : Nat) : Keeps o₀ (badAccess s bar) := by
  unfold badAccess
  repeat' first | with_reducible (first | assumption | apply keeps_raiseErr | refine Keeps.ite ?_ ?_) | split | dsimp only

theorem keeps_badDoorbell {o₀ s : State} (hk : Keeps o₀ s) (q : Nat) (val : Nat) : Keeps o₀ (badDoorbell s q val) := by
  unfold badDoorbell
  repeat' first | with_reducible (first | assumption | apply keeps_raiseErr | refine Keeps.ite ?_ ?_) | split | dsimp only

theorem keeps_bsqCause {o₀ s : State} (hk : Keeps o₀ s) (d : Nat) (cause : Nat) (bank : Nat) (shelf : Nat) (row : Nat) : Keeps o₀ (bsqCause s d cause bank shelf row) := by
  unfold bsqCause
  repeat' first | with_reducible (first | assumption | apply keeps_setF | refine Keeps.ite ?_ ?_) | split | dsimp only

theorem keeps_bankPhase {o₀ s : State} (hk : Keeps o₀ s) (d : Nat) (shelves : List (Nat × Nat × Nat × Nat)) : Keeps o₀ (bankPhase s d shelves) := by
  unfold bankPhase
  repeat' first | with_reducible (first | assumption | apply keeps_bsqCause | apply keeps_setF | refine Keeps.foldl (fun _ _ _ => ?_) ?_) | (with_reducible refine Keeps.lit ?_; dsimp only; with_reducible first | exact Keeps.of hk | refine Keeps.of ?_) | split | intro _ | dsimp only

theorem keeps_bookPlan {o₀ s : State} (hk : Keeps o₀ s) (d t g a : Nat) (p : Plan) : ∀ u₀, bookPlan s d t g a p = some u₀ → Keeps o₀ u₀ := by
  intro u h
  unfold bookPlan at h
  extract_lets cs last at h
  split at h
  · cases h
  · next x _ =>
    injection h with h
    subst h
    have h1 : Keeps o₀ { s with books := s.books ++ planBooks s d t g x p, express := s.express ++ planCells s d x p, issues := s.issues ++ (planStarts p a ((last - x) / 2)).map fun q => (⟨d, g, t, q.1, q.2⟩ : Issue) } :=
      Keeps.rest hk rfl rfl rfl rfl rfl rfl rfl rfl rfl rfl
    exact Keeps.ite (keeps_bumpSat h1 ..) h1

theorem keeps_both {o₀ s : State} (hk : Keeps o₀ s) (size val : Nat) (f : State → Nat → Nat → State) (hf : ∀ u a b, Keeps o₀ u → Keeps o₀ (f u a b)) : Keeps o₀ (both size val f s) := by
  unfold both
  dsimp only
  split
  · exact hf _ _ _ (hf _ _ _ hk)
  · exact hf _ _ _ hk

theorem keeps_bulkNext {o₀ s : State} (hk : Keeps o₀ s) (c : UCmd) : Keeps o₀ (bulkNext s c) := by
  unfold bulkNext
  repeat' first | with_reducible (first | assumption | apply keeps_bump | apply keeps_modCmd) | (with_reducible refine Keeps.lit ?_; dsimp only; with_reducible first | exact Keeps.of hk | refine Keeps.of ?_) | intro _ | dsimp only

theorem keeps_freeVal {o₀ s : State} (hk : Keeps o₀ s) : Keeps o₀ (freeVal s).2 := by
  unfold freeVal
  repeat' first | with_reducible (first | assumption) | (with_reducible refine Keeps.lit ?_; dsimp only; with_reducible first | exact Keeps.of hk | refine Keeps.of ?_) | dsimp only

theorem keeps_restoreWord {o₀ s : State} (hk : Keeps o₀ s) (d : Nat) (a : Nat) : Keeps o₀ (restoreWord s d a) := by
  unfold restoreWord
  repeat' first | with_reducible (first | assumption) | ((with_reducible refine Keeps.lit ?_); dsimp only; (try with_reducible (first | refine KeepsF.rows (fun hm => mwf_mset _ _ _ _ hm) ?_ | refine KeepsF.rows (fun hm => mwf_filter _ _ _ hm) ?_ | apply KeepsF.rows (fun _ => mwf_nil _))); (try with_reducible (first | refine KeepsF.store (fun hm => mwf_mset _ _ _ _ hm) ?_ | refine KeepsF.store (fun hm => mwf_filter _ _ _ hm) ?_ | apply KeepsF.store (fun _ => mwf_nil _))); (try with_reducible (first | refine KeepsF.recipe (fun hm => mwf_mset _ _ _ _ hm) ?_ | refine KeepsF.recipe (fun hm => mwf_filter _ _ _ hm) ?_ | apply KeepsF.recipe (fun _ => mwf_nil _) | refine KeepsF.foldlRecipe (fun _ _ hm => mwf_mset _ _ _ _ hm) _ ?_)); (try with_reducible (first | refine KeepsF.cache (fun hm => mwf_mset _ _ _ _ hm) ?_ | refine KeepsF.cache (fun hm => mwf_filter _ _ _ hm) ?_ | apply KeepsF.cache (fun _ => mwf_nil _))); (try with_reducible (first | refine KeepsF.threads (fun hm => mwf_mset _ _ _ _ hm) ?_ | refine KeepsF.threads (fun hm => mwf_filter _ _ _ hm) ?_ | apply KeepsF.threads (fun _ => mwf_nil _) | refine KeepsF.foldlThreads (fun _ _ hm => mwf_mmod _ _ _ _ hm) _ ?_)); with_reducible first | exact Keeps.of hk | refine Keeps.of ?_) | split | intro _ | dsimp only

theorem keeps_readRecipe {o₀ s : State} (hk : Keeps o₀ s) (d : Nat) (off : Nat) (size : Nat) : Keeps o₀ (readRecipe s d off size).1 := by
  unfold readRecipe
  repeat' first | with_reducible (first | assumption | apply keeps_freeVal | apply keeps_answer | apply keeps_restoreWord | apply keeps_raiseErr | refine Keeps.ite ?_ ?_ | refine Keeps.of_pair ‹_ = (_, _)› ?_ | refine Keeps.of_snd ‹_ = (_, _)› ?_) | split | dsimp only

theorem keeps_readReg {o₀ s : State} (hk : Keeps o₀ s) (acc : Nat) (d : Nat) (pg : Nat) (off : Nat) : Keeps o₀ (readReg s acc d pg off).1 := by
  unfold readReg
  repeat' first | with_reducible (first | assumption | refine Keeps.ite ?_ ?_ | refine Keeps.foldl (fun _ _ _ => ?_) ?_) | (with_reducible refine Keeps.lit ?_; dsimp only; with_reducible first | exact Keeps.of hk | refine Keeps.of ?_) | split | intro _ | dsimp only

theorem keeps_putSnap {o₀ s : State} (hk : Keeps o₀ s) (x : Snap) : Keeps o₀ (putSnap s x) := by
  unfold putSnap
  repeat' first | with_reducible (first | assumption) | (with_reducible refine Keeps.lit ?_; dsimp only; with_reducible first | exact Keeps.of hk | refine Keeps.of ?_) | intro _ | dsimp only

theorem keeps_takeRowSnap {o₀ s : State} (hk : Keeps o₀ s) (acc : Nat) (d : Nat) (bank : Nat) (sh : Nat) (row : Nat) : Keeps o₀ (takeRowSnap s acc d bank sh row).1 := by
  unfold takeRowSnap
  repeat' first | with_reducible (first | assumption | apply keeps_putSnap | apply keeps_raiseErr | refine Keeps.ite ?_ ?_ | refine Keeps.foldl (fun _ _ _ => ?_) ?_) | split | intro _ | dsimp only

theorem keeps_useGrant {o₀ s : State} (hk : Keeps o₀ s) (d inst o : Nat) : ∀ u₀, useGrant s d inst o = some u₀ → Keeps o₀ u₀ := by
  intro u h
  unfold useGrant at h
  dsimp only at h
  split at h
  · injection h with h
    subst h
    exact Keeps.rest hk rfl rfl rfl rfl rfl rfl rfl rfl rfl rfl
  · cases h

theorem keeps_useLock {o₀ s : State} (hk : Keeps o₀ s) (d inst o n : Nat) : ∀ u₀, useLock s d inst o n = some u₀ → Keeps o₀ u₀ := by
  intro u₀ h
  exact keeps_useGrant hk d inst o u₀ (Option.ite_none_right_eq_some.mp h).2

theorem keeps_readRows {o₀ s : State} (hk : Keeps o₀ s) (acc : Nat) (d : Nat) (off : Nat) (size : Nat) : Keeps o₀ (readRows s acc d off size).1 := by
  unfold readRows
  repeat' first | with_reducible (first | assumption | apply keeps_answer | (refine keeps_useLock ?_ _ _ _ _ _ ‹_ = some _›) | apply keeps_takeRowSnap | refine Keeps.ite ?_ ?_) | split | intro _ | dsimp only

theorem keeps_readSliceWin {o₀ s : State} (hk : Keeps o₀ s) (d : Nat) (off : Nat) (size : Nat) : Keeps o₀ (readSliceWin s d off size).1 := by
  unfold readSliceWin
  repeat' first | with_reducible (first | assumption | apply keeps_answer | refine Keeps.ite ?_ ?_) | split | dsimp only

theorem keeps_readMem {o₀ s : State} (hk : Keeps o₀ s) (d : Nat) (line : Nat) (ecc : Nat) : Keeps o₀ (readMem s d line ecc).1 := by
  unfold readMem
  repeat' first | with_reducible (first | assumption | apply keeps_memWrite | apply keeps_bumpSat | apply keeps_raiseErr | refine Keeps.ite ?_ ?_) | (with_reducible refine Keeps.lit ?_; dsimp only; with_reducible first | exact Keeps.of hk | refine Keeps.of ?_) | split | dsimp only

theorem keeps_unreadable {o₀ s : State} (hk : Keeps o₀ s) (d : Nat) (line : Nat) (bit : Nat) : Keeps o₀ (unreadable s d line bit) := by
  unfold unreadable
  repeat' first | with_reducible (first | assumption | apply keeps_bumpSat | apply keeps_setF | apply keeps_raiseErr) | dsimp only

theorem keeps_readStoreWin {o₀ s : State} (hk : Keeps o₀ s) (acc : Nat) (d : Nat) (off : Nat) (size : Nat) (ecc : Nat) : Keeps o₀ (readStoreWin s acc d off size ecc).1 := by
  unfold readStoreWin
  repeat' first | with_reducible (first | assumption | apply keeps_unreadable | apply keeps_putSnap | apply keeps_answer | apply keeps_readMem | refine Keeps.ite ?_ ?_ | refine Keeps.foldl (fun _ _ _ => ?_) ?_ | refine Keeps.of_pair ‹_ = (_, _)› ?_ | refine Keeps.of_snd ‹_ = (_, _)› ?_) | (with_reducible refine Keeps.lit ?_; dsimp only; with_reducible first | exact Keeps.of hk | refine Keeps.of ?_) | split | intro _ | dsimp only

theorem keeps_swrReject {o₀ s : State} (hk : Keeps o₀ s) (d : Nat) (cause : Nat) (item : ErrItem) : Keeps o₀ (swrReject s d cause item) := by
  unfold swrReject
  repeat' first | with_reducible (first | assumption | apply keeps_bumpSat | apply keeps_setF | apply keeps_raiseErr) | dsimp only

theorem keeps_slotWrite {o₀ s : State} (hk : Keeps o₀ s) (d : Nat) (off : Nat) (len : Nat) (e : BitVec 512) : Keeps o₀ (slotWrite s d off len e) := by
  unfold slotWrite
  repeat' first | with_reducible (first | assumption | apply keeps_swrReject | refine Keeps.ite ?_ ?_) | (with_reducible refine Keeps.lit ?_; dsimp only; with_reducible first | exact Keeps.of hk | refine Keeps.of ?_) | split | intro _ | dsimp only

theorem keeps_readOpen {o₀ s : State} (hk : Keeps o₀ s) (acc : Nat) (x : Site) (size : Nat) : Keeps o₀ (readOpen s acc x size).1 := by
  unfold readOpen
  repeat' first | with_reducible (first | assumption | apply keeps_answer | apply keeps_readRecipe | apply keeps_readReg | apply keeps_readRows | apply keeps_readSliceWin | apply keeps_readStoreWin | apply keeps_slotWrite | refine Keeps.of_pair ‹_ = (_, _)› ?_ | refine Keeps.ite ?_ ?_) | split | intro _ | dsimp only

theorem keeps_setDom {o₀ s : State} (hk : Keeps o₀ s) (d : Nat) (c : Nat) (x : Dom) : Keeps o₀ (setDom s d c x) := by
  unfold setDom
  repeat' first | with_reducible (first | assumption) | (with_reducible refine Keeps.lit ?_; dsimp only; with_reducible first | exact Keeps.of hk | refine Keeps.of ?_) | dsimp only

theorem keeps_setPhase {o₀ s : State} (hk : Keeps o₀ s) (d : Nat) (c : Nat) (p : DomPhase) (wake : Bool) : Keeps o₀ (setPhase s d c p wake) := by
  unfold setPhase
  repeat' first | with_reducible (first | assumption | apply keeps_setDom) | dsimp only

theorem keeps_startWake {o₀ s : State} (hk : Keeps o₀ s) (d : Nat) (c : Nat) (low : Nat) : Keeps o₀ (startWake s d c low) := by
  unfold startWake
  repeat' first | with_reducible (first | assumption | apply keeps_setPhase | apply keeps_setF) | dsimp only

theorem keeps_wakeEvent {o₀ s : State} (hk : Keeps o₀ s) (d : Nat) (c : Nat) : Keeps o₀ (wakeEvent s d c) := by
  unfold wakeEvent
  repeat' first | with_reducible (first | assumption | apply keeps_setPhase | apply keeps_startWake) | split | dsimp only

theorem keeps_wakeFor {o₀ s : State} (hk : Keeps o₀ s) (d : Nat) (c : Option Nat) : Keeps o₀ (wakeFor s d c) := by
  unfold wakeFor
  repeat' first | with_reducible (first | assumption | apply keeps_wakeEvent) | split | dsimp only

theorem keeps_readSite {o₀ s : State} (hk : Keeps o₀ s) (acc : Nat) (x : Site) (bar : Nat) (size : Nat) : Keeps o₀ (readSite s acc x bar size).1 := by
  unfold readSite
  repeat' first | with_reducible (first | assumption | apply keeps_answer | apply keeps_readOpen | apply keeps_badAccess | apply keeps_wakeFor | refine Keeps.ite ?_ ?_) | split | dsimp only

theorem keeps_busRead {o₀ s : State} (hk : Keeps o₀ s) (acc : Nat) (bar : Nat) (size : Nat) : Keeps o₀ (busRead s acc bar size).1 := by
  unfold busRead
  repeat' first | with_reducible (first | assumption | apply keeps_readSite) | dsimp only

theorem keeps_schedule {o₀ s : State} (hk : Keeps o₀ s) (acc : Nat) (off : Nat) (val : Nat) : Keeps o₀ (schedule s acc off val) := by
  unfold schedule
  repeat' first | with_reducible (first | assumption | apply keeps_sendTarget | refine Keeps.ite ?_ ?_) | (with_reducible refine Keeps.lit ?_; dsimp only; with_reducible first | exact Keeps.of hk | refine Keeps.of ?_) | split | intro _ | dsimp only

theorem keeps_writeMsixCtl {o₀ s : State} (hk : Keeps o₀ s) (v : Nat) (masked : Bool) : Keeps o₀ (writeMsixCtl s v masked) := by
  unfold writeMsixCtl
  repeat' first | with_reducible (first | assumption | apply keeps_emitOut | refine Keeps.ite ?_ ?_) | (with_reducible refine Keeps.lit ?_; dsimp only; with_reducible first | exact Keeps.of hk | refine Keeps.of ?_) | split | dsimp only

theorem keeps_writeMsix {o₀ s : State} (hk : Keeps o₀ s) (off : Nat) (val : Nat) : Keeps o₀ (writeMsix s off val) := by
  unfold writeMsix
  repeat' first | with_reducible (first | assumption | apply keeps_writeMsixCtl | refine Keeps.ite ?_ ?_) | (with_reducible refine Keeps.lit ?_; dsimp only; with_reducible first | exact Keeps.of hk | refine Keeps.of ?_) | split | dsimp only

theorem keeps_execThreadRelease {o₀ s : State} (hk : Keeps o₀ s) (d : Nat) (val : Nat) : KeepsR o₀ (execThreadRelease d val s) := by
  unfold execThreadRelease; refine keepsR_next ?_
  repeat' first | with_reducible (first | assumption | apply keeps_freeT | refine Keeps.ite ?_ ?_) | split | intro _ | dsimp only

theorem keeps_stateOf {o₀ s : State} (hk : Keeps o₀ s) {r : Result} (h : KeepsR o₀ r) : Keeps o₀ (stateOf r s) := by
  unfold stateOf
  split
  · exact h
  · exact hk

theorem keeps_execArbCounterSelect {o₀ s : State} (hk : Keeps o₀ s) (d : Nat) (val : Nat) : KeepsR o₀ (execArbCounterSelect d val s) := by
  unfold execArbCounterSelect; refine keepsR_next ?_
  repeat' first | with_reducible (first | assumption | apply keeps_setF | refine Keeps.ite ?_ ?_) | (with_reducible refine Keeps.lit ?_; dsimp only; with_reducible first | exact Keeps.of hk | refine Keeps.of ?_) | split | dsimp only

theorem keeps_execArbiterCommit {o₀ s : State} (hk : Keeps o₀ s) (d : Nat) : KeepsR o₀ (execArbiterCommit d s) := by
  unfold execArbiterCommit; refine keepsR_next ?_
  repeat' first | with_reducible (first | assumption | apply keeps_setF | apply keeps_raiseErr | refine Keeps.ite ?_ ?_) | split | dsimp only

theorem keeps_writeArb {o₀ s : State} (hk : Keeps o₀ s) (d : Nat) (off : Nat) (val : Nat) : Keeps o₀ (writeArb s d off val) := by
  unfold writeArb
  repeat' first | with_reducible (first | assumption | apply keeps_stateOf | apply keeps_writeWord | apply keeps_execArbiterCommit | apply keeps_setF | apply keeps_execArbCounterSelect | refine Keeps.ite ?_ ?_ | refine Keeps.foldl (fun _ _ _ => ?_) ?_) | split | intro _ | dsimp only

theorem keeps_setIfState {o₀ s : State} (hk : Keeps o₀ s) (i : Nat) (st : Nat) (lanes : Nat) : Keeps o₀ (setIfState s i st lanes) := by
  unfold setIfState
  repeat' first | with_reducible (first | assumption | apply keeps_setF) | dsimp only

theorem keeps_startBsq {o₀ s : State} (hk : Keeps o₀ s) (d : Nat) : Keeps o₀ (startBsq s d) := by
  unfold startBsq
  repeat' first | with_reducible (first | assumption | apply keeps_setF | apply keeps_setIfState | refine Keeps.foldl (fun _ _ _ => ?_) ?_) | (with_reducible refine Keeps.lit ?_; dsimp only; with_reducible first | exact Keeps.of hk | refine Keeps.of ?_) | intro _ | dsimp only

theorem keeps_writeBsq {o₀ s : State} (hk : Keeps o₀ s) (d : Nat) (val : Nat) : Keeps o₀ (writeBsq s d val) := by
  unfold writeBsq
  repeat' first | with_reducible (first | assumption | apply keeps_startBsq | apply keeps_setF | refine Keeps.ite ?_ ?_) | split | dsimp only

theorem keeps_noInstall {o₀ s : State} (hk : Keeps o₀ s) (ok : Fill → Bool) : Keeps o₀ (noInstall s ok) := by
  unfold noInstall
  repeat' first | with_reducible (first | assumption | apply keeps_setLine | refine Keeps.of_pair ‹_ = (_, _)› ?_ | refine Keeps.ite ?_ ?_ | refine Keeps.foldl (fun _ _ _ => ?_) ?_) | (with_reducible refine Keeps.lit ?_; dsimp only; with_reducible first | exact Keeps.of hk | refine Keeps.of ?_) | split | intro _ | dsimp only

theorem keeps_writeCchCtl {o₀ s : State} (hk : Keeps o₀ s) (d : Nat) (val : Nat) : Keeps o₀ (writeCchCtl s d val) := by
  unfold writeCchCtl
  repeat' first | with_reducible (first | assumption | apply keeps_noInstall | apply keeps_writeWord | refine Keeps.ite ?_ ?_) | ((with_reducible refine Keeps.lit ?_); dsimp only; (try with_reducible (first | refine KeepsF.cache (fun hm => mwf_mset _ _ _ _ hm) ?_ | refine KeepsF.cache (fun hm => mwf_filter _ _ _ hm) ?_ | apply KeepsF.cache (fun _ => mwf_nil _))); with_reducible first | exact Keeps.of hk | refine Keeps.of ?_) | split | intro _ | dsimp only

theorem keeps_writeInv {o₀ s : State} (hk : Keeps o₀ s) (d : Nat) (val : Nat) : Keeps o₀ (writeInv s d val) := by
  unfold writeInv
  repeat' first | with_reducible (first | assumption | apply keeps_setF | apply keeps_invLine | refine Keeps.ite ?_ ?_ | refine Keeps.foldl (fun _ _ _ => ?_) ?_) | (with_reducible refine Keeps.lit ?_; dsimp only; with_reducible first | exact Keeps.of hk | refine Keeps.of ?_) | split | intro _ | dsimp only

theorem keeps_refuseWays {o₀ s : State} (hk : Keeps o₀ s) (d : Nat) (word : Nat) : Keeps o₀ (refuseWays s d word) := by
  unfold refuseWays
  repeat' first | with_reducible (first | assumption | apply keeps_bumpSat | apply keeps_raiseErr) | dsimp only

theorem keeps_writePreload {o₀ s : State} (hk : Keeps o₀ s) (d : Nat) (val : Nat) : Keeps o₀ (writePreload s d val) := by
  unfold writePreload
  repeat' first | with_reducible (first | assumption | apply keeps_refuseWays | apply keeps_setF | refine Keeps.ite ?_ ?_) | (with_reducible refine Keeps.lit ?_; dsimp only; with_reducible first | exact Keeps.of hk | refine Keeps.of ?_) | split | dsimp only

theorem keeps_writeWays {o₀ s : State} (hk : Keeps o₀ s) (d : Nat) (val : Nat) : Keeps o₀ (writeWays s d val) := by
  unfold writeWays
  repeat' first | with_reducible (first | assumption | apply keeps_clearWay | apply keeps_refuseWays | apply keeps_disableWay | apply keeps_setF | refine Keeps.ite ?_ ?_ | refine Keeps.foldl (fun _ _ _ => ?_) ?_) | split | intro _ | dsimp only

theorem keeps_writeCch {o₀ s : State} (hk : Keeps o₀ s) (d : Nat) (off : Nat) (val : Nat) : Keeps o₀ (writeCch s d off val) := by
  unfold writeCch
  repeat' first | with_reducible (first | assumption | apply keeps_setF | apply keeps_writeCchCtl | apply keeps_writeInv | apply keeps_writePreload | apply keeps_writeWays | apply keeps_writeWord | refine Keeps.of_pair ‹_ = (_, _)› ?_ | refine Keeps.ite ?_ ?_) | split | dsimp only

theorem keeps_cellarOff {o₀ s : State} (hk : Keeps o₀ s) (cause : Nat) : Keeps o₀ (cellarOff s cause) := by
  unfold cellarOff
  repeat' first | with_reducible (first | assumption | apply keeps_setCause | apply keeps_settleFetches | apply keeps_setF | refine Keeps.ite ?_ ?_ | refine Keeps.foldl (fun _ _ _ => ?_) ?_) | (with_reducible refine Keeps.lit ?_; dsimp only; with_reducible first | exact Keeps.of hk | refine Keeps.of ?_) | split | intro _ | dsimp only

theorem keeps_writeCelCtl {o₀ s : State} (hk : Keeps o₀ s) (val : Nat) : Keeps o₀ (writeCelCtl s val) := by
  unfold writeCelCtl
  repeat' first | with_reducible (first | assumption | apply keeps_cellarOff | apply keeps_setF | refine Keeps.ite ?_ ?_) | split | dsimp only

theorem keeps_keyDone {o₀ s : State} (hk : Keeps o₀ s) (st : Nat) : Keeps o₀ (keyDone s st) := by
  unfold keyDone
  repeat' first | with_reducible (first | assumption | apply keeps_setF | apply keeps_raiseErr | refine Keeps.ite ?_ ?_) | split | dsimp only

theorem keeps_setKey {o₀ s : State} (hk : Keeps o₀ s) (k : Nat) (v : Option Nat) : Keeps o₀ (setKey s k v) := by
  unfold setKey
  repeat' first | with_reducible (first | assumption | apply keeps_setF) | (with_reducible refine Keeps.lit ?_; dsimp only; with_reducible first | exact Keeps.of hk | refine Keeps.of ?_) | dsimp only

theorem keeps_clearKey {o₀ s : State} (hk : Keeps o₀ s) (k : Nat) : Keeps o₀ (clearKey s k) := by
  unfold clearKey
  repeat' first | with_reducible (first | assumption | apply keeps_setCause | apply keeps_keyDone | apply keeps_setKey | refine Keeps.ite ?_ ?_ | refine Keeps.foldl (fun _ _ _ => ?_) ?_) | split | intro _ | dsimp only

theorem keeps_loadKey {o₀ s : State} (hk : Keeps o₀ s) (k : Nat) : Keeps o₀ (loadKey s k) := by
  unfold loadKey
  repeat' first | with_reducible (first | assumption | apply keeps_keyDone | apply keeps_setKey | refine Keeps.of_pair ‹_ = (_, _)› ?_ | refine Keeps.ite ?_ ?_) | split | dsimp only

theorem keeps_writeKcmd {o₀ s : State} (hk : Keeps o₀ s) (val : Nat) : Keeps o₀ (writeKcmd s val) := by
  unfold writeKcmd
  repeat' first | with_reducible (first | assumption | apply keeps_keyDone | apply keeps_loadKey | apply keeps_setF | apply keeps_clearKey | refine Keeps.ite ?_ ?_) | split | intro _ | dsimp only

theorem keeps_writeKek {o₀ s : State} (hk : Keeps o₀ s) (k : Nat) (val : Nat) (smbus : Bool) : Keeps o₀ (writeKek s k val smbus) := by
  unfold writeKek
  repeat' first | with_reducible (first | assumption | apply keeps_setF | apply keeps_raiseErr | refine Keeps.ite ?_ ?_ | refine Keeps.foldl (fun _ _ _ => ?_) ?_) | (with_reducible refine Keeps.lit ?_; dsimp only; with_reducible first | exact Keeps.of hk | refine Keeps.of ?_) | split | intro _ | dsimp only

theorem keeps_writeRgnOn {o₀ s : State} (hk : Keeps o₀ s) (val : Nat) : Keeps o₀ (writeRgnOn s val) := by
  unfold writeRgnOn
  repeat' first | with_reducible (first | assumption | apply keeps_regionOff | apply keeps_setCause | refine Keeps.ite ?_ ?_) | split | dsimp only

theorem keeps_writeWcmd {o₀ s : State} (hk : Keeps o₀ s) (val : Nat) : Keeps o₀ (writeWcmd s val) := by
  unfold writeWcmd
  repeat' first | with_reducible (first | assumption | apply keeps_advanceWrite | apply keeps_setF | refine Keeps.ite ?_ ?_ | refine Keeps.foldl (fun _ _ _ => ?_) ?_) | (with_reducible refine Keeps.lit ?_; dsimp only; with_reducible first | exact Keeps.of hk | refine Keeps.of ?_) | split | intro _ | dsimp only

theorem keeps_writeCel {o₀ s : State} (hk : Keeps o₀ s) (acc : Nat) (off : Nat) (val : Nat) : Keeps o₀ (writeCel s acc off val) := by
  unfold writeCel
  repeat' first | with_reducible (first | assumption | apply keeps_writeCelCtl | apply keeps_writeWord | apply keeps_writeKcmd | apply keeps_writeKek | apply keeps_writeRgnOn | apply keeps_writeWcmd | refine Keeps.ite ?_ ?_) | split | dsimp only

theorem keeps_rescale {o₀ s : State} (hk : Keeps o₀ s) : Keeps o₀ (rescale s) := by
  unfold rescale
  repeat' first | with_reducible (first | assumption | apply keeps_setRate | refine Keeps.ite ?_ ?_) | (with_reducible refine Keeps.lit ?_; dsimp only; with_reducible first | exact Keeps.of hk | refine Keeps.of ?_) | split | dsimp only

theorem keeps_stopPll {o₀ s : State} (hk : Keeps o₀ s) (d : Nat) : Keeps o₀ (stopPll s d) := by
  unfold stopPll
  repeat' first | with_reducible (first | assumption | apply keeps_bumpSat | apply keeps_setF | refine Keeps.ite ?_ ?_) | split | dsimp only

theorem keeps_writeClkCtl {o₀ s : State} (hk : Keeps o₀ s) (d : Nat) (val : Nat) : Keeps o₀ (writeClkCtl s d val) := by
  unfold writeClkCtl
  repeat' first | with_reducible (first | assumption | apply keeps_bumpSat | apply keeps_raiseErr | apply keeps_rescale | apply keeps_setF | apply keeps_stopPll | apply keeps_writeWord | refine Keeps.ite ?_ ?_) | split | dsimp only

theorem keeps_setLk {o₀ s : State} (hk : Keeps o₀ s) (k : Nat) (v : Nat) : Keeps o₀ (setLk s k v) := by
  unfold setLk
  repeat' first | with_reducible (first | assumption) | (with_reducible refine Keeps.lit ?_; dsimp only; with_reducible first | exact Keeps.of hk | refine Keeps.of ?_) | dsimp only

theorem keeps_modSearch {o₀ s : State} (hk : Keeps o₀ s) (sid : Nat) (f : Search → Search) : Keeps o₀ (modSearch s sid f) := by
  unfold modSearch
  repeat' first | with_reducible (first | assumption) | (with_reducible refine Keeps.lit ?_; dsimp only; with_reducible first | exact Keeps.of hk | refine Keeps.of ?_) | intro _ | dsimp only

theorem keeps_setBelow {o₀ s : State} (hk : Keeps o₀ s) (sid : Nat) (c : Contrib) : Keeps o₀ (setBelow s sid c) := by
  unfold setBelow
  repeat' first | with_reducible (first | assumption | apply keeps_modSearch) | (with_reducible refine Keeps.lit ?_; dsimp only; with_reducible first | exact Keeps.of hk | refine Keeps.of ?_) | intro _ | dsimp only

theorem keeps_giveBelow {o₀ s : State} (hk : Keeps o₀ s) (p : Search → Bool) (c : Contrib) : Keeps o₀ (giveBelow s p c) := by
  unfold giveBelow
  repeat' first | with_reducible (first | assumption | apply keeps_setBelow | refine Keeps.foldl (fun _ _ _ => ?_) ?_) | intro _ | dsimp only

theorem keeps_startRetrain {o₀ s : State} (hk : Keeps o₀ s) (port : Nat) : Keeps o₀ (startRetrain s port) := by
  unfold startRetrain
  repeat' first | with_reducible (first | assumption | apply keeps_giveBelow | apply keeps_raiseErr | apply keeps_setF | apply keeps_setLk | refine Keeps.ite ?_ ?_) | split | intro _ | dsimp only

theorem keeps_execCascadeRetrain {o₀ s : State} (hk : Keeps o₀ s) : KeepsR o₀ (execCascadeRetrain s) := by
  unfold execCascadeRetrain; refine keepsR_next ?_
  repeat' first | with_reducible (first | assumption | apply keeps_startRetrain | apply keeps_setF | refine Keeps.ite ?_ ?_) | split | intro _ | dsimp only

theorem keeps_execCascadeReturn {o₀ s : State} (hk : Keeps o₀ s) : KeepsR o₀ (execCascadeReturn s) := by
  unfold execCascadeReturn; refine keepsR_next ?_
  repeat' first | with_reducible (first | assumption | apply keeps_setF | refine Keeps.ite ?_ ?_) | split | intro _ | dsimp only

theorem keeps_portDown {o₀ s : State} (hk : Keeps o₀ s) (port : Nat) : Keeps o₀ (portDown s port) := by
  unfold portDown
  repeat' first | with_reducible (first | assumption | apply keeps_giveBelow | apply keeps_setF | refine Keeps.ite ?_ ?_) | (with_reducible refine Keeps.lit ?_; dsimp only; with_reducible first | exact Keeps.of hk | refine Keeps.of ?_) | split | intro _ | dsimp only

theorem keeps_writeCsc {o₀ s : State} (hk : Keeps o₀ s) (off : Nat) (val : Nat) : Keeps o₀ (writeCsc s off val) := by
  unfold writeCsc
  repeat' first | with_reducible (first | assumption | apply keeps_execCascadeRetrain | apply keeps_execCascadeReturn | apply keeps_portDown | apply keeps_setF | apply keeps_stateOf | refine Keeps.ite ?_ ?_ | refine Keeps.foldl (fun _ _ _ => ?_) ?_) | split | intro _ | dsimp only

theorem keeps_modCh {o₀ s : State} (hk : Keeps o₀ s) (d : Nat) (c : Nat) (f : EvChan → EvChan) : Keeps o₀ (modCh s d c f) := by
  unfold modCh
  repeat' first | with_reducible (first | assumption) | (with_reducible refine Keeps.lit ?_; dsimp only; with_reducible first | exact Keeps.of hk | refine Keeps.of ?_) | dsimp only

theorem keeps_releaseSlot {o₀ s : State} (hk : Keeps o₀ s) (d : Nat) (ch : Nat) (t : Nat) : Keeps o₀ (releaseSlot s d ch t) := by
  unfold releaseSlot
  repeat' first | with_reducible (first | assumption | apply keeps_bumpSat | apply keeps_modT | apply keeps_modCh) | (with_reducible refine Keeps.lit ?_; dsimp only; with_reducible first | exact Keeps.of hk | refine Keeps.of ?_) | intro _ | dsimp only

theorem keeps_execDbgChannelRelease {o₀ s : State} (hk : Keeps o₀ s) (d : Nat) (val : Nat) : KeepsR o₀ (execDbgChannelRelease d val s) := by
  unfold execDbgChannelRelease; refine keepsR_next ?_
  repeat' first | with_reducible (first | assumption | apply keeps_releaseSlot | refine Keeps.ite ?_ ?_) | split | dsimp only

theorem keeps_execHalt {o₀ s : State} (hk : Keeps o₀ s) (d : Nat) : KeepsR o₀ (execHalt d s) := by
  unfold execHalt; refine keepsR_next ?_
  repeat' first | with_reducible (first | assumption | apply keeps_quiet | apply keeps_setT | refine Keeps.ite ?_ ?_) | (with_reducible refine Keeps.lit ?_; dsimp only; with_reducible first | exact Keeps.of hk | refine Keeps.of ?_) | split | dsimp only

theorem keeps_execKill {o₀ s : State} (hk : Keeps o₀ s) (d : Nat) : KeepsR o₀ (execKill d s) := by
  unfold execKill; refine keepsR_next ?_
  repeat' first | with_reducible (first | assumption | apply keeps_faultThread | refine Keeps.ite ?_ ?_) | split | dsimp only

theorem keeps_unhalt {o₀ s : State} (hk : Keeps o₀ s) (d : Nat) (t : Nat) (one : Bool) : Keeps o₀ (unhalt s d t one) := by
  unfold unhalt
  repeat' first | with_reducible (first | assumption | apply keeps_finish | apply keeps_parentCheck | apply keeps_setT | refine Keeps.ite ?_ ?_) | (with_reducible refine Keeps.lit ?_; dsimp only; with_reducible first | exact Keeps.of hk | refine Keeps.of ?_) | split | dsimp only

theorem keeps_execResume {o₀ s : State} (hk : Keeps o₀ s) (d : Nat) : KeepsR o₀ (execResume d s) := by
  unfold execResume; refine keepsR_next ?_
  repeat' first | with_reducible (first | assumption | apply keeps_unhalt | refine Keeps.ite ?_ ?_) | split | dsimp only

theorem keeps_execStep {o₀ s : State} (hk : Keeps o₀ s) (d : Nat) : KeepsR o₀ (execStep d s) := by
  unfold execStep; refine keepsR_next ?_
  repeat' first | with_reducible (first | assumption | apply keeps_unhalt | refine Keeps.ite ?_ ?_) | split | dsimp only

theorem keeps_writeDbg {o₀ s : State} (hk : Keeps o₀ s) (d : Nat) (off : Nat) (val : Nat) : Keeps o₀ (writeDbg s d off val) := by
  unfold writeDbg
  repeat' first | with_reducible (first | assumption | apply keeps_stateOf | apply keeps_writeWord | apply keeps_execKill | apply keeps_execDbgChannelRelease | apply keeps_execHalt | apply keeps_execResume | apply keeps_execStep) | split | dsimp only

theorem keeps_endLog {o₀ s : State} (hk : Keeps o₀ s) : Keeps o₀ (endLog s) := by
  unfold endLog
  repeat' first | with_reducible (first | assumption | apply keeps_appendRecord | apply keeps_ckptDue | apply keeps_sendEvidence | apply keeps_setF | apply keeps_sendEvidence_loseRecord | refine Keeps.ite ?_ ?_ | refine Keeps.foldl (fun _ _ _ => ?_) ?_) | (with_reducible refine Keeps.lit ?_; dsimp only; with_reducible first | exact Keeps.of hk | refine Keeps.of ?_) | split | intro _ | dsimp only

theorem keeps_startLog {o₀ s : State} (hk : Keeps o₀ s) : Keeps o₀ (startLog s) := by
  unfold startLog
  repeat' first | with_reducible (first | assumption | apply keeps_appendRecord | apply keeps_setF | refine Keeps.foldl (fun _ _ _ => ?_) ?_) | (with_reducible refine Keeps.lit ?_; dsimp only; with_reducible first | exact Keeps.of hk | refine Keeps.of ?_) | intro _ | dsimp only

theorem keeps_writeEvdCtl {o₀ s : State} (hk : Keeps o₀ s) (val : Nat) : Keeps o₀ (writeEvdCtl s val) := by
  unfold writeEvdCtl
  repeat' first | with_reducible (first | assumption | apply keeps_endLog | apply keeps_setF | apply keeps_startLog | refine Keeps.ite ?_ ?_) | (with_reducible refine Keeps.lit ?_; dsimp only; with_reducible first | exact Keeps.of hk | refine Keeps.of ?_) | split | dsimp only

theorem keeps_writeEvd {o₀ s : State} (hk : Keeps o₀ s) (off : Nat) (val : Nat) : Keeps o₀ (writeEvd s off val) := by
  unfold writeEvd
  repeat' first | with_reducible (first | assumption | apply keeps_writeWord | apply keeps_writeEvdCtl | refine Keeps.ite ?_ ?_) | split | dsimp only

theorem keeps_startErst {o₀ s : State} (hk : Keeps o₀ s) (unload : Bool) : Keeps o₀ (startErst s unload) := by
  unfold startErst
  repeat' first | with_reducible (first | assumption | apply keeps_setF | apply keeps_abortThreads | refine Keeps.foldl (fun _ _ _ => ?_) ?_) | (with_reducible refine Keeps.lit ?_; dsimp only; with_reducible first | exact Keeps.of hk | refine Keeps.of ?_) | intro _ | dsimp only

theorem keeps_writeErst {o₀ s : State} (hk : Keeps o₀ s) (val : Nat) : Keeps o₀ (writeErst s val) := by
  unfold writeErst
  repeat' first | with_reducible (first | assumption | apply keeps_startErst | apply keeps_setF | refine Keeps.ite ?_ ?_) | split | dsimp only

theorem keeps_writeGr {o₀ s : State} (hk : Keeps o₀ s) (val : Nat) : Keeps o₀ (writeGr s val) := by
  unfold writeGr
  repeat' first | with_reducible (first | assumption | apply keeps_setF | refine Keeps.ite ?_ ?_) | (with_reducible refine Keeps.lit ?_; dsimp only; with_reducible first | exact Keeps.of hk | refine Keeps.of ?_) | split | dsimp only

theorem keeps_writeFlt {o₀ s : State} (hk : Keeps o₀ s) (d : Nat) (off : Nat) (val : Nat) : Keeps o₀ (writeFlt s d off val) := by
  unfold writeFlt
  repeat' first | with_reducible (first | assumption | apply keeps_writeWord | apply keeps_writeGr | apply keeps_writeErst) | split | dsimp only

theorem keeps_commitWindows {o₀ s : State} (hk : Keeps o₀ s) : Keeps o₀ (commitWindows s) := by
  unfold commitWindows
  repeat' first | with_reducible (first | assumption | apply keeps_setF | refine Keeps.ite ?_ ?_ | refine Keeps.foldl (fun _ _ _ => ?_) ?_) | (with_reducible refine Keeps.lit ?_; dsimp only; with_reducible first | exact Keeps.of hk | refine Keeps.of ?_) | split | intro _ | dsimp only

theorem keeps_writeEqCfg {o₀ s : State} (hk : Keeps o₀ s) (c : Nat) (val : Nat) : Keeps o₀ (writeEqCfg s c val) := by
  unfold writeEqCfg
  repeat' first | with_reducible (first | assumption | apply keeps_setF | refine Keeps.ite ?_ ?_) | (with_reducible refine Keeps.lit ?_; dsimp only; with_reducible first | exact Keeps.of hk | refine Keeps.of ?_) | split | dsimp only

theorem keeps_writeCfgFields {o₀ s : State} (hk : Keeps o₀ s) (q : Nat) (val : Nat) : Keeps o₀ (writeCfgFields s q val) := by
  unfold writeCfgFields
  repeat' first | with_reducible (first | assumption | apply keeps_setF) | dsimp only

theorem keeps_writeQCfg {o₀ s : State} (hk : Keeps o₀ s) (q : Nat) (val : Nat) : Keeps o₀ (writeQCfg s q val) := by
  unfold writeQCfg
  repeat' first | with_reducible (first | assumption | apply keeps_writeCfgFields | apply keeps_setF | refine Keeps.ite ?_ ?_) | (with_reducible refine Keeps.lit ?_; dsimp only; with_reducible first | exact Keeps.of hk | refine Keeps.of ?_) | split | dsimp only

theorem keeps_writeHif {o₀ s : State} (hk : Keeps o₀ s) (off : Nat) (val : Nat) : Keeps o₀ (writeHif s off val) := by
  unfold writeHif
  repeat' first | with_reducible (first | assumption | apply keeps_writeWord | apply keeps_writeEqCfg | apply keeps_commitWindows | apply keeps_writeQCfg | refine Keeps.ite ?_ ?_) | split | dsimp only

theorem keeps_loadWord {o₀ s : State} (hk : Keeps o₀ s) (d : Nat) (pg : Nat) (bank : Nat) (off : Nat) (val : Nat) : Keeps o₀ (loadWord s d pg bank off val) := by
  unfold loadWord
  repeat' first | with_reducible (first | assumption | apply keeps_setF | refine Keeps.foldl (fun _ _ _ => ?_) ?_) | intro _ | dsimp only

theorem keeps_setHome {o₀ s : State} (hk : Keeps o₀ s) (c : Nat) (d : Nat) : Keeps o₀ (setHome s c d) := by
  unfold setHome
  repeat' first | with_reducible (first | assumption) | (with_reducible refine Keeps.lit ?_; dsimp only; with_reducible first | exact Keeps.of hk | refine Keeps.of ?_) | dsimp only

theorem keeps_writeChannel {o₀ s : State} (hk : Keeps o₀ s) (d : Nat) (off : Nat) (val : Nat) : Keeps o₀ (writeChannel s d off val) := by
  unfold writeChannel
  repeat' first | with_reducible (first | assumption | apply keeps_loadWord | apply keeps_setHome | apply keeps_raiseErr | refine Keeps.ite ?_ ?_) | split | dsimp only

theorem keeps_writeIfCfg {o₀ s : State} (hk : Keeps o₀ s) (d : Nat) (val : Nat) : Keeps o₀ (writeIfCfg s d val) := by
  unfold writeIfCfg
  repeat' first | with_reducible (first | assumption | apply keeps_setIfState | apply keeps_writeWord | refine Keeps.ite ?_ ?_ | refine Keeps.foldl (fun _ _ _ => ?_) ?_) | split | intro _ | dsimp only

theorem keeps_writeLkp {o₀ s : State} (hk : Keeps o₀ s) (d : Nat) (off : Nat) (val : Nat) : Keeps o₀ (writeLkp s d off val) := by
  unfold writeLkp
  repeat' first | with_reducible (first | assumption | apply keeps_writeIfCfg | apply keeps_writeWord | apply keeps_writeChannel | apply keeps_setF | apply keeps_setIfState | refine Keeps.ite ?_ ?_ | refine Keeps.foldl (fun _ _ _ => ?_) ?_) | split | intro _ | dsimp only

theorem keeps_fenceMember {o₀ s : State} (hk : Keeps o₀ s) (p : Nat) (d : Nat) : Keeps o₀ (fenceMember s p d) := by
  unfold fenceMember
  repeat' first | with_reducible (first | assumption | apply keeps_loseDie | refine Keeps.ite ?_ ?_) | split | dsimp only

theorem keeps_setPair {o₀ s : State} (hk : Keeps o₀ s) (p : Nat) (v : Nat) : Keeps o₀ (setPair s p v) := by
  unfold setPair
  repeat' first | with_reducible (first | assumption | apply keeps_setF) | dsimp only

theorem keeps_copyBusy {o₀ s : State} (hk : Keeps o₀ s) : Keeps o₀ (copyBusy s) := by
  unfold copyBusy
  repeat' first | with_reducible (first | assumption | apply keeps_setF) | intro _ | dsimp only

theorem keeps_copyRegs {o₀ s : State} (hk : Keeps o₀ s) (src : Nat) (dst : Nat) (pg : Nat) : Keeps o₀ (copyRegs s src dst pg) := by
  unfold copyRegs
  repeat' first | with_reducible (first | assumption | refine Keeps.foldl (fun _ _ _ => ?_) ?_) | (with_reducible refine Keeps.lit ?_; dsimp only; with_reducible first | exact Keeps.of hk | refine Keeps.of ?_) | intro _ | dsimp only

theorem keeps_copyDescs {o₀ s : State} (hk : Keeps o₀ s) (src : Nat) (dst : Nat) : Keeps o₀ (copyDescs s src dst) := by
  unfold copyDescs
  repeat' first | with_reducible (first | assumption | apply keeps_copyRegs) | dsimp only

theorem keeps_startRejoin {o₀ s : State} (hk : Keeps o₀ s) (p : Nat) : Keeps o₀ (startRejoin s p) := by
  unfold startRejoin
  repeat' first | with_reducible (first | assumption | apply keeps_copyBusy | apply keeps_copyDescs | apply keeps_setF | apply keeps_setPair | refine Keeps.ite ?_ ?_) | (with_reducible refine Keeps.lit ?_; dsimp only; with_reducible first | exact Keeps.of hk | refine Keeps.of ?_) | split | dsimp only

theorem keeps_startReturn {o₀ s : State} (hk : Keeps o₀ s) (mask : Nat) : Keeps o₀ (startReturn s mask) := by
  unfold startReturn
  repeat' first | with_reducible (first | assumption | apply keeps_setF | refine Keeps.ite ?_ ?_ | refine Keeps.foldl (fun _ _ _ => ?_) ?_) | split | intro _ | dsimp only

theorem keeps_writeImgCmd {o₀ s : State} (hk : Keeps o₀ s) (val : Nat) : Keeps o₀ (writeImgCmd s val) := by
  unfold writeImgCmd
  repeat' first | with_reducible (first | assumption | apply keeps_emitOut | apply keeps_setF | refine Keeps.ite ?_ ?_) | (with_reducible refine Keeps.lit ?_; dsimp only; with_reducible first | exact Keeps.of hk | refine Keeps.of ?_) | split | dsimp only

theorem keeps_writePkg {o₀ s : State} (hk : Keeps o₀ s) (off : Nat) (val : Nat) : Keeps o₀ (writePkg s off val) := by
  unfold writePkg
  repeat' first | with_reducible (first | assumption | apply keeps_writeWord | apply keeps_startRejoin | apply keeps_writeImgCmd | apply keeps_fenceMember | apply keeps_startReturn | refine Keeps.ite ?_ ?_ | refine Keeps.foldl (fun _ _ _ => ?_) ?_) | split | intro _ | dsimp only

theorem keeps_retryWake {o₀ s : State} (hk : Keeps o₀ s) (d : Nat) (c : Nat) : Keeps o₀ (retryWake s d c) := by
  unfold retryWake
  repeat' first | with_reducible (first | assumption | apply keeps_setF | apply keeps_startWake) | split | dsimp only

theorem keeps_writeDomain {o₀ s : State} (hk : Keeps o₀ s) (d : Nat) (pg : Nat) (c : Nat) (off : Nat) (val : Nat) : Keeps o₀ (writeDomain s d pg c off val) := by
  unfold writeDomain
  repeat' first | with_reducible (first | assumption | apply keeps_setF | apply keeps_retryWake | apply keeps_wakeEvent | refine Keeps.ite ?_ ?_) | split | intro _ | dsimp only

theorem keeps_writeDsel {o₀ s : State} (hk : Keeps o₀ s) (d : Nat) (val : Nat) : Keeps o₀ (writeDsel s d val) := by
  unfold writeDsel
  repeat' first | with_reducible (first | assumption | apply keeps_setF | refine Keeps.ite ?_ ?_) | split | dsimp only

theorem keeps_writePwr {o₀ s : State} (hk : Keeps o₀ s) (d : Nat) (off : Nat) (val : Nat) : Keeps o₀ (writePwr s d off val) := by
  unfold writePwr
  repeat' first | with_reducible (first | assumption | apply keeps_writeWord | apply keeps_writeDsel | apply keeps_writeDomain | refine Keeps.ite ?_ ?_) | (with_reducible refine Keeps.lit ?_; dsimp only; with_reducible first | exact Keeps.of hk | refine Keeps.of ?_) | split | dsimp only

theorem keeps_random {o₀ s : State} (hk : Keeps o₀ s) : Keeps o₀ (random s).2 := by
  unfold random
  repeat' first | with_reducible (first | assumption) | (with_reducible refine Keeps.lit ?_; dsimp only; with_reducible first | exact Keeps.of hk | refine Keeps.of ?_) | dsimp only

theorem keeps_endorse {o₀ s : State} (hk : Keeps o₀ s) : Keeps o₀ (endorse s) := by
  unfold endorse
  repeat' first | with_reducible (first | assumption | apply keeps_random | apply keeps_setF | refine Keeps.of_pair ‹_ = (_, _)› ?_ | refine Keeps.of_snd ‹_ = (_, _)› ?_ | refine Keeps.foldl (fun _ _ _ => ?_) ?_) | split | intro _ | dsimp only

theorem keeps_fenceDevice {o₀ s : State} (hk : Keeps o₀ s) : Keeps o₀ (fenceDevice s) := by
  unfold fenceDevice
  repeat' first | with_reducible (first | assumption | apply keeps_endThreads | apply keeps_setF | apply keeps_answerAll | refine Keeps.foldl (fun _ _ _ => ?_) ?_) | (with_reducible refine Keeps.lit ?_; dsimp only; with_reducible first | exact Keeps.of hk | refine Keeps.of ?_) | dsimp only

theorem keeps_zeroizeLog {o₀ s : State} (hk : Keeps o₀ s) (src : Nat) : Keeps o₀ (zeroizeLog s src) := by
  unfold zeroizeLog
  repeat' first | with_reducible (first | assumption | apply keeps_appendRecord | apply keeps_raiseErr | apply keeps_sendEvidence | apply keeps_setF | apply keeps_sendEvidence_loseRecord | refine Keeps.ite ?_ ?_ | refine Keeps.foldl (fun _ _ _ => ?_) ?_) | (with_reducible refine Keeps.lit ?_; dsimp only; with_reducible first | exact Keeps.of hk | refine Keeps.of ?_) | split | intro _ | dsimp only

theorem keeps_zeroize {o₀ s : State} (hk : Keeps o₀ s) (src : Nat) : Keeps o₀ (zeroize s src) := by
  unfold zeroize
  repeat' first | with_reducible (first | assumption | apply keeps_cellarOff | apply keeps_raiseErr | apply keeps_setF | apply keeps_zeroizeLog | refine Keeps.ite ?_ ?_ | refine Keeps.foldl (fun _ _ _ => ?_) ?_) | (with_reducible refine Keeps.lit ?_; dsimp only; with_reducible first | exact Keeps.of hk | refine Keeps.of ?_) | split | intro _ | dsimp only

theorem keeps_fireAlarm {o₀ s : State} (hk : Keeps o₀ s) (src : Nat) : Keeps o₀ (fireAlarm s src) := by
  unfold fireAlarm
  repeat' first | with_reducible (first | assumption | apply keeps_fenceDevice | apply keeps_setF | apply keeps_zeroize | apply keeps_raiseErr | refine Keeps.ite ?_ ?_) | split | dsimp only

theorem keeps_challenge {o₀ s : State} (hk : Keeps o₀ s) : Keeps o₀ (challenge s) := by
  unfold challenge
  repeat' first | with_reducible (first | assumption | apply keeps_random | apply keeps_setF | refine Keeps.foldl (fun _ _ _ => ?_) ?_ | refine Keeps.of_pair ‹_ = (_, _)› ?_ | refine Keeps.of_snd ‹_ = (_, _)› ?_) | (with_reducible refine Keeps.lit ?_; dsimp only; with_reducible first | exact Keeps.of hk | refine Keeps.of ?_) | intro _ | dsimp only

theorem keeps_dropChallenge {o₀ s : State} (hk : Keeps o₀ s) : Keeps o₀ (dropChallenge s) := by
  unfold dropChallenge
  repeat' first | with_reducible (first | assumption) | (with_reducible refine Keeps.lit ?_; dsimp only; with_reducible first | exact Keeps.of hk | refine Keeps.of ?_) | dsimp only

theorem keeps_failResponse {o₀ s : State} (hk : Keeps o₀ s) : Keeps o₀ (failResponse s) := by
  unfold failResponse
  repeat' first | with_reducible (first | assumption | apply keeps_fireAlarm | apply keeps_bumpSat | apply keeps_setF | apply keeps_raiseErr | refine Keeps.ite ?_ ?_) | split | dsimp only

theorem keeps_setLevel {o₀ s : State} (hk : Keeps o₀ s) (level : Nat) : Keeps o₀ (setLevel s level) := by
  unfold setLevel
  repeat' first | with_reducible (first | assumption | apply keeps_setAll) | dsimp only

theorem keeps_checkResponse {o₀ s : State} (hk : Keeps o₀ s) : Keeps o₀ (checkResponse s) := by
  unfold checkResponse
  repeat' first | with_reducible (first | assumption | apply keeps_fireAlarm | apply keeps_setLevel | apply keeps_dropChallenge | apply keeps_setF | apply keeps_failResponse | refine Keeps.ite ?_ ?_) | split | intro _ | dsimp only

theorem keeps_writeDbgCmd {o₀ s : State} (hk : Keeps o₀ s) (val : Nat) : Keeps o₀ (writeDbgCmd s val) := by
  unfold writeDbgCmd
  repeat' first | with_reducible (first | assumption | apply keeps_setF | apply keeps_challenge | apply keeps_checkResponse | refine Keeps.ite ?_ ?_) | split | dsimp only

theorem keeps_writeSec {o₀ s : State} (hk : Keeps o₀ s) (off : Nat) (val : Nat) : Keeps o₀ (writeSec s off val) := by
  unfold writeSec
  repeat' first | with_reducible (first | assumption | apply keeps_fireAlarm | apply keeps_writeWord | apply keeps_endorse | apply keeps_writeDbgCmd | refine Keeps.ite ?_ ?_) | split | dsimp only

theorem keeps_writeSelIdx {o₀ s : State} (hk : Keeps o₀ s) (d : Nat) (val : Nat) : Keeps o₀ (writeSelIdx s d val) := by
  unfold writeSelIdx
  repeat' first | with_reducible (first | assumption | apply keeps_setF | refine Keeps.ite ?_ ?_) | (with_reducible refine Keeps.lit ?_; dsimp only; with_reducible first | exact Keeps.of hk | refine Keeps.of ?_) | split | intro _ | dsimp only

theorem keeps_execPredictorClear {o₀ s : State} (hk : Keeps o₀ s) (d : Nat) : KeepsR o₀ (execPredictorClear d s) := by
  unfold execPredictorClear; refine keepsR_next ?_
  repeat' first | with_reducible (first | assumption | apply keeps_modEnt | refine Keeps.foldl (fun _ _ _ => ?_) ?_) | (with_reducible refine Keeps.lit ?_; dsimp only; with_reducible first | exact Keeps.of hk | refine Keeps.of ?_) | intro _ | dsimp only

theorem keeps_showEntry {o₀ s : State} (hk : Keeps o₀ s) (d : Nat) (e : Nat) : Keeps o₀ (showEntry s d e) := by
  unfold showEntry
  repeat' first | with_reducible (first | assumption | apply keeps_setF) | dsimp only

theorem keeps_execStepEntrySelect {o₀ s : State} (hk : Keeps o₀ s) (d : Nat) (val : Nat) : KeepsR o₀ (execStepEntrySelect d val s) := by
  unfold execStepEntrySelect; refine keepsR_next ?_
  repeat' first | with_reducible (first | assumption | apply keeps_showEntry | apply keeps_setF | apply keeps_modEnt | refine Keeps.ite ?_ ?_) | (with_reducible refine Keeps.lit ?_; dsimp only; with_reducible first | exact Keeps.of hk | refine Keeps.of ?_) | split | intro _ | dsimp only

theorem keeps_writeSeq {o₀ s : State} (hk : Keeps o₀ s) (d : Nat) (off : Nat) (val : Nat) : Keeps o₀ (writeSeq s d off val) := by
  unfold writeSeq
  repeat' first | with_reducible (first | assumption | apply keeps_execPredictorClear | apply keeps_stateOf | apply keeps_writeWord | apply keeps_setF | apply keeps_execStepEntrySelect | refine Keeps.ite ?_ ?_) | split | dsimp only

theorem keeps_loseStore {o₀ s : State} (hk : Keeps o₀ s) (d : Nat) : Keeps o₀ (loseStore s d) := by
  unfold loseStore
  repeat' first | with_reducible (first | assumption) | ((with_reducible refine Keeps.lit ?_); dsimp only; (try with_reducible (first | refine KeepsF.store (fun hm => mwf_mset _ _ _ _ hm) ?_ | refine KeepsF.store (fun hm => mwf_filter _ _ _ hm) ?_ | apply KeepsF.store (fun _ => mwf_nil _))); with_reducible first | exact Keeps.of hk | refine Keeps.of ?_) | intro _ | dsimp only

theorem keeps_siteEvent {o₀ s : State} (hk : Keeps o₀ s) (d : Nat) (bit : Fld) (en : Fld) : Keeps o₀ (siteEvent s d bit en) := by
  unfold siteEvent
  repeat' first | with_reducible (first | assumption | apply keeps_sendMsix | apply keeps_setF | refine Keeps.ite ?_ ?_) | split | dsimp only

theorem keeps_writeSite {o₀ s : State} (hk : Keeps o₀ s) (d : Nat) (val : Nat) : Keeps o₀ (writeSite s d val) := by
  unfold writeSite
  repeat' first | with_reducible (first | assumption | apply keeps_siteEvent | apply keeps_writeWord | apply keeps_loseStore | apply keeps_setF | apply keeps_raiseErr | refine Keeps.ite ?_ ?_) | (with_reducible refine Keeps.lit ?_; dsimp only; with_reducible first | exact Keeps.of hk | refine Keeps.of ?_) | split | dsimp only

theorem keeps_endThread {o₀ s : State} (hk : Keeps o₀ s) (d : Nat) (t : Nat) : Keeps o₀ (endThread s d t) := by
  unfold endThread
  repeat' first | with_reducible (first | assumption | apply keeps_orphanKids | apply keeps_freeT) | dsimp only

theorem keeps_retryAll {o₀ s : State} (hk : Keeps o₀ s) (c : Nat) (i : Nat) : Keeps o₀ (retryAll s c i) := by
  unfold retryAll
  repeat' first | with_reducible (first | assumption | apply keeps_endThread | refine Keeps.of_pair ‹_ = (_, _)› ?_ | refine Keeps.ite ?_ ?_ | refine Keeps.foldl (fun _ _ _ => ?_) ?_) | (with_reducible refine Keeps.lit ?_; dsimp only; with_reducible first | exact Keeps.of hk | refine Keeps.of ?_) | split | intro _ | dsimp only

theorem keeps_takeover {o₀ s : State} (hk : Keeps o₀ s) (d : Nat) (ifx : Option Nat) (works : Bool) : Keeps o₀ (takeover s d ifx works) := by
  unfold takeover
  repeat' first | with_reducible (first | assumption | apply keeps_retryAll | apply keeps_setHome | refine Keeps.ite ?_ ?_ | refine Keeps.foldl (fun _ _ _ => ?_) ?_) | split | intro _ | dsimp only

theorem keeps_stopSync {o₀ s : State} (hk : Keeps o₀ s) (d : Nat) : Keeps o₀ (stopSync s d) := by
  unfold stopSync
  repeat' first | with_reducible (first | assumption | apply keeps_setF) | dsimp only

theorem keeps_channelDown {o₀ s : State} (hk : Keeps o₀ s) (d : Nat) : Keeps o₀ (channelDown s d) := by
  unfold channelDown
  repeat' first | with_reducible (first | assumption | apply keeps_bumpSat | apply keeps_raiseErr | apply keeps_setF | apply keeps_stopSync | refine Keeps.ite ?_ ?_ | refine Keeps.foldl (fun _ _ _ => ?_) ?_) | ((with_reducible refine Keeps.lit ?_); dsimp only; (try with_reducible (first | refine KeepsF.cache (fun hm => mwf_mset _ _ _ _ hm) ?_ | refine KeepsF.cache (fun hm => mwf_filter _ _ _ hm) ?_ | apply KeepsF.cache (fun _ => mwf_nil _))); with_reducible first | exact Keeps.of hk | refine Keeps.of ?_) | split | intro _ | dsimp only

theorem keeps_passChannels {o₀ s : State} (hk : Keeps o₀ s) (d : Nat) : Keeps o₀ (passChannels s d) := by
  unfold passChannels
  repeat' first | with_reducible (first | assumption | apply keeps_takeover | refine Keeps.ite ?_ ?_) | split | dsimp only

theorem keeps_writeStrCtl {o₀ s : State} (hk : Keeps o₀ s) (d : Nat) (val : Nat) : Keeps o₀ (writeStrCtl s d val) := by
  unfold writeStrCtl
  repeat' first | with_reducible (first | assumption | apply keeps_channelDown | apply keeps_passChannels | apply keeps_setF | apply keeps_writeWord | refine Keeps.ite ?_ ?_) | split | dsimp only

theorem keeps_writeStr {o₀ s : State} (hk : Keeps o₀ s) (d : Nat) (off : Nat) (val : Nat) : Keeps o₀ (writeStr s d off val) := by
  unfold writeStr
  repeat' first | with_reducible (first | assumption | apply keeps_writeWord | apply keeps_writeStrCtl | apply keeps_setF | refine Keeps.ite ?_ ?_) | split | dsimp only

theorem keeps_writeThrottle {o₀ s : State} (hk : Keeps o₀ s) (d : Nat) (val : Nat) : Keeps o₀ (writeThrottle s d val) := by
  unfold writeThrottle
  repeat' first | with_reducible (first | assumption | apply keeps_setF | refine Keeps.ite ?_ ?_) | split | dsimp only

theorem keeps_writeTimCtl {o₀ s : State} (hk : Keeps o₀ s) (val : Nat) : Keeps o₀ (writeTimCtl s val) := by
  unfold writeTimCtl
  repeat' first | with_reducible (first | assumption | apply keeps_loadTod | apply keeps_writeWord | refine Keeps.ite ?_ ?_) | split | dsimp only

theorem keeps_writeBlock {o₀ s : State} (hk : Keeps o₀ s) (acc : Nat) (d : Nat) (pg : Nat) (off : Nat) (val : Nat) : Keeps o₀ (writeBlock s acc d pg off val) := by
  unfold writeBlock
  repeat' first | with_reducible (first | assumption | apply keeps_writeSite | apply keeps_writeFlt | apply keeps_stateOf | apply keeps_writeWord | apply keeps_writeCel | apply keeps_writeSec | apply keeps_writeClkCtl | apply keeps_writePkg | apply keeps_writeDbg | apply keeps_writeArb | apply keeps_writeCch | apply keeps_writeEvd | apply keeps_writeSelIdx | apply keeps_writeCsc | apply keeps_writeHif | apply keeps_writeBsq | apply keeps_writePwr | apply keeps_writeTimCtl | apply keeps_writeSeq | apply keeps_writeThrottle | apply keeps_writeStr | apply keeps_execThreadRelease | apply keeps_writeLkp | refine Keeps.ite ?_ ?_) | split | dsimp only

theorem keeps_inject {o₀ s : State} (hk : Keeps o₀ s) (d : Nat) (pg : Nat) (bit : Nat) : Keeps o₀ (inject s d pg bit) := by
  unfold inject
  repeat' first | with_reducible (first | assumption | apply keeps_raiseErr | refine Keeps.ite ?_ ?_) | split | dsimp only

theorem keeps_writePageCtl {o₀ s : State} (hk : Keeps o₀ s) (d : Nat) (pg : Nat) (val : Nat) : Keeps o₀ (writePageCtl s d pg val) := by
  unfold writePageCtl
  repeat' first | with_reducible (first | assumption | apply keeps_inject | apply keeps_setF | refine Keeps.ite ?_ ?_) | split | dsimp only

theorem keeps_writeSev {o₀ s : State} (hk : Keeps o₀ s) (d : Nat) (pg : Nat) (val : Nat) : Keeps o₀ (writeSev s d pg val) := by
  unfold writeSev
  repeat' first | with_reducible (first | assumption | apply keeps_setF | refine Keeps.ite ?_ ?_ | refine Keeps.foldl (fun _ _ _ => ?_) ?_) | split | intro _ | dsimp only

theorem keeps_writeHeader {o₀ s : State} (hk : Keeps o₀ s) (d : Nat) (pg : Nat) (off : Nat) (val : Nat) : Keeps o₀ (writeHeader s d pg off val) := by
  unfold writeHeader
  repeat' first | with_reducible (first | assumption | apply keeps_writePageCtl | apply keeps_writeSev | apply keeps_endHandling | apply keeps_setF | apply keeps_writeDomain | refine Keeps.ite ?_ ?_) | split | dsimp only

theorem keeps_writeReg {o₀ s : State} (hk : Keeps o₀ s) (acc : Nat) (d : Nat) (pg : Nat) (off : Nat) (val : Nat) : Keeps o₀ (writeReg s acc d pg off val) := by
  unfold writeReg
  repeat' first | with_reducible (first | assumption | apply keeps_writeBlock | apply keeps_writeHeader | refine Keeps.ite ?_ ?_) | split | dsimp only

theorem keeps_writeSliceWin {o₀ s : State} (hk : Keeps o₀ s) (d : Nat) (off : Nat) (size : Nat) (val : Nat) : Keeps o₀ (writeSliceWin s d off size val) := by
  unfold writeSliceWin
  repeat' first | with_reducible (first | assumption | apply keeps_setT | apply keeps_raiseErr | refine Keeps.ite ?_ ?_) | (with_reducible refine Keeps.lit ?_; dsimp only; with_reducible first | exact Keeps.of hk | refine Keeps.of ?_) | split | dsimp only

theorem keeps_writeSr {o₀ s : State} (hk : Keeps o₀ s) (d : Nat) (off : Nat) (val : Nat) : Keeps o₀ (writeSr s d off val) := by
  unfold writeSr
  repeat' first | with_reducible (first | assumption | apply keeps_swrReject | apply keeps_writeWord | refine Keeps.ite ?_ ?_ | refine Keeps.foldl (fun _ _ _ => ?_) ?_) | split | intro _ | dsimp only

theorem keeps_writeOpen {o₀ s : State} (hk : Keeps o₀ s) (acc : Nat) (x : Site) (bar : Nat) (size : Nat) (val : Nat) : Keeps o₀ (writeOpen s acc x bar size val) := by
  unfold writeOpen
  repeat' first | with_reducible (first | assumption | apply keeps_both | apply keeps_raiseErr | apply keeps_schedule | apply keeps_slotWrite | apply keeps_swrReject | apply keeps_writeMsix | apply keeps_writeReg | apply keeps_writeSliceWin | apply keeps_writeSr | refine Keeps.of_pair ‹_ = (_, _)› ?_ | refine Keeps.ite ?_ ?_) | split | intro _ | dsimp only

theorem keeps_writeAt {o₀ s : State} (hk : Keeps o₀ s) (acc : Nat) (x : Site) (bar : Nat) (size : Nat) (val : Nat) : Keeps o₀ (writeAt s acc x bar size val).1 := by
  unfold writeAt
  repeat' first | with_reducible (first | assumption | apply keeps_writeOpen | apply keeps_badAccess | apply keeps_wakeFor | refine Keeps.ite ?_ ?_) | split | dsimp only

theorem keeps_busWrite {o₀ s : State} (hk : Keeps o₀ s) (acc : Nat) (bar : Nat) (size : Nat) (val : Nat) : Keeps o₀ (busWrite s acc bar size val).1 := by
  unfold busWrite
  repeat' first | with_reducible (first | assumption | apply keeps_writeAt) | dsimp only

theorem keeps_memPut {o₀ s : State} (hk : Keeps o₀ s) (d : Nat) (line : Nat) (b : Bucket) (crc : Bool) : Keeps o₀ (memPut s d line b crc) := by
  unfold memPut
  repeat' first | with_reducible (first | assumption | apply keeps_freeVal | apply keeps_memWrite | apply keeps_raiseErr | refine Keeps.of_pair ‹_ = (_, _)› ?_ | refine Keeps.of_snd ‹_ = (_, _)› ?_ | refine Keeps.ite ?_ ?_) | split | dsimp only

theorem keeps_drainEntry {o₀ s : State} (hk : Keeps o₀ s) (e : MEntry) (crc : Bool) : Keeps o₀ (drainEntry s e crc) := by
  unfold drainEntry
  repeat' first | with_reducible (first | assumption | apply keeps_memPut | apply keeps_raiseErr | refine Keeps.ite ?_ ?_) | (with_reducible refine Keeps.lit ?_; dsimp only; with_reducible first | exact Keeps.of hk | refine Keeps.of ?_) | split | intro _ | dsimp only

theorem keeps_startDrain {o₀ s : State} (hk : Keeps o₀ s) (e : MEntry) : Keeps o₀ (startDrain s e) := by
  unfold startDrain
  repeat' first | with_reducible (first | assumption) | (with_reducible refine Keeps.lit ?_; dsimp only; with_reducible first | exact Keeps.of hk | refine Keeps.of ?_) | intro _ | dsimp only

theorem keeps_drainLine {o₀ s : State} (hk : Keeps o₀ s) (d : Nat) (line : Nat) : Keeps o₀ (drainLine s d line) := by
  unfold drainLine
  repeat' first | with_reducible (first | assumption | apply keeps_drainEntry | apply keeps_startDrain | refine Keeps.foldl (fun _ _ _ => ?_) ?_) | intro _ | dsimp only

theorem keeps_drainLines {o₀ s : State} (hk : Keeps o₀ s) (ds : List Nat) (lines : List Nat) : Keeps o₀ (drainLines s ds lines) := by
  unfold drainLines
  repeat' first | with_reducible (first | assumption | apply keeps_drainLine | refine Keeps.foldl (fun _ _ _ => ?_) ?_) | intro _ | dsimp only

theorem keeps_invAny {o₀ s : State} (hk : Keeps o₀ s) (d : Nat) (line : Nat) : Keeps o₀ (invAny s d line) := by
  unfold invAny
  repeat' first | with_reducible (first | assumption | apply keeps_invLine | apply keeps_noInstall | refine Keeps.of_pair ‹_ = (_, _)› ?_) | split | intro _ | dsimp only

theorem keeps_putBucket {o₀ s : State} (hk : Keeps o₀ s) (d : Nat) (ds : List Nat) (lines : List Nat) (line : Nat) (b : BitVec 1024) (crc : Bool) : Keeps o₀ (putBucket s d ds lines line b crc) := by
  unfold putBucket
  repeat' first | with_reducible (first | assumption | apply keeps_invAny | apply keeps_memPut | refine Keeps.foldl (fun _ _ _ => ?_) ?_) | intro _ | dsimp only

theorem keeps_rewritten {o₀ s : State} (hk : Keeps o₀ s) (d : Nat) (line : Nat) (slots : Nat) : Keeps o₀ (rewritten s d line slots) := by
  unfold rewritten
  repeat' first | with_reducible (first | assumption) | (with_reducible refine Keeps.lit ?_; dsimp only; with_reducible first | exact Keeps.of hk | refine Keeps.of ?_) | intro _ | dsimp only

theorem keeps_takeBucket {o₀ s : State} (hk : Keeps o₀ s) (d : Nat) (line : Nat) (reg : Nat) (b : Bucket) (crc : Bool) : Keeps o₀ (takeBucket s d line reg b crc).1 := by
  unfold takeBucket
  repeat' first | with_reducible (first | assumption | apply keeps_invAny | apply keeps_memPut | apply keeps_rewritten | apply keeps_unreadable | refine Keeps.ite ?_ ?_) | (with_reducible refine Keeps.lit ?_; dsimp only; with_reducible first | exact Keeps.of hk | refine Keeps.of ?_) | split | dsimp only

theorem keeps_clearPromoted {o₀ s : State} (hk : Keeps o₀ s) (d : Nat) (sr : Nat) (key : Nat) (width : Nat) : Keeps o₀ (clearPromoted s d sr key width) := by
  unfold clearPromoted
  repeat' first | with_reducible (first | assumption | apply keeps_drainLines | apply keeps_putBucket | apply keeps_takeBucket | refine Keeps.of_pair ‹_ = (_, _)› ?_ | refine Keeps.ite ?_ ?_ | refine Keeps.foldl (fun _ _ _ => ?_) ?_) | split | intro _ | dsimp only

theorem keeps_writeOver {o₀ s : State} (hk : Keeps o₀ s) (st : Nat) : Keeps o₀ (writeOver s st) := by
  unfold writeOver
  repeat' first | with_reducible (first | assumption | apply keeps_advanceFetches | apply keeps_setF) | (with_reducible refine Keeps.lit ?_; dsimp only; with_reducible first | exact Keeps.of hk | refine Keeps.of ?_) | dsimp only

theorem keeps_cellarWrite {o₀ s : State} (hk : Keeps o₀ s) (r : Nat) (i : Nat) (key : Nat) (new_ : BitVec 1024) (old : BitVec 1024) : Keeps o₀ (cellarWrite s r i key new_ old) := by
  unfold cellarWrite
  repeat' first | with_reducible (first | assumption | apply keeps_clearPromoted | apply keeps_emitOut | apply keeps_setAll | apply keeps_writeOver | refine Keeps.of_pair ‹_ = (_, _)› ?_ | refine Keeps.foldl (fun _ _ _ => ?_) ?_) | intro _ | dsimp only

theorem keeps_putArbLoad {o₀ s : State} (hk : Keeps o₀ s) (r : Option ArbRej) : Keeps o₀ (putArbLoad s r) := by
  unfold putArbLoad
  repeat' first | with_reducible (first | assumption | apply keeps_setF | apply keeps_raiseErr | refine Keeps.ite ?_ ?_ | refine Keeps.foldl (fun _ _ _ => ?_) ?_) | split | intro _ | dsimp only

theorem keeps_putAtcLoad {o₀ s : State} (hk : Keeps o₀ s) (r : Option AtcRej) : Keeps o₀ (putAtcLoad s r) := by
  unfold putAtcLoad
  repeat' first | with_reducible (first | assumption | apply keeps_setF | refine Keeps.foldl (fun _ _ _ => ?_) ?_) | intro _ | dsimp only

theorem keeps_putEntry {o₀ s : State} (hk : Keeps o₀ s) (e : ImageEntry) : Keeps o₀ (putEntry s e) := by
  unfold putEntry
  repeat' first | with_reducible (first | assumption | apply keeps_setF | refine Keeps.ite ?_ ?_ | refine Keeps.foldl (fun _ _ _ => ?_) ?_) | (with_reducible refine Keeps.lit ?_; dsimp only; with_reducible first | exact Keeps.of hk | refine Keeps.of ?_) | split | intro _ | dsimp only

theorem keeps_putSteps {o₀ s : State} (hk : Keeps o₀ s) (as : List Nat) : Keeps o₀ (putSteps s as) := by
  unfold putSteps
  repeat' first | with_reducible (first | assumption | refine Keeps.foldl (fun _ _ _ => ?_) ?_) | (with_reducible refine Keeps.lit ?_; dsimp only; with_reducible first | exact Keeps.of hk | refine Keeps.of ?_) | intro _ | dsimp only

theorem keeps_putRecipe {o₀ s : State} (hk : Keeps o₀ s) (q : Nat × Nat) : Keeps o₀ (putRecipe s q) := by
  unfold putRecipe
  repeat' first | with_reducible (first | assumption | refine Keeps.foldl (fun _ _ _ => ?_) ?_) | ((with_reducible refine Keeps.lit ?_); dsimp only; (try with_reducible (first | refine KeepsF.rows (fun hm => mwf_mset _ _ _ _ hm) ?_ | refine KeepsF.rows (fun hm => mwf_filter _ _ _ hm) ?_ | apply KeepsF.rows (fun _ => mwf_nil _))); (try with_reducible (first | refine KeepsF.store (fun hm => mwf_mset _ _ _ _ hm) ?_ | refine KeepsF.store (fun hm => mwf_filter _ _ _ hm) ?_ | apply KeepsF.store (fun _ => mwf_nil _))); (try with_reducible (first | refine KeepsF.recipe (fun hm => mwf_mset _ _ _ _ hm) ?_ | refine KeepsF.recipe (fun hm => mwf_filter _ _ _ hm) ?_ | apply KeepsF.recipe (fun _ => mwf_nil _) | refine KeepsF.foldlRecipe (fun _ _ hm => mwf_mset _ _ _ _ hm) _ ?_)); (try with_reducible (first | refine KeepsF.cache (fun hm => mwf_mset _ _ _ _ hm) ?_ | refine KeepsF.cache (fun hm => mwf_filter _ _ _ hm) ?_ | apply KeepsF.cache (fun _ => mwf_nil _))); (try with_reducible (first | refine KeepsF.threads (fun hm => mwf_mset _ _ _ _ hm) ?_ | refine KeepsF.threads (fun hm => mwf_filter _ _ _ hm) ?_ | apply KeepsF.threads (fun _ => mwf_nil _) | refine KeepsF.foldlThreads (fun _ _ hm => mwf_mmod _ _ _ _ hm) _ ?_)); with_reducible first | exact Keeps.of hk | refine Keeps.of ?_) | intro _ | dsimp only

theorem keeps_putWord {o₀ s : State} (hk : Keeps o₀ s) (w : ImageWord) : Keeps o₀ (putWord s w) := by
  unfold putWord
  repeat' first | with_reducible (first | assumption | apply keeps_setF | refine Keeps.ite ?_ ?_ | refine Keeps.foldl (fun _ _ _ => ?_) ?_) | split | intro _ | dsimp only

theorem keeps_takeTable {o₀ s : State} (hk : Keeps o₀ s) (src : Nat) (d : Nat) (inst : Nat) : Keeps o₀ (takeTable s src d inst) := by
  unfold takeTable
  repeat' first | with_reducible (first | assumption | apply keeps_setF | refine Keeps.foldl (fun _ _ _ => ?_) ?_) | (with_reducible refine Keeps.lit ?_; dsimp only; with_reducible first | exact Keeps.of hk | refine Keeps.of ?_) | intro _ | dsimp only

theorem keeps_dropRegs {o₀ s : State} (hk : Keeps o₀ s) (pg : Nat) (lo : Nat) (hi : Nat) : Keeps o₀ (dropRegs s pg lo hi) := by
  unfold dropRegs
  repeat' first | with_reducible (first | assumption) | (with_reducible refine Keeps.lit ?_; dsimp only; with_reducible first | exact Keeps.of hk | refine Keeps.of ?_) | intro _ | dsimp only

theorem keeps_unloadImage {o₀ s : State} (hk : Keeps o₀ s) : Keeps o₀ (unloadImage s) := by
  unfold unloadImage
  repeat' first | with_reducible (first | assumption | apply keeps_setF | apply keeps_dropRegs | refine Keeps.foldl (fun _ _ _ => ?_) ?_) | ((with_reducible refine Keeps.lit ?_); dsimp only; (try with_reducible (first | refine KeepsF.rows (fun hm => mwf_mset _ _ _ _ hm) ?_ | refine KeepsF.rows (fun hm => mwf_filter _ _ _ hm) ?_ | apply KeepsF.rows (fun _ => mwf_nil _))); (try with_reducible (first | refine KeepsF.store (fun hm => mwf_mset _ _ _ _ hm) ?_ | refine KeepsF.store (fun hm => mwf_filter _ _ _ hm) ?_ | apply KeepsF.store (fun _ => mwf_nil _))); (try with_reducible (first | refine KeepsF.recipe (fun hm => mwf_mset _ _ _ _ hm) ?_ | refine KeepsF.recipe (fun hm => mwf_filter _ _ _ hm) ?_ | apply KeepsF.recipe (fun _ => mwf_nil _) | refine KeepsF.foldlRecipe (fun _ _ hm => mwf_mset _ _ _ _ hm) _ ?_)); (try with_reducible (first | refine KeepsF.cache (fun hm => mwf_mset _ _ _ _ hm) ?_ | refine KeepsF.cache (fun hm => mwf_filter _ _ _ hm) ?_ | apply KeepsF.cache (fun _ => mwf_nil _))); (try with_reducible (first | refine KeepsF.threads (fun hm => mwf_mset _ _ _ _ hm) ?_ | refine KeepsF.threads (fun hm => mwf_filter _ _ _ hm) ?_ | apply KeepsF.threads (fun _ => mwf_nil _) | refine KeepsF.foldlThreads (fun _ _ hm => mwf_mmod _ _ _ _ hm) _ ?_)); with_reducible first | exact Keeps.of hk | refine Keeps.of ?_) | intro _ | dsimp only

theorem keeps_putTables {o₀ s : State} (hk : Keeps o₀ s) (c : Contents) : Keeps o₀ (putTables s c) := by
  unfold putTables
  repeat' first | with_reducible (first | assumption | apply keeps_putRecipe | apply keeps_takeTable | apply keeps_setF | apply keeps_putWord | apply keeps_unloadImage | refine Keeps.foldl (fun _ _ _ => ?_) ?_) | intro _ | dsimp only

theorem keeps_putImage {o₀ s : State} (hk : Keeps o₀ s) (c : Contents) : Keeps o₀ (putImage s c) := by
  unfold putImage
  repeat' first | with_reducible (first | assumption | apply keeps_putSteps | apply keeps_putTables | apply keeps_putEntry | refine Keeps.foldl (fun _ _ _ => ?_) ?_) | dsimp only

theorem keeps_putSeqLoad {o₀ s : State} (hk : Keeps o₀ s) (r : Option (Nat × Nat × Nat)) : Keeps o₀ (putSeqLoad s r) := by
  unfold putSeqLoad
  repeat' first | with_reducible (first | assumption | apply keeps_setF | apply keeps_raiseErr | refine Keeps.ite ?_ ?_ | refine Keeps.foldl (fun _ _ _ => ?_) ?_) | split | intro _ | dsimp only

theorem keeps_checkContents {o₀ s : State} (hk : Keeps o₀ s) (c : Contents) : Keeps o₀ (checkContents s c).2 := by
  unfold checkContents
  repeat' first | with_reducible (first | assumption | apply keeps_putArbLoad | apply keeps_putAtcLoad | apply keeps_putImage | apply keeps_putSeqLoad | apply keeps_putTables | apply keeps_raiseErr | refine Keeps.ite ?_ ?_ | refine Keeps.foldl (fun _ _ _ => ?_) ?_) | split | intro _ | dsimp only

theorem keeps_chooseVictim {o₀ s : State} (hk : Keeps o₀ s) (d : Nat) (set : Nat) : Keeps o₀ (chooseVictim s d set).1 := by
  unfold chooseVictim
  repeat' first | with_reducible (first | assumption | apply keeps_setF | refine Keeps.ite ?_ ?_) | split | intro _ | dsimp only

theorem keeps_resetAge {o₀ s : State} (hk : Keeps o₀ s) (d : Nat) (inst : Nat) (o : Nat) : Keeps o₀ (resetAge s d inst o) := by
  unfold resetAge
  repeat' first | with_reducible (first | assumption) | (with_reducible refine Keeps.lit ?_; dsimp only; with_reducible first | exact Keeps.of hk | refine Keeps.of ?_) | dsimp only

theorem keeps_clearAge {o₀ s : State} (hk : Keeps o₀ s) (d : Nat) (inst : Nat) (o : Nat) : Keeps o₀ (clearAge s d inst o) := by
  unfold clearAge
  repeat' first | with_reducible (first | assumption | apply keeps_resetAge) | (with_reducible refine Keeps.lit ?_; dsimp only; with_reducible first | exact Keeps.of hk | refine Keeps.of ?_) | dsimp only

theorem keeps_clearArrays {o₀ s : State} (hk : Keeps o₀ s) (d : Nat) : Keeps o₀ (clearArrays s d) := by
  unfold clearArrays
  repeat' first | with_reducible (first | assumption | refine Keeps.foldl (fun _ _ _ => ?_) ?_) | ((with_reducible refine Keeps.lit ?_); dsimp only; (try with_reducible (first | refine KeepsF.rows (fun hm => mwf_mset _ _ _ _ hm) ?_ | refine KeepsF.rows (fun hm => mwf_filter _ _ _ hm) ?_ | apply KeepsF.rows (fun _ => mwf_nil _))); (try with_reducible (first | refine KeepsF.store (fun hm => mwf_mset _ _ _ _ hm) ?_ | refine KeepsF.store (fun hm => mwf_filter _ _ _ hm) ?_ | apply KeepsF.store (fun _ => mwf_nil _))); (try with_reducible (first | refine KeepsF.recipe (fun hm => mwf_mset _ _ _ _ hm) ?_ | refine KeepsF.recipe (fun hm => mwf_filter _ _ _ hm) ?_ | apply KeepsF.recipe (fun _ => mwf_nil _) | refine KeepsF.foldlRecipe (fun _ _ hm => mwf_mset _ _ _ _ hm) _ ?_)); (try with_reducible (first | refine KeepsF.cache (fun hm => mwf_mset _ _ _ _ hm) ?_ | refine KeepsF.cache (fun hm => mwf_filter _ _ _ hm) ?_ | apply KeepsF.cache (fun _ => mwf_nil _))); (try with_reducible (first | refine KeepsF.threads (fun hm => mwf_mset _ _ _ _ hm) ?_ | refine KeepsF.threads (fun hm => mwf_filter _ _ _ hm) ?_ | apply KeepsF.threads (fun _ => mwf_nil _) | refine KeepsF.foldlThreads (fun _ _ hm => mwf_mmod _ _ _ _ hm) _ ?_)); with_reducible first | exact Keeps.of hk | refine Keeps.of ?_) | intro _ | dsimp only

theorem keeps_closeLink {o₀ s : State} (hk : Keeps o₀ s) (d : Nat) (t : Nat) : Keeps o₀ (closeLink s d t) := by
  unfold closeLink
  repeat' first | with_reducible (first | assumption) | (with_reducible refine Keeps.lit ?_; dsimp only; with_reducible first | exact Keeps.of hk | refine Keeps.of ?_) | intro _ | dsimp only

theorem keeps_copyBank {o₀ s : State} (hk : Keeps o₀ s) (src : Nat) (dst : Nat) (pg : Nat) (bank : Nat) : Keeps o₀ (copyBank s src dst pg bank) := by
  unfold copyBank
  repeat' first | with_reducible (first | assumption | refine Keeps.foldl (fun _ _ _ => ?_) ?_) | (with_reducible refine Keeps.lit ?_; dsimp only; with_reducible first | exact Keeps.of hk | refine Keeps.of ?_) | intro _ | dsimp only

theorem keeps_copyRows {o₀ s : State} (hk : Keeps o₀ s) (src : Nat) (dst : Nat) (a : Nat) (b : Nat) : Keeps o₀ (copyRows s src dst a b) := by
  unfold copyRows
  repeat' first | with_reducible (first | assumption | apply keeps_setRow | refine Keeps.of_pair ‹_ = (_, _)› ?_ | refine Keeps.foldl (fun _ _ _ => ?_) ?_) | ((with_reducible refine Keeps.lit ?_); dsimp only; (try with_reducible (first | refine KeepsF.rows (fun hm => mwf_mset _ _ _ _ hm) ?_ | refine KeepsF.rows (fun hm => mwf_filter _ _ _ hm) ?_ | apply KeepsF.rows (fun _ => mwf_nil _))); with_reducible first | exact Keeps.of hk | refine Keeps.of ?_) | split | intro _ | dsimp only

theorem keeps_countCpl {o₀ s : State} (hk : Keeps o₀ s) (c : UCmd) : Keeps o₀ (countCpl s c) := by
  unfold countCpl
  repeat' first | with_reducible (first | assumption | apply keeps_bump | apply keeps_bumpSat | apply keeps_setF | apply keeps_raiseErr | refine Keeps.ite ?_ ?_) | split | dsimp only

theorem keeps_lkpErr {o₀ s : State} (hk : Keeps o₀ s) (i : Nat) (bit : Nat) (chan : Nat) (last : Nat) : Keeps o₀ (lkpErr s i bit chan last) := by
  unfold lkpErr
  repeat' first | with_reducible (first | assumption | apply keeps_raiseErr) | dsimp only

theorem keeps_countFmt {o₀ s : State} (hk : Keeps o₀ s) (i : Nat) (chan : Nat) (last : Nat) : Keeps o₀ (countFmt s i chan last) := by
  unfold countFmt
  repeat' first | with_reducible (first | assumption | apply keeps_bumpSat | apply keeps_setF | apply keeps_lkpErr | refine Keeps.ite ?_ ?_) | split | dsimp only

theorem keeps_countGrant {o₀ s : State} (hk : Keeps o₀ s) (d : Nat) (inst : Nat) (o : Nat) : Keeps o₀ (countGrant s d inst o) := by
  unfold countGrant
  repeat' first | with_reducible (first | assumption) | (with_reducible refine Keeps.lit ?_; dsimp only; with_reducible first | exact Keeps.of hk | refine Keeps.of ?_) | intro _ | dsimp only

theorem keeps_countInstr {o₀ s : State} (hk : Keeps o₀ s) (d : Nat) : Keeps o₀ (countInstr s d) := by
  unfold countInstr
  repeat' first | with_reducible (first | assumption | apply keeps_setF) | dsimp only

theorem keeps_countLaunch {o₀ s : State} (hk : Keeps o₀ s) (x : Search) (d : Nat) : Keeps o₀ (countLaunch s x d) := by
  unfold countLaunch
  repeat' first | with_reducible (first | assumption | apply keeps_setF) | (with_reducible refine Keeps.lit ?_; dsimp only; with_reducible first | exact Keeps.of hk | refine Keeps.of ?_) | intro _ | dsimp only

theorem keeps_cpOn {o₀ s : State} (hk : Keeps o₀ s) (low : Nat) : Keeps o₀ (cpOn s low) := by
  unfold cpOn
  repeat' first | with_reducible (first | assumption | apply keeps_discont | apply keeps_setF | apply keeps_raiseErr | refine Keeps.ite ?_ ?_) | (with_reducible refine Keeps.lit ?_; dsimp only; with_reducible first | exact Keeps.of hk | refine Keeps.of ?_) | split | dsimp only

theorem keeps_queuePromo {o₀ s : State} (hk : Keeps o₀ s) (f : CFetch) (x : Rec) : Keeps o₀ (queuePromo s f x) := by
  unfold queuePromo
  repeat' first | with_reducible (first | assumption | refine Keeps.ite ?_ ?_) | (with_reducible refine Keeps.lit ?_; dsimp only; with_reducible first | exact Keeps.of hk | refine Keeps.of ?_) | split | dsimp only

theorem keeps_takeCellar {o₀ s : State} (hk : Keeps o₀ s) (f : CFetch) (i : Nat) (b : BitVec 1024) (tag : Nat) : Keeps o₀ (takeCellar s f i b tag).1 := by
  unfold takeCellar
  repeat' first | with_reducible (first | assumption | apply keeps_authFail | refine Keeps.ite ?_ ?_) | split | dsimp only

theorem keeps_fetchData {o₀ s : State} (hk : Keeps o₀ s) (f : CFetch) (v : BitVec 2304) : Keeps o₀ (fetchData s f v).1 := by
  unfold fetchData
  repeat' first | with_reducible (first | assumption | apply keeps_queuePromo | apply keeps_takeCellar | apply keeps_deliverRec | refine Keeps.ite ?_ ?_) | (with_reducible refine Keeps.lit ?_; dsimp only; with_reducible first | exact Keeps.of hk | refine Keeps.of ?_) | split | intro _ | dsimp only

theorem keeps_dataArrive {o₀ s : State} (hk : Keeps o₀ s) (f : CFetch) (v : BitVec 2304) : Keeps o₀ (dataArrive s f v) := by
  unfold dataArrive
  repeat' first | with_reducible (first | assumption | apply keeps_fireAlarm | apply keeps_fetchData | refine Keeps.ite ?_ ?_) | split | dsimp only

theorem keeps_deliverCpl {o₀ s : State} (hk : Keeps o₀ s) (id : Nat) (src : Nat) (from_ : Nat) (o : Origin) (st : Nat) (op : Nat) (tag : Nat) (gra : Nat) (moved : Nat) (cause : Nat) (aux : Nat) : Keeps o₀ (deliverCpl s id src from_ o st op tag gra moved cause aux) := by
  unfold deliverCpl
  repeat' first | with_reducible (first | assumption | apply keeps_bump | apply keeps_finish | apply keeps_modReq | apply keeps_setT | refine Keeps.ite ?_ ?_) | (with_reducible refine Keeps.lit ?_; dsimp only; with_reducible first | exact Keeps.of hk | refine Keeps.of ?_) | split | intro _ | dsimp only

theorem keeps_deliverAll {o₀ s : State} (hk : Keeps o₀ s) (c : UCmd) : Keeps o₀ (deliverAll s c) := by
  unfold deliverAll
  repeat' first | with_reducible (first | assumption | apply keeps_deliverCpl | refine Keeps.ite ?_ ?_ | refine Keeps.foldl (fun _ _ _ => ?_) ?_) | split | intro _ | dsimp only

theorem keeps_detectorNotice {o₀ s : State} (hk : Keeps o₀ s) (d : Nat) (cause : Nat) (n : Nat) : Keeps o₀ (detectorNotice s d cause n) := by
  unfold detectorNotice
  repeat' first | with_reducible (first | assumption | apply keeps_postNotice) | dsimp only

theorem keeps_discardNotices {o₀ s : State} (hk : Keeps o₀ s) : Keeps o₀ (discardNotices s) := by
  unfold discardNotices
  repeat' first | with_reducible (first | assumption | apply keeps_finish | refine Keeps.ite ?_ ?_ | refine Keeps.foldl (fun _ _ _ => ?_) ?_) | (with_reducible refine Keeps.lit ?_; dsimp only; with_reducible first | exact Keeps.of hk | refine Keeps.of ?_) | split | intro _ | dsimp only

theorem keeps_releaseAfter {o₀ s : State} (hk : Keeps o₀ s) (id : Nat) : Keeps o₀ (releaseAfter s id) := by
  unfold releaseAfter
  repeat' first | with_reducible (first | assumption | apply keeps_tryPlan | refine Keeps.foldl (fun _ _ _ => ?_) ?_) | (with_reducible refine Keeps.lit ?_; dsimp only; with_reducible first | exact Keeps.of hk | refine Keeps.of ?_) | intro _ | dsimp only

theorem keeps_dropHostCmds {o₀ s : State} (hk : Keeps o₀ s) : Keeps o₀ (dropHostCmds s) := by
  unfold dropHostCmds
  repeat' first | with_reducible (first | assumption | apply keeps_releaseAfter | refine Keeps.of_pair ‹_ = (_, _)› ?_ | refine Keeps.foldl (fun _ _ _ => ?_) ?_) | (with_reducible refine Keeps.lit ?_; dsimp only; with_reducible first | exact Keeps.of hk | refine Keeps.of ?_) | split | intro _ | dsimp only

theorem keeps_noticeOver {o₀ s : State} (hk : Keeps o₀ s) (n : Notice) : Keeps o₀ (noticeOver s n) := by
  unfold noticeOver
  repeat' first | with_reducible (first | assumption | apply keeps_finish | refine Keeps.ite ?_ ?_) | (with_reducible refine Keeps.lit ?_; dsimp only; with_reducible first | exact Keeps.of hk | refine Keeps.of ?_) | split | intro _ | dsimp only

theorem keeps_dropNotice {o₀ s : State} (hk : Keeps o₀ s) (n : Notice) : Keeps o₀ (dropNotice s n) := by
  unfold dropNotice
  repeat' first | with_reducible (first | assumption | apply keeps_bumpSat | apply keeps_noticeOver | apply keeps_raiseErr) | dsimp only

theorem keeps_dropSpeculative {o₀ s : State} (hk : Keeps o₀ s) (d : Nat) (t : Nat) : Keeps o₀ (dropSpeculative s d t) := by
  unfold dropSpeculative
  repeat' first | with_reducible (first | assumption) | (with_reducible refine Keeps.lit ?_; dsimp only; with_reducible first | exact Keeps.of hk | refine Keeps.of ?_) | intro _ | dsimp only

theorem keeps_dropWays {o₀ s : State} (hk : Keeps o₀ s) (d : Nat) : Keeps o₀ (dropWays s d) := by
  unfold dropWays
  repeat' first | with_reducible (first | assumption | apply keeps_setF | apply keeps_raiseErr | refine Keeps.ite ?_ ?_ | refine Keeps.foldl (fun _ _ _ => ?_) ?_) | split | intro _ | dsimp only

theorem keeps_repairBank {o₀ s : State} (hk : Keeps o₀ s) (d : Nat) (b : Nat) : Keeps o₀ (repairBank s d b) := by
  unfold repairBank
  repeat' first | with_reducible (first | assumption | apply keeps_setF | apply keeps_raiseErr) | split | intro _ | dsimp only

theorem keeps_endBsq {o₀ s : State} (hk : Keeps o₀ s) (d : Nat) (ms : Nat) : Keeps o₀ (endBsq s d ms) := by
  unfold endBsq
  repeat' first | with_reducible (first | assumption | apply keeps_repairBank | apply keeps_setF | apply keeps_clearArrays | apply keeps_raiseErr | apply keeps_dropWays | refine Keeps.ite ?_ ?_ | refine Keeps.foldl (fun _ _ _ => ?_) ?_) | split | intro _ | dsimp only

theorem keeps_endFetch {o₀ s : State} (hk : Keeps o₀ s) (q : Nat) (release : Bool) : Keeps o₀ (endFetch s q release) := by
  unfold endFetch
  repeat' first | with_reducible (first | assumption | refine Keeps.ite ?_ ?_) | (with_reducible refine Keeps.lit ?_; dsimp only; with_reducible first | exact Keeps.of hk | refine Keeps.of ?_) | split | intro _ | dsimp only

theorem keeps_endGolden {o₀ s : State} (hk : Keeps o₀ s) (result : Nat) : Keeps o₀ (endGolden s result) := by
  unfold endGolden
  repeat' first | with_reducible (first | assumption | apply keeps_setF) | (with_reducible refine Keeps.lit ?_; dsimp only; with_reducible first | exact Keeps.of hk | refine Keeps.of ?_) | dsimp only

theorem keeps_endLoad {o₀ s : State} (hk : Keeps o₀ s) (failed : Bool) : Keeps o₀ (endLoad s failed) := by
  unfold endLoad
  repeat' first | with_reducible (first | assumption | apply keeps_setF | refine Keeps.ite ?_ ?_) | (with_reducible refine Keeps.lit ?_; dsimp only; with_reducible first | exact Keeps.of hk | refine Keeps.of ?_) | split | dsimp only

theorem keeps_refuse {o₀ s : State} (hk : Keeps o₀ s) (id : Nat) (st : Nat) : Keeps o₀ (refuse s id st) := by
  unfold refuse
  repeat' first | with_reducible (first | assumption | apply keeps_modReq) | (with_reducible refine Keeps.lit ?_; dsimp only; with_reducible first | exact Keeps.of hk | refine Keeps.of ?_) | intro _ | dsimp only

/-- The state of an admission keeps it. -/
def KeepsA (o : State) : Admit → Prop
  | .refused _ t => Keeps o t
  | .admitted t => Keeps o t

theorem keeps_admit {o₀ s : State} (hk : Keeps o₀ s) (r : Req) : KeepsA o₀ (admitReq s r) := by
  unfold admitReq
  extract_lets d c e g guar r5 two n start tagged b0
  have h5 : ∀ u, Keeps o₀ u → KeepsA o₀ (r5 u) := fun u hu => keeps_bump hu ..
  split
  · exact keeps_rerr hk ..
  split
  · exact keeps_rerr hk ..
  split
  · split
    · exact h5 _ hk
    split
    · exact h5 _ (keeps_bumpSat hk ..)
    · next s' hs =>
      have h' : Keeps o₀ s' := by
        split at hs
        · exact keeps_bookPlan hk _ _ _ _ _ _ hs
        · injection hs with hs; subst hs; exact hk
      have h1 : Keeps o₀ (if tagged then { s' with egress := s'.egress ++ [(r.iface, start, n)] } else s') := Keeps.ite (Keeps.rest h' rfl rfl rfl rfl rfl rfl rfl rfl rfl rfl) h'
      exact keeps_modReq (keeps_setT h1 ..) ..
  · exact h5 _ hk

theorem keeps_execAdmission {o₀ s : State} (hk : Keeps o₀ s) (id : Nat) : KeepsR o₀ (execAdmission id s) := by
  unfold execAdmission
  refine keepsR_next ?_
  split
  · exact hk
  · next r _ =>
    refine Keeps.ite hk ?_
    split
    · exact keeps_refuse hk ..
    · refine Keeps.ite hk (Keeps.ite (keeps_refuse hk ..) (Keeps.ite hk ?_))
      have ha := keeps_admit hk r
      split
      · next h => rw [h] at ha; exact keeps_refuse ha ..
      · next h => rw [h] at ha; exact ha
    · exact hk

theorem keeps_giveSlot {o₀ s : State} (hk : Keeps o₀ s) (d : Nat) (inst : Nat) (o : Nat) : Keeps o₀ (giveSlot s d inst o) := by
  unfold giveSlot
  repeat' first | with_reducible (first | assumption | apply keeps_countGrant) | (with_reducible refine Keeps.lit ?_; dsimp only; with_reducible first | exact Keeps.of hk | refine Keeps.of ?_) | dsimp only

theorem keeps_pruneSlots {o₀ s : State} (hk : Keeps o₀ s) : Keeps o₀ (pruneSlots s) := by
  unfold pruneSlots
  repeat' first | with_reducible (first | assumption) | (with_reducible refine Keeps.lit ?_; dsimp only; with_reducible first | exact Keeps.of hk | refine Keeps.of ?_) | intro _ | dsimp only

theorem keeps_lockThread {o₀ s : State} (hk : Keeps o₀ s) (d : Nat) (inst : Nat) (o : Nat) : Keeps o₀ (lockThread s d inst o) := by
  unfold lockThread
  repeat' first | with_reducible (first | assumption | apply keeps_modT | refine Keeps.of_pair ‹_ = (_, _)› ?_ | refine Keeps.ite ?_ ?_) | (with_reducible refine Keeps.lit ?_; dsimp only; with_reducible first | exact Keeps.of hk | refine Keeps.of ?_) | split | intro _ | dsimp only

theorem keeps_grantLock {o₀ s : State} (hk : Keeps o₀ s) (d : Nat) (inst : Nat) (o : Nat) (n : Nat) : Keeps o₀ (grantLock s d inst o n) := by
  unfold grantLock
  repeat' first | with_reducible (first | assumption | apply keeps_bumpSat | apply keeps_lockThread | apply keeps_raiseErr | refine Keeps.ite ?_ ?_) | (with_reducible refine Keeps.lit ?_; dsimp only; with_reducible first | exact Keeps.of hk | refine Keeps.of ?_) | split | dsimp only

theorem keeps_raiseAge {o₀ s : State} (hk : Keeps o₀ s) (d : Nat) (inst : Nat) (o : Nat) : Keeps o₀ (raiseAge s d inst o) := by
  unfold raiseAge
  repeat' first | with_reducible (first | assumption | refine Keeps.ite ?_ ?_) | (with_reducible refine Keeps.lit ?_; dsimp only; with_reducible first | exact Keeps.of hk | refine Keeps.of ?_) | split | dsimp only

theorem keeps_loseContest {o₀ s : State} (hk : Keeps o₀ s) (d : Nat) (inst : Nat) (o : Nat) : Keeps o₀ (loseContest s d inst o) := by
  unfold loseContest
  repeat' first | with_reducible (first | assumption | apply keeps_raiseAge | apply keeps_raiseErr | refine Keeps.ite ?_ ?_) | (with_reducible refine Keeps.lit ?_; dsimp only; with_reducible first | exact Keeps.of hk | refine Keeps.of ?_) | split | dsimp only

theorem keeps_settleOpen {o₀ s : State} (hk : Keeps o₀ s) (d inst : Nat) (ready : List Nat) (lockOwner n fuel : Nat) : Keeps o₀ (settleOpen s d inst ready lockOwner n fuel) := by
  induction fuel generalizing s ready with
  | zero => exact hk
  | succ fuel ih =>
    unfold settleOpen
    dsimp only
    split
    · exact hk
    · next o _ =>
      have h1 : ∀ b : Bool, Keeps o₀ (if b = true then s else List.foldl (fun s x => loseContest s d inst x) (clearAge s d inst o) (List.filter (fun x => x != o) ready)) :=
        fun b => Keeps.ite hk (Keeps.foldl (fun v a hv => keeps_loseContest hv ..) (keeps_clearAge hk ..))
      exact Keeps.ite (ih (keeps_loseContest hk ..) _) (Keeps.ite (keeps_grantLock (keeps_giveSlot (h1 _) ..) ..) (keeps_giveSlot (h1 _) ..))

theorem keeps_injectCell {o₀ s : State} (hk : Keeps o₀ s) (d : Nat) : Keeps o₀ (injectCell s d) := by
  unfold injectCell
  repeat' first | with_reducible (first | assumption | apply keeps_emitOut | refine Keeps.of_pair ‹_ = (_, _)› ?_ | refine Keeps.ite ?_ ?_) | (with_reducible refine Keeps.lit ?_; dsimp only; with_reducible first | exact Keeps.of hk | refine Keeps.of ?_) | split | intro _ | dsimp only

theorem keeps_noteSpan {o₀ s : State} (hk : Keeps o₀ s) (d : Nat) (inst : Nat) (span : Nat) : Keeps o₀ (noteSpan s d inst span) := by
  unfold noteSpan
  repeat' first | with_reducible (first | assumption | refine Keeps.ite ?_ ?_) | (with_reducible refine Keeps.lit ?_; dsimp only; with_reducible first | exact Keeps.of hk | refine Keeps.of ?_) | split | intro _ | dsimp only

theorem keeps_settleSlot {o₀ s : State} (hk : Keeps o₀ s) (d : Nat) (inst : Nat) (rs : List Nat) (lockOwner : Nat) (n : Nat) : Keeps o₀ (settleSlot s d inst rs lockOwner n) := by
  unfold settleSlot
  repeat' first | with_reducible (first | assumption | apply keeps_countGrant | apply keeps_giveSlot | apply keeps_settleOpen | refine Keeps.of_pair ‹_ = (_, _)› ?_ | refine Keeps.ite ?_ ?_) | split | dsimp only

theorem keeps_nameLine {o₀ s : State} (hk : Keeps o₀ s) (d : Nat) (o : Nat) (line : Nat) : Keeps o₀ (nameLine s d o line) := by
  unfold nameLine
  repeat' first | with_reducible (first | assumption) | (with_reducible refine Keeps.lit ?_; dsimp only; with_reducible first | exact Keeps.of hk | refine Keeps.of ?_) | intro _ | dsimp only

theorem keeps_serveMem {o₀ s : State} (hk : Keeps o₀ s) (d : Nat) (o : Nat) : Keeps o₀ (serveMem s d o) := by
  unfold serveMem
  repeat' first | with_reducible (first | assumption | apply keeps_nameLine | refine Keeps.of_pair ‹_ = (_, _)› ?_ | refine Keeps.ite ?_ ?_) | (with_reducible refine Keeps.lit ?_; dsimp only; with_reducible first | exact Keeps.of hk | refine Keeps.of ?_) | split | intro _ | dsimp only

theorem keeps_useMemSlot {o₀ s : State} (hk : Keeps o₀ s) (d : Nat) : Keeps o₀ (useMemSlot s d) := by
  unfold useMemSlot
  repeat' first | with_reducible (first | assumption | apply keeps_serveMem | refine Keeps.of_pair ‹_ = (_, _)› ?_ | refine Keeps.ite ?_ ?_) | split | intro _ | dsimp only

theorem keeps_execArbiterSlotGrant {o₀ s : State} (hk : Keeps o₀ s) (d : Nat) (inst : Nat) (ready : Nat) (lockOwner : Nat) (ask : Ask) : KeepsR o₀ (execArbiterSlotGrant d inst ready lockOwner ask s) := by
  unfold execArbiterSlotGrant; refine keepsR_next ?_
  repeat' first | with_reducible (first | assumption | apply keeps_clearAge | apply keeps_injectCell | apply keeps_noteSpan | apply keeps_pruneSlots | apply keeps_settleSlot | apply keeps_useMemSlot | refine Keeps.ite ?_ ?_ | refine Keeps.foldl (fun _ _ _ => ?_) ?_) | (with_reducible refine Keeps.lit ?_; dsimp only; with_reducible first | exact Keeps.of hk | refine Keeps.of ?_) | split | intro _ | dsimp only

theorem keeps_execArbiterTableSwitch {o₀ s : State} (hk : Keeps o₀ s) (d : Nat) (inst : Nat) : KeepsR o₀ (execArbiterTableSwitch d inst s) := by
  unfold execArbiterTableSwitch; refine keepsR_next ?_
  repeat' first | with_reducible (first | assumption | apply keeps_setF | apply keeps_takeTable | refine Keeps.ite ?_ ?_) | split | dsimp only

theorem keeps_execAtsDisable {o₀ s : State} (hk : Keeps o₀ s) (ats : Bool) (pasid : Bool) : KeepsR o₀ (execAtsDisable ats pasid s) := by
  unfold execAtsDisable; refine keepsR_next ?_
  repeat' first | with_reducible (first | assumption | apply keeps_setF | apply keeps_regionOff | refine Keeps.ite ?_ ?_ | refine Keeps.foldl (fun _ _ _ => ?_) ?_) | (with_reducible refine Keeps.lit ?_; dsimp only; with_reducible first | exact Keeps.of hk | refine Keeps.of ?_) | split | intro _ | dsimp only

theorem keeps_execAtsInvalidation {o₀ s : State} (hk : Keeps o₀ s) (pasid : Option Nat) (page : Nat) (log2 : Nat) : KeepsR o₀ (execAtsInvalidation pasid page log2 s) := by
  unfold execAtsInvalidation; refine keepsR_next ?_
  repeat' first | with_reducible (first | assumption | apply keeps_bumpSat | refine Keeps.ite ?_ ?_) | (with_reducible refine Keeps.lit ?_; dsimp only; with_reducible first | exact Keeps.of hk | refine Keeps.of ?_) | split | intro _ | dsimp only

theorem keeps_execAtsInvalidationComplete {o₀ s : State} (hk : Keeps o₀ s) : KeepsR o₀ (execAtsInvalidationComplete s) := by
  unfold execAtsInvalidationComplete; refine keepsR_next ?_
  repeat' first | with_reducible (first | assumption | apply keeps_emitOut | refine Keeps.of_pair ‹_ = (_, _)› ?_) | (with_reducible refine Keeps.lit ?_; dsimp only; with_reducible first | exact Keeps.of hk | refine Keeps.of ?_) | split | intro _ | dsimp only

theorem keeps_xlateDenied {o₀ s : State} (hk : Keeps o₀ s) (r : Nat) (a : Nat) : Keeps o₀ (xlateDenied s r a) := by
  unfold xlateDenied
  repeat' first | with_reducible (first | assumption | apply keeps_raiseErr | apply keeps_regionOff | apply keeps_writeOver | refine Keeps.ite ?_ ?_) | split | intro _ | dsimp only

theorem keeps_execAtsTranslationCompletion {o₀ s : State} (hk : Keeps o₀ s) (id : Nat) (k : Nat) (range : Range) (granted : Bool) : KeepsR o₀ (execAtsTranslationCompletion id k range granted s) := by
  unfold execAtsTranslationCompletion; refine keepsR_next ?_
  repeat' first | with_reducible (first | assumption | apply keeps_advanceFetches | apply keeps_bumpSat | apply keeps_xlateDenied | refine Keeps.of_pair ‹_ = (_, _)› ?_ | refine Keeps.ite ?_ ?_) | (with_reducible refine Keeps.lit ?_; dsimp only; with_reducible first | exact Keeps.of hk | refine Keeps.of ?_) | split | dsimp only

theorem keeps_execAttentionButton {o₀ s : State} (hk : Keeps o₀ s) (d : Nat) : KeepsR o₀ (execAttentionButton d s) := by
  unfold execAttentionButton; refine keepsR_next ?_
  repeat' first | with_reducible (first | assumption | apply keeps_siteEvent | apply keeps_bumpSat | refine Keeps.ite ?_ ?_) | split | dsimp only

theorem keeps_execAtticWindowRead {o₀ s : State} (hk : Keeps o₀ s) (acc : Nat) (d : Nat) (off : Nat) (size : Nat) : KeepsR o₀ (execAtticWindowRead acc d off size s) := by
  unfold execAtticWindowRead; refine keepsR_next ?_
  repeat' first | with_reducible (first | assumption | apply keeps_readRows | apply keeps_giveRead) | dsimp only

theorem keeps_execAtticWindowWrite {o₀ s : State} (hk : Keeps o₀ s) (d : Nat) (off : Nat) : KeepsR o₀ (execAtticWindowWrite d off s) := by
  unfold execAtticWindowWrite; refine keepsR_next ?_
  repeat' first | with_reducible (first | assumption | apply keeps_raiseErr) | dsimp only

theorem keeps_execBarrier {o₀ s : State} (hk : Keeps o₀ s) (d : Nat) (cid : Nat) : KeepsR o₀ (execBarrier d cid s) := by
  unfold execBarrier; refine keepsR_next ?_
  repeat' first | with_reducible (first | assumption | apply keeps_acceptOp) | dsimp only

theorem keeps_wayPhase {o₀ s : State} (hk : Keeps o₀ s) (d : Nat) (ways : Nat) : Keeps o₀ (wayPhase s d ways) := by
  unfold wayPhase
  repeat' first | with_reducible (first | assumption | apply keeps_bsqCause | apply keeps_setF | refine Keeps.ite ?_ ?_) | split | dsimp only

theorem keeps_execBsqPhaseDone {o₀ s : State} (hk : Keeps o₀ s) (d : Nat) (ways : Nat) (fault : Bool) (shelves : List (Nat × Nat × Nat × Nat)) (ms : Nat) : KeepsR o₀ (execBsqPhaseDone d ways fault shelves ms s) := by
  unfold execBsqPhaseDone; refine keepsR_next ?_
  repeat' first | with_reducible (first | assumption | apply keeps_wayPhase | apply keeps_bsqCause | apply keeps_setF | apply keeps_bankPhase | apply keeps_endBsq | refine Keeps.ite ?_ ?_) | split | dsimp only

theorem keeps_execBsqStart {o₀ s : State} (hk : Keeps o₀ s) (d : Nat) (val : Nat) : KeepsR o₀ (execBsqStart d val s) := by
  unfold execBsqStart; refine keepsR_next ?_
  repeat' first | with_reducible (first | assumption | apply keeps_writeBsq | refine Keeps.ite ?_ ?_) | split | dsimp only

theorem keeps_execBulkLoad {o₀ s : State} (hk : Keeps o₀ s) (d : Nat) (cid : Nat) : KeepsR o₀ (execBulkLoad d cid s) := by
  unfold execBulkLoad; refine keepsR_next ?_
  repeat' first | with_reducible (first | assumption | apply keeps_acceptOp) | dsimp only

theorem keeps_execBulkRecordRead {o₀ s : State} (hk : Keeps o₀ s) (d : Nat) (cid : Nat) (data : BitVec 512) (fail : Bool) : KeepsR o₀ (execBulkRecordRead d cid data fail s) := by
  unfold execBulkRecordRead; refine keepsR_next ?_
  repeat' first | with_reducible (first | assumption | apply keeps_bulkNext | apply keeps_modCmd | apply keeps_setF | refine Keeps.of_pair ‹_ = (_, _)› ?_ | refine Keeps.ite ?_ ?_) | (with_reducible refine Keeps.lit ?_; dsimp only; with_reducible first | exact Keeps.of hk | refine Keeps.of ?_) | split | intro _ | dsimp only

theorem keeps_cellarStop {o₀ s : State} (hk : Keeps o₀ s) (cause : Nat) : Keeps o₀ (cellarStop s cause) := by
  unfold cellarStop
  repeat' first | with_reducible (first | assumption | apply keeps_cellarOff | apply keeps_settleFetches | refine Keeps.ite ?_ ?_) | split | intro _ | dsimp only

theorem keeps_stopMaster {o₀ s : State} (hk : Keeps o₀ s) : Keeps o₀ (stopMaster s) := by
  unfold stopMaster
  repeat' first | with_reducible (first | assumption | apply keeps_cellarStop | apply keeps_endFetch | refine Keeps.foldl (fun _ _ _ => ?_) ?_) | intro _ | dsimp only

theorem keeps_stopIf {o₀ s : State} (hk : Keeps o₀ s) (ran : Bool) : Keeps o₀ (stopIf s ran) := by
  unfold stopIf
  repeat' first | with_reducible (first | assumption | apply keeps_stopMaster | refine Keeps.ite ?_ ?_) | split | dsimp only

theorem keeps_execBusMasterDisable {o₀ s : State} (hk : Keeps o₀ s) : KeepsR o₀ (execBusMasterDisable s) := by
  unfold execBusMasterDisable; refine keepsR_next ?_
  repeat' first | with_reducible (first | assumption | apply keeps_setF | apply keeps_stopIf) | dsimp only

theorem keeps_startMaster {o₀ s : State} (hk : Keeps o₀ s) : Keeps o₀ (startMaster s) := by
  unfold startMaster
  repeat' first | with_reducible (first | assumption | apply keeps_emitOut | apply keeps_writeMsixCtl | refine Keeps.foldl (fun _ _ _ => ?_) ?_) | (with_reducible refine Keeps.lit ?_; dsimp only; with_reducible first | exact Keeps.of hk | refine Keeps.of ?_) | intro _ | dsimp only

theorem keeps_startIf {o₀ s : State} (hk : Keeps o₀ s) : Keeps o₀ (startIf s) := by
  unfold startIf
  repeat' first | with_reducible (first | assumption | apply keeps_startMaster | refine Keeps.ite ?_ ?_) | split | dsimp only

theorem keeps_execBusMasterEnable {o₀ s : State} (hk : Keeps o₀ s) (cfg : CfgWrite) (pasid : Bool) : KeepsR o₀ (execBusMasterEnable cfg pasid s) := by
  unfold execBusMasterEnable; refine keepsR_next ?_
  repeat' first | with_reducible (first | assumption | apply keeps_setF | apply keeps_startIf | apply keeps_stopIf | refine Keeps.of_pair ‹_ = (_, _)› ?_ | refine Keeps.ite ?_ ?_) | (with_reducible refine Keeps.lit ?_; dsimp only; with_reducible first | exact Keeps.of hk | refine Keeps.of ?_) | split | dsimp only

theorem keeps_execCacheEnableWrite {o₀ s : State} (hk : Keeps o₀ s) (d : Nat) (val : Nat) : KeepsR o₀ (execCacheEnableWrite d val s) := by
  unfold execCacheEnableWrite; refine keepsR_next ?_
  repeat' first | with_reducible (first | assumption | apply keeps_writeCchCtl | refine Keeps.ite ?_ ?_) | split | dsimp only

theorem keeps_takeFill {o₀ s : State} (hk : Keeps o₀ s) (d : Nat) (line : Nat) (fixed : Bool) (waiters : List (Nat × Nat)) (forced : Option Nat) : Keeps o₀ (takeFill s d line fixed waiters forced) := by
  unfold takeFill
  repeat' first | with_reducible (first | assumption | apply keeps_chooseVictim | apply keeps_setLine | refine Keeps.of_pair ‹_ = (_, _)› ?_ | refine Keeps.ite ?_ ?_) | (with_reducible refine Keeps.lit ?_; dsimp only; with_reducible first | exact Keeps.of hk | refine Keeps.of ?_) | split | intro _ | dsimp only

theorem keeps_settleNeed {o₀ s : State} (hk : Keeps o₀ s) (id : Nat) (b : Nat) (a : Bucket) : Keeps o₀ (settleNeed s id b a) := by
  unfold settleNeed
  repeat' first | with_reducible (first | assumption | apply keeps_answerStep | apply keeps_modStep) | dsimp only

theorem keeps_joinFill {o₀ s : State} (hk : Keeps o₀ s) (f : Fill) (id : Nat) (b : Nat) : Keeps o₀ (joinFill s f id b) := by
  unfold joinFill
  repeat' first | with_reducible (first | assumption | apply keeps_bump | apply keeps_modStep | apply keeps_settleNeed | refine Keeps.of_pair ‹_ = (_, _)› ?_) | (with_reducible refine Keeps.lit ?_; dsimp only; with_reducible first | exact Keeps.of hk | refine Keeps.of ?_) | split | intro _ | dsimp only

theorem keeps_execCacheFillAllocate {o₀ s : State} (hk : Keeps o₀ s) (id : Nat) (b : Nat) : KeepsR o₀ (execCacheFillAllocate id b s) := by
  unfold execCacheFillAllocate; refine keepsR_next ?_
  repeat' first | with_reducible (first | assumption | apply keeps_bump | apply keeps_joinFill | apply keeps_modStep | apply keeps_settleNeed | apply keeps_takeFill | refine Keeps.of_pair ‹_ = (_, _)› ?_ | refine Keeps.ite ?_ ?_) | (with_reducible refine Keeps.lit ?_; dsimp only; with_reducible first | exact Keeps.of hk | refine Keeps.of ?_) | split | intro _ | dsimp only

theorem keeps_execCachePreload {o₀ s : State} (hk : Keeps o₀ s) (d : Nat) (val : Nat) : KeepsR o₀ (execCachePreload d val s) := by
  unfold execCachePreload; refine keepsR_next ?_
  repeat' first | with_reducible (first | assumption | apply keeps_writePreload | refine Keeps.ite ?_ ?_) | split | dsimp only

theorem keeps_preloadLine {o₀ s : State} (hk : Keeps o₀ s) (d : Nat) (w : Nat) (line : Nat) (b : Bucket) : Keeps o₀ (preloadLine s d w line b) := by
  unfold preloadLine
  repeat' first | with_reducible (first | assumption | apply keeps_noInstall | apply keeps_setLine | refine Keeps.of_pair ‹_ = (_, _)› ?_) | (with_reducible refine Keeps.lit ?_; dsimp only; with_reducible first | exact Keeps.of hk | refine Keeps.of ?_) | split | intro _ | dsimp only

theorem keeps_preloadFrom {o₀ s : State} (hk : Keeps o₀ s) (d w base count badAt n : Nat) : Keeps o₀ (preloadFrom d w base count badAt n s).1 := by
  induction n generalizing s with
  | zero => exact hk
  | succ n ih =>
    rw [preloadFrom]
    exact Keeps.ite_fst hk (Keeps.ite_fst hk (ih (keeps_preloadLine hk ..)))

theorem keeps_execCachePreloadDone {o₀ s : State} (hk : Keeps o₀ s) (d : Nat) (badAt : Nat) : KeepsR o₀ (execCachePreloadDone d badAt s) := by
  unfold execCachePreloadDone; refine keepsR_next ?_
  repeat' first | with_reducible (first | assumption | apply keeps_preloadFrom | apply keeps_refuseWays | apply keeps_setF | refine Keeps.of_pair ‹_ = (_, _)› ?_ | refine Keeps.ite ?_ ?_) | (with_reducible refine Keeps.lit ?_; dsimp only; with_reducible first | exact Keeps.of hk | refine Keeps.of ?_) | split | intro _ | dsimp only

theorem keeps_execCacheRangeInvalidate {o₀ s : State} (hk : Keeps o₀ s) (d : Nat) (val : Nat) : KeepsR o₀ (execCacheRangeInvalidate d val s) := by
  unfold execCacheRangeInvalidate; refine keepsR_next ?_
  repeat' first | with_reducible (first | assumption | apply keeps_writeInv | refine Keeps.ite ?_ ?_) | split | dsimp only

theorem keeps_execCacheRangeInvalidateDone {o₀ s : State} (hk : Keeps o₀ s) (d : Nat) : KeepsR o₀ (execCacheRangeInvalidateDone d s) := by
  unfold execCacheRangeInvalidateDone; refine keepsR_next ?_
  repeat' first | with_reducible (first | assumption | apply keeps_setF | refine Keeps.of_pair ‹_ = (_, _)› ?_ | refine Keeps.ite ?_ ?_) | (with_reducible refine Keeps.lit ?_; dsimp only; with_reducible first | exact Keeps.of hk | refine Keeps.of ?_) | split | intro _ | dsimp only

theorem keeps_execCacheWaysWrite {o₀ s : State} (hk : Keeps o₀ s) (d : Nat) (val : Nat) : KeepsR o₀ (execCacheWaysWrite d val s) := by
  unfold execCacheWaysWrite; refine keepsR_next ?_
  repeat' first | with_reducible (first | assumption | apply keeps_writeWays | refine Keeps.ite ?_ ?_) | split | dsimp only

theorem keeps_badBeat {o₀ s : State} (hk : Keeps o₀ s) (port : Nat) : Keeps o₀ (badBeat s port) := by
  unfold badBeat
  repeat' first | with_reducible (first | assumption | apply keeps_raiseErr | apply keeps_setLk) | dsimp only

theorem keeps_execCascadeBadTypeBeat {o₀ s : State} (hk : Keeps o₀ s) (port : Nat) : KeepsR o₀ (execCascadeBadTypeBeat port s) := by
  unfold execCascadeBadTypeBeat; refine keepsR_next ?_
  repeat' first | with_reducible (first | assumption | apply keeps_badBeat | refine Keeps.ite ?_ ?_) | split | dsimp only

theorem keeps_loseBelow {o₀ s : State} (hk : Keeps o₀ s) (sid : Nat) : Keeps o₀ (loseBelow s sid) := by
  unfold loseBelow
  repeat' first | with_reducible (first | assumption | apply keeps_setBelow) | dsimp only

theorem keeps_freeBeats {o₀ s : State} (hk : Keeps o₀ s) (port : Nat) (n : Nat) : Keeps o₀ (freeBeats s port n) := by
  unfold freeBeats
  repeat' first | with_reducible (first | assumption | apply keeps_setLk) | dsimp only

theorem keeps_takeFrame {o₀ s : State} (hk : Keeps o₀ s) (port ty : Nat) (l : List Nat) : Keeps o₀ (takeFrame s port ty l).1 := by
  induction l generalizing s with
  | nil => exact hk
  | cons b rest ih =>
    unfold takeFrame
    exact Keeps.ite_fst hk (ih (keeps_badBeat hk ..))

theorem keeps_execCascadeContribFrame {o₀ s : State} (hk : Keeps o₀ s) (first : Nat) (rest : List Nat) : KeepsR o₀ (execCascadeContribFrame first rest s) := by
  unfold execCascadeContribFrame; refine keepsR_next ?_
  repeat' first | with_reducible (first | assumption | apply keeps_bumpSat | apply keeps_freeBeats | apply keeps_raiseErr | apply keeps_setBelow | apply keeps_takeFrame | refine Keeps.of_pair ‹_ = (_, _)› ?_ | refine Keeps.ite ?_ ?_) | split | intro _ | dsimp only

theorem keeps_pendLanes {o₀ s : State} (hk : Keeps o₀ s) (port : Nat) (lmap : Nat) (wait : Bool) : Keeps o₀ (pendLanes s port lmap wait) := by
  unfold pendLanes
  repeat' first | with_reducible (first | assumption | apply keeps_setLk) | dsimp only

theorem keeps_switchLanes {o₀ s : State} (hk : Keeps o₀ s) (port : Nat) : Keeps o₀ (switchLanes s port) := by
  unfold switchLanes
  repeat' first | with_reducible (first | assumption | apply keeps_bumpSat | apply keeps_setF | apply keeps_setLk | apply keeps_raiseErr | refine Keeps.ite ?_ ?_) | split | intro _ | dsimp only

theorem keeps_sendControl {o₀ s : State} (hk : Keeps o₀ s) (port : Nat) (lmap : Nat) (lstate : Nat) : Keeps o₀ (sendControl s port lmap lstate) := by
  unfold sendControl
  repeat' first | with_reducible (first | assumption | apply keeps_emitOut | apply keeps_setLk) | dsimp only

theorem keeps_flushRelay {o₀ s : State} (hk : Keeps o₀ s) (n : Nat) : Keeps o₀ (flushRelay n s) := by
  induction n generalizing s with
  | zero => exact hk
  | succ n ih =>
    unfold flushRelay
    split
    · exact hk
    · next b rest _ =>
      have h1 : Keeps o₀ { setLk s (lkCredit 1) (mget 0 s.link (lkCredit 1) - b.length) with relay := rest } := Keeps.rest (keeps_setLk hk (lkCredit 1) (mget 0 s.link (lkCredit 1) - b.length)) rfl rfl rfl rfl rfl rfl rfl rfl rfl rfl
      exact Keeps.ite (ih (keeps_emitOut h1 ..)) hk

theorem keeps_takeBeat {o₀ s : State} (hk : Keeps o₀ s) (port : Nat) (beat : Nat) : Keeps o₀ (takeBeat s port beat) := by
  unfold takeBeat
  repeat' first | with_reducible (first | assumption | apply keeps_flushRelay | apply keeps_setLk | apply keeps_switchLanes | refine Keeps.ite ?_ ?_) | split | dsimp only

theorem keeps_execCascadeControlBeat {o₀ s : State} (hk : Keeps o₀ s) (port : Nat) (beat : Nat) : KeepsR o₀ (execCascadeControlBeat port beat s) := by
  unfold execCascadeControlBeat; refine keepsR_next ?_
  repeat' first | with_reducible (first | assumption | apply keeps_pendLanes | apply keeps_sendControl | apply keeps_setF | apply keeps_setLk | apply keeps_startRetrain | apply keeps_takeBeat | refine Keeps.of_pair ‹_ = (_, _)› ?_ | refine Keeps.ite ?_ ?_) | split | dsimp only

theorem keeps_execCascadeDropTimeout {o₀ s : State} (hk : Keeps o₀ s) (port : Nat) : KeepsR o₀ (execCascadeDropTimeout port s) := by
  unfold execCascadeDropTimeout; refine keepsR_next ?_
  repeat' first | with_reducible (first | assumption | apply keeps_startRetrain | refine Keeps.ite ?_ ?_) | split | dsimp only

theorem keeps_execCascadeLaneFail {o₀ s : State} (hk : Keeps o₀ s) (port : Nat) (lane : Nat) : KeepsR o₀ (execCascadeLaneFail port lane s) := by
  unfold execCascadeLaneFail; refine keepsR_next ?_
  repeat' first | with_reducible (first | assumption | apply keeps_pendLanes | apply keeps_sendControl | apply keeps_setF | apply keeps_startRetrain | refine Keeps.ite ?_ ?_) | split | dsimp only

theorem keeps_execCascadeLaneReturnReady {o₀ s : State} (hk : Keeps o₀ s) (port : Nat) (lane : Nat) : KeepsR o₀ (execCascadeLaneReturnReady port lane s) := by
  unfold execCascadeLaneReturnReady; refine keepsR_next ?_
  repeat' first | with_reducible (first | assumption | apply keeps_pendLanes | apply keeps_sendControl | refine Keeps.ite ?_ ?_) | split | dsimp only

theorem keeps_execCascadeLinkUp {o₀ s : State} (hk : Keeps o₀ s) (port : Nat) (lanes : Nat) (npos : Nat) (flight : Nat) (below : Nat) : KeepsR o₀ (execCascadeLinkUp port lanes npos flight below s) := by
  unfold execCascadeLinkUp; refine keepsR_next ?_
  repeat' first | with_reducible (first | assumption | apply keeps_raiseErr | apply keeps_setF | apply keeps_setLk | refine Keeps.ite ?_ ?_) | split | dsimp only

theorem keeps_linkDown {o₀ s : State} (hk : Keeps o₀ s) (port : Nat) : Keeps o₀ (linkDown s port) := by
  unfold linkDown
  repeat' first | with_reducible (first | assumption | apply keeps_portDown | apply keeps_raiseErr) | dsimp only

theorem keeps_execCascadeRetrainDone {o₀ s : State} (hk : Keeps o₀ s) (port : Nat) (ok : Bool) (lanes : Nat) : KeepsR o₀ (execCascadeRetrainDone port ok lanes s) := by
  unfold execCascadeRetrainDone; refine keepsR_next ?_
  repeat' first | with_reducible (first | assumption | apply keeps_flushRelay | apply keeps_linkDown | apply keeps_setF | apply keeps_setLk | refine Keeps.ite ?_ ?_) | split | dsimp only

theorem keeps_passOn {o₀ s : State} (hk : Keeps o₀ s) (beats : List Nat) : Keeps o₀ (passOn s beats) := by
  unfold passOn
  repeat' first | with_reducible (first | assumption | apply keeps_emitOut | apply keeps_setLk | refine Keeps.ite ?_ ?_) | (with_reducible refine Keeps.lit ?_; dsimp only; with_reducible first | exact Keeps.of hk | refine Keeps.of ?_) | split | dsimp only

theorem keeps_searchFromAbove {o₀ s : State} (hk : Keeps o₀ s) (beats : List Nat) : Keeps o₀ (searchFromAbove s beats) := by
  unfold searchFromAbove
  repeat' first | with_reducible (first | assumption | refine Keeps.ite ?_ ?_) | (with_reducible refine Keeps.lit ?_; dsimp only; with_reducible first | exact Keeps.of hk | refine Keeps.of ?_) | split | intro _ | dsimp only

theorem keeps_execCascadeSearchFrame {o₀ s : State} (hk : Keeps o₀ s) (first : Nat) (rest : List Nat) : KeepsR o₀ (execCascadeSearchFrame first rest s) := by
  unfold execCascadeSearchFrame; refine keepsR_next ?_
  repeat' first | with_reducible (first | assumption | apply keeps_bumpSat | apply keeps_freeBeats | apply keeps_passOn | apply keeps_raiseErr | apply keeps_searchFromAbove | apply keeps_takeFrame | refine Keeps.of_pair ‹_ = (_, _)› ?_ | refine Keeps.ite ?_ ?_) | split | dsimp only

theorem keeps_execCellarDisable {o₀ s : State} (hk : Keeps o₀ s) (val : Nat) : KeepsR o₀ (execCellarDisable val s) := by
  unfold execCellarDisable; refine keepsR_next ?_
  repeat' first | with_reducible (first | assumption | apply keeps_writeCelCtl | refine Keeps.ite ?_ ?_) | split | dsimp only

theorem keeps_execCellarEnable {o₀ s : State} (hk : Keeps o₀ s) (val : Nat) : KeepsR o₀ (execCellarEnable val s) := by
  unfold execCellarEnable; refine keepsR_next ?_
  repeat' first | with_reducible (first | assumption | apply keeps_writeCelCtl | refine Keeps.ite ?_ ?_) | split | dsimp only

theorem keeps_execCellarFetchEntryGrant {o₀ s : State} (hk : Keeps o₀ s) (id : Nat) : KeepsR o₀ (execCellarFetchEntryGrant id s) := by
  unfold execCellarFetchEntryGrant; refine keepsR_next ?_
  repeat' first | with_reducible (first | assumption | apply keeps_modFetch | apply keeps_sendFetch | refine Keeps.of_pair ‹_ = (_, _)› ?_ | refine Keeps.ite ?_ ?_) | (with_reducible refine Keeps.lit ?_; dsimp only; with_reducible first | exact Keeps.of hk | refine Keeps.of ?_) | split | intro _ | dsimp only

theorem keeps_lateCompletion {o₀ s : State} (hk : Keeps o₀ s) (kind : Nat) (id : Nat) (n : Nat) : Keeps o₀ (lateCompletion s kind id n) := by
  unfold lateCompletion
  repeat' first | with_reducible (first | assumption | apply keeps_bumpSat | refine Keeps.ite ?_ ?_) | split | dsimp only

theorem keeps_readFail {o₀ s : State} (hk : Keeps o₀ s) (f : CFetch) (k : Nat) : Keeps o₀ (readFail s f k) := by
  unfold readFail
  repeat' first | with_reducible (first | assumption | apply keeps_raiseErr | apply keeps_settleFetch | refine Keeps.ite ?_ ?_) | split | dsimp only

theorem keeps_sendData {o₀ s : State} (hk : Keeps o₀ s) (d : Nat) (id : Nat) (v : BitVec 2304) : Keeps o₀ (sendData s d id v) := by
  unfold sendData
  repeat' first | with_reducible (first | assumption | apply keeps_queueMgmt) | dsimp only

theorem keeps_execCellarReadCompletion {o₀ s : State} (hk : Keeps o₀ s) (id : Nat) (data : BitVec 2304) (fail : Nat) : KeepsR o₀ (execCellarReadCompletion id data fail s) := by
  unfold execCellarReadCompletion; refine keepsR_next ?_
  repeat' first | with_reducible (first | assumption | apply keeps_advanceFetches | apply keeps_dataArrive | apply keeps_lateCompletion | apply keeps_modFetch | apply keeps_readFail | apply keeps_sendData | refine Keeps.of_pair ‹_ = (_, _)› ?_ | refine Keeps.ite ?_ ?_) | (with_reducible refine Keeps.lit ?_; dsimp only; with_reducible first | exact Keeps.of hk | refine Keeps.of ?_) | split | intro _ | dsimp only

theorem keeps_execCellarWrite {o₀ s : State} (hk : Keeps o₀ s) (val : Nat) : KeepsR o₀ (execCellarWrite val s) := by
  unfold execCellarWrite; refine keepsR_next ?_
  repeat' first | with_reducible (first | assumption | apply keeps_writeWcmd | refine Keeps.ite ?_ ?_) | split | dsimp only

theorem keeps_execCellarWriteComplete {o₀ s : State} (hk : Keeps o₀ s) (bucket : BitVec 1024) (tag : Nat) (err : Bool) : KeepsR o₀ (execCellarWriteComplete bucket tag err s) := by
  unfold execCellarWriteComplete; refine keepsR_next ?_
  repeat' first | with_reducible (first | assumption | apply keeps_authFail | apply keeps_cellarWrite | apply keeps_fireAlarm | apply keeps_lateCompletion | apply keeps_writeOver | refine Keeps.of_pair ‹_ = (_, _)› ?_ | refine Keeps.ite ?_ ?_) | split | dsimp only

theorem keeps_recipeError {o₀ s : State} (hk : Keeps o₀ s) (d : Nat) (t : Nat) (cause : Nat) : Keeps o₀ (recipeError s d t cause) := by
  unfold recipeError
  repeat' first | with_reducible (first | assumption | apply keeps_childEnd | apply keeps_deviceAnswer | apply keeps_dropWork | apply keeps_modT | apply keeps_orphanKids | apply keeps_parentCheck | apply keeps_rerr | refine Keeps.ite ?_ ?_) | (with_reducible refine Keeps.lit ?_; dsimp only; with_reducible first | exact Keeps.of hk | refine Keeps.of ?_) | split | intro _ | dsimp only

theorem keeps_giveStart {o₀ s : State} (hk : Keeps o₀ s) (d : Nat) (t : Nat) : Keeps o₀ (giveStart s d t) := by
  unfold giveStart
  repeat' first | with_reducible (first | assumption) | (with_reducible refine Keeps.lit ?_; dsimp only; with_reducible first | exact Keeps.of hk | refine Keeps.of ?_) | dsimp only

theorem keeps_bookedStarts {o₀ s : State} (hk : Keeps o₀ s) (d : Nat) : Keeps o₀ (bookedStarts s d) := by
  unfold bookedStarts
  repeat' first | with_reducible (first | assumption | apply keeps_giveStart | refine Keeps.foldl (fun _ _ _ => ?_) ?_) | intro _ | dsimp only

theorem keeps_contestLane {o₀ s : State} (hk : Keeps o₀ s) (d : Nat) (ws : List (Nat × Nat × Nat)) : Keeps o₀ (contestLane s d ws).1 := by
  unfold contestLane
  repeat' first | with_reducible (first | assumption | apply keeps_giveStart | apply keeps_raiseAge | apply keeps_resetAge | refine Keeps.of_pair ‹_ = (_, _)› ?_ | refine Keeps.foldl (fun _ _ _ => ?_) ?_) | split | intro _ | dsimp only

theorem keeps_settleLane {o₀ : State} (d : Nat) (x : State × List (Nat × Nat × Nat) × List Nat) (k : Nat) (hk : Keeps o₀ x.1) : Keeps o₀ (settleLane d x k).1 := by
  obtain ⟨s, ws, bs⟩ := x
  unfold settleLane
  dsimp only at hk ⊢
  split
  · exact keeps_contestLane hk ..
  · split
    · exact hk
    · split
      · exact keeps_giveStart hk ..
      · exact keeps_contestLane hk ..

theorem keeps_withdraw {o₀ s : State} (hk : Keeps o₀ s) (d : Nat) (ws : List (Nat × Nat × Nat)) : Keeps o₀ (withdraw s d ws) := by
  unfold withdraw
  repeat' first | with_reducible (first | assumption | apply keeps_resetAge | refine Keeps.foldl (fun _ _ _ => ?_) ?_) | intro _ | dsimp only

theorem keeps_settleIssue {o₀ s : State} (hk : Keeps o₀ s) (d : Nat) : Keeps o₀ (settleIssue s d) := by
  unfold settleIssue
  extract_lets ws s1
  refine Keeps.ite hk ?_
  have h1 : Keeps o₀ s1 := Keeps.rest hk rfl rfl rfl rfl rfl rfl rfl rfl rfl rfl
  have h2 := keeps_withdraw (keeps_bookedStarts h1 d) d ws
  generalize List.range 16 = l
  generalize withdraw (bookedStarts s1 d) d ws = v at h2
  generalize (bookedNow s d).map (fun i => i.group) = bs
  suffices h : ∀ x : State × List (Nat × Nat × Nat) × List Nat, Keeps o₀ x.1 → Keeps o₀ (l.foldl (settleLane d) x).1 from h _ h2
  induction l with
  | nil => exact fun _ h => h
  | cons a l ih => exact fun x hx => ih _ (keeps_settleLane d x a hx)

theorem keeps_startIns {o₀ s : State} (hk : Keeps o₀ s) (d t : Nat) (w : W64) (corr : Bool) (body : State → Thread → W64 → State) (hf : ∀ u a b, Keeps o₀ u → Keeps o₀ (body u a b)) : Keeps o₀ (startIns s d t w corr body) := by
  unfold startIns
  extract_lets th s1 s2 s3 th1 s4
  refine Keeps.ite (Keeps.ite (keeps_faultThread hk ..) (keeps_setT hk ..)) ?_
  have h1 : Keeps o₀ s1 := Keeps.ite (keeps_raiseErr hk ..) hk
  have h2 : Keeps o₀ s2 := Keeps.ite (keeps_raiseErr h1 ..) h1
  have h4 : Keeps o₀ s4 := keeps_setT (keeps_countInstr h2 ..) ..
  exact Keeps.ite (keeps_faultErr h4 (keeps_raiseErr h4 ..) ..) (Keeps.ite (keeps_faultErr h4 (keeps_raiseErr h4 ..) ..) (hf _ _ _ h4))

theorem keeps_useStart {o₀ s : State} (hk : Keeps o₀ s) (d : Nat) (t : Nat) : Keeps o₀ (useStart s d t) := by
  unfold useStart
  repeat' first | with_reducible (first | assumption) | (with_reducible refine Keeps.lit ?_; dsimp only; with_reducible first | exact Keeps.of hk | refine Keeps.of ?_) | intro _ | dsimp only

theorem keeps_runIns {o₀ s : State} (hk : Keeps o₀ s) (d t op : Nat) (body : State → Thread → W64 → State) (hf : ∀ u a b, Keeps o₀ u → Keeps o₀ (body u a b)) : Keeps o₀ (runIns s d t op body) := by
  unfold runIns
  extract_lets e u u1
  refine Keeps.ite (Keeps.ite (Keeps.ite ?_ (keeps_settleIssue hk ..)) hk) hk
  have h1 : Keeps o₀ u1 := keeps_useStart (keeps_settleIssue hk ..) ..
  split
  · exact keeps_faultErr h1 (keeps_raiseErr h1 ..) ..
  · exact keeps_startIns h1 _ _ _ _ _ hf

theorem keeps_waitRecord {o₀ s : State} (hk : Keeps o₀ s) (d : Nat) (t : Nat) (r : Nat) (two : Bool) (st : TState) : Keeps o₀ (waitRecord s d t r two st) := by
  unfold waitRecord
  repeat' first | with_reducible (first | assumption | apply keeps_modT | refine Keeps.ite ?_ ?_) | (with_reducible refine Keeps.lit ?_; dsimp only; with_reducible first | exact Keeps.of hk | refine Keeps.of ?_) | split | intro _ | dsimp only

theorem keeps_reading {o₀ s : State} (hk : Keeps o₀ s) (d t : Nat) (th : Thread) (a n : Nat) (k : State → State) (hf : ∀ u, Keeps o₀ u → Keeps o₀ (k u)) : Keeps o₀ (reading s d t th a n k) := by
  unfold reading
  split
  · exact keeps_faultErr hk (keeps_sliceUnc hk ..) ..
  · exact hf _ (Keeps.ite (keeps_raiseErr hk ..) hk)

theorem keeps_readingKey {o₀ s : State} (hk : Keeps o₀ s) (d t : Nat) (th : Thread) (p : Nat) (k : State → Key → State) (hf : ∀ u x, Keeps o₀ u → Keeps o₀ (k u x)) : Keeps o₀ (readingKey s d t th p k) := by
  unfold readingKey
  exact keeps_reading hk _ _ _ _ _ _ fun u hu => hf u _ hu

theorem keeps_execCfetch {o₀ s : State} (hk : Keeps o₀ s) (d : Nat) (t : Nat) : KeepsR o₀ (execCfetch d t s) := by
  unfold execCfetch; refine keepsR_next ?_
  repeat' first | with_reducible (first | assumption | apply keeps_faultThread | apply keeps_issueFetch | apply keeps_readingKey | apply keeps_recipeError | apply keeps_runIns | apply keeps_waitRecord | refine Keeps.ite ?_ ?_) | split | intro _ | dsimp only

theorem keeps_execChannelBufWrite {o₀ s : State} (hk : Keeps o₀ s) (d : Nat) (chan : Nat) (val : Nat) : KeepsR o₀ (execChannelBufWrite d chan val s) := by
  unfold execChannelBufWrite; refine keepsR_next ?_
  repeat' first | with_reducible (first | assumption | apply keeps_writeChannel) | dsimp only

theorem keeps_execChannelCfgWrite {o₀ s : State} (hk : Keeps o₀ s) (d : Nat) (chan : Nat) (val : Nat) : KeepsR o₀ (execChannelCfgWrite d chan val s) := by
  unfold execChannelCfgWrite; refine keepsR_next ?_
  repeat' first | with_reducible (first | assumption | apply keeps_writeChannel) | dsimp only

theorem keeps_execChannelReturnDrained {o₀ s : State} (hk : Keeps o₀ s) (chan : Nat) : KeepsR o₀ (execChannelReturnDrained chan s) := by
  unfold execChannelReturnDrained; refine keepsR_next ?_
  repeat' first | with_reducible (first | assumption | apply keeps_setHome | apply keeps_setF | refine Keeps.ite ?_ ?_) | split | intro _ | dsimp only

theorem keeps_startSync {o₀ s : State} (hk : Keeps o₀ s) (d : Nat) : Keeps o₀ (startSync s d) := by
  unfold startSync
  repeat' first | with_reducible (first | assumption | apply keeps_setF) | dsimp only

theorem keeps_execChannelTrained {o₀ s : State} (hk : Keeps o₀ s) (d : Nat) (gib : Nat) : KeepsR o₀ (execChannelTrained d gib s) := by
  unfold execChannelTrained; refine keepsR_next ?_
  repeat' first | with_reducible (first | assumption | apply keeps_setF | apply keeps_startSync | refine Keeps.ite ?_ ?_) | split | dsimp only

theorem keeps_execCheckpointIdleTimeout {o₀ s : State} (hk : Keeps o₀ s) : KeepsR o₀ (execCheckpointIdleTimeout s) := by
  unfold execCheckpointIdleTimeout; refine keepsR_next ?_
  repeat' first | with_reducible (first | assumption | apply keeps_ckptDue | refine Keeps.ite ?_ ?_) | split | dsimp only

theorem keeps_execCheckpointSigned {o₀ s : State} (hk : Keeps o₀ s) : KeepsR o₀ (execCheckpointSigned s) := by
  unfold execCheckpointSigned; refine keepsR_next ?_
  repeat' first | with_reducible (first | assumption | apply keeps_evWrite | apply keeps_random | apply keeps_setF | refine Keeps.of_pair ‹_ = (_, _)› ?_ | refine Keeps.of_snd ‹_ = (_, _)› ?_) | (with_reducible refine Keeps.lit ?_; dsimp only; with_reducible first | exact Keeps.of hk | refine Keeps.of ?_) | split | intro _ | dsimp only

theorem keeps_execCommandComplete {o₀ s : State} (hk : Keeps o₀ s) (cid : Nat) : KeepsR o₀ (execCommandComplete cid s) := by
  unfold execCommandComplete; refine keepsR_next ?_
  repeat' first | with_reducible (first | assumption | apply keeps_applyGap | apply keeps_countCpl | apply keeps_deliverAll | apply keeps_queueMgmt | apply keeps_releaseAfter | refine Keeps.of_pair ‹_ = (_, _)› ?_ | refine Keeps.ite ?_ ?_) | (with_reducible refine Keeps.lit ?_; dsimp only; with_reducible first | exact Keeps.of hk | refine Keeps.of ?_) | split | intro _ | dsimp only

theorem keeps_sendCmd {o₀ s : State} (hk : Keeps o₀ s) (from_ : Nat) (src : Nat) (o : Origin) (e : BitVec 512) (linked : Bool) : Keeps o₀ (sendCmd s from_ src o e linked) := by
  unfold sendCmd
  repeat' first | with_reducible (first | assumption | apply keeps_queueMgmt | refine Keeps.ite ?_ ?_) | (with_reducible refine Keeps.lit ?_; dsimp only; with_reducible first | exact Keeps.of hk | refine Keeps.of ?_) | split | dsimp only

theorem keeps_execCommit {o₀ s : State} (hk : Keeps o₀ s) (d : Nat) (t : Nat) : KeepsR o₀ (execCommit d t s) := by
  unfold execCommit; refine keepsR_next ?_
  repeat' first | with_reducible (first | assumption | apply keeps_closeLink | apply keeps_faultThread | apply keeps_finish | apply keeps_modT | apply keeps_reading | apply keeps_runIns | apply keeps_sendCmd | apply keeps_setT | refine Keeps.of_pair ‹_ = (_, _)› ?_ | refine Keeps.ite ?_ ?_) | (with_reducible refine Keeps.lit ?_; dsimp only; with_reducible first | exact Keeps.of hk | refine Keeps.of ?_) | split | intro _ | dsimp only

theorem keeps_execCompact {o₀ s : State} (hk : Keeps o₀ s) (d : Nat) (cid : Nat) : KeepsR o₀ (execCompact d cid s) := by
  unfold execCompact; refine keepsR_next ?_
  repeat' first | with_reducible (first | assumption | apply keeps_acceptOp) | dsimp only

theorem keeps_execContribTimeout {o₀ s : State} (hk : Keeps o₀ s) (sid : Nat) : KeepsR o₀ (execContribTimeout sid s) := by
  unfold execContribTimeout; refine keepsR_next ?_
  repeat' first | with_reducible (first | assumption | apply keeps_loseBelow) | split | intro _ | dsimp only

theorem keeps_execConventionalReset {o₀ s : State} (hk : Keeps o₀ s) : KeepsR o₀ (execConventionalReset s) := by
  unfold execConventionalReset
  exact keepsR_next ⟨hk.pending, hk.part, hk.svn, hk.revoked, fun _ => ⟨rfl, rfl, rfl, rfl, rfl⟩, hk.tap⟩

theorem keeps_execCqEntryWrite {o₀ s : State} (hk : Keeps o₀ s) (q : Nat) : KeepsR o₀ (execCqEntryWrite q s) := by
  unfold execCqEntryWrite; refine keepsR_next ?_
  repeat' first | with_reducible (first | assumption | apply keeps_sendMsix | apply keeps_emitOut | apply keeps_setF | refine Keeps.ite ?_ ?_) | (with_reducible refine Keeps.lit ?_; dsimp only; with_reducible first | exact Keeps.of hk | refine Keeps.of ?_) | split | intro _ | dsimp only

theorem keeps_execCqHeadDoorbell {o₀ s : State} (hk : Keeps o₀ s) (q : Nat) (val : Nat) : KeepsR o₀ (execCqHeadDoorbell q val s) := by
  unfold execCqHeadDoorbell; refine keepsR_next ?_
  repeat' first | with_reducible (first | assumption | apply keeps_badDoorbell | refine Keeps.ite ?_ ?_) | (with_reducible refine Keeps.lit ?_; dsimp only; with_reducible first | exact Keeps.of hk | refine Keeps.of ?_) | split | intro _ | dsimp only

theorem keeps_execCrRegionWrite {o₀ s : State} (hk : Keeps o₀ s) (n : Nat) : KeepsR o₀ (execCrRegionWrite n s) := by
  unfold execCrRegionWrite; refine keepsR_next ?_
  repeat' first | with_reducible (first | assumption | apply keeps_applyDue) | intro _ | dsimp only

theorem keeps_execDataLinkUp {o₀ s : State} (hk : Keeps o₀ s) (speed : Nat) (width : Nat) : KeepsR o₀ (execDataLinkUp speed width s) := by
  unfold execDataLinkUp; refine keepsR_next ?_
  repeat' first | with_reducible (first | assumption | apply keeps_setF | refine Keeps.ite ?_ ?_) | split | dsimp only

theorem keeps_execDbgAutoRelease {o₀ s : State} (hk : Keeps o₀ s) (d : Nat) (ch : Nat) : KeepsR o₀ (execDbgAutoRelease d ch s) := by
  unfold execDbgAutoRelease; refine keepsR_next ?_
  repeat' first | with_reducible (first | assumption | apply keeps_bump | apply keeps_releaseSlot | apply keeps_raiseErr | refine Keeps.ite ?_ ?_) | split | dsimp only

theorem keeps_execDebugChallenge {o₀ s : State} (hk : Keeps o₀ s) (val : Nat) : KeepsR o₀ (execDebugChallenge val s) := by
  unfold execDebugChallenge; refine keepsR_next ?_
  repeat' first | with_reducible (first | assumption | apply keeps_writeDbgCmd | refine Keeps.ite ?_ ?_) | split | dsimp only

theorem keeps_execDebugChallengeExpire {o₀ s : State} (hk : Keeps o₀ s) : KeepsR o₀ (execDebugChallengeExpire s) := by
  unfold execDebugChallengeExpire; refine keepsR_next ?_
  repeat' first | with_reducible (first | assumption | apply keeps_dropChallenge) | dsimp only

theorem keeps_execDebugResponse {o₀ s : State} (hk : Keeps o₀ s) (val : Nat) : KeepsR o₀ (execDebugResponse val s) := by
  unfold execDebugResponse; refine keepsR_next ?_
  repeat' first | with_reducible (first | assumption | apply keeps_writeDbgCmd | refine Keeps.ite ?_ ?_) | split | dsimp only

theorem keeps_execDelete {o₀ s : State} (hk : Keeps o₀ s) (d : Nat) (cid : Nat) : KeepsR o₀ (execDelete d cid s) := by
  unfold execDelete; refine keepsR_next ?_
  repeat' first | with_reducible (first | assumption | apply keeps_acceptOp) | dsimp only

theorem keeps_failLane {o₀ s : State} (hk : Keeps o₀ s) (i : Nat) (lane : Nat) : Keeps o₀ (failLane s i lane) := by
  unfold failLane
  repeat' first | with_reducible (first | assumption | apply keeps_bump | apply keeps_afterDeparture | apply keeps_takeover | apply keeps_lkpErr | apply keeps_setIfState | refine Keeps.ite ?_ ?_ | refine Keeps.foldl (fun _ _ _ => ?_) ?_) | split | intro _ | dsimp only

theorem keeps_execDiagnosticWord {o₀ s : State} (hk : Keeps o₀ s) (iface : Nat) (lane : Nat) (crcFail : Bool) : KeepsR o₀ (execDiagnosticWord iface lane crcFail s) := by
  unfold execDiagnosticWord; refine keepsR_next ?_
  repeat' first | with_reducible (first | assumption | apply keeps_failLane | apply keeps_bumpSat | apply keeps_lkpErr | refine Keeps.ite ?_ ?_) | (with_reducible refine Keeps.lit ?_; dsimp only; with_reducible first | exact Keeps.of hk | refine Keeps.of ?_) | split | dsimp only

theorem keeps_dieVerified {o₀ s : State} (hk : Keeps o₀ s) (d : Nat) (x : Search) (y : DieSample) : Keeps o₀ (dieVerified s d x y) := by
  unfold dieVerified
  repeat' first | with_reducible (first | assumption | apply keeps_afterVerify | apply keeps_bump | apply keeps_raiseErr | refine Keeps.ite ?_ ?_) | split | dsimp only

theorem keeps_flitSeen {o₀ s : State} (hk : Keeps o₀ s) (d : Nat) (cls : Nat) (flit : Nat) : Keeps o₀ (flitSeen s d cls flit) := by
  unfold flitSeen
  repeat' first | with_reducible (first | assumption | apply keeps_bumpSat | apply keeps_raiseErr | refine Keeps.ite ?_ ?_) | split | dsimp only

theorem keeps_execDieContribution {o₀ s : State} (hk : Keeps o₀ s) (sid : Nat) (a : Arrival) : KeepsR o₀ (execDieContribution sid a s) := by
  unfold execDieContribution; refine keepsR_next ?_
  repeat' first | with_reducible (first | assumption | apply keeps_dieVerified | apply keeps_flitSeen | apply keeps_modSearch | refine Keeps.of_pair ‹_ = (_, _)› ?_ | refine Keeps.ite ?_ ?_) | (with_reducible refine Keeps.lit ?_; dsimp only; with_reducible first | exact Keeps.of hk | refine Keeps.of ?_) | split | intro _ | dsimp only

theorem keeps_execDiePowerGoodLoss {o₀ s : State} (hk : Keeps o₀ s) (d : Nat) : KeepsR o₀ (execDiePowerGoodLoss d s) := by
  unfold execDiePowerGoodLoss; refine keepsR_next ?_
  repeat' first | with_reducible (first | assumption | apply keeps_loseDie | refine Keeps.ite ?_ ?_) | split | dsimp only

theorem keeps_showIdentity {o₀ s : State} (hk : Keeps o₀ s) (pub : Nat) : Keeps o₀ (showIdentity s pub) := by
  unfold showIdentity
  repeat' first | with_reducible (first | assumption | apply keeps_setF | refine Keeps.foldl (fun _ _ _ => ?_) ?_) | intro _ | dsimp only

theorem keeps_startClocks {o₀ s : State} (hk : Keeps o₀ s) (up : Nat) (khz : Nat) : Keeps o₀ (startClocks s up khz) := by
  unfold startClocks
  repeat' first | with_reducible (first | assumption | apply keeps_setF | refine Keeps.foldl (fun _ _ _ => ?_) ?_) | intro _ | dsimp only

theorem keeps_strapped {o₀ s : State} (hk : Keeps o₀ s) (up casc b m : Nat) : Keeps o₀ (strapped s up casc b m) := by
  unfold strapped
  refine ⟨hk.pending, ?_, hk.svn, hk.revoked, hk.arrays, hk.tap⟩
  have h := hk.part
  unfold Part.same at *
  rw [← h]

theorem keeps_leaveReset {o₀ s : State} (hk : Keeps o₀ s) (up : Nat) (casc : Nat) (bootSrc : Nat) (smb : Nat) : Keeps o₀ (leaveReset s up casc bootSrc smb) := by
  unfold leaveReset
  repeat' first | with_reducible (first | assumption | apply keeps_setF | apply keeps_showIdentity | apply keeps_startClocks | apply keeps_strapped) | dsimp only

theorem keeps_execDieResetTimeout {o₀ s : State} (hk : Keeps o₀ s) (good : Nat) (casc : Nat) (bootSrc : Nat) (smb : Nat) : KeepsR o₀ (execDieResetTimeout good casc bootSrc smb s) := by
  unfold execDieResetTimeout; refine keepsR_next ?_
  repeat' first | with_reducible (first | assumption | apply keeps_leaveReset | apply keeps_raiseErr | refine Keeps.ite ?_ ?_ | refine Keeps.foldl (fun _ _ _ => ?_) ?_) | split | intro _ | dsimp only

theorem keeps_execDomainWakeRetry {o₀ s : State} (hk : Keeps o₀ s) (d : Nat) (c : Nat) : KeepsR o₀ (execDomainWakeRetry d c s) := by
  unfold execDomainWakeRetry; refine keepsR_next ?_
  repeat' first | with_reducible (first | assumption | apply keeps_retryWake | refine Keeps.ite ?_ ?_) | split | dsimp only

theorem keeps_execEmit {o₀ s : State} (hk : Keeps o₀ s) (d : Nat) (t : Nat) : KeepsR o₀ (execEmit d t s) := by
  unfold execEmit; refine keepsR_next ?_
  repeat' first | with_reducible (first | assumption | apply keeps_bump | apply keeps_faultThread | apply keeps_finish | apply keeps_formResp | apply keeps_modT | apply keeps_pushNotice | apply keeps_reading | apply keeps_runIns | apply keeps_setT | refine Keeps.ite ?_ ?_) | (with_reducible refine Keeps.lit ?_; dsimp only; with_reducible first | exact Keeps.of hk | refine Keeps.of ?_) | split | intro _ | dsimp only

theorem keeps_execEnd {o₀ s : State} (hk : Keeps o₀ s) (d : Nat) (t : Nat) : KeepsR o₀ (execEnd d t s) := by
  unfold execEnd; refine keepsR_next ?_
  repeat' first | with_reducible (first | assumption | apply keeps_childEnd | apply keeps_endTop | apply keeps_runIns | apply keeps_faultThread | apply keeps_setT | refine Keeps.ite ?_ ?_) | (with_reducible refine Keeps.lit ?_; dsimp only; with_reducible first | exact Keeps.of hk | refine Keeps.of ?_) | split | intro _ | dsimp only

theorem keeps_execEndorse {o₀ s : State} (hk : Keeps o₀ s) : KeepsR o₀ (execEndorse s) := by
  unfold execEndorse; refine keepsR_next ?_
  repeat' first | with_reducible (first | assumption | apply keeps_endorse | refine Keeps.ite ?_ ?_) | split | dsimp only

theorem keeps_execEngineReset {o₀ s : State} (hk : Keeps o₀ s) (val : Nat) : KeepsR o₀ (execEngineReset val s) := by
  unfold execEngineReset; refine keepsR_next ?_
  repeat' first | with_reducible (first | assumption | apply keeps_writeErst | refine Keeps.ite ?_ ?_) | split | dsimp only

theorem keeps_retrainIfs {o₀ s : State} (hk : Keeps o₀ s) : Keeps o₀ (retrainIfs s) := by
  unfold retrainIfs
  repeat' first | with_reducible (first | assumption | apply keeps_setF | refine Keeps.foldl (fun _ _ _ => ?_) ?_) | intro _ | dsimp only

theorem keeps_execEngineResetDone {o₀ s : State} (hk : Keeps o₀ s) : KeepsR o₀ (execEngineResetDone s) := by
  unfold execEngineResetDone; refine keepsR_next ?_
  repeat' first | with_reducible (first | assumption | apply keeps_raiseErr | apply keeps_retrainIfs | apply keeps_setF | apply keeps_unloadImage | refine Keeps.ite ?_ ?_) | ((with_reducible refine Keeps.lit ?_); dsimp only; (try with_reducible (first | refine KeepsF.cache (fun hm => mwf_mset _ _ _ _ hm) ?_ | refine KeepsF.cache (fun hm => mwf_filter _ _ _ hm) ?_ | apply KeepsF.cache (fun _ => mwf_nil _))); with_reducible first | exact Keeps.of hk | refine Keeps.of ?_) | split | intro _ | dsimp only

theorem keeps_execEqHeadDoorbell {o₀ s : State} (hk : Keeps o₀ s) (c : Nat) (val : Nat) : KeepsR o₀ (execEqHeadDoorbell c val s) := by
  unfold execEqHeadDoorbell; refine keepsR_next ?_
  repeat' first | with_reducible (first | assumption | apply keeps_badDoorbell | apply keeps_setF | refine Keeps.ite ?_ ?_) | (with_reducible refine Keeps.lit ?_; dsimp only; with_reducible first | exact Keeps.of hk | refine Keeps.of ?_) | split | dsimp only

theorem keeps_execErrorHandlingEnd {o₀ s : State} (hk : Keeps o₀ s) (d : Nat) (pg : Nat) : KeepsR o₀ (execErrorHandlingEnd d pg s) := by
  unfold execErrorHandlingEnd; refine keepsR_next ?_
  repeat' first | with_reducible (first | assumption | apply keeps_endHandling | refine Keeps.ite ?_ ?_) | split | dsimp only

theorem keeps_execErrorInject {o₀ s : State} (hk : Keeps o₀ s) (d : Nat) (pg : Nat) (bit : Nat) : KeepsR o₀ (execErrorInject d pg bit s) := by
  unfold execErrorInject; refine keepsR_next ?_
  repeat' first | with_reducible (first | assumption | apply keeps_inject | apply keeps_setF | refine Keeps.ite ?_ ?_) | split | dsimp only

theorem keeps_execEventQueueEnable {o₀ s : State} (hk : Keeps o₀ s) (c : Nat) (val : Nat) : KeepsR o₀ (execEventQueueEnable c val s) := by
  unfold execEventQueueEnable; refine keepsR_next ?_
  repeat' first | with_reducible (first | assumption | apply keeps_writeEqCfg | refine Keeps.ite ?_ ?_) | split | dsimp only

theorem keeps_execEventTimeout {o₀ s : State} (hk : Keeps o₀ s) (d : Nat) (t : Nat) : KeepsR o₀ (execEventTimeout d t s) := by
  unfold execEventTimeout; refine keepsR_next ?_
  repeat' first | with_reducible (first | assumption | apply keeps_finish | apply keeps_modCh | apply keeps_quiet | refine Keeps.of_pair ‹_ = (_, _)› ?_ | refine Keeps.ite ?_ ?_) | (with_reducible refine Keeps.lit ?_; dsimp only; with_reducible first | exact Keeps.of hk | refine Keeps.of ?_) | split | intro _ | dsimp only

theorem keeps_execEvidenceDisable {o₀ s : State} (hk : Keeps o₀ s) (val : Nat) : KeepsR o₀ (execEvidenceDisable val s) := by
  unfold execEvidenceDisable; refine keepsR_next ?_
  repeat' first | with_reducible (first | assumption | apply keeps_writeEvdCtl | refine Keeps.ite ?_ ?_) | split | dsimp only

theorem keeps_execEvidenceEnable {o₀ s : State} (hk : Keeps o₀ s) (val : Nat) : KeepsR o₀ (execEvidenceEnable val s) := by
  unfold execEvidenceEnable; refine keepsR_next ?_
  repeat' first | with_reducible (first | assumption | apply keeps_writeEvdCtl | refine Keeps.ite ?_ ?_) | split | dsimp only

theorem keeps_takeEvidence {o₀ s : State} (hk : Keeps o₀ s) (bits : Nat) : Keeps o₀ (takeEvidence s bits) := by
  unfold takeEvidence
  repeat' first | with_reducible (first | assumption | apply keeps_appendRecord | apply keeps_sendEvidence | apply keeps_sendEvidence_loseRecord | refine Keeps.ite ?_ ?_) | (with_reducible refine Keeps.lit ?_; dsimp only; with_reducible first | exact Keeps.of hk | refine Keeps.of ?_) | split | dsimp only

theorem keeps_execEvidenceRecord {o₀ s : State} (hk : Keeps o₀ s) : KeepsR o₀ (execEvidenceRecord s) := by
  unfold execEvidenceRecord; refine keepsR_next ?_
  repeat' first | with_reducible (first | assumption | apply keeps_takeEvidence | refine Keeps.of_pair ‹_ = (_, _)› ?_) | (with_reducible refine Keeps.lit ?_; dsimp only; with_reducible first | exact Keeps.of hk | refine Keeps.of ?_) | split | intro _ | dsimp only

theorem keeps_execFaultNoticeDispatch {o₀ s : State} (hk : Keeps o₀ s) (d : Nat) : KeepsR o₀ (execFaultNoticeDispatch d s) := by
  unfold execFaultNoticeDispatch; refine keepsR_next ?_
  repeat' first | with_reducible (first | assumption | apply keeps_setT | refine Keeps.of_pair ‹_ = (_, _)› ?_ | refine Keeps.ite ?_ ?_) | (with_reducible refine Keeps.lit ?_; dsimp only; with_reducible first | exact Keeps.of hk | refine Keeps.of ?_) | split | dsimp only

theorem keeps_execFillInstall {o₀ s : State} (hk : Keeps o₀ s) (id : Nat) : KeepsR o₀ (execFillInstall id s) := by
  unfold execFillInstall; refine keepsR_next ?_
  repeat' first | with_reducible (first | assumption | apply keeps_setLine | refine Keeps.of_pair ‹_ = (_, _)› ?_ | refine Keeps.ite ?_ ?_) | (with_reducible refine Keeps.lit ?_; dsimp only; with_reducible first | exact Keeps.of hk | refine Keeps.of ?_) | split | intro _ | dsimp only

theorem keeps_execFillLineArrive {o₀ s : State} (hk : Keeps o₀ s) (id : Nat) (ecc : Nat) : KeepsR o₀ (execFillLineArrive id ecc s) := by
  unfold execFillLineArrive; refine keepsR_next ?_
  repeat' first | with_reducible (first | assumption | apply keeps_answerStep | apply keeps_noInstall | apply keeps_readMem | refine Keeps.of_pair ‹_ = (_, _)› ?_ | refine Keeps.ite ?_ ?_ | refine Keeps.foldl (fun _ _ _ => ?_) ?_) | (with_reducible refine Keeps.lit ?_; dsimp only; with_reducible first | exact Keeps.of hk | refine Keeps.of ?_) | split | intro _ | dsimp only

theorem keeps_imgStatus {o₀ s : State} (hk : Keeps o₀ s) (h : BitVec 4096) (st : Nat) : Keeps o₀ (imgStatus s h st) := by
  unfold imgStatus
  repeat' first | with_reducible (first | assumption | apply keeps_fireAlarm | apply keeps_setF | refine Keeps.ite ?_ ?_) | split | dsimp only

theorem keeps_execFlashBoot {o₀ s : State} (hk : Keeps o₀ s) (hdrA : BitVec 4096) (hdrB : BitVec 4096) : KeepsR o₀ (execFlashBoot hdrA hdrB s) := by
  unfold execFlashBoot; refine keepsR_next ?_
  repeat' first | with_reducible (first | assumption | apply keeps_imgStatus | apply keeps_setF | refine Keeps.ite ?_ ?_) | (with_reducible refine Keeps.lit ?_; dsimp only; with_reducible first | exact Keeps.of hk | refine Keeps.of ?_) | split | dsimp only

theorem keeps_resetQueueRegs {o₀ s : State} (hk : Keeps o₀ s) : Keeps o₀ (resetQueueRegs s) := by
  unfold resetQueueRegs
  repeat' first | with_reducible (first | assumption | refine Keeps.ite ?_ ?_) | (with_reducible refine Keeps.lit ?_; dsimp only; with_reducible first | exact Keeps.of hk | refine Keeps.of ?_) | split | intro _ | dsimp only

theorem keeps_endWrite {o₀ s : State} (hk : Keeps o₀ s) : Keeps o₀ (endWrite s) := by
  unfold endWrite
  repeat' first | with_reducible (first | assumption | apply keeps_setF | refine Keeps.ite ?_ ?_) | (with_reducible refine Keeps.lit ?_; dsimp only; with_reducible first | exact Keeps.of hk | refine Keeps.of ?_) | split | dsimp only

theorem keeps_hostReset {o₀ s : State} (hk : Keeps o₀ s) (cause : Nat) : Keeps o₀ (hostReset s cause) := by
  unfold hostReset
  repeat' first | with_reducible (first | assumption | apply keeps_cellarStop | apply keeps_discardNotices | apply keeps_dropHostCmds | apply keeps_endWrite | apply keeps_resetQueueRegs | apply keeps_setF | refine Keeps.ite ?_ ?_) | (with_reducible refine Keeps.lit ?_; dsimp only; with_reducible first | exact Keeps.of hk | refine Keeps.of ?_) | split | dsimp only

theorem keeps_execFlr {o₀ s : State} (hk : Keeps o₀ s) : KeepsR o₀ (execFlr s) := by
  unfold execFlr; refine keepsR_next ?_
  repeat' first | with_reducible (first | assumption | apply keeps_hostReset | apply keeps_raiseErr | refine Keeps.ite ?_ ?_) | split | dsimp only

theorem keeps_startChild {o₀ s : State} (hk : Keeps o₀ s) (d : Nat) (p : Nat) (target : Nat) (rrec : Nat) : Keeps o₀ (startChild s d p target rrec) := by
  unfold startChild
  repeat' first | with_reducible (first | assumption | apply keeps_modT | apply keeps_setT | refine Keeps.of_pair ‹_ = (_, _)› ?_) | (with_reducible refine Keeps.lit ?_; dsimp only; with_reducible first | exact Keeps.of hk | refine Keeps.of ?_) | split | intro _ | dsimp only

theorem keeps_execFork {o₀ s : State} (hk : Keeps o₀ s) (d : Nat) (t : Nat) : KeepsR o₀ (execFork d t s) := by
  unfold execFork; refine keepsR_next ?_
  repeat' first | with_reducible (first | assumption | apply keeps_faultThread | apply keeps_finish | apply keeps_modT | apply keeps_reading | apply keeps_runIns | apply keeps_startChild | refine Keeps.ite ?_ ?_) | (with_reducible refine Keeps.lit ?_; dsimp only; with_reducible first | exact Keeps.of hk | refine Keeps.of ?_) | split | intro _ | dsimp only

theorem keeps_execForkTimeout {o₀ s : State} (hk : Keeps o₀ s) (d : Nat) (t : Nat) : KeepsR o₀ (execForkTimeout d t s) := by
  unfold execForkTimeout; refine keepsR_next ?_
  repeat' first | with_reducible (first | assumption | apply keeps_finish) | (with_reducible refine Keeps.lit ?_; dsimp only; with_reducible first | exact Keeps.of hk | refine Keeps.of ?_) | split | intro _ | dsimp only

theorem keeps_execForkWaitGrant {o₀ s : State} (hk : Keeps o₀ s) (d : Nat) : KeepsR o₀ (execForkWaitGrant d s) := by
  unfold execForkWaitGrant; refine keepsR_next ?_
  repeat' first | with_reducible (first | assumption | apply keeps_finish | apply keeps_startChild | refine Keeps.ite ?_ ?_) | (with_reducible refine Keeps.lit ?_; dsimp only; with_reducible first | exact Keeps.of hk | refine Keeps.of ?_) | split | dsimp only

theorem keeps_execFunctionReady {o₀ s : State} (hk : Keeps o₀ s) : KeepsR o₀ (execFunctionReady s) := by
  unfold execFunctionReady; refine keepsR_next ?_
  repeat' first | with_reducible (first | assumption | refine Keeps.ite ?_ ?_) | (with_reducible refine Keeps.lit ?_; dsimp only; with_reducible first | exact Keeps.of hk | refine Keeps.of ?_) | split | intro _ | dsimp only

theorem keeps_execGenClear {o₀ s : State} (hk : Keeps o₀ s) (d : Nat) (cid : Nat) : KeepsR o₀ (execGenClear d cid s) := by
  unfold execGenClear; refine keepsR_next ?_
  repeat' first | with_reducible (first | assumption | apply keeps_acceptOp) | dsimp only

theorem keeps_execGenFlip {o₀ s : State} (hk : Keeps o₀ s) (d : Nat) (cid : Nat) : KeepsR o₀ (execGenFlip d cid s) := by
  unfold execGenFlip; refine keepsR_next ?_
  repeat' first | with_reducible (first | assumption | apply keeps_acceptOp) | dsimp only

theorem keeps_execGenFlipApply {o₀ s : State} (hk : Keeps o₀ s) (part : Nat) : KeepsR o₀ (execGenFlipApply part s) := by
  unfold execGenFlipApply; refine keepsR_next ?_
  repeat' first | with_reducible (first | assumption | apply keeps_bump | apply keeps_setAll) | (with_reducible refine Keeps.lit ?_; dsimp only; with_reducible first | exact Keeps.of hk | refine Keeps.of ?_) | split | intro _ | dsimp only

theorem keeps_execGoldenReplay {o₀ s : State} (hk : Keeps o₀ s) (val : Nat) : KeepsR o₀ (execGoldenReplay val s) := by
  unfold execGoldenReplay; refine keepsR_next ?_
  repeat' first | with_reducible (first | assumption | apply keeps_writeGr | refine Keeps.ite ?_ ?_) | split | dsimp only

theorem keeps_execGoldenReplayDone {o₀ s : State} (hk : Keeps o₀ s) : KeepsR o₀ (execGoldenReplayDone s) := by
  unfold execGoldenReplayDone; refine keepsR_next ?_
  repeat' first | with_reducible (first | assumption | apply keeps_endGolden | apply keeps_raiseErr | apply keeps_setF | refine Keeps.of_pair ‹_ = (_, _)› ?_ | refine Keeps.ite ?_ ?_ | refine Keeps.foldl (fun _ _ _ => ?_) ?_) | split | intro _ | dsimp only

theorem keeps_runVector {o₀ s : State} (hk : Keeps o₀ s) (g : Golden) (v : List Nat) : Keeps o₀ (runVector s g v) := by
  unfold runVector
  repeat' first | with_reducible (first | assumption | apply keeps_rerr | apply keeps_bump | apply keeps_endGolden | apply keeps_setT | refine Keeps.ite ?_ ?_) | (with_reducible refine Keeps.lit ?_; dsimp only; with_reducible first | exact Keeps.of hk | refine Keeps.of ?_) | split | intro _ | dsimp only

theorem keeps_execGoldenVector {o₀ s : State} (hk : Keeps o₀ s) (data : BitVec 1152) (fail : Bool) : KeepsR o₀ (execGoldenVector data fail s) := by
  unfold execGoldenVector; refine keepsR_next ?_
  repeat' first | with_reducible (first | assumption | apply keeps_endGolden | apply keeps_runVector | refine Keeps.ite ?_ ?_) | split | dsimp only

theorem keeps_execGovernorShortTimeout {o₀ s : State} (hk : Keeps o₀ s) : KeepsR o₀ (execGovernorShortTimeout s) := by
  unfold execGovernorShortTimeout; refine keepsR_next ?_
  repeat' first | with_reducible (first | assumption | apply keeps_setF | apply keeps_raiseErr | refine Keeps.ite ?_ ?_) | split | dsimp only

theorem keeps_execGovernorStep {o₀ s : State} (hk : Keeps o₀ s) (ests : List Nat) (cp : Nat) : KeepsR o₀ (execGovernorStep ests cp s) := by
  unfold execGovernorStep; refine keepsR_next ?_
  repeat' first | with_reducible (first | assumption | apply keeps_applyBlank | apply keeps_setF | refine Keeps.ite ?_ ?_ | refine Keeps.foldl (fun _ _ _ => ?_) ?_) | split | intro _ | dsimp only

theorem keeps_execHaltedBudgetAbort {o₀ s : State} (hk : Keeps o₀ s) (d : Nat) (t : Nat) : KeepsR o₀ (execHaltedBudgetAbort d t s) := by
  unfold execHaltedBudgetAbort; refine keepsR_next ?_
  repeat' first | with_reducible (first | assumption | apply keeps_formResp | apply keeps_modT | apply keeps_raiseErr | refine Keeps.ite ?_ ?_) | (with_reducible refine Keeps.lit ?_; dsimp only; with_reducible first | exact Keeps.of hk | refine Keeps.of ?_) | split | intro _ | dsimp only

theorem keeps_hatchFail {o₀ s : State} (hk : Keeps o₀ s) (code : Nat) : Keeps o₀ (hatchFail s code) := by
  unfold hatchFail
  repeat' first | with_reducible (first | assumption | apply keeps_emitOut) | (with_reducible refine Keeps.lit ?_; dsimp only; with_reducible first | exact Keeps.of hk | refine Keeps.of ?_) | dsimp only

theorem keeps_execHatchAddressMatch {o₀ s : State} (hk : Keeps o₀ s) : KeepsR o₀ (execHatchAddressMatch s) := by
  unfold execHatchAddressMatch; refine keepsR_next ?_
  repeat' first | with_reducible (first | assumption | apply keeps_hatchFail | apply keeps_wakeEvent | refine Keeps.ite ?_ ?_) | (with_reducible refine Keeps.lit ?_; dsimp only; with_reducible first | exact Keeps.of hk | refine Keeps.of ?_) | split | dsimp only

theorem keeps_execHatchLatchRead {o₀ s : State} (hk : Keeps o₀ s) : KeepsR o₀ (execHatchLatchRead s) := by
  unfold execHatchLatchRead; refine keepsR_next ?_
  repeat' first | with_reducible (first | assumption | apply keeps_emitOut | apply keeps_giveRead | refine Keeps.ite ?_ ?_) | (with_reducible refine Keeps.lit ?_; dsimp only; with_reducible first | exact Keeps.of hk | refine Keeps.of ?_) | split | dsimp only

theorem keeps_execHatchWakeFail {o₀ s : State} (hk : Keeps o₀ s) (limit : Bool) : KeepsR o₀ (execHatchWakeFail limit s) := by
  unfold execHatchWakeFail; refine keepsR_next ?_
  repeat' first | with_reducible (first | assumption | apply keeps_hatchFail | refine Keeps.ite ?_ ?_) | split | dsimp only

theorem keeps_execHeartbeatSend {o₀ s : State} (hk : Keeps o₀ s) (d : Nat) : KeepsR o₀ (execHeartbeatSend d s) := by
  unfold execHeartbeatSend; refine keepsR_next ?_
  repeat' first | with_reducible (first | assumption | apply keeps_freeVal | apply keeps_queueCell | refine Keeps.of_pair ‹_ = (_, _)› ?_ | refine Keeps.of_snd ‹_ = (_, _)› ?_ | refine Keeps.ite ?_ ?_) | split | dsimp only

theorem keeps_execHeartbeatTimeout {o₀ s : State} (hk : Keeps o₀ s) (d : Nat) : KeepsR o₀ (execHeartbeatTimeout d s) := by
  unfold execHeartbeatTimeout; refine keepsR_next ?_
  repeat' first | with_reducible (first | assumption | apply keeps_bumpSat | apply keeps_loseDie | refine Keeps.ite ?_ ?_) | split | dsimp only

theorem keeps_execHoldoverExpire {o₀ s : State} (hk : Keeps o₀ s) : KeepsR o₀ (execHoldoverExpire s) := by
  unfold execHoldoverExpire; refine keepsR_next ?_
  repeat' first | with_reducible (first | assumption | apply keeps_raiseErr | refine Keeps.ite ?_ ?_) | (with_reducible refine Keeps.lit ?_; dsimp only; with_reducible first | exact Keeps.of hk | refine Keeps.of ?_) | split | dsimp only

theorem keeps_execHsh {o₀ s : State} (hk : Keeps o₀ s) (d : Nat) (t : Nat) : KeepsR o₀ (execHsh d t s) := by
  unfold execHsh; refine keepsR_next ?_
  repeat' first | with_reducible (first | assumption | apply keeps_finish | apply keeps_runIns | apply keeps_reading | apply keeps_setT | refine Keeps.ite ?_ ?_) | split | intro _ | dsimp only

theorem keeps_refuseCode {o₀ s : State} (hk : Keeps o₀ s) (d : Nat) (c : Nat) (cnt : Fld) (code : Nat) : Keeps o₀ (refuseCode s d c cnt code) := by
  unfold refuseCode
  repeat' first | with_reducible (first | assumption | apply keeps_bumpSat | apply keeps_setF) | dsimp only

theorem keeps_execHysteresisExpire {o₀ s : State} (hk : Keeps o₀ s) (d : Nat) (c : Nat) : KeepsR o₀ (execHysteresisExpire d c s) := by
  unfold execHysteresisExpire; refine keepsR_next ?_
  repeat' first | with_reducible (first | assumption | apply keeps_refuseCode | apply keeps_setPhase | refine Keeps.ite ?_ ?_) | split | dsimp only

theorem keeps_gold {o₀ s : State} (hk : Keeps o₀ s) (v : Nat) : Keeps o₀ { s with goldVec := v } := Keeps.rest hk rfl rfl rfl rfl rfl rfl rfl rfl rfl rfl

theorem keeps_finishLoad {o₀ s : State} (hk : Keeps o₀ s) (c : Contents) : Keeps o₀ (finishLoad s c) := by
  unfold finishLoad
  have h1 := keeps_putImage hk c
  generalize putImage s c = s1 at h1 ⊢
  extract_lets b s0 s2 s3 s4 s5 s6 s7
  have h2 : Keeps o₀ s2 := by
    refine Keeps.foldl (fun v d hv => ?_) h1
    extract_lets u2 u3
    have hu : Keeps o₀ u3 := keeps_setF (keeps_setF (keeps_setF hv ..) ..) ..
    exact Keeps.ite (keeps_setF hu ..) hu
  clear_value s2
  have h3 : Keeps o₀ s3 := by
    refine Keeps.foldl (fun v a hv => ?_) h2
    refine Keeps.foldl (fun v a hv => ?_) hv
    exact keeps_setF hv ..
  clear_value s3
  have h4 : Keeps o₀ s4 := by
    refine Keeps.ite ?_ h3
    refine Keeps.foldl (fun v a hv => ?_) h3
    exact keeps_setCause hv ..
  clear_value s4
  have h5 : Keeps o₀ s5 := by
    refine Keeps.ite ?_ h4
    refine Keeps.foldl (fun v a hv => ?_) h4
    exact keeps_setF hv ..
  clear_value s5
  have h6 : Keeps o₀ s6 := by
    exact keeps_setF (keeps_gold h5 _) ..
  clear_value s6
  have h7 : Keeps o₀ s7 := by
    refine Keeps.foldl (fun v a hv => ?_) h6
    exact keeps_setF hv ..
  clear_value s7
  refine Keeps.foldl (fun v a hv => ?_) h7
  refine Keeps.ite ?_ hv
  refine Keeps.foldl (fun v b hv => ?_) hv
  extract_lets u
  have hu : Keeps o₀ u := Keeps.ite (keeps_setF hv ..) hv
  exact Keeps.ite (keeps_setF hu ..) hu

theorem keeps_startImage {o₀ s : State} (hk : Keeps o₀ s) (h : BitVec 4096) : Keeps o₀ (startImage s h) := by
  unfold startImage
  extract_lets s1 s2 s3
  have h2 : Keeps o₀ s2 := keeps_setF (keeps_setF hk ..) ..
  have h3 : Keeps o₀ s3 := by
    refine ⟨h2.pending, h2.part, Nat.le_trans h2.svn ?_, fun k hk => ?_, h2.arrays, h2.tap⟩
    · show s2.fuseSvn ≤ if imgAdvSvn h then max s2.fuseSvn (min 64 (imgSvn h)) else s2.fuseSvn
      split
      · exact Nat.le_max_left ..
      · exact Nat.le_refl _
    · show (s2.fuseRevoked ||| _).testBit k = true
      rw [Nat.testBit_or, h2.revoked k hk, Bool.true_or]
  exact Keeps.foldl (fun v a hv => keeps_startBsq hv ..) h3

theorem keeps_execImageCheck {o₀ s : State} (hk : Keeps o₀ s) (img : Image) : KeepsR o₀ (execImageCheck img s) := by
  unfold execImageCheck; refine keepsR_next ?_
  repeat' first | with_reducible (first | assumption | apply keeps_checkContents | apply keeps_endLoad | apply keeps_finishLoad | apply keeps_imgStatus | apply keeps_raiseErr | apply keeps_startImage | refine Keeps.of_pair ‹_ = (_, _)› ?_ | refine Keeps.of_snd ‹_ = (_, _)› ?_ | refine Keeps.ite ?_ ?_) | split | dsimp only

theorem keeps_execImageLoadHost {o₀ s : State} (hk : Keeps o₀ s) (val : Nat) : KeepsR o₀ (execImageLoadHost val s) := by
  unfold execImageLoadHost; refine keepsR_next ?_
  repeat' first | with_reducible (first | assumption | apply keeps_writeImgCmd | refine Keeps.ite ?_ ?_) | split | dsimp only

theorem keeps_execIndicatorChange {o₀ s : State} (hk : Keeps o₀ s) (d : Nat) (val : Nat) : KeepsR o₀ (execIndicatorChange d val s) := by
  unfold execIndicatorChange; refine keepsR_next ?_
  repeat' first | with_reducible (first | assumption | apply keeps_writeSite | refine Keeps.ite ?_ ?_) | split | dsimp only

theorem keeps_execIngressRelease {o₀ s : State} (hk : Keeps o₀ s) (iface : Nat) : KeepsR o₀ (execIngressRelease iface s) := by
  unfold execIngressRelease; refine keepsR_next ?_
  repeat' first | with_reducible (first | assumption | apply keeps_bump | apply keeps_modReq | refine Keeps.ite ?_ ?_) | (with_reducible refine Keeps.lit ?_; dsimp only; with_reducible first | exact Keeps.of hk | refine Keeps.of ?_) | split | intro _ | dsimp only

theorem keeps_execInputStuck {o₀ s : State} (hk : Keeps o₀ s) (d : Nat) (pin : Nat) : KeepsR o₀ (execInputStuck d pin s) := by
  unfold execInputStuck; refine keepsR_next ?_
  repeat' first | with_reducible (first | assumption | apply keeps_raiseErr | refine Keeps.ite ?_ ?_) | split | dsimp only

theorem keeps_execInsertShift {o₀ s : State} (hk : Keeps o₀ s) (d : Nat) (cid : Nat) : KeepsR o₀ (execInsertShift d cid s) := by
  unfold execInsertShift; refine keepsR_next ?_
  repeat' first | with_reducible (first | assumption | apply keeps_acceptOp) | dsimp only

theorem keeps_execInterfaceUp {o₀ s : State} (hk : Keeps o₀ s) (iface : Nat) : KeepsR o₀ (execInterfaceUp iface s) := by
  unfold execInterfaceUp; refine keepsR_next ?_
  repeat' first | with_reducible (first | assumption | apply keeps_setIfState | refine Keeps.ite ?_ ?_) | split | dsimp only

theorem keeps_execJoin {o₀ s : State} (hk : Keeps o₀ s) (d : Nat) (t : Nat) : KeepsR o₀ (execJoin d t s) := by
  unfold execJoin; refine keepsR_next ?_
  repeat' first | with_reducible (first | assumption | apply keeps_runIns | apply keeps_faultThread | apply keeps_parentCheck | apply keeps_setT | refine Keeps.ite ?_ ?_) | (with_reducible refine Keeps.lit ?_; dsimp only; with_reducible first | exact Keeps.of hk | refine Keeps.of ?_) | split | intro _ | dsimp only

theorem keeps_execKekWrite {o₀ s : State} (hk : Keeps o₀ s) (k : Nat) (val : Nat) (smbus : Bool) : KeepsR o₀ (execKekWrite k val smbus s) := by
  unfold execKekWrite; refine keepsR_next ?_
  repeat' first | with_reducible (first | assumption | apply keeps_writeKek) | dsimp only

theorem keeps_execKeyClear {o₀ s : State} (hk : Keeps o₀ s) (val : Nat) : KeepsR o₀ (execKeyClear val s) := by
  unfold execKeyClear; refine keepsR_next ?_
  repeat' first | with_reducible (first | assumption | apply keeps_writeKcmd | refine Keeps.ite ?_ ?_) | split | dsimp only

theorem keeps_execKeyLoad {o₀ s : State} (hk : Keeps o₀ s) (val : Nat) : KeepsR o₀ (execKeyLoad val s) := by
  unfold execKeyLoad; refine keepsR_next ?_
  repeat' first | with_reducible (first | assumption | apply keeps_writeKcmd | refine Keeps.ite ?_ ?_) | split | dsimp only

theorem keeps_execLaneFail {o₀ s : State} (hk : Keeps o₀ s) (iface : Nat) (lane : Nat) : KeepsR o₀ (execLaneFail iface lane s) := by
  unfold execLaneFail; refine keepsR_next ?_
  repeat' first | with_reducible (first | assumption | apply keeps_failLane | refine Keeps.ite ?_ ?_) | split | dsimp only

theorem keeps_execLatchingLoRead {o₀ s : State} (hk : Keeps o₀ s) (acc : Nat) (d : Nat) (pg : Nat) (off : Nat) : KeepsR o₀ (execLatchingLoRead acc d pg off s) := by
  unfold execLatchingLoRead; refine keepsR_next ?_
  repeat' first | with_reducible (first | assumption | apply keeps_readSite | apply keeps_giveRead | refine Keeps.ite ?_ ?_) | split | dsimp only

theorem keeps_execLedgerEntryAck {o₀ s : State} (hk : Keeps o₀ s) (id : Nat) : KeepsR o₀ (execLedgerEntryAck id s) := by
  unfold execLedgerEntryAck; refine keepsR_next ?_
  repeat' first | with_reducible (first | assumption | apply keeps_modReq | refine Keeps.ite ?_ ?_) | (with_reducible refine Keeps.lit ?_; dsimp only; with_reducible first | exact Keeps.of hk | refine Keeps.of ?_) | split | intro _ | dsimp only

theorem keeps_execLinkDown {o₀ s : State} (hk : Keeps o₀ s) : KeepsR o₀ (execLinkDown s) := by
  unfold execLinkDown; refine keepsR_next ?_
  repeat' first | with_reducible (first | assumption | apply keeps_setF | apply keeps_hostReset | apply keeps_raiseErr | refine Keeps.ite ?_ ?_) | split | dsimp only

theorem keeps_execLit {o₀ s : State} (hk : Keeps o₀ s) (d : Nat) (t : Nat) : KeepsR o₀ (execLit d t s) := by
  unfold execLit; refine keepsR_next ?_
  repeat' first | with_reducible (first | assumption | apply keeps_finish | apply keeps_runIns | apply keeps_setT) | intro _ | dsimp only

theorem keeps_staleLocal {o₀ s : State} (hk : Keeps o₀ s) (d : Nat) : Keeps o₀ (staleLocal s d) := by
  unfold staleLocal
  repeat' first | with_reducible (first | assumption) | (with_reducible refine Keeps.lit ?_; dsimp only; with_reducible first | exact Keeps.of hk | refine Keeps.of ?_) | intro _ | dsimp only

theorem keeps_execLocalTimeTimeout {o₀ s : State} (hk : Keeps o₀ s) (d : Nat) : KeepsR o₀ (execLocalTimeTimeout d s) := by
  unfold execLocalTimeTimeout; refine keepsR_next ?_
  repeat' first | with_reducible (first | assumption | apply keeps_staleLocal) | dsimp only

theorem keeps_usePort {o₀ s : State} (hk : Keeps o₀ s) (d : Nat) (line : Nat) : Keeps o₀ (usePort s d line) := by
  unfold usePort
  repeat' first | with_reducible (first | assumption) | (with_reducible refine Keeps.lit ?_; dsimp only; with_reducible first | exact Keeps.of hk | refine Keeps.of ?_) | intro _ | dsimp only

theorem keeps_execLockedLineRefetch {o₀ s : State} (hk : Keeps o₀ s) (d : Nat) (line : Nat) (ecc : Nat) : KeepsR o₀ (execLockedLineRefetch d line ecc s) := by
  unfold execLockedLineRefetch; refine keepsR_next ?_
  repeat' first | with_reducible (first | assumption | apply keeps_bump | apply keeps_preloadLine | apply keeps_readMem | apply keeps_usePort | refine Keeps.of_pair ‹_ = (_, _)› ?_ | refine Keeps.ite ?_ ?_) | (with_reducible refine Keeps.lit ?_; dsimp only; with_reducible first | exact Keeps.of hk | refine Keeps.of ?_) | split | intro _ | dsimp only

theorem keeps_execLog {o₀ s : State} (hk : Keeps o₀ s) (d : Nat) (t : Nat) : KeepsR o₀ (execLog d t s) := by
  unfold execLog; refine keepsR_next ?_
  repeat' first | with_reducible (first | assumption | apply keeps_bump | apply keeps_finish | apply keeps_reading | apply keeps_runIns | apply keeps_sendEvidence | refine Keeps.of_pair ‹_ = (_, _)› ?_ | refine Keeps.ite ?_ ?_) | (with_reducible refine Keeps.lit ?_; dsimp only; with_reducible first | exact Keeps.of hk | refine Keeps.of ?_) | split | intro _ | dsimp only

theorem keeps_execLookupBurstReceive {o₀ s : State} (hk : Keeps o₀ s) (iface : Nat) (chan : Nat) (hdr : W64) (payload : BitVec 1024) (len : Nat) (oneBurst : Bool) (crcFail : Bool) : KeepsR o₀ (execLookupBurstReceive iface chan hdr payload len oneBurst crcFail s) := by
  unfold execLookupBurstReceive; refine keepsR_next ?_
  repeat' first | with_reducible (first | assumption | apply keeps_bump | apply keeps_countFmt | apply keeps_lkpErr | refine Keeps.ite ?_ ?_) | (with_reducible refine Keeps.lit ?_; dsimp only; with_reducible first | exact Keeps.of hk | refine Keeps.of ?_) | split | intro _ | dsimp only

theorem keeps_execMbufDrainAccept {o₀ s : State} (hk : Keeps o₀ s) (id : Nat) (crcFail : Bool) : KeepsR o₀ (execMbufDrainAccept id crcFail s) := by
  unfold execMbufDrainAccept; refine keepsR_next ?_
  repeat' first | with_reducible (first | assumption | apply keeps_drainEntry | refine Keeps.of_pair ‹_ = (_, _)› ?_ | refine Keeps.ite ?_ ?_) | split | intro _ | dsimp only

theorem keeps_execMbufDrainStart {o₀ s : State} (hk : Keeps o₀ s) (d : Nat) : KeepsR o₀ (execMbufDrainStart d s) := by
  unfold execMbufDrainStart; refine keepsR_next ?_
  repeat' first | with_reducible (first | assumption | apply keeps_startDrain | refine Keeps.ite ?_ ?_) | split | intro _ | dsimp only

theorem keeps_takeMessage {o₀ s : State} (hk : Keeps o₀ s) (d : Nat) (ch : Nat) : Keeps o₀ (takeMessage s d ch) := by
  unfold takeMessage
  repeat' first | with_reducible (first | assumption | apply keeps_restartWindow | apply keeps_finish | apply keeps_setT | apply keeps_modCh) | (with_reducible refine Keeps.lit ?_; dsimp only; with_reducible first | exact Keeps.of hk | refine Keeps.of ?_) | split | intro _ | dsimp only

theorem keeps_execMessageVisible {o₀ s : State} (hk : Keeps o₀ s) (d : Nat) (ch : Nat) : KeepsR o₀ (execMessageVisible d ch s) := by
  unfold execMessageVisible; refine keepsR_next ?_
  repeat' first | with_reducible (first | assumption | apply keeps_takeMessage | apply keeps_restartWindow | apply keeps_finish | apply keeps_modCh | refine Keeps.ite ?_ ?_) | (with_reducible refine Keeps.lit ?_; dsimp only; with_reducible first | exact Keeps.of hk | refine Keeps.of ?_) | split | intro _ | dsimp only

theorem keeps_takeCell {o₀ s : State} (hk : Keeps o₀ s) (d : Nat) (src : Nat) (cls : Nat) (id : Nat) (flit : Nat) : Keeps o₀ (takeCell s d src cls id flit).1 := by
  unfold takeCell
  repeat' first | with_reducible (first | assumption | apply keeps_flitSeen | refine Keeps.ite ?_ ?_) | (with_reducible refine Keeps.lit ?_; dsimp only; with_reducible first | exact Keeps.of hk | refine Keeps.of ?_) | split | dsimp only

theorem keeps_execMgmtCellarData {o₀ s : State} (hk : Keeps o₀ s) (a : Arrival) : KeepsR o₀ (execMgmtCellarData a s) := by
  unfold execMgmtCellarData; refine keepsR_next ?_
  repeat' first | with_reducible (first | assumption | apply keeps_advanceFetch | apply keeps_dataArrive | apply keeps_modFetch | apply keeps_takeCell | refine Keeps.of_pair ‹_ = (_, _)› ?_ | refine Keeps.ite ?_ ?_) | (with_reducible refine Keeps.lit ?_; dsimp only; with_reducible first | exact Keeps.of hk | refine Keeps.of ?_) | split | intro _ | dsimp only

theorem keeps_execMgmtCommandCompletion {o₀ s : State} (hk : Keeps o₀ s) (a : Arrival) : KeepsR o₀ (execMgmtCommandCompletion a s) := by
  unfold execMgmtCommandCompletion; refine keepsR_next ?_
  repeat' first | with_reducible (first | assumption | apply keeps_deliverAll | apply keeps_takeCell | refine Keeps.of_pair ‹_ = (_, _)› ?_ | refine Keeps.ite ?_ ?_) | (with_reducible refine Keeps.lit ?_; dsimp only; with_reducible first | exact Keeps.of hk | refine Keeps.of ?_) | split | intro _ | dsimp only

theorem keeps_execMgmtDescriptorCopy {o₀ s : State} (hk : Keeps o₀ s) (src : Nat) (a : Arrival) (kind : Nat) (idx : Nat) : KeepsR o₀ (execMgmtDescriptorCopy src a kind idx s) := by
  unfold execMgmtDescriptorCopy; refine keepsR_next ?_
  repeat' first | with_reducible (first | assumption | apply keeps_copyBank | apply keeps_takeCell | refine Keeps.of_pair ‹_ = (_, _)› ?_ | refine Keeps.ite ?_ ?_) | split | dsimp only

theorem keeps_execMgmtFaultReport {o₀ s : State} (hk : Keeps o₀ s) (a : Arrival) : KeepsR o₀ (execMgmtFaultReport a s) := by
  unfold execMgmtFaultReport; refine keepsR_next ?_
  repeat' first | with_reducible (first | assumption | apply keeps_sendMsix | apply keeps_takeCell | refine Keeps.of_pair ‹_ = (_, _)› ?_ | refine Keeps.ite ?_ ?_) | (with_reducible refine Keeps.lit ?_; dsimp only; with_reducible first | exact Keeps.of hk | refine Keeps.of ?_) | split | intro _ | dsimp only

theorem keeps_execMgmtReadCompletion {o₀ s : State} (hk : Keeps o₀ s) (a : Arrival) : KeepsR o₀ (execMgmtReadCompletion a s) := by
  unfold execMgmtReadCompletion; refine keepsR_next ?_
  repeat' first | with_reducible (first | assumption | apply keeps_emitOut | apply keeps_takeCell | refine Keeps.of_pair ‹_ = (_, _)› ?_ | refine Keeps.ite ?_ ?_) | (with_reducible refine Keeps.lit ?_; dsimp only; with_reducible first | exact Keeps.of hk | refine Keeps.of ?_) | split | intro _ | dsimp only

theorem keeps_execMgmtRegRead {o₀ s : State} (hk : Keeps o₀ s) (acc : Nat) (a : Arrival) (off : Nat) (size : Nat) : KeepsR o₀ (execMgmtRegRead acc a off size s) := by
  unfold execMgmtRegRead; refine keepsR_next ?_
  repeat' first | with_reducible (first | assumption | apply keeps_queueMgmt | apply keeps_readSite | apply keeps_takeCell | refine Keeps.of_pair ‹_ = (_, _)› ?_ | refine Keeps.ite ?_ ?_) | (with_reducible refine Keeps.lit ?_; dsimp only; with_reducible first | exact Keeps.of hk | refine Keeps.of ?_) | split | dsimp only

theorem keeps_writeStoreWin {o₀ s : State} (hk : Keeps o₀ s) (d : Nat) (off : Nat) (slots : Nat) (crc : Bool) (f : Bucket → Bucket) : Keeps o₀ (writeStoreWin s d off slots crc f) := by
  unfold writeStoreWin
  repeat' first | with_reducible (first | assumption | apply keeps_drainLine | apply keeps_invAny | apply keeps_memPut | apply keeps_rewritten | refine Keeps.ite ?_ ?_) | split | dsimp only

theorem keeps_execMgmtRegWrite {o₀ s : State} (hk : Keeps o₀ s) (acc : Nat) (a : Arrival) (off : Nat) (size : Nat) (data : Nat) : KeepsR o₀ (execMgmtRegWrite acc a off size data s) := by
  unfold execMgmtRegWrite; refine keepsR_next ?_
  repeat' first | with_reducible (first | assumption | apply keeps_badAccess | apply keeps_slotWrite | apply keeps_swrReject | apply keeps_takeCell | apply keeps_wakeFor | apply keeps_writeAt | apply keeps_writeStoreWin | refine Keeps.of_pair ‹_ = (_, _)› ?_ | refine Keeps.ite ?_ ?_) | split | intro _ | dsimp only

theorem keeps_execMgmtReservedType {o₀ s : State} (hk : Keeps o₀ s) (d : Nat) (dir : Nat) : KeepsR o₀ (execMgmtReservedType d dir s) := by
  unfold execMgmtReservedType; refine keepsR_next ?_
  repeat' first | with_reducible (first | assumption | apply keeps_raiseErr | refine Keeps.ite ?_ ?_) | split | dsimp only

theorem keeps_execMgmtUpdateCommand {o₀ s : State} (hk : Keeps o₀ s) (a : Arrival) : KeepsR o₀ (execMgmtUpdateCommand a s) := by
  unfold execMgmtUpdateCommand; refine keepsR_next ?_
  repeat' first | with_reducible (first | assumption | apply keeps_countCpl | apply keeps_modCmd | apply keeps_releaseAfter | apply keeps_takeCell | refine Keeps.of_pair ‹_ = (_, _)› ?_ | refine Keeps.ite ?_ ?_) | (with_reducible refine Keeps.lit ?_; dsimp only; with_reducible first | exact Keeps.of hk | refine Keeps.of ?_) | split | intro _ | dsimp only

theorem keeps_execMirrorCellReceive {o₀ s : State} (hk : Keeps o₀ s) (a : Arrival) : KeepsR o₀ (execMirrorCellReceive a s) := by
  unfold execMirrorCellReceive; refine keepsR_next ?_
  repeat' first | with_reducible (first | assumption | apply keeps_modCmd | apply keeps_takeCell | refine Keeps.of_pair ‹_ = (_, _)› ?_ | refine Keeps.ite ?_ ?_) | (with_reducible refine Keeps.lit ?_; dsimp only; with_reducible first | exact Keeps.of hk | refine Keeps.of ?_) | split | intro _ | dsimp only

theorem keeps_execModuleCommandComplete {o₀ s : State} (hk : Keeps o₀ s) (d : Nat) : KeepsR o₀ (execModuleCommandComplete d s) := by
  unfold execModuleCommandComplete; refine keepsR_next ?_
  repeat' first | with_reducible (first | assumption | apply keeps_siteEvent | refine Keeps.ite ?_ ?_) | (with_reducible refine Keeps.lit ?_; dsimp only; with_reducible first | exact Keeps.of hk | refine Keeps.of ?_) | split | dsimp only

theorem keeps_moduleFail {o₀ s : State} (hk : Keeps o₀ s) (d : Nat) : Keeps o₀ (moduleFail s d) := by
  unfold moduleFail
  repeat' first | with_reducible (first | assumption | apply keeps_channelDown | apply keeps_passChannels | apply keeps_raiseErr | apply keeps_setF | refine Keeps.ite ?_ ?_) | split | dsimp only

theorem keeps_execModuleFail {o₀ s : State} (hk : Keeps o₀ s) (d : Nat) : KeepsR o₀ (execModuleFail d s) := by
  unfold execModuleFail; refine keepsR_next ?_
  repeat' first | with_reducible (first | assumption | apply keeps_moduleFail | refine Keeps.ite ?_ ?_) | split | dsimp only

theorem keeps_execModulePowerOff {o₀ s : State} (hk : Keeps o₀ s) (d : Nat) (val : Nat) : KeepsR o₀ (execModulePowerOff d val s) := by
  unfold execModulePowerOff; refine keepsR_next ?_
  repeat' first | with_reducible (first | assumption | apply keeps_writeSite | refine Keeps.ite ?_ ?_) | split | dsimp only

theorem keeps_execModulePowerOn {o₀ s : State} (hk : Keeps o₀ s) (d : Nat) (val : Nat) : KeepsR o₀ (execModulePowerOn d val s) := by
  unfold execModulePowerOn; refine keepsR_next ?_
  repeat' first | with_reducible (first | assumption | apply keeps_writeSite | refine Keeps.ite ?_ ?_) | split | dsimp only

theorem keeps_execMove {o₀ s : State} (hk : Keeps o₀ s) (d : Nat) (cid : Nat) : KeepsR o₀ (execMove d cid s) := by
  unfold execMove; refine keepsR_next ?_
  repeat' first | with_reducible (first | assumption | apply keeps_acceptOp) | dsimp only

theorem keeps_execMsixUnmask {o₀ s : State} (hk : Keeps o₀ s) (v : Nat) : KeepsR o₀ (execMsixUnmask v s) := by
  unfold execMsixUnmask; refine keepsR_next ?_
  repeat' first | with_reducible (first | assumption | apply keeps_writeMsixCtl | refine Keeps.ite ?_ ?_) | split | dsimp only

theorem keeps_execNoticeTimeout {o₀ s : State} (hk : Keeps o₀ s) (chan : Nat) : KeepsR o₀ (execNoticeTimeout chan s) := by
  unfold execNoticeTimeout; refine keepsR_next ?_
  repeat' first | with_reducible (first | assumption | apply keeps_dropNotice | refine Keeps.ite ?_ ?_) | split | intro _ | dsimp only

theorem keeps_lostNotices {o₀ s : State} (hk : Keeps o₀ s) : Keeps o₀ (lostNotices s) := by
  unfold lostNotices
  repeat' first | with_reducible (first | assumption | apply keeps_deviceAnswer | refine Keeps.ite ?_ ?_ | refine Keeps.foldl (fun _ _ _ => ?_) ?_) | split | intro _ | dsimp only

theorem keeps_execNoticeWrite {o₀ s : State} (hk : Keeps o₀ s) (chan : Nat) : KeepsR o₀ (execNoticeWrite chan s) := by
  unfold execNoticeWrite; refine keepsR_next ?_
  repeat' first | with_reducible (first | assumption | apply keeps_dropNotice | apply keeps_emitOut | apply keeps_lostNotices | apply keeps_noticeOver | apply keeps_sendMsix | apply keeps_setF | refine Keeps.of_pair ‹_ = (_, _)› ?_ | refine Keeps.ite ?_ ?_) | (with_reducible refine Keeps.lit ?_; dsimp only; with_reducible first | exact Keeps.of hk | refine Keeps.of ?_) | split | intro _ | dsimp only

theorem keeps_missHalf {o₀ s : State} (hk : Keeps o₀ s) : Keeps o₀ (missHalf s) := by
  unfold missHalf
  repeat' first | with_reducible (first | assumption) | (with_reducible refine Keeps.lit ?_; dsimp only; with_reducible first | exact Keeps.of hk | refine Keeps.of ?_) | dsimp only

theorem keeps_packageResult {o₀ s : State} (hk : Keeps o₀ s) (x : Search) : Keeps o₀ (packageResult s x).1 := by
  unfold packageResult
  repeat' first | with_reducible (first | assumption | apply keeps_bump | apply keeps_missHalf | apply keeps_raiseErr | refine Keeps.of_pair ‹_ = (_, _)› ?_ | refine Keeps.ite ?_ ?_) | (with_reducible refine Keeps.lit ?_; dsimp only; with_reducible first | exact Keeps.of hk | refine Keeps.of ?_) | split | intro _ | dsimp only

theorem keeps_emitCells {o₀ s : State} (hk : Keeps o₀ s) (x : Search) (cls : Nat) (ps : List Nat) : Keeps o₀ (emitCells s x cls ps) := by
  unfold emitCells
  repeat' first | with_reducible (first | assumption | apply keeps_emitOut | refine Keeps.ite ?_ ?_ | refine Keeps.foldl (fun _ _ _ => ?_) ?_) | split | intro _ | dsimp only

theorem keeps_emitResult {o₀ s : State} (hk : Keeps o₀ s) (x : Search) : Keeps o₀ (emitResult s x) := by
  unfold emitResult
  repeat' first | with_reducible (first | assumption | apply keeps_emitCells) | dsimp only

theorem keeps_mergedOf {o₀ s : State} (hk : Keeps o₀ s) (x : Search) : Keeps o₀ (mergedOf s x).1 := by
  unfold mergedOf
  repeat' first | with_reducible (first | assumption | apply keeps_packageResult | refine Keeps.of_pair ‹_ = (_, _)› ?_) | (with_reducible refine Keeps.lit ?_; dsimp only; with_reducible first | exact Keeps.of hk | refine Keeps.of ?_) | split | intro _ | dsimp only

theorem keeps_sendUp {o₀ s : State} (hk : Keeps o₀ s) (x : Search) (id : Nat) (c : Contrib) : Keeps o₀ (sendUp s x id c) := by
  unfold sendUp
  repeat' first | with_reducible (first | assumption | apply keeps_dropSearch | apply keeps_emitOut | refine Keeps.ite ?_ ?_) | (with_reducible refine Keeps.lit ?_; dsimp only; with_reducible first | exact Keeps.of hk | refine Keeps.of ?_) | split | dsimp only

theorem keeps_execPackageMerge {o₀ s : State} (hk : Keeps o₀ s) (sid : Nat) : KeepsR o₀ (execPackageMerge sid s) := by
  unfold execPackageMerge; refine keepsR_next ?_
  repeat' first | with_reducible (first | assumption | apply keeps_afterSearch | apply keeps_bump | apply keeps_emitResult | apply keeps_mergedOf | apply keeps_sendUp | refine Keeps.of_pair ‹_ = (_, _)› ?_ | refine Keeps.ite ?_ ?_) | split | intro _ | dsimp only

theorem keeps_execPackageWindowWrite {o₀ s : State} (hk : Keeps o₀ s) (acc : Nat) (off : Nat) (val : Nat) : KeepsR o₀ (execPackageWindowWrite acc off val s) := by
  unfold execPackageWindowWrite; refine keepsR_next ?_
  repeat' first | with_reducible (first | assumption | apply keeps_schedule) | dsimp only

theorem keeps_execPageLock {o₀ s : State} (hk : Keeps o₀ s) (d : Nat) (pg : Nat) : KeepsR o₀ (execPageLock d pg s) := by
  unfold execPageLock; refine keepsR_next ?_
  repeat' first | with_reducible (first | assumption | apply keeps_setF | refine Keeps.ite ?_ ?_) | split | dsimp only

theorem keeps_execPairChannelReturn {o₀ s : State} (hk : Keeps o₀ s) (mask : Nat) : KeepsR o₀ (execPairChannelReturn mask s) := by
  unfold execPairChannelReturn; refine keepsR_next ?_
  repeat' first | with_reducible (first | assumption | apply keeps_startReturn) | dsimp only

theorem keeps_execPairFenceEven {o₀ s : State} (hk : Keeps o₀ s) (p : Nat) : KeepsR o₀ (execPairFenceEven p s) := by
  unfold execPairFenceEven; refine keepsR_next ?_
  repeat' first | with_reducible (first | assumption | apply keeps_fenceMember | refine Keeps.ite ?_ ?_) | split | dsimp only

theorem keeps_execPairFenceOdd {o₀ s : State} (hk : Keeps o₀ s) (p : Nat) : KeepsR o₀ (execPairFenceOdd p s) := by
  unfold execPairFenceOdd; refine keepsR_next ?_
  repeat' first | with_reducible (first | assumption | apply keeps_fenceMember | refine Keeps.ite ?_ ?_) | split | dsimp only

theorem keeps_loseLead {o₀ s : State} (hk : Keeps o₀ s) : Keeps o₀ (loseLead s) := by
  unfold loseLead
  repeat' first | with_reducible (first | assumption | apply keeps_cellarStop | apply keeps_hostReset | apply keeps_setF | apply keeps_staleLocal | refine Keeps.ite ?_ ?_ | refine Keeps.foldl (fun _ _ _ => ?_) ?_) | (with_reducible refine Keeps.lit ?_; dsimp only; with_reducible first | exact Keeps.of hk | refine Keeps.of ?_) | split | intro _ | dsimp only

theorem keeps_refetch {o₀ s : State} (hk : Keeps o₀ s) (o : Origin) : Keeps o₀ (refetch s o) := by
  unfold refetch
  repeat' first | with_reducible (first | assumption | apply keeps_emitOut | refine Keeps.of_pair ‹_ = (_, _)› ?_ | refine Keeps.ite ?_ ?_) | split | dsimp only

theorem keeps_moveCmds {o₀ s : State} (hk : Keeps o₀ s) (d : Nat) : Keeps o₀ (moveCmds s d) := by
  unfold moveCmds
  repeat' first | with_reducible (first | assumption | apply keeps_modReq | apply keeps_refetch | refine Keeps.of_pair ‹_ = (_, _)› ?_ | refine Keeps.ite ?_ ?_ | refine Keeps.foldl (fun _ _ _ => ?_) ?_) | (with_reducible refine Keeps.lit ?_; dsimp only; with_reducible first | exact Keeps.of hk | refine Keeps.of ?_) | split | intro _ | dsimp only

theorem keeps_orphanCmds {o₀ s : State} (hk : Keeps o₀ s) (d : Nat) : Keeps o₀ (orphanCmds s d) := by
  unfold orphanCmds
  repeat' first | with_reducible (first | assumption | refine Keeps.ite ?_ ?_) | (with_reducible refine Keeps.lit ?_; dsimp only; with_reducible first | exact Keeps.of hk | refine Keeps.of ?_) | split | intro _ | dsimp only

theorem keeps_releaseLost {o₀ s : State} (hk : Keeps o₀ s) : Keeps o₀ (releaseLost s) := by
  unfold releaseLost
  repeat' first | with_reducible (first | assumption | apply keeps_tryPlan | refine Keeps.foldl (fun _ _ _ => ?_) ?_) | (with_reducible refine Keeps.lit ?_; dsimp only; with_reducible first | exact Keeps.of hk | refine Keeps.of ?_) | intro _ | dsimp only

theorem keeps_loseMember {o₀ s : State} (hk : Keeps o₀ s) (d st : Nat) : Keeps o₀ (loseMember s d st) := by
  unfold loseMember
  extract_lets p s1 s2 s3 s4 s5 s6 s7 s8 s9 s10 s11
  have h2 : Keeps o₀ s2 := keeps_raiseErr (keeps_setPair (keeps_loseDie hk ..) ..) ..
  clear_value s2
  have h3 : Keeps o₀ s3 := keeps_stopSync (keeps_stopSync (s := { s2 with rejoins := s2.rejoins.filter fun r => r.pair != p }) (Keeps.rest h2 rfl rfl rfl rfl rfl rfl rfl rfl rfl rfl) d) (partner d)
  clear_value s3
  have h5 : Keeps o₀ s5 := keeps_setF (keeps_setF (keeps_copyBusy h3) ..) ..
  clear_value s5
  have h6 : Keeps o₀ s6 := Keeps.rest h5 rfl rfl rfl rfl rfl rfl rfl rfl rfl rfl
  have h7 : Keeps o₀ s7 := by
    refine Keeps.foldl (fun v a hv => ?_) h6
    exact Keeps.ite (keeps_deviceAnswer hv ..) hv
  clear_value s7
  have h9 : Keeps o₀ s9 := keeps_endThreads (keeps_takeover h7 d none false) d
  clear_value s9
  have h10 : Keeps o₀ s10 := Keeps.rest h9 rfl rfl rfl rfl rfl rfl rfl rfl rfl rfl
  have h11 : Keeps o₀ s11 := keeps_releaseLost (keeps_moveCmds (keeps_orphanCmds h10 d) d)
  exact Keeps.ite (keeps_loseLead h11) h11

theorem keeps_execPairMemberLost {o₀ s : State} (hk : Keeps o₀ s) (d : Nat) : KeepsR o₀ (execPairMemberLost d s) := by
  unfold execPairMemberLost; refine keepsR_next ?_
  repeat' first | with_reducible (first | assumption | apply keeps_loseMember | refine Keeps.ite ?_ ?_) | split | dsimp only

theorem keeps_execPairRejoin {o₀ s : State} (hk : Keeps o₀ s) (p : Nat) : KeepsR o₀ (execPairRejoin p s) := by
  unfold execPairRejoin; refine keepsR_next ?_
  repeat' first | with_reducible (first | assumption | apply keeps_startRejoin | refine Keeps.ite ?_ ?_) | split | dsimp only

theorem keeps_reverify {o₀ s : State} (hk : Keeps o₀ s) (c : PairCheck) (d : Nat) (was : W32) : Keeps o₀ (reverify s c d was) := by
  unfold reverify
  repeat' first | with_reducible (first | assumption | apply keeps_markSuspect | apply keeps_queueSuspect | refine Keeps.ite ?_ ?_) | split | dsimp only

theorem keeps_execPairReverify {o₀ s : State} (hk : Keeps o₀ s) : KeepsR o₀ (execPairReverify s) := by
  unfold execPairReverify; refine keepsR_next ?_
  repeat' first | with_reducible (first | assumption | apply keeps_reverify | refine Keeps.of_pair ‹_ = (_, _)› ?_) | (with_reducible refine Keeps.lit ?_; dsimp only; with_reducible first | exact Keeps.of hk | refine Keeps.of ?_) | split | dsimp only

theorem keeps_execPartitionCountSelect {o₀ s : State} (hk : Keeps o₀ s) (d : Nat) (val : Nat) : KeepsR o₀ (execPartitionCountSelect d val s) := by
  unfold execPartitionCountSelect; refine keepsR_next ?_
  repeat' first | with_reducible (first | assumption | apply keeps_writeSelIdx | refine Keeps.ite ?_ ?_) | split | dsimp only

theorem keeps_execPartitionDescWrite {o₀ s : State} (hk : Keeps o₀ s) (n : Nat) : KeepsR o₀ (execPartitionDescWrite n s) := by
  unfold execPartitionDescWrite; refine keepsR_next ?_
  repeat' first | with_reducible (first | assumption | apply keeps_applyDue) | intro _ | dsimp only

theorem keeps_execPatrolScrubRead {o₀ s : State} (hk : Keeps o₀ s) (a : Attempt) (ecc : Nat) : KeepsR o₀ (execPatrolScrubRead a ecc s) := by
  unfold execPatrolScrubRead; refine keepsR_next ?_
  repeat' first | with_reducible (first | assumption | apply keeps_invAny | apply keeps_memPut | apply keeps_readMem | apply keeps_setF | apply keeps_unreadable | (refine keeps_useGrant ?_ _ _ _ _ ‹_ = some _›) | refine Keeps.of_pair ‹_ = (_, _)› ?_ | refine Keeps.ite ?_ ?_) | (with_reducible refine Keeps.lit ?_; dsimp only; with_reducible first | exact Keeps.of hk | refine Keeps.of ?_) | split | dsimp only

theorem keeps_fetchFail {o₀ s : State} (hk : Keeps o₀ s) (q : Nat) : Keeps o₀ (fetchFail s q) := by
  unfold fetchFail
  repeat' first | with_reducible (first | assumption | apply keeps_endFetch | apply keeps_setF | apply keeps_raiseErr | refine Keeps.ite ?_ ?_) | split | dsimp only

theorem keeps_execPcieCompletionTimeout {o₀ s : State} (hk : Keeps o₀ s) (kind : Nat) (id : Nat) : KeepsR o₀ (execPcieCompletionTimeout kind id s) := by
  unfold execPcieCompletionTimeout; refine keepsR_next ?_
  repeat' first | with_reducible (first | assumption | apply keeps_advanceFetches | apply keeps_fetchFail | apply keeps_modCmd | apply keeps_readFail | refine Keeps.of_pair ‹_ = (_, _)› ?_ | refine Keeps.ite ?_ ?_) | (with_reducible refine Keeps.lit ?_; dsimp only; with_reducible first | exact Keeps.of hk | refine Keeps.of ?_) | split | intro _ | dsimp only

theorem keeps_peerReject {o₀ s : State} (hk : Keeps o₀ s) (cause : Nat) : Keeps o₀ (peerReject s cause) := by
  unfold peerReject
  repeat' first | with_reducible (first | assumption | apply keeps_bumpSat | apply keeps_setF) | dsimp only

theorem keeps_execPeerBadWrite {o₀ s : State} (hk : Keeps o₀ s) (off : Nat) (len : Nat) : KeepsR o₀ (execPeerBadWrite off len s) := by
  unfold execPeerBadWrite; refine keepsR_next ?_
  repeat' first | with_reducible (first | assumption | apply keeps_peerReject | apply keeps_raiseErr | refine Keeps.ite ?_ ?_) | split | dsimp only

theorem keeps_execPeerCommandDispatch {o₀ s : State} (hk : Keeps o₀ s) (w : Nat) : KeepsR o₀ (execPeerCommandDispatch w s) := by
  unfold execPeerCommandDispatch; refine keepsR_next ?_
  repeat' first | with_reducible (first | assumption | apply keeps_sendCmd | refine Keeps.ite ?_ ?_) | (with_reducible refine Keeps.lit ?_; dsimp only; with_reducible first | exact Keeps.of hk | refine Keeps.of ?_) | split | intro _ | dsimp only

theorem keeps_execPeerCommandWrite {o₀ s : State} (hk : Keeps o₀ s) (off : Nat) (data : BitVec 512) : KeepsR o₀ (execPeerCommandWrite off data s) := by
  unfold execPeerCommandWrite; refine keepsR_next ?_
  repeat' first | with_reducible (first | assumption | refine Keeps.ite ?_ ?_) | (with_reducible refine Keeps.lit ?_; dsimp only; with_reducible first | exact Keeps.of hk | refine Keeps.of ?_) | split | dsimp only

theorem keeps_execPeerSlotWrite {o₀ s : State} (hk : Keeps o₀ s) (off : Nat) (data : BitVec 512) : KeepsR o₀ (execPeerSlotWrite off data s) := by
  unfold execPeerSlotWrite; refine keepsR_next ?_
  repeat' first | with_reducible (first | assumption | apply keeps_slotWrite | refine Keeps.ite ?_ ?_) | split | dsimp only

theorem keeps_execPeerUnmatchedWrite {o₀ s : State} (hk : Keeps o₀ s) (off : Nat) : KeepsR o₀ (execPeerUnmatchedWrite off s) := by
  unfold execPeerUnmatchedWrite; refine keepsR_next ?_
  repeat' first | with_reducible (first | assumption | apply keeps_peerReject | apply keeps_emitOut | apply keeps_raiseErr | refine Keeps.ite ?_ ?_) | split | dsimp only

theorem keeps_execPeerWindowCommit {o₀ s : State} (hk : Keeps o₀ s) : KeepsR o₀ (execPeerWindowCommit s) := by
  unfold execPeerWindowCommit; refine keepsR_next ?_
  repeat' first | with_reducible (first | assumption | apply keeps_commitWindows | refine Keeps.ite ?_ ?_) | split | dsimp only

theorem keeps_execPllLock {o₀ s : State} (hk : Keeps o₀ s) (d : Nat) : KeepsR o₀ (execPllLock d s) := by
  unfold execPllLock; refine keepsR_next ?_
  repeat' first | with_reducible (first | assumption | apply keeps_setF | refine Keeps.ite ?_ ?_) | split | dsimp only

theorem keeps_execPllLockLoss {o₀ s : State} (hk : Keeps o₀ s) (d : Nat) : KeepsR o₀ (execPllLockLoss d s) := by
  unfold execPllLockLoss; refine keepsR_next ?_
  repeat' first | with_reducible (first | assumption | apply keeps_bumpSat | apply keeps_setF | apply keeps_raiseErr | refine Keeps.ite ?_ ?_) | split | dsimp only

theorem keeps_execPowerDomainSelect {o₀ s : State} (hk : Keeps o₀ s) (d : Nat) (val : Nat) : KeepsR o₀ (execPowerDomainSelect d val s) := by
  unfold execPowerDomainSelect; refine keepsR_next ?_
  repeat' first | with_reducible (first | assumption | apply keeps_writeDsel | refine Keeps.ite ?_ ?_) | split | dsimp only

theorem keeps_resetPages {o₀ s : State} (hk : Keeps o₀ s) (d : Nat) (pgs : List Nat) (from_ : Nat) : Keeps o₀ (resetPages s d pgs from_) := by
  unfold resetPages
  repeat' first | with_reducible (first | assumption) | (with_reducible refine Keeps.lit ?_; dsimp only; with_reducible first | exact Keeps.of hk | refine Keeps.of ?_) | intro _ | dsimp only

theorem keeps_loseContents {o₀ s : State} (hk : Keeps o₀ s) (d : Nat) (c : Nat) : Keeps o₀ (loseContents s d c) := by
  unfold loseContents
  repeat' first | with_reducible (first | assumption | apply keeps_resetPages | apply keeps_setF | refine Keeps.of_pair ‹_ = (_, _)› ?_ | refine Keeps.ite ?_ ?_) | ((with_reducible refine Keeps.lit ?_); dsimp only; (try with_reducible (first | refine KeepsF.rows (fun hm => mwf_mset _ _ _ _ hm) ?_ | refine KeepsF.rows (fun hm => mwf_filter _ _ _ hm) ?_ | apply KeepsF.rows (fun _ => mwf_nil _))); (try with_reducible (first | refine KeepsF.recipe (fun hm => mwf_mset _ _ _ _ hm) ?_ | refine KeepsF.recipe (fun hm => mwf_filter _ _ _ hm) ?_ | apply KeepsF.recipe (fun _ => mwf_nil _) | refine KeepsF.foldlRecipe (fun _ _ hm => mwf_mset _ _ _ _ hm) _ ?_)); (try with_reducible (first | refine KeepsF.cache (fun hm => mwf_mset _ _ _ _ hm) ?_ | refine KeepsF.cache (fun hm => mwf_filter _ _ _ hm) ?_ | apply KeepsF.cache (fun _ => mwf_nil _))); (try with_reducible (first | refine KeepsF.threads (fun hm => mwf_mset _ _ _ _ hm) ?_ | refine KeepsF.threads (fun hm => mwf_filter _ _ _ hm) ?_ | apply KeepsF.threads (fun _ => mwf_nil _) | refine KeepsF.foldlThreads (fun _ _ hm => mwf_mmod _ _ _ _ hm) _ ?_)); with_reducible first | exact Keeps.of hk | refine Keeps.of ?_) | split | intro _ | dsimp only

theorem keeps_reachLow {o₀ s : State} (hk : Keeps o₀ s) (d : Nat) (c : Nat) (low : Nat) : Keeps o₀ (reachLow s d c low) := by
  unfold reachLow
  repeat' first | with_reducible (first | assumption | apply keeps_loseContents | apply keeps_staleLocal | apply keeps_setPhase | apply keeps_rebase | refine Keeps.ite ?_ ?_) | split | dsimp only

theorem keeps_execPowerEntryStep {o₀ s : State} (hk : Keeps o₀ s) (d : Nat) (c : Nat) : KeepsR o₀ (execPowerEntryStep d c s) := by
  unfold execPowerEntryStep; refine keepsR_next ?_
  repeat' first | with_reducible (first | assumption | apply keeps_reachLow | apply keeps_refuseCode | apply keeps_stopPll | apply keeps_setPhase | apply keeps_startWake | refine Keeps.ite ?_ ?_) | split | dsimp only

theorem keeps_execPowerWakeStep {o₀ s : State} (hk : Keeps o₀ s) (d : Nat) (c : Nat) : KeepsR o₀ (execPowerWakeStep d c s) := by
  unfold execPowerWakeStep; refine keepsR_next ?_
  repeat' first | with_reducible (first | assumption | apply keeps_cpOn | apply keeps_setPhase | apply keeps_setF | refine Keeps.ite ?_ ?_) | split | dsimp only

theorem keeps_ignoreEdge {o₀ s : State} (hk : Keeps o₀ s) : Keeps o₀ (ignoreEdge s) := by
  unfold ignoreEdge
  repeat' first | with_reducible (first | assumption | apply keeps_bumpSat) | dsimp only

theorem keeps_execPpsEdge {o₀ s : State} (hk : Keeps o₀ s) (idle : Bool) : KeepsR o₀ (execPpsEdge idle s) := by
  unfold execPpsEdge; refine keepsR_next ?_
  repeat' first | with_reducible (first | assumption | apply keeps_ignoreEdge | apply keeps_acceptEdge | apply keeps_setF | apply keeps_raiseErr | refine Keeps.ite ?_ ?_) | split | dsimp only

theorem keeps_holdover {o₀ s : State} (hk : Keeps o₀ s) : Keeps o₀ (holdover s) := by
  unfold holdover
  repeat' first | with_reducible (first | assumption | apply keeps_setSync | refine Keeps.ite ?_ ?_) | (with_reducible refine Keeps.lit ?_; dsimp only; with_reducible first | exact Keeps.of hk | refine Keeps.of ?_) | split | dsimp only

theorem keeps_execPpsMissingTimeout {o₀ s : State} (hk : Keeps o₀ s) : KeepsR o₀ (execPpsMissingTimeout s) := by
  unfold execPpsMissingTimeout; refine keepsR_next ?_
  repeat' first | with_reducible (first | assumption | apply keeps_holdover | apply keeps_raiseErr | refine Keeps.ite ?_ ?_) | split | dsimp only

theorem keeps_execPpsStuckTimeout {o₀ s : State} (hk : Keeps o₀ s) : KeepsR o₀ (execPpsStuckTimeout s) := by
  unfold execPpsStuckTimeout; refine keepsR_next ?_
  repeat' first | with_reducible (first | assumption | apply keeps_setF | apply keeps_holdover | apply keeps_raiseErr | refine Keeps.ite ?_ ?_) | split | dsimp only

theorem keeps_surpriseRemoval {o₀ s : State} (hk : Keeps o₀ s) (d : Nat) : Keeps o₀ (surpriseRemoval s d) := by
  unfold surpriseRemoval
  repeat' first | with_reducible (first | assumption | apply keeps_bumpSat | apply keeps_loseStore | apply keeps_moduleFail | apply keeps_raiseErr | apply keeps_setF) | (with_reducible refine Keeps.lit ?_; dsimp only; with_reducible first | exact Keeps.of hk | refine Keeps.of ?_) | dsimp only

theorem keeps_execPresenceChange {o₀ s : State} (hk : Keeps o₀ s) (d : Nat) (here : Bool) : KeepsR o₀ (execPresenceChange d here s) := by
  unfold execPresenceChange; refine keepsR_next ?_
  repeat' first | with_reducible (first | assumption | apply keeps_setF | apply keeps_siteEvent | apply keeps_surpriseRemoval | refine Keeps.ite ?_ ?_) | split | dsimp only

theorem keeps_badPart {o₀ s : State} (hk : Keeps o₀ s) (d : Nat) (t : Nat) : Keeps o₀ (badPart s d t) := by
  unfold badPart
  repeat' first | with_reducible (first | assumption | apply keeps_recipeError | apply keeps_waitResolve | refine Keeps.ite ?_ ?_) | split | dsimp only

theorem keeps_faultIns {o₀ s : State} (hk : Keeps o₀ s) (d : Nat) (t : Nat) (cause : Nat) (code : Nat) : Keeps o₀ (faultIns s d t cause code) := by
  unfold faultIns
  repeat' first | with_reducible (first | assumption | apply keeps_faultErr) | dsimp only

theorem keeps_execProbe {o₀ s : State} (hk : Keeps o₀ s) (d : Nat) (t : Nat) : KeepsR o₀ (execProbe d t s) := by
  unfold execProbe; refine keepsR_next ?_
  repeat' first | with_reducible (first | assumption | apply keeps_badPart | apply keeps_faultIns | apply keeps_issueStep | apply keeps_modT | apply keeps_readingKey | apply keeps_runIns | apply keeps_waitRecord | refine Keeps.ite ?_ ?_) | (with_reducible refine Keeps.lit ?_; dsimp only; with_reducible first | exact Keeps.of hk | refine Keeps.of ?_) | split | intro _ | dsimp only

theorem keeps_promote {o₀ s : State} (hk : Keeps o₀ s) (p : Promo) (crc : Bool) : Keeps o₀ (promote s p crc) := by
  unfold promote
  repeat' first | with_reducible (first | assumption | apply keeps_bump | apply keeps_bumpSat | apply keeps_drainLines | apply keeps_putBucket | apply keeps_takeBucket | refine Keeps.of_pair ‹_ = (_, _)› ?_ | refine Keeps.ite ?_ ?_) | split | intro _ | dsimp only

theorem keeps_nameLock {o₀ s : State} (hk : Keeps o₀ s) (d : Nat) (lines : List Nat) : Keeps o₀ (nameLock s d lines) := by
  unfold nameLock
  repeat' first | with_reducible (first | assumption) | (with_reducible refine Keeps.lit ?_; dsimp only; with_reducible first | exact Keeps.of hk | refine Keeps.of ?_) | intro _ | dsimp only

theorem keeps_execPromotion {o₀ s : State} (hk : Keeps o₀ s) (a : Attempt) : KeepsR o₀ (execPromotion a s) := by
  unfold execPromotion; refine keepsR_next ?_
  repeat' first | with_reducible (first | assumption | apply keeps_nameLock | apply keeps_promote | (refine keeps_useLock ?_ _ _ _ _ _ ‹_ = some _›) | refine Keeps.of_pair ‹_ = (_, _)› ?_ | refine Keeps.ite ?_ ?_) | (with_reducible refine Keeps.lit ?_; dsimp only; with_reducible first | exact Keeps.of hk | refine Keeps.of ?_) | split | intro _ | dsimp only

theorem keeps_execQuarantineExpire {o₀ s : State} (hk : Keeps o₀ s) : KeepsR o₀ (execQuarantineExpire s) := by
  unfold execQuarantineExpire; refine keepsR_next ?_
  repeat' first | with_reducible (first | assumption | apply keeps_advanceFetches | apply keeps_setF | refine Keeps.ite ?_ ?_) | (with_reducible refine Keeps.lit ?_; dsimp only; with_reducible first | exact Keeps.of hk | refine Keeps.of ?_) | split | dsimp only

theorem keeps_execQueueEnable {o₀ s : State} (hk : Keeps o₀ s) (q : Nat) (val : Nat) : KeepsR o₀ (execQueueEnable q val s) := by
  unfold execQueueEnable; refine keepsR_next ?_
  repeat' first | with_reducible (first | assumption | apply keeps_writeQCfg | refine Keeps.ite ?_ ?_) | split | dsimp only

theorem keeps_execQuiesceFire {o₀ s : State} (hk : Keeps o₀ s) (d : Nat) : KeepsR o₀ (execQuiesceFire d s) := by
  unfold execQuiesceFire; refine keepsR_next ?_
  repeat' first | with_reducible (first | assumption | apply keeps_detectorNotice | apply keeps_bumpSat | apply keeps_raiseErr | refine Keeps.ite ?_ ?_) | (with_reducible refine Keeps.lit ?_; dsimp only; with_reducible first | exact Keeps.of hk | refine Keeps.of ?_) | split | dsimp only

theorem keeps_quiesceEnd {o₀ s : State} (hk : Keeps o₀ s) (d : Nat) (t : Nat) : Keeps o₀ (quiesceEnd s d t) := by
  unfold quiesceEnd
  repeat' first | with_reducible (first | assumption | apply keeps_childEnd | apply keeps_orphanKids | apply keeps_freeT | refine Keeps.ite ?_ ?_) | split | dsimp only

theorem keeps_execQuiesceKill {o₀ s : State} (hk : Keeps o₀ s) (d : Nat) : KeepsR o₀ (execQuiesceKill d s) := by
  unfold execQuiesceKill; refine keepsR_next ?_
  repeat' first | with_reducible (first | assumption | apply keeps_detectorNotice | apply keeps_restartWindow | apply keeps_bumpSat | apply keeps_deviceAnswer | apply keeps_quiesceEnd | apply keeps_raiseErr | refine Keeps.ite ?_ ?_ | refine Keeps.foldl (fun _ _ _ => ?_) ?_) | split | intro _ | dsimp only

theorem keeps_execRecipeWindowRead {o₀ s : State} (hk : Keeps o₀ s) (acc : Nat) (d : Nat) (off : Nat) (size : Nat) : KeepsR o₀ (execRecipeWindowRead acc d off size s) := by
  unfold execRecipeWindowRead; refine keepsR_next ?_
  repeat' first | with_reducible (first | assumption | apply keeps_readRecipe | apply keeps_giveRead) | dsimp only

theorem keeps_execRecipeWordRestore {o₀ s : State} (hk : Keeps o₀ s) (d : Nat) (addr : Nat) : KeepsR o₀ (execRecipeWordRestore d addr s) := by
  unfold execRecipeWordRestore; refine keepsR_next ?_
  repeat' first | with_reducible (first | assumption | apply keeps_restoreWord) | dsimp only

theorem keeps_execRefSelectChange {o₀ s : State} (hk : Keeps o₀ s) (val : Nat) : KeepsR o₀ (execRefSelectChange val s) := by
  unfold execRefSelectChange; refine keepsR_next ?_
  repeat' first | with_reducible (first | assumption | apply keeps_writeClkCtl | refine Keeps.ite ?_ ?_) | split | dsimp only

theorem keeps_measured {o₀ s : State} (hk : Keeps o₀ s) (d : Nat) (khz : Nat) : Keeps o₀ (measured s d khz) := by
  unfold measured
  repeat' first | with_reducible (first | assumption | apply keeps_setF) | dsimp only

theorem keeps_execReferenceBad {o₀ s : State} (hk : Keeps o₀ s) (a : Reading) : KeepsR o₀ (execReferenceBad a s) := by
  unfold execReferenceBad; refine keepsR_next ?_
  repeat' first | with_reducible (first | assumption | apply keeps_fireAlarm | apply keeps_measured | apply keeps_raiseErr | refine Keeps.ite ?_ ?_) | split | dsimp only

theorem keeps_execRegionOffline {o₀ s : State} (hk : Keeps o₀ s) (val : Nat) : KeepsR o₀ (execRegionOffline val s) := by
  unfold execRegionOffline; refine keepsR_next ?_
  repeat' first | with_reducible (first | assumption | apply keeps_writeRgnOn | refine Keeps.ite ?_ ?_) | split | dsimp only

theorem keeps_execRegionOnline {o₀ s : State} (hk : Keeps o₀ s) (val : Nat) : KeepsR o₀ (execRegionOnline val s) := by
  unfold execRegionOnline; refine keepsR_next ?_
  repeat' first | with_reducible (first | assumption | apply keeps_writeRgnOn | refine Keeps.ite ?_ ?_) | split | dsimp only

theorem keeps_execRegisterWrite {o₀ s : State} (hk : Keeps o₀ s) (acc : Nat) (d : Nat) (pg : Nat) (off : Nat) (val : Nat) : KeepsR o₀ (execRegisterWrite acc d pg off val s) := by
  unfold execRegisterWrite; refine keepsR_next ?_
  repeat' first | with_reducible (first | assumption | apply keeps_writeAt | refine Keeps.ite ?_ ?_) | split | dsimp only

theorem keeps_execRejoinCheckExpire {o₀ s : State} (hk : Keeps o₀ s) (p : Nat) : KeepsR o₀ (execRejoinCheckExpire p s) := by
  unfold execRejoinCheckExpire; refine keepsR_next ?_
  repeat' first | with_reducible (first | assumption | apply keeps_setF | apply keeps_setPair | refine Keeps.ite ?_ ?_) | (with_reducible refine Keeps.lit ?_; dsimp only; with_reducible first | exact Keeps.of hk | refine Keeps.of ?_) | split | intro _ | dsimp only

theorem keeps_endCopy {o₀ s : State} (hk : Keeps o₀ s) (p : Nat) (r : Rejoin) : Keeps o₀ (endCopy s p r) := by
  unfold endCopy
  repeat' first | with_reducible (first | assumption | apply keeps_copyBusy | apply keeps_copyDescs | apply keeps_setPair | apply keeps_startSync | refine Keeps.ite ?_ ?_) | (with_reducible refine Keeps.lit ?_; dsimp only; with_reducible first | exact Keeps.of hk | refine Keeps.of ?_) | split | intro _ | dsimp only

theorem keeps_execRejoinCopyDone {o₀ s : State} (hk : Keeps o₀ s) (c : Progress) : KeepsR o₀ (execRejoinCopyDone c s) := by
  unfold execRejoinCopyDone; refine keepsR_next ?_
  repeat' first | with_reducible (first | assumption | apply keeps_bump | apply keeps_copyRows | apply keeps_endCopy | refine Keeps.of_pair ‹_ = (_, _)› ?_ | refine Keeps.ite ?_ ?_) | (with_reducible refine Keeps.lit ?_; dsimp only; with_reducible first | exact Keeps.of hk | refine Keeps.of ?_) | split | intro _ | dsimp only

theorem keeps_execResetRelease {o₀ s : State} (hk : Keeps o₀ s) (good : Nat) (casc : Nat) (bootSrc : Nat) (smb : Nat) : KeepsR o₀ (execResetRelease good casc bootSrc smb s) := by
  unfold execResetRelease; refine keepsR_next ?_
  repeat' first | with_reducible (first | assumption | apply keeps_leaveReset | refine Keeps.ite ?_ ?_) | split | dsimp only

theorem keeps_leaveBuf {o₀ s : State} (hk : Keeps o₀ s) (r : Req) (n : Nat) : Keeps o₀ (leaveBuf s r n) := by
  unfold leaveBuf
  repeat' first | with_reducible (first | assumption | refine Keeps.of_pair ‹_ = (_, _)› ?_) | (with_reducible refine Keeps.lit ?_; dsimp only; with_reducible first | exact Keeps.of hk | refine Keeps.of ?_) | split | intro _ | dsimp only

theorem keeps_sendResp {o₀ s : State} (hk : Keeps o₀ s) (r : Req) (x : Resp) (ts : Bool) (two : Bool) (booked : Bool) : Keeps o₀ (sendResp s r x ts two booked) := by
  unfold sendResp
  repeat' first | with_reducible (first | assumption | apply keeps_afterDeparture | apply keeps_bump | apply keeps_bumpSat | apply keeps_emitOut | apply keeps_leaveBuf | apply keeps_setF | refine Keeps.ite ?_ ?_) | (with_reducible refine Keeps.lit ?_; dsimp only; with_reducible first | exact Keeps.of hk | refine Keeps.of ?_) | split | intro _ | dsimp only

theorem keeps_execResponseDeparture {o₀ s : State} (hk : Keeps o₀ s) (id : Nat) : KeepsR o₀ (execResponseDeparture id s) := by
  unfold execResponseDeparture; refine keepsR_next ?_
  repeat' first | with_reducible (first | assumption | apply keeps_bump | apply keeps_afterDeparture | apply keeps_sendResp | apply keeps_bumpSat | apply keeps_lkpErr | refine Keeps.ite ?_ ?_) | split | dsimp only

theorem keeps_execRingPathFault {o₀ s : State} (hk : Keeps o₀ s) (d : Nat) (dir : Nat) (sids : List Nat) : KeepsR o₀ (execRingPathFault d dir sids s) := by
  unfold execRingPathFault; refine keepsR_next ?_
  repeat' first | with_reducible (first | assumption | apply keeps_bumpSat | apply keeps_setF | apply keeps_raiseErr | refine Keeps.ite ?_ ?_) | (with_reducible refine Keeps.lit ?_; dsimp only; with_reducible first | exact Keeps.of hk | refine Keeps.of ?_) | split | intro _ | dsimp only

theorem keeps_dropRecord {o₀ s : State} (hk : Keeps o₀ s) (a : Arrival) : Keeps o₀ (dropRecord s a) := by
  unfold dropRecord
  repeat' first | with_reducible (first | assumption | apply keeps_flitSeen | refine Keeps.of_pair ‹_ = (_, _)› ?_ | refine Keeps.ite ?_ ?_) | (with_reducible refine Keeps.lit ?_; dsimp only; with_reducible first | exact Keeps.of hk | refine Keeps.of ?_) | split | dsimp only

theorem keeps_execRingResendTimeout {o₀ s : State} (hk : Keeps o₀ s) (a : Arrival) : KeepsR o₀ (execRingResendTimeout a s) := by
  unfold execRingResendTimeout; refine keepsR_next ?_
  repeat' first | with_reducible (first | assumption | apply keeps_bumpSat | apply keeps_dropRecord | refine Keeps.of_pair ‹_ = (_, _)› ?_ | refine Keeps.ite ?_ ?_) | (with_reducible refine Keeps.lit ?_; dsimp only; with_reducible first | exact Keeps.of hk | refine Keeps.of ?_) | split | intro _ | dsimp only

theorem keeps_newRepair {o₀ s : State} (hk : Keeps o₀ s) (d : Nat) (g : Nat) : Keeps o₀ (newRepair s d g) := by
  unfold newRepair
  repeat' first | with_reducible (first | assumption | apply keeps_tryPlan | apply keeps_modCmd) | (with_reducible refine Keeps.lit ?_; dsimp only; with_reducible first | exact Keeps.of hk | refine Keeps.of ?_) | intro _ | dsimp only

theorem keeps_scrubRow {o₀ s : State} (hk : Keeps o₀ s) (d : Nat) (g : Nat) : Keeps o₀ (scrubRow s d g) := by
  unfold scrubRow
  repeat' first | with_reducible (first | assumption | apply keeps_newRepair | apply keeps_bumpSat | apply keeps_updRow | apply keeps_raiseErr | refine Keeps.ite ?_ ?_) | (with_reducible refine Keeps.lit ?_; dsimp only; with_reducible first | exact Keeps.of hk | refine Keeps.of ?_) | split | intro _ | dsimp only

theorem keeps_execScrubRow {o₀ s : State} (hk : Keeps o₀ s) (d : Nat) : KeepsR o₀ (execScrubRow d s) := by
  unfold execScrubRow; refine keepsR_next ?_
  repeat' first | with_reducible (first | assumption | apply keeps_bump | apply keeps_scrubRow | apply keeps_setF | (refine keeps_useGrant ?_ _ _ _ _ ‹_ = some _›) | refine Keeps.of_pair ‹_ = (_, _)› ?_ | refine Keeps.ite ?_ ?_) | (with_reducible refine Keeps.lit ?_; dsimp only; with_reducible first | exact Keeps.of hk | refine Keeps.of ?_) | split | dsimp only

theorem keeps_launchOn {o₀ s : State} (hk : Keeps o₀ s) (x : Search) (ds : List Nat) : Keeps o₀ (launchOn s x ds) := by
  unfold launchOn
  repeat' first | with_reducible (first | assumption | apply keeps_countLaunch | apply keeps_emitCells | apply keeps_emitOut | apply keeps_modSearch | refine Keeps.ite ?_ ?_ | refine Keeps.foldl (fun _ _ _ => ?_) ?_) | (with_reducible refine Keeps.lit ?_; dsimp only; with_reducible first | exact Keeps.of hk | refine Keeps.of ?_) | split | intro _ | dsimp only

theorem keeps_settleSearch {o₀ s : State} (hk : Keeps o₀ s) (x : Search) (st : Nat) : Keeps o₀ (settleSearch s x st) := by
  unfold settleSearch
  repeat' first | with_reducible (first | assumption | apply keeps_afterSearch | apply keeps_bump | refine Keeps.ite ?_ ?_) | split | dsimp only

theorem keeps_missSlot {o₀ s : State} (hk : Keeps o₀ s) (x : Search) : Keeps o₀ (missSlot s x) := by
  unfold missSlot
  repeat' first | with_reducible (first | assumption | apply keeps_modSearch | apply keeps_settleSearch | refine Keeps.ite ?_ ?_) | (with_reducible refine Keeps.lit ?_; dsimp only; with_reducible first | exact Keeps.of hk | refine Keeps.of ?_) | split | intro _ | dsimp only

theorem keeps_settleSlots {o₀ s : State} (hk : Keeps o₀ s) (ds : List Nat) : Keeps o₀ (settleSlots s ds) := by
  unfold settleSlots
  repeat' first | with_reducible (first | assumption | refine Keeps.foldl (fun _ _ _ => ?_) ?_) | (with_reducible refine Keeps.lit ?_; dsimp only; with_reducible first | exact Keeps.of hk | refine Keeps.of ?_) | intro _ | dsimp only

theorem keeps_launchPorts {o₀ s : State} (hk : Keeps o₀ s) (x : Search) : Keeps o₀ (launchPorts s x) := by
  unfold launchPorts
  repeat' first | with_reducible (first | assumption | apply keeps_launchOn | apply keeps_missSlot | apply keeps_settleSlots | refine Keeps.ite ?_ ?_) | (with_reducible refine Keeps.lit ?_; dsimp only; with_reducible first | exact Keeps.of hk | refine Keeps.of ?_) | split | intro _ | dsimp only

theorem keeps_execSearchLaunch {o₀ s : State} (hk : Keeps o₀ s) (sid : Nat) : KeepsR o₀ (execSearchLaunch sid s) := by
  unfold execSearchLaunch; refine keepsR_next ?_
  repeat' first | with_reducible (first | assumption | apply keeps_dropSearch | apply keeps_launchPorts | apply keeps_modSearch | apply keeps_recipeError | apply keeps_settleSearch | refine Keeps.of_pair ‹_ = (_, _)› ?_ | refine Keeps.ite ?_ ?_) | (with_reducible refine Keeps.lit ?_; dsimp only; with_reducible first | exact Keeps.of hk | refine Keeps.of ?_) | split | intro _ | dsimp only

theorem keeps_execSend {o₀ s : State} (hk : Keeps o₀ s) (d : Nat) (t : Nat) : KeepsR o₀ (execSend d t s) := by
  unfold execSend; refine keepsR_next ?_
  repeat' first | with_reducible (first | assumption | apply keeps_finish | apply keeps_runIns | apply keeps_reading | apply keeps_faultThread | apply keeps_setT | apply keeps_modCh | refine Keeps.ite ?_ ?_) | (with_reducible refine Keeps.lit ?_; dsimp only; with_reducible first | exact Keeps.of hk | refine Keeps.of ?_) | split | intro _ | dsimp only

theorem keeps_execSendSlotGrant {o₀ s : State} (hk : Keeps o₀ s) (d : Nat) (ch : Nat) : KeepsR o₀ (execSendSlotGrant d ch s) := by
  unfold execSendSlotGrant; refine keepsR_next ?_
  repeat' first | with_reducible (first | assumption | apply keeps_modCh | apply keeps_quiet | apply keeps_setT | refine Keeps.of_pair ‹_ = (_, _)› ?_ | refine Keeps.ite ?_ ?_) | (with_reducible refine Keeps.lit ?_; dsimp only; with_reducible first | exact Keeps.of hk | refine Keeps.of ?_) | split | intro _ | dsimp only

theorem keeps_execServiceRelease {o₀ s : State} (hk : Keeps o₀ s) : KeepsR o₀ (execServiceRelease s) := by
  unfold execServiceRelease; refine keepsR_next ?_
  repeat' first | with_reducible (first | assumption | apply keeps_setF | refine Keeps.ite ?_ ?_) | split | dsimp only

theorem keeps_execSetState {o₀ s : State} (hk : Keeps o₀ s) (d : Nat) (cid : Nat) : KeepsR o₀ (execSetState d cid s) := by
  unfold execSetState; refine keepsR_next ?_
  repeat' first | with_reducible (first | assumption | apply keeps_acceptOp) | dsimp only

theorem keeps_execShelf {o₀ s : State} (hk : Keeps o₀ s) (d : Nat) (cid : Nat) : KeepsR o₀ (execShelf d cid s) := by
  unfold execShelf; refine keepsR_next ?_
  repeat' first | with_reducible (first | assumption | apply keeps_acceptOp) | dsimp only

theorem keeps_execSigningKeyGenerated {o₀ s : State} (hk : Keeps o₀ s) : KeepsR o₀ (execSigningKeyGenerated s) := by
  unfold execSigningKeyGenerated; refine keepsR_next ?_
  repeat' first | with_reducible (first | assumption | apply keeps_bump | apply keeps_random | apply keeps_setF | apply keeps_startLog | refine Keeps.of_pair ‹_ = (_, _)› ?_ | refine Keeps.of_snd ‹_ = (_, _)› ?_ | refine Keeps.ite ?_ ?_ | refine Keeps.foldl (fun _ _ _ => ?_) ?_) | (with_reducible refine Keeps.lit ?_; dsimp only; with_reducible first | exact Keeps.of hk | refine Keeps.of ?_) | split | intro _ | dsimp only

theorem keeps_execSliceWindowWrite {o₀ s : State} (hk : Keeps o₀ s) (d : Nat) (off : Nat) (size : Nat) (val : Nat) : KeepsR o₀ (execSliceWindowWrite d off size val s) := by
  unfold execSliceWindowWrite; refine keepsR_next ?_
  repeat' first | with_reducible (first | assumption | apply keeps_writeSliceWin | refine Keeps.ite ?_ ?_) | split | dsimp only

theorem keeps_takeRecord {o₀ s : State} (hk : Keeps o₀ s) (d : Nat) (r : SwRec) : Keeps o₀ (takeRecord s d r) := by
  unfold takeRecord
  repeat' first | with_reducible (first | assumption | apply keeps_invLine | apply keeps_rewritten | apply keeps_setLine | apply keeps_wayError | refine Keeps.of_pair ‹_ = (_, _)› ?_ | refine Keeps.ite ?_ ?_) | (with_reducible refine Keeps.lit ?_; dsimp only; with_reducible first | exact Keeps.of hk | refine Keeps.of ?_) | split | intro _ | dsimp only

theorem keeps_execSlotWriteApply {o₀ s : State} (hk : Keeps o₀ s) (d : Nat) : KeepsR o₀ (execSlotWriteApply d s) := by
  unfold execSlotWriteApply; refine keepsR_next ?_
  repeat' first | with_reducible (first | assumption | apply keeps_bump | apply keeps_takeRecord | apply keeps_usePort | refine Keeps.of_pair ‹_ = (_, _)› ?_ | refine Keeps.ite ?_ ?_ | refine Keeps.foldl (fun _ _ _ => ?_) ?_) | (with_reducible refine Keeps.lit ?_; dsimp only; with_reducible first | exact Keeps.of hk | refine Keeps.of ?_) | split | intro _ | dsimp only

theorem keeps_execSlotWriteRecord {o₀ s : State} (hk : Keeps o₀ s) (d : Nat) (off : Nat) (len : Nat) (data : BitVec 512) : KeepsR o₀ (execSlotWriteRecord d off len data s) := by
  unfold execSlotWriteRecord; refine keepsR_next ?_
  repeat' first | with_reducible (first | assumption | apply keeps_slotWrite) | dsimp only

theorem keeps_execSmbusBlockRead {o₀ s : State} (hk : Keeps o₀ s) : KeepsR o₀ (execSmbusBlockRead s) := by
  unfold execSmbusBlockRead; refine keepsR_next ?_
  repeat' first | with_reducible (first | assumption | apply keeps_emitOut | apply keeps_busRead | apply keeps_giveRead | refine Keeps.ite ?_ ?_) | (with_reducible refine Keeps.lit ?_; dsimp only; with_reducible first | exact Keeps.of hk | refine Keeps.of ?_) | split | dsimp only

theorem keeps_execSmbusRegisterWrite {o₀ s : State} (hk : Keeps o₀ s) (addr : Nat) (val : Nat) (pecFail : Bool) : KeepsR o₀ (execSmbusRegisterWrite addr val pecFail s) := by
  unfold execSmbusRegisterWrite; refine keepsR_next ?_
  repeat' first | with_reducible (first | assumption | apply keeps_busWrite | apply keeps_emitOut | refine Keeps.ite ?_ ?_) | split | dsimp only

theorem keeps_execSmbusSetReadAddress {o₀ s : State} (hk : Keeps o₀ s) (addr : Nat) (pecFail : Bool) : KeepsR o₀ (execSmbusSetReadAddress addr pecFail s) := by
  unfold execSmbusSetReadAddress; refine keepsR_next ?_
  repeat' first | with_reducible (first | assumption | refine Keeps.ite ?_ ?_) | (with_reducible refine Keeps.lit ?_; dsimp only; with_reducible first | exact Keeps.of hk | refine Keeps.of ?_) | split | dsimp only

theorem keeps_execSmbusTimeout {o₀ s : State} (hk : Keeps o₀ s) : KeepsR o₀ (execSmbusTimeout s) := by
  unfold execSmbusTimeout; refine keepsR_next ?_
  repeat' first | with_reducible (first | assumption) | (with_reducible refine Keeps.lit ?_; dsimp only; with_reducible first | exact Keeps.of hk | refine Keeps.of ?_) | dsimp only

theorem keeps_execSpare {o₀ s : State} (hk : Keeps o₀ s) (d : Nat) (cid : Nat) : KeepsR o₀ (execSpare d cid s) := by
  unfold execSpare; refine keepsR_next ?_
  repeat' first | with_reducible (first | assumption | apply keeps_acceptOp) | dsimp only

theorem keeps_resumeConfirmed {o₀ s : State} (hk : Keeps o₀ s) (d : Nat) (t : Nat) (th2 : Thread) (word : W64) (r : Nat) (ok : Bool) (held : Option Held) : Keeps o₀ (resumeConfirmed s d t th2 word r ok held) := by
  unfold resumeConfirmed
  repeat' first | with_reducible (first | assumption | apply keeps_finish | apply keeps_setT | apply keeps_startFetch | refine Keeps.of_pair ‹_ = (_, _)› ?_ | refine Keeps.ite ?_ ?_) | (with_reducible refine Keeps.lit ?_; dsimp only; with_reducible first | exact Keeps.of hk | refine Keeps.of ?_) | split | dsimp only

theorem keeps_execSpeculationResolve {o₀ s : State} (hk : Keeps o₀ s) (d : Nat) (t : Nat) : KeepsR o₀ (execSpeculationResolve d t s) := by
  unfold execSpeculationResolve; refine keepsR_next ?_
  repeat' first | with_reducible (first | assumption | apply keeps_dropSpeculative | apply keeps_finish | apply keeps_modEnt | apply keeps_resumeConfirmed | apply keeps_setT | refine Keeps.of_pair ‹_ = (_, _)› ?_ | refine Keeps.ite ?_ ?_) | (with_reducible refine Keeps.lit ?_; dsimp only; with_reducible first | exact Keeps.of hk | refine Keeps.of ?_) | split | intro _ | dsimp only

theorem keeps_execSqDoorbell {o₀ s : State} (hk : Keeps o₀ s) (q : Nat) (val : Nat) : KeepsR o₀ (execSqDoorbell q val s) := by
  unfold execSqDoorbell; refine keepsR_next ?_
  repeat' first | with_reducible (first | assumption | apply keeps_badDoorbell | refine Keeps.ite ?_ ?_) | (with_reducible refine Keeps.lit ?_; dsimp only; with_reducible first | exact Keeps.of hk | refine Keeps.of ?_) | split | dsimp only

theorem keeps_execSqFetch {o₀ s : State} (hk : Keeps o₀ s) (q : Nat) : KeepsR o₀ (execSqFetch q s) := by
  unfold execSqFetch; refine keepsR_next ?_
  repeat' first | with_reducible (first | assumption | apply keeps_emitOut | refine Keeps.ite ?_ ?_) | (with_reducible refine Keeps.lit ?_; dsimp only; with_reducible first | exact Keeps.of hk | refine Keeps.of ?_) | split | intro _ | dsimp only

theorem keeps_execSqFetchCompletion {o₀ s : State} (hk : Keeps o₀ s) (q : Nat) (data : List (BitVec 512)) (fail : Bool) : KeepsR o₀ (execSqFetchCompletion q data fail s) := by
  unfold execSqFetchCompletion; refine keepsR_next ?_
  repeat' first | with_reducible (first | assumption | apply keeps_advanceFetches | apply keeps_endFetch | apply keeps_fetchFail | apply keeps_lateCompletion | apply keeps_sendCmd | apply keeps_setF | refine Keeps.of_pair ‹_ = (_, _)› ?_ | refine Keeps.ite ?_ ?_ | refine Keeps.foldl (fun _ _ _ => ?_) ?_) | split | intro _ | dsimp only

theorem keeps_execSrRegionWrite {o₀ s : State} (hk : Keeps o₀ s) (d : Nat) (off : Nat) (val : Nat) : KeepsR o₀ (execSrRegionWrite d off val s) := by
  unfold execSrRegionWrite; refine keepsR_next ?_
  repeat' first | with_reducible (first | assumption | apply keeps_writeSr | refine Keeps.ite ?_ ?_) | split | dsimp only

theorem keeps_runAhead {o₀ s : State} (hk : Keeps o₀ s) (d : Nat) (t : Nat) (e : Nat) (r : Nat) (two : Bool) (th : Thread) (w : W64) : Keeps o₀ (runAhead s d t e r two th w) := by
  unfold runAhead
  repeat' first | with_reducible (first | assumption | apply keeps_finish | apply keeps_modEnt | apply keeps_modT | apply keeps_setT | refine Keeps.ite ?_ ?_) | (with_reducible refine Keeps.lit ?_; dsimp only; with_reducible first | exact Keeps.of hk | refine Keeps.of ?_) | split | intro _ | dsimp only

theorem keeps_execSrch {o₀ s : State} (hk : Keeps o₀ s) (d : Nat) (t : Nat) : KeepsR o₀ (execSrch d t s) := by
  unfold execSrch; refine keepsR_next ?_
  repeat' first | with_reducible (first | assumption | apply keeps_badPart | apply keeps_consult | apply keeps_faultIns | apply keeps_issueStep | apply keeps_modEnt | apply keeps_readingKey | apply keeps_runAhead | apply keeps_runIns | apply keeps_settleSearch | apply keeps_waitRecord | refine Keeps.of_pair ‹_ = (_, _)› ?_ | refine Keeps.ite ?_ ?_) | (with_reducible refine Keeps.lit ?_; dsimp only; with_reducible first | exact Keeps.of hk | refine Keeps.of ?_) | split | intro _ | dsimp only

theorem keeps_execStamp {o₀ s : State} (hk : Keeps o₀ s) (d : Nat) (t : Nat) : KeepsR o₀ (execStamp d t s) := by
  unfold execStamp; refine keepsR_next ?_
  repeat' first | with_reducible (first | assumption | apply keeps_finish | apply keeps_runIns | apply keeps_setT | refine Keeps.ite ?_ ?_) | split | intro _ | dsimp only

theorem keeps_execStoreChannelDisable {o₀ s : State} (hk : Keeps o₀ s) (d : Nat) (val : Nat) : KeepsR o₀ (execStoreChannelDisable d val s) := by
  unfold execStoreChannelDisable; refine keepsR_next ?_
  repeat' first | with_reducible (first | assumption | apply keeps_writeStrCtl | refine Keeps.ite ?_ ?_) | split | dsimp only

theorem keeps_execStoreChannelEnable {o₀ s : State} (hk : Keeps o₀ s) (d : Nat) (val : Nat) : KeepsR o₀ (execStoreChannelEnable d val s) := by
  unfold execStoreChannelEnable; refine keepsR_next ?_
  repeat' first | with_reducible (first | assumption | apply keeps_writeStrCtl | refine Keeps.ite ?_ ?_) | split | dsimp only

theorem keeps_copyBuckets {o₀ s : State} (hk : Keeps o₀ s) (d : Nat) (a : Nat) (b : Nat) (crc : Bool) : Keeps o₀ (copyBuckets s d a b crc) := by
  unfold copyBuckets
  repeat' first | with_reducible (first | assumption | apply keeps_invAny | apply keeps_memPut | apply keeps_rewritten | refine Keeps.foldl (fun _ _ _ => ?_) ?_) | intro _ | dsimp only

theorem keeps_endSync {o₀ s : State} (hk : Keeps o₀ s) (d : Nat) : Keeps o₀ (endSync s d) := by
  unfold endSync
  repeat' first | with_reducible (first | assumption | apply keeps_setF | apply keeps_stopSync | refine Keeps.ite ?_ ?_) | (with_reducible refine Keeps.lit ?_; dsimp only; with_reducible first | exact Keeps.of hk | refine Keeps.of ?_) | split | intro _ | dsimp only

theorem keeps_execStoreResyncDone {o₀ s : State} (hk : Keeps o₀ s) (c : Progress) : KeepsR o₀ (execStoreResyncDone c s) := by
  unfold execStoreResyncDone; refine keepsR_next ?_
  repeat' first | with_reducible (first | assumption | apply keeps_copyBuckets | apply keeps_endSync | apply keeps_setF | refine Keeps.ite ?_ ?_) | split | dsimp only

theorem keeps_noteStep {o₀ s : State} (hk : Keeps o₀ s) (x : SStep) : Keeps o₀ (noteStep s x) := by
  unfold noteStep
  repeat' first | with_reducible (first | assumption | apply keeps_setF | refine Keeps.ite ?_ ?_) | split | dsimp only

theorem keeps_stepRec {o₀ s : State} (hk : Keeps o₀ s) (x : SStep) (crc : Bool) : Keeps o₀ (stepRec s x crc).1 := by
  unfold stepRec
  repeat' first | with_reducible (first | assumption | apply keeps_takeBucket | refine Keeps.of_pair ‹_ = (_, _)› ?_) | (with_reducible refine Keeps.lit ?_; dsimp only; with_reducible first | exact Keeps.of hk | refine Keeps.of ?_) | split | dsimp only

theorem keeps_execStoreRoomStepDone {o₀ s : State} (hk : Keeps o₀ s) (a : Attempt) : KeepsR o₀ (execStoreRoomStepDone a s) := by
  unfold execStoreRoomStepDone; refine keepsR_next ?_
  repeat' first | with_reducible (first | assumption | apply keeps_deliverRec | apply keeps_issueFetch | apply keeps_modStep | apply keeps_noteStep | apply keeps_stepRec | refine Keeps.of_pair ‹_ = (_, _)› ?_ | refine Keeps.ite ?_ ?_) | (with_reducible refine Keeps.lit ?_; dsimp only; with_reducible first | exact Keeps.of hk | refine Keeps.of ?_) | split | intro _ | dsimp only

theorem keeps_execStoreWindowBadWrite {o₀ s : State} (hk : Keeps o₀ s) (d : Nat) (off : Nat) (len : Nat) (word : Nat) : KeepsR o₀ (execStoreWindowBadWrite d off len word s) := by
  unfold execStoreWindowBadWrite; refine keepsR_next ?_
  repeat' first | with_reducible (first | assumption | apply keeps_swrReject | refine Keeps.ite ?_ ?_) | split | dsimp only

theorem keeps_execStoreWindowRead {o₀ s : State} (hk : Keeps o₀ s) (acc : Nat) (d : Nat) (off : Nat) (size : Nat) (ecc : Nat) : KeepsR o₀ (execStoreWindowRead acc d off size ecc s) := by
  unfold execStoreWindowRead; refine keepsR_next ?_
  repeat' first | with_reducible (first | assumption | apply keeps_readStoreWin | apply keeps_giveRead) | dsimp only

theorem keeps_execStoreWindowWrite128 {o₀ s : State} (hk : Keeps o₀ s) (a : Attempt) (off : Nat) (data : BitVec 1024) : KeepsR o₀ (execStoreWindowWrite128 a off data s) := by
  unfold execStoreWindowWrite128; refine keepsR_next ?_
  repeat' first | with_reducible (first | assumption | apply keeps_writeStoreWin | refine Keeps.ite ?_ ?_) | split | intro _ | dsimp only

theorem keeps_execStoreWindowWrite64 {o₀ s : State} (hk : Keeps o₀ s) (a : Attempt) (off : Nat) (data : BitVec 512) : KeepsR o₀ (execStoreWindowWrite64 a off data s) := by
  unfold execStoreWindowWrite64; refine keepsR_next ?_
  repeat' first | with_reducible (first | assumption | apply keeps_writeStoreWin | refine Keeps.ite ?_ ?_) | split | dsimp only

theorem keeps_escalate {o₀ s : State} (hk : Keeps o₀ s) (d : Nat) (pg : Nat) (second : Bool) (k : Nat) (b : Nat) : Keeps o₀ (escalate s d pg second k b) := by
  unfold escalate
  repeat' first | with_reducible (first | assumption | apply keeps_setMark | apply keeps_hostRecord | apply keeps_raiseErr) | dsimp only

theorem keeps_execSupervisorEscalation {o₀ s : State} (hk : Keeps o₀ s) (d : Nat) (pg : Nat) : KeepsR o₀ (execSupervisorEscalation d pg s) := by
  unfold execSupervisorEscalation; refine keepsR_next ?_
  repeat' first | with_reducible (first | assumption | apply keeps_escalate | refine Keeps.ite ?_ ?_) | (with_reducible refine Keeps.lit ?_; dsimp only; with_reducible first | exact Keeps.of hk | refine Keeps.of ?_) | split | dsimp only

theorem keeps_execTableWriteAdmit {o₀ s : State} (hk : Keeps o₀ s) (id : Nat) : KeepsR o₀ (execTableWriteAdmit id s) := by
  unfold execTableWriteAdmit; refine keepsR_next ?_
  repeat' first | with_reducible (first | assumption | apply keeps_countCpl | apply keeps_modReq | apply keeps_refuse | apply keeps_sendCmd | refine Keeps.of_pair ‹_ = (_, _)› ?_ | refine Keeps.ite ?_ ?_) | (with_reducible refine Keeps.lit ?_; dsimp only; with_reducible first | exact Keeps.of hk | refine Keeps.of ?_) | split | intro _ | dsimp only

theorem keeps_execTamper {o₀ s : State} (hk : Keeps o₀ s) : KeepsR o₀ (execTamper s) := by
  unfold execTamper; refine keepsR_next ?_
  repeat' first | with_reducible (first | assumption | apply keeps_fireAlarm | refine Keeps.ite ?_ ?_) | split | dsimp only

theorem keeps_execTargetCycleApply {o₀ s : State} (hk : Keeps o₀ s) : KeepsR o₀ (execTargetCycleApply s) := by
  unfold execTargetCycleApply; refine keepsR_next ?_
  repeat' first | with_reducible (first | assumption | apply keeps_applyTarget | refine Keeps.foldl (fun _ _ _ => ?_) ?_) | intro _ | dsimp only

theorem keeps_execThermalFenceClear {o₀ s : State} (hk : Keeps o₀ s) (d : Nat) (temp : Nat) : KeepsR o₀ (execThermalFenceClear d temp s) := by
  unfold execThermalFenceClear; refine keepsR_next ?_
  repeat' first | with_reducible (first | assumption | apply keeps_setF | apply keeps_writeThrottle | refine Keeps.ite ?_ ?_) | split | dsimp only

theorem keeps_execThermalLevelFall {o₀ s : State} (hk : Keeps o₀ s) (d : Nat) (temp : Nat) : KeepsR o₀ (execThermalLevelFall d temp s) := by
  unfold execThermalLevelFall; refine keepsR_next ?_
  repeat' first | with_reducible (first | assumption | apply keeps_applyBlank | apply keeps_setF | refine Keeps.ite ?_ ?_) | split | dsimp only

theorem keeps_execThermalLevelRise {o₀ s : State} (hk : Keeps o₀ s) (d : Nat) (temp : Nat) : KeepsR o₀ (execThermalLevelRise d temp s) := by
  unfold execThermalLevelRise; refine keepsR_next ?_
  repeat' first | with_reducible (first | assumption | apply keeps_applyBlank | apply keeps_fireAlarm | apply keeps_raiseErr | apply keeps_setF | refine Keeps.ite ?_ ?_) | split | dsimp only

theorem keeps_execTimeCellBroadcast {o₀ s : State} (hk : Keeps o₀ s) : KeepsR o₀ (execTimeCellBroadcast s) := by
  unfold execTimeCellBroadcast; refine keepsR_next ?_
  repeat' first | with_reducible (first | assumption | apply keeps_broadcastTime | refine Keeps.ite ?_ ?_) | split | dsimp only

theorem keeps_execTimeCellReceive {o₀ s : State} (hk : Keeps o₀ s) (a : Arrival) : KeepsR o₀ (execTimeCellReceive a s) := by
  unfold execTimeCellReceive; refine keepsR_next ?_
  repeat' first | with_reducible (first | assumption | apply keeps_takeCell | refine Keeps.of_pair ‹_ = (_, _)› ?_ | refine Keeps.ite ?_ ?_) | (with_reducible refine Keeps.lit ?_; dsimp only; with_reducible first | exact Keeps.of hk | refine Keeps.of ?_) | split | intro _ | dsimp only

theorem keeps_execTodArm {o₀ s : State} (hk : Keeps o₀ s) (val : Nat) : KeepsR o₀ (execTodArm val s) := by
  unfold execTodArm; refine keepsR_next ?_
  repeat' first | with_reducible (first | assumption | apply keeps_writeTimCtl | refine Keeps.ite ?_ ?_) | split | dsimp only

theorem keeps_execTrap {o₀ s : State} (hk : Keeps o₀ s) (d : Nat) (t : Nat) : KeepsR o₀ (execTrap d t s) := by
  unfold execTrap; refine keepsR_next ?_
  repeat' first | with_reducible (first | assumption | apply keeps_runIns | apply keeps_faultThread) | intro _ | dsimp only

theorem keeps_execUnknownCommand {o₀ s : State} (hk : Keeps o₀ s) (d : Nat) (cid : Nat) : KeepsR o₀ (execUnknownCommand d cid s) := by
  unfold execUnknownCommand; refine keepsR_next ?_
  repeat' first | with_reducible (first | assumption | apply keeps_breakWide | apply keeps_takeCmd | refine Keeps.of_pair ‹_ = (_, _)› ?_ | refine Keeps.ite ?_ ?_) | split | intro _ | dsimp only

theorem keeps_execUnusedOpcodeFetch {o₀ s : State} (hk : Keeps o₀ s) (d t : Nat) : KeepsR o₀ (execUnusedOpcodeFetch d t s) := by
  unfold execUnusedOpcodeFetch
  repeat' first | exact keepsR_fault _ _ | exact keepsR_next hk | split | dsimp only

theorem keeps_execUpdateGuardExpire {o₀ s : State} (hk : Keeps o₀ s) (d : Nat) (gra : Nat) : KeepsR o₀ (execUpdateGuardExpire d gra s) := by
  unfold execUpdateGuardExpire; refine keepsR_next ?_
  repeat' first | with_reducible (first | assumption) | (with_reducible refine Keeps.lit ?_; dsimp only; with_reducible first | exact Keeps.of hk | refine Keeps.of ?_) | intro _ | dsimp only

theorem keeps_copyShelf {o₀ s : State} (hk : Keeps o₀ s) (src : Nat) (dst : Nat) (sh : Nat) : Keeps o₀ (copyShelf s src dst sh) := by
  unfold copyShelf
  repeat' first | with_reducible (first | assumption | apply keeps_setF | refine Keeps.foldl (fun _ _ _ => ?_) ?_) | intro _ | dsimp only

theorem keeps_carryOver {o₀ s : State} (hk : Keeps o₀ s) (d : Nat) (op : PortOp) : Keeps o₀ (carryOver s d op) := by
  unfold carryOver
  repeat' first | with_reducible (first | assumption | apply keeps_copyShelf | apply keeps_setRow | refine Keeps.of_pair ‹_ = (_, _)› ?_ | refine Keeps.foldl (fun _ _ _ => ?_) ?_) | split | intro _ | dsimp only

theorem keeps_runOp {o₀ s : State} (hk : Keeps o₀ s) (c : UCmd) (op : PortOp) (ds : List Nat) : Keeps o₀ (runOp s c op ds) := by
  unfold runOp
  repeat' first | with_reducible (first | assumption | apply keeps_applyOp | apply keeps_bump | apply keeps_carryOver | apply keeps_modCmd | apply keeps_queueCell | refine Keeps.of_pair ‹_ = (_, _)› ?_ | refine Keeps.ite ?_ ?_ | refine Keeps.foldl (fun _ _ _ => ?_) ?_) | (with_reducible refine Keeps.lit ?_; dsimp only; with_reducible first | exact Keeps.of hk | refine Keeps.of ?_) | split | intro _ | dsimp only

theorem keeps_dropMirror {o₀ s : State} (hk : Keeps o₀ s) (id : Nat) : Keeps o₀ (dropMirror s id) := by
  unfold dropMirror
  repeat' first | with_reducible (first | assumption) | (with_reducible refine Keeps.lit ?_; dsimp only; with_reducible first | exact Keeps.of hk | refine Keeps.of ?_) | intro _ | dsimp only

theorem keeps_startPair {o₀ s : State} (hk : Keeps o₀ s) (c : UCmd) (d : Nat) (o : Nat) : Keeps o₀ (startPair s c d o) := by
  unfold startPair
  repeat' first | with_reducible (first | assumption | apply keeps_dropMirror | apply keeps_modCmd | apply keeps_queueCell | refine Keeps.of_pair ‹_ = (_, _)› ?_) | (with_reducible refine Keeps.lit ?_; dsimp only; with_reducible first | exact Keeps.of hk | refine Keeps.of ?_) | split | intro _ | dsimp only

theorem keeps_execUpdatePortOperation {o₀ s : State} (hk : Keeps o₀ s) (d : Nat) (cid : Nat) : KeepsR o₀ (execUpdatePortOperation d cid s) := by
  unfold execUpdatePortOperation; refine keepsR_next ?_
  repeat' first | with_reducible (first | assumption | apply keeps_modCmd | apply keeps_runOp | apply keeps_settleSlots | apply keeps_startPair | (refine keeps_useGrant ?_ _ _ _ _ ‹_ = some _›) | refine Keeps.of_pair ‹_ = (_, _)› ?_ | refine Keeps.ite ?_ ?_) | (with_reducible refine Keeps.lit ?_; dsimp only; with_reducible first | exact Keeps.of hk | refine Keeps.of ?_) | split | intro _ | dsimp only

theorem keeps_execVoltageAlarm {o₀ s : State} (hk : Keeps o₀ s) (d : Nat) : KeepsR o₀ (execVoltageAlarm d s) := by
  unfold execVoltageAlarm; refine keepsR_next ?_
  repeat' first | with_reducible (first | assumption | apply keeps_fireAlarm | refine Keeps.ite ?_ ?_) | split | dsimp only

theorem keeps_execWaite {o₀ s : State} (hk : Keeps o₀ s) (d : Nat) (t : Nat) : KeepsR o₀ (execWaite d t s) := by
  unfold execWaite; refine keepsR_next ?_
  repeat' first | with_reducible (first | assumption | apply keeps_restartWindow | apply keeps_finish | apply keeps_runIns | apply keeps_faultThread | apply keeps_setT | apply keeps_modCh | refine Keeps.ite ?_ ?_) | (with_reducible refine Keeps.lit ?_; dsimp only; with_reducible first | exact Keeps.of hk | refine Keeps.of ?_) | split | intro _ | dsimp only

theorem keeps_execWakeEvent {o₀ s : State} (hk : Keeps o₀ s) (d : Nat) (c : Nat) : KeepsR o₀ (execWakeEvent d c s) := by
  unfold execWakeEvent; refine keepsR_next ?_
  repeat' first | with_reducible (first | assumption | apply keeps_wakeEvent | refine Keeps.ite ?_ ?_) | split | dsimp only

theorem keeps_failStalled {o₀ s : State} (hk : Keeps o₀ s) (d : Nat) (c : Nat) : Keeps o₀ (failStalled s d c) := by
  unfold failStalled
  repeat' first | with_reducible (first | assumption | apply keeps_settleFetches | refine Keeps.ite ?_ ?_) | (with_reducible refine Keeps.lit ?_; dsimp only; with_reducible first | exact Keeps.of hk | refine Keeps.of ?_) | split | intro _ | dsimp only

theorem keeps_failWake {o₀ s : State} (hk : Keeps o₀ s) (d : Nat) (c : Nat) (low : Nat) (code : Nat) : Keeps o₀ (failWake s d c low code) := by
  unfold failWake
  repeat' first | with_reducible (first | assumption | apply keeps_refuseCode | apply keeps_autoDisable | apply keeps_setPhase | apply keeps_setF | apply keeps_raiseErr | apply keeps_failStalled | refine Keeps.ite ?_ ?_) | split | dsimp only

theorem keeps_execWakeFailTimeout {o₀ s : State} (hk : Keeps o₀ s) (d : Nat) (c : Nat) (pll : Bool) : KeepsR o₀ (execWakeFailTimeout d c pll s) := by
  unfold execWakeFailTimeout; refine keepsR_next ?_
  repeat' first | with_reducible (first | assumption | apply keeps_failWake | refine Keeps.ite ?_ ?_) | split | dsimp only

theorem keeps_execWayCleanDone {o₀ s : State} (hk : Keeps o₀ s) (d : Nat) (w : Nat) : KeepsR o₀ (execWayCleanDone d w s) := by
  unfold execWayCleanDone; refine keepsR_next ?_
  repeat' first | with_reducible (first | assumption | apply keeps_clearWay | apply keeps_setF | refine Keeps.ite ?_ ?_) | split | intro _ | dsimp only

theorem keeps_execWrite {o₀ s : State} (hk : Keeps o₀ s) (d : Nat) (cid : Nat) : KeepsR o₀ (execWrite d cid s) := by
  unfold execWrite; refine keepsR_next ?_
  repeat' first | with_reducible (first | assumption | apply keeps_acceptOp) | dsimp only

theorem keeps_joinAfter {o₀ s : State} (hk : Keeps o₀ s) (id : Nat) (head : Nat) : Keeps o₀ (joinAfter s id head) := by
  unfold joinAfter
  repeat' first | with_reducible (first | assumption | refine Keeps.ite ?_ ?_) | (with_reducible refine Keeps.lit ?_; dsimp only; with_reducible first | exact Keeps.of hk | refine Keeps.of ?_) | split | intro _ | dsimp only

theorem keeps_execWriteCont {o₀ s : State} (hk : Keeps o₀ s) (d : Nat) (cid : Nat) : KeepsR o₀ (execWriteCont d cid s) := by
  unfold execWriteCont; refine keepsR_next ?_
  repeat' first | with_reducible (first | assumption | apply keeps_joinAfter | apply keeps_modCmd | apply keeps_takeCmd | apply keeps_tookTurn | apply keeps_tryPlan | refine Keeps.of_pair ‹_ = (_, _)› ?_ | refine Keeps.ite ?_ ?_) | (with_reducible refine Keeps.lit ?_; dsimp only; with_reducible first | exact Keeps.of hk | refine Keeps.of ?_) | split | intro _ | dsimp only

theorem keeps_execXoffReceive {o₀ s : State} (hk : Keeps o₀ s) (iface : Nat) (chan : Nat) (xoff : Bool) : KeepsR o₀ (execXoffReceive iface chan xoff s) := by
  unfold execXoffReceive; refine keepsR_next ?_
  repeat' first | with_reducible (first | assumption | apply keeps_bump | apply keeps_setF | apply keeps_lkpErr | refine Keeps.ite ?_ ?_) | split | dsimp only

theorem keeps_execXtr {o₀ s : State} (hk : Keeps o₀ s) (d : Nat) (t : Nat) : KeepsR o₀ (execXtr d t s) := by
  unfold execXtr; refine keepsR_next ?_
  repeat' first | with_reducible (first | assumption | apply keeps_finish | apply keeps_runIns | apply keeps_reading | apply keeps_setT | refine Keeps.ite ?_ ?_) | split | intro _ | dsimp only

theorem keeps_execZeroizeRequest {o₀ s : State} (hk : Keeps o₀ s) : KeepsR o₀ (execZeroizeRequest s) := by
  unfold execZeroizeRequest; refine keepsR_next ?_
  repeat' first | with_reducible (first | assumption | apply keeps_fireAlarm | refine Keeps.ite ?_ ?_) | split | dsimp only

theorem keeps_takePorts {o₀ s : State} (hk : Keeps o₀ s) (x : SStep) : Keeps o₀ (takePorts s x) := by
  unfold takePorts
  repeat' first | with_reducible (first | assumption | apply keeps_modStep | apply keeps_setF | apply keeps_usePort | refine Keeps.ite ?_ ?_) | (with_reducible refine Keeps.lit ?_; dsimp only; with_reducible first | exact Keeps.of hk | refine Keeps.of ?_) | split | intro _ | dsimp only

theorem keeps_servePorts {o₀ s : State} (hk : Keeps o₀ s) (fixed : Bool) : Keeps o₀ (servePorts s fixed) := by
  unfold servePorts
  repeat' first | with_reducible (first | assumption | apply keeps_takePorts | refine Keeps.foldl (fun _ _ _ => ?_) ?_) | intro _ | dsimp only

theorem keeps_viewStep {o₀ s : State} (hk : Keeps o₀ s) (x : SStep) : Keeps o₀ (viewStep s x) := by
  unfold viewStep
  repeat' first | with_reducible (first | assumption | apply keeps_bump | apply keeps_cacheLookup | apply keeps_modStep | refine Keeps.of_pair ‹_ = (_, _)› ?_ | refine Keeps.ite ?_ ?_) | (with_reducible refine Keeps.lit ?_; dsimp only; with_reducible first | exact Keeps.of hk | refine Keeps.of ?_) | split | intro _ | dsimp only

theorem keeps_closeCq {o₀ s : State} (hk : Keeps o₀ s) : Keeps o₀ (closeCq s) := by
  unfold closeCq
  repeat' first | with_reducible (first | assumption | apply keeps_servePorts) | dsimp only

theorem keeps_openCq {o₀ s : State} (hk : Keeps o₀ s) : Keeps o₀ (openCq s) := by
  unfold openCq
  repeat' first | with_reducible (first | assumption | apply keeps_servePorts | apply keeps_viewStep | refine Keeps.foldl (fun _ _ _ => ?_) ?_) | (with_reducible refine Keeps.lit ?_; dsimp only; with_reducible first | exact Keeps.of hk | refine Keeps.of ?_) | intro _ | dsimp only

theorem keeps_csCycle {o₀ s : State} (hk : Keeps o₀ s) : Keeps o₀ (csCycle s) := by
  unfold csCycle
  repeat' first | with_reducible (first | assumption | apply keeps_closeCq | apply keeps_openCq | refine Keeps.ite ?_ ?_) | (with_reducible refine Keeps.lit ?_; dsimp only; with_reducible first | exact Keeps.of hk | refine Keeps.of ?_) | split | dsimp only

end Sys2Proof.Machine
end

