-- ==== Sys2Proof/Machine/Tap.lean ====
section
/-!
DEFINITION. The boundary-scan port (R488), after IEEE 1149.1 (R12): what an edge of TCK and a low TRST_N do to it. The manual gives
the instructions and names the standard for the rest (PRESUMED, log 101). No command of the table clocks TCK.
-/

namespace Sys2Proof.Machine

/-- The controller's next state by TMS. -/
def tapNext (p : TapPhase) (tms : Bool) : TapPhase :=
  match p, tms with
  | .testLogicReset, true => .testLogicReset
  | .testLogicReset, false => .runTestIdle
  | .runTestIdle, true | .updateDr, true | .updateIr, true => .selectDr
  | .runTestIdle, false | .updateDr, false | .updateIr, false => .runTestIdle
  | .selectDr, true => .selectIr
  | .selectDr, false => .captureDr
  | .captureDr, true | .shiftDr, true => .exit1Dr
  | .captureDr, false | .shiftDr, false | .exit2Dr, false => .shiftDr
  | .exit1Dr, true | .exit2Dr, true => .updateDr
  | .exit1Dr, false | .pauseDr, false => .pauseDr
  | .pauseDr, true => .exit2Dr
  | .selectIr, true => .testLogicReset
  | .selectIr, false => .captureIr
  | .captureIr, true | .shiftIr, true => .exit1Ir
  | .captureIr, false | .shiftIr, false | .exit2Ir, false => .shiftIr
  | .exit1Ir, true | .exit2Ir, true => .updateIr
  | .exit1Ir, false | .pauseIr, false => .pauseIr
  | .pauseIr, true => .exit2Ir

/-- The instruction that a code selects. All ones is BYPASS, as is a code of no instruction; the public instructions serve at every
debug level, the other scan instructions only at level 0b10 (R461, R488). -/
def tapSelect (level : Nat) (bits : List Bool) : TapIns :=
  let code := sumL ((bits.zipIdx).map fun p => b2n p.1 * 2 ^ p.2)
  if bits.all id then .bypass
  else match Config.tapCode code with
    | 1 => .idcode
    | 2 => .samplePreload
    | 3 => .extest
    | 4 => .clamp
    | 5 => .highz
    | 6 => if level = 2 then .vendor code else .bypass
    | _ => .bypass

/-- What the data register of an instruction captures; `pins` are the levels at the pins of the boundary-scan register, which leaves
out the lane pins (R488). -/
def tapCapture (i : TapIns) (pins : List Bool) : List Bool :=
  match i with
  | .bypass | .clamp | .highz => [false]
  | .idcode => (List.range 32).map fun k => Config.idcode.testBit k
  | .samplePreload | .extest => (List.range Config.tapScanLen).map fun k => pins.getD k false
  | .vendor code => Config.tapVendor code

/-- What a rising edge of TCK does in the state that it finds. -/
def tapAct (t : Tap) (tdi : Bool) (pins : List Bool) : Tap :=
  match t.phase with
  | .captureDr => { t with dr := tapCapture t.ins pins }
  | .shiftDr => { t with dr := t.dr.drop 1 ++ [tdi] }
  | .captureIr => { t with ir := (List.range Config.tapIrLen).map fun k => k == 0 }
  | .shiftIr => { t with ir := t.ir.drop 1 ++ [tdi] }
  | _ => t

/-- What the state that is entered does on the falling edge that follows. -/
def tapEnter (t : Tap) (level : Nat) : Tap :=
  match t.phase with
  | .testLogicReset => { t with ins := .idcode }
  | .updateIr => { t with ins := tapSelect level t.ir }
  | .updateDr => if t.ins = .samplePreload ∨ t.ins = .extest then { t with latch := t.dr } else t
  | _ => t

/-- One cycle of TCK. -/
def tapEdge (s : State) (tms tdi : Bool) (pins : List Bool) : State :=
  let t := tapAct s.tap tdi pins
  { s with tap := tapEnter { t with phase := tapNext t.phase tms } (getF s 0 DBG_CTL.LEVEL) }

/-- TRST_N is low. -/
def tapReset (s : State) : State := { s with tap := { s.tap with phase := .testLogicReset, ins := .idcode } }

/-- The bit at TDO; none while it floats. -/
def tdo (s : State) : Option Bool :=
  match s.tap.phase with
  | .shiftDr => s.tap.dr.head?
  | .shiftIr => s.tap.ir.head?
  | _ => none

/-- What drives the output pins of the boundary-scan register. -/
inductive PinSource
  | core | latches | floating
  deriving DecidableEq, Repr

/-- The pins' source under the current instruction. -/
def pinSource (s : State) : PinSource :=
  match s.tap.ins with
  | .extest | .clamp => .latches
  | .highz => .floating
  | _ => .core

end Sys2Proof.Machine
end

