-- ==== Sys2Proof/WellFormed.lean ====
section
/-!
DEFINITION. Well-formed commands: every operand lies in the range that the manual gives it. The meanings are total and do not rest on it.
-/

namespace Sys2Proof

/-- Bounds of an arrival at one of `k` places. -/
def Arrival.bounds (a : Arrival) (k : Nat) : List (Nat × Nat) := [(a.key, k), (a.flit, 6)]

/-- The operands of a command that have a range, each with its first value beyond it. -/
def Instr.bounds : Instr → List (Nat × Nat)
  | .lookupBurstReceive iface chan _ _ _ _ _ => [(iface, 24), (chan, 64)]
  | .ingressRelease iface => [(iface, 24)]
  | .ledgerEntryAck _ => []
  | .admission _ => []
  | .tableWriteAdmit _ => []
  | .responseDeparture _ => []
  | .xoffReceive iface chan _ => [(iface, 24), (chan, 64)]
  | .laneFail iface lane => [(iface, 24), (lane, 6)]
  | .interfaceUp iface => [(iface, 24)]
  | .channelCfgWrite d chan val => [(d, 8), (chan, 64), (val, 2 ^ 32)]
  | .channelBufWrite d chan val => [(d, 8), (chan, 64), (val, 2 ^ 32)]
  | .xtr d t => [(d, 8), (t, 384)]
  | .lit d t => [(d, 8), (t, 384)]
  | .hsh d t => [(d, 8), (t, 384)]
  | .srch d t => [(d, 8), (t, 384)]
  | .probe d t => [(d, 8), (t, 384)]
  | .cfetch d t => [(d, 8), (t, 384)]
  | .stamp d t => [(d, 8), (t, 384)]
  | .log d t => [(d, 8), (t, 384)]
  | .fork d t => [(d, 8), (t, 384)]
  | .join d t => [(d, 8), (t, 384)]
  | .send d t => [(d, 8), (t, 384)]
  | .waite d t => [(d, 8), (t, 384)]
  | .commit d t => [(d, 8), (t, 384)]
  | .emit d t => [(d, 8), (t, 384)]
  | .trap d t => [(d, 8), (t, 384)]
  | .endThread d t => [(d, 8), (t, 384)]
  | .unusedOpcodeFetch d t => [(d, 8), (t, 384)]
  | .recipeWordRestore d addr => [(d, 8), (addr, 16384)]
  | .searchLaunch _ => []
  | .dieContribution _ d => d.bounds 8
  | .packageMerge _ => []
  | .pairReverify => []
  | .speculationResolve d t => [(d, 8), (t, 384)]
  | .cascadeSearchFrame first rest => (first :: rest).map fun x => (x, 2 ^ 256)
  | .cascadeContribFrame first rest => (first :: rest).map fun x => (x, 2 ^ 256)
  | .cascadeControlBeat port beat => [(port, 2), (beat, 2 ^ 256)]
  | .cascadeBadTypeBeat port => [(port, 2)]
  | .contribTimeout _ => []
  | .cascadeLaneFail port lane => [(port, 2), (lane, 4)]
  | .cascadeDropTimeout port => [(port, 2)]
  | .cascadeRetrainDone port _ lanes => [(port, 2), (lanes, 16)]
  | .cascadeLinkUp port lanes npos flight below => [(port, 2), (lanes, 16), (npos, 4), (flight, 256), (below, 4)]
  | .cascadeReturn => []
  | .cascadeLaneReturnReady port lane => [(port, 2), (lane, 4)]
  | .cascadeRetrain => []
  | .ringResendTimeout d => d.bounds 8
  | .ringPathFault d dir _ => [(d, 8), (dir, 2)]
  | .mgmtRegRead acc d off size => d.bounds 8 ++ [(acc, 3), (off, 2 ^ 23), (size, 9)]
  | .mgmtRegWrite acc d off size data => d.bounds 8 ++ [(acc, 3), (off, 2 ^ 23), (size, 129), (data, 2 ^ 1024)]
  | .mgmtReadCompletion acc => acc.bounds 3
  | .mgmtUpdateCommand cid => [(cid.flit, 6)]
  | .mgmtCommandCompletion cid => [(cid.flit, 6)]
  | .mgmtCellarData id => [(id.flit, 6)]
  | .mgmtFaultReport d => d.bounds 8
  | .mgmtDescriptorCopy src d kind idx => d.bounds 8 ++ [(src, 8), (kind, 5), (idx, 1024)]
  | .mgmtReservedType d dir => [(d, 8), (dir, 2)]
  | .mirrorCellReceive cid => [(cid.flit, 6)]
  | .heartbeatSend d => [(d, 8)]
  | .heartbeatTimeout d => [(d, 8)]
  | .pairMemberLost d => [(d, 8)]
  | .pairChannelReturn mask => [(mask, 16)]
  | .channelReturnDrained chan => [(chan, 64)]
  | .pairRejoin p => [(p, 4)]
  | .rejoinCopyDone p => [(p.key, 4), (p.n, 2 ^ 20)]
  | .rejoinCheckExpire p => [(p, 4)]
  | .pairFenceEven p => [(p, 4)]
  | .pairFenceOdd p => [(p, 4)]
  | .write d _ => [(d, 8)]
  | .writeCont d _ => [(d, 8)]
  | .delete d _ => [(d, 8)]
  | .insertShift d _ => [(d, 8)]
  | .move d _ => [(d, 8)]
  | .setState d _ => [(d, 8)]
  | .genFlip d _ => [(d, 8)]
  | .genFlipApply part => [(part, 256)]
  | .genClear d _ => [(d, 8)]
  | .shelf d _ => [(d, 8)]
  | .compact d _ => [(d, 8)]
  | .bulkLoad d _ => [(d, 8)]
  | .bulkRecordRead d _ _ _ => [(d, 8)]
  | .spare d _ => [(d, 8)]
  | .barrier d _ => [(d, 8)]
  | .unknownCommand d _ => [(d, 8)]
  | .updatePortOperation d _ => [(d, 8)]
  | .updateGuardExpire d gra => [(d, 8), (gra, 2 ^ 25)]
  | .commandComplete _ => []
  | .scrubRow d => [(d, 8)]
  | .storeRoomStepDone _ => []
  | .cacheFillAllocate _ b => [(b, 2)]
  | .fillLineArrive _ ecc => [(ecc, 3)]
  | .fillInstall _ => []
  | .slotWriteRecord d off _ _ => [(d, 8), (off, 4096)]
  | .slotWriteApply d => [(d, 8)]
  | .mbufDrainStart d => [(d, 8)]
  | .mbufDrainAccept _ _ => []
  | .arbiterSlotGrant d inst ready lockOwner n =>
    [(d, 8), (inst, 4), (ready, 2 ^ 32), (lockOwner, 32), (n.n, 65), (n.span, 65)]
  | .arbiterCommit d => [(d, 8)]
  | .arbiterTableSwitch d inst => [(d, 8), (inst, 4)]
  | .patrolScrubRead d ecc => [(d.key, 8), (ecc, 3)]
  | .cellarFetchEntryGrant _ => []
  | .atsTranslationCompletion _ k range _ => [(k, 6), (range.log2, 65), (range.base, 2 ^ 64)]
  | .cellarReadCompletion _ _ fail => [(fail, 5)]
  | .pcieCompletionTimeout kind _ => [(kind, 3)]
  | .promotion d => [(d.key, 8)]
  | .noticeWrite chan => [(chan, 64)]
  | .noticeTimeout chan => [(chan, 64)]
  | .kekWrite k val _ => [(k, 8), (val, 2 ^ 32)]
  | .keyLoad val => [(val, 2 ^ 32)]
  | .keyClear val => [(val, 2 ^ 32)]
  | .cellarWrite val => [(val, 2 ^ 32)]
  | .cellarWriteComplete _ tag _ => [(tag, 2 ^ 128)]
  | .cellarEnable val => [(val, 2 ^ 32)]
  | .cellarDisable val => [(val, 2 ^ 32)]
  | .regionOnline val => [(val, 2 ^ 32)]
  | .regionOffline val => [(val, 2 ^ 32)]
  | .partitionDescWrite n => [(n, 256)]
  | .srRegionWrite d off val => [(d, 8), (off, 0x2000), (val, 2 ^ 32)]
  | .crRegionWrite n => [(n, 256)]
  | .packageWindowWrite acc off val => [(acc, 3), (off, 0x24000), (val, 2 ^ 32)]
  | .targetCycleApply => []
  | .moduleFail d => [(d, 8)]
  | .storeChannelEnable d val => [(d, 8), (val, 2 ^ 32)]
  | .storeChannelDisable d val => [(d, 8), (val, 2 ^ 32)]
  | .channelTrained d gib => [(d, 8), (gib, 256)]
  | .storeResyncDone d => [(d.key, 8), (d.n, 2 ^ 30)]
  | .storeWindowRead acc d off size ecc => [(acc, 3), (d, 8), (off, 2 ^ 20), (size, 9), (ecc, 3)]
  | .storeWindowWrite128 d off _ => [(d.key, 8), (off, 2 ^ 20)]
  | .storeWindowWrite64 d off _ => [(d.key, 8), (off, 2 ^ 20)]
  | .storeWindowBadWrite d off _ word => [(d, 8), (off, 2 ^ 20), (word, 2 ^ 32)]
  | .atticWindowRead acc d off size => [(acc, 3), (d, 8), (off, 2 ^ 20), (size, 9)]
  | .atticWindowWrite d off => [(d, 8), (off, 2 ^ 23)]
  | .recipeWindowRead acc d off size => [(acc, 3), (d, 8), (off, 2 ^ 17), (size, 9)]
  | .sliceWindowWrite d off size val => [(d, 8), (off, 0x30000), (size, 9), (val, 2 ^ 64)]
  | .cachePreload d val => [(d, 8), (val, 2 ^ 32)]
  | .cachePreloadDone d _ => [(d, 8)]
  | .cacheRangeInvalidate d val => [(d, 8), (val, 2 ^ 32)]
  | .cacheRangeInvalidateDone d => [(d, 8)]
  | .lockedLineRefetch d line ecc => [(d, 8), (line, 2 ^ 29), (ecc, 3)]
  | .cacheWaysWrite d val => [(d, 8), (val, 2 ^ 32)]
  | .wayCleanDone d w => [(d, 8), (w, 16)]
  | .cacheEnableWrite d val => [(d, 8), (val, 2 ^ 32)]
  | .sqDoorbell q val => [(q, 64), (val, 2 ^ 32)]
  | .cqHeadDoorbell q val => [(q, 64), (val, 2 ^ 32)]
  | .eqHeadDoorbell c val => [(c, 64), (val, 2 ^ 32)]
  | .sqFetch q => [(q, 64)]
  | .sqFetchCompletion q _ _ => [(q, 64)]
  | .cqEntryWrite q => [(q, 64)]
  | .queueEnable q val => [(q, 64), (val, 2 ^ 32)]
  | .eventQueueEnable c val => [(c, 64), (val, 2 ^ 32)]
  | .msixUnmask v => [(v, 64)]
  | .busMasterDisable => []
  | .busMasterEnable _ _ => []
  | .flr => []
  | .quarantineExpire => []
  | .linkDown => []
  | .atsInvalidation _ page log2 => [(page, 2 ^ 64), (log2, 65)]
  | .atsInvalidationComplete => []
  | .atsDisable _ _ => []
  | .peerCommandWrite off _ => [(off, 2 ^ 30)]
  | .peerCommandDispatch w => [(w, 8)]
  | .peerSlotWrite off _ => [(off, 2 ^ 30)]
  | .peerUnmatchedWrite off => [(off, 2 ^ 30)]
  | .peerBadWrite off _ => [(off, 2 ^ 30)]
  | .peerWindowCommit => []
  | .modulePowerOn d val => [(d, 8), (val, 2 ^ 32)]
  | .modulePowerOff d val => [(d, 8), (val, 2 ^ 32)]
  | .indicatorChange d val => [(d, 8), (val, 2 ^ 32)]
  | .moduleCommandComplete d => [(d, 8)]
  | .attentionButton d => [(d, 8)]
  | .presenceChange d _ => [(d, 8)]
  | .inputStuck d pin => [(d, 8), (pin, 256)]
  | .ppsEdge _ => []
  | .todArm val => [(val, 2 ^ 32)]
  | .ppsStuckTimeout => []
  | .ppsMissingTimeout => []
  | .holdoverExpire => []
  | .timeCellBroadcast => []
  | .timeCellReceive d => d.bounds 8
  | .localTimeTimeout d => [(d, 8)]
  | .refSelectChange val => [(val, 2 ^ 32)]
  | .evidenceRecord => []
  | .checkpointIdleTimeout => []
  | .checkpointSigned => []
  | .evidenceEnable val => [(val, 2 ^ 32)]
  | .signingKeyGenerated => []
  | .evidenceDisable val => [(val, 2 ^ 32)]
  | .thermalLevelRise d temp => [(d, 8), (temp, 256)]
  | .thermalLevelFall d temp => [(d, 8), (temp, 256)]
  | .thermalFenceClear d temp => [(d, 8), (temp, 256)]
  | .governorStep ests cp => [(cp, 2 ^ 16)] ++ ests.map fun x => (x, 2 ^ 16)
  | .governorShortTimeout => []
  | .partitionCountSelect d val => [(d, 8), (val, 2 ^ 32)]
  | .stepEntrySelect d val => [(d, 8), (val, 2 ^ 32)]
  | .arbCounterSelect d val => [(d, 8), (val, 2 ^ 32)]
  | .powerDomainSelect d val => [(d, 8), (val, 2 ^ 32)]
  | .latchingLoRead acc d pg off => [(acc, 3), (d, 8), (pg, 22), (off, 4096)]
  | .predictorClear d => [(d, 8)]
  | .sendSlotGrant d ch => [(d, 8), (ch, 32)]
  | .messageVisible d ch => [(d, 8), (ch, 32)]
  | .eventTimeout d t => [(d, 8), (t, 384)]
  | .forkWaitGrant d => [(d, 8)]
  | .forkTimeout d t => [(d, 8), (t, 384)]
  | .faultNoticeDispatch d => [(d, 8)]
  | .threadRelease d val => [(d, 8), (val, 2 ^ 32)]
  | .quiesceFire d => [(d, 8)]
  | .quiesceKill d => [(d, 8)]
  | .halt d => [(d, 8)]
  | .resume d => [(d, 8)]
  | .step d => [(d, 8)]
  | .kill d => [(d, 8)]
  | .haltedBudgetAbort d t => [(d, 8), (t, 384)]
  | .dbgChannelRelease d val => [(d, 8), (val, 2 ^ 32)]
  | .dbgAutoRelease d ch => [(d, 8), (ch, 32)]
  | .hysteresisExpire d c => [(d, 8), (c, 0x30)]
  | .powerEntryStep d c => [(d, 8), (c, 0x30)]
  | .wakeEvent d c => [(d, 8), (c, 0x30)]
  | .powerWakeStep d c => [(d, 8), (c, 0x30)]
  | .wakeFailTimeout d c _ => [(d, 8), (c, 0x30)]
  | .domainWakeRetry d c => [(d, 8), (c, 0x30)]
  | .pllLock d => [(d, 8)]
  | .pllLockLoss d => [(d, 8)]
  | .referenceBad d => [(d.die, 8), (d.khz, 2 ^ 20)]
  | .smbusRegisterWrite addr val _ => [(addr, 2 ^ 32), (val, 2 ^ 32)]
  | .smbusSetReadAddress addr _ => [(addr, 2 ^ 32)]
  | .smbusBlockRead => []
  | .hatchLatchRead => []
  | .hatchAddressMatch => []
  | .hatchWakeFail _ => []
  | .smbusTimeout => []
  | .errorHandlingEnd d pg => [(d, 8), (pg, 22)]
  | .supervisorEscalation d pg => [(d, 8), (pg, 22)]
  | .errorInject d pg bit => [(d, 8), (pg, 22), (bit, 32)]
  | .pageLock d pg => [(d, 8), (pg, 22)]
  | .engineReset val => [(val, 2 ^ 32)]
  | .engineResetDone => []
  | .goldenReplay val => [(val, 2 ^ 32)]
  | .goldenVector _ _ => []
  | .goldenReplayDone => []
  | .imageLoadHost val => [(val, 2 ^ 32)]
  | .flashBoot _ _ => []
  | .imageCheck _ => []
  | .debugChallenge val => [(val, 2 ^ 32)]
  | .debugResponse val => [(val, 2 ^ 32)]
  | .debugChallengeExpire => []
  | .voltageAlarm d => [(d, 8)]
  | .tamper => []
  | .zeroizeRequest => []
  | .endorse => []
  | .resetRelease good casc bootSrc smb => [(good, 256), (casc, 4), (bootSrc, 4), (smb, 8)]
  | .conventionalReset => []
  | .dieResetTimeout good casc bootSrc smb => [(good, 256), (casc, 4), (bootSrc, 4), (smb, 8)]
  | .diePowerGoodLoss d => [(d, 8)]
  | .bsqStart d val => [(d, 8), (val, 2 ^ 32)]
  | .bsqPhaseDone d ways _ shelves ms => [(d, 8), (ways, 2 ^ 16), (ms, 2 ^ 16)] ++ shelves.flatMap fun x => [(x.1, 16), (x.2.1, 65), (x.2.2.1, 1024), (x.2.2.2, 1025)]
  | .serviceRelease => []
  | .registerWrite acc d pg off val => [(acc, 3), (d, 8), (pg, 22), (off, 4096), (val, 2 ^ 32)]
  | .dataLinkUp speed width => [(speed, 8), (width, 32)]
  | .functionReady => []
  | .diagnosticWord iface lane _ => [(iface, 24), (lane, 6)]

/-- Every operand is in its range. -/
def Instr.wellFormed (i : Instr) : Bool := i.bounds.all fun q => decide (q.1 < q.2)

end Sys2Proof
end

