-- ==== Sys2Proof/Tests/Slice0.lean ====
section
/-!
SUPPORT. Small tests: results worked out from the rules, ill-formed operands refused, and for every statement with hypotheses
a state and operands that meet them, clause by clause.
-/

namespace Sys2Proof.Tests

open Sys2Proof Sys2Proof.Machine

set_option Elab.async false

/-! ## Small states -/

/-- The device out of reset. -/
def up : State := { State.reset with inReset := false }

/-- Register fields written one after the other: die, field, value. -/
def wr (s : State) (l : List (Nat × Fld × Nat)) : State := l.foldl (fun s q => setF s q.1 q.2.1 q.2.2) s

/-- The availability profile with pair 0 in lockstep. -/
def upA : State := wr up [(0, PAGE_CAP.PROFILE, 2), (0, PKG_PAIR_STS.PAIR 0, 1)]

/-- Whether a command ends in a fault. -/
def faults (r : Result) : Bool := match r with
  | .fault _ => true
  | _ => false

/-- What a command's next state holds under a check. -/
def after (r : Result) (p : State → Bool) : Bool := match r with
  | .next t => p t
  | _ => false

/-- A lookup request on channel 0 of interface 0, in a phase. -/
def rq (id : Nat) (p : Phase) : Req :=
  { id := id, home := 0, iface := 0, chan := 0, hdr := 0, payload := 0, phase := p, rel := 0, arr := 0, ledger := false,
    acked := true, thread := none, buf := none, resp := none, refusal := false, booked := none, bounded := false, readyAt := 0,
    next := none, moved := false }

/-- A recipe word with an opcode, operands and both next addresses 1. -/
def ins (op x : Nat) : W64 := BitVec.ofNat 64 (op * 2 ^ 58 + 2 ^ 42 + 2 ^ 28 + x)

/-- Thread `t` of die 0 ready at a recipe word at address 0. -/
def runs (s : State) (t : Nat) (th : Thread) (w : W64) : State :=
  setT { s with recipe := mset ⟨0, 0⟩ s.recipe 0 ⟨w, BitVec.ofNat 8 (secField 64 7 w.toNat)⟩ } 0 t { th with st := .ready }

/-- Starts as a check. -/
def startsB (s : State) (d t : Nat) (w : W64) : Bool :=
  canRun s d t && (settleIssue s d).starts.contains (d, t, cq s) && decide (recipeFetch s d (getT s d t).pc = .ok w.toNat) &&
    !needsResolve (getT s d t) w && decide ((getT s d t).steps + 1 ≤ stepMax s d) && !ctxUnc (getT s d t) && !ctxCor (getT s d t)

theorem starts_of_startsB {s : State} {d t : Nat} {w : W64} (h : startsB s d t w = true) : Starts s d t w := by
  simp only [startsB, Bool.and_eq_true, Bool.not_eq_true', decide_eq_true_eq] at h
  exact ⟨h.1.1.1.1.1.1, h.1.1.1.1.1.2, h.1.1.1.1.2, h.1.1.1.2, h.1.1.2, h.1.2, h.2⟩

/-! ## The hypotheses of the statements are met -/

theorem test_hyp_StepTakesTheFrontCommand :
    ({ up with pending := [.ingressRelease 0, .admission 0] } : State).pending = .ingressRelease 0 :: [.admission 0] := by decide
theorem test_hyp_IdleStepPassesOneCycle :
    State.reset.pending = [] ∧ State.reset.cyc % 2 = 0 ∧ ({ up with cyc := 1 } : State).cyc % 2 = 1 ∧ up.steps = [] := by decide
/-- For the four statements about every step: a step that answers a next state. -/
theorem test_hyp_every_step : after (step { up with pending := [.xoffReceive 0 0 true] }) (fun t => t.pending == []) = true := by decide +kernel
theorem test_hyp_ArraysStayCanonical : ArraysWf State.reset := by unfold ArraysWf; decide +kernel
theorem test_hyp_ResetLeavesTheTablesValues : (0 ≤ 21) ∧ (21 ≤ 21) := by decide
theorem test_hyp_SecdedCorrectsOneBit : (2 ^ 64 - 1 < 2 ^ 64) ∧ (63 < 64) ∧ (7 < 8) ∧ (0 < 64 ∧ 63 < 64 ∧ 0 ≠ 63) := by decide
theorem test_hyp_FieldsFollowTheirAccessCodes :
    (SEQ_ENTRY.VALID 0).acc = Acc.ro ∧ PKG_IMG_LO.ADDR.acc = Acc.rw ∧ (LKP_CH_CFG.EN 0).acc = Acc.rwl ∧ isF up 0 (PAGE_CTL.LOCK pgLkp) = false ∧
    isF (wr up [(0, PAGE_CTL.LOCK pgLkp, 1)]) 0 (PAGE_CTL.LOCK (LKP_CH_CFG.EN 0).page) = true ∧
    (ERR_STICKY.BITS 0).acc = Acc.w1c ∧ 31 < (ERR_STICKY.BITS 0).width ∧ (PAGE_CTL.LOCK 0).acc = Acc.w1s ∧ 0 < (PAGE_CTL.LOCK 0).width := by decide +kernel

theorem test_hyp_ErrorsSetStickyBitsAndRecords :
    (present up 0 pgPkg = true ∧ pgPkg ≤ 21 ∧ 7 < 8) ∧ (present up 7 pgRs = true ∧ pgRs ≤ 21 ∧ 0 < 8) ∧
    errMasked (wr up [(0, ERR_MASK.MASK pgAtc, 1), (0, ERR_SEV.SEV pgAtc 0, 1)]) 0 pgAtc 0 = true ∧
    getF up 0 (ERR_FIRST0.VALID pgAtc) = 0 ∧
    (let s := wr up [(0, ERR_FIRST0.VALID pgAtc, 1)]
     getF s 0 (ERR_FIRST0.VALID pgAtc) ≠ 0 ∧ getF s 0 (ERR_SECOND.VALID pgAtc) = 0) ∧
    (let s := wr up [(0, ERR_FIRST0.VALID pgAtc, 1), (0, ERR_SECOND.VALID pgAtc, 1), (0, ERR_SEV.SEV pgAtc 0, 2)]
     getF s 0 (ERR_FIRST0.VALID pgAtc) ≠ 0 ∧ getF s 0 (ERR_SECOND.VALID pgAtc) ≠ 0 ∧
       getF s 0 (ERR_FIRST0.CLASS pgAtc) < errClass s 0 pgAtc 0 ∧ getF s 0 (ERR_SECOND.CLASS pgAtc) < errClass s 0 pgAtc 0) ∧
    (let s := wr up [(0, ERR_FIRST0.VALID pgAtc, 1), (0, ERR_SECOND.VALID pgAtc, 1), (0, ERR_FIRST0.CLASS pgAtc, 3)]
     getF s 0 (ERR_FIRST0.VALID pgAtc) ≠ 0 ∧ getF s 0 (ERR_SECOND.VALID pgAtc) ≠ 0 ∧
       errClass s 0 pgAtc 0 ≤ getF s 0 (ERR_FIRST0.CLASS pgAtc)) := by decide +kernel

/-- Interface 0 up, channel 0 enabled on it. -/
def port : State := wr up [(0, LKP_IF_STS.STATE 0, 2), (0, LKP_IF_STS.LANES 0, 63), (0, LKP_IF_CFG.EN, 1), (0, LKP_CH_CFG.EN 0, 1),
  (0, LKP_CH_BUF.MAX 0, 8), (0, SEQ_ENTRY.VALID 0, 1), (0, THR_GRP_CFG.MAX 0, 4)]

theorem test_hyp_BurstCheckedThenQueued :
    (ifUp port 0 = true ∧ ifDie 0 < port.part.dieCnt) ∧
    (getF port 0 (LKP_CH_CFG.IFX 1) = ifIdx 0 ∧ homeOf port 63 = ifDie 0 ∧ chEn port 63 = false) ∧
    (let s := wr port [(0, LKP_CH_CFG.IFX 63, 1)]
     ifUp s 0 = true ∧ getF s 0 (LKP_CH_CFG.IFX 63) ≠ ifIdx 0) ∧
    (getF port 0 (LKP_CH_CFG.IFX 0) = ifIdx 0 ∧ homeOf port 0 = ifDie 0 ∧ chEn port 0 = true ∧ (queuedOn port 0).length < 32) ∧
    (let s := { port with reqs := (List.range 32).map fun n => rq n (.queued none) }
     ifUp s 0 = true ∧ chEn s 0 = true ∧ 32 ≤ (queuedOn s 0).length) ∧
    (let s := { port with reqs := (List.range 31).map fun n => rq n (.queued none) }
     (queuedOn s 0).length < 32) ∧
    ingressCheck port 0 0 0 8 false = some 4 ∧ ingressCheck port 0 0 (BitVec.ofNat 64 (16 * 2 ^ 28)) 24 true = none := by decide +kernel

theorem test_hyp_RequestReleasedAndAcknowledged :
    (let s := { port with reqs := [rq 0 (.queued none), rq 1 (.queued (some 9))] }
     queuedOn s 0 = rq 0 (.queued none) :: [rq 1 (.queued (some 9))] ∧ ifDie 0 < s.part.dieCnt ∧ gone s (ifDie 0) = false ∧
       mget 0 s.lastRel 0 = 0 ∧ hasLedger s (ifDie 0) = false ∧ (rq 0 (.queued none)).phase = .queued none) ∧
    (let s := { port with reqs := [rq 0 (.queued (some 9))], lastRel := [(0, 1)], cyc := 5 }
     queuedOn s 0 = [rq 0 (.queued (some 9))] ∧ mget 0 s.lastRel 0 - 1 + ifP s 0 ≤ s.cyc ∧ (refusalsOn s 0).length < 64) ∧
    (let s := { port with lastRel := [(0, 1)] }
     mget 0 s.lastRel 0 ≠ 0 ∧ s.cyc < mget 0 s.lastRel 0 - 1 + ifP s 0) ∧
    (let s := { upA with reqs := [{ rq 0 (.released none) with ledger := true }] }
     findReq s 0 = some { rq 0 (.released none) with ledger := true } ∧ hasLedger s 0 = true ∧ ledgerUsed s 0 < 2048) := by decide +kernel

/-- A guaranteed channel 0 whose recipe entry 0 is FIXED with a budget of 40. -/
def portG : State := wr port [(0, LKP_CH_CFG.CLASS 0, 1), (0, SEQ_ENTRY.FIXED 0, 1), (0, SEQ_ENTRY.BUDGET 0, 40)]

theorem test_hyp_AdmissionTakesAllOrRefuses :
    (let r := rq 0 (.released (some 9))
     findReq { port with reqs := [r] } 0 = some r ∧ r.acked = true ∧ gone { port with reqs := [r] } r.home = false ∧
       admittedFirst { port with reqs := [r] } r = false) ∧
    (let r := { rq 1 (.released none) with rel := 1 }; let s := { portG with reqs := [r, rq 0 (.released none)] }
     findReq s 1 = some r ∧ s.fencedDev = false ∧ admittedFirst s r = true) ∧
    (let r := rq 0 (.released none)
     hdrKind r.hdr = 0 ∧ isF up r.home (SEQ_ENTRY.VALID (hdrRecipe r.hdr)) = false ∧
     (let s := wr { port with reqs := [r] } [(0, LKP_CH_CFG.CLASS 0, 1)]
      findReq s 0 = some r ∧ chGuar s r.chan = true ∧ isF s r.home (SEQ_ENTRY.VALID (hdrRecipe r.hdr)) = true ∧
        isF s r.home (SEQ_ENTRY.FIXED (hdrRecipe r.hdr)) = false) ∧
     (let s := wr { port with reqs := [r] } [(0, LKP_CH_BUF.MAX 0, 0)]
      findReq s 0 = some r ∧ chGuar s r.chan = false ∧ bufSite s r.chan = none) ∧
     (let s := { port with reqs := [r] }
      findReq s 0 = some r ∧ s.fencedDev = false ∧ chGuar s r.chan = false ∧ threadRoom s r.home (chGroup s r.chan) = true ∧
        lowestFree s r.home = some 1 ∧ bufSite s r.chan = some 0) ∧
     (let s := { portG with reqs := [r], egress := [(0, 39, 1)] }
      findReq s 0 = some r ∧ chGuar s r.chan = true ∧ chOrdered s r.chan = false ∧ threadRoom s r.home (chGroup s r.chan) = true ∧
        bufSite s r.chan = some 0 ∧ isF s r.home (SEQ_ENTRY.FIXED (hdrRecipe r.hdr)) = true ∧ egressFree s r.iface 39 1 = false) ∧
     (let s := { portG with reqs := [r] }
      egressFree s r.iface 39 (ceilDiv (respLen (isF s r.home (LKP_ENT.TWO (hdrRecipe r.hdr))) (hdrStamp r.hdr && s.part.unitT)) (ifK s r.iface)) = true ∧
        (bookPlan s r.home 1 (chGroup s r.chan) r.rel (mget Plan.none s.plans (hdrRecipe r.hdr))).isSome = true) ∧
     (let s := wr { portG with reqs := [r] } [(0, LKP_CH_CFG.ORD 0, 1)]
      chGuar s r.chan = true ∧ chOrdered s r.chan = true ∧ threadRoom s r.home (chGroup s r.chan) = true ∧ bufSite s r.chan = some 0 ∧
        (bookPlan s r.home 1 (chGroup s r.chan) r.rel (mget Plan.none s.plans (hdrRecipe r.hdr))).isSome = true ∧
        bookPlan s r.home 1 (chGroup s r.chan) r.rel { Plan.none with starts := [(0, 1, false)] } = none)) := by decide +kernel

/-- A table write waiting for admission. -/
def wq (id : Nat) (p : Phase) : Req := { rq id p with hdr := BitVec.ofNat 64 (2 ^ 60) }

theorem test_hyp_TableWriteAdmitted :
    (let r := wq 0 (.released none)
     let s := { port with reqs := [r] }
     findReq s 0 = some r ∧ r.acked = true ∧ gone s r.home = false ∧ hdrKind r.hdr = 1 ∧ s.fencedDev = false ∧ bufSite s r.chan = some 0 ∧
       isF s r.home UPD_CTL.EN = false ∧
       (let s := wr s [(0, UPD_CTL.EN, 1), (0, UPD_CTL.LKP_EN, 1)]
        isF s r.home UPD_CTL.EN = true ∧ isF s r.home UPD_CTL.LKP_EN = true ∧ bufSite s r.chan = some 0) ∧
       bufSite (wr s [(0, LKP_CH_BUF.MAX 0, 0)]) r.chan = none ∧
       (s.reqs.filter fun q => q.home == r.home && q.phase == .tableWrite && q.resp.isNone).length < 64) ∧
    (let s := { port with reqs := (List.range 64).map fun n => wq n .tableWrite }
     64 ≤ (s.reqs.filter fun q => q.home == 0 && q.phase == .tableWrite && q.resp.isNone).length) ∧
    (let s := { port with reqs := (List.range 63).map fun n => wq n .tableWrite }
     (s.reqs.filter fun q => q.home == 0 && q.phase == .tableWrite && q.resp.isNone).length < 64) := by decide +kernel

/-- A response that is ready to leave. -/
def rdy : Req := { rq 0 .admitted with resp := some ⟨0, 0, none, none, false⟩, booked := some 4 }

theorem test_hyp_ResponseLeavesOnce :
    (let s := { port with reqs := [rdy], cyc := 4 }
     findReq s 0 = some rdy ∧ rdy.resp = some ⟨0, 0, none, none, false⟩ ∧ ifUp s rdy.iface = true ∧ departure s rdy = some (none, true) ∧
       fitResp (ifK s rdy.iface) none false false = (false, false) ∧ rdy.chan < 64) ∧
    (let s := { port with reqs := [rdy], cyc := 3 }
     findReq s 0 = some rdy ∧ ifUp s rdy.iface = true ∧ departure s rdy = none) ∧
    (let s := { up with reqs := [rdy] }
     findReq s 0 = some rdy ∧ ifUp s rdy.iface = false ∧ avail s = false) := by decide +kernel

theorem test_hyp_FlowControlAndLanes :
    (ifUp port 0 = true ∧ chIface port 0 = 0 ∧ chEn port 0 = true ∧ chGuar port 0 = false) ∧
    (let s := wr port [(0, LKP_CH_CFG.EN 63, 1), (0, LKP_CH_CFG.CLASS 63, 1)]
     ifUp s 0 = true ∧ 63 < 64 ∧ chIface s 63 = 0 ∧ chEn s 63 = true ∧ chGuar s 63 = true ∧ ifDie 0 < s.part.dieCnt) ∧
    (laneMap port 0).testBit 0 = true ∧ (laneMap port 0).testBit 5 = true ∧
    mget 0 port.diagFails (0 * 8 + 5) < 3 ∧ mget 0 [(5, 3)] (0 * 8 + 5) = 3 ∧
    (let s := wr port [(0, LKP_IF_STS.STATE 0, 0), (0, SEQ_STS.LOADED, 1), (0, PKG_BOOT.SVC, 1)]
     ifDie 0 < s.part.dieCnt ∧ (getF s (ifDie 0) LKP_IF_CFG.EN).testBit (ifIdx 0) = true ∧
     ifLanes (getF s (ifDie 0) LKP_IF_CFG.MODE) (ifIdx 0) ≠ 0 ∧ ifState s 0 ≠ 2 ∧ loaded s = true ∧ isF s 0 PKG_BOOT.SVC = true ∧
     cascPos s = 0 ∧ gone s (ifDie 0) = false ∧ testing s (ifDie 0) = false ∧ isF s 0 FLT_ERST.GO = false ∧ s.inReset = false) := by
  decide +kernel

theorem test_hyp_ChannelRegistersAllOrNothing :
    (0 < up.part.dieCnt ∧ 63 < 64) ∧ locked (wr up [(0, PAGE_CTL.LOCK pgLkp, 1)]) 0 pgLkp = true ∧ locked up 7 pgLkp = false ∧
    channelsBreak (loadWord up 0 pgLkp 0 (0x100 + 4 * 63) 0x80000000) = false ∧
    channelsBreak (loadWord up 0 pgLkp 0 (0x100 + 4 * 0) 0xA0000000) = true := by decide +kernel
/-- The device with thread 1 of die 0 about to start a word. -/
def at1 (th : Thread) (w : W64) : State := runs up 1 th w
/-- The state and thread in which the instruction's effect begins. -/
def u1 (th : Thread) (w : W64) : State := insStart (at1 th w) 0 1 w
def th1 (th : Thread) (w : W64) : Thread := insThread 0 (getT (at1 th w) 0 1) w
/-- A child in slot 0 of its parent: thread 2, result record 7. -/
def kid2 : Kid := ⟨0, 2, 7, false, false⟩

theorem test_hyp_Starts : Starts (at1 Thread.zero (ins 1 0)) 0 1 (ins 1 0) := starts_of_startsB (by decide +kernel)

theorem test_hyp_InstructionFetchAndLimits :
    (insCmd 1 0 1 = some (.xtr 0 1) ∧ insCmd 16 0 1 = some (.endThread 0 1) ∧ canRun up 0 1 = false ∧ sequenceOpen up 0 1 = false) ∧
    ((getT up 0 1).spec = false ∧ (getT (at1 { Thread.zero with spec := true } (ins 1 0)) 0 1).spec = true) ∧
    (let s := at1 Thread.zero (ins 1 0)
     canRun s 0 1 = true ∧ recipeFetch s 0 (getT s 0 1).pc = .ok (ins 1 0).toNat ∧ insOp (ins 1 0) ≠ 2 ∧ insOp (ins 1 0) = 1 ∧
       needsResolve (getT s 0 1) (ins 1 0) = false ∧ (settleIssue s 0).starts.contains (0, 1, cq s) = true) ∧
    (let s := { at1 Thread.zero (ins 1 0) with lanes := [(0, 1)] }
     canRun s 0 1 = true ∧ recipeFetch s 0 (getT s 0 1).pc = .ok (ins 1 0).toNat ∧ (settleIssue s 0).starts.contains (0, 1, cq s) = false) ∧
    (let s := { at1 Thread.zero (ins 1 0) with recipe := [(0, ⟨3, 0⟩)] }
     canRun s 0 1 = true ∧ recipeFetch s 0 (getT s 0 1).pc = .bad ∧ (settleIssue s 0).starts.contains (0, 1, cq s) = true) ∧
    (let s := at1 { Thread.zero with spec := true } (ins 14 0)
     canRun s 0 1 = true ∧ needsResolve (getT s 0 1) (ins 14 0) = true ∧ mayNotWait (getT s 0 1) = false ∧
       (settleIssue s 0).starts.contains (0, 1, cq s) = true) ∧
    (let s := at1 { Thread.zero with spec := true, lock := true } (ins 14 0)
     needsResolve (getT s 0 1) (ins 14 0) = true ∧ mayNotWait (getT s 0 1) = true ∧ (settleIssue s 0).starts.contains (0, 1, cq s) = true) ∧
    (let s := at1 { Thread.zero with unc := 2 ^ 104 } (ins 1 0)
     canRun s 0 1 = true ∧ needsResolve (getT s 0 1) (ins 1 0) = false ∧ ctxCor (getT s 0 1) = false ∧ ctxUnc (getT s 0 1) = true ∧
       (settleIssue s 0).starts.contains (0, 1, cq s) = true) ∧
    (let s := at1 { Thread.zero with steps := 65536 } (ins 1 0)
     canRun s 0 1 = true ∧ stepMax s 0 < (getT s 0 1).steps + 1 ∧ needsResolve (getT s 0 1) (ins 1 0) = false ∧ ctxCor (getT s 0 1) = false ∧
       ctxUnc (getT s 0 1) = false ∧ (settleIssue s 0).starts.contains (0, 1, cq s) = true) := by decide +kernel

theorem test_hyp_SliceInstructionsCompute :
    (let w := ins 1 (2 ^ 27 + 511 * 2 ^ 18 + 511 * 2 ^ 9 + 0); let th := th1 Thread.zero w
     startsB (at1 Thread.zero w) 0 1 w = true ∧ (th.child && th.orphan) = false ∧ insOp w = 1 ∧ opnd w 18 9 = 511 ∧
       readUnc th 511 1 = false ∧ readCor th 511 1 = false) ∧
    (let w := ins 1 0; let th := { Thread.zero with unc := 1 }
     startsB (at1 th w) 0 1 w = true ∧ insOp w = 1 ∧ (th1 th w).child = false ∧ readUnc (th1 th w) 0 1 = true) ∧
    (let w := ins 2 0xFFFFFFF; startsB (at1 Thread.zero w) 0 1 w = true ∧ insOp w = 2 ∧ condUnc (th1 Thread.zero w) = false) ∧
    (let w := ins 2 (2 ^ 57); let th := { Thread.zero with unc := 2 ^ 32 }
     startsB (at1 th w) 0 1 w = true ∧ insOp w = 2 ∧ 2 ≤ insCond w ∧ condUnc (th1 th w) = true) ∧
    (let w := ins 3 0; let th := { Thread.zero with unc := 2 ^ 16 }
     startsB (at1 th w) 0 1 w = true ∧ insOp w = 3 ∧ readUnc (th1 th w) 0x80 (widthBits (partWidth (u1 th w) 0 0) / 8) = true) ∧
    (let w := ins 3 (63 * 2 ^ 10); let th := th1 Thread.zero w
     startsB (at1 Thread.zero w) 0 1 w = true ∧ insOp w = 3 ∧
       readUnc th 0x80 (widthBits (partWidth (u1 Thread.zero w) 0 0) / 8) = false ∧
       readCor th 0x80 (widthBits (partWidth (u1 Thread.zero w) 0 0) / 8) = false) ∧
    (let w := ins 7 (2 ^ 21); startsB (at1 Thread.zero w) 0 1 w = true ∧ insOp w = 7) := by decide +kernel

/-- Partition 0 valid on die 0, and on bank 0 of it. -/
def prt : State := wr up [(0, PART_CTL.VALID, 1), (0, PART_BANKS.BANKS 0, 1)]

theorem test_hyp_SearchAndStepInstructionsIssue :
    (let w := ins 5 (7 * 2 ^ 15); let th := { Thread.zero with kids := [kid2] }
     startsB (at1 th w) 0 1 w = true ∧ insOp w = 5 ∧ reserved (th1 th w) (opnd w 15 3) = true) ∧
    (let w := ins 5 0; let th := { Thread.zero with lock := true }
     startsB (at1 th w) 0 1 w = true ∧ reserved (th1 th w) (opnd w 15 3) = false ∧ mayNotWait (th1 th w) = true) ∧
    (let w := ins 6 0
     startsB (at1 Thread.zero w) 0 1 w = true ∧ mayNotWait (th1 Thread.zero w) = false ∧ partValid (u1 Thread.zero w) 0 0 = false) ∧
    (let w := ins 4 (2 * 2 ^ 18 + 2 ^ 15); let th := { Thread.zero with spec := true, specRec := 0 }
     startsB (at1 th w) 0 1 w = true ∧ insOp w = 4 ∧ (th1 th w).spec = true ∧ partValid (u1 th w) 0 0 = false ∧ mayNotWait (th1 th w) = false ∧
       (reserved (th1 th w) 1 || (insOp w == 4 && opnd w 18 2 == 2 && reserved (th1 th w) (1 + 1))) = false) ∧
    (let w := ins 5 0; let th := { Thread.zero with unc := 2 ^ 16 }; let s := runs prt 1 th w; let u := insStart s 0 1 w
     startsB s 0 1 w = true ∧ partValid u 0 0 = true ∧ readUnc (th1 th w) 0x80 (widthBits (partWidth u 0 0) / 8) = true) ∧
    (let w := ins 5 0
     readUnc (th1 Thread.zero w) 0x80 (widthBits (partWidth prt 0 0) / 8) = false ∧ readCor (th1 Thread.zero w) 0x80 (widthBits (partWidth prt 0 0) / 8) = false) ∧
    (let w := ins 4 (2 ^ 14 + 2 ^ 13)
     let s := runs { wr prt [(0, SEQ_CTL.RA_EN, 1)] with stepEnts := [(0, { StepEnt.zero with used := true, conf := 3 })] } 1 Thread.zero w
     let u := insStart s 0 1 w; let ent := entAt u 0 (th1 Thread.zero w).pc; let v := consult u 0 ent
     startsB s 0 1 w = true ∧ partValid u 0 0 = true ∧ partFixed v 0 0 = false ∧
       (!partFixed v 0 0 && (diesOf v (dieSetOf v 0 0)).any fun e => uncovered v (dieSetOf v 0 0) e) = false ∧ opnd w 13 1 = 1 ∧
       mayAhead v 0 (th1 Thread.zero w) ent (opnd w 14 1 == 1 && isF v 0 SEQ_CTL.RA_EN && ent.isSome) = some 0 ∧
       mayAhead v 0 (th1 Thread.zero w) none false = none) ∧
    (let w := ins 6 0; let s := runs prt 1 Thread.zero w
     startsB s 0 1 w = true ∧ insOp w = 6 ∧ partValid (insStart s 0 1 w) 0 0 = true) ∧
    (let w := ins 5 0; let s := runs prt 1 Thread.zero w
     startsB s 0 1 w = true ∧ insOp w = 5 ∧ partValid (insStart s 0 1 w) 0 0 = true) ∧
    (let w := ins 4 0; let s := runs prt 1 Thread.zero w; let u := insStart s 0 1 w
     startsB s 0 1 w = true ∧ insOp w = 4 ∧ partValid u 0 0 = true ∧ partFixed u 0 0 = false ∧
       (!partFixed u 0 0 && (diesOf u (dieSetOf u 0 0)).any fun e => uncovered u (dieSetOf u 0 0) e) = false ∧ opnd w 13 1 = 0 ∧ opnd w 14 1 = 0) ∧
    (let w := ins 4 0; let s := runs (wr prt [(0, ATC_THROTTLE.FENCED, 1)]) 1 Thread.zero w; let u := insStart s 0 1 w
     startsB s 0 1 w = true ∧ partValid u 0 0 = true ∧
       (!partFixed u 0 0 && (diesOf u (dieSetOf u 0 0)).any fun e => uncovered u (dieSetOf u 0 0) e) = true) := by decide +kernel

theorem test_hyp_LogForkJoinComplete :
    (let w := ins 8 0; let th := th1 Thread.zero w
     startsB (at1 Thread.zero w) 0 1 w = true ∧ insOp w = 8 ∧ (th.golden || !(hdrLog th.hdr || opnd w 24 1 == 1) || !(u1 Thread.zero w).part.unitT) = true) ∧
    (let w := ins 8 (2 ^ 24); let th := th1 Thread.zero w
     startsB (at1 Thread.zero w) 0 1 w = true ∧ (th.golden || !(hdrLog th.hdr || opnd w 24 1 == 1) || !(u1 Thread.zero w).part.unitT) = false ∧
       isF (u1 Thread.zero w) 0 EVD_CTL.EN = false) ∧
    (let w := ins 8 (2 ^ 24); let s := runs (wr up [(0, EVD_CTL.EN, 1)]) 1 Thread.zero w
     startsB s 0 1 w = true ∧ isF (insStart s 0 1 w) 0 EVD_CTL.EN = true ∧
       readUnc (th1 Thread.zero w) (0x100 + 32 * min (opnd w 25 3) 5) (if opnd w 25 3 = 7 then 0 else 32) = false ∧
       readCor (th1 Thread.zero w) (0x100 + 32 * min (opnd w 25 3) 5) (if opnd w 25 3 = 7 then 0 else 32) = false) ∧
    (let w := ins 9 0; let th := { Thread.zero with kids := (List.range 7).map fun i => ⟨i, 2 + i, 7, false, false⟩ }
     startsB (at1 th w) 0 1 w = true ∧ insOp w = 9 ∧ freeKid (th1 th w) = none) ∧
    (let w := ins 9 0; let u := u1 Thread.zero w
     startsB (at1 Thread.zero w) 0 1 w = true ∧ freeKid (th1 Thread.zero w) ≠ none ∧
       (forkRoom u 0 && (lowestFree u 0).isSome && mget [] u.forkWait 0 == []) = true ∧
       readUnc (th1 Thread.zero w) 0x1C0 64 = false ∧ readCor (th1 Thread.zero w) 0x1C0 64 = false) ∧
    (let w := ins 9 (2 ^ 13); let s := runs { wr up [(0, THR_FORK_TMO.TMO, 1)] with forkWait := [(0, [9])] } 1 { Thread.zero with link := 1 } w
     let u := insStart s 0 1 w
     startsB s 0 1 w = true ∧ (forkRoom u 0 && (lowestFree u 0).isSome && mget [] u.forkWait 0 == []) = false ∧ opnd w 13 1 = 1 ∧
       getF u 0 THR_FORK_TMO.TMO ≠ 0 ∧ mayNotWait (insThread 0 (getT s 0 1) w) = true ∧ freeKid (insThread 0 (getT s 0 1) w) ≠ none) ∧
    (let w := ins 9 (2 ^ 13); let s := runs { wr up [(0, THR_FORK_TMO.TMO, 1)] with forkWait := [(0, [9])] } 1 Thread.zero w; let u := insStart s 0 1 w
     startsB s 0 1 w = true ∧ (forkRoom u 0 && (lowestFree u 0).isSome && mget [] u.forkWait 0 == []) = false ∧ opnd w 13 1 = 1 ∧
       getF u 0 THR_FORK_TMO.TMO ≠ 0 ∧ mayNotWait (insThread 0 (getT s 0 1) w) = false) ∧
    (let w := ins 9 0; let s := runs { up with forkWait := [(0, [9])] } 1 Thread.zero w; let u := insStart s 0 1 w
     startsB s 0 1 w = true ∧ (forkRoom u 0 && (lowestFree u 0).isSome && mget [] u.forkWait 0 == []) = false ∧ opnd w 13 1 = 0) ∧
    (let w := ins 10 0; let th := { Thread.zero with kids := [kid2], lock := true }
     startsB (at1 th w) 0 1 w = true ∧ insOp w = 10 ∧ mayNotWait (th1 th w) = true ∧
       ((th1 th w).kids.filter (covered (opnd w 21 7))).any (fun k => !k.ended) = true) ∧
    (let w := ins 10 0; let th := { Thread.zero with kids := [kid2] }
     startsB (at1 th w) 0 1 w = true ∧ mayNotWait (th1 th w) = false) ∧
    (let w := ins 10 0; let th := { Thread.zero with lock := true }
     startsB (at1 th w) 0 1 w = true ∧ mayNotWait (th1 th w) = true ∧
       ((th1 th w).kids.filter (covered (opnd w 21 7))).all (fun k => k.ended) = true) := by decide +kernel

theorem test_hyp_MessagesSentAndTaken :
    (let w := ins 11 (31 * 2 ^ 23); let th := { Thread.zero with golden := true }
     startsB (at1 th w) 0 1 w = true ∧ insOp w = 11 ∧ (th1 th w).golden = true) ∧
    (let w := ins 11 (31 * 2 ^ 23); let th := th1 Thread.zero w; let u := u1 Thread.zero w
     startsB (at1 Thread.zero w) 0 1 w = true ∧ th.golden = false ∧ th.link = 0 ∧ th.lock = false ∧
       readUnc th (8 * opnd w 15 6) (8 * (opnd w 21 2 + 1)) = false ∧ readCor th (8 * opnd w 15 6) (8 * (opnd w 21 2 + 1)) = false ∧
       (getCh u 0 31).holder = none ∧ (getCh u 0 31).senders = [] ∧ (getCh u 0 31).queue.length < 8) ∧
    (let w := ins 11 0; let s := runs (modCh up 0 0 fun e => { e with queue := List.replicate 8 [0] }) 1 Thread.zero w
     startsB s 0 1 w = true ∧ 8 ≤ (getCh (insStart s 0 1 w) 0 0).queue.length ∧ (insThread 0 (getT s 0 1) w).lock = false) ∧
    (let w := ins 11 0; let s := runs (modCh up 0 0 fun e => { e with holder := some 2, senders := [3] }) 1 { Thread.zero with lock := true } w
     startsB s 0 1 w = true ∧ (getCh (insStart s 0 1 w) 0 0).holder ≠ none ∧ (getCh (insStart s 0 1 w) 0 0).senders ≠ [] ∧
       (insThread 0 (getT s 0 1) w).lock = true ∧ (insThread 0 (getT s 0 1) w).link = 0) ∧
    (let w := ins 12 0; let s := runs (modCh up 0 0 fun e => { e with queue := [[5], [6]] }) 1 Thread.zero w
     startsB s 0 1 w = true ∧ insOp w = 12 ∧ (insThread 0 (getT s 0 1) w).link = 0 ∧ (getCh (insStart s 0 1 w) 0 0).queue = [5] :: [[6]]) ∧
    (let w := ins 12 0; startsB (at1 Thread.zero w) 0 1 w = true ∧ (getCh (u1 Thread.zero w) 0 0).queue = [] ∧ (th1 Thread.zero w).lock = false) ∧
    (let w := ins 12 0; let th := { Thread.zero with lock := true }
     startsB (at1 th w) 0 1 w = true ∧ (getCh (u1 th w) 0 0).queue = [] ∧ (th1 th w).lock = true) ∧
    (let w := ins 12 0; let th := { Thread.zero with link := 1 }
     startsB (at1 th w) 0 1 w = true ∧ (th1 th w).golden = false ∧ 0 < (th1 th w).link) := by decide +kernel

/-- The engine on, with COMMIT allowed. -/
def upd : State := wr up [(0, UPD_CTL.EN, 1), (0, UPD_CTL.COMMIT_EN, 1)]

theorem test_hyp_CommitEmitTrapEnd :
    (let w := ins 13 (2 ^ 25 + 2 ^ 24)
     startsB (at1 Thread.zero w) 0 1 w = true ∧ insOp w = 13 ∧ sequenceOpen (at1 Thread.zero w) 0 1 = false ∧ (th1 Thread.zero w).golden = false ∧
       readUnc (th1 Thread.zero w) (commitArea w) 64 = false ∧ readCor (th1 Thread.zero w) (commitArea w) 64 = false ∧
       opnd w 25 1 = 1 ∧ opnd w 24 1 = 1) ∧
    (let w := ins 13 0
     startsB (at1 Thread.zero w) 0 1 w = true ∧ sequenceOpen (at1 Thread.zero w) 0 1 = false ∧ isF (u1 Thread.zero w) 0 UPD_CTL.COMMIT_EN = false ∧ opnd w 25 1 = 0 ∧
       (th1 Thread.zero w).golden = false ∧ readUnc (th1 Thread.zero w) (commitArea w) 64 = false ∧ readCor (th1 Thread.zero w) (commitArea w) 64 = false) ∧
    (let w := ins 13 0; let th := { Thread.zero with golden := true, unc := 2 ^ 104 - 1 }
     startsB (at1 th w) 0 1 w = true ∧ (th1 th w).golden = true ∧ readUnc (th1 th w) (commitArea w) 64 = true) ∧
    (let w := ins 13 (2 ^ 25 + 7 * 2 ^ 21); let th := { Thread.zero with kids := [kid2] }
     startsB (at1 th w) 0 1 w = true ∧ opnd w 25 1 = 1 ∧ opnd w 24 1 = 0 ∧ (th1 th w).lock = false ∧ reserved (th1 th w) (opnd w 21 3) = true) ∧
    (let w := ins 13 (2 ^ 24); let th := { Thread.zero with link := 3 }; let s := runs upd 1 th w
     startsB s 0 1 w = true ∧ opnd w 25 1 = 0 ∧ 4 ≤ (insThread 0 (getT s 0 1) w).link + 1) ∧
    (let w := ins 13 (2 ^ 24); let th := { Thread.zero with link := 2 }; let s := runs upd 1 th w; let u := insStart s 0 1 w
     startsB s 0 1 w = true ∧ sequenceOpen s 0 1 = false ∧ isF u 0 UPD_CTL.COMMIT_EN = true ∧ isF u 0 UPD_CTL.EN = true ∧ opnd w 25 1 = 0 ∧
       opnd w 24 1 = 1 ∧ (insThread 0 (getT s 0 1) w).link + 1 < 4) ∧
    (let w := ins 13 (2 ^ 25); let s := runs upd 1 Thread.zero w; let u := insStart s 0 1 w
     startsB s 0 1 w = true ∧ sequenceOpen s 0 1 = false ∧ isF u 0 UPD_CTL.COMMIT_EN = true ∧ opnd w 25 1 = 1 ∧ opnd w 24 1 = 0 ∧
       (insThread 0 (getT s 0 1) w).lock = false ∧ reserved (insThread 0 (getT s 0 1) w) (opnd w 21 3) = false) := by decide +kernel

theorem test_hyp_CommitEmitTrapEnd_answers :
    (let w := ins 14 0; let th := { Thread.zero with child := true, parent := 2 }
     startsB (at1 th w) 0 1 w = true ∧ insOp w = 14 ∧ (th1 th w).child = true ∧ readUnc (th1 th w) 0x100 32 = false ∧ readCor (th1 th w) 0x100 32 = false) ∧
    (let w := ins 14 0; let th := { Thread.zero with deferred := true }
     startsB (at1 th w) 0 1 w = true ∧ (th1 th w).child = false ∧ (th1 th w).deferred = true ∧ mayNotWait (th1 th w) = false) ∧
    (let w := ins 14 0; let th := { Thread.zero with deferred := true, lock := true, unc := 2 ^ 32 }
     startsB (at1 th w) 0 1 w = true ∧ (th1 th w).deferred = true ∧ mayNotWait (th1 th w) = true ∧ readUnc (th1 th w) 0x100 32 = true) ∧
    (let w := ins 14 0; let th := { Thread.zero with sent := true, aborted := true }
     startsB (at1 th w) 0 1 w = true ∧ (th1 th w).sent = true ∧ (th1 th w).aborted = true) ∧
    (let w := ins 14 0; let th := { Thread.zero with sent := true }
     startsB (at1 th w) 0 1 w = true ∧ (th1 th w).deferred = false ∧ (th1 th w).sent = true ∧ (th1 th w).aborted = false) ∧
    (let w := ins 14 (5 * 2 ^ 25 + 2 ^ 24 + 15 * 2 ^ 20); let th := th1 Thread.zero w
     startsB (at1 Thread.zero w) 0 1 w = true ∧ th.child = false ∧ th.deferred = false ∧ th.sent = false ∧
       readUnc th (0x100 + 32 * 5) 64 = false ∧ readCor th (0x100 + 32 * 5) 64 = false) ∧
    (let w := ins 15 (255 * 2 ^ 20); startsB (at1 Thread.zero w) 0 1 w = true ∧ insOp w = 15) ∧
    (let w := ins 16 0; let th := { Thread.zero with child := true, parent := 2 }
     startsB (at1 th w) 0 1 w = true ∧ insOp w = 16 ∧ (th1 th w).child = true) ∧
    (let w := ins 16 0; startsB (at1 Thread.zero w) 0 1 w = true ∧ (th1 Thread.zero w).child = false ∧
       (th1 Thread.zero w).kids.all (fun k => k.ended) = true) ∧
    (let w := ins 16 0; let th := { Thread.zero with kids := [kid2] }
     startsB (at1 th w) 0 1 w = true ∧ (th1 th w).kids.any (fun k => !k.ended) = true ∧ mayNotWait (th1 th w) = false) ∧
    (let w := ins 16 0; let th := { Thread.zero with kids := [kid2], lock := true }
     startsB (at1 th w) 0 1 w = true ∧ (th1 th w).kids.any (fun k => !k.ended) = true ∧ mayNotWait (th1 th w) = true) := by decide +kernel

/-- A speculating thread whose real result has arrived. -/
def spc (v : Nat) (x : Wait) : State :=
  setT up 0 1 { Thread.zero with st := .waitSearch, wait := x, spec := true, specRec := 0, real := some (BitVec.ofNat 256 v) }

theorem test_hyp_SpeculationResolvesAndWordsRestore :
    (let th := getT (spc 0 .resolve) 0 1
     th.real = some 0 ∧ th.spec = true ∧ encRec (matchFields (decRec 0)) = encRec (matchFields (decRec (recOf th th.specRec))) ∧ th.wait = .resolve ∧
     (getT (spc 0 (.record 0)) 0 1).wait = .record (getT (spc 0 (.record 0)) 0 1).specRec ∧
     (getT (spc 0 (.record 1)) 0 1).wait = .record 1 ∧ 1 ≠ (getT (spc 0 (.record 1)) 0 1).specRec ∧ (getT (spc 0 (.record 1)) 0 1).held = none) ∧
    (let th := getT (modT (spc 0 (.record 1)) 0 1 fun th => { th with held := some ⟨1, 0, 0, 0, 0, none⟩ }) 0 1
     th.spec = true ∧ th.wait = .record 1 ∧ 1 ≠ th.specRec ∧ th.held = some ⟨1, 0, 0, 0, 0, none⟩) ∧
    (let th := getT (spc (15 * 2 ^ 252) .resolve) 0 1
     th.real = some (BitVec.ofNat 256 (15 * 2 ^ 252)) ∧ th.spec = true ∧
       encRec (matchFields (decRec (BitVec.ofNat 256 (15 * 2 ^ 252)))) ≠ encRec (matchFields (decRec (recOf th th.specRec)))) ∧
    recipeFetch up 0 16383 ≠ .bad ∧
    (let s := { up with recipe := [(0, ⟨3, 0⟩)] }
     recipeFetch s 0 0 = .bad ∧ ((restoreOrder s 0).filter fun e => !fenced s e).findSome? (fun e => (recipeFetch s e 0).data?) = some 0) ∧
    (let s := at1 Thread.zero (ins 0x11 0)
     canRun s 0 1 = true ∧ recipeFetch s 0 (getT s 0 1).pc = .ok (ins 0x11 0).toNat ∧ reservedOp (insOp (ins 0x11 0)) = true) ∧
    reservedOp (insOp (ins 0x10 0)) = false ∧ canRun up 0 1 = false := by decide +kernel

/-- Threads in given states on die 0. -/
def thrs (s : State) (l : List (Nat × Thread)) : State := l.foldl (fun s p => setT s 0 p.1 p.2) s
/-- A waiting thread. -/
def wt (st : TState) (x : Wait) : Thread := { Thread.zero with st := st, wait := x }

theorem test_hyp_ThreadWaitsEnd :
    (let s := thrs (modCh up 0 31 fun e => { e with senders := [1] }) [(1, wt .waitEvent (.send 31 [7] 0))]
     (getCh s 0 31).senders = 1 :: [] ∧ (getT s 0 1).wait = .send 31 [7] 0 ∧ (getCh s 0 31).holder = none ∧ (getCh s 0 31).queue.length < 8 ∧
       (getF s 0 THR_EVT_TMO.TMO = 0)) ∧
    (let s := thrs (modCh up 0 0 fun e => { e with holder := some 1, staged := [7] }) [(1, wt .run (.send 0 [7] 0))]
     (getCh s 0 0).holder = some 1 ∧ (getT s 0 1).st = .run) ∧
    (let s := thrs (modCh up 0 0 fun e => { e with queue := [[7]], waiters := [2] }) [(2, wt .waitEvent (.waite 0 0 0))]
     (getCh s 0 0).queue = [7] :: [] ∧ (getCh s 0 0).waiters = 2 :: [] ∧ (getT s 0 2).wait = .waite 0 0 0) ∧
    (let s := thrs (wr (modCh up 0 0 fun e => { e with waiters := [2] }) [(0, THR_EVT_TMO.TMO, 1)]) [(2, wt .waitEvent (.waite 0 0 0))]
     getF s 0 THR_EVT_TMO.TMO ≠ 0 ∧ (getT s 0 2).wait = .waite 0 0 0 ∧ (getCh s 0 0).waiters.contains 2 = true) ∧
    (let s := thrs { up with forkWait := [(0, [1])] } [(1, wt .waitJoin (.fork 5 0 0))]
     mget [] s.forkWait 0 = 1 :: [] ∧ (getT s 0 1).wait = .fork 5 0 0 ∧ forkRoom s 0 = true ∧ lowestFree s 0 ≠ none ∧
       forkRoom (wr s [(0, THR_GRP_CFG.RESV 0, 511)]) 0 = false) ∧
    (let s := wr { up with fltq := [(0, [1, 2])] } [(0, SEQ_ENTRY.VALID 0, 1)]
     mget [] s.fltq 0 = 1 :: [2] ∧ (getT s 0 0).st = .free ∧ isF s 0 (SEQ_ENTRY.VALID (getF s 0 THR_SUP.ENTRY)) = true ∧ gone s 0 = false) ∧
    (let s := thrs up [(1, { wt .faulted .idle with kids := [{ kid2 with ended := true }] }), (3, { wt .faulted .idle with kids := [kid2] })]
     1 = 513 % 512 ∧ (getT s 0 1).st = .faulted ∧ (∀ k ∈ (getT s 0 1).kids, k.ended = true) ∧
       (getT s 0 3).st = .faulted ∧ (∃ k ∈ (getT s 0 3).kids, k.ended = false)) ∧
    (let s := thrs (wr up [(0, THR_CTL.QUIESCE_EN, 1)]) [(1, wt .waitEvent (.waite 0 0 0))]
     isF s 0 THR_CTL.QUIESCE_EN = true ∧ eventSet s 0 ≠ [] ∧ mget 0 s.quiesce 0 = 0) ∧
    (let s := { wr up [(0, THR_QUIESCE_KILL.KILL, 1)] with quiesce := [(0, 1)] }
     mget 0 s.quiesce 0 = 1 ∧ getF s 0 THR_QUIESCE_KILL.KILL ≠ 0 ∧ eventSet s 0 = [] ∧
       eventSet (thrs s [(1, wt .waitEvent (.waite 0 0 0))]) 0 ≠ []) := by decide +kernel

/-- Debug level 1, thread 1 selected. -/
def dbg : State := wr up [(0, DBG_CTL.LEVEL, 1), (0, DBG_THREAD.THREAD, 1), (0, DBG_HOLD_MAX.HOLD, 1), (0, LKP_CH_CFG.CLASS 0, 1)]

theorem test_hyp_DebuggerHaltsAndResumes :
    getF up 0 DBG_CTL.LEVEL = 0 ∧
    (let s := thrs dbg [(1, wt .ready .idle)]
     getF s 0 DBG_THREAD.THREAD = 1 ∧ getF s 0 DBG_CTL.LEVEL ≠ 0 ∧ (getT s 0 1).st ≠ .free ∧ (getT s 0 1).st ≠ .halted ∧ (getT s 0 1).st ≠ .faulted ∧
       (getT s 0 1).sendLost = false ∧ (getT s 0 1).wait ≠ .kids ∧ (getT s 0 1).rem ≠ .faulted) ∧
    (let s := thrs (modCh dbg 0 0 fun e => { e with holder := some 1 }) [(1, wt .halted (.send 0 [1] 0))]
     (getT s 0 1).st = .halted ∧ (getT s 0 1).rem ≠ .faulted ∧ (getT s 0 1).child = false ∧ (getT s 0 1).sent = false ∧ 1 ≠ 0 ∧
       isF s 0 (LKP_CH_CFG.CLASS (getT s 0 1).chan) = true ∧ (getCh s 0 0).holder = some 1 ∧ getF s 0 DBG_CTL.LEVEL = 1 ∧
       getF s 0 DBG_HOLD_MAX.HOLD ≠ 0 ∧ 0 = 32 % 32) := by decide +kernel
/-- A banked register field written. -/
def wrb (s : State) (l : List (Nat × Fld × Nat × Nat)) : State := l.foldl (fun s q => setF s q.1 q.2.1 q.2.2.1 q.2.2.2) s

/-- A search of partition 0 from thread 1 of die 0. -/
def sr0 : Search :=
  { sid := 0, home := 0, thread := 1, rno := 0, mode := 0, part := 0, width := 0, gen := 0, key := 0, fl := false, dieSet := 1, cmask := 1,
    depth := 3, store := false, cellar := false, ao := true, srRgn := 0, clRgn := 0, lost := false, step := none, ra := false, par := none, spec := false, launched := none,
    booked := false, samples := [], contribs := [], below := none, forced := none, inbound := none }

theorem test_hyp_SearchesLaunchVerifyAndMerge :
    (let x := { sr0 with inbound := some 9 }; let s := { wr prt [(0, ATC_THROTTLE.FENCED, 1)] with searches := [x] }
     s.searches.find? (fun x => x.sid == 0 && x.launched.isNone) = some x ∧ (diesOf s x.dieSet).any (fun d => uncovered s x.dieSet d) = true ∧
       (diesOf prt x.dieSet).any (fun d => uncovered prt x.dieSet d) = false) ∧
    (let s := { up with searches := [sr0] }
     s.searches.find? (fun x => x.sid == 0 && x.launched.isNone) = some sr0 ∧ sr0.inbound = none ∧ partValid s sr0.home sr0.part = false) ∧
    (let x := { sr0 with depth := 2 }; let s := wr { prt with searches := [x] } [(0, PART_CASC.CASC_MASK, 8)]
     s.searches.find? (fun x => x.sid == 0 && x.launched.isNone) = some x ∧ partValid s 0 0 = true ∧ x.depth < partDepth s 0 0) ∧
    (let s := { prt with searches := [sr0] }
     partValid s 0 0 = true ∧ partDepth s 0 0 ≤ sr0.depth ∧ partDepth s 0 0 = 0 ∧
       (diesOf s (fixDescriptor s sr0).dieSet).any (fun d => uncovered s (fixDescriptor s sr0).dieSet d) = false) ∧
    (let s := wr { prt with searches := [sr0] } [(0, ATC_THROTTLE.FENCED, 1)]
     (diesOf s (fixDescriptor s sr0).dieSet).any (fun d => uncovered s (fixDescriptor s sr0).dieSet d) = true) ∧
    (let x := { sr0 with booked := true, dieSet := 1 }; let s := { prt with books := [⟨0, 0, 0, 0, 1, 0⟩] }
     let mine := fun (b : Book) => b.cyc == s.cyc && b.home == x.home && b.thread == bookName x
     s.books.any mine = true ∧ (∀ d ∈ (diesOf s x.dieSet).filter (fun d => launches s d), s.books.any (fun b => mine b && b.die == d) = true) ∧
       (∃ d ∈ (diesOf s 3).filter (fun d => launches s d), s.books.any (fun b => mine b && b.die == d) = false)) ∧
    (let s := setT { prt with searches := [{ sr0 with spec := true }] } 0 1 { Thread.zero with spec := true }
     ({ sr0 with spec := true }.spec && (getT s 0 1).spec) = true ∧ (false && (getT s 0 1).spec) = false) ∧
    (let s := wr { prt with searches := [{ sr0 with depth := 3 }] } [(0, PART_CASC.CASC_MASK, 8), (0, CSC_STS.DEPTH, 3), (0, CSC_STS.D_UP, 1)]
     partDepth s 0 0 = 3 ∧ 3 ≤ getF s 0 CSC_STS.DEPTH ∧ isF s 0 CSC_STS.D_UP = true ∧ isF prt 0 CSC_STS.D_UP = false) ∧
    (let x := { sr0 with booked := true, dieSet := 1 }; let s := { prt with books := [⟨0, 5, 0, 0, 1, 0⟩] }
     let own := fun (b : Book) => b.home == x.home && b.thread == bookName x
     s.books.any (fun b => b.cyc == s.cyc && own b) = false ∧ s.books.any (fun b => own b && decide (s.cyc < b.cyc)) = true) ∧
    (let s := { prt with grants := [⟨0, 0, 0, searchOwner prt sr0⟩] }; let ds := (diesOf s sr0.dieSet).filter fun d => launches s d
     let mine := fun (g : Grant) => g.inst == 0 && g.cyc == s.cyc && g.owner == searchOwner s sr0 && ds.contains g.die
     sr0.booked = false ∧ depthOf sr0.cmask = 0 ∧ 0 ≤ mget 0 s.link (lkCredit 1) ∧ (∀ d ∈ ds, s.grants.any (fun g => mine g && g.die == d) = true) ∧
       (∃ d ∈ ds, prt.grants.any (fun g => g.die == d) = false)) ∧
    (let x := { sr0 with launched := some 0, samples := [⟨0, none, none, 0⟩] }; let s := { prt with searches := [x] }
     s.searches.find? (fun x => x.sid == 0) = some x ∧ x.samples.find? (fun y => y.die == 0) = some ⟨0, none, none, 0⟩ ∧ contribAt x 0 = none) ∧
    (let x := { sr0 with launched := some 0, samples := [⟨0, none, none, 0⟩], contribs := [(0, Contrib.none)] }; let s := { prt with searches := [x] }
     s.searches.find? (fun x => x.sid == 0 && x.launched.isSome) = some x ∧ samplesIn s x = true ∧ needsBelow s x = false ∧
       packageResult s x = (s, mergeAll [Contrib.none]) ∧ emitResult s x = s ∧ x.inbound = none) ∧
    (let s := wr prt [(0, CSC_STS.U_UP, 1)]; let t : State := { s with link := [(lkCredit 0, 2)] }
     isF s 0 CSC_STS.U_UP = true ∧ getF s 0 CSC_STS.U_STATE ≠ 7 ∧ (sealFrame (contribFrame 9 1 Contrib.none)).length ≤ mget 0 t.link (lkCredit 0) ∧
       isF prt 0 CSC_STS.U_UP = false ∧ getF (wr s [(0, CSC_STS.U_STATE, 7)]) 0 CSC_STS.U_STATE = 7) ∧
    (let x := { sr0 with launched := some 0, cmask := 3, below := some Contrib.none, inbound := some 9 }; needsBelow prt x = true ∧ x.below ≠ none) ∧
    (let s := { upA with pairChecks := [⟨0, 0, 0, 0, 0, 0, 0⟩] }
     s.pairChecks = ⟨0, 0, 0, 0, 0, 0, 0⟩ :: []) := by decide +kernel

/-- The second package of a cascade, both links up. -/
def casc : State := wr { up with part := { Part.default with casc := 1 } }
  [(0, CSC_CTL.U_EN, 1), (0, CSC_CTL.D_EN, 1), (0, CSC_STS.U_UP, 1), (0, CSC_STS.D_UP, 1), (0, CSC_STS.U_LANES, 15), (0, CSC_STS.D_LANES, 7)]
/-- A good SEARCH frame of one beat with a package mask and the FL bit. -/
def frm (m fl : Nat) : List Nat := sealFrame [2 ^ 252 + m * 2 ^ 228 + fl * 2 ^ 222]

theorem test_hyp_CascadeFramesAndTimeouts :
    (portOpen casc 0 = true ∧ cascPos casc = 1 ∧ fld (2 ^ 253) 252 4 ≠ 1) ∧
    (let f := frm 2 0; fld (f.headD 0) 252 4 = 1 ∧ f = f.take (frameLen (f.headD 0)) ∧ frameGood f = true ∧ frFl (f.headD 0) = false ∧
       frameGood [2 ^ 252 + 1] = false) ∧
    (depthOf (beyond casc (inboundSearch casc (frm 1 0))).cmask < cascPos casc) ∧
    (let x := beyond casc (inboundSearch casc (frm 4 0)); cascPos casc ≤ depthOf x.cmask ∧ x.cmask.testBit (cascPos casc) = false) ∧
    (let x := beyond casc (inboundSearch casc (frm 2 0)); cascPos casc ≤ depthOf x.cmask ∧ x.cmask.testBit (cascPos casc) = true ∧ x.fl = false) ∧
    (let f := frm 2 1; let x := beyond casc (inboundSearch casc f)
     frameGood f = true ∧ frFl (f.headD 0) = true ∧ cascPos casc ≤ depthOf x.cmask ∧ x.cmask.testBit (cascPos casc) = true ∧ x.fl = true ∧
       (!isF casc 0 FLT_ERST.GO && (diesOf casc x.dieSet).all (fun d => slotOf casc d 0 (frSlot (f.headD 0)) == 0x14)) = true) ∧
    (let s := wr casc [(0, PART_BANKS.BANKS 0, 1)]; let f := frm 2 1; let x := beyond s (inboundSearch s f); x.fl = true ∧
       (!isF s 0 FLT_ERST.GO && (diesOf s x.dieSet).all (fun d => slotOf s d 0 (frSlot (f.headD 0)) == 0x14)) = false) ∧
    (let s := { casc with link := [(lkCredit 1, 1)] }
     portOpen s 1 = true ∧ s.relay = [] ∧ (frm 2 0).length ≤ mget 0 s.link (lkCredit 1)) ∧
    (let x := { sr0 with launched := some 0, cmask := 4, fl := true }; let s := { casc with searches := [x] }
     portOpen s 1 = true ∧ fld (2 ^ 253) 252 4 = 2 ∧ (s.searches.find? fun x => contribFor x 0 && needsBelow s x) = some x ∧
       (let u := raiseErr (bumpSat s 0 CSC_CRC_CNT.D_CRC) 0 pgCsc CSC_ERR.CRC it0
        (u.searches.find? fun x => contribFor x 0 && needsBelow u x) = some x) ∧
       (s.searches.find? fun x => x.sid == 0 && x.launched.isSome && x.fl && x.below.isNone && needsBelow s x) = some x) ∧
    (portOn casc 1 = true ∧ isF casc 0 (pUp 1) = true) := by decide +kernel

theorem test_hyp_CascadeLanesDropAndReturn :
    (portOn casc 0 = true ∧ isF casc 0 (pUp 0) = true ∧ fld (1 * 2 ^ 226) 226 3 = 1 ∧ fld (4 * 2 ^ 226) 226 3 = 4 ∧ fld (3 * 2 ^ 226) 226 3 = 3 ∧
      fld (5 * 2 ^ 226) 226 3 = 5 ∧ getF casc 0 (pState 0) ≠ 7) ∧
    ((lanesNext casc 1).testBit 2 = true ∧ 2 ≤ popcount (lanesNext casc 1 - 2 ^ 2) 4 ∧
      (let s := setLk casc (lkPend 1) 7; (lanesNext s 1).testBit 2 = true ∧ popcount (lanesNext s 1 - 2 ^ 2) 4 < 2)) ∧
    (let s := wr casc [(0, CSC_CTL.RETURN, 1)]
     isF s 0 CSC_CTL.RETURN = true ∧ (lanesNext s 1).testBit 3 = false ∧ 3 < 4 ∧ getF s 0 (pLanes 1) ≠ 15) ∧
    (let s := setLk (wr casc [(0, CSC_STS.D_STATE, 6)]) (lkWait 1) 1
     portOn s 1 = true ∧ getF s 0 (pState 1) = 6 ∧ mget 0 s.link (lkWait 1) = 1) ∧
    (getF (wr casc [(0, CSC_STS.D_STATE, 7)]) 0 (pState 1) = 7) ∧
    (let s := wr casc [(0, CSC_STS.U_UP, 0), (0, CSC_STS.D_UP, 0)]
     isF s 0 (pUp 0) = false ∧ isF s 0 (pUp 1) = false ∧ 1 + 1 ≠ cascPos s ∧ 0 + 1 = cascPos s ∧ 3 < 4 ∧ 3 ≤ 3) := by decide +kernel

theorem test_hyp_RingFaultsAndHeartbeats :
    (let s : State := { up with dropped := [⟨7, 5, 0, 9⟩] }
     s.dropped.find? (fun c => c.src == 7) = some ⟨7, 5, 0, 9⟩ ∧ up.dropped.any (fun c => c.src == 7) = false) ∧
    (let s : State := { up with ringAir := [⟨7, 5, mgmtId 7 7, 9⟩] }
     s.dropped.any (fun c => c.src == 7) = false ∧ s.ringAir.find? (RCell.named 7 5 (mgmtId 7 7)) = some ⟨7, 5, mgmtId 7 7, 9⟩ ∧ 4 ≤ 5) ∧
    (let s : State := { up with ringAir := [⟨7, 5, 16, 9⟩] }; s.ringAir.any (RCell.named 7 5 16) = true) ∧
    (7 < up.part.dieCnt ∧ 1 < 2 ∧ isF up 7 ARB_RS_PATH.CCW_FAIL = false ∧ isF up 7 ARB_RS_PATH.CCW_ALT = false ∧
      isF (wr up [(7, ARB_RS_PATH.CCW_ALT, 1)]) 7 ARB_RS_PATH.CCW_ALT = true) ∧
    (stopLive upA 0 = true ∧ avail upA = true ∧ stopLive upA (partner 0) = true) ∧
    (let s : State := { up with mgmt := [⟨8, 0, 3, 0, 0, 0, 0, 0⟩] }
     (s.mgmt.any fun m => m.type == 8 && m.mid == 3) = true) ∧
    (stopLive up 0 = true ∧ stopLive up 7 = true ∧ 7 ≠ 0 ∧ (3, pgShelf, 1024) ∈ [(0, pgPart, 256), (1, pgCr, 256), (2, pgSr, 256), (3, pgShelf, 1024)] ∧
      1023 < 1024) := by decide +kernel

theorem test_hyp_PairsLoseAndRegainMembers :
    (let s := { upA with lostDies := 1 }
     avail s = true ∧ 0 < s.part.dieCnt ∧ s.inReset = false ∧ fenced s 0 = true ∧ lossState (pairSt s 0) 0 = some 3 ∧
       lossState (pairSt (wr s [(0, PKG_PAIR_STS.PAIR 0, 7)]) 0) 0 = none) ∧
    (let s := setHome (wr upA [(0, LKP_CH_CFG.DIE 5, 0)]) 5 1
     1 < 16 ∧ 1 = 2 ^ 0 ∧ mayReturn s 0 = true ∧ displaced s 0 = [5] ∧ displaced s 0 ≠ []) ∧
    (let s := wr (setHome upA 5 1) [(0, PKG_PAIR_CTL.RETURN, 1)]
     homeOf s 5 / 2 = 0 ∧ (displaced s 0).contains 5 = true ∧ (getF s 0 PKG_PAIR_CTL.RETURN).testBit 0 = true ∧
       s.reqs.any (fun r => r.chan == 5) = false) ∧
    (let s := { wr upA [(0, PKG_PAIR_STS.PAIR 3, 2)] with lostDies := 128 }
     avail s = true ∧ 2 * 3 + 1 < s.part.dieCnt ∧ getF s 0 (PKG_PAIR_STS.PAIR 3) = 2 ∧ s.heldDies.testBit 7 = false ∧ isF s 7 ATC_THROTTLE.FENCED = false) ∧
    (let s : State := wrb { upA with rejoins := [⟨0, 3, 0, 0, 0⟩] } [(0, SHELF_DESC.OWNED, 1, 3)]
     let owned := (List.range 1024).filter fun sh => isF s 0 SHELF_DESC.OWNED sh && decide (0 < 1024 * sh + 1024)
     s.rejoins.find? (fun r => r.pair == 0 && r.phase == 3) = some ⟨0, 3, 0, 0, 0⟩ ∧ advanceCopy owned 0 1023 = (4095, 1023) ∧
       advanceCopy owned 0 1024 = (2 ^ 20, 1024)) ∧
    (let s : State := { upA with rejoins := [⟨0, 5, 0, 0, 0⟩] }
     s.rejoins.any (fun r => r.pair == 0 && r.phase == 5) = true ∧ posAt s 0 s.cyc = 0 ∧ posAt { s with cyc := 1 } 0 1 ≠ 0) ∧
    getF upA 0 (PKG_PAIR_STS.PAIR 0) = 1 := by decide +kernel
/-- A 512-bit record from its first 32-bit words, each stored little-endian. -/
def entry (ws : List Nat) : BitVec 512 :=
  BitVec.ofNat 512 ((ws.flatMap fun w => (List.range 4).map fun i => w / 256 ^ i % 256).foldl (fun a b => a * 256 + b) 0 * 2 ^ (512 - 32 * ws.length))

/-- A table command of submission queue 0 that has reached die 0, not yet accepted. -/
def cm (id : Nat) (e : BitVec 512) : UCmd :=
  { id := id, die := 0, src := 0, origin := .sq 0 0, entry := e, conts := [], expect := 0, arrived := true, acc := none, after := [],
    plan := [], pairAt := none, pairWait := false, lastOp := 0, status := none, gra := 0, moved := 0, cause := 0, aux := 0,
    target := none, linked := false, cut := false, from_ := 0, planned := false, begun := false, returning := false }

/-- The engine with commands. -/
def eng (l : List UCmd) : State := { upd with cmds := l }

theorem test_hyp_UpdateCommandsAccepted :
    (let c := cm 0 (entry [1 * 2 ^ 24])
     acceptable (eng [c]) 0 0 (fun c => ceOp c.entry == 1 && mayRequest c.src 1) = some c) ∧
    (let c := cm 0 (entry [0xC * 2 ^ 24])
     acceptable (eng [c]) 0 0 (fun c => ceOp c.entry == 0xC && mayRequest c.src 0xC) = some c) ∧
    (let c := cm 0 (entry [0xD * 2 ^ 24])
     acceptable (eng [c]) 0 0 (fun c => !mayRequest c.src (ceOp c.entry)) = some c) ∧
    (let c := cm 1 (entry [0xE * 2 ^ 24, 1]); let h := { cm 0 (entry [1 * 2 ^ 24]) with acc := some 0, expect := 1 }
     acceptable (eng [c]) 0 1 (fun c => ceOp c.entry == 0xE && mayRequest c.src 0xE) = some c ∧ openHead (eng [c]) c = none ∧
     acceptable (eng [h, c]) 0 1 (fun c => ceOp c.entry == 0xE && mayRequest c.src 0xE) = some c ∧ openHead (eng [h, c]) c = some h ∧
       ceGra c.entry = ceGra h.entry + h.conts.length + 1) ∧
    (let c := cm 0 (entry [0xA * 2 ^ 24 + 2 * 2 ^ 6])
     acceptable (eng [c]) 0 0 (fun c => ceOp c.entry == 0xA && mayRequest c.src 0xA) = some c ∧ fenced (eng [c]) 0 = false ∧
       badDieField (eng [c]) (ceGra c.entry) = false ∧ ceReserved c.entry = true ∧ ceSrc c.entry = 2 ∧ ceAd c.entry % 64 = 0 ∧
       (eng [c]).part.unitS = true) ∧
    (badDieField upA (2 ^ 20) = true ∧ ceReserved (entry [1]) = false ∧ ceSrc (entry [0xA * 2 ^ 24 + 3 * 2 ^ 6]) = 3 ∧ fenced { up with lostDies := 1 } 0 = true) ∧
    (mayRequest 0x40 8 = false ∧ mayRequest 0x3F 8 = true ∧ mayRequest 0x48 4 = false) := by decide +kernel

theorem test_hyp_UpdateOperationsRunAndComplete :
    (let op := PortOp.write 5 none 1 0 0 0 0
     let c := { cm 0 (entry [1 * 2 ^ 24]) with acc := some 0, planned := true, plan := [op] }
     (let s := { eng [c] with guards := [⟨0, 5, 0, false⟩] }
      (s.cmds.find? fun c => c.id == 0 && c.planned && c.status.isNone && !c.pairWait) = some c ∧ nextOp s 0 c = some op ∧
        (opWrites op).any (fun g => (opDies s c op).any fun e => guarded s e g) = true) ∧
     (let s := { eng [c] with grants := [⟨0, 0, 0, 0x10⟩] }
      nextOp s 0 c = some op ∧ (opWrites op).any (fun g => (opDies s c op).any fun e => guarded s e g) = false ∧ (opDies s c op).length < 2 ∧
        (useGrant s 0 0 0x10).isSome = true) ∧
     (let s := { upA with cmds := [c] }
      nextOp s 0 c = some op ∧ 2 ≤ (opDies s c op).length ∧ c.pairAt = none ∧ pairTarget s 0 0x10 = some 16) ∧
     (let c := { c with pairAt := some (0, false) }; let s := { upA with cmds := [c], cyc := 1 }
      nextOp s 0 c = some op ∧ 2 ≤ (opDies s c op).length ∧ c.pairAt = some (0, false) ∧ 0 < s.cyc) ∧
     (let c := { c with pairAt := some (0, true) }; let s := { upA with cmds := [c] }
      nextOp s 0 c = some op ∧ 2 ≤ (opDies s c op).length ∧ c.pairAt = some (s.cyc, true)) ∧
     opReadable up [0] op = true) ∧
    (let s := setRow up 0 5 { Row.zero with shChk := 3 }
     opReadable s [0] (.copy 0 9 true [5] []) = false) ∧
    (let x : RCell := ⟨0, 3, 1, 0⟩; let s := { upA with ringAir := [x] }
     (s.ringAir.find? fun x => x.cls == 3 && x.id == 0 + 1) = some x ∧ (takeCell s 1 0 3 1 0).2 = true ∧ (takeCell s 1 0 3 1 4).2 = false) ∧
    (let s := { eng [] with flips := [(0, 1, 0)] }
     (s.flips.find? fun f => f.1 == 0 && decide (f.2.2 ≤ s.cyc)) = some (0, 1, 0)) ∧
    (let x := { cm 0 (entry [0xC * 2 ^ 24]) with acc := some 0, planned := true }; let s := eng [x]
     (s.cmds.find? fun c => c.id == 0 && c.acc.isSome && !c.returning) = some x ∧ x.target = none ∧ x.cut = false ∧ lateCmd s x = x ∧ x.after = [] ∧
       cmdOver s x = true ∧ cplFirst s x = true ∧ x.origin ≠ .scrub) ∧
    (let c := { cm 0 (entry [1 * 2 ^ 24]) with arrived := false }
     ((eng [c]).cmds.find? fun c => c.id == 0 && !c.arrived) = some c ∧ gone (eng [c]) c.die = false ∧ gone { eng [c] with lostDies := 1 } c.die = true ∧
       (takeCell (eng [c]) 0 0 5 (mgmtId 4 0) 0).2 = true ∧ (takeCell (eng [c]) 0 0 5 (mgmtId 4 0) 4).2 = false) ∧
    (let c := { cm 0 (entry [1 * 2 ^ 24]) with acc := some 0, returning := true, from_ := 1 }; let s := eng [c]
     (s.cmds.find? fun c => c.id == 0 && c.returning) = some c ∧
       s.cmds.any (fun x => x.returning && srcKey x == srcKey c && x.die == c.die && decide (x.acc.getD 0 < c.acc.getD 0)) = false) := by
  decide +kernel

/-- A bulk record for a row, with its CRC. -/
def brec (gra : Nat) : BitVec 512 :=
  let r := entry [gra]
  let c := crc32 (bytesBE 60 (getBE r 0 480))
  BitVec.ofNat 512 (r.toNat + ((List.range 4).map fun i => c / 256 ^ i % 256).foldl (fun a b => a * 256 + b) 0)
/-- A bulk load of one record from host memory in progress. -/
def blk : UCmd := { cm 0 (entry [0xA * 2 ^ 24, 0, 1]) with acc := some 0, begun := true }

theorem test_hyp_BulkRecordsAndScrubbing :
    (let s := eng [blk]
     (s.cmds.find? fun c => c.id == 0 && c.die == 0 && ceOp c.entry == 0xA && c.begun && c.status.isNone && c.origin != .scrub) = some blk ∧
       blk.plan = [] ∧ blk.aux < ceGra2 blk.entry ∧ blk.pairWait = false ∧ ceSrc blk.entry = 0 ∧ canMaster s = false ∧
       canMaster (wr s [(0, HIF_STS.BME, 1)]) = true) ∧
    crc32 (bytesBE 60 (getBE (entry [0]) 0 480)) ≠ ofBytesLE (bytesBE 4 (getBE (entry [0]) 480 32)) ∧
    (crc32 (bytesBE 60 (getBE (brec (2 ^ 20)) 0 480)) = ofBytesLE (bytesBE 4 (getBE (brec (2 ^ 20)) 480 32)) ∧ graDie (brGra (brec (2 ^ 20))) ≠ 0) ∧
    (crc32 (bytesBE 60 (getBE (brec (2 ^ 25)) 0 480)) = ofBytesLE (bytesBE 4 (getBE (brec (2 ^ 25)) 480 32)) ∧ avail (eng [blk]) = false ∧ graDie (brGra (brec (2 ^ 25))) = 0 ∧
      bulkCheck (eng [blk]) blk (brec (2 ^ 25)) blk.moved (blk.gra + 1 - blk.moved) = some 3 ∧
      (let s := wrb (eng [blk]) [(0, SHELF_DESC.OWNED, 1, 0), (0, PART_CTL.VALID, 1, 0)]
       bulkCheck s blk (brec (2 ^ 25)) blk.moved (blk.gra + 1 - blk.moved) = none)) ∧
    (let s := wr up [(0, UPD_CTL.SCRUB_EN, 1), (0, UPD_SCRUB.INTERVAL, 1)]
     isF s 0 UPD_CTL.SCRUB_EN = true ∧ getF s 0 UPD_SCRUB.INTERVAL ≠ 0 ∧ gone s 0 = false ∧ useGrant s 0 0 0x11 = none ∧ mget 0 s.scrubAt 0 = 0 ∧
       (let t : State := { s with scrubAt := [(0, 1)], cyc := 63 }; mget 0 t.scrubAt 0 ≠ 0 ∧ t.cyc < mget 0 t.scrubAt 0 - 1 + max 64 (getF t 0 UPD_SCRUB.INTERVAL)) ∧
       (let t : State := { s with scrubAt := [(0, 1)], cyc := 64 }; mget 0 t.scrubAt 0 - 1 + max 64 (getF t 0 UPD_SCRUB.INTERVAL) ≤ t.cyc) ∧
       (let s := wrb { s with grants := [⟨0, 0, 0, 0x11⟩] } [(0, SHELF_DESC.OWNED, 1, 0)]
        useGrant s 0 0 0x11 = some { s with grants := [] } ∧ mget [] s.susq 0 = [] ∧ nextSwept s 0 (getF s 0 UPD_SCRUB_POS.POS % 1048576) = some 0 ∧
          mget [] ({ s with susq := [(0, [7])] } : State).susq 0 = 7 :: [])) := by decide +kernel

/-- A store step of die 0 that needs bucket 0. -/
def stp : SStep :=
  { id := 0, die := 0, thread := 1, rno := 0, region := 0, key := 0, width := 1, i0 := 0, i1 := 1, ans0 := none, ans1 := none, need0 := true,
    need1 := true, fixed := false, start := 0, par := none, next := none, spec := false, port := none, seen := false, ent := none, forced := none, done := none,
    squashed := false }
/-- A fill of line 0. -/
def fil : Fill := { die := 0, id := 0, line := 0, way := none, victim := none, stale := false, held := false, fixed := false, granted := true, waiters := [(0, 0)], arrived := none }
/-- The store channel ready with 1 GiB. -/
def str : State := wr up [(0, STR_CTL.EN, 1), (0, STR_STS.READY, 1), (0, STR_STS.SIZE, 1), (0, STR_CTL.SWR_EN, 1)]

theorem test_hyp_StoreStepsAndFillsComplete :
    (let x := { stp with forced := some 3, need0 := false, need1 := false }; let s := { str with steps := [x] }
     (s.steps.find? fun x => x.id == 0 && x.done.isNone) = some x ∧ stepReady s x = true ∧ x.par = none ∧ ({ x with par := some 1 } : SStep).par ≠ none) ∧
    (let s := { str with steps := [stp], fills := [fil] }
     (s.steps.find? fun x => x.id == 0) = some stp ∧ stepNeeds stp 0 = true ∧ stp.forced = none ∧
       (s.fills.find? fun f => f.die == stp.die && f.line == stepLine s stp 0) = some fil ∧ fil.arrived = none ∧
       ({ fil with arrived := some ⟨0, 0⟩ } : Fill).arrived ≠ none) ∧
    (let s := { wr str [(0, CCH_CTL.EN, 1)] with steps := [stp], cache := [(0, { Line.zero with valid := true })] }
     (s.fills.find? fun f => f.die == stp.die && f.line == stepLine s stp 0) = none ∧ isF s 0 CCH_CTL.EN = true ∧ wayOf s 0 (stepLine s stp 0) = some 0) ∧
    (let s := { str with steps := [stp] }
     (s.fills.find? fun f => f.die == stp.die && f.line == stepLine s stp 1) = none ∧ isF s 0 CCH_CTL.EN = false ∧
       bankBusy s 0 (stepLine s stp 1) ≤ s.cyc ∧ s.cyc < bankBusy { s with bankBusy := [(0, 36)] } 0 0 ∧ fillRoom s 0 false = true ∧
       (s.walks.find? fun k => k.die == stp.die && k.kind == 2 && k.base == stepLine s stp 1) = none ∧ stepNeeds stp 1 = true ∧
       fillRoom { s with fills := (List.range 64).map fun n => { fil with id := n, line := n + 9 } } 0 false = false) ∧
    (let s := { str with fills := [fil] }
     (s.fills.find? fun f => f.id == 0 && f.arrived.isNone) = some fil ∧ fil.granted = true ∧ strUp s 0 = true ∧ domOn s 0 1 = true ∧ lockedLine s 0 0 = false) ∧
    (let f := { fil with arrived := some ⟨0, 0⟩ }; let s := { str with fills := [f] }
     (s.fills.find? fun f => f.id == 0) = some f ∧ f.arrived = some ⟨0, 0⟩ ∧ f.way = none ∧ bankBusy s 0 0 ≤ s.cyc ∧ fixedWaits s 0 0 = false ∧ portUse s 0 0 = 0 ∧
       ({ f with way := some 0 } : Fill).way = some 0) := by decide +kernel

/-- A merging-buffer entry of line 0. -/
def mbe : MEntry := { die := 0, id := 0, line := 0, data := 0, slots := 1, vclr := 0, born := 0, draining := false, granted := true, unc := false }

theorem test_hyp_SlotWritesDrainAndScrub :
    (let data : BitVec 512 := entry [1 * 2 ^ 24]
     let s := wrb str [(0, SR_CTL.VALID, 1, 0), (0, SR_SIZE.NBUCK, 1, 0)]
     present s 0 pgStr = true ∧ fld (ceWord data 0) 24 8 = 1 ∧ 64 % 64 = 0 ∧ isF s 0 STR_CTL.SWR_EN = true ∧ avail s = false ∧ isF s 0 (SR_CTL.VALID) 0 = true ∧
       ¬ getF s 0 SR_SIZE.NBUCK 0 ≤ fld (ceWord data 4) 0 29 ∧ (s.swq.filter fun r => r.die == 0).length < 64 ∧ isF up 0 STR_CTL.SWR_EN = false) ∧
    (let r : SwRec := ⟨0, 1, 0, 0, 0, 0⟩; let s := { str with swq := [r] }
     (s.swq.find? fun r => r.die == 0) = some r ∧ writeDies s 0 (srLine s 0 0 0) = [0] ∧ recordRoom s r 0 = true ∧
       recordRoom { s with swAt := [(0, 1)] } r 0 = false) ∧
    (let s := { str with mbuf := [mbe], cyc := 9 }
     (s.mbuf.find? fun e => e.die == 0 && !e.draining && cleanAsks s e) = none ∧ oldestEntry s 0 = some mbe ∧
       2 * max 1 (getF (wr s [(0, CCH_MBUF.AGE, 1)]) 0 CCH_MBUF.AGE) ≤ s.cyc - mbe.born ∧
       mbUsed s 0 < 48 ∧ (0 : Nat) - mbe.born < 2 * max 1 (getF s 0 CCH_MBUF.AGE)) ∧
    (let s := wr { str with mbuf := [mbe], cache := [(0, { Line.zero with valid := true })] } [(0, CCH_WAY_STS.CLEANING, 0xFFFF)]
     (s.mbuf.find? fun e => e.die == 0 && !e.draining && cleanAsks s e) = some mbe) ∧
    (let e := { mbe with draining := true }; let s := { str with mbuf := [e] }
     (s.mbuf.find? fun e => e.id == 0) = some e ∧ e.draining = true ∧ e.granted = true ∧ firstOfLine s e = true ∧ strUp s 0 = true ∧ domOn s 0 1 = true) ∧
    (let s := wr str [(0, STR_CTL.SCRUB_EN, 1), (0, STR_SCRUB.INTERVAL, 1)]
     modBuckets s 0 ≠ 0 ∧ isF s 0 STR_CTL.SCRUB_EN = true ∧ getF s 0 STR_SCRUB.INTERVAL ≠ 0 ∧ strUp s 0 = true ∧
       patrolDue s 0 = true ∧ useGrant s 0 1 5 = none ∧ (useGrant { s with grants := [⟨0, 1, 0, 5⟩] } 0 1 5).isSome = true ∧
       patrolDue { s with patrolAt := [(0, 1)], cyc := 1 } 0 = false) := by decide +kernel

theorem test_hyp_StoreChannelComesAndGoes :
    (present str 0 pgStr = true ∧ isF str 0 STR_CTL.EN = true ∧ isF str 0 STR_STS.FAILED = false) ∧
    (isF up 0 STR_CTL.EN = false ∧ (1 : Nat).testBit 0 = true ∧ isF (writeWord up 0 pgStr 0 0x80 1) 0 STR_CTL.EN = true ∧
      isF (writeWord str 0 pgStr 0 0x80 0) 0 STR_CTL.EN = false) ∧
    (let s := wr str [(0, STR_STS.READY, 0)]
     isF s 0 STR_CTL.EN = true ∧ isF s 0 STR_STS.READY = false ∧ isF s 0 STR_STS.FAILED = false ∧ domOn s 0 1 = true ∧ 0 < 1) ∧
    (let s := wr upA [(0, STR_STS.SYNC, 1), (0, STR_CTL.EN, 1), (0, STR_STS.READY, 1), (0, STR_STS.SIZE, 1), (1, STR_CTL.EN, 1), (1, STR_STS.READY, 1),
       (1, STR_STS.SIZE, 1)]
     isF s 0 STR_STS.SYNC = true ∧ strUp s 0 = true ∧ strUp s (partner 0) = true ∧ getF s 0 STR_SYNC.DONE = 0 ∧
       min (regionBuckets s (partner 0)) (0 + 0) = regionBuckets s (partner 0)) := by decide +kernel
/-- The cache with three active ways. -/
def cch : State := wr str [(0, CCH_CTL.EN, 1), (0, CCH_WAYS.EN, 7)]

theorem test_hyp_CacheWaysPreloadAndInvalidate :
    (present cch 0 pgCch = true ∧ (2 ^ 31 : Nat).testBit 31 = true ∧ isF cch 0 CCH_PRE_CMD.GO = false) ∧
    (let v := 2 ^ 31 + 15 * 2 ^ 20
     let u := setF (setF (setF cch 0 CCH_PRE_CMD.LOCK (fld v 24 1)) 0 CCH_PRE_CMD.WAY (fld v 20 4)) 0 CCH_PRE_CMD.COUNT (fld v 0 13)
     (getF u 0 CCH_WAYS.EN).testBit (fld v 20 4) = false) ∧
    (let v := 2 ^ 31 + 1
     let u := setF (setF (setF cch 0 CCH_PRE_CMD.LOCK (fld v 24 1)) 0 CCH_PRE_CMD.WAY (fld v 20 4)) 0 CCH_PRE_CMD.COUNT (fld v 0 13)
     (getF u 0 CCH_WAYS.EN).testBit (fld v 20 4) = true ∧
       2 ≤ activeWays u 0 (getF u 0 CCH_WAYS.EN &&& (65535 - 2 ^ fld v 20 4)) (getF u 0 CCH_WAYS.LOCK) ∧
       activeWays (wr u [(0, CCH_WAYS.EN, 3)]) 0 (3 &&& (65535 - 2 ^ fld v 20 4)) (getF u 0 CCH_WAYS.LOCK) < 2) ∧
    (let k : CacheWalk := ⟨0, 0, 0, 1, 0, true⟩; let s := { wr cch [(0, CCH_WAYS.EN, 15)] with walks := [k], store := [(0, some ⟨0, 0⟩)] }
     (s.walks.find? fun k => k.die == 0 && k.kind == 0) = some k ∧ strUp s 0 = true ∧ k.lock = true ∧ walkRoom s 0 0 = true ∧
       (let r := preloadFrom 0 k.way k.base k.count 9 k.count { s with walks := rmFirst (fun j => j == k) s.walks }
        let v := setF (setF r.1 0 CCH_PRE_CMD.GO 0) 0 CCH_PRE_CMD.STATUS r.2
        2 ≤ activeWays v 0 (getF v 0 CCH_WAYS.EN) (getF v 0 CCH_WAYS.LOCK ||| 2 ^ k.way))) ∧
    isF cch 0 CCH_INV_CMD.GO = false ∧
    (let k : CacheWalk := ⟨0, 1, 0, 1, 0, false⟩; let s := { cch with walks := [k] }
     (s.walks.find? fun k => k.die == 0 && k.kind == 1) = some k ∧
       s.walks.any (fun j => j.die == 0 && j.kind == 2 && decide (k.base ≤ j.base ∧ j.base < k.base + k.count)) = false ∧
       (∀ i, i < min 16 k.count → walkRoom s 0 (k.base + i) = true)) ∧
    (let k : CacheWalk := ⟨0, 2, 5, 1, 0, true⟩; let s := { cch with walks := [k] }
     (s.walks.find? fun k => k.die == 0 && k.kind == 2 && k.base == 5) = some k ∧ strUp s 0 = true ∧ walkRoom s 0 5 = true ∧ lockedLine s 0 5 = false) ∧
    activeWays cch 0 (maskOf ((List.range 16).filter fun w => (0 : Nat).testBit w && (!(getF cch 0 CCH_WAY_STS.FAILED).testBit w || (getF cch 0 CCH_WAYS.EN).testBit w))) (fld 0 16 16) < 2 ∧
    (let s := wr cch [(0, CCH_WAY_STS.CLEANING, 32768)]
     15 < 16 ∧ (getF s 0 CCH_WAY_STS.CLEANING).testBit 15 = true ∧ s.mbuf.any (fun e => e.die == 0 && wayOf s 0 e.line == some 15) = false) ∧
    (isF cch 0 CCH_CTL.EN = true ∧ isF (writeWord cch 0 pgCch 0 0x80 0) 0 CCH_CTL.EN = false) := by decide +kernel

/-- A cellar fetch of die 0. -/
def ftc : CFetch :=
  { id := 0, die := 0, thread := 1, rno := 0, srRgn := 0, region := 0, key := 0, width := 1, i0 := 0, i1 := 1, entry := false, atLead := false,
    xlated := false, issued := false, wseq := 0, deferred := false, chan := 0, tag := 0, recipe := 0, done := false, forced := none, ent := none,
    data := none }
/-- The link up with bus mastering. -/
def lnk : State := wr { up with funcReady := true } [(0, HIF_STS.LINK_UP, 1), (0, HIF_STS.BME, 1), (0, HIF_STS.ATS_EN, 1)]

theorem test_hyp_CellarFetchesAndNotices :
    (let s := { lnk with fetches := [ftc] }
     liveFetch s 0 = some ftc ∧ ftc.entry = false) ∧
    (let f := { ftc with entry := true, atLead := true }; let s := { lnk with fetches := [f] }
     liveFetch s 0 = some f ∧ f.atLead = true ∧ f.issued = false ∧ writeBusy s f = false ∧ canMaster s = true ∧ isF s 0 HIF_STS.ATS_EN = true ∧
       xlateTarget s 0 3 = some (0, (fetchAddrs s f).getD 3 0) ∧ xlated s (crPasid s f.region) ((fetchAddrs s f).getD 3 0) = false) ∧
    (let s := { lnk with cwrite := some ⟨0, 0, 0, false⟩ }
     s.cwrite = some ⟨0, 0, 0, false⟩ ∧ xlateTarget s 0 4 = some (0, bucketIova s 0 0)) ∧
    (fetchUsed lnk < 4096 ∧ (takeCell lnk 0 1 5 (mgmtId 6 0) 0).2 = true ∧ (takeCell lnk 1 0 5 (mgmtId 6 1) 4).2 = false ∧
      (∀ e, e < lnk.part.dieCnt → gone lnk e = false)) ∧
    (let f := { ftc with entry := true, atLead := true, issued := true }; let s := { lnk with fetches := [f] }
     liveFetch s 0 = some f ∧ f.issued = true ∧ f.data = none ∧ canMaster s = true ∧ f.die = 0 ∧ ({ f with die := 7 } : CFetch).die ≠ 0) ∧
    (let f := { ftc with die := 1, entry := true }; liveFetch { lnk with fetches := [f] } 0 = some f ∧ f.entry = true ∧ f.atLead = false) ∧
    (let f := { ftc with die := 1, entry := true, atLead := true, data := some 0 }; let s := { lnk with fetches := [f] }
     liveFetch s 0 = some f ∧ f.data = some 0 ∧ gone s f.die = false) ∧
    liveFetch lnk 0 = none ∧
    (let p : Promo := ⟨0, 0, 0, 0, 1, 0, 0, 1⟩; let s := { lnk with promos := [p] }
     (s.promos.find? fun p => p.die == 0) = some p ∧ promoStale s p = true ∧ strUp s 0 = false) ∧
    (let p : Promo := ⟨0, 0, 0, 0, 1, 0, 0, 0⟩; let s := { wr str [(0, SR_CTL.VALID, 1)] with promos := [p] }
     strUp s 0 = true ∧ isF s 0 SR_CTL.VALID 0 = true ∧ useLock s 0 1 3 2 = none ∧ (useLock { s with grants := [⟨0, 1, 0, 3⟩], locks := [⟨0, 1, 3, 0, 2 * slotCyc 1, []⟩] } 0 1 3 2).isSome = true) ∧
    (let n : Notice := ⟨63, 0, 0, none⟩; let s := { lnk with notices := [n] }
     (s.notices.find? fun n => n.chan == 63) = some n ∧ isF s 0 HIF_EQ_CFG.EN 63 = false ∧
       (let s := wrb s [(0, HIF_EQ_CFG.EN, 1, 63)]
        isF s 0 HIF_EQ_CFG.EN 63 = true ∧ canMaster s = true ∧ (getF s 0 HIF_EQ_STS.TAIL 63 + 1) % eqSize s 63 ≠ getF s 0 HIF_EQ_STS.HEAD 63 ∧
          (let s := wrb s [(0, HIF_EQ_STS.HEAD, 1, 63)]
           (getF s 0 HIF_EQ_STS.TAIL 63 + 1) % eqSize s 63 = getF s 0 HIF_EQ_STS.HEAD 63))) := by decide +kernel

/-- The cellar online with region 0. -/
def cel : State := wr { lnk with keys := [(0, some 5)] } [(0, CEL_STS.KEK, 1), (0, CEL_STS.ONLINE, 1), (0, CEL_CTL.EN, 1), (0, CR_CTL.VALID, 1), (0, CR_CTL.CAUSE, 0), (0, CR_SIZE.NBUCK, 1)]

theorem test_hyp_CellarKeysWritesAndStates :
    (present up 0 pgCel = true ∧ isF cel 0 CEL_STS.KEK = true ∧ isF up 0 CEL_STS.KEK = false ∧ 6 % 8 ≠ 7 ∧ 15 % 8 = 7) ∧
    ((2 ^ 31 : Nat).testBit 31 = true ∧ fld (2 ^ 31 + 2 ^ 8) 8 2 = 1 ∧ fld (2 ^ 31 + 2 ^ 9) 8 2 = 2 ∧
      (slotRegions cel 0).any (fun r => regionOnline cel r) = true ∧ (slotRegions cel 1).any (fun r => regionOnline cel r) = false) ∧
    (isF cel 0 CEL_WCMD.GO = false ∧ regionOnline (setF cel 0 CEL_WCMD.REGION 255) 255 = false ∧ regionOnline (setF cel 0 CEL_WCMD.REGION 0) 0 = true ∧
      getF cel 0 CEL_WIDX.INDEX < getF (setF cel 0 CEL_WCMD.REGION 0) 0 CR_SIZE.NBUCK 0 ∧
      (let s := wr cel [(0, CEL_WIDX.INDEX, 1)]; getF (setF s 0 CEL_WCMD.REGION 0) 0 CR_SIZE.NBUCK 0 ≤ getF s 0 CEL_WIDX.INDEX)) ∧
    (let w : CWrite := ⟨0, 0, 0, true⟩; let s := { cel with cwrite := some w }
     s.cwrite = some w ∧ canMaster s = true ∧ w.issued = true ∧ ({ w with issued := false } : CWrite).issued = false ∧ mget none s.keys (getF s 0 CR_CTL.KSLOT 0) = some 5) ∧
    (let s := wr lnk [(0, CEL_STS.KEK, 1)]
     (1 : Nat).testBit 0 = true ∧ isF s 0 CEL_CTL.EN = false ∧ isF s 0 HIF_STS.LINK_UP = true ∧ canMaster s = true ∧ isF s 0 HIF_STS.QUAR = false ∧
       isF s 0 CEL_STS.KEK = true) ∧
    (isF up 0 CEL_CTL.EN = false ∧ isF up 0 HIF_STS.LINK_UP = false) ∧ isF cel 0 CEL_CTL.EN = true ∧
    (fld 0 0 8 = 0 ∧ (0 : Nat).testBit 8 = false ∧ isF cel 0 CEL_STS.ONLINE = true ∧ isF cel 0 CR_CTL.VALID 0 = true ∧
      mget none cel.keys (getF cel 0 CR_CTL.KSLOT 0) ≠ none ∧ isF cel 0 HIF_STS.ATS_EN = true ∧ (256 : Nat).testBit 8 = true ∧ regionOnline cel 0 = true) := by
  decide +kernel
/-- Whatever the cipher answers, one of the clauses about the bucket of a cellar write has its hypotheses met. -/
theorem test_hyp_CellarKeysWritesAndStates_open :
    openBucket cel 0 0 0 0 = none ∨ ∃ old, openBucket cel 0 0 0 0 = some old ∧
      (hdrRgn (bucketHdr old) ≠ 0 ∨ hdrRgn (bucketHdr old) = 0 ∧ (hdrVersion (bucketHdr old) = 2 ^ 48 - 1 ∨ hdrVersion (bucketHdr old) ≠ 2 ^ 48 - 1)) := by
  cases h : openBucket cel 0 0 0 0 with
  | none => exact .inl rfl
  | some old => exact .inr ⟨old, rfl, by omega⟩

theorem test_hyp_HostQueuesMove :
    (barOpen lnk = true ∧ 63 < 64 ∧ isF lnk 0 HIF_Q_CFG.EN 63 = false ∧ isF lnk 0 HIF_EQ_CFG.EN 63 = false) ∧
    (let s := wrb lnk [(0, HIF_Q_CFG.EN, 1, 63), (0, HIF_EQ_CFG.EN, 1, 63)]
     isF s 0 HIF_Q_CFG.EN 63 = true ∧ 1 < qSize s 63 ∧ qSize s 63 ≤ 2 ∧ isF s 0 HIF_EQ_CFG.EN 63 = true ∧ 1 < eqSize s 63 ∧ eqSize s 63 ≤ 2) ∧
    (let s := wrb { lnk with sqTail := [(63, 1)] } [(0, HIF_Q_CFG.EN, 1, 63), (0, UPD_CTL.EN, 1, 0)]
     isF s 0 HIF_Q_CFG.ERR 63 = false ∧ canMaster s = true ∧ isF s 0 UPD_CTL.EN = true ∧ (fetching s 63).2 = 0 ∧
       min (min ((mget 0 s.sqTail 63 + qSize s 63 - getF s 0 HIF_Q_STS.HEAD 63) % qSize s 63) (qSize s 63 - mget 0 s.cqUsed 63)) (qSize s 63 - getF s 0 HIF_Q_STS.HEAD 63) ≠ 0 ∧
       (let s := { s with sqTail := [] }
        min (min ((mget 0 s.sqTail 63 + qSize s 63 - getF s 0 HIF_Q_STS.HEAD 63) % qSize s 63) (qSize s 63 - mget 0 s.cqUsed 63)) (qSize s 63 - getF s 0 HIF_Q_STS.HEAD 63) = 0)) ∧
    (fetching lnk 0 = (0, 0) ∧ fetching { lnk with fetchedSq := [(0, (0, 1))] } 0 = (0, 1) ∧ [(0 : BitVec 512)].length = 1) ∧
    (let f := { ftc with issued := true }; liveFetch { lnk with fetches := [f] } 0 = some f ∧ f.issued = true ∧ f.data = none) ∧
    (let e : CqEntry := ⟨0, 0, 0, 0, 0, 0, 0⟩; let s := { lnk with cqPend := [e] }
     (s.cqPend.find? fun e => e.q == 0) = some e ∧ isF s 0 HIF_Q_CFG.EN 0 = false ∧
       (let s := wr s [(0, HIF_Q_CFG.EN, 1)]; isF s 0 HIF_Q_CFG.EN 0 = true ∧ canMaster s = true)) := by decide +kernel

theorem test_hyp_FunctionAndTranslationEvents :
    (63 < 64 ∧ barOpen lnk = true ∧ mget false lnk.msixPend 63 = false ∧ mget false [(63, true)] 63 = true ∧ canMaster lnk = true) ∧
    (canMaster lnk = true ∧ lnk.funcReady = true ∧ isF lnk 0 HIF_STS.LINK_UP = true ∧ lnk.inReset = false ∧ canMaster { lnk with d3hot := true } = false) ∧
    isF (wr lnk [(0, HIF_STS.QUAR, 1)]) 0 HIF_STS.QUAR = true ∧ (up.inReset = false ∧ isF up 0 HIF_STS.LINK_UP = false) ∧
    (lnk.invals.length < 32 ∧ (List.replicate 31 (⟨none, 0, 12, [], none⟩ : Inval)).length < 32) ∧
    (let i : Inval := ⟨none, 0, 12, [0], none⟩; let s := { lnk with invals := [i] }
     (s.invals.find? fun i => !(i.write.isSome && i.write == s.cwrite) && !(i.waits.any fun id => s.fetches.any fun f => f.id == id && !f.done && f.data.isNone)) = some i) := by decide +kernel

/-- Peer window 0: commands at 0, or slot writes. -/
def pw (t : Nat) (nocpl : Bool) : PeerWin := ⟨t, 0, 12, 0, 0, nocpl⟩

theorem test_hyp_PeerWindowsCarryCommands :
    (let s := { lnk with peers := [(0, some (pw 1 false))] }
     barOpen s = true ∧ windowAt s 0 = some (0, pw 1 false) ∧ 0 % 64 = 0 ∧ (pw 1 false).type = 1 ∧ (peerQueue s 0).length < 64 ∧
       windowAt s 4032 = some (0, pw 1 false) ∧ 4032 % 64 = 0 ∧ 1 % 64 ≠ 0 ∧ windowAt s 4096 = none) ∧
    (let s := { lnk with peers := [(0, some (pw 2 false))] }
     windowAt s 64 = some (0, pw 2 false) ∧ (pw 2 false).type = 2) ∧
    (let s := wr { lnk with peerQ := [(0, [(entry [1 * 2 ^ 24], some 0)])] } [(0, UPD_CTL.EN, 1), (0, UPD_CTL.PEER_EN, 1)]
     peerQueue s 0 = (entry [1 * 2 ^ 24], some 0) :: [] ∧ isF s (runDie s (entry [1 * 2 ^ 24])) UPD_CTL.EN = true ∧
       isF s (runDie s (entry [1 * 2 ^ 24])) UPD_CTL.PEER_EN = true ∧ isF s 0 HIF_Q_CFG.EN 0 = false ∧
       (let s := wr s [(0, HIF_Q_CFG.EN, 1)]; isF s 0 HIF_Q_CFG.EN 0 = true ∧ mget 0 s.cqUsed 0 < qSize s 0)) ∧
    (let s := wrb lnk [(0, HIF_PW_CFG.TYPE, 1, 7)]
     ((List.range 8).find? fun w => badWindow s w) = some 7) ∧
    ((List.range 8).find? fun w => badWindow lnk w) = none := by decide +kernel
theorem test_hyp_EvidenceLogRuns :
    (let r : EvRec := ⟨7, 5⟩; let s := { up with evd := { up.evd with inbox := [r] } }
     let w := { s with ringQ := [⟨7, 5, mgmtId 7 7, 0⟩] }
     s.evd.inbox.find? (fun r => !recordWaits s r.die) = some r ∧ w.evd.inbox.find? (fun r => !recordWaits w r.die) = none ∧
       isF s 0 EVD_CTL.EN = false) ∧
    (let s := wr { lnk with evd := { lnk.evd with key := some 5 } } [(0, EVD_CTL.EN, 1), (0, EVD_CTL.TGT, 1)]
     isF s 0 EVD_CTL.EN = true ∧ s.evd.enabling = false ∧ evReady s = true ∧ evRoom s = true ∧ s.evd.gap = 0 ∧ s.evd.queue.length < 1024 ∧
       evRoom (wr s [(0, EVD_WIDX_LO.INDEX, 16)]) = false) ∧
    ((List.replicate 1024 0).length = 1024) ∧
    (let s := wr up [(0, EVD_CTL.EN, 1), (0, EVD_CFG.TMO, 1), (0, EVD_WIDX_LO.INDEX, 1)]
     isF s 0 EVD_CTL.EN = true ∧ s.evd.enabling = false ∧ getF s 0 EVD_CFG.TMO ≠ 0 ∧ s.evd.covered < evWidx s) ∧
    (let s := { up with evd := { up.evd with due := [⟨1, 0, false⟩], key := some 5 } }
     s.evd.due = ⟨1, 0, false⟩ :: [] ∧ s.evd.key = some 5) ∧
    ((2 ^ 31 : Nat).testBit 31 = true ∧ present up 0 pgEvd = true ∧ isF up 0 EVD_CTL.EN = false ∧ up.evd.key = none ∧
      ({ up.evd with key := some 5 } : Evidence).key = some 5) ∧
    ({ up.evd with enabling := true } : Evidence).enabling = true ∧
    ((0 : Nat).testBit 31 = false ∧ isF (wr up [(0, EVD_CTL.EN, 1)]) 0 EVD_CTL.EN = true) := by decide +kernel

/-- The PPS input enabled. -/
def tim : State := wr up [(0, TIM_CTL.PPS_EN, 1)]

theorem test_hyp_PpsEdgeCountedThenUsed :
    isF (wr up [(0, TIM_CTL.PPS_EN, 0)]) 0 TIM_CTL.PPS_EN = false ∧ timeOn tim = true ∧ isF tim 0 TIM_CTL.PPS_EN = true ∧ isF tim 0 TIM_STS.PPS_STUCK = false ∧
    isF (wr tim [(0, TIM_STS.PPS_STUCK, 1)]) 0 TIM_STS.PPS_STUCK = true ∧ ppsTooSoon tim = false ∧
    ppsTooSoon { tim with tim := { tim.tim with lastEdge := some 0 }, cyc := 749999999 } = true ∧
    ppsTooSoon { tim with tim := { tim.tim with lastEdge := some 0 }, cyc := 750000000 } = false := by decide +kernel

theorem test_hyp_TimeUnitEventsHappen :
    ((8 : Nat).testBit 3 = true ∧ present up 0 pgTim = true ∧ isF (writeWord up 0 pgTim 0 0x80 8) 0 TIM_CTL.PPS_EN = false ∧
      isF (writeWord up 0 pgTim 0 0x80 15) 0 TIM_CTL.PPS_EN = true) ∧
    (timeOn tim = true ∧ isF tim 0 TIM_CTL.PPS_EN = true ∧ isF tim 0 TIM_STS.PPS_STUCK = false) ∧
    (getF (wr tim [(0, TIM_STS.SYNC, 2)]) 0 TIM_STS.SYNC = 2 ∧ getF (wr tim [(0, TIM_STS.SYNC, 3)]) 0 TIM_STS.SYNC = 3 ∧ tim.tim.holdExp = false) ∧
    (let m : Mgmt := ⟨timeCellType, 7, 0, 0, 0, 0, 0, 0⟩; let s := { up with mgmt := [m] }
     (s.mgmt.find? fun m => m.type == timeCellType && m.dest == 7) = some m ∧ (takeCell s 7 0 4 0 0).2 = true ∧ (takeCell s 7 0 4 0 4).2 = false ∧ gone s 7 = false ∧ domOn s 7 0 = true) ∧
    (present up 0 pgClk = true ∧ locked up 0 pgClk = false ∧ fld 2 1 1 ≠ getF up 0 CLK_CTL.REF_SEL ∧ up.part.unitT = true ∧
      getF (wr up [(0, TIM_REF.KHZ, 1)]) 0 TIM_REF.KHZ ≠ 0) := by decide +kernel

theorem test_hyp_ThermalLevelsAndGovernorAct :
    (7 < up.part.dieCnt ∧ gone up 7 = false ∧ up.inReset = false ∧ 255 ≤ 255 ∧ getF up 7 ATC_THROTTLE.T_LEVEL < levelAt 95 ∧ levelAt 109 < 4 ∧
      levelAt 110 = 4 ∧ levelAt 255 = 4) ∧
    (let s := wr up [(0, ATC_THROTTLE.T_LEVEL, 4)]
     levelAt 109 < getF s 0 ATC_THROTTLE.T_LEVEL ∧ getF s 0 ATC_THROTTLE.T_LEVEL ≠ 0 ∧ 107 + 3 ≤ threshold (getF s 0 ATC_THROTTLE.T_LEVEL) ∧ getF s 0 ATC_THROTTLE.T_LEVEL < 8) ∧
    (domOn up 0 5 = true ∧ gone up 0 = false ∧ govCount up 0 < 64) ∧
    (let s := wr up [(0, PWR_GOV_STS.COUNT, 48), (0, PWR_CAP.CAP, 1), (0, PWR_GOV_STS.PKG, 2)]
     present s 0 pgPwr = true ∧ getF s 0 PWR_GOV_STS.COUNT = 48 ∧ getF s 0 PWR_CAP.CAP < getF s 0 PWR_GOV_STS.PKG) := by decide +kernel

/-- A domain in a phase. -/
def dm (d c : Nat) (p : DomPhase) : State := setPhase up d c p

theorem test_hyp_PowerDomainsSleepAndWake :
    (let s := wrb up [(0, PWR_STATE.LOW, 1, 4), (0, PWR_VOTE.HOST, 0, 4)]
     domLive s 0 4 = true ∧ domOn s 0 4 = true ∧ votes s 0 4 = 0 ∧ getF s 0 PWR_STATE.LOW 4 = 1 ∧ refusal s 0 4 1 = none) ∧
    (let s := wrb up [(0, PWR_STATE.LOW, 1, 0x10), (0, PWR_VOTE.HOST, 0, 0x10), (0, PART_CTL.VALID, 1, 255), (0, PART_BANKS.BANKS 0, 1, 255)]
     domLive s 0 0x10 = true ∧ votes s 0 0x10 = 0 ∧ getF s 0 PWR_STATE.LOW 0x10 = 1 ∧ refusal s 0 0x10 1 = some 1) ∧
    (let s := wrb (dm 0 4 (.entering 1 3)) [(0, PWR_VOTE.HOST, 0, 4)]
     domLive s 0 4 = true ∧ (getDom s 0 4).phase = .entering 1 3 ∧ ((getDom s 0 4).wake || wakeStands s 0 4 1) = false ∧ 3 < 4 ∧ 4 ≤ 4 ∧
       (let s := wrb s [(0, PWR_VOTE.HOST, 1, 4)]; ((getDom s 0 4).wake || wakeStands s 0 4 1) = true)) ∧
    ((getDom (dm 0 2 .ret) 0 2).phase = .ret ∧ (getDom (dm 0 2 .off) 0 2).phase = .off ∧ (getDom up 0 2).phase = .on ∧ domLive (dm 0 2 .ret) 0 2 = true) ∧
    (let s := wr (dm 0 2 (.waking 1 2)) [(0, CLK_STS.LOCK, 1)]
     domLive s 0 2 = true ∧ (getDom s 0 2).phase = .waking 1 2 ∧ isF s 0 CLK_STS.LOCK = true ∧ 1 + 1 < 3 ∧ 3 ≤ 2 + 1 ∧ 4 ≤ 3 + 1 ∧ 2 ≠ 5) ∧
    (let s := wr (dm 0 5 (.waking 1 2)) [(0, CLK_STS.LOCK, 1)]
     domLive s 0 5 = true ∧ (getDom s 0 5).phase = .waking 1 2 ∧ isF s 0 CLK_STS.LOCK = true) ∧
    (let s := wr (dm 0 2 (.waking 2 0)) [(0, CLK_STS.LOCK, 0), (0, CLK_STS.PLL_RUN, 1)]
     (getDom s 0 2).phase = .waking 2 0 ∧ isF s 0 CLK_STS.LOCK = false ∧ isF s 0 CLK_STS.PLL_RUN = true) ∧
    (let s := dm 0 2 (.failed 1)
     domExists s 0 2 = true ∧ s.inReset = false ∧ (getDom s 0 2).phase = .failed 1) ∧
    (domExists up 0 (2 % 256) = true ∧ (2 ^ 31 : Nat).testBit 31 = true ∧ gone up 0 = false ∧ isF (wr up [(0, CLK_STS.LOCK, 1)]) 0 CLK_STS.LOCK = true) := by
  decide +kernel

theorem test_hyp_SiteCommandsAndEventsHappen :
    (present up 0 pgMss = true ∧ sameSite up 0 0 = false ∧ sameSite up 0 (2 ^ 5) = false ∧ sameSite up 0 (1 * 2 ^ 6) = false) ∧
    (let s := { up with msCmd := [(0, 1)] }; isF s 0 MSS_STS.CC = false ∧ mget 0 s.msCmd 0 ≠ 0) ∧
    (let s := wr up [(0, MSS_CTL.PCC, 1), (0, MSS_STS.PDS, 0)]
     sameSite s 0 0 = false ∧ siteCmd s 0 0 = 1 ∧ mget 0 s.msCmd 0 = 0 ∧ isF s 0 MSS_STS.PDS = false ∧ isF (wr s [(0, MSS_STS.PDS, 1)]) 0 MSS_STS.PDS = true) ∧
    (let s := wr str [(0, MSS_CTL.PCC, 0)]
     sameSite s 0 (2 ^ 5) = false ∧ siteCmd s 0 (2 ^ 5) = 2 ∧ isF s 0 STR_STS.READY = true ∧ isF up 0 STR_STS.READY = false ∧ siteCmd s 0 (2 ^ 6) = 3) ∧
    (let s := wr up [(0, MSS_STS.PDS, 1), (0, MSS_STS.PWR, 1)]
     isF s 0 MSS_STS.PDS = !false ∧
       isF (siteEvent (setF s 0 MSS_STS.PDS (b2n false)) 0 MSS_STS.PDC MSS_CTL.PDCE) 0 MSS_STS.PWR = true ∧
       isF (wr s [(0, MSS_STS.PDS, 0)]) 0 MSS_STS.PDS = !true ∧
       isF (siteEvent (setF (wr s [(0, MSS_STS.PWR, 0)]) 0 MSS_STS.PDS (b2n false)) 0 MSS_STS.PDC MSS_CTL.PDCE) 0 MSS_STS.PWR = false) ∧
    (7 < up.part.dieCnt ∧ 0 < 4 ∧ 4 ≤ 4 ∧ up.part.unitS = true) := by decide +kernel

theorem test_hyp_RegisterAccessesPerformed :
    (up.inReset = false ∧ pgRs ≤ 21 ∧ 0x81 % 4 ≠ 0) ∧
    (siteGate up (.page 0 pgSeq 0x80) = (0, 0, pageDom up 0 pgSeq) ∧ (siteGate (dm 0 0 .ret) (.page 0 pgSeq 0x80)).1 = 1 ∧
      (siteGate { up with lostDies := 1 } (.page 0 pgSeq 0x80)).1 = 2) ∧
    (latchedBy pgClk 0x88 ≠ [] ∧ (siteGate up (.page 0 pgClk 0x88)).1 = 0 ∧ present up 0 pgClk = true) ∧
    (let q : RCell := ⟨0, 5, mgmtId 1 0, 0⟩
     (takeCell up 7 0 5 (mgmtId 1 0) 0).2 = true ∧ (takeCell up 7 0 5 (mgmtId 2 0) 4).2 = false ∧ (takeCell { up with ringQ := [q] } 7 0 5 (mgmtId 1 0) 0).2 = false) ∧
    (siteGate up (.slotWrite 0 0) = (0, 0, pageDom up 0 pgStr) ∧ siteGate up (.store 0 128) = (0, 0, pageDom up 0 pgStr) ∧ 128 % 128 = 0 ∧ up.part.unitS = true) ∧
    (0 < up.part.dieCnt ∧ (readSite up 0 (msgSite up 0 0) (dieBar 0 0) 4).2.isSome = true ∧
      (readSite (dm 0 0 .ret) 0 (msgSite up 0 (4096 * pgSeq + 0x80)) 0 4).2 = none) ∧
    (let m : Mgmt := ⟨3, 0, 0, 5, 0, 4, 9, 0⟩; let s := { up with mgmt := [m] }
     s.mgmt.find? (fun m => m.type == 3 && m.acc == 5) = some m ∧ (takeCell s 0 0 5 (mgmtId 3 5) 0).2 = true ∧ (takeCell s 0 0 5 (mgmtId 3 5) 4).2 = false) := by decide +kernel

theorem test_hyp_SmbusPortAnswers :
    portLive up = true ∧ (busRead up 1 up.sm.rdAddr 4).2.isSome = true ∧ ((busRead up 1 up.sm.rdAddr 4).2.map fun v => v.1) = some 0 ∧
    (domLive (dm 0 5 .ret) 0 5 = true ∧ domOn (dm 0 5 .ret) 0 5 = false ∧ domFailed (dm 0 5 .ret) 0 5 = false ∧
      domFailed (dm 0 5 (.failed 1)) 0 5 = true ∧ domOn (dm 0 5 (.failed 1)) 0 5 = false) ∧
    ({ up.sm with stretching := true } : SmPort).stretching = true := by decide +kernel

theorem test_hyp_ArbiterSettlesEverySlot :
    (7 < up.part.dieCnt ∧ 3 ≤ 3 ∧ gone up 7 = false ∧ up.cyc % slotCyc 3 = 0) ∧
    (let p := pruneSlots up; mget 0 p.settled 31 ≠ up.cyc + 1 ∧ inSpan p 7 3 = false ∧ isF p 7 ATC_THROTTLE.FENCED = false) ∧
    (let p := pruneSlots { up with settled := [(31, 1)] }; mget 0 p.settled 31 = p.cyc + 1) ∧
    (isF (pruneSlots (wr up [(7, ATC_THROTTLE.FENCED, 1)])) 7 ATC_THROTTLE.FENCED = true) ∧
    (let s := { up with locks := [⟨0, 0, 22, 0, 1, []⟩] }
     lockAt s 0 0 s.cyc = some ⟨0, 0, 22, 0, 1, []⟩ ∧ [22].contains 22 = true ∧ [21].contains 22 = false ∧ 0 ≠ 1) ∧
    (let s := { up with books := [⟨0, 0, 3, 0, 1, 0⟩] }
     lockAt s 0 0 s.cyc = none ∧ bookAt s 0 s.cyc = some ⟨0, 0, 3, 0, 1, 0⟩) ∧
    (let s := up
     lockAt s 0 0 s.cyc = none ∧ bookAt s 0 s.cyc = none ∧ (blankedIn s 0 s.cyc).contains (posAt s 0 s.cyc) = false ∧ slotOf s 0 0 (posAt s 0 s.cyc) = 0 ∧
       spanEnd s 0 0 = none ∧ contestWinner s 0 0 [1] = some 1 ∧ 1 ≤ 1 ∧
       slotOf { s with slots := [(arbKey 0 0 0, 23)] } 0 0 (posAt s 0 s.cyc) = 22 + 1) ∧
    (let s := { up with blank := [(0, ⟨60, 60, 0, 0, 0⟩)], slots := [] }
     (blankedIn s 0 s.cyc).contains (posAt s 0 s.cyc) = true) ∧
    (getF up 0 ARB_SEL.INST = 0 ∧ isF up 0 ARB_STS.PEND 0 = false ∧ commitBreak up 0 0 = some 0 ∧ commitBreak up 0 2 = none) ∧
    (isF (wr up [(0, ARB_STS.PEND, 1)]) 0 ARB_STS.PEND 0 = true ∧ posAt up 0 up.cyc = 0 ∧ up.cyc % slotCyc 0 = 0) := by decide +kernel

theorem test_hyp_ErrorRecordsHandled :
    (pageHere up 0 0 = true ∧ pageHere up 7 21 = true) ∧
    (let s := wr up [(0, ERR_FIRST0.VALID pgAtc, 1)]
     isF s 0 (ERR_FIRST0.VALID pgAtc) = true ∧ getF s 0 (ERR_SECOND.VALID pgAtc) = 0 ∧
     (let s := wr s [(0, ERR_SECOND.VALID pgAtc, 1), (0, ERR_SECOND.ESC pgAtc, 1), (0, ERR_SECOND.CLASS pgAtc, 3), (0, ERR_SECOND.BIT pgAtc, 31)]
      isF s 0 (ERR_SECOND.VALID pgAtc) = true ∧ getF s 0 (ERR_SECOND.ESC pgAtc) = 1 ∧ getF s 0 (ERR_SECOND.CLASS pgAtc) = 3 ∧
        getF s 0 (ERR_SECOND.BIT pgAtc) = 31 ∧ 3 < 4 ∧ 31 < 32) ∧
     (let s := wr s [(0, FLT_SUP_TMO.TMO, 1)]
      getF s 0 (ERR_FIRST0.CLASS pgAtc) = 0 ∧ getF s 0 FLT_SUP_TMO.TMO ≠ 0 ∧ s.escal.contains (0, 128 + slotMark pgAtc false) = false)) ∧
    (31 < 32 ∧ getF (setF up 0 (PAGE_CTL.INJ_BIT pgAtc) 31) 0 DBG_CTL.LEVEL = 0) ∧
    (let u := setF dbg 0 (PAGE_CTL.INJ_BIT pgAtc) 0
     getF u 0 DBG_CTL.LEVEL ≠ 0 ∧ 0 < errBits pgAtc ∧ errClass u 0 pgAtc 0 ≠ 3 ∧ errBits pgAtc ≤ 8) := by decide +kernel

/-- A golden replay of one vector in progress, with no vector running. -/
def gld : State := wr { lnk with golden := some ⟨[], [], 0, none⟩ } [(0, FLT_GR_CNT.COUNT, 1)]

theorem test_hyp_EngineResetAndGoldenReplay :
    (up.inReset = false ∧ gone up 0 = false ∧ (2 ^ 31 : Nat).testBit 31 = true ∧ isF up 0 FLT_ERST.GO = false ∧
      isF (wr up [(0, FLT_ERST.GO, 1)]) 0 FLT_ERST.GO = true ∧ isF up 0 FLT_GR_CTL.GO = false) ∧
    (getF (setF (setF (setF up 0 FLT_GR_CTL.SRC 0) 0 FLT_GR_CTL.SDIE 0) 0 FLT_GR_CTL.GROUP 0) 0 FLT_GR_CNT.COUNT = 0 ∧
      getF (setF (setF (setF gld 0 FLT_GR_CTL.SRC 0) 0 FLT_GR_CTL.SDIE 0) 0 FLT_GR_CTL.GROUP 0) 0 FLT_GR_CNT.COUNT ≠ 0) ∧
    (let s := wr up [(0, FLT_ERST.GO, 1)]
     s.mbuf = [] ∧ s.cmds.any (fun c => c.acc.isSome) = false ∧ s.reqs.any (fun r => r.resp.isSome) = false ∧ isF s 0 FLT_ERST.UNLOAD = false ∧
       isF (wr s [(0, FLT_ERST.UNLOAD, 1)]) 0 FLT_ERST.UNLOAD = true) ∧
    (gld.golden = some ⟨[], [], 0, none⟩ ∧ goldenIdle gld ⟨[], [], 0, none⟩ = true ∧ getF gld 0 FLT_GR_CNT.DONE < getF gld 0 FLT_GR_CNT.COUNT ∧
      isF gld 0 FLT_GR_CTL.SRC = false ∧ canMaster gld = true ∧ canMaster up = false ∧ isF (wr gld [(0, FLT_GR_CTL.SRC, 1)]) 0 FLT_GR_CTL.SRC = true ∧
      storeVector gld 0 0 = none) ∧
    (let b : Option Bucket := some ⟨0, 0⟩; let s := { str with store := [(0, b), (1, b)] }
     (storeVector s 0 0).isSome = true) ∧
    (let s := wr gld [(0, FLT_GR_CNT.DONE, 1)]; getF s 0 FLT_GR_CNT.COUNT ≤ getF s 0 FLT_GR_CNT.DONE) := by decide +kernel
/-- Whatever the hash answers, one of the clauses about the end of a replay has its hypotheses met. -/
theorem test_hyp_EngineResetAndGoldenReplay_end (want : Nat) :
    sha256 [] ≠ 0 ∨ sha256 [] = 0 ∧ (sha256 [] % 2 ^ 256 = want ∨ sha256 [] % 2 ^ 256 ≠ want) := by omega
theorem test_hyp_ResetsAndSelfQualification :
    (State.reset.inReset = true ∧ (255 : Nat).testBit 0 = true ∧ allDies State.reset &&& 255 = allDies State.reset ∧
      allDies State.reset &&& 127 ≠ allDies State.reset) ∧
    (7 < up.part.dieCnt ∧ up.inReset = false ∧ gone up 7 = false) ∧
    (present up 0 pgBsq = true ∧ up.heldDies.testBit 0 = false ∧ (2 ^ 31 : Nat).testBit 31 = true ∧ isF up 0 BSQ_CTL.GO = false ∧
      bsqAccepts (setF up 0 BSQ_CTL.REPAIR (2 ^ 31)) 0 = true ∧ bsqAccepts (setF upd 0 BSQ_CTL.REPAIR 0) 0 = false) ∧
    (let s := wr up [(7, BSQ_STS.BUSY, 1), (7, BSQ_STS.PHASE, 6)]
     isF s 7 BSQ_STS.BUSY = true ∧ 7 < s.part.dieCnt ∧ getF s 7 BSQ_STS.PHASE = 6 ∧ getF (wr s [(7, BSQ_STS.PHASE, 1)]) 7 BSQ_STS.PHASE = 1 ∧
       (5, 6) ∈ [(1, 7), (3, 5), (5, 6)]) := by decide +kernel

/-- An image header of the right format. -/
def hdr1 : BitVec 4096 := BitVec.ofNat 4096 (0x4C5A4431 * 2 ^ 4064 + 2 ^ 4032)

theorem test_hyp_ImageCheckedInOrder :
    (hdrWord 0 0 ≠ 0x4C5A4431 ∧ hdrWord hdr1 0 = 0x4C5A4431 ∧ hdrWord hdr1 4 = 1 ∧ imgSvn hdr1 < ({ up with fuseSvn := 1 } : State).fuseSvn ∧
      up.fuseSvn ≤ imgSvn hdr1) ∧
    (let s : State := { up with fuseRevoked := 15 }
     (!s.fuseRevoked.testBit (imgKeyIdx hdr1) && sha384 (bytesBE 96 (imgKey hdr1)) == s.part.keyDigest.getD (imgKeyIdx hdr1) 0) = false ∧
       headerStatus s hdr1 = 2) ∧
    (let s : State := { up with loading := 3 }; s.loading ≠ 0 ∧ s.inReset = false ∧ gone s 0 = false ∧ headerStatus s 0 ≠ 0) ∧
    (isF up 0 PKG_IMG_CMD.GO = false ∧ hostLoadOk up = false ∧
      (let s := { lnk with part := { Part.default with bootSrc := 2 } }; hostLoadOk s = true ∧ s.loading = 0 ∧ isF s 0 PKG_IMG_CMD.GO = false)) ∧
    (up.loading = 0 ∧ getF up 0 PAGE_CAP.PROFILE = 0 ∧ isF up 0 HIF_STS.LINK_UP = false ∧ up.part.bootSrc % 2 ≠ 1 ∧
      headerStatus (imgStatus up 0 (headerStatus up 0)) 0 ≠ 0) := by decide +kernel
/-- A state whose fuse holds the digest of a header's key: whatever the signature check and hash answer, one clause each
about the signature, and about the digest of the body, has its hypotheses met. -/
theorem test_hyp_ImageCheckedInOrder_signed (body : List Nat) :
    (let s := { up with part := { Part.default with keyDigest := List.replicate 4 (sha384 (bytesBE 96 (imgKey hdr1))) } }
     (!s.fuseRevoked.testBit (imgKeyIdx hdr1) && sha384 (bytesBE 96 (imgKey hdr1)) == s.part.keyDigest.getD (imgKeyIdx hdr1) 0) = true ∧
       (headerStatus s hdr1 = 3 ∨ headerStatus s hdr1 = 0)) ∧
    (sha384 body ≠ imgDigest hdr1 ∨ sha384 body = imgDigest hdr1) := by
  have k : imgKeyIdx hdr1 = 0 := by decide +kernel
  have a : (hdrWord hdr1 0 != 0x4C5A4431 || hdrWord hdr1 4 != 1) = false := by decide +kernel
  have r : imgSvn hdr1 = 0 := by decide +kernel
  refine ⟨⟨?_, ?_⟩, by omega⟩
  · simp [k, up, State.reset]
  · simp only [headerStatus, k, a, r]
    cases ecdsaVerify (imgKey hdr1) (sha384 (bytesBE 168 (getBE hdr1 0 (8 * 168)))) (imgSigR hdr1) (imgSigS hdr1) <;>
      simp [up, State.reset]
/-- The contents of an image are accepted or not; the empty one is not. -/
theorem test_hyp_ImageCheckedInOrder_contents (c : Contents) :
    (∃ u, checkContents up c = (false, u)) ∨ ∃ u, checkContents up c = (true, u) := by
  cases h : checkContents up c with
  | mk b u => cases b <;> simp

theorem test_hyp_SecurityCommandsAct :
    secLive up = true ∧ (2 ^ 31 : Nat).testBit 31 = true ∧ (2 ^ 31 : Nat).testBit 30 = false ∧ (2 ^ 30 : Nat).testBit 31 = false ∧
    (2 ^ 30 + 3 * 2 ^ 28).testBit 30 = true ∧ fld (2 ^ 30 + 3 * 2 ^ 28) 28 2 = 3 ∧ fld (2 ^ 30 + 2 ^ 28) 28 2 = 1 ∧ fld (2 ^ 30) 28 2 = 0 ∧
    getF (setF up 0 SEC_DBG_CMD.LEVEL 3) 0 SEC_DBG_CMD.FAILS ≠ 3 ∧ getF (wr up [(0, SEC_DBG_CMD.FAILS, 3)]) 0 SEC_DBG_CMD.FAILS = 3 ∧
    up.unlock.chal = none ∧ ({ up.unlock with chal := some 5 } : Unlock).chal = some 5 ∧ 7 < up.part.dieCnt ∧
    up.evd.key = none ∧ ({ up.evd with key := some 5 } : Evidence).key = some 5 ∧ up.idKey = none ∧ ({ up with idKey := some 6 } : State).idKey = some 6 := by
  decide +kernel
/-- Whatever the signature check answers, one of the clauses about a response to a challenge has its hypothesis met. -/
theorem test_hyp_SecurityCommandsAct_response (s : State) (c l : Nat) : goodResponse s c l = true ∨ goodResponse s c l = false := by
  cases goodResponse s c l <;> simp

theorem test_hyp_DescriptorTablesWritten :
    (pgPart = pgPart ∧ 255 < 256 ∧ 28 < 32 ∧ 0x11FFC = 0x10000 + 32 * 255 + 28) ∧ (60 < 64 ∧ 0x23FFC = 0x20000 + 64 * 255 + 60 ∧ up.part.unitC = true) ∧
    (let w : TargetWrite := ⟨0, pgPart, 255, 0, 0, 64⟩; let s := { up with twrites := [w], cyc := 64 }
     (s.twrites.find? fun w => decide (w.at_ ≤ s.cyc) && (w.page == pgPart && w.bank == 255)) = some w) ∧
    (let w : TargetWrite := ⟨0, pgCr, 0, 0, 0, 64⟩; let s := { up with twrites := [w], cyc := 64 }
     (s.twrites.find? fun w => decide (w.at_ ≤ s.cyc) && (w.page == pgCr && w.bank == 0)) = some w) ∧
    (isF prt 0 PART_CTL.VALID 0 = true ∧ isF up 0 PART_CTL.VALID 0 = false ∧ isF (writeCopies up pgPart 0 0 (2 ^ 31)) 0 PART_CTL.VALID 0 = true) ∧
    (isF cel 0 CR_CTL.VALID 0 = true ∧ isF (writeCopies cel pgCr 0 0 0) 0 CR_CTL.VALID 0 = false ∧ isF up 0 CR_CTL.VALID 0 = false ∧
      isF (writeCopies up pgCr 0 0 (2 ^ 31)) 0 CR_CTL.VALID 0 = true ∧ getF (writeCopies up pgCr 0 0 (2 ^ 31)) 0 CR_SIZE.NBUCK 0 = 0) ∧
    (present upA 1 pgStr = true ∧ avail upA = true ∧ 1 % 2 = 1 ∧ 0x1FFC < 0x2000 ∧ avail up = false) ∧
    (let s := wr up [(0, SR_CTL.VALID, 1)]; isF s 0 SR_CTL.VALID (4 / 32) = true ∧ 4 % 32 ≠ 0) ∧
    (0 % 32 = 0 ∧ (2 ^ 31 : Nat).testBit 31 = true ∧ getF up 0 SR_SIZE.NBUCK 0 = 0 ∧
      getF (wr up [(0, SR_SIZE.NBUCK, 2 ^ 29)]) 0 SR_SIZE.NBUCK 0 ≤ 2 ^ 29) := by decide +kernel

theorem test_hyp_ArrayWindowsAnswer :
    (gone up 0 = false ∧ domFailed up 0 (domBank (getF up 0 ATC_WIN_BASE.BANK)) = false ∧ domOn up 0 (domBank (getF up 0 ATC_WIN_BASE.BANK)) = true ∧
      ((snapOf up 0 0 false).bind fun x => snapRow x (pkey 0 0 (physShelf up 0 0 0) 0)) = none ∧ useLock up 0 0 0x12 (entryRows Row.zero) = none ∧
      (useLock { up with grants := [⟨0, 0, 0, 0x12⟩] } 0 0 0x12 (entryRows Row.zero)).isSome = true) ∧
    (let x : Snap := ⟨0, 0, false, 0, [Row.zero], 0, 0⟩; let s := { up with snaps := [x] }
     ((snapOf s 0 0 false).bind fun x => snapRow x (pkey 0 0 (physShelf s 0 0 0) 0)) = some (rowView Row.zero 0)) ∧
    (isF up 0 STR_STS.READY = false ∧ isF str 0 STR_STS.READY = true ∧ gone str 0 = false ∧ winLine str 0 0 < modBuckets str 0 ∧
      modBuckets str 0 ≤ winLine (wr str [(0, STR_WIN_BASE.BASE, 2048)]) 0 0 ∧ snapOf str 0 0 true = none) ∧
    (let x : Snap := ⟨0, 0, true, 0, [], 0, 0⟩; let s := { str with snaps := [x] }; snapOf s 0 0 true = some x ∧ x.base = winLine s 0 0) ∧
    (¬(128 = 128 ∧ 64 % 128 = 0) ∧ ¬(128 = 64 ∧ 64 % 64 = 0)) ∧
    ((recipeFetch up 0 (0 % 2 ^ 17 / 8)).data? = some 0 ∧ gone up 0 = false) ∧
    (let s := thrs dbg [(383, wt .halted .idle)]
     0x2FFF8 < 0x30000 ∧ 0x2FFF8 % 8 = 0 ∧ getF s 0 DBG_CTL.LEVEL ≠ 0 ∧ (getT s 0 (0x2FFF8 / 512)).st = .halted ∧ (getT up 0 0).st ≠ .halted ∧
       getF up 0 DBG_CTL.LEVEL = 0) := by decide +kernel
/-! ## Operands out of range are refused -/

/-- Each term breaks one check. -/
theorem test_wf_refuses_1 : (([
  .lookupBurstReceive 24 0 0 0 0 false false, .lookupBurstReceive 0 64 0 0 0 false false, .ingressRelease 24,
  .xoffReceive 24 0 false, .xoffReceive 0 64 false, .laneFail 24 0, .laneFail 0 6, .interfaceUp 24, .channelCfgWrite 8 0 0,
  .channelCfgWrite 0 64 0, .channelCfgWrite 0 0 (2 ^ 32), .channelBufWrite 8 0 0, .channelBufWrite 0 64 0,
  .channelBufWrite 0 0 (2 ^ 32), .xtr 8 0, .xtr 0 384, .lit 8 0, .lit 0 384, .hsh 8 0, .hsh 0 384, .srch 8 0, .srch 0 384,
  .probe 8 0, .probe 0 384, .cfetch 8 0, .cfetch 0 384, .stamp 8 0, .stamp 0 384, .log 8 0, .log 0 384, .fork 8 0, .fork 0 384,
  .join 8 0, .join 0 384, .send 8 0, .send 0 384, .waite 8 0, .waite 0 384, .commit 8 0, .commit 0 384, .emit 8 0, .emit 0 384,
  .trap 8 0, .trap 0 384, .endThread 8 0, .endThread 0 384, .unusedOpcodeFetch 8 0, .unusedOpcodeFetch 0 384] : List Instr).all fun i => !i.wellFormed) = true := by decide +kernel

/-- Each term breaks one check. -/
theorem test_wf_refuses_2 : (([
  .recipeWordRestore 8 0, .recipeWordRestore 0 16384, .dieContribution 0 ⟨8, 0⟩, .dieContribution 0 ⟨0, 6⟩, .speculationResolve 8 0, .speculationResolve 0 384,
  .cascadeControlBeat 2 0, .cascadeControlBeat 0 (2 ^ 256), .cascadeBadTypeBeat 2, .cascadeLaneFail 2 0, .cascadeLaneFail 0 4,
  .cascadeDropTimeout 2, .cascadeRetrainDone 2 false 0, .cascadeRetrainDone 0 false 16, .cascadeLinkUp 2 0 0 0 0,
  .cascadeLinkUp 0 16 0 0 0, .cascadeLinkUp 0 0 4 0 0, .cascadeLinkUp 0 0 0 256 0, .cascadeLinkUp 0 0 0 0 4,
  .cascadeLaneReturnReady 2 0, .cascadeLaneReturnReady 0 4, .ringResendTimeout ⟨8, 0⟩, .ringResendTimeout ⟨0, 6⟩, .ringPathFault 8 0 [], .ringPathFault 0 2 [],
  .mgmtRegRead 3 ⟨0, 0⟩ 0 0, .mgmtRegRead 0 ⟨8, 0⟩ 0 0, .mgmtRegRead 0 ⟨0, 0⟩ (2 ^ 23) 0, .mgmtRegRead 0 ⟨0, 0⟩ 0 9, .mgmtRegWrite 3 ⟨0, 0⟩ 0 0 0,
  .mgmtRegWrite 0 ⟨8, 0⟩ 0 0 0, .mgmtRegWrite 0 ⟨0, 0⟩ (2 ^ 23) 0 0, .mgmtRegWrite 0 ⟨0, 0⟩ 0 129 0, .mgmtRegWrite 0 ⟨0, 0⟩ 0 0 (2 ^ 1024),
  .mgmtRegRead 0 ⟨0, 6⟩ 0 0, .mgmtRegWrite 0 ⟨0, 6⟩ 0 0 0,
  .mgmtReadCompletion ⟨3, 0⟩, .mgmtReadCompletion ⟨0, 6⟩, .mgmtUpdateCommand ⟨0, 6⟩, .mgmtCommandCompletion ⟨0, 6⟩, .mgmtCellarData ⟨0, 6⟩, .mirrorCellReceive ⟨0, 6⟩, .mgmtFaultReport ⟨8, 0⟩, .mgmtFaultReport ⟨0, 6⟩, .mgmtDescriptorCopy 8 ⟨0, 0⟩ 0 0, .mgmtDescriptorCopy 0 ⟨8, 0⟩ 0 0, .mgmtDescriptorCopy 0 ⟨0, 0⟩ 5 0,
  .mgmtDescriptorCopy 0 ⟨0, 0⟩ 0 1024, .mgmtDescriptorCopy 0 ⟨0, 6⟩ 0 0, .mgmtReservedType 8 0, .mgmtReservedType 0 2, .heartbeatSend 8, .heartbeatTimeout 8,
  .pairMemberLost 8, .pairChannelReturn 16, .channelReturnDrained 64, .pairRejoin 4, .rejoinCopyDone ⟨4, 0, false⟩, .rejoinCopyDone ⟨0, (2 ^ 20), false⟩, .rejoinCheckExpire 4] : List Instr).all fun i => !i.wellFormed) = true := by decide +kernel

/-- Each term breaks one check. -/
theorem test_wf_refuses_3 : (([
  .pairFenceEven 4, .pairFenceOdd 4, .write 8 0, .writeCont 8 0, .delete 8 0, .insertShift 8 0, .move 8 0, .setState 8 0,
  .genFlip 8 0, .genFlipApply 256, .genClear 8 0, .shelf 8 0, .compact 8 0, .bulkLoad 8 0, .bulkRecordRead 8 0 0 false, .spare 8 0,
  .barrier 8 0, .unknownCommand 8 0, .updatePortOperation 8 0, .updateGuardExpire 8 0, .updateGuardExpire 0 (2 ^ 25), .scrubRow 8,
  .cacheFillAllocate 0 2, .fillLineArrive 0 3, .slotWriteRecord 8 0 0 0, .slotWriteRecord 0 4096 0 0, .slotWriteApply 8,
  .mbufDrainStart 8, .arbiterSlotGrant 8 0 0 0 ⟨0, 0⟩, .arbiterSlotGrant 0 4 0 0 ⟨0, 0⟩, .arbiterSlotGrant 0 0 (2 ^ 32) 0 ⟨0, 0⟩,
  .arbiterSlotGrant 0 0 0 32 ⟨0, 0⟩, .arbiterSlotGrant 0 0 0 0 ⟨65, 0⟩, .arbiterSlotGrant 0 0 0 0 ⟨0, 65⟩, .arbiterCommit 8, .arbiterTableSwitch 8 0, .arbiterTableSwitch 0 4,
  .patrolScrubRead ⟨8, false⟩ 0, .patrolScrubRead ⟨0, false⟩ 3, .atsTranslationCompletion 0 6 ⟨0, 0⟩ false, .atsTranslationCompletion 0 0 ⟨65, 0⟩ false, .atsTranslationCompletion 0 0 ⟨0, (2 ^ 64)⟩ false,
  .cellarReadCompletion 0 0 5, .pcieCompletionTimeout 3 0, .promotion ⟨8, false⟩,
  .noticeWrite 64, .noticeTimeout 64, .kekWrite 8 0 false, .kekWrite 0 (2 ^ 32) false, .keyLoad (2 ^ 32), .keyClear (2 ^ 32),
  .cellarWrite (2 ^ 32)] : List Instr).all fun i => !i.wellFormed) = true := by decide +kernel

/-- Each term breaks one check. -/
theorem test_wf_refuses_4 : (([
  .cellarWriteComplete 0 (2 ^ 128) false, .cellarEnable (2 ^ 32), .cellarDisable (2 ^ 32), .regionOnline (2 ^ 32),
  .regionOffline (2 ^ 32), .partitionDescWrite 256, .srRegionWrite 8 0 0, .srRegionWrite 0 0x2000 0, .srRegionWrite 0 0 (2 ^ 32),
  .crRegionWrite 256, .packageWindowWrite 3 0 0, .packageWindowWrite 0 0x24000 0, .packageWindowWrite 0 0 (2 ^ 32), .moduleFail 8,
  .storeChannelEnable 8 0, .storeChannelEnable 0 (2 ^ 32), .storeChannelDisable 8 0, .storeChannelDisable 0 (2 ^ 32),
  .channelTrained 8 0, .channelTrained 0 256, .storeResyncDone ⟨8, 0, false⟩, .storeResyncDone ⟨0, (2 ^ 30), false⟩, .storeWindowRead 3 0 0 0 0, .storeWindowRead 0 8 0 0 0,
  .storeWindowRead 0 0 (2 ^ 20) 0 0, .storeWindowRead 0 0 0 9 0, .storeWindowRead 0 0 0 0 3, .storeWindowWrite128 ⟨8, false⟩ 0 0,
  .storeWindowWrite128 ⟨0, false⟩ (2 ^ 20) 0, .storeWindowWrite64 ⟨8, false⟩ 0 0, .storeWindowWrite64 ⟨0, false⟩ (2 ^ 20) 0, .storeWindowBadWrite 8 0 0 0,
  .storeWindowBadWrite 0 (2 ^ 20) 0 0, .storeWindowBadWrite 0 0 0 (2 ^ 32), .atticWindowRead 3 0 0 0, .atticWindowRead 0 8 0 0,
  .atticWindowRead 0 0 (2 ^ 20) 0, .atticWindowRead 0 0 0 9, .atticWindowWrite 8 0, .atticWindowWrite 0 (2 ^ 23),
  .recipeWindowRead 3 0 0 0, .recipeWindowRead 0 8 0 0, .recipeWindowRead 0 0 (2 ^ 17) 0, .recipeWindowRead 0 0 0 9,
  .sliceWindowWrite 8 0 0 0, .sliceWindowWrite 0 0x30000 0 0, .sliceWindowWrite 0 0 9 0, .sliceWindowWrite 0 0 0 (2 ^ 64),
  .cachePreload 8 0] : List Instr).all fun i => !i.wellFormed) = true := by decide +kernel

/-- Each term breaks one check. -/
theorem test_wf_refuses_5 : (([
  .cachePreload 0 (2 ^ 32), .cachePreloadDone 8 0, .cacheRangeInvalidate 8 0, .cacheRangeInvalidate 0 (2 ^ 32),
  .cacheRangeInvalidateDone 8, .lockedLineRefetch 8 0 0, .lockedLineRefetch 0 (2 ^ 29) 0, .lockedLineRefetch 0 0 3,
  .cacheWaysWrite 8 0, .cacheWaysWrite 0 (2 ^ 32), .wayCleanDone 8 0, .wayCleanDone 0 16, .cacheEnableWrite 8 0,
  .cacheEnableWrite 0 (2 ^ 32), .sqDoorbell 64 0, .sqDoorbell 0 (2 ^ 32), .cqHeadDoorbell 64 0, .cqHeadDoorbell 0 (2 ^ 32),
  .eqHeadDoorbell 64 0, .eqHeadDoorbell 0 (2 ^ 32), .sqFetch 64, .sqFetchCompletion 64 [] false, .cqEntryWrite 64,
  .queueEnable 64 0, .queueEnable 0 (2 ^ 32), .eventQueueEnable 64 0, .eventQueueEnable 0 (2 ^ 32), .msixUnmask 64,
  .atsInvalidation none (2 ^ 64) 0, .atsInvalidation none 0 65, .peerCommandWrite (2 ^ 30) 0, .peerCommandDispatch 8,
  .peerSlotWrite (2 ^ 30) 0, .peerUnmatchedWrite (2 ^ 30), .peerBadWrite (2 ^ 30) 0, .modulePowerOn 8 0, .modulePowerOn 0 (2 ^ 32),
  .modulePowerOff 8 0, .modulePowerOff 0 (2 ^ 32), .indicatorChange 8 0, .indicatorChange 0 (2 ^ 32), .moduleCommandComplete 8,
  .attentionButton 8, .presenceChange 8 false, .inputStuck 8 0, .inputStuck 0 256, .todArm (2 ^ 32), .timeCellReceive ⟨8, 0⟩, .timeCellReceive ⟨0, 6⟩] : List Instr).all fun i => !i.wellFormed) = true := by decide +kernel

/-- Each term breaks one check. -/
theorem test_wf_refuses_6 : (([
  .localTimeTimeout 8, .refSelectChange (2 ^ 32), .evidenceEnable (2 ^ 32), .evidenceDisable (2 ^ 32), .thermalLevelRise 8 0,
  .thermalLevelRise 0 256, .thermalLevelFall 8 0, .thermalLevelFall 0 256, .thermalFenceClear 8 0, .thermalFenceClear 0 256,
  .governorStep [] (2 ^ 16), .partitionCountSelect 8 0, .partitionCountSelect 0 (2 ^ 32), .stepEntrySelect 8 0,
  .stepEntrySelect 0 (2 ^ 32), .arbCounterSelect 8 0, .arbCounterSelect 0 (2 ^ 32), .powerDomainSelect 8 0,
  .powerDomainSelect 0 (2 ^ 32), .latchingLoRead 3 0 0 0, .latchingLoRead 0 8 0 0, .latchingLoRead 0 0 22 0,
  .latchingLoRead 0 0 0 4096, .predictorClear 8, .sendSlotGrant 8 0, .sendSlotGrant 0 32, .messageVisible 8 0,
  .messageVisible 0 32, .eventTimeout 8 0, .eventTimeout 0 384, .forkWaitGrant 8, .forkTimeout 8 0, .forkTimeout 0 384,
  .faultNoticeDispatch 8, .threadRelease 8 0, .threadRelease 0 (2 ^ 32), .quiesceFire 8, .quiesceKill 8, .halt 8, .resume 8,
  .step 8, .kill 8, .haltedBudgetAbort 8 0, .haltedBudgetAbort 0 384, .dbgChannelRelease 8 0, .dbgChannelRelease 0 (2 ^ 32),
  .dbgAutoRelease 8 0, .dbgAutoRelease 0 32] : List Instr).all fun i => !i.wellFormed) = true := by decide +kernel

/-- Each term breaks one check. -/
theorem test_wf_refuses_7 : (([
  .hysteresisExpire 8 0, .hysteresisExpire 0 0x30, .powerEntryStep 8 0, .powerEntryStep 0 0x30, .wakeEvent 8 0, .wakeEvent 0 0x30,
  .powerWakeStep 8 0, .powerWakeStep 0 0x30, .wakeFailTimeout 8 0 false, .wakeFailTimeout 0 0x30 false, .domainWakeRetry 8 0,
  .domainWakeRetry 0 0x30, .pllLock 8, .pllLockLoss 8, .referenceBad ⟨8, 0⟩, .referenceBad ⟨0, (2 ^ 20)⟩, .smbusRegisterWrite (2 ^ 32) 0 false,
  .smbusRegisterWrite 0 (2 ^ 32) false, .smbusSetReadAddress (2 ^ 32) false, .errorHandlingEnd 8 0, .errorHandlingEnd 0 22,
  .supervisorEscalation 8 0, .supervisorEscalation 0 22, .errorInject 8 0 0, .errorInject 0 22 0, .errorInject 0 0 32,
  .pageLock 8 0, .pageLock 0 22, .engineReset (2 ^ 32), .goldenReplay (2 ^ 32), .imageLoadHost (2 ^ 32), .debugChallenge (2 ^ 32),
  .debugResponse (2 ^ 32), .voltageAlarm 8, .resetRelease 256 0 0 0, .resetRelease 0 4 0 0, .resetRelease 0 0 4 0,
  .resetRelease 0 0 0 8, .dieResetTimeout 256 0 0 0, .dieResetTimeout 0 4 0 0, .dieResetTimeout 0 0 4 0, .dieResetTimeout 0 0 0 8,
  .diePowerGoodLoss 8, .bsqStart 8 0, .bsqStart 0 (2 ^ 32), .bsqPhaseDone 8 0 false [] 0, .bsqPhaseDone 0 (2 ^ 16) false [] 0,
  .bsqPhaseDone 0 0 false [] (2 ^ 16), .registerWrite 3 0 0 0 0] : List Instr).all fun i => !i.wellFormed) = true := by decide +kernel

/-- Each term breaks one check. -/
theorem test_wf_refuses_8 : (([
  .registerWrite 0 8 0 0 0, .registerWrite 0 0 22 0 0, .registerWrite 0 0 0 4096 0, .registerWrite 0 0 0 0 (2 ^ 32),
  .dataLinkUp 8 0, .dataLinkUp 0 32, .diagnosticWord 24 0 false, .diagnosticWord 0 6 false, .cascadeSearchFrame 0 [2 ^ 256], .cascadeSearchFrame (2 ^ 256) [],
  .cascadeContribFrame (2 ^ 256) [], .cascadeContribFrame 0 [2 ^ 256], .governorStep [0, 2 ^ 16] 0, .bsqPhaseDone 0 0 false [(16, 0, 0, 0)] 0,
  .bsqPhaseDone 0 0 false [(0, 65, 0, 0)] 0, .bsqPhaseDone 0 0 false [(0, 0, 1024, 0)] 0,
  .bsqPhaseDone 0 0 false [(0, 0, 0, 1025)] 0] : List Instr).all fun i => !i.wellFormed) = true := by decide +kernel

/-- The largest operands are accepted. -/
theorem test_wf_accepts : (([.xtr 7 383, .channelCfgWrite 7 63 (2 ^ 32 - 1), .bsqPhaseDone 7 (2 ^ 16 - 1) false [(15, 64, 1023, 1024)] (2 ^ 16 - 1),
  .governorStep [2 ^ 16 - 1] (2 ^ 16 - 1), .cascadeSearchFrame (2 ^ 256 - 1) [2 ^ 256 - 1], .crRegionWrite 255] : List Instr).all fun i => i.wellFormed) = true := by
  decide +kernel

/-! ## Results worked out from the rules -/

/-- The nonce of the worked example of spec/08_store_room_and_cellar.md: bucket 500,000 of region 7, version 5. -/
theorem test_cellar_nonce : cellarNonce 500000 7 5 = 0x0007A1200700000000000005 := by decide +kernel

/-- The worked examples of spec/08_store_room_and_cellar.md and spec/09_bucket_cache.md: line, set and tag of bucket 500,000, and
its addresses in the cellar. -/
theorem test_bucket_places :
    (let s := wrb up [(2, SR_BASE.BASE, 0x100000, 0), (0, CR_BASE_HI.ADDR, 0x40, 7), (0, CR_TAG_HI.ADDR, 0x48, 7)]
     srLine s 2 0 500000 = 0x17A120 ∧ lineSet 0x17A120 = 0x120 ∧ lineTag 0x17A120 = 0x17A ∧
       bucketIova s 7 500000 = 0x4003D09000 ∧ tagIova s 7 500000 = 0x48007A1200) := by decide +kernel

/-- R60 in the worked example of spec/02_entries_and_keys.md: E1 and E2 fit the shelf's TAG, E3 does not. -/
theorem test_class_byte :
    (let s := wr up [(0, SHELF_DESC.TAG, 0x40), (0, SHELF_DESC.TAG_MASK, 0xF0)]
     tagOk s 0 0 0x45 0xFF = true ∧ tagOk s 0 0 0x40 0xF0 = true ∧ tagOk s 0 0 0x40 0xC0 = false) := by decide +kernel

/-- A die's contribution with a candidate at priority 0x20. -/
def con (gra n tien : Nat) : Contrib := { Contrib.none with cand := some ⟨gra, 0, 0x20, 0⟩, count := n, bprio := 0x20, tien := tien }
/-- Case 1 of the worked example of ties in spec/03_attic_search.md: entry A wins, COUNT 5, more than one at the best priority. -/
theorem test_merge_ties :
    (let m := mergeAll [con 0xC05 3 2, con 0x140C02 2 1]
     m.cand.map (fun c => c.gra) = some 0xC05 ∧ m.count = 5 ∧ m.bprio = 0x20 ∧ m.tien = 2) := by decide +kernel

/-- The slot table of the worked example of blanking in spec/03_attic_search.md: 16 slots of guaranteed group 0, 8 of guaranteed
group 1, 24 of best-effort group 2, 4 of the update engine, one each of scrubber and management, 10 free. -/
def tbl : State := { wr up [(0, THR_GRP_CFG.CLASS 0, 1), (0, THR_GRP_CFG.CLASS 1, 1)] with
  slots := ((List.replicate 16 1 ++ List.replicate 8 2 ++ List.replicate 24 3 ++ List.replicate 4 0x11 ++ [0x12, 0x13]).zipIdx).map fun (q : Nat × Nat) => (arbKey 0 0 q.2, q.1) }
/-- Level 1 blanks the 10 free slots and 6 best-effort ones; level 3 takes 6 of group 0, 3 of group 1, and leaves one update slot. -/
theorem test_blanking :
    (let l := blankPositions tbl 0 0 16
     l.length = 16 ∧ (l.filter fun p => slotOf tbl 0 0 p == 0).length = 10 ∧ (l.filter fun p => slotOf tbl 0 0 p == 3).length = 6) ∧
    (let l := blankPositions tbl 0 48 48
     l.length = 48 ∧ (l.filter fun p => slotOf tbl 0 0 p == 1).length = 6 ∧ (l.filter fun p => slotOf tbl 0 0 p == 2).length = 3 ∧
       (l.filter fun p => slotOf tbl 0 0 p == 0x11).length = 3) := by decide +kernel

/-- The BAR0 address of the worked example of spec/17_register_map.md lies in the row view of die 1, at row 18 of shelf 7. -/
theorem test_row_address : siteAt up 0x011E0928 = .rows 1 (((7 * 1024 + 18) * 128 + 0x28)) ∧ siteAt up 0x010000C0 = .page 1 pgAtc 0xC0 := by
  decide +kernel

/-- The worked example of spec/15_faults_and_security.md on die 3's store-room page: C recorded first, U second and escalated, the
third counted; the end of handling moves U up without its data. -/
theorem test_error_records :
    (let a := raiseErr up 3 pgStr STR_ERR.ECC_CORR (it1 0x123400080)
     let b := raiseErr a 3 pgStr STR_ERR.ECC_UNC (it1 7)
     let c := raiseErr b 3 pgStr STR_ERR.ECC_CORR (it1 9)
     getF a 3 (ERR_FIRST0.CLASS pgStr) = 0 ∧ getF a 3 (ERR_FIRST0.BIT pgStr) = 0 ∧ getF b 3 (ERR_SECOND.ESC pgStr) = 1 ∧
       getF b 3 (ERR_SECOND.BIT pgStr) = 1 ∧ getF c 3 (ERR_NEXT_CNT.COUNT pgStr) = 1 ∧
       after (exec (.errorHandlingEnd 3 pgStr) c) (fun t => getF t 3 (ERR_FIRST0.BIT pgStr) == 1 && getF t 3 (ERR_FIRST0.CLASS pgStr) == 1 &&
         getF t 3 (ERR_FIRST2.DATA pgStr) == 0 && getF t 3 (ERR_FIRST3.DATA pgStr) == 0 && getF t 3 (ERR_SECOND.VALID pgStr) == 0) = true) := by
  decide +kernel

/-- LIT at operand D = 0 writes its low bits from slice bit address 1024 on (R187). -/
theorem test_lit : after (exec (.lit 0 1) (at1 Thread.zero (ins 2 (15 * 2 ^ 16 + 0xBEEF)))) (fun t =>
    readSlice (getT t 0 1) 1024 16 == 0xBEEF && (getT t 0 1).pc == 1 && (getT t 0 1).st == .ready) = true := by decide +kernel
/-- TRAP faults its thread, held while FAULT_HOLD is set (R197, R227). -/
theorem test_trap : after (exec (.trap 0 1) (runs (wr up [(0, THR_CTL.FAULT_HOLD, 1)]) 1 Thread.zero (ins 15 0))) (fun t => (getT t 0 1).st == .faulted) = true := by decide +kernel
/-- END of a thread without children frees it (R197). -/
theorem test_end : after (exec (.endThread 0 1) (at1 { Thread.zero with sent := true } (ins 16 0))) (fun t => (getT t 0 1).st == .free) = true := by
  decide +kernel
/-- A word of opcode 0 stops the machine (R175, R176). -/
theorem test_unused_opcode : faults (exec (.unusedOpcodeFetch 0 1) (at1 Thread.zero (ins 0 0))) = true := by decide +kernel
/-- An instruction of another opcode leaves the thread alone (R175). -/
theorem test_other_opcode : after (exec (.lit 0 1) (at1 Thread.zero (ins 15 0))) (fun t => (getT t 0 1).st == .ready) = true := by decide +kernel

/-- A burst on a channel bound to another interface is a format error of cause 2, one on a disabled channel of cause 3 (R308). -/
theorem test_burst_checks :
    after (exec (.lookupBurstReceive 1 0 0 0 8 true false) (wr port [(0, LKP_IF_STS.STATE 1, 2)])) (fun t => getF t 0 LKP_FMT.LAST == 2 && t.reqs == []) = true ∧
    after (exec (.lookupBurstReceive 0 1 0 0 8 true false) port) (fun t => getF t 0 LKP_FMT.LAST == 3 && t.reqs == []) = true := by decide +kernel
/-- A good burst joins its interface's queue (R308). -/
theorem test_burst_queued : after (exec (.lookupBurstReceive 0 0 (BitVec.ofNat 64 (16 * 2 ^ 28)) 0 24 true false) port)
    (fun t => t.reqs.map (fun r => r.phase) == [.queued none]) = true := by decide +kernel
/-- XOFF sets the channel's flag and XON clears it (R328). -/
theorem test_xoff : after (exec (.xoffReceive 0 0 true) port) (fun t => getF t 0 (LKP_CH_USE.XOFF_RX 0) == 1 &&
    after (exec (.xoffReceive 0 0 false) t) (fun u => getF u 0 (LKP_CH_USE.XOFF_RX 0) == 0)) = true := by decide +kernel

/-- The debugger has no effect at level 0, and halts the thread at level 1 (R233). -/
theorem test_halt : after (exec (.halt 0) (thrs (wr up [(0, DBG_THREAD.THREAD, 1)]) [(1, wt .ready .idle)])) (fun t => (getT t 0 1).st == .ready) = true ∧
    after (exec (.halt 0) (thrs dbg [(1, wt .ready .idle)])) (fun t => (getT t 0 1).st == .halted && (getT t 0 1).rem == .ready) = true := by decide +kernel

/-- The governor adds one count while the package is above its cap, and takes one when it is below by more than HYST (R97). -/
theorem test_governor :
    after (exec (.governorStep [232] 0) (wr up [(0, PWR_CAP.EN, 1), (0, PWR_CAP.CAP, 180), (0, PWR_CAP.HYST, 4)])) (fun t => getF t 0 PWR_GOV_STS.COUNT == 1) = true ∧
    after (exec (.governorStep [175] 0) (wr up [(0, PWR_CAP.EN, 1), (0, PWR_CAP.CAP, 180), (0, PWR_CAP.HYST, 4), (0, PWR_GOV_STS.COUNT, 9)]))
      (fun t => getF t 0 PWR_GOV_STS.COUNT == 8) = true := by decide +kernel
/-- Thermal levels 1 to 4 begin at 95, 100, 105 and 110 degrees; at 110 the die is fenced (R97). -/
theorem test_thermal : after (exec (.thermalLevelRise 7 110) up) (fun t => getF t 7 ATC_THROTTLE.T_LEVEL == 4 && fenced t 7) = true ∧
    after (exec (.thermalLevelRise 7 94) up) (fun t => getF t 7 ATC_THROTTLE.T_LEVEL == 0 && !fenced t 7) = true := by decide +kernel

/-- A doorbell of a disabled queue is a bad doorbell (R356). -/
theorem test_bad_doorbell : after (exec (.sqDoorbell 63 0) lnk) (fun t => (getF t 0 (ERR_STICKY.BITS pgHif)).testBit HIF_ERR.DB_BAD) = true := by decide +kernel
/-- The KEK is not taken over PCIe (R261). -/
theorem test_kek : after (exec (.kekWrite 7 5 false) up) (fun t => getF t 0 CEL_STS.KEK == 0 && t.kek.isNone) = true ∧
    after (exec (.kekWrite 7 5 true) up) (fun t => getF t 0 CEL_STS.KEK == 1 && t.kek == some 5) = true := by decide +kernel
/-- Seven good dies of eight do not leave reset before the time-out (R475). -/
theorem test_reset : after (exec (.resetRelease 127 0 0 0) State.reset) (fun t => t.inReset) = true := by decide +kernel
/-- A queue that holds no command passes one cycle; the front command runs first. -/
theorem test_step : after (step up) (fun t => t.cyc == 1) = true ∧
    after (step { port with pending := [.xoffReceive 0 0 true, .ingressRelease 0] }) (fun t =>
      t.pending == [.ingressRelease 0] && getF t 0 (LKP_CH_USE.XOFF_RX 0) == 1) = true := by decide +kernel
/-- SHA-256 and SHA-384 of the three bytes "abc" (the examples of FIPS 180-4). -/
theorem test_sha2 : sha256 [0x61, 0x62, 0x63] = 0xba7816bf8f01cfea414140de5dae2223b00361a396177a9cb410ff61f20015ad ∧
    sha384 [0x61, 0x62, 0x63] = 0xcb00753f45a35e8bb5a03d699ac65007272c32ab0eded1631a8b605a43ff5bed8086072ba1e7cc2358baeca134c825a7 := by decide +kernel
/-- AES-256-GCM of one block of zeros under the key and nonce zero (test case 14 of the mode's submission to NIST). -/
theorem test_gcm : gcmSeal 0 0 [] (List.replicate 16 0) = (bytesBE 16 0xcea7403d4d606b6e074ec5d3baf39d18, 0xd0d1c8a799996bf0265b98b5d48ab919) := by
  decide +kernel
/-- The signature of "sample" in RFC 6979 verifies, and no longer does with another digest. -/
theorem test_ecdsa :
    (let pub := 0xEC3A4E415B4E19A4568618029F427FA5DA9A8BC4AE92E02E06AAE5286B300C64DEF8F0EA9055866064A254515480BC138015D9B72D7D57244EA8EF9AC0C621896708A59367F9DFB9F54CA84B3F1C9DB1288B231C3AE0D4FE7344FD2533264720
     let r := 0x94EDBB92A5ECB8AAD4736E56C691916B3F88140666CE9FA73D64C4EA95AD133C81A648152E44ACF96E36DD1E80FABE46
     let s := 0x99EF4AEB15F178CEA1FE40DB2603138F130E740A19624526203B6351D0A3A94FA329C145786E679E7B82C71A38628AC8
     let h := sha384 [0x73, 0x61, 0x6d, 0x70, 0x6c, 0x65]
     ecdsaVerify pub h r s = true ∧ ecdsaVerify pub (h + 1) r s = false) := by decide +kernel
/-- Five TCK cycles with TMS high lead from any state to Test-Logic-Reset (IEEE 1149.1). -/
theorem test_tap : tapNext (tapNext (tapNext (tapNext (tapNext .shiftIr true) true) true) true) true = .testLogicReset ∧
    (tapEdge up true false []).tap.ins = .idcode := by decide +kernel

/-- The command table gives no row any bits: no word spells a command (log 5). -/
theorem test_no_word : decodeTableWord 32 5 = none ∧ State.withFetchWord up 32 5 = up := by decide +kernel

end Sys2Proof.Tests
end

section
/-!
Register accesses (R13, R355, R497, R518): what a read or a write of a site does once its size is
accepted, what a register command and a management message come to, and the statement that they are performed.
-/

namespace Sys2Proof.Machine

/-! ## A cell that arrives (R107) -/

/-- Taking a cell leaves the part as it is. -/
theorem takeCell_part {s u : State} {d src cls id flit : Nat} {ok : Bool} (h : takeCell s d src cls id flit = (u, ok)) :
    u.part = s.part := by
  have hfst : (takeCell s d src cls id flit).1.part = s.part := by rw [takeCell_rest]
  rwa [h] at hfst

/-- Taking a cell neither begins nor ends a reset. -/
theorem takeCell_inReset {s u : State} {d src cls id flit : Nat} {ok : Bool} (h : takeCell s d src cls id flit = (u, ok)) :
    u.inReset = s.inReset := by
  have hfst : (takeCell s d src cls id flit).1.inReset = s.inReset := by rw [takeCell_rest]
  rwa [h] at hfst

/-- A die of the part is one of it after a cell was taken. -/
theorem takeCell_die {s u : State} {d src cls id flit e : Nat} {ok : Bool} (h : takeCell s d src cls id flit = (u, ok))
    (he : e < s.part.dieCnt) : ¬ u.part.dieCnt ≤ e := by rwa [takeCell_part h, Nat.not_le]

/-- Queueing a management message leaves the messages under way as they are. -/
theorem queueMgmt_mgmt (s : State) (src dest mtype key n body : Nat) (named : Bool) :
    (queueMgmt s src dest mtype key n body named).mgmt = s.mgmt := by rw [queueMgmt_eq]

/-! ## Accesses of a site (R355, R497) -/

/-- A page takes a word where it is aligned. -/
theorem sizeOk_page_word (d pg off : Nat) : sizeOk (.page d pg off) 4 = (off % 4 == 0) := by
  simp [sizeOk]

/-- A write of a size that the site refuses is a bad access. -/
theorem writeAt_refused {s : State} {x : Site} {size : Nat} (hr : s.inReset = false) (hz : writeSizeOk x size = false)
    (acc bar val : Nat) : writeAt s acc x bar size val = (badAccess s bar, 1) := by
  simp [writeAt, hr, hz]

/-- A write of a size that the site takes goes by the site's gate. -/
theorem writeAt_gate {s : State} {x : Site} {size k e : Nat} {c : Option Nat} (hr : s.inReset = false)
    (hz : writeSizeOk x size = true) (hg : siteGate s x = (k, e, c)) (acc bar val : Nat) :
    writeAt s acc x bar size val =
      if k = 2 then (s, 2) else if k = 1 then (wakeFor s e c, 3) else (writeOpen s acc x bar size val, 0) := by
  simp [writeAt, hr, hz, hg]

/-- A word written to an open page is a register write. -/
theorem writeOpen_page_word (s : State) (acc d pg off bar val : Nat) :
    writeOpen s acc (.page d pg off) bar 4 val = writeReg s acc d pg off (val % 2 ^ 32) := rfl

/-- A read of a size that the site takes is performed where the site's gate is open. -/
theorem readSite_open {s : State} {x : Site} {size e : Nat} {c : Option Nat} (hr : s.inReset = false)
    (hz : sizeOk x size = true) (hg : siteGate s x = (0, e, c)) (acc bar : Nat) :
    readSite s acc x bar size = readOpen s acc x size := by
  simp [readSite, hr, hz, hg]

/-! ## Latching reads (R514) -/

/-- A register that latches others is an aligned block register, and shows no latch itself. -/
theorem latchedBy_spec {pg off : Nat} (h : latchedBy pg off ≠ []) : 0x80 ≤ off ∧ off % 4 = 0 ∧ isLatch pg off = false := by
  unfold latchedBy at h
  split_ifs at h with hp hp hp hp hp
  case neg => exact absurd rfl h
  all_goals simp [isLatch, hp, pgAtc, pgSeq, pgTim, pgEvd, pgClk]

/-- The state after a read of a LO register: the registers above it stand in the accessor's latches. -/
def latchLo (s : State) (acc d pg off : Nat) : State :=
  { s with latches := (latchedBy pg off).foldl (fun m o => mset 0 m (latchKey acc d pg o) (liveReg s d pg o)) s.latches }

/-- A read of a LO register of a page that is there shows the register and latches those above it. -/
theorem readReg_latching {s : State} {d pg off : Nat} (hl : latchedBy pg off ≠ []) (hp : present s d pg = true) (acc : Nat) :
    readReg s acc d pg off = (latchLo s acc d pg off, liveReg s d pg off) := by
  obtain ⟨hoff, -, hlatch⟩ := latchedBy_spec hl
  simp [readReg, latchLo, hp, hlatch, Nat.not_lt.mpr hoff]

/-- A latching read answers the LO register and latches those above it. -/
theorem execLatchingLoRead_open {s : State} {d pg off e : Nat} {c : Option Nat} (hr : s.inReset = false)
    (hl : latchedBy pg off ≠ []) (hg : siteGate s (.page d pg off) = (0, e, c)) (hp : present s d pg = true) (acc : Nat) :
    execLatchingLoRead acc d pg off s = .next (emitOut (latchLo s acc d pg off) (.readData acc 0 (liveReg s d pg off))) := by
  obtain ⟨-, hal, -⟩ := latchedBy_spec hl
  have hz : sizeOk (.page d pg off) 4 = true := by rw [sizeOk_page_word, hal]; rfl
  have hread : readSite s acc (.page d pg off) (pageBar d pg off) 4 = answer (latchLo s acc d pg off) 0 (liveReg s d pg off) := by
    rw [readSite_open hr hz hg]
    simp [readOpen, readReg_latching hl hp]
  simp [execLatchingLoRead, hl, hread, answer, giveRead]

/-! ## Register words of an accessor (R13) -/

/-- A misaligned register write is a bad access. -/
theorem execRegisterWrite_misaligned {s : State} {pg off : Nat} (hr : s.inReset = false) (hpg : pg ≤ 21) (hal : off % 4 ≠ 0)
    (acc d val : Nat) : execRegisterWrite acc d pg off val s = .next (badAccess s (pageBar d pg off)) := by
  have hz : writeSizeOk (.page d pg off) 4 = false := by simpa [writeSizeOk, sizeOk_page_word] using hal
  simp [execRegisterWrite, hpg, writeAt_refused hr hz]

/-- An aligned register write goes by the gate of its page. -/
theorem execRegisterWrite_gate {s : State} {d pg off k e : Nat} {c : Option Nat} (hr : s.inReset = false) (hpg : pg ≤ 21)
    (hal : off % 4 = 0) (hg : siteGate s (.page d pg off) = (k, e, c)) (acc val : Nat) :
    execRegisterWrite acc d pg off val s =
      .next (if k = 2 then s else if k = 1 then wakeFor s e c else writeReg s acc d pg off (val % 2 ^ 32)) := by
  have hz : writeSizeOk (.page d pg off) 4 = true := by simp [writeSizeOk, sizeOk_page_word, hal]
  simp only [execRegisterWrite, hpg, if_true, writeAt_gate hr hz hg, writeOpen_page_word]
  split_ifs <;> rfl

/-! ## Management messages (R518) -/

section Received

variable {s u : State} {acc d flit : Nat}

/-- A read message that is not received has no effect but the cell's own. -/
theorem execMgmtRegRead_lost (h : takeCell s d 0 5 (mgmtId 1 acc) flit = (u, false)) (off size : Nat) :
    execMgmtRegRead acc ⟨d, flit⟩ off size s = .next u := by
  simp [execMgmtRegRead, h]

/-- A read message of 4 or 8 bytes that is received, and whose site answers, starts its completion back. -/
theorem execMgmtRegRead_answered {size off st v : Nat} {t : State} (h : takeCell s d 0 5 (mgmtId 1 acc) flit = (u, true))
    (hd : d < s.part.dieCnt) (hz : size = 4 ∨ size = 8)
    (hsite : readSite u acc (msgSite u d off) (dieBar d off) size = (t, some (st, v))) :
    execMgmtRegRead acc ⟨d, flit⟩ off size s =
      .next { queueMgmt t d 0 3 acc 1 ((st % 8 * 2 ^ 64 + v % 2 ^ 64) * 2 ^ 228) with mgmt := t.mgmt ++
        [{ type := 3, dest := 0, mid := d, acc := acc, off := off, size := size, data := v, status := st }] } := by
  rcases hz with rfl | rfl <;> simp [execMgmtRegRead, h, takeCell_die h hd, hsite, queueMgmt_mgmt]

/-- A read message of 4 or 8 bytes that is received, and whose site does not answer, starts no completion. -/
theorem execMgmtRegRead_unanswered {size off : Nat} {t : State} (h : takeCell s d 0 5 (mgmtId 1 acc) flit = (u, true))
    (hd : d < s.part.dieCnt) (hz : size = 4 ∨ size = 8)
    (hsite : readSite u acc (msgSite u d off) (dieBar d off) size = (t, none)) :
    execMgmtRegRead acc ⟨d, flit⟩ off size s = .next t := by
  rcases hz with rfl | rfl <;> simp [execMgmtRegRead, h, takeCell_die h hd, hsite]

/-- A write message that is not received has no effect but the cell's own. -/
theorem execMgmtRegWrite_lost (h : takeCell s d 0 5 (mgmtId 2 acc) flit = (u, false)) (off size data : Nat) :
    execMgmtRegWrite acc ⟨d, flit⟩ off size data s = .next u := by
  simp [execMgmtRegWrite, h]

/-- A write message of 4 or 8 bytes that is received writes its site. -/
theorem execMgmtRegWrite_word {size : Nat} (h : takeCell s d 0 5 (mgmtId 2 acc) flit = (u, true)) (hd : d < s.part.dieCnt)
    (hz : size = 4 ∨ size = 8) (off data : Nat) :
    execMgmtRegWrite acc ⟨d, flit⟩ off size data s = .next (writeAt u acc (msgSite u d off) (dieBar d off) size data).1 := by
  rcases hz with rfl | rfl <;> simp [execMgmtRegWrite, h, takeCell_die h hd]

/-- A write message of 64 or 128 bytes that is received at an open slot-write window is a slot-write record. -/
theorem execMgmtRegWrite_slotWrite {size off e o g : Nat} {c : Option Nat}
    (h : takeCell s d 0 5 (mgmtId 2 acc) flit = (u, true)) (hr : s.inReset = false) (hd : d < s.part.dieCnt)
    (hS : s.part.unitS = true) (hz : size = 64 ∨ size = 128) (hx : msgSite u d off = .slotWrite e o)
    (hg : siteGate u (.slotWrite e o) = (0, g, c)) (data : Nat) :
    execMgmtRegWrite acc ⟨d, flit⟩ off size data s = .next (slotWrite u d o size (BitVec.ofNat 512 data)) := by
  have hdie := takeCell_die h hd
  have hSu : u.part.unitS = true := by rw [takeCell_part h, hS]
  have hru : u.inReset = false := by rw [takeCell_inReset h, hr]
  rcases hz with rfl | rfl <;> simp [execMgmtRegWrite, h, hdie, hx, hg, hSu, hru]

/-- An aligned write message of 64 or 128 bytes that is received at an open store window writes half a bucket or a bucket. -/
theorem execMgmtRegWrite_store {size off e o g : Nat} {c : Option Nat}
    (h : takeCell s d 0 5 (mgmtId 2 acc) flit = (u, true)) (hr : s.inReset = false) (hd : d < s.part.dieCnt)
    (hS : s.part.unitS = true) (hz : size = 64 ∨ size = 128) (hx : msgSite u d off = .store e o)
    (hg : siteGate u (.store e o) = (0, g, c)) (hal : o % size = 0) (data : Nat) :
    execMgmtRegWrite acc ⟨d, flit⟩ off size data s = .next (if size = 128 then
        writeStoreWin u d o 15 false fun _ => ⟨BitVec.ofNat 1024 data, 0⟩
      else writeStoreWin u d o (halfSlots (o % 128)) false (putHalf64 (o % 128) data)) := by
  have hdie := takeCell_die h hd
  have hSu : u.part.unitS = true := by rw [takeCell_part h, hS]
  have hru : u.inReset = false := by rw [takeCell_inReset h, hr]
  rcases hz with rfl | rfl <;> simp [execMgmtRegWrite, h, hdie, hx, hg, hSu, hru, hal]

end Received

/-- The oldest completion of an accessor's reads reaches it when its cell is received. -/
theorem execMgmtReadCompletion_found {s u : State} {acc flit : Nat} {m : Mgmt} {ok : Bool}
    (hm : s.mgmt.find? (fun m => m.type == 3 && m.acc == acc) = some m)
    (h : takeCell s 0 m.mid 5 (mgmtId 3 acc) flit = (u, ok)) :
    execMgmtReadCompletion ⟨acc, flit⟩ s = .next (if ok then emitOut
      { u with mgmt := rmFirst (fun m => m.type == 3 && m.acc == acc) u.mgmt } (.readData acc m.status m.data) else u) := by
  simp [execMgmtReadCompletion, hm, h]

/-- Settles O51: each command comes to one access of a site, and the access goes by its size and the site's gate. -/
theorem registerAccessesPerformed : Obligations.RegisterAccessesPerformed := by
  intro s hr acc d
  refine ⟨fun pg off val hpg => ⟨fun hal => execRegisterWrite_misaligned hr hpg hal acc d val, fun k e c hal hg => ?_⟩,
    fun pg off e c hl hg hp => ⟨_, execLatchingLoRead_open hr hl hg hp acc, rfl, rfl, rfl⟩,
    fun off size flit u t hd hz h =>
      ⟨fun st v hsite => execMgmtRegRead_answered h hd hz hsite, fun hsite => execMgmtRegRead_unanswered h hd hz hsite⟩,
    fun off size data flit u hd hz h => execMgmtRegWrite_word h hd hz off data,
    fun off size data flit o e u hd hz hS h =>
      ⟨fun c hx hg => execMgmtRegWrite_slotWrite h hr hd hS hz hx hg data,
        fun c hx hg hal => execMgmtRegWrite_store h hr hd hS hz hx hg hal data⟩,
    fun off size flit u h => execMgmtRegRead_lost h off size,
    fun off size data flit u h => execMgmtRegWrite_lost h off size data,
    fun m flit u hm => ⟨fun h => execMgmtReadCompletion_found hm h, fun h => execMgmtReadCompletion_found hm h⟩⟩
  have hw := execRegisterWrite_gate hr hpg hal hg acc val
  refine ⟨?_, ?_, ?_⟩ <;> (rintro rfl; exact hw)

end Sys2Proof.Machine
end

section
/-!
The SECDED code (R519): parity and syndrome are linear in the word, so what a word reads as depends on its wrong bits.
-/

namespace Sys2Proof.Machine

/-! ## Parity and syndrome are linear -/

/-- Bits that both words set cancel, so the count of bits set is additive modulo 2. -/
theorem popcount_xor (a b n : Nat) :
    popcount (a ^^^ b) n % 2 = (popcount a n + popcount b n) % 2 := by
  induction n with
  | zero => rfl
  | succ n ih =>
    have hbit : b2n ((a ^^^ b).testBit n) % 2 = (b2n (a.testBit n) + b2n (b.testBit n)) % 2 := by
      rw [Nat.testBit_xor]
      cases a.testBit n <;> cases b.testBit n <;> rfl
    simp only [popcount]
    omega

theorem parityOf_xor (a b n : Nat) : parityOf (a ^^^ b) n = (parityOf a n + parityOf b n) % 2 := by
  simp only [parityOf, popcount_xor, Nat.add_mod, Nat.mod_mod]

theorem popcount_two_pow (i n : Nat) : popcount (2 ^ i) n = if i < n then 1 else 0 := by
  induction n with
  | zero => rfl
  | succ n ih =>
    simp only [popcount, ih, Nat.testBit_two_pow, b2n, decide_eq_true_eq]
    split_ifs <;> omega

/-- One wrong bit turns the parity. -/
theorem parityOf_flip {v i n : Nat} (hi : i < n) : parityOf (v ^^^ 2 ^ i) n = (parityOf v n + 1) % 2 := by
  rw [parityOf_xor, parityOf.eq_1 (2 ^ i), popcount_two_pow, if_pos hi]

/-- The sum of positions that forms a check field is linear in the word. -/
theorem foldl_secCheck_xor (l : List (Nat × Nat)) (v w a b : Nat) :
    l.foldl (fun x q => if (v ^^^ w).testBit q.2 then x ^^^ q.1 else x) (a ^^^ b) =
      l.foldl (fun x q => if v.testBit q.2 then x ^^^ q.1 else x) a ^^^
        l.foldl (fun x q => if w.testBit q.2 then x ^^^ q.1 else x) b := by
  induction l generalizing a b with
  | nil => rfl
  | cons q l ih =>
    have hstep : (if (v ^^^ w).testBit q.2 then (a ^^^ b) ^^^ q.1 else a ^^^ b) =
        (if v.testBit q.2 then a ^^^ q.1 else a) ^^^ (if w.testBit q.2 then b ^^^ q.1 else b) := by
      rw [Nat.testBit_xor]
      cases v.testBit q.2 <;> cases w.testBit q.2 <;> simp [Nat.xor_comm, Nat.xor_left_comm]
    rw [List.foldl_cons, hstep, ih, List.foldl_cons, List.foldl_cons]

theorem secCheck_xor (k v w : Nat) : secCheck k (v ^^^ w) = secCheck k v ^^^ secCheck k w :=
  foldl_secCheck_xor _ v w 0 0

/-- A sum of positions stays below any power of two that bounds them. -/
theorem foldl_secCheck_lt {r : Nat} (l : List (Nat × Nat)) (hl : ∀ q ∈ l, q.1 < 2 ^ r) (v : Nat) {a : Nat} (ha : a < 2 ^ r) :
    l.foldl (fun x q => if v.testBit q.2 then x ^^^ q.1 else x) a < 2 ^ r := by
  induction l generalizing a with
  | nil => exact ha
  | cons q l ih =>
    refine ih (fun p hp => hl p (List.mem_cons_of_mem q hp)) ?_
    dsimp only
    split_ifs
    · exact Nat.xor_lt_two_pow ha (hl q List.mem_cons_self)
    · exact ha

theorem secCheck_lt (v : Nat) : secCheck 64 v < 2 ^ 7 :=
  foldl_secCheck_lt _ (by decide) v (by decide)

/-- The syndrome of one wrong data bit is its position, which is no power of two. -/
theorem secCheck_two_pow : ∀ i < 64, secCheck 64 (2 ^ i) &&& (secCheck 64 (2 ^ i) - 1) ≠ 0 ∧
    (secPositions.take 64).idxOf? (secCheck 64 (2 ^ i)) = some i := by
  decide

/-! ## What a word reads as against its check field (R519) -/

/-- The low part of a check field holds the check bits. -/
theorem secField_mod (v : Nat) : secField 64 7 v % 2 ^ 7 = secCheck 64 v := by
  rw [secField, Nat.add_mul_mod_self_right, Nat.mod_eq_of_lt (secCheck_lt v)]

/-- Above the check bits stands the overall parity. -/
theorem secField_div (v : Nat) :
    secField 64 7 v / 2 ^ 7 = (parityOf v 64 + parityOf (secCheck 64 v) 7) % 2 := by
  rw [secField, Nat.add_mul_div_right _ _ (by decide), Nat.div_eq_of_lt (secCheck_lt v), Nat.zero_add]

theorem secField_lt (v : Nat) : secField 64 7 v < 256 := by
  have hdiv := secField_div v
  omega

/-- The syndrome of a word against the field of another depends on the wrong bits alone. -/
theorem syndrome_secField (v e : Nat) : secCheck 64 (v ^^^ e) ^^^ secField 64 7 v % 2 ^ 7 = secCheck 64 e := by
  rw [secField_mod, secCheck_xor, Nat.xor_comm, Nat.xor_xor_cancel_left]

/-- The parity found depends on the wrong bits alone. -/
theorem parity_secField (v e : Nat) :
    (parityOf (v ^^^ e) 64 + parityOf (secField 64 7 v % 2 ^ 7) 7 + secField 64 7 v / 2 ^ 7 % 2) % 2 = parityOf e 64 % 2 := by
  rw [secField_mod, secField_div, parityOf_xor]
  omega

/-- An even number of wrong data bits is never corrected. -/
theorem secDecode_wrong_even {v e : Nat} (he : parityOf e 64 % 2 = 0) :
    secDecode 64 7 (v ^^^ e) (secField 64 7 v) = if secCheck 64 e = 0 then .ok (v ^^^ e) else .bad := by
  simp only [secDecode, syndrome_secField, parity_secField, he, if_true]

theorem secDecode_wrong_bit (v : Nat) {i : Nat} (hi : i < 64) :
    secDecode 64 7 (v ^^^ 2 ^ i) (secField 64 7 v) = .corrected v := by
  obtain ⟨hpow, hidx⟩ := secCheck_two_pow i hi
  have hodd : parityOf (2 ^ i) 64 % 2 = 1 := by rw [parityOf, popcount_two_pow, if_pos hi]
  simp only [secDecode, syndrome_secField, parity_secField, hodd, hpow, hidx, if_false, one_ne_zero, Nat.xor_assoc, Nat.xor_self,
    Nat.xor_zero]

/-- Two data bits have two positions, so their syndrome does not vanish. -/
theorem secCheck_two_bits_ne_zero {i k : Nat} (hi : i < 64) (hk : k < 64) (hik : i ≠ k) : secCheck 64 (2 ^ i ^^^ 2 ^ k) ≠ 0 := by
  rw [secCheck_xor, Nat.xor_ne_zero_iff]
  intro heq
  have hsome := (secCheck_two_pow i hi).2
  rw [heq, (secCheck_two_pow k hk).2] at hsome
  exact hik (Option.some.inj hsome).symm

theorem secDecode_two_bits (v : Nat) {i k : Nat} (hi : i < 64) (hk : k < 64) (hik : i ≠ k) :
    secDecode 64 7 (v ^^^ 2 ^ i ^^^ 2 ^ k) (secField 64 7 v) = .bad := by
  have heven : parityOf (2 ^ i ^^^ 2 ^ k) 64 % 2 = 0 := by
    rw [parityOf_xor, parityOf, parityOf, popcount_two_pow, popcount_two_pow, if_pos hi, if_pos hk]
  rw [Nat.xor_assoc, secDecode_wrong_even heven, if_neg (secCheck_two_bits_ne_zero hi hk hik)]

/-- A check field whose parity is wrong, and whose syndrome is 0 or a power of two, leaves the data as it is. -/
theorem secDecode_odd {v chk : Nat} (hpar : (parityOf v 64 + parityOf (chk % 2 ^ 7) 7 + chk / 2 ^ 7 % 2) % 2 ≠ 0)
    (hsyn : (secCheck 64 v ^^^ chk % 2 ^ 7) &&& ((secCheck 64 v ^^^ chk % 2 ^ 7) - 1) = 0) : secDecode 64 7 v chk = .corrected v := by
  simp only [secDecode, hpar, hsyn, if_true, if_false]

/-- A wrong check bit turns the parity and leaves a syndrome of at most that bit. -/
theorem secDecode_wrong_check (v : Nat) {j : Nat} (hj : j < 8) :
    secDecode 64 7 v (secField 64 7 v ^^^ 2 ^ j) = .corrected v := by
  have hmod : (secField 64 7 v ^^^ 2 ^ j) % 2 ^ 7 = secCheck 64 v ^^^ 2 ^ j % 2 ^ 7 := by
    rw [Nat.xor_mod_two_pow, secField_mod]
  have hdiv : (secField 64 7 v ^^^ 2 ^ j) / 2 ^ 7 = secField 64 7 v / 2 ^ 7 ^^^ 2 ^ j / 2 ^ 7 := Nat.xor_div_two_pow
  rw [secField_div] at hdiv
  refine secDecode_odd ?_ ?_
  · rcases Nat.lt_succ_iff_lt_or_eq.mp hj with hlow | rfl
    · have hpow : 2 ^ j < 2 ^ 7 := Nat.pow_lt_pow_right (by decide) hlow
      rw [hmod, hdiv, Nat.mod_eq_of_lt hpow, Nat.div_eq_of_lt hpow, Nat.xor_zero, parityOf_flip hlow]
      omega
    · rw [hmod, hdiv, Nat.mod_self, Nat.xor_zero, Nat.div_self (by decide), Nat.xor_mod_two_eq]
      omega
  · rw [hmod, Nat.xor_xor_cancel_left]
    interval_cases j <;> rfl

/-- Settles O8: parity and syndrome are linear, so only the wrong bits decide what a word reads as. -/
theorem secdedCorrectsOneBit : Obligations.SecdedCorrectsOneBit := by
  intro v _
  refine ⟨?_, secField_lt v, fun i hi => secDecode_wrong_bit v hi, fun j hj => secDecode_wrong_check v hj,
    fun i k hi hk hik => secDecode_two_bits v hi hk hik⟩
  simpa [show secCheck 64 0 = 0 by decide] using secDecode_wrong_even (v := v) (e := 0) (by decide)

end Sys2Proof.Machine
end

section
/-!
Table commands (R137 to R141) and the start of a bulk load (R163).
-/

namespace Sys2Proof.Machine

/-! ## Who may request what (R138) -/

/-- The table of R138: host queues, peer queues, and the lookup port with COMMIT. -/
theorem mayRequest_iff (src op : Nat) : mayRequest src op = true ↔
    (src < 0x40 ∧ (1 ≤ op ∧ op ≤ 0xC ∨ op = 0xE)) ∨
    (0x40 ≤ src ∧ src < 0x48 ∧ (1 ≤ op ∧ op ≤ 0xC ∨ op = 0xE) ∧ op ≠ 8 ∧ op ≠ 0xA ∧ op ≠ 0xB) ∨
    (0x48 ≤ src ∧ (op = 1 ∨ op = 0xE ∨ op = 2 ∨ op = 5 ∨ op = 0xC)) := by
  unfold mayRequest
  split_ifs <;> simp <;> omega

/-- A command that its source may not send ends in BAD_OP (R138). -/
theorem planCmd_notAllowed (s : State) {c : UCmd} (ho : c.origin ≠ .scrub) (hm : mayRequest c.src (ceOp c.entry) = false) :
    planCmd s c = settle_ c 2 := by
  simp [planCmd, ho, hm]

/-! ## Acceptance (R137, R140, R141) -/

section Acceptance

variable {s : State} {d cid : Nat} {c : UCmd}

/-- An accepted command breaks an open wide sequence of its source before it is taken (R141). -/
theorem acceptOp_taken {op : Nat} (h : acceptable s d cid (fun c => ceOp c.entry == op && mayRequest c.src op) = some c) :
    acceptOp s d cid op = takeCmd (breakWide s c) c (if op = 1 ∨ op = 3 then contsFor (breakWide s c) c else 0) := by
  simp only [acceptOp, h]

/-- The twelve opcodes share one acceptance (R140). -/
theorem exec_tableCommand (s : State) (d cid : Nat) :
    ∀ q ∈ [(1, Instr.write d cid), (2, .delete d cid), (3, .insertShift d cid), (4, .move d cid), (5, .setState d cid),
      (6, .genFlip d cid), (7, .genClear d cid), (8, .shelf d cid), (9, .compact d cid), (0xA, .bulkLoad d cid),
      (0xB, .spare d cid), (0xC, .barrier d cid)], exec q.2 s = .next (acceptOp s d cid q.1) := by
  simp only [List.forall_mem_cons]
  exact ⟨rfl, rfl, rfl, rfl, rfl, rfl, rfl, rfl, rfl, rfl, rfl, rfl, List.forall_mem_nil _⟩

theorem execUnknownCommand_taken (h : acceptable s d cid (fun c => !mayRequest c.src (ceOp c.entry)) = some c) :
    execUnknownCommand d cid s =
      .next (takeCmd (breakWide s c) c (if ceOp c.entry = 3 then contsFor (breakWide s c) c else 0)) := by
  simp only [execUnknownCommand, h]

/-- A continuation without an open sequence is taken and ends at once (R59, R141). -/
theorem execWriteCont_alone (h : acceptable s d cid (fun c => ceOp c.entry == 0xE && mayRequest c.src 0xE) = some c)
    (ho : openHead s c = none) :
    execWriteCont d cid s = .next (modCmd (takeCmd s c 0) cid fun x =>
      { settle_ x (if reservedOwner (takeCmd s c 0) c then 4 else 0xB) with after := [] }) := by
  simp only [execWriteCont, h, ho]

/-- The state in which a continuation of the source of `c` stands with the open sequence of its head `h`. -/
def joinedHead (s : State) (cid : Nat) (c h : UCmd) : State :=
  modCmd (tookTurn (joinAfter { s with cmds := s.cmds.filter fun x => x.id != cid } cid h.id) c) h.id fun x =>
    { x with conts := x.conts ++ [(c.id, c.origin, c.entry)] }

/-- A continuation joins the open sequence; one out of order ends it (R141). -/
theorem execWriteCont_joins {h : UCmd} (ha : acceptable s d cid (fun c => ceOp c.entry == 0xE && mayRequest c.src 0xE) = some c)
    (ho : openHead s c = some h) :
    execWriteCont d cid s = .next (if ceGra c.entry = ceGra h.entry + h.conts.length + 1 then tryPlan (joinedHead s cid c h) h.id
      else modCmd (joinedHead s cid c h) h.id fun x => { settle_ x 0xB with after := [] }) := by
  simp only [execWriteCont, ha, ho, beq_iff_eq, joinedHead]

end Acceptance

/-! ## The start of a BULK_LOAD (R163) -/

section BulkStart

/-- The status with which a BULK_LOAD that nothing holds is refused: its die, its fields, its source. -/
def bulkRefusal (s : State) (c : UCmd) : Option Nat :=
  if fenced s c.die then some 0x11
  else if badDieField s (ceGra c.entry) then some 3
  else if ceReserved c.entry = false ∨ ceSrc c.entry = 3 ∨ ceAd c.entry % 64 ≠ 0 then some 0x12
  else if ceSrc c.entry = 2 ∧ s.part.unitS = false then some 0xF
  else none

/-- The state in which the load begins: its counters are cleared, and it is planned at once when it has no records. -/
def bulkBegun (s : State) (c : UCmd) : State :=
  modCmd (setF (setF s c.die UPD_BULK.LOADED 0) c.die UPD_BULK.SKIPPED 0) c.id fun x =>
    { x with begun := true, planned := ceGra2 c.entry == 0 }

/-- The records that a load asks for: from host memory in one request, from the store room in none. -/
def bulkAsked (s : State) (e : BitVec 512) : State :=
  if ceGra2 e ≠ 0 ∧ ceSrc e < 2 then
    emitOut s (.hostRead (ceAd e) (if ceSrc e = 1 then some (ceValue e % 2 ^ 20) else none) (64 * ceGra2 e))
  else s

variable {s : State} {c : UCmd}

theorem startBulk_refused {v : Nat} (h : bulkRefusal s c = some v) : startBulk s c = modCmd s c.id fun x => settle_ x v := by
  simp only [bulkRefusal] at h
  simp only [startBulk, Bool.or_eq_true, Bool.and_eq_true, Bool.not_eq_true', beq_iff_eq, bne_iff_ne, or_assoc, h]

theorem startBulk_begins (h : bulkRefusal s c = none) : startBulk s c = bulkAsked (bulkBegun s c) c.entry := by
  simp only [bulkRefusal] at h
  simp only [startBulk, bulkAsked, bulkBegun, Bool.or_eq_true, Bool.and_eq_true, Bool.not_eq_true', beq_iff_eq, bne_iff_ne,
    or_assoc, h, decide_eq_true_eq]

end BulkStart

/-- Settles O33: each command comes to the acceptance of its opcode, and a load that nothing holds to its checks. -/
theorem updateCommandsAccepted : Obligations.UpdateCommandsAccepted := by
  intro s d cid
  refine ⟨fun c u q hq h hu => ?_, fun c u h hu => ⟨?_, fun v x => planCmd_notAllowed v⟩, fun c h => ⟨?_, ?_⟩,
    fun c e st he hst => ?_, mayRequest_iff⟩
  · rw [hu, exec_tableCommand s d cid q hq, acceptOp_taken h]
  · rw [hu]
    exact execUnknownCommand_taken h
  · rintro u ho rfl
    exact execWriteCont_alone h ho
  · rintro k u v ho rfl rfl
    exact execWriteCont_joins h ho
  · subst he hst
    exact ⟨fun v hv => startBulk_refused hv, fun v hv hv' => hv' ▸ startBulk_begins hv⟩

end Sys2Proof.Machine
end

section
/-!
The records of a bulk load (R163, R164) and the scrubber (R165, R166).
-/

namespace Sys2Proof.Machine

/-! ## The records of a BULK_LOAD (R163, R164) -/

section BulkRecord

/-- The load `cid` of the die's engine has begun, its last record is written, and it expects another. -/
structure AwaitsRecord (s : State) (d cid : Nat) (c : UCmd) : Prop where
  found : (s.cmds.find? fun c => c.id == cid && c.die == d && ceOp c.entry == 0xA && c.begun && c.status.isNone &&
    c.origin != .scrub) = some c
  idle : c.plan = []
  more : c.aux < ceGra2 c.entry
  single : c.pairWait = false

/-- The next record as its source gives it, none where it cannot be read. -/
def bulkRecord (s : State) (c : UCmd) (data : BitVec 512) (fail : Bool) : Option (BitVec 512) :=
  if ceSrc c.entry = 2 then bulkFromStore s c else if fail || !canMaster s then none else some data

/-- The CRC of a record is that of its first 60 bytes. -/
def recordIntact (r : BitVec 512) : Prop := crc32 (bytesBE 60 (getBE r 0 480)) = ofBytesLE (bytesBE 4 (getBE r 480 32))

/-- A record names a row of the die, or of its pair in the availability profile. -/
def recordHere (s : State) (d : Nat) (r : BitVec 512) : Prop :=
  if avail s then graDie (brGra r) / 2 * 2 = d / 2 * 2 else graDie (brGra r) = d

/-- The state in which a record of the load is processed and its row noted (R164): the last row of a slot ends its entry. -/
def recordNoted (s : State) (cid : Nat) (c : UCmd) (r : BitVec 512) (n : Nat) : State :=
  bulkNext (modCmd s cid fun x => { x with moved := if c.moved + 1 = n then 0 else x.moved + 1, gra := brGra r }) c

/-- The write of a record's row: a continuation row has no priority and no ad-word (R49). -/
def recordWrite (r : BitVec 512) (w got : Nat) : PortOp :=
  .write (brGra r) none w (if got = 0 then brPrio r else 0) (BitVec.ofNat 64 (if got = 0 then brAd r else 0))
    (BitVec.ofNat 160 (brValue r)) (BitVec.ofNat 160 (brMask r))

/-- The operations that write a record's row: the last row of a slot of `n` rows validates them all. -/
def recordPlan (c : UCmd) (r : BitVec 512) (w n got : Nat) : List PortOp :=
  if c.moved + 1 = n then
    [recordWrite r w got, .validate ((List.range n).map fun i => brGra r - got + i) none (brState r) (brStateB r)]
  else [recordWrite r w got]

variable {s : State} {d cid : Nat} {c : UCmd} {data : BitVec 512} {fail : Bool} {r : BitVec 512}

/-- Nothing holds the engine from taking the next record. -/
theorem AwaitsRecord.runs (h : AwaitsRecord s d cid c) :
    (c.plan != [] || decide (ceGra2 c.entry ≤ c.aux) || c.pairWait) = false := by
  simp [h.idle, h.more, h.single]

/-- A source that cannot be read ends the load with SOURCE_FAULT (R164). -/
theorem execBulkRecordRead_unreadable (h : AwaitsRecord s d cid c) (hr : bulkRecord s c data fail = none) :
    execBulkRecordRead d cid data fail s = .next (modCmd s cid fun x => settle_ x 0x10) := by
  rw [bulkRecord] at hr
  simp only [execBulkRecordRead, h.found, h.runs, hr, Bool.false_eq_true, if_false]

/-- A record with a wrong CRC ends the load (R164). -/
theorem execBulkRecordRead_badCrc (h : AwaitsRecord s d cid c) (hr : bulkRecord s c data fail = some r) (hc : ¬ recordIntact r) :
    execBulkRecordRead d cid data fail s =
      .next (modCmd s cid fun x => { settle_ x 0xE with cause := 0x10, gra := brGra r }) := by
  rw [bulkRecord] at hr
  have hcrc := bne_iff_ne.mpr hc
  simp only [execBulkRecordRead, h.found, h.runs, hr, hcrc, Bool.false_eq_true, if_false, if_true]

/-- The test of a record's die, as the engine makes it. -/
theorem recordElsewhere_iff (s : State) (d : Nat) (r : BitVec 512) :
    (if avail s then graDie (brGra r) / 2 * 2 != d / 2 * 2 else graDie (brGra r) != d) = true ↔ ¬ recordHere s d r := by
  rw [recordHere]
  split_ifs <;> exact bne_iff_ne

/-- A record of another die is passed over and counted (R164). -/
theorem execBulkRecordRead_elsewhere (h : AwaitsRecord s d cid c) (hr : bulkRecord s c data fail = some r) (hc : recordIntact r)
    (hd : ¬ recordHere s d r) : execBulkRecordRead d cid data fail s =
      .next (bulkNext (setF s d UPD_BULK.SKIPPED (min 127 (getF s d UPD_BULK.SKIPPED + 1))) c) := by
  rw [bulkRecord] at hr
  rw [recordIntact] at hc
  simp only [execBulkRecordRead, h.found, h.runs, hr, hc, (recordElsewhere_iff s d r).mpr hd, bne_self_eq_false,
    Bool.false_eq_true, if_false, if_true]

/-- A record that fails a check ends the load with its cause (R164). -/
theorem execBulkRecordRead_refused {st : Nat} (h : AwaitsRecord s d cid c) (hr : bulkRecord s c data fail = some r)
    (hc : recordIntact r) (hd : recordHere s d r) (hb : bulkCheck s c r c.moved (c.gra + 1 - c.moved) = some st) :
    execBulkRecordRead d cid data fail s =
      .next (modCmd s cid fun x => { settle_ x 0xE with cause := st, gra := brGra r }) := by
  rw [bulkRecord] at hr
  rw [recordIntact] at hc
  have hhere := mt (recordElsewhere_iff s d r).mp (not_not_intro hd)
  simp only [execBulkRecordRead, h.found, h.runs, hr, hc, hhere, hb, bne_self_eq_false, Bool.false_eq_true, if_false]

/-- A good record is noted, and its row written unless it is occupied (R144, R164). -/
theorem execBulkRecordRead_taken {w n got : Nat} (h : AwaitsRecord s d cid c) (hr : bulkRecord s c data fail = some r)
    (hc : recordIntact r) (hd : recordHere s d r) (hb : bulkCheck s c r c.moved (c.gra + 1 - c.moved) = none)
    (hw : w = partWidth s d (cePart c.entry)) (hn : n = rowsPerSlot w) (hg : got = graRow (brGra r) % n) :
    execBulkRecordRead d cid data fail s = .next (if rowUsed (getRow s d (brGra r)) then recordNoted s cid c r n
      else modCmd (recordNoted s cid c r n) cid fun x => { x with plan := recordPlan c r w n got, planned := true }) := by
  rw [bulkRecord] at hr
  rw [recordIntact] at hc
  have hhere := mt (recordElsewhere_iff s d r).mp (not_not_intro hd)
  subst hw hn hg
  simp only [execBulkRecordRead, h.found, h.runs, hr, hc, hhere, hb, bne_self_eq_false, Bool.false_eq_true, if_false,
    decide_eq_true_eq, recordNoted, recordPlan, recordWrite]

end BulkRecord

/-! ## The scrubber (R165, R166) -/

section Scrub

/-- The state in which the scrubber of a die starts a row in the slot of `t`. -/
def scrubStarted (t : State) (d : Nat) : State := { t with scrubAt := mset 0 t.scrubAt d (t.cyc + 1) }

/-- The scrubber of a die is on and the die is there. -/
structure ScrubOn (s : State) (d : Nat) : Prop where
  enabled : isF s d UPD_CTL.SCRUB_EN = true
  interval : getF s d UPD_SCRUB.INTERVAL ≠ 0
  here : gone s d = false

variable {s t : State} {d : Nat}

/-- The interval between the starts of two rows (R166). -/
theorem scrubDue_iff (s : State) (d : Nat) : scrubDue s d = true ↔
    mget 0 s.scrubAt d = 0 ∨ mget 0 s.scrubAt d - 1 + max 64 (getF s d UPD_SCRUB.INTERVAL) ≤ s.cyc := by
  simp [scrubDue]

/-- Within the interval the scrubber does nothing. -/
theorem execScrubRow_early (h : scrubDue s d = false) : execScrubRow d s = .next s := by
  simp [execScrubRow, h]

/-- A scrubber that may start a row waits for a grant of the slot. -/
theorem execScrubRow_ungranted (hon : ScrubOn s d) (hd : scrubDue s d = true) (hg : useGrant s d 0 0x11 = none) :
    execScrubRow d s = .next s := by
  simp [execScrubRow, hon.enabled, hon.interval, hon.here, hd, hg]

/-- Suspect rows come first (R165). -/
theorem execScrubRow_suspect {g : Nat} {rest : List Nat} (hon : ScrubOn s d) (hd : scrubDue s d = true)
    (hg : useGrant s d 0 0x11 = some t) (hq : mget [] (scrubStarted t d).susq d = g :: rest) :
    execScrubRow d s = .next (scrubRow { scrubStarted t d with susq := mset [] (scrubStarted t d).susq d rest } d g) := by
  rw [scrubStarted] at hq ⊢
  simp [execScrubRow, hon.enabled, hon.interval, hon.here, hd, hg, hq]

/-- Without suspects the sweep goes on, and counts when it wraps (R165). -/
theorem execScrubRow_sweep {pos : Nat} {v w : State} (hon : ScrubOn s d) (hd : scrubDue s d = true)
    (hg : useGrant s d 0 0x11 = some t) (hq : mget [] (scrubStarted t d).susq d = [])
    (hp : nextSwept (scrubStarted t d) d (getF (scrubStarted t d) d UPD_SCRUB_POS.POS % 1048576) = some pos)
    (hv : v = scrubRow (scrubStarted t d) d (scrubGra (scrubStarted t d) d pos))
    (hw : w = setF v d UPD_SCRUB_POS.POS (scrubGra v d ((pos + 1) % 1048576))) :
    execScrubRow d s = .next (if 1048576 ≤ pos + 1 ∨ pos < getF v d UPD_SCRUB_POS.POS % 1048576 then
      bump w d UPD_SCRUB_POS.SWEEPS else w) := by
  subst hv hw
  rw [scrubStarted] at hq hp ⊢
  simp only [execScrubRow, hon.enabled, hon.interval, hon.here, hd, hg, hq, hp, Bool.not_true, Bool.or_false, Bool.false_eq_true,
    decide_false, if_false, Bool.or_eq_true, decide_eq_true_eq]

end Scrub

/-- Settles O35: a record goes by its source, its CRC, its die and its checks, and a row of the scrubber by its start. -/
theorem bulkRecordsAndScrubbing : Obligations.BulkRecordsAndScrubbing := by
  intro s d
  refine ⟨fun cid data fail c rec_ found idle more single hrec => ?_, fun henabled hinterval hhere => ⟨fun hdue => ?_, ?_⟩⟩
  · have ha : AwaitsRecord s d cid c := ⟨found, idle, more, single⟩
    subst hrec
    refine ⟨execBulkRecordRead_unreadable ha, fun r hr => ⟨execBulkRecordRead_badCrc ha hr, fun hc => ⟨?_, fun hd => ⟨?_, ?_⟩⟩⟩⟩
    · rintro u hd rfl
      have helse : ¬ recordHere s d r := by
        rw [recordHere]
        split_ifs at hd ⊢ <;> exact hd
      exact execBulkRecordRead_elsewhere ha hr hc helse
    · exact fun st hb => execBulkRecordRead_refused ha hr hc hd hb
    · rintro n w u w1 v head got hb hw hn hg rfl rfl rfl rfl
      exact execBulkRecordRead_taken ha hr hc hd hb hw hn hg
  · have hon : ScrubOn s d := ⟨henabled, hinterval, hhere⟩
    have hdue := (scrubDue_iff s d).mpr hdue
    refine ⟨execScrubRow_ungranted hon hdue, ?_⟩
    rintro t u hg rfl
    exact ⟨fun g rest hq => execScrubRow_suspect hon hdue hg hq,
      fun pos v w hq hp hv hw => execScrubRow_sweep hon hdue hg hq hp hv hw⟩
  · intro hlast hearly
    refine execScrubRow_early (Bool.eq_false_iff.mpr fun hdue => ?_)
    have := (scrubDue_iff s d).mp hdue
    omega

end Sys2Proof.Machine
end

section
/-!
The descriptor tables (R65, R244, R245, R513): when a window write takes effect, and what its descriptor's state makes of it.
-/

namespace Sys2Proof.Machine

/-! ## Writes of the package windows (R513) -/

section PackageWindow

/-- The state in which a descriptor write is queued for 64 cycles later and announced to every die. -/
def targetQueued (s : State) (w : TargetWrite) : State :=
  sendTarget { s with twrites := s.twrites ++ [w] } s.nextId (s.cyc + 64)
    ((((w.page * 65536 + w.bank) * 4096 + w.off) * 2 ^ 32 + w.value) * 2 ^ 181)

variable {s : State} {bank o : Nat}

/-- A write within the partition window (R513). -/
theorem schedule_partition (hb : bank < 256) (ho : o < 32) (acc val : Nat) :
    schedule s acc (0x10000 + 32 * bank + o) val = targetQueued s
      { acc := acc, page := pgPart, bank := bank, off := o, value := val % 2 ^ 32, at_ := s.cyc + 64 } := by
  have hwin : 0x10000 ≤ 0x10000 + 32 * bank + o ∧ 0x10000 + 32 * bank + o < 0x12000 := by omega
  have hbank : (0x10000 + 32 * bank + o - 0x10000) / 32 = bank := by omega
  have hoff : (0x10000 + 32 * bank + o - 0x10000) % 32 = o := by omega
  simp only [schedule, hwin, and_self, if_true, hbank, hoff, targetQueued]

/-- A write within the cellar region window of a package with unit C (R513). -/
theorem schedule_region (hb : bank < 256) (ho : o < 64) (hC : s.part.unitC = true) (acc val : Nat) :
    schedule s acc (0x20000 + 64 * bank + o) val = targetQueued s
      { acc := acc, page := pgCr, bank := bank, off := o, value := val % 2 ^ 32, at_ := s.cyc + 64 } := by
  have hpart : ¬ (0x10000 ≤ 0x20000 + 64 * bank + o ∧ 0x20000 + 64 * bank + o < 0x12000) := by omega
  have hwin : 0x20000 ≤ 0x20000 + 64 * bank + o ∧ 0x20000 + 64 * bank + o < 0x24000 ∧ s.part.unitC = true :=
    ⟨by omega, by omega, hC⟩
  have hbank : (0x20000 + 64 * bank + o - 0x20000) / 64 = bank := by omega
  have hoff : (0x20000 + 64 * bank + o - 0x20000) % 64 = o := by omega
  simp only [schedule, hpart, hwin, and_self, if_true, if_false, hbank, hoff, targetQueued]

/-- The oldest due write that a command names is applied. -/
theorem applyDue_found {ok : TargetWrite → Bool} {w : TargetWrite}
    (h : s.twrites.find? (fun w => decide (w.at_ ≤ s.cyc) && ok w) = some w) : applyDue s ok = applyTarget s w := by
  simp only [applyDue, h]

end PackageWindow

/-! ## Descriptors take effect (R65, R244, R245) -/

section Descriptors

variable {s t : State} {n off val : Nat}

/-- While VALID is 1 only its own word can be written (R65). -/
theorem writePart_locked (hv : isF s 0 PART_CTL.VALID n = true) (ho : off ≠ 0) (val : Nat) :
    writePart s n off val = descErr s pgAtc ATC_ERR.DESC_WR (n * 32 + off) := by
  simp [writePart, hv, ho]

/-- VALID is not set on a bad combination (R65). -/
theorem writePart_validated (ht : t = writeCopies s pgPart n off val) (hs : isF s 0 PART_CTL.VALID n = false)
    (hv : isF t 0 PART_CTL.VALID n = true) :
    writePart s n off val = if badPartition t n then descErr s pgAtc ATC_ERR.DESC_WR (n * 32 + off) else t := by
  subst ht
  simp [writePart, hs, hv]

theorem badPartition_iff (s : State) (n : Nat) : badPartition s n = true ↔
    3 < getF s 0 PART_CTL.WIDTH n ∨ isF s 0 PART_CTL.CELLAR n = true ∧ isF s 0 PART_CTL.STORE n = false ∨
      (isF s 0 PART_CTL.STORE n = true ∨ isF s 0 PART_CTL.CELLAR n = true) ∧ 1 < getF s 0 PART_CTL.WIDTH n := by
  simp [badPartition, or_assoc]

/-- While VALID is 1 only its own word can be written (R245). -/
theorem writeCr_locked (hv : isF s 0 CR_CTL.VALID n = true) (ho : off ≠ 0) (val : Nat) :
    writeCr s n off val = descErr s pgCel CEL_ERR.DESC_WR (val % 2 ^ 32) := by
  simp [writeCr, hv, ho]

/-- Clearing VALID takes the region offline (R245). -/
theorem writeCr_cleared (ht : t = writeCopies s pgCr n off val) (hs : isF s 0 CR_CTL.VALID n = true) (ho : off = 0)
    (hv : isF t 0 CR_CTL.VALID n = false) : writeCr s n off val = regionOff t n 1 (some 8) := by
  subst ht ho
  simp [writeCr, hs, hv]

/-- VALID is not set on a region of no buckets (R245). -/
theorem writeCr_noBuckets (ht : t = writeCopies s pgCr n off val) (hs : isF s 0 CR_CTL.VALID n = false)
    (hv : isF t 0 CR_CTL.VALID n = true) (hb : getF t 0 CR_SIZE.NBUCK n = 0) :
    writeCr s n off val = descErr s pgCel CEL_ERR.DESC_WR (val % 2 ^ 32) := by
  subst ht
  simp [writeCr, hs, hv, hb]

end Descriptors

/-! ## Store-room regions (R244) -/

section StoreRegion

variable {s : State} {d off : Nat}

/-- Cause 5: an odd die in the availability profile. -/
theorem writeSr_odd (hp : present s d pgStr = true) (ho : avail s = true ∧ d % 2 = 1) (val : Nat) :
    writeSr s d off val = swrReject s d 5 (it2 (off / 32 * 32) val) := by
  obtain ⟨hav, hodd⟩ := ho
  simp [writeSr, hp, hav, hodd]

/-- The first check passes. -/
theorem notOdd_iff (s : State) (d : Nat) : (avail s && d % 2 == 1) = false ↔ avail s = false ∨ d % 2 = 0 := by
  rw [Bool.and_eq_false_iff, beq_eq_false_iff_ne, Nat.mod_two_ne_one]

/-- Cause 6: another word than the first of a valid descriptor. -/
theorem writeSr_locked (hp : present s d pgStr = true) (hd : avail s = false ∨ d % 2 = 0)
    (hv : isF s d SR_CTL.VALID (off / 32) = true) (ho : off % 32 ≠ 0) (val : Nat) :
    writeSr s d off val = swrReject s d 6 (it2 (off / 32 * 32) val) := by
  simp [writeSr, hp, (notOdd_iff s d).mpr hd, hv, ho]

/-- A write that sets VALID on a region whose size is none of 1 to 2^29 buckets. -/
def validatesBadSize (s : State) (d off val : Nat) : Prop :=
  off % 32 = 0 ∧ val.testBit 31 = true ∧
    (getF s d SR_SIZE.NBUCK (off / 32) = 0 ∨ 2 ^ 29 < getF s d SR_SIZE.NBUCK (off / 32))

/-- The second check passes. -/
theorem notLocked_iff (s : State) (d off : Nat) :
    (isF s d SR_CTL.VALID (off / 32) && off % 32 != 0) = false ↔ isF s d SR_CTL.VALID (off / 32) = false ∨ off % 32 = 0 := by
  rw [Bool.and_eq_false_iff, bne_eq_false_iff_eq]

/-- Cause 8: a size that VALID may not be set on. -/
theorem writeSr_badSize {val : Nat} (hp : present s d pgStr = true) (hd : avail s = false ∨ d % 2 = 0)
    (hl : isF s d SR_CTL.VALID (off / 32) = false ∨ off % 32 = 0) (hb : validatesBadSize s d off val) :
    writeSr s d off val = swrReject s d 8 (it2 (off / 32 * 32) val) := by
  rw [validatesBadSize] at hb
  simp only [writeSr, hp, (notOdd_iff s d).mpr hd, (notLocked_iff s d off).mpr hl, if_pos hb, Bool.not_true, Bool.false_eq_true,
    if_false]

/-- An accepted write reaches the die, and its partner in the availability profile. -/
theorem writeSr_accepted {val : Nat} (hp : present s d pgStr = true) (hd : avail s = false ∨ d % 2 = 0)
    (hl : isF s d SR_CTL.VALID (off / 32) = false ∨ off % 32 = 0) (hb : ¬ validatesBadSize s d off val) :
    writeSr s d off val = (if avail s then [d, partner d] else [d]).foldl
      (fun s e => writeWord s e pgSr (off / 32) (off % 32) val) s := by
  rw [validatesBadSize] at hb
  simp only [writeSr, hp, (notOdd_iff s d).mpr hd, (notLocked_iff s d off).mpr hl, if_neg hb, Bool.not_true, Bool.false_eq_true,
    if_false]

theorem execSrRegionWrite_window (hw : off < 0x2000) (val : Nat) : execSrRegionWrite d off val s = .next (writeSr s d off val) := by
  rw [execSrRegionWrite, if_pos hw]

/-- A write of the store-room region window is checked in order 5, 6, 8, and then written (R244). -/
theorem execSrRegionWrite_checks (hw : off < 0x2000) (hp : present s d pgStr = true) (val : Nat) :
    (avail s = true ∧ d % 2 = 1 → execSrRegionWrite d off val s = .next (swrReject s d 5 (it2 (off / 32 * 32) val))) ∧
    (avail s = false ∨ d % 2 = 0 →
      (isF s d SR_CTL.VALID (off / 32) = true → off % 32 ≠ 0 →
        execSrRegionWrite d off val s = .next (swrReject s d 6 (it2 (off / 32 * 32) val))) ∧
      (isF s d SR_CTL.VALID (off / 32) = false ∨ off % 32 = 0 →
        (validatesBadSize s d off val → execSrRegionWrite d off val s = .next (swrReject s d 8 (it2 (off / 32 * 32) val))) ∧
        (¬ validatesBadSize s d off val → execSrRegionWrite d off val s =
          .next ((if avail s then [d, partner d] else [d]).foldl (fun s e => writeWord s e pgSr (off / 32) (off % 32) val) s)))) := by
  rw [execSrRegionWrite_window hw]
  exact ⟨fun h => congrArg _ (writeSr_odd hp h val), fun hd => ⟨fun hv ho => congrArg _ (writeSr_locked hp hd hv ho val),
    fun hl => ⟨fun hb => congrArg _ (writeSr_badSize hp hd hl hb), fun hb => congrArg _ (writeSr_accepted hp hd hl hb)⟩⟩⟩

end StoreRegion

/-- Settles O59: a window write is queued, then goes by the state of its descriptor; a store region's by its checks. -/
theorem descriptorTablesWritten : Obligations.DescriptorTablesWritten := by
  intro s n off val
  refine ⟨?_, fun w hw => congrArg _ (applyDue_found hw), fun w hw => congrArg _ (applyDue_found hw), rfl, ?_,
    fun hv ho => writePart_locked hv ho val, fun t ht hs hv => writePart_validated ht hs hv, badPartition_iff s n,
    fun hv ho => writeCr_locked hv ho val,
    fun t ht => ⟨fun hs ho hv => writeCr_cleared ht hs ho hv, fun hs hv hb => writeCr_noBuckets ht hs hv hb⟩, ?_⟩
  · rintro acc pg bank o w (⟨rfl, hb, ho, rfl⟩ | ⟨rfl, hb, ho, rfl, hC⟩) rfl
    · exact congrArg _ (schedule_partition hb ho acc val)
    · exact congrArg _ (schedule_region hb ho hC acc val)
  · rintro w u rfl
    rfl
  · rintro d nb k hw hp rfl rfl
    obtain ⟨hodd, heven⟩ := execSrRegionWrite_checks hw hp val
    refine ⟨hodd, fun hd => ⟨(heven hd).1, fun hl => ⟨((heven hd).2 hl).1, fun hb => ((heven hd).2 hl).2 ?_⟩⟩⟩
    rw [validatesBadSize]
    rcases hb with hb | hb | hb
    · exact fun h => hb h.1
    · exact fun h => by simp [hb] at h
    · rintro ⟨-, -, hsize⟩
      omega

end Sys2Proof.Machine
end

section
/-!
The array windows (R501, R508 to R512): what a read answers and what a write changes.
-/

namespace Sys2Proof.Machine

/-! ## Offsets of a window -/

/-- A window of `2 ^ 20` bytes keeps the place within a bucket. -/
theorem window_mod_128 (off : Nat) : off % 2 ^ 20 % 128 = off % 128 := Nat.mod_mod_of_dvd off (by decide)

/-- A read that waits hands its accessor nothing. -/
theorem giveRead_waits (acc : Nat) (s : State) : giveRead acc (s, none) = s := rfl

/-! ## The attic row window (R509 to R511) -/

/-- A row shows 128 bytes (R509). -/
theorem rowView_length (r : Row) (flags : Nat) : (rowView r flags).length = 128 := by
  simp [rowView, bytesBE_len]

/-- The row that an offset of a die's attic window shows: its bank, its shelf and its key. -/
structure WindowRow (s : State) (d o bank sh k : Nat) : Prop where
  here : gone s d = false
  works : domFailed s d (domBank bank) = false
  bank_eq : bank = getF s d ATC_WIN_BASE.BANK
  shelf_eq : sh = 8 * getF s d ATC_WIN_BASE.SGRP + o / 128 / 1024
  key_eq : k = pkey d bank (physShelf s d bank sh) (o / 128 % 1024)

section AtticRead

variable {s : State} {acc d o size bank sh k : Nat}

/-- A row that the accessor's snapshot covers is read from it (R510). -/
theorem readRows_snapped {l : List Nat} (h : WindowRow s d o bank sh k)
    (hl : ((snapOf s acc d false).bind fun x => snapRow x k) = some l) :
    readRows s acc d o size = answer s 0 (cutLE l (o % 128) size) := by
  obtain ⟨here, works, rfl, rfl, rfl⟩ := h
  simp only [readRows, here, works, hl, Bool.or_self, Bool.false_eq_true, if_false]

/-- Without a snapshot of the row one is taken, in slots granted for its whole entry (R510). -/
theorem readRows_granted {u t : State} {x : Snap} (h : WindowRow s d o bank sh k)
    (hn : ((snapOf s acc d false).bind fun x => snapRow x k) = none) (hon : domOn s d (domBank bank) = true)
    (hu : useLock s d 0 0x12 (entryRows (mget Row.zero s.rows k)) = some u)
    (hx : (t, x) = takeRowSnap u acc d bank sh (o / 128 % 1024)) :
    readRows s acc d o size = answer t 0 (cutLE ((snapRow x k).getD []) (o % 128) size) := by
  obtain ⟨here, works, rfl, rfl, rfl⟩ := h
  simp only [readRows, here, works, hn, hon, hu, ← hx, Bool.or_self, Bool.not_true, Bool.false_eq_true, if_false]

/-- Without a grant the read waits. -/
theorem readRows_ungranted (h : WindowRow s d o bank sh k)
    (hn : ((snapOf s acc d false).bind fun x => snapRow x k) = none) (hon : domOn s d (domBank bank) = true)
    (hu : useLock s d 0 0x12 (entryRows (mget Row.zero s.rows k)) = none) : readRows s acc d o size = (s, none) := by
  obtain ⟨here, works, rfl, rfl, rfl⟩ := h
  simp only [readRows, here, works, hn, hon, hu, Bool.or_self, Bool.not_true, Bool.false_eq_true, if_false]

end AtticRead

/-! ## The store-room array window (R512) -/

section StoreRead

variable {s : State} {acc d off size ecc : Nat}

/-- A closed window answers Completer Abort. -/
theorem readStoreWin_closed (h : gone s d = true ∨ isF s d STR_STS.READY = false) :
    readStoreWin s acc d off size ecc = answer s 2 0 := by
  simp only [readStoreWin, Bool.or_eq_true, Bool.not_eq_true', h, if_true]

/-- The store window of a die is open: the die is there and its channel is ready. -/
structure StoreOpen (s : State) (d : Nat) : Prop where
  here : gone s d = false
  ready : isF s d STR_STS.READY = true

/-- The window's test of an open die. -/
theorem StoreOpen.not_closed (h : StoreOpen s d) : (gone s d || !isF s d STR_STS.READY) = false := by
  simp [h.here, h.ready]

/-- A line past the module answers ones (R512). -/
theorem readStoreWin_beyond (h : StoreOpen s d) (hl : modBuckets s d ≤ winLine s d off) :
    readStoreWin s acc d off size ecc = answer s 0 (2 ^ (8 * size) - 1) := by
  simp only [readStoreWin, h.not_closed, hl, Bool.false_eq_true, if_false, if_true]

/-- A line that the accessor's snapshot shows is read from it (R512). -/
theorem readStoreWin_snapped {x : Snap} (h : StoreOpen s d) (hl : winLine s d off < modBuckets s d)
    (hx : snapOf s acc d true = some x) (hb : x.base = winLine s d off) :
    readStoreWin s acc d off size ecc = answer s 0
      (if x.flags = 1 then 2 ^ (8 * size) - 1 else cutLE (bytesBE 128 x.bucket.toNat) (off % 128) size) := by
  have hsnap : ((snapOf s acc d true).filter fun y => y.base == winLine s d off) = some x := by
    rw [snapOf_filter, hx]
    exact if_pos hb
  simp only [readStoreWin, h.not_closed, Nat.not_le.mpr hl, hsnap, Bool.false_eq_true, if_false]

/-- The snapshot that a read of a line leaves its accessor. -/
def storeSnap (acc d line : Nat) (b : Bucket) : Snap :=
  { acc := acc, die := d, store := true, base := line, rows := [], bucket := b.data, flags := b2n b.bad }

/-- The accessor holds no snapshot of the line. -/
theorem snapOf_filter_none {line : Nat} (hx : ∀ x, snapOf s acc d true = some x → x.base ≠ line) :
    ((snapOf s acc d true).filter fun x => x.base == line) = none := by
  rw [Option.filter_eq_none_iff]
  exact fun x hs => by simpa using hx x hs

/-- Any other line is read from the module, with what waits to be written to it, and kept as a snapshot (R512). -/
theorem readStoreWin_fetched {line : Nat} {u : State} {m b : Bucket} (h : StoreOpen s d) (hline : line = winLine s d off)
    (hl : line < modBuckets s d) (hx : ∀ x, snapOf s acc d true = some x → x.base ≠ line) (hu : (u, m) = readMem s d line ecc)
    (hb : b = forwardAll u d line m) :
    readStoreWin s acc d off size ecc =
      answer (putSnap (if b.bad then unreadable u d line STR_ERR.ECC_UNC else u) (storeSnap acc d line b)) 0
        (if b.bad then 2 ^ (8 * size) - 1 else cutLE (bytesBE 128 b.data.toNat) (off % 128) size) := by
  subst hb hline
  simp only [readStoreWin, h.not_closed, Nat.not_le.mpr hl, snapOf_filter_none hx, ← hu, storeSnap, Bool.false_eq_true, if_false]

end StoreRead

section StoreWrite

variable {s u : State} {d off line : Nat}

/-- A write of an open line drains it, rewrites it and drops the cached line. -/
theorem writeStoreWin_open (h : StoreOpen s d) (hline : line = winLine s d off) (hl : line < modBuckets s d)
    (hu : u = drainLine s d line) (slots : Nat) (crc : Bool) (f : Bucket → Bucket) :
    writeStoreWin s d off slots crc f = invAny (memPut (rewritten u d line slots) d line (f (memRead u d line)) crc) d line := by
  subst hu hline
  simp only [writeStoreWin, h.not_closed, Nat.not_le.mpr hl, decide_false, Bool.or_self, Bool.false_eq_true, if_false]

theorem execStoreWindowWrite128_aligned (h : StoreOpen s d) (hline : line = winLine s d (off % 2 ^ 20))
    (hl : line < modBuckets s d) (hu : u = drainLine s d line) (ha : off % 128 = 0) (crc : Bool) (data : BitVec 1024) :
    execStoreWindowWrite128 ⟨d, crc⟩ off data s =
      .next (invAny (memPut (rewritten u d line 15) d line ⟨data, 0⟩ crc) d line) := by
  rw [execStoreWindowWrite128, if_pos ha, writeStoreWin_open h hline hl hu]

theorem execStoreWindowWrite64_aligned (h : StoreOpen s d) (hline : line = winLine s d (off % 2 ^ 20))
    (hl : line < modBuckets s d) (hu : u = drainLine s d line) (ha : off % 64 = 0) (crc : Bool) (data : BitVec 512) :
    execStoreWindowWrite64 ⟨d, crc⟩ off data s = .next (invAny (memPut (rewritten u d line (halfSlots (off % 2 ^ 20 % 128))) d line
      (putHalf64 (off % 2 ^ 20 % 128) data.toNat (memRead u d line)) crc) d line) := by
  rw [execStoreWindowWrite64, if_pos ha, writeStoreWin_open h hline hl hu, window_mod_128]

/-- Another size or alignment is refused with cause 4 (R512). -/
theorem execStoreWindowBadWrite_rejected {len : Nat} (h128 : ¬ (len = 128 ∧ off % 128 = 0)) (h64 : ¬ (len = 64 ∧ off % 64 = 0))
    (word : Nat) : execStoreWindowBadWrite d off len word s = .next (swrReject s d 4 (it1 (word % 2 ^ 32))) := by
  rw [execStoreWindowBadWrite, if_neg (not_or_intro h128 h64)]

end StoreWrite

/-! ## The recipe store and the slices (R501, R508) -/

/-- A recipe word that can be read, or corrected, answers its bytes (R501). -/
theorem readRecipe_readable {s : State} {d off v : Nat} (hg : gone s d = false) (ho : off < 2 ^ 17)
    (hv : (recipeFetch s d (off / 8)).data? = some v) (size : Nat) : readRecipe s d off size =
      answer s 0 (if size = 8 then v % 2 ^ 64 else v / 2 ^ (8 * (off % 8 / 4 * 4)) % 2 ^ 32) := by
  have haddr : off / 8 % 16384 = off / 8 := by omega
  cases hf : recipeFetch s d (off / 8) with
  | bad => simp [hf, Ecc.data?] at hv
  | ok x =>
    rw [hf] at hv
    simp [readRecipe, hg, haddr, hf, hv]
  | corrected x =>
    rw [hf] at hv
    simp [readRecipe, hg, haddr, hf, hv]

section SliceWrite

variable {s : State} {d off size : Nat}

theorem execSliceWindowWrite_in (ho : off < 0x30000) (hz : size = 4 ∨ size = 8) (ha : off % size = 0) (val : Nat) :
    execSliceWindowWrite d off size val s = .next (writeSliceWin s d off size val) := by
  rw [execSliceWindowWrite, if_pos ⟨ho, hz, ha⟩]

/-- A halted thread's slice takes the write at a debug level (R508). -/
theorem writeSliceWin_halted (hl : getF s d DBG_CTL.LEVEL ≠ 0) (ht : (getT s d (off / 512)).st = .halted) (val : Nat) :
    writeSliceWin s d off size val = setT s d (off / 512) { getT s d (off / 512) with
      slice := setBE (getT s d (off / 512)).slice (8 * (off % 512)) (8 * size) (ofBytesLE (bytesBE size val)) } := by
  rw [writeSliceWin, if_pos ⟨Nat.one_le_iff_ne_zero.mpr hl, ht⟩]

/-- Otherwise the write is ignored and recorded (R508). -/
theorem writeSliceWin_refused (h : getF s d DBG_CTL.LEVEL = 0 ∨ (getT s d (off / 512)).st ≠ .halted) (val : Nat) :
    writeSliceWin s d off size val = raiseErr s d pgDbg DBG_ERR.SLICE_WR it0 := by
  rw [writeSliceWin, if_neg]
  rintro ⟨hl, ht⟩
  exact h.elim (Nat.one_le_iff_ne_zero.mp hl) fun hn => hn ht

end SliceWrite

/-! ## The windows answer -/

section Answers

variable {s : State} {acc d off size : Nat}

theorem execAtticWindowRead_answers {t : State} {st v : Nat} (h : readRows s acc d (off % 2 ^ 20) size = answer t st v) :
    execAtticWindowRead acc d off size s = .next (emitOut t (.readData acc st v)) := by
  rw [execAtticWindowRead, h, giveRead_answer]

theorem execAtticWindowRead_waits (h : readRows s acc d (off % 2 ^ 20) size = (s, none)) :
    execAtticWindowRead acc d off size s = .next s := by
  rw [execAtticWindowRead, h, giveRead_waits]

theorem execStoreWindowRead_answers {ecc : Nat} {t : State} {st v : Nat}
    (h : readStoreWin s acc d (off % 2 ^ 20) size ecc = answer t st v) :
    execStoreWindowRead acc d off size ecc s = .next (emitOut t (.readData acc st v)) := by
  rw [execStoreWindowRead, h, giveRead_answer]

theorem execRecipeWindowRead_answers {t : State} {st v : Nat} (h : readRecipe s d (off % 2 ^ 17) size = answer t st v) :
    execRecipeWindowRead acc d off size s = .next (emitOut t (.readData acc st v)) := by
  rw [execRecipeWindowRead, h, giveRead_answer]

end Answers

/-- Settles O60: a read is answered by its window's case, and a write of the store or a slice by its own. -/
theorem arrayWindowsAnswer : Obligations.ArrayWindowsAnswer := by
  intro s d acc off size
  refine ⟨?_, rowView_length, rfl, ?_, ?_, fun len word h128 h64 => execStoreWindowBadWrite_rejected h128 h64 word, ?_, ?_⟩
  · rintro o bank v sh k here rfl hbank works rfl hsh hk
    have hw : WindowRow s d (off % 2 ^ 20) bank sh k := ⟨here, works, hbank, hsh, hk⟩
    exact ⟨fun l hl => execAtticWindowRead_answers (readRows_snapped hw hl), fun hn hon =>
      ⟨fun u t x hu hx => execAtticWindowRead_answers (readRows_granted hw hn hon hu hx),
        fun hu => execAtticWindowRead_waits (readRows_ungranted hw hn hon hu)⟩⟩
  · rintro ecc line ones hline rfl
    refine ⟨fun hc => execStoreWindowRead_answers (readStoreWin_closed hc), fun here ready => ?_⟩
    have hopen : StoreOpen s d := ⟨here, ready⟩
    refine ⟨fun hl => execStoreWindowRead_answers (readStoreWin_beyond hopen (hline ▸ hl)), fun hl => ?_⟩
    rw [← window_mod_128]
    refine ⟨fun x hx hb => execStoreWindowRead_answers (readStoreWin_snapped hopen (hline ▸ hl) hx (hb.trans hline)), ?_⟩
    rintro u m b v hx hu hb rfl
    exact ⟨storeSnap acc d line b, rfl, rfl, rfl, rfl,
      execStoreWindowRead_answers (readStoreWin_fetched hopen hline hl hx hu hb)⟩
  · intro line u crc hline hu here ready hl
    have hopen : StoreOpen s d := ⟨here, ready⟩
    exact ⟨fun data ha => execStoreWindowWrite128_aligned hopen hline hl hu ha crc data,
      fun data ha => execStoreWindowWrite64_aligned hopen hline hl hu ha crc data⟩
  · rintro a v here rfl hv
    have hmod : off % 2 ^ 17 % 8 = off % 8 := Nat.mod_mod_of_dvd off (by decide)
    rw [← hmod]
    exact execRecipeWindowRead_answers (readRecipe_readable here (Nat.mod_lt _ (by decide)) hv size)
  · rintro val th ho hz ha rfl
    have hin := execSliceWindowWrite_in (s := s) (d := d) ho hz ha val
    exact ⟨fun hl ht => hin.trans (congrArg _ (writeSliceWin_halted hl ht val)),
      fun h => hin.trans (congrArg _ (writeSliceWin_refused h val))⟩

end Sys2Proof.Machine
end

section
/-!
The precedence of entries (R78), the candidates of a die (R78, R79) and the merge of the dies' contributions (R84, R110).
-/

namespace Sys2Proof.Machine

/-! ## Precedence (R78) -/

section Precedes

variable {pa ga ha pb gb hb pc gc hc : Nat}

theorem precedes_iff : precedes pa ga ha pb gb hb = true ↔ pa < pb ∨ pa = pb ∧ (ga < gb ∨ ga = gb ∧ ha < hb) := by
  simp [precedes]

theorem not_precedes_iff : precedes pa ga ha pb gb hb = false ↔ pb < pa ∨ pb = pa ∧ (gb < ga ∨ gb = ga ∧ hb ≤ ha) := by
  rw [← Bool.not_eq_true, precedes_iff]
  omega

/-- Of two addresses the one that precedes is not preceded by the other. -/
theorem precedes_asymm (h : precedes pa ga ha pb gb hb = true) : precedes pb gb hb pa ga ha = false := by
  rw [precedes_iff] at h
  rw [not_precedes_iff]
  omega

/-- Not to precede is transitive: precedence is a linear order on priority, entry address and half. -/
theorem not_precedes_trans (hab : precedes pa ga ha pb gb hb = false) (hbc : precedes pb gb hb pc gc hc = false) :
    precedes pa ga ha pc gc hc = false := by
  rw [not_precedes_iff] at *
  omega

end Precedes

/-! ## The candidates of a die (R78, R79) -/

theorem bestHit_eq_none_iff {hs : List Hit} : bestHit hs = none ↔ hs = [] := by
  cases hs with
  | nil => simp [bestHit]
  | cons h hs =>
    rw [bestHit]
    split
    · simp
    · split <;> simp

/-- The best of some hits is one of them, and none of them precedes it. -/
theorem bestHit_spec {hs : List Hit} {b : Hit} (hb : bestHit hs = some b) : b ∈ hs ∧ ∀ h ∈ hs, h.before b = false := by
  induction hs generalizing b with
  | nil => cases hb
  | cons x hs ih =>
    have hrefl : x.before x = false := not_precedes_iff.mpr (by omega)
    rw [bestHit] at hb
    split at hb
    next hnone =>
      cases hb
      rw [bestHit_eq_none_iff.mp hnone]
      simpa using hrefl
    next c hc =>
      obtain ⟨hmem, hleast⟩ := ih hc
      split at hb
      next hcx =>
        cases hb
        exact ⟨List.mem_cons_of_mem _ hmem, List.forall_mem_cons.mpr ⟨precedes_asymm hcx, hleast⟩⟩
      next hcx =>
        cases hb
        rw [Bool.not_eq_true] at hcx
        exact ⟨List.mem_cons_self, List.forall_mem_cons.mpr ⟨hrefl, fun h hh => not_precedes_trans (hleast h hh) hcx⟩⟩

theorem rmFirst_eq_eraseP {α : Type} (p : α → Bool) (l : List α) : rmFirst p l = l.eraseP p := by
  induction l with
  | nil => rfl
  | cons x l ih => rw [rmFirst, List.eraseP_cons, ih]; cases p x <;> rfl

section DiePass

variable {s : State} {d p width gen : Nat} {key : Key} {hs : List Hit}

/-- The second candidate is the best of what is left when the first is set aside. -/
theorem diePass_second {b : Hit} (hhs : hs = dieHits s d p width gen key) (hb : bestHit hs = some b) :
    (diePass s d p width gen key).second = bestHit (hs.erase b) := by
  subst hhs
  simp only [diePass, hb, rmFirst_eq_eraseP, List.erase_eq_eraseP']

theorem diePass_second_eq_none_iff (hhs : hs = dieHits s d p width gen key) :
    (diePass s d p width gen key).second = none ↔ hs.length < 2 := by
  cases hb : bestHit hs with
  | none =>
    have hnil := bestHit_eq_none_iff.mp hb
    subst hhs
    simp [diePass, hnil, bestHit]
  | some b =>
    have hmem := (bestHit_spec hb).1
    rw [diePass_second hhs hb, bestHit_eq_none_iff, ← List.length_eq_zero_iff, List.length_erase_of_mem hmem]
    have := List.length_pos_of_mem hmem
    omega

/-- The second candidate is a hit that none but the first precedes. -/
theorem diePass_second_spec {b : Hit} (hhs : hs = dieHits s d p width gen key)
    (hb : (diePass s d p width gen key).second = some b) :
    b ∈ hs ∧ ∀ h ∈ hs, (diePass s d p width gen key).first ≠ some h → h.before b = false := by
  have hfirst : (diePass s d p width gen key).first = bestHit hs := by subst hhs; rfl
  cases hf : bestHit hs with
  | none =>
    have hlen := (diePass_second_eq_none_iff hhs).mpr (by simp [bestHit_eq_none_iff.mp hf])
    simp [hlen] at hb
  | some a =>
    rw [diePass_second hhs hf] at hb
    obtain ⟨hmem, hleast⟩ := bestHit_spec hb
    refine ⟨List.mem_of_mem_erase hmem, fun h hh hne => hleast h ?_⟩
    rw [hfirst, hf] at hne
    exact (List.mem_erase_of_ne fun e => hne (congrArg some e.symm)).mpr hh

end DiePass

/-! ## The merge of two contributions (R84) -/

theorem bestCand_eq_none_iff {a b : Option Cand} : bestCand a b = none ↔ a = none ∧ b = none := by
  rcases a with _ | a <;> rcases b with _ | b <;> simp [bestCand]
  split <;> simp

/-- The best of two candidates is one of them, and neither precedes it. -/
theorem bestCand_spec {a b : Option Cand} {w : Cand} (h : bestCand a b = some w) :
    (a = some w ∨ b = some w) ∧ (∀ x, a = some x → x.before w = false) ∧ ∀ x, b = some x → x.before w = false := by
  have hrefl : ∀ x : Cand, x.before x = false := fun x => not_precedes_iff.mpr (by omega)
  rcases a with _ | a
  · cases h
    exact ⟨.inr rfl, by simp, by simpa using hrefl w⟩
  rcases b with _ | b
  · cases h
    exact ⟨.inl rfl, by simpa using hrefl w, by simp⟩
  rw [bestCand] at h
  split at h
  next hba =>
    cases h
    exact ⟨.inr rfl, by rintro x ⟨⟩; exact precedes_asymm hba, by simpa using hrefl w⟩
  next hba =>
    cases h
    exact ⟨.inl rfl, by simpa using hrefl w, by simpa using hba⟩

/-- An empty contribution leaves priority and multiplicity to the other. -/
theorem mergeC_of_left_empty {a b : Contrib} (h : a.count = 0) : (mergeC a b).bprio = b.bprio ∧ (mergeC a b).tien = b.tien := by
  simp [mergeC, h]

theorem mergeC_of_right_empty {a b : Contrib} (ha : a.count ≠ 0) (h : b.count = 0) :
    (mergeC a b).bprio = a.bprio ∧ (mergeC a b).tien = a.tien := by
  simp [mergeC, ha, h]

/-- Of two contributions that count entries the better priority stands, and equal priorities add their multiplicities. -/
theorem mergeC_of_both {a b : Contrib} (ha : a.count ≠ 0) (hb : b.count ≠ 0) :
    (mergeC a b).bprio = min a.bprio b.bprio ∧
    (mergeC a b).tien = if a.bprio < b.bprio then a.tien else if b.bprio < a.bprio then b.tien else min 2 (a.tien + b.tien) := by
  simp [mergeC, ha, hb]

/-! ## The merge of a list of contributions (R84, R110) -/

theorem mergeAll_concat (l : List Contrib) (c : Contrib) : mergeAll (l ++ [c]) = mergeC (mergeAll l) c := by
  simp [mergeAll]

theorem mergeAll_cand_eq_none_iff (l : List Contrib) : (mergeAll l).cand = none ↔ ∀ c ∈ l, c.cand = none := by
  induction l using List.reverseRecOn with
  | nil => simp [mergeAll, Contrib.none]
  | append_singleton l c ih =>
    rw [mergeAll_concat, mergeC, bestCand_eq_none_iff, ih]
    simp [or_imp, forall_and]

/-- The winner of a merge is a candidate that no other precedes. -/
theorem mergeAll_cand_spec (l : List Contrib) {w : Cand} (h : (mergeAll l).cand = some w) :
    (∃ c ∈ l, c.cand = some w) ∧ ∀ c ∈ l, ∀ x, c.cand = some x → x.before w = false := by
  induction l using List.reverseRecOn generalizing w with
  | nil => simp [mergeAll, Contrib.none] at h
  | append_singleton l c ih =>
    rw [mergeAll_concat, mergeC] at h
    obtain ⟨hwin, hleft, hright⟩ := bestCand_spec h
    refine ⟨?_, fun e he x hx => ?_⟩
    · rcases hwin with hl | hc
      · obtain ⟨e, he, hew⟩ := (ih hl).1
        exact ⟨e, by simp [he], hew⟩
      · exact ⟨c, by simp, hc⟩
    · rcases List.mem_append.mp he with hel | hec
      · cases hv : (mergeAll l).cand with
        | none => simp [(mergeAll_cand_eq_none_iff l).mp hv e hel] at hx
        | some v => exact not_precedes_trans ((ih hv).2 e hel x hx) (hleft v hv)
      · obtain rfl := List.mem_singleton.mp hec
        exact hright x hx

/-- The count of a merge is the sum, saturated as in a result cell (R110). -/
theorem mergeAll_count (l : List Contrib) : (mergeAll l).count = min 65536 (l.map fun c => c.count).sum := by
  induction l using List.reverseRecOn with
  | nil => rfl
  | append_singleton l c ih =>
    simp only [mergeAll_concat, mergeC, ih, List.map_append, List.sum_append, List.map_cons, List.map_nil, List.sum_cons, List.sum_nil]
    omega

theorem mergeAll_flags (l : List Contrib) :
    (mergeAll l).vfy = l.any (fun c => c.vfy) ∧ (mergeAll l).vfail = l.any (fun c => c.vfail) := by
  induction l using List.reverseRecOn with
  | nil => exact ⟨rfl, rfl⟩
  | append_singleton l c ih => simp [mergeAll_concat, mergeC, ih]

/-- A merge counts nothing exactly when no contribution counts anything. -/
theorem mergeAll_count_eq_zero_iff (l : List Contrib) : (mergeAll l).count = 0 ↔ ∀ c ∈ l, c.count = 0 := by
  have hsum : (l.map fun c => c.count).sum = 0 ↔ ∀ c ∈ l, c.count = 0 := by simp [List.sum_eq_zero_iff]
  rw [mergeAll_count, ← hsum]
  omega

/-- A priority is the best among the contributions that count entries. -/
structure BestPrio (l : List Contrib) (p : Nat) : Prop where
  least : ∀ c ∈ l, 0 < c.count → p ≤ c.bprio
  attained : ∃ c ∈ l, 0 < c.count ∧ c.bprio = p

theorem BestPrio.unique {l : List Contrib} {p q : Nat} (hp : BestPrio l p) (hq : BestPrio l q) : p = q := by
  obtain ⟨c, hc, hcount, rfl⟩ := hp.attained
  obtain ⟨e, he, hecount, rfl⟩ := hq.attained
  exact Nat.le_antisymm (hp.least e he hecount) (hq.least c hc hcount)

/-- The multiplicities, summed, of the contributions with entries at a priority. -/
def tiesAt (l : List Contrib) (p : Nat) : Nat :=
  ((l.filter fun c => decide (0 < c.count ∧ c.bprio = p)).map fun c => c.tien).sum

theorem tiesAt_concat (l : List Contrib) (c : Contrib) (p : Nat) :
    tiesAt (l ++ [c]) p = tiesAt l p + if 0 < c.count ∧ c.bprio = p then c.tien else 0 := by
  by_cases h : 0 < c.count ∧ c.bprio = p <;> simp [tiesAt, List.filter_append, h]

/-- No contribution has entries at a priority better than all of theirs. -/
theorem tiesAt_eq_zero {l : List Contrib} {p : Nat} (h : ∀ c ∈ l, 0 < c.count → p < c.bprio) : tiesAt l p = 0 := by
  have hnil : (l.filter fun c => decide (0 < c.count ∧ c.bprio = p)) = [] := by
    refine List.filter_eq_nil_iff.mpr fun c hc => ?_
    simpa using fun hcount => (h c hc hcount).ne'
  rw [tiesAt, hnil]
  rfl

section Concat

variable {l : List Contrib} {c : Contrib} {p : Nat}

theorem bestPrio_concat_of_empty (hl : ∀ e ∈ l, e.count = 0) (hc : 0 < c.count) :
    BestPrio (l ++ [c]) c.bprio ∧ tiesAt (l ++ [c]) c.bprio = c.tien := by
  refine ⟨⟨?_, c, by simp, hc, rfl⟩, ?_⟩
  · simp only [List.forall_mem_append, List.forall_mem_singleton]
    exact ⟨fun e he hpos => absurd (hl e he) hpos.ne', fun _ => le_rfl⟩
  · rw [tiesAt_concat, tiesAt_eq_zero fun e he hpos => absurd (hl e he) hpos.ne', if_pos ⟨hc, rfl⟩, Nat.zero_add]

theorem BestPrio.concat_empty (h : BestPrio l p) (hc : c.count = 0) :
    BestPrio (l ++ [c]) p ∧ tiesAt (l ++ [c]) p = tiesAt l p := by
  obtain ⟨e, he, hpos, hprio⟩ := h.attained
  refine ⟨⟨?_, e, by simp [he], hpos, hprio⟩, by simp [tiesAt_concat, hc]⟩
  simp only [List.forall_mem_append, List.forall_mem_singleton]
  exact ⟨h.least, fun hpos => absurd hc hpos.ne'⟩

/-- One more contribution with entries: the better priority stands, with the multiplicities of those that have it. -/
theorem BestPrio.concat (h : BestPrio l p) (hc : 0 < c.count) : BestPrio (l ++ [c]) (min p c.bprio) ∧
    tiesAt (l ++ [c]) (min p c.bprio) =
      if p < c.bprio then tiesAt l p else if c.bprio < p then c.tien else tiesAt l p + c.tien := by
  obtain ⟨e, he, hpos, hprio⟩ := h.attained
  refine ⟨⟨?_, ?_⟩, ?_⟩
  · simp only [List.forall_mem_append, List.forall_mem_singleton]
    exact ⟨fun x hx hxpos => (min_le_left _ _).trans (h.least x hx hxpos), fun _ => min_le_right _ _⟩
  · rcases le_total p c.bprio with hle | hle
    · exact ⟨e, by simp [he], hpos, by rw [hprio, min_eq_left hle]⟩
    · exact ⟨c, by simp, hc, (min_eq_right hle).symm⟩
  · rw [tiesAt_concat]
    rcases lt_trichotomy p c.bprio with hlt | heq | hgt
    · rw [min_eq_left hlt.le, if_pos hlt, if_neg fun hh => hlt.ne' hh.2, Nat.add_zero]
    · rw [min_eq_left heq.le, if_neg heq.not_lt, if_neg heq.not_gt, if_pos ⟨hc, heq.symm⟩]
    · rw [min_eq_right hgt.le, if_neg hgt.not_gt, if_pos hgt, if_pos ⟨hc, rfl⟩,
        tiesAt_eq_zero fun x hx hxpos => hgt.trans_le (h.least x hx hxpos), Nat.zero_add]

end Concat

/-- A merge that counts entries has the best priority, and the multiplicity of the contributions that have it. -/
theorem mergeAll_best {l : List Contrib} (htien : ∀ c ∈ l, c.tien ≤ 2) (hcount : (mergeAll l).count ≠ 0) :
    BestPrio l (mergeAll l).bprio ∧ (mergeAll l).tien = min 2 (tiesAt l (mergeAll l).bprio) := by
  induction l using List.reverseRecOn with
  | nil => exact absurd rfl hcount
  | append_singleton l c ih =>
    rw [Ne, mergeAll_count_eq_zero_iff] at hcount
    simp only [List.forall_mem_append, List.forall_mem_singleton, not_and] at htien hcount
    obtain ⟨htl, htc⟩ := htien
    rw [mergeAll_concat]
    by_cases hl : (mergeAll l).count = 0
    · have hempty := (mergeAll_count_eq_zero_iff l).mp hl
      obtain ⟨hbest, hties⟩ := bestPrio_concat_of_empty hempty (Nat.pos_of_ne_zero (hcount hempty))
      obtain ⟨hprio, htie⟩ := mergeC_of_left_empty (b := c) hl
      rw [hprio, htie, hties, min_eq_right htc]
      exact ⟨hbest, rfl⟩
    obtain ⟨hbest, htie⟩ := ih htl hl
    by_cases hc : c.count = 0
    · obtain ⟨hbest', hties⟩ := hbest.concat_empty hc
      obtain ⟨hmp, hmt⟩ := mergeC_of_right_empty hl hc
      rw [hmp, hmt, hties]
      exact ⟨hbest', htie⟩
    · obtain ⟨hbest', hties⟩ := hbest.concat (Nat.pos_of_ne_zero hc)
      obtain ⟨hmp, hmt⟩ := mergeC_of_both hl hc
      rw [hmp, hmt, hties, htie]
      refine ⟨hbest', ?_⟩
      split_ifs <;> omega

/-- Settles O10: precedence is a linear order, so the best of a die's hits and of a merge is well defined whatever the order. -/
theorem bestEntryWinsTheMerge : Obligations.BestEntryWinsTheMerge := by
  refine ⟨fun a b => precedes_iff, fun hs => ⟨bestHit_eq_none_iff, fun b => bestHit_spec⟩, ?_, fun l => ?_⟩
  · rintro s d p width gen key hs rfl
    exact ⟨rfl, rfl, diePass_second_eq_none_iff rfl, fun b => diePass_second_spec rfl⟩
  · obtain ⟨hvfy, hvfail⟩ := mergeAll_flags l
    refine ⟨mergeAll_cand_eq_none_iff l, fun w => mergeAll_cand_spec l, mergeAll_count l, hvfy, hvfail, fun p hleast hex htien => ?_⟩
    have hp : BestPrio l p := ⟨hleast, hex⟩
    have hcount : (mergeAll l).count ≠ 0 := fun h0 => by
      obtain ⟨c, hc, hpos, -⟩ := hex
      exact hpos.ne' ((mergeAll_count_eq_zero_iff l).mp h0 c hc)
    obtain ⟨hbest, htie⟩ := mergeAll_best htien hcount
    obtain rfl := hbest.unique hp
    exact ⟨rfl, htie⟩

end Sys2Proof.Machine
end

section
/-!
The instructions that ask a tier (R188, R189): what stops them alike, and what each issues.
-/

namespace Sys2Proof.Machine

/-! ## What stops SRCH, PROBE and CFETCH alike (R92, R200, R208, R215, R226) -/

/-- An instruction that asks a tier of partition `p` for a record: `res` tells that a record it would write is reserved to a
child; `k` issues with the key. -/
def tierIssue (u : State) (d t : Nat) (th : Thread) (p : Nat) (res : Bool) (k : State → Key → State) : State :=
  if res then faultIns u d t 4 0
  else if mayNotWait th then faultIns u d t 6 0
  else if !partValid u d p then badPart u d t
  else readingKey u d t th p k

section TierIssue

variable {u : State} {d t p width : Nat} {th : Thread} {res : Bool} {k : State → Key → State}

theorem tierIssue_reserved (hr : res = true) : tierIssue u d t th p res k = faultErr u u d t 4 0 := by
  rw [tierIssue, if_pos hr, faultIns]

theorem tierIssue_held (hr : res = false) (hw : mayNotWait th = true) : tierIssue u d t th p res k = faultErr u u d t 6 0 := by
  rw [tierIssue, if_neg (by simp [hr]), if_pos hw, faultIns]

theorem tierIssue_badPart (hr : res = false) (hw : mayNotWait th = false) (hp : partValid u d p = false) :
    tierIssue u d t th p res k = if (getT u d t).spec then waitResolve u d t else recipeError u d t 3 := by
  rw [tierIssue, if_neg (by simp [hr]), if_neg (by simp [hw]), if_pos (by simp [hp]), badPart]

theorem tierIssue_key (hr : res = false) (hw : mayNotWait th = false) (hp : partValid u d p = true) :
    tierIssue u d t th p res k = readingKey u d t th p k := by
  rw [tierIssue, if_neg (by simp [hr]), if_neg (by simp [hw]), if_neg (by simp [hp])]

theorem tierIssue_keyUnc (hr : res = false) (hw : mayNotWait th = false) (hp : partValid u d p = true)
    (hwd : width = partWidth u d p) (hu : readUnc th 0x80 (widthBits width / 8) = true) :
    tierIssue u d t th p res k = faultErr u (sliceUnc u d t 0x80) d t 7 0 := by
  subst hwd
  rw [tierIssue_key hr hw hp, readingKey, reading, if_pos hu]

/-- Nothing stops the instruction: it issues with the key of the slice. -/
theorem tierIssue_issues (hr : res = false) (hw : mayNotWait th = false) (hp : partValid u d p = true)
    (hwd : width = partWidth u d p) (hu : readUnc th 0x80 (widthBits width / 8) = false)
    (hc : readCor th 0x80 (widthBits width / 8) = false) : tierIssue u d t th p res k = k u (keyOf th width) := by
  subst hwd
  rw [tierIssue_key hr hw hp, readingKey, reading_of_good _ _ _ _ _ _ _ hu hc]

end TierIssue

/-! ## What each instruction issues (R188, R189) -/

/-- A record that a SRCH would write is reserved to a child: its own, or the next one in mode BEST2 (R192). -/
def srchReserved (th : Thread) (w : W64) : Bool :=
  reserved th (opnd w 15 3) || (opnd w 18 2 == 2 && reserved th (opnd w 15 3 + 1))

/-- PROBE begins to wait for its record and issues the step (R189). -/
def probeIssued (d t : Nat) (w : W64) (u : State) (key : Key) : State :=
  let v := modT (waitRecord u d t (opnd w 15 3) false .waitMem) d t fun th => { th with bounded := true }
  issueStep v d t (opnd w 15 3) (getF v d PART_REGION.SR_REGION (opnd w 20 8)) key (partWidth v d (opnd w 20 8))
    (partFixed v d (opnd w 20 8)) none none none 0

/-- CFETCH begins to wait for its record and issues the fetch (R189). -/
def cfetchIssued (d t : Nat) (w : W64) (u : State) (key : Key) : State :=
  issueFetch (waitRecord u d t (opnd w 15 3) false .waitMem) d t (opnd w 15 3) (getF u d PART_REGION.CL_REGION (opnd w 20 8))
    (getF u d PART_REGION.SR_REGION (opnd w 20 8)) key (partWidth u d (opnd w 20 8)) none

/-- A best-effort search of the partition has a die that cannot search (R92). -/
def domainFails (v : State) (d p : Nat) : Bool :=
  !partFixed v d p && (diesOf v (dieSetOf v d p)).any fun e => uncovered v (dieSetOf v d p) e

/-- The state in which a search is queued with a store-room step beside it, its step entry counted (R205). -/
def parQueued (v : State) (d : Nat) (ent : Option Nat) (x : Search) : State :=
  let y := { v with nextId := v.nextId + 1, searches := v.searches ++ [{ x with par := some (v.nextId + 1) }] }
  match ent with
  | some e => modEnt y d e fun q => { q with issue := wrapInc 32 q.issue 1 }
  | none => y

/-- The thread of a queued search waits for the record, or runs ahead where the step entry lets it (R202). -/
def waitOrAhead (d t : Nat) (th : Thread) (w : W64) (ent : Option Nat) (ra : Bool) (y : State) : State :=
  match mayAhead y d th ent ra with
  | some e => runAhead y d t e (opnd w 15 3) (opnd w 18 2 == 2) th w
  | none => waitRecord y d t (opnd w 15 3) (opnd w 18 2 == 2) .waitSearch

/-- What SRCH does with its search once the step entry has been consulted (R92, R202, R205). -/
def searchQueued (d t : Nat) (th : Thread) (w : W64) (v : State) (key : Key) (ent : Option Nat) (ra : Bool) (x : Search) : State :=
  let p := opnd w 20 8
  let r := opnd w 15 3
  let two := opnd w 18 2 == 2
  if domainFails v d p then settleSearch (waitRecord { v with nextId := v.nextId + 1 } d t r two .waitSearch) x 7
  else if opnd w 13 1 = 1 then
    let z := parQueued v d ent x
    waitRecord (issueStep z d t r (getF z d PART_REGION.SR_REGION p) key (partWidth z d p) (partFixed z d p) (some v.nextId)
      none none 4) d t r two .waitSearch
  else waitOrAhead d t th w ent ra { v with nextId := v.nextId + 1, searches := v.searches ++ [x] }

/-- A SRCH asks to run ahead, the die allows it and a step entry stands for its address (R202). -/
def asksAhead (v : State) (d : Nat) (w : W64) (ent : Option Nat) : Bool :=
  opnd w 14 1 == 1 && isF v d SEQ_CTL.RA_EN && ent.isSome

/-- SRCH consults the step entry of its address and issues its search (R188, R206). -/
def srchIssued (d t : Nat) (th : Thread) (w : W64) (u : State) (key : Key) : State :=
  let ent := entAt u d th.pc
  let v := consult u d ent
  let ra := asksAhead v d w ent
  searchQueued d t th w v key ent ra
    (newSearch v d t (opnd w 15 3) (opnd w 18 2) (opnd w 20 8) (opnd w 10 2) (opnd w 12 1 == 1) key ent none ra)

section Issue

variable {s : State} {d t : Nat} {w : W64} {u : State} {th : Thread}

theorem exec_srch_of_starts (h : Starts s d t w) (hu : u = insStart s d t w) (hth : th = insThread s.cyc (getT s d t) w)
    (ho : insOp w = 4) : exec (.srch d t) s =
      .next (tierIssue u d t th (opnd w 20 8) (srchReserved th w) (srchIssued d t th w)) := by
  subst hu hth
  exact congrArg Host.Outcome.next (exec_ins s d t 4 w h ho _)

theorem exec_probe_of_starts (h : Starts s d t w) (hu : u = insStart s d t w) (hth : th = insThread s.cyc (getT s d t) w)
    (ho : insOp w = 5) : exec (.probe d t) s =
      .next (tierIssue u d t th (opnd w 20 8) (reserved th (opnd w 15 3)) (probeIssued d t w)) := by
  subst hu hth
  exact congrArg Host.Outcome.next (exec_ins s d t 5 w h ho _)

/-- A CFETCH of a speculating thread does not start: it waits for the resolution (R204). -/
theorem Starts.cfetch_not_spec (h : Starts s d t w) (ho : insOp w = 6) : (getT s d t).spec = false := by
  have hready := h.ready
  simp only [needsResolve, ho] at hready
  simpa using hready

theorem insStart_spec (s : State) (d t : Nat) (w : W64) : (getT (insStart s d t w) d t).spec = (getT s d t).spec := by
  rw [insStart_getT, insThread]

/-- A thread that does not speculate faults at once. -/
theorem faultErr_not_spec (hs : (getT u d t).spec = false) (cause : Nat) : faultErr u u d t cause 0 = faultThread u d t cause 0 := by
  rw [faultErr, if_neg (by simp [hs])]

theorem exec_cfetch_of_starts (h : Starts s d t w) (hu : u = insStart s d t w) (hth : th = insThread s.cyc (getT s d t) w)
    (ho : insOp w = 6) : exec (.cfetch d t) s =
      .next (tierIssue u d t th (opnd w 20 8) (reserved th (opnd w 15 3)) (cfetchIssued d t w)) := by
  have hs : (getT u d t).spec = false := by rw [hu, insStart_spec, h.cfetch_not_spec ho]
  have hp : badPart u d t = recipeError u d t 3 := by rw [badPart, if_neg (by simp [hs])]
  simp only [tierIssue, faultIns, faultErr_not_spec hs, hp]
  subst hu hth
  exact congrArg Host.Outcome.next (exec_ins s d t 6 w h ho _)

/-- The three instructions share what stops them. -/
theorem exec_tier_of_starts {i : Instr} (h : Starts s d t w) (hu : u = insStart s d t w) (hth : th = insThread s.cyc (getT s d t) w)
    (hi : insOp w = 4 ∧ i = .srch d t ∨ insOp w = 5 ∧ i = .probe d t ∨ insOp w = 6 ∧ i = .cfetch d t) :
    ∃ k, exec i s = .next (tierIssue u d t th (opnd w 20 8)
      (reserved th (opnd w 15 3) || (insOp w == 4 && opnd w 18 2 == 2 && reserved th (opnd w 15 3 + 1))) k) := by
  rcases hi with ⟨ho, rfl⟩ | ⟨ho, rfl⟩ | ⟨ho, rfl⟩
  · exact ⟨_, by simpa [ho, srchReserved] using exec_srch_of_starts h hu hth ho⟩
  · exact ⟨_, by simpa [ho] using exec_probe_of_starts h hu hth ho⟩
  · exact ⟨_, by simpa [ho] using exec_cfetch_of_starts h hu hth ho⟩

end Issue

/-! ## The search that a SRCH issues (R92, R202, R205) -/

section Search

variable {d t : Nat} {th : Thread} {w : W64} {v : State} {key : Key} {ent : Option Nat} {ra : Bool} {x : Search}

theorem searchQueued_fails (h : domainFails v d (opnd w 20 8) = true) : searchQueued d t th w v key ent ra x =
    settleSearch (waitRecord { v with nextId := v.nextId + 1 } d t (opnd w 15 3) (opnd w 18 2 == 2) .waitSearch) x 7 := by
  rw [searchQueued]
  exact if_pos h

theorem getF_parQueued (v : State) (d : Nat) (ent : Option Nat) (x : Search) (e : Nat) (f : Fld) (b : Nat) :
    getF (parQueued v d ent x) e f b = getF v e f b := by
  cases ent <;> rfl

/-- With PAR a store-room step runs beside the search, and the thread waits (R205). -/
theorem searchQueued_par (h : domainFails v d (opnd w 20 8) = false) (hp : opnd w 13 1 = 1) : searchQueued d t th w v key ent ra x =
    waitRecord (issueStep (parQueued v d ent x) d t (opnd w 15 3) (getF v d PART_REGION.SR_REGION (opnd w 20 8)) key
      (partWidth v d (opnd w 20 8)) (partFixed v d (opnd w 20 8)) (some v.nextId) none none 4) d t (opnd w 15 3)
      (opnd w 18 2 == 2) .waitSearch := by
  simp only [searchQueued, h, hp, Bool.false_eq_true, if_true, if_false, getF_parQueued, partWidth, partFixed, isF]

theorem searchQueued_alone (h : domainFails v d (opnd w 20 8) = false) (hp : opnd w 13 1 = 0) : searchQueued d t th w v key ent ra x =
    waitOrAhead d t th w ent ra { v with nextId := v.nextId + 1, searches := v.searches ++ [x] } := by
  simp only [searchQueued, h, hp, Bool.false_eq_true, if_false, zero_ne_one]

theorem waitOrAhead_waits (h : mayAhead v d th ent ra = none) :
    waitOrAhead d t th w ent ra v = waitRecord v d t (opnd w 15 3) (opnd w 18 2 == 2) .waitSearch := by
  rw [waitOrAhead, h]

theorem waitOrAhead_ahead {e : Nat} (h : mayAhead v d th ent ra = some e) :
    waitOrAhead d t th w ent ra v = runAhead v d t e (opnd w 15 3) (opnd w 18 2 == 2) th w := by
  rw [waitOrAhead, h]

/-- Queueing a search changes no step entry, so it decides nothing about running ahead. -/
theorem mayAhead_queued (v : State) (d : Nat) (th : Thread) (ent : Option Nat) (ra : Bool) (n : Nat) (l : List Search) :
    mayAhead { v with nextId := n, searches := l } d th ent ra = mayAhead v d th ent ra := rfl

end Search

/-- Settles O21: the three instructions share what stops them, and then each issues by its own rule. -/
theorem searchAndStepInstructionsIssue : Obligations.SearchAndStepInstructionsIssue := by
  rintro s d t w u th i p r width key h hu hth rfl rfl hwd rfl hi
  have hspec : (getT u d t).spec = th.spec := by rw [hu, hth, insStart_getT]
  obtain ⟨k, hk⟩ := exec_tier_of_starts h hu hth hi
  refine ⟨fun hr => by rw [hk, tierIssue_reserved (by simp [hr])], fun hr => ⟨fun hw => by rw [hk, tierIssue_held hr hw],
    fun hw => ⟨fun hp => by rw [hk, tierIssue_badPart hr hw hp, hspec], fun hp hunc => by rw [hk, tierIssue_keyUnc hr hw hp hwd hunc],
      fun hp hunc hcor => ?_⟩⟩⟩
  have hown : reserved th (opnd w 15 3) = false := (Bool.or_eq_false_iff.mp hr).1
  refine ⟨fun ho => ?_, fun ho => ?_, ?_⟩
  · obtain rfl : i = .probe d t := by simpa [ho] using hi
    rw [exec_probe_of_starts h hu hth ho, tierIssue_issues hown hw hp hwd hunc hcor, hwd]
    rfl
  · obtain rfl : i = .cfetch d t := by simpa [ho] using hi
    rw [exec_cfetch_of_starts h hu hth ho, tierIssue_issues hown hw hp hwd hunc hcor, hwd]
    rfl
  · rintro v ent two ra x ho hent hv rfl hra hx
    obtain rfl : i = .srch d t := by simpa [ho] using hi
    have hres : srchReserved th w = false := by simpa [srchReserved, ho] using hr
    have hq : exec (.srch d t) s = .next (searchQueued d t th w v (keyOf th width) ent ra x) := by
      rw [exec_srch_of_starts h hu hth ho, tierIssue_issues hres hw hp hwd hunc hcor, hx, hra, hv, hent]
      rfl
    rw [hq]
    refine ⟨fun hf => by rw [searchQueued_fails hf], fun hf => ⟨?_, ?_⟩⟩
    · intro y z hpar hy hz
      have hpq : z = parQueued v d ent x := by
        subst hz hy
        cases ent <;> rfl
      rw [searchQueued_par hf hpar, hpq]
    · intro y hpar hy
      rw [searchQueued_alone hf hpar]
      subst hy
      exact ⟨fun hn => congrArg _ (waitOrAhead_waits ((mayAhead_queued ..).trans hn)),
        fun e he => congrArg _ (waitOrAhead_ahead ((mayAhead_queued ..).trans he))⟩

end Sys2Proof.Machine
end

section
/-!
A die's contribution to a search (R80 to R82, R107), and why the statement about it fails: it reads mode, width and key of
the search that the command finds, where the model reads those of each search of that identifier.
-/

namespace Sys2Proof.Machine

/-! ## A die's contribution (R80 to R82, R107) -/

section Contribution

variable {s : State} {sid d flit f : Nat} {x : Search} {y : DieSample}

theorem flitSeen_searches (s : State) (d cls flit : Nat) : (flitSeen s d cls flit).searches = s.searches := by
  unfold flitSeen bumpSat
  split_ifs <;> simp

/-- An error that is counted and recorded when a flag says so leaves the searches alone. -/
theorem recorded_searches (b : Bool) (s : State) (d : Nat) (g : Fld) (pg bit : Nat) (i : ErrItem) :
    (if b then raiseErr (bump s d g) d pg bit i else s).searches = s.searches := by
  split
  · rw [raiseErr_searches, bump, setF_searches]
  · rfl

/-- Verification marks, queues, counts and records; the searches stand. -/
theorem dieVerified_searches (s : State) (d : Nat) (x : Search) (y : DieSample) : (dieVerified s d x y).searches = s.searches := by
  rw [dieVerified]
  split
  · rfl
  · rw [recorded_searches, recorded_searches, afterVerify_searches, afterVerify_searches]

/-- The searches of an identifier with the contribution of a die, each by its own mode, width and key; lost when the cell that
carries it was poisoned (R107). -/
def contributed (s : State) (sid d f : Nat) (y : DieSample) : State :=
  modSearch s sid fun z => { z with contribs := z.contribs ++ [(d, contribOf z.mode z.width z.key y)], lost := z.lost || decide (4 ≤ f) }

theorem execDieContribution_places (hx : (s.searches.find? fun x => x.sid == sid) = some x)
    (hy : (x.samples.find? fun y => y.die == d) = some y) (hc : contribAt x d = none) (hf : f = if d = x.home then 0 else flit) :
    execDieContribution sid ⟨d, flit⟩ s = .next (dieVerified (flitSeen (contributed s sid d f y) x.home 2 f) d x y) := by
  subst hf
  simp only [execDieContribution, hx, hy, hc, Option.isSome_none, Bool.false_eq_true, if_false, contributed]

theorem execDieContribution_searches {t : State} (hx : (s.searches.find? fun x => x.sid == sid) = some x)
    (hy : (x.samples.find? fun y => y.die == d) = some y) (hc : contribAt x d = none) (hf : f = if d = x.home then 0 else flit)
    (ht : execDieContribution sid ⟨d, flit⟩ s = .next t) : t.searches = (contributed s sid d f y).searches := by
  rw [execDieContribution_places hx hy hc hf] at ht
  cases ht
  rw [dieVerified_searches, flitSeen_searches]

end Contribution

/-! ## Two searches of one identifier -/

/-- A search in mode COUNT gives no candidate and no VFAIL (R82). -/
theorem contribOf_count (width : Nat) (key : Key) (y : DieSample) :
    (contribOf 1 width key y).cand = none ∧ (contribOf 1 width key y).vfail = false := ⟨rfl, rfl⟩

/-- A search in mode BEST with one hit gives it as its candidate, or VFAIL where it fails its verification (R80). -/
theorem contribOf_best_one {width : Nat} {key : Key} {y : DieSample} {h : Hit} (h1 : y.first = some h) (h2 : y.second = none) :
    (contribOf 0 width key y).cand ≠ none ∨ (contribOf 0 width key y).vfail = true := by
  cases hp : (verify width key h).pass <;> simp [contribOf, h1, h2, hp]

/-- What die 0 finds: one hit, in an empty row. -/
def oneHit : DieSample := { die := 0, first := some ⟨0, 0, 0, [Row.zero]⟩, second := none, count := 1 }

/-- A launched search of identifier 0 in a mode, for which die 0 has one hit. -/
def twin (mode : Nat) : Search :=
  { newSearch State.reset 0 1 0 mode 0 0 false 0 none none false with launched := some 0, samples := [oneHit] }

/-- Two searches share the identifier 0, the first in mode BEST and the second in mode COUNT. -/
def twins : State := { State.reset with searches := [twin 0, twin 1] }

/-- Refutes O28: of two searches with one identifier the second, in mode COUNT, gets a contribution by its own mode, where the
statement gives it one by the mode of the first, BEST. Nothing in the statement excludes such a state. -/
theorem not_searchesLaunchVerifyAndMerge : ¬ Obligations.SearchesLaunchVerifyAndMerge := by
  intro h
  obtain ⟨-, -, hplaces, -⟩ := h twins 0
  obtain ⟨t, ht, hstated, -⟩ := hplaces 0 0 (twin 0) oneHit 0 rfl rfl rfl rfl
  have hmodel : t.searches = (contributed twins 0 0 0 oneHit).searches :=
    execDieContribution_searches (x := twin 0) (flit := 0) rfl rfl rfl rfl ht
  have hsecond : [(0, contribOf 1 (twin 1).width (twin 1).key oneHit)] = [(0, contribOf 0 (twin 0).width (twin 0).key oneHit)] :=
    congrArg (fun l : List Search => (l.getD 1 (twin 1)).contribs) (hmodel.symm.trans hstated)
  have hsame : contribOf 1 (twin 1).width (twin 1).key oneHit = contribOf 0 (twin 0).width (twin 0).key oneHit := by
    injection hsecond with hpair
    injection hpair
  obtain ⟨hcand, hvfail⟩ := contribOf_count (twin 1).width (twin 1).key oneHit
  rw [hsame] at hcand hvfail
  rcases contribOf_best_one (width := (twin 0).width) (key := (twin 0).key) (y := oneHit) rfl rfl with hc | hv
  · exact hc hcand
  · exact Bool.false_ne_true (hvfail.symm.trans hv)

end Sys2Proof.Machine
end

section
/-!
The operations of update commands on the attic port (R73, R129, R146, R156) and the completion of commands (R136, R159).
-/

namespace Sys2Proof.Machine

/-! ## A port operation (R73, R129, R146) -/

section PortOperation

variable {s : State} {d cid o : Nat} {c : UCmd} {op : PortOp} {ds : List Nat}

/-- The owner code of a command's slots on the attic port: the scrubber's for a repair, else the update engine's (R335). -/
def portOwner (c : UCmd) : Nat := if c.origin == .scrub then 0x11 else 0x10

/-- The next operation of the command `cid` is due on the engine of a die. -/
structure PortDue (s : State) (d cid : Nat) (c : UCmd) (op : PortOp) : Prop where
  found : (s.cmds.find? fun c => c.id == cid && c.planned && c.status.isNone && !c.pairWait) = some c
  next : nextOp s d c = some op

/-- A row that the operation writes is guarded on one of its dies (R146). -/
def opGuarded (s : State) (op : PortOp) (ds : List Nat) : Bool := (opWrites op).any fun g => ds.any fun e => guarded s e g

theorem execUpdatePortOperation_guarded (h : PortDue s d cid c op) (hds : ds = opDies s c op) (hg : opGuarded s op ds = true) :
    execUpdatePortOperation d cid s = .next s := by
  subst hds
  rw [opGuarded] at hg
  simp only [execUpdatePortOperation, h.found, h.next, hg, if_true]

/-- An operation on one die waits for a slot granted in this cycle. -/
theorem execUpdatePortOperation_ungranted (h : PortDue s d cid c op) (hds : ds = opDies s c op) (hg : opGuarded s op ds = false)
    (ho : o = portOwner c) (h1 : ds.length < 2) (hu : useGrant s d 0 o = none) : execUpdatePortOperation d cid s = .next s := by
  subst hds ho
  rw [opGuarded] at hg
  rw [portOwner] at hu
  simp only [execUpdatePortOperation, h.found, h.next, hg, h1, hu, Bool.false_eq_true, if_true, if_false]

theorem execUpdatePortOperation_granted {u : State} (h : PortDue s d cid c op) (hds : ds = opDies s c op)
    (hg : opGuarded s op ds = false) (ho : o = portOwner c) (h1 : ds.length < 2) (hu : useGrant s d 0 o = some u) :
    execUpdatePortOperation d cid s = .next (runOp u c op ds) := by
  subst hds ho
  rw [opGuarded] at hg
  rw [portOwner] at hu
  simp only [execUpdatePortOperation, h.found, h.next, hg, h1, hu, Bool.false_eq_true, if_true, if_false]

theorem execUpdatePortOperation_pairStarts (h : PortDue s d cid c op) (hds : ds = opDies s c op) (hg : opGuarded s op ds = false)
    (ho : o = portOwner c) (h2 : 2 ≤ ds.length) (hp : c.pairAt = none) :
    execUpdatePortOperation d cid s = .next (startPair s c d o) := by
  subst hds ho
  rw [opGuarded] at hg
  simp only [execUpdatePortOperation, h.found, h.next, hg, h2.not_gt, hp, Bool.false_eq_true, if_false, portOwner]

/-- An operation of a pair that the odd die has received runs in its target cycle, in the slots booked for it. -/
theorem execUpdatePortOperation_pairRuns (h : PortDue s d cid c op) (hds : ds = opDies s c op) (hg : opGuarded s op ds = false)
    (ho : o = portOwner c) (h2 : 2 ≤ ds.length) (hp : c.pairAt = some (s.cyc, true)) :
    execUpdatePortOperation d cid s = .next (runOp (settleSlots { s with books := s.books.filter fun b =>
      !(b.cyc == s.cyc && ds.contains b.die && b.group == o && b.home == d) } ds) c op ds) := by
  subst hds ho
  rw [opGuarded] at hg
  simp only [execUpdatePortOperation, h.found, h.next, hg, h2.not_gt, hp, Bool.false_eq_true, and_self, if_true, if_false, portOwner]

/-- One whose target cycle has passed takes another (log 90). -/
theorem execUpdatePortOperation_pairLate {t : Nat} {got : Bool} (h : PortDue s d cid c op) (hds : ds = opDies s c op)
    (hg : opGuarded s op ds = false) (h2 : 2 ≤ ds.length) (hp : c.pairAt = some (t, got)) (ht : t < s.cyc) :
    execUpdatePortOperation d cid s = .next (modCmd s cid fun x => { x with pairAt := none }) := by
  subst hds
  rw [opGuarded] at hg
  simp only [execUpdatePortOperation, h.found, h.next, hg, h2.not_gt, hp, ht.ne', ht, Bool.false_eq_true, false_and, if_true, if_false]

theorem startPair_waits (h : pairTarget s d o = none) : startPair s c d o = s := by
  simp only [startPair, h]

/-- A pair operation books its target cycle on both dies and is sent to the odd die (R129). -/
theorem startPair_books {t : Nat} (h : pairTarget s d o = some t) : startPair s c d o =
    queueCell (modCmd (dropMirror { s with books := s.books ++ [d, partner d].map fun e => (⟨e, t, o, d, 512, 0⟩ : Book) } c.id)
      c.id fun x => { x with pairAt := some (t, false) }) d 3 (c.id + 1) (c.id % 2 ^ 64 * 2 ^ 48 + t % 2 ^ 48) := by
  simp only [startPair, h]

end PortOperation

/-! ## Running an operation (R129, R149) -/

section Run

variable {s : State} {c : UCmd} {op : PortOp} {ds : List Nat}

theorem runOp_unreadable (hr : opReadable s ds op = false) :
    runOp s c op ds = modCmd s c.id fun x => { settle_ x 0x10 with pairAt := none } := by
  simp only [runOp, hr, Bool.not_false, if_true]

/-- An operation applied on every die, and on a rejoining die for the rows already copied (R133). -/
def opApplied (s : State) (e : Nat) (op : PortOp) (ds : List Nat) : State :=
  carryOver (ds.foldl (fun s e => applyOp s e op) s) e op

/-- The completion of a pair operation returns to the even die (R129). -/
def opMirrored (s : State) (c : UCmd) (e : Nat) (ds : List Nat) : State :=
  if ds.length < 2 then s else queueCell s (partner e) 3 (c.id + 1) (c.id % 2 ^ 64)

theorem runOp_applied {e : Nat} {v : State} (he : e = ds.headD c.die) (hr : opReadable s ds op = true)
    (hv : v = opMirrored (opApplied s e op ds) c e ds) (hn : ∀ a b, op ≠ .swap a b) : runOp s c op ds = modCmd v c.id fun x =>
      { x with plan := rmFirst (fun o => o == op) x.plan, lastOp := v.cyc, pairAt := none, pairWait := decide (1 < ds.length) } := by
  subst he hv
  cases op with
  | swap a b => exact absurd rfl (hn a b)
  | _ =>
    simp only [runOp, hr, Bool.not_true, Bool.false_and, Bool.false_eq_true, if_false]
    rfl

end Run

/-! ## Mirror cells (R129) -/

section Mirror

variable {s t : State} {cid flit : Nat} {x : RCell}

/-- A command whose mirror cell has been received: the pair operation stands ready on both dies, or has run on both. -/
def mirrored (c : UCmd) : UCmd :=
  match c.pairAt with
  | some (t, _) => { c with pairAt := some (t, true) }
  | none => { c with pairWait := false }

theorem execMirrorCellReceive_lost (hx : (s.ringAir.find? fun x => x.cls == 3 && x.id == cid + 1) = some x)
    (ht : takeCell s (partner x.src) x.src 3 (cid + 1) flit = (t, false)) : execMirrorCellReceive ⟨cid, flit⟩ s = .next t := by
  simp only [execMirrorCellReceive, hx, ht, Bool.not_false, if_true]

theorem execMirrorCellReceive_received (hx : (s.ringAir.find? fun x => x.cls == 3 && x.id == cid + 1) = some x)
    (ht : takeCell s (partner x.src) x.src 3 (cid + 1) flit = (t, true)) :
    execMirrorCellReceive ⟨cid, flit⟩ s = .next (modCmd t cid mirrored) := by
  simp only [execMirrorCellReceive, hx, ht, Bool.not_true, Bool.false_eq_true, if_false]
  rfl

theorem mirrored_waiting {c : UCmd} {n : Nat} {b : Bool} (h : c.pairAt = some (n, b)) :
    mirrored c = { c with pairAt := some (n, true) } := by
  simp only [mirrored, h]

theorem mirrored_run {c : UCmd} (h : c.pairAt = none) : mirrored c = { c with pairWait := false } := by
  simp only [mirrored, h]

end Mirror

/-! ## Generation flips (R156) -/

/-- A flip whose target cycle has come applies on every die, and is counted. -/
theorem execGenFlipApply_applies {s u : State} {part : Nat} {f : Nat × Nat × Nat}
    (hf : (s.flips.find? fun f => f.1 == part && decide (f.2.2 ≤ s.cyc)) = some f)
    (hu : u = { s with flips := rmFirst (fun x => x == f) s.flips }) :
    execGenFlipApply part s = .next (bump (setAll u (dies u) PART_CTL.ACT_GEN f.2.1 part) 0 PART_FLIPS.FLIPS 1 part) := by
  subst hu
  simp only [execGenFlipApply, hf]

/-! ## Completion (R141, R142, R159) -/

section Complete

variable {s y : State} {cid : Nat} {c : UCmd}

/-- Time changes no command that is no flip and that its thread has not left open (R195). -/
theorem lateCmd_unchanged (ht : c.target = none) (h : c.cut = false ∨ c.status ≠ none ∨ c.expect ≤ c.conts.length) :
    lateCmd s c = c := by
  have hopen : (c.status.isNone && c.cut && decide (c.conts.length < c.expect)) = false := by
    rcases h with hcut | hst | hlen
    · simp [hcut]
    · simp [hst]
    · simp [hlen]
  simp only [lateCmd, hopen, ht, Bool.false_eq_true, if_false]

/-- The command `cid`, as time has left it in `c`, is over and completes next of its source: nothing before it holds it back. -/
structure Completes (s : State) (cid : Nat) (c : UCmd) : Prop where
  found : ∃ x, (s.cmds.find? fun c => c.id == cid && c.acc.isSome && !c.returning) = some x ∧ c = lateCmd s x
  free : c.after = []
  ended : cmdOver s c = true
  first : cplFirst s c = true
  command : c.origin ≠ .scrub

/-- The command with the status that it completes with: 0 where nothing went wrong. -/
def completed (c : UCmd) : UCmd := { c with status := some (c.status.getD 0) }

/-- The state in which a command has completed: its gap is in force, it is counted and gone from the engine. -/
def completedState (s : State) (cid : Nat) (c : UCmd) : State :=
  let u := countCpl (applyGap s (completed c)) (completed c)
  { u with cmds := u.cmds.filter fun x => x.id != cid }

theorem Completes.runs (h : Completes s cid c) : (!cmdOver s c || c.after != [] || !cplFirst s c) = false := by
  simp [h.free, h.ended, h.first]

theorem execCommandComplete_here (h : Completes s cid c) (hd : c.from_ = c.die) :
    execCommandComplete cid s = .next (releaseAfter (deliverAll (completedState s cid c) (completed c)) cid) := by
  obtain ⟨x, hx, rfl⟩ := h.found
  have horigin : ((lateCmd s x).origin == Origin.scrub) = false := beq_eq_false_iff_ne.mpr h.command
  simp only [execCommandComplete, hx, h.runs, horigin, if_pos hd, Bool.false_eq_true, if_false]
  rfl

/-- The completion of a command from another die returns to it over the ring (R136, log 91). -/
theorem execCommandComplete_away {w0 w1 w2 w3 : Nat} (h : Completes s cid c) (hd : c.from_ ≠ c.die)
    (hw : cplWords (c.status.getD 0) (ceOp c.entry) (ceTag c.entry) c.gra c.moved c.cause c.aux = (w0, w1, w2, w3))
    (hy : y = queueMgmt (completedState s cid c) c.die c.from_ 5 cid 1
      ((((((w0 * 2 ^ 32 + w1) * 2 ^ 32 + w2) * 2 ^ 32 + w3) * 256 + c.src % 256)) * 2 ^ 159)) :
    execCommandComplete cid s =
      .next (releaseAfter { y with cmds := y.cmds ++ [{ completed c with returning := true }] } cid) := by
  obtain ⟨x, hx, rfl⟩ := h.found
  have horigin : ((lateCmd s x).origin == Origin.scrub) = false := beq_eq_false_iff_ne.mpr h.command
  subst hy
  simp only [execCommandComplete, hx, h.runs, horigin, hd, Option.getD_some, hw, Bool.false_eq_true, if_false]
  rfl

end Complete

/-! ## Commands and completions over the ring (R136) -/

section Routed

variable {s t u : State} {cid flit : Nat} {c : UCmd}

theorem execMgmtUpdateCommand_lost (hc : (s.cmds.find? fun c => c.id == cid && !c.arrived) = some c)
    (ht : takeCell s c.die c.from_ 5 (mgmtId 4 cid) flit = (t, false)) : execMgmtUpdateCommand ⟨cid, flit⟩ s = .next t := by
  simp only [execMgmtUpdateCommand, hc, ht, Bool.not_false, if_true]

theorem execMgmtUpdateCommand_arrives (hc : (s.cmds.find? fun c => c.id == cid && !c.arrived) = some c)
    (ht : takeCell s c.die c.from_ 5 (mgmtId 4 cid) flit = (t, true)) (hg : gone t c.die = false) :
    execMgmtUpdateCommand ⟨cid, flit⟩ s = .next (modCmd t cid fun x => { x with arrived := true }) := by
  simp only [execMgmtUpdateCommand, hc, ht, hg, Bool.not_true, Bool.false_eq_true, if_false]

/-- A command for a die that was lost meanwhile ends with 0x11. -/
theorem execMgmtUpdateCommand_dieLost (hc : (s.cmds.find? fun c => c.id == cid && !c.arrived) = some c)
    (ht : takeCell s c.die c.from_ 5 (mgmtId 4 cid) flit = (t, true)) (hg : gone t c.die = true)
    (hu : u = countCpl t { c with die := c.from_, status := some 0x11 }) :
    execMgmtUpdateCommand ⟨cid, flit⟩ s = .next (releaseAfter (modCmd u cid fun x =>
      { settle_ x 0x11 with arrived := true, acc := some u.accepted, returning := true, after := [] }) cid) := by
  subst hu
  simp only [execMgmtUpdateCommand, hc, ht, hg, Bool.not_true, Bool.false_eq_true, if_true, if_false]

theorem execMgmtCommandCompletion_lost (hc : (s.cmds.find? fun c => c.id == cid && c.returning) = some c)
    (ht : takeCell s c.from_ c.die 5 (mgmtId 5 cid) flit = (t, false)) : execMgmtCommandCompletion ⟨cid, flit⟩ s = .next t := by
  simp only [execMgmtCommandCompletion, hc, ht, Bool.not_false, Bool.true_or, if_true]

/-- A routed completion is delivered when none of its source and die that was accepted earlier is still on its way (R159). -/
theorem execMgmtCommandCompletion_delivers (hc : (s.cmds.find? fun c => c.id == cid && c.returning) = some c)
    (ht : takeCell s c.from_ c.die 5 (mgmtId 5 cid) flit = (t, true))
    (hfirst : t.cmds.any (fun x => x.returning && srcKey x == srcKey c && x.die == c.die && decide (x.acc.getD 0 < c.acc.getD 0)) = false) :
    execMgmtCommandCompletion ⟨cid, flit⟩ s = .next (deliverAll { t with cmds := t.cmds.filter fun x => x.id != cid } c) := by
  simp only [execMgmtCommandCompletion, hc, ht, hfirst, Bool.not_true, Bool.or_self, Bool.false_eq_true, if_false]

end Routed

/-- Settles O34: an operation goes by its guards, its dies and its slots; a command that is over by where it came from. -/
theorem updateOperationsRunAndComplete : Obligations.UpdateOperationsRunAndComplete := by
  intro s d cid
  refine ⟨?_, fun c op ds => runOp_unreadable, ?_, fun flit x t hx => ⟨execMirrorCellReceive_lost hx, fun ht => ?_⟩, fun gra => rfl,
    fun part f u => execGenFlipApply_applies, fun c => lateCmd_unchanged, ?_,
    fun c flit t hc => ⟨execMgmtUpdateCommand_lost hc, fun ht => ?_⟩,
    fun c flit t hc => ⟨execMgmtCommandCompletion_lost hc, execMgmtCommandCompletion_delivers hc⟩⟩
  · intro c op ds o hc hop hds ho
    have hdue : PortDue s d cid c op := ⟨hc, hop⟩
    refine ⟨execUpdatePortOperation_guarded hdue hds, fun hg => ⟨fun h1 => ?_, fun h2 hp => ?_,
      execUpdatePortOperation_pairRuns hdue hds hg ho, fun t got => execUpdatePortOperation_pairLate hdue hds hg⟩⟩
    · exact ⟨execUpdatePortOperation_ungranted hdue hds hg ho h1, fun u => execUpdatePortOperation_granted hdue hds hg ho h1⟩
    · have hstart : exec (.updatePortOperation d cid) s = _ := execUpdatePortOperation_pairStarts hdue hds hg ho h2 hp
      refine ⟨fun hn => by rw [hstart, startPair_waits hn], ?_⟩
      rintro t u ht rfl
      rw [hstart, startPair_books ht]
  · rintro c op ds e u v he hr rfl hv
    exact runOp_applied he hr hv
  · refine ⟨_, execMirrorCellReceive_received hx ht, fun c hc hid => ?_⟩
    have hmem := modCmd_mem t cid mirrored c hc hid
    exact ⟨fun n b hp => mirrored_waiting hp ▸ hmem, fun hp => mirrored_run hp ▸ hmem⟩
  · rintro x c st u v hx hc hafter hended hfirst horigin rfl rfl rfl
    have hcompletes : Completes s cid c := ⟨⟨x, hx, hc⟩, hafter, hended, hfirst, horigin⟩
    exact ⟨execCommandComplete_here hcompletes, fun w0 w1 w2 w3 y hd hw hy => execCommandComplete_away hcompletes hd hw hy⟩
  · exact ⟨execMgmtUpdateCommand_arrives hc ht, fun u => execMgmtUpdateCommand_dieLost hc ht⟩

end Sys2Proof.Machine
end

section
/-!
Thermal levels and the fence (R97), the package governor (R431, R432) and the counts of a partition (R102).
-/

namespace Sys2Proof.Machine

/-! ## Thermal levels (R97) -/

section Thermal

variable {s : State} {d temp : Nat}

/-- The die is there and the reading is one that TEMP can show. -/
structure ThermalDie (s : State) (d temp : Nat) : Prop where
  die : d < s.part.dieCnt
  here : gone s d = false
  running : s.inReset = false
  range : temp ≤ 255

theorem ThermalDie.runs (h : ThermalDie s d temp) :
    (decide (s.part.dieCnt ≤ d) || gone s d || s.inReset || decide (255 < temp)) = false := by
  simp [h.die, h.here, h.running, h.range]

/-- The state in which a die takes a reading and a level, and blanks for it (R99). -/
def atLevel (s : State) (d temp l : Nat) : State :=
  applyBlank (setF (setF s d ATC_THROTTLE.TEMP temp) d ATC_THROTTLE.T_LEVEL l) d

theorem getF_atLevel_temp (hr : temp ≤ 255) (l : Nat) : getF (atLevel s d temp l) d ATC_THROTTLE.TEMP = temp := by
  rw [atLevel, applyBlank_getF, getF_setF_ne _ _ _ _ _ _ _ _ (by decide), getF_setF_self]
  exact Nat.mod_eq_of_lt (Nat.lt_succ_of_le hr)

theorem getF_atLevel_level {l : Nat} (hl : l < 8) : getF (atLevel s d temp l) d ATC_THROTTLE.T_LEVEL = l := by
  rw [atLevel, applyBlank_getF, getF_setF_self]
  exact Nat.mod_eq_of_lt hl

theorem getF_atLevel_fenced (l : Nat) : getF (atLevel s d temp l) d ATC_THROTTLE.FENCED = getF s d ATC_THROTTLE.FENCED := by
  rw [atLevel, applyBlank_getF, getF_setF_ne _ _ _ _ _ _ _ _ (by decide), getF_setF_ne _ _ _ _ _ _ _ _ (by decide)]

/-- A reading that reaches a higher level takes that level. -/
theorem execThermalLevelRise_rises (h : ThermalDie s d temp) (hl : getF s d ATC_THROTTLE.T_LEVEL < levelAt temp) :
    execThermalLevelRise d temp s = .next (if levelAt temp < 4 then atLevel s d temp (levelAt temp)
      else fireAlarm (raiseErr (setF (atLevel s d temp (levelAt temp)) d ATC_THROTTLE.FENCED 1) d pgAtc ATC_ERR.FENCE it0) 3) := by
  simp only [execThermalLevelRise, h.runs, hl.not_gt, hl.ne', atLevel, decide_false, Bool.false_and, Bool.or_false,
    Bool.false_eq_true, if_false]

/-- A reading below the level in force is shown and changes nothing else (log 107). -/
theorem execThermalLevelRise_below (h : ThermalDie s d temp) (hl : levelAt temp < getF s d ATC_THROTTLE.T_LEVEL) :
    execThermalLevelRise d temp s = .next (setF s d ATC_THROTTLE.TEMP temp) := by
  simp only [execThermalLevelRise, h.runs, hl, decide_true, Bool.true_or, Bool.false_eq_true, if_false, if_true]

/-- A reading 3 degrees below the threshold of the level in force takes the next lower one. -/
theorem execThermalLevelFall_falls (h : ThermalDie s d temp) (h0 : getF s d ATC_THROTTLE.T_LEVEL ≠ 0)
    (ht : temp + 3 ≤ threshold (getF s d ATC_THROTTLE.T_LEVEL)) :
    execThermalLevelFall d temp s = .next (atLevel s d temp (getF s d ATC_THROTTLE.T_LEVEL - 1)) := by
  simp only [execThermalLevelFall, h.runs, h0, ht.not_gt, atLevel, decide_false, Bool.or_false, Bool.false_eq_true, if_false]

theorem threshold_le {l : Nat} (h : l < 8) : threshold l ≤ 125 := by
  unfold threshold
  omega

/-- The state after a fence clear: TEMP shows the reading, and the fence goes below 100 degrees. -/
theorem execThermalFenceClear_eq (hd : d < s.part.dieCnt) (hr : temp ≤ 255) :
    execThermalFenceClear d temp s = .next (if temp < 100 then setF (setF s d ATC_THROTTLE.TEMP temp) d ATC_THROTTLE.FENCED 0
      else setF s d ATC_THROTTLE.TEMP temp) := by
  have htemp : getF (setF s d ATC_THROTTLE.TEMP temp) d ATC_THROTTLE.TEMP = temp :=
    (getF_setF_self ..).trans (Nat.mod_eq_of_lt (Nat.lt_succ_of_le hr))
  have hbit : (2 ^ 31 : Nat).testBit 31 = true := Nat.testBit_two_pow_self
  simp only [execThermalFenceClear, writeThrottle, hd, htemp, hbit, Bool.true_and, decide_eq_true_eq, if_true]

end Thermal

/-! ## The governor (R431, R432) -/

section Governor

variable {s : State}

/-- The dies whose estimates the governor takes. -/
def liveDies (s : State) : List Nat := (dies s).filter fun d => !gone s d

/-- The state in which the estimates of the live dies have arrived. -/
def estimated (s : State) (ests : List Nat) : State :=
  (liveDies s).foldl (fun s d => setF s d PWR_EST.EST (ests.getD d 0)) s

/-- The governor's registers after a step: its count, the package power, and SHORT cleared unless the limit still stands. -/
def governed (u : State) (p n : Nat) : State :=
  let v := setF (setF u 0 PWR_GOV_STS.COUNT n) 0 PWR_GOV_STS.PKG p
  if n < 48 || p ≤ getF v 0 PWR_CAP.CAP then setF v 0 PWR_GOV_STS.SHORT 0 else v

theorem getF_governed (u : State) (p n : Nat) (g : Fld) (h : fne g 0 PWR_GOV_STS.SHORT 0 = true) :
    getF (governed u p n) 0 g = getF (setF (setF u 0 PWR_GOV_STS.COUNT n) 0 PWR_GOV_STS.PKG p) 0 g := by
  unfold governed
  extract_lets v
  split
  · exact getF_setF_ne _ _ _ _ _ _ _ _ h
  · rfl

theorem getF_governed_count (u : State) (p : Nat) {n : Nat} (hn : n < 64) : getF (governed u p n) 0 PWR_GOV_STS.COUNT = n := by
  rw [getF_governed _ _ _ _ (by decide), getF_setF_ne _ _ _ _ _ _ _ _ (by decide), getF_setF_self]
  exact Nat.mod_eq_of_lt hn

theorem getF_governed_pkg (u : State) {p : Nat} (n : Nat) (hp : p < 65536) : getF (governed u p n) 0 PWR_GOV_STS.PKG = p := by
  rw [getF_governed _ _ _ _ (by decide), getF_setF_self]
  exact Nat.mod_eq_of_lt hp

/-- A step of the governor takes the power, sets its registers, and then the same blanking on every live die. -/
theorem execGovernorStep_runs {ests : List Nat} {cp p n : Nat} {u : State} (hr : s.inReset = false) (hon : domOn s 0 5 = true)
    (hg : gone s 0 = false) (hu : u = estimated s ests)
    (hp : p = min 65535 (govPower u (sumL ((liveDies s).map fun d => getF u d PWR_EST.EST) + cp))) (hn : n = govCount u p) :
    execGovernorStep ests cp s = .next ((liveDies s).foldl (govF n) (governed u p n)) := by
  obtain ⟨hdoms, hlost, hheld⟩ := estFold_doms ests (liveDies s) s
  have hon' : domOn u 0 5 = true := by rw [domOn, getDom, hu, estimated, hdoms]; exact hon
  have hg' : gone u 0 = false := by rw [gone, hu, estimated, hlost, hheld]; exact hg
  have hacts : ¬ (!domOn u 0 5 || gone u 0) = true := by simp [hon', hg']
  subst hn hp hu
  simp only [execGovernorStep, hr, Bool.false_eq_true, if_false]
  exact congrArg Host.Outcome.next (if_neg hacts)

/-- The limit is recorded when the count stands at its end and the power above its cap (R432). -/
theorem execGovernorShortTimeout_records (hon : domOn s 0 5 = true) (hr : s.inReset = false)
    (hc : getF s 0 PWR_GOV_STS.COUNT = 48) (hcap : getF s 0 PWR_CAP.CAP < getF s 0 PWR_GOV_STS.PKG) :
    execGovernorShortTimeout s = .next (raiseErr (setF s 0 PWR_GOV_STS.SHORT 1) 0 pgPwr PWR_ERR.GOV_SHORT
      (it1 (readWord (setF s 0 PWR_GOV_STS.SHORT 1) 0 pgPwr 0 0xbc))) := by
  simp only [execGovernorShortTimeout, hon, hr, hc, hcap, beq_self_eq_true, decide_true, Bool.not_false, Bool.and_true, if_true]

end Governor

/-! ## Partition counts (R102) -/

section Counts

variable {s : State} {d val : Nat}

/-- The index of a partition's search count of a die; its shelf count stands after it. -/
def selKey (d val : Nat) : Nat := (d * 256 + val % 256) * 2

/-- The shelves of a die that a partition owns. -/
def ownedCount (s : State) (d p : Nat) : Nat :=
  ((List.range 1024).filter fun sh => isF s d SHELF_DESC.OWNED sh && getF s d SHELF_DESC.OWNER sh == p).length

/-- The counts of a partition as its selection copies them into the registers of a die. -/
def countsShown (s : State) (d val : Nat) : State :=
  let srch := mget 0 s.selCnt (selKey d val)
  let shelf := mget 0 s.selCnt (selKey d val + 1)
  setF (setF (setF (setF (setF (setF s d ATC_SEL_IDX.PART (val % 256)) d ATC_SEL_SRCH_LO.SRCH srch) d ATC_SEL_SRCH_HI.SRCH (srch / 2 ^ 32))
    d ATC_SEL_SHELF_LO.SHELF shelf) d ATC_SEL_SHELF_HI.SHELF (shelf / 2 ^ 32)) d ATC_SEL_OWNED.OWNED (ownedCount s d (val % 256))

theorem getF_countsShown (s : State) (d val : Nat) :
    getF (countsShown s d val) d ATC_SEL_IDX.PART = val % 256 ∧
    getF (countsShown s d val) d ATC_SEL_SRCH_LO.SRCH = mget 0 s.selCnt (selKey d val) % 2 ^ 32 ∧
    getF (countsShown s d val) d ATC_SEL_SHELF_LO.SHELF = mget 0 s.selCnt (selKey d val + 1) % 2 ^ 32 := by
  unfold countsShown
  refine ⟨?_, ?_, ?_⟩
  · iterate 5 rw [getF_setF_ne _ _ _ _ _ _ _ _ (by decide)]
    exact (getF_setF_self ..).trans (Nat.mod_mod _ _)
  · iterate 4 rw [getF_setF_ne _ _ _ _ _ _ _ _ (by decide)]
    exact getF_setF_self ..
  · iterate 2 rw [getF_setF_ne _ _ _ _ _ _ _ _ (by decide)]
    exact getF_setF_self ..

theorem countsShown_selCnt (s : State) (d val : Nat) : (countsShown s d val).selCnt = s.selCnt := by
  simp only [countsShown, setF_selCnt]

/-- The counts of a partition cleared. -/
def countsCleared (s : State) (d val : Nat) : State :=
  { s with selCnt := mset 0 (mset 0 s.selCnt (selKey d val) 0) (selKey d val + 1) 0 }

theorem getF_countsCleared (s : State) (d val e : Nat) (f : Fld) : getF (countsCleared s d val) e f = getF s e f := rfl

theorem mget_countsCleared (s : State) (d val : Nat) : mget 0 (countsCleared s d val).selCnt (selKey d val) = 0 ∧
    mget 0 (countsCleared s d val).selCnt (selKey d val + 1) = 0 := by
  constructor
  · rw [countsCleared, mget_mset_ne _ _ _ _ (Nat.lt_succ_self _).ne, mget_mset_self]
  · rw [countsCleared, mget_mset_self]

/-- Selecting a partition copies its counts; with CLR they are cleared after the copy. -/
theorem execPartitionCountSelect_eq (hd : d < s.part.dieCnt) : execPartitionCountSelect d val s =
    .next (if val.testBit 31 then countsCleared (countsShown s d val) d val else countsShown s d val) := by
  rw [execPartitionCountSelect, if_pos hd]
  rfl

end Counts

/-- Settles O48: each reading goes by its level, the governor by its power, and a selection copies before it clears. -/
theorem thermalLevelsAndGovernorAct : Obligations.ThermalLevelsAndGovernorAct := by
  intro s
  refine ⟨?_, ?_, ?_, ?_, ?_, ?_, ?_⟩
  · rintro d temp v hd hg hr ht hl rfl
    have hrise := execThermalLevelRise_rises ⟨hd, hg, hr, ht⟩ hl
    refine ⟨⟨getF_atLevel_temp ht _, getF_atLevel_level (levelAt_lt temp)⟩, fun hlt => ?_, fun heq => ?_⟩
    · exact hrise.trans (congrArg _ (if_pos hlt))
    · exact hrise.trans (congrArg _ (if_neg (by omega)))
  · exact fun d temp hd hg hr ht => execThermalLevelRise_below ⟨hd, hg, hr, ht⟩
  · intro d temp hd hg hr h0 ht h8
    have hrange := threshold_le h8
    refine ⟨_, execThermalLevelFall_falls ⟨hd, hg, hr, by omega⟩ h0 ht, getF_atLevel_level (by omega), getF_atLevel_fenced _⟩
  · intro d temp hd ht
    refine ⟨_, execThermalFenceClear_eq hd ht, ?_, ?_⟩
    · have htemp := (onlyRegs_setF s d ATC_THROTTLE.TEMP temp 0).mono
        (l := [rkey d ATC_THROTTLE.TEMP 0, rkey d ATC_THROTTLE.FENCED 0]) (by simp)
      split
      · exact htemp.set d ATC_THROTTLE.FENCED 0 0 (by simp)
      · exact htemp
    · split
      · exact getF_setF_self ..
      · exact getF_setF_ne _ _ _ _ _ _ _ _ (by decide)
  · rintro ests cp live u p n rfl hr hon hg hu hp hn hn64
    refine ⟨_, execGovernorStep_runs hr hon hg hu hp hn, ?_, ?_, fun d hd => ?_⟩
    · rw [(govFold n hn64 _ _).1 _ _ _ (by decide)]
      exact getF_governed_count _ _ hn64
    · rw [(govFold n hn64 _ _).1 _ _ _ (by decide)]
      exact getF_governed_pkg _ _ (by omega)
    · exact (govFold n hn64 _ _).2 d (.inr hd)
  · intro hon hr hp hc hcap
    refine ⟨_, execGovernorShortTimeout_records hon hr hc hcap, ?_, raiseErr_sticky _ _ _ _ _ hp (by decide)⟩
    rw [getF_raiseErr _ _ _ _ _ _ _ _ (by decide)]
    exact getF_setF_self ..
  · intro d val hd
    have hregs : ∀ f, getF (if val.testBit 31 then countsCleared (countsShown s d val) d val else countsShown s d val) d f =
        getF (countsShown s d val) d f := by
      intro f
      split
      · exact getF_countsCleared ..
      · rfl
    obtain ⟨hpart, hsrch, hshelf⟩ := getF_countsShown s d val
    refine ⟨_, execPartitionCountSelect_eq hd, (hregs _).trans hpart, (hregs _).trans hsrch, (hregs _).trans hshelf, fun hclr => ?_,
      fun hkeep => ?_⟩
    · rw [if_pos hclr]
      exact mget_countsCleared (countsShown s d val) d val
    · rw [if_neg (by simp [hkeep]), countsShown_selCnt]

end Sys2Proof.Machine
end

section
/-!
The arbiters: a slot and its settlement (R334, R336), the change of a table in service (R347), and the counters (R348).
-/

namespace Sys2Proof.Machine

/-! ## A slot cycle (R334, R336) -/

section SlotGrant

variable {s : State} {d inst ready lo n span : Nat}

/-- The cycle is one of the slots of an arbiter that is there. -/
structure SlotCycle (s : State) (d inst : Nat) : Prop where
  die : d < s.part.dieCnt
  port : inst ≤ 3
  lead : inst = 3 → d = 0
  here : gone s d = false
  aligned : s.cyc % slotCyc inst = 0

/-- The slot of this cycle is settled already, lies inside a grant of several slots, or is one of a fenced attic (R97). -/
def slotClosed (s : State) (d inst : Nat) : Prop :=
  mget 0 s.settled (4 * d + inst) = s.cyc + 1 ∨ inSpan s d inst = true ∨ inst = 0 ∧ isF s d ATC_THROTTLE.FENCED = true

/-- The state in which a slot is about to be settled: it is marked, and requesters that withdrew begin again (R337). -/
def slotOpened (s : State) (d inst : Nat) (rs : List Nat) : State :=
  ((List.range (ownerCount inst)).filter fun o => !rs.contains o && ageOf s d inst o != 0).foldl
    (fun s o => clearAge s d inst o) { s with settled := mset 0 s.settled (4 * d + inst) (s.cyc + 1) }

/-- What a settled slot does at once: a ring slot injects a cell, a memory slot serves a request (R111, R346). -/
def slotServed (s : State) (d inst : Nat) : State :=
  if inst = 2 then injectCell s d else if inst = 1 then useMemSlot s d else s

/-- The conditions under which the arbiter leaves the slot alone, on an arbiter that is there. -/
theorem SlotCycle.idle_iff (h : SlotCycle s d inst) :
    (decide (s.part.dieCnt ≤ d) || decide (3 < inst) || (inst == 3 && d != 0) || gone s d || s.cyc % slotCyc inst != 0 ||
      mget 0 s.settled (4 * d + inst) == s.cyc + 1 || inSpan s d inst || (inst == 0 && isF s d ATC_THROTTLE.FENCED)) = true ↔
    slotClosed s d inst := by
  have hlead : (inst == 3 && d != 0) = false := by
    simpa using h.lead
  simp [h.die.not_ge, h.port.not_gt, hlead, h.here, h.aligned, slotClosed, or_assoc]

theorem execArbiterSlotGrant_closed (h : SlotCycle (pruneSlots s) d inst) (hc : slotClosed (pruneSlots s) d inst) :
    execArbiterSlotGrant d inst ready lo ⟨n, span⟩ s = .next (pruneSlots s) :=
  congrArg Host.Outcome.next (if_pos (h.idle_iff.mpr hc))

theorem execArbiterSlotGrant_open (h : SlotCycle (pruneSlots s) d inst) (hc : ¬ slotClosed (pruneSlots s) d inst) :
    execArbiterSlotGrant d inst ready lo ⟨n, span⟩ s = .next (slotServed (noteSpan (settleSlot
      (slotOpened (pruneSlots s) d inst (readyOwners (pruneSlots s) d inst ready)) d inst
      (readyOwners (pruneSlots s) d inst ready) lo n) d inst span) d inst) :=
  congrArg Host.Outcome.next (if_neg (mt h.idle_iff.mp hc))

end SlotGrant

/-! ## The lines of R336 -/

section Settle

variable {s : State} {d inst lo n o : Nat} {rs : List Nat}

/-- A locked slot is its owner's (line 1). -/
theorem settleSlot_lockOwner {l : Lock} (hl : lockAt s d inst s.cyc = some l) (hr : rs.contains l.owner = true) :
    settleSlot s d inst rs lo n = giveSlot s d inst l.owner := by
  simp only [settleSlot, hl, hr, if_true]

/-- A locked slot whose owner is not ready goes to nobody, but on a memory channel (R341). -/
theorem settleSlot_lockIdle {l : Lock} (hl : lockAt s d inst s.cyc = some l) (hr : rs.contains l.owner = false) (hi : inst ≠ 1) :
    settleSlot s d inst rs lo n = s := by
  simp only [settleSlot, hl, hr, hi, Bool.false_eq_true, if_false]

/-- A booked slot of the attic port is its booking's (line 2). -/
theorem settleSlot_booked {b : Book} (hl : lockAt s d 0 s.cyc = none) (hb : bookAt s d s.cyc = some b) :
    settleSlot s d 0 rs lo n = countGrant s d 0 b.group := by
  simp only [settleSlot, hl, hb, if_true]

/-- A blanked position goes to nobody (line 3). -/
theorem settleSlot_blanked (hl : lockAt s d 0 s.cyc = none) (hb : bookAt s d s.cyc = none)
    (hx : (blankedIn s d s.cyc).contains (posAt s 0 s.cyc) = true) : settleSlot s d 0 rs lo n = s := by
  simp only [settleSlot, hl, hb, hx, decide_true, Bool.and_true, if_true]

/-- No booking and no blanking stands before the open lines of R336. -/
def linesOpen (s : State) (d inst : Nat) : Prop :=
  inst ≠ 0 ∨ bookAt s d s.cyc = none ∧ (blankedIn s d s.cyc).contains (posAt s 0 s.cyc) = false

theorem settleSlot_open (hl : lockAt s d inst s.cyc = none) (ho : linesOpen s d inst) :
    settleSlot s d inst rs lo n = settleOpen s d inst rs lo n 32 := by
  by_cases hi : inst = 0
  · subst hi
    obtain ⟨hb, hx⟩ := ho.resolve_left (not_not_intro rfl)
    simp only [settleSlot, hl, hb, hx, Bool.and_false, Bool.false_eq_true, if_true, if_false]
  · simp only [settleSlot, hl, hi, decide_false, Bool.false_and, Bool.false_eq_true, if_false]

/-- The owner that line 4 finds ready takes the slot without a contest. -/
theorem settleOpen_owner {fuel : Nat} (hn : n ≤ 1)
    (hm : (lineFour s d inst).find? (fun v => v != 0 && rs.contains (v - 1)) = some (o + 1)) :
    settleOpen s d inst rs lo n (fuel + 1) = giveSlot s d inst o := by
  simp only [settleOpen, hm, hn.not_gt, Option.map_some, Nat.add_sub_cancel, Option.isSome_some, decide_false, Bool.and_false,
    Bool.false_and, Bool.false_eq_true, if_true, if_false]

/-- Else the winner of the contest takes it, and the others age (lines 5 and 6). -/
theorem settleOpen_contest {fuel : Nat} (hn : n ≤ 1)
    (hm : (lineFour s d inst).find? (fun v => v != 0 && rs.contains (v - 1)) = none) (hw : contestWinner s d inst rs = some o) :
    settleOpen s d inst rs lo n (fuel + 1) = giveSlot
      ((rs.filter fun x => x != o).foldl (fun s x => loseContest s d inst x) (clearAge s d inst o)) d inst o := by
  simp only [settleOpen, hm, hw, hn.not_gt, Option.map_none, Option.isSome_none, decide_false, Bool.and_false, Bool.false_and,
    Bool.false_eq_true, if_false]

theorem lineFour_find_owner (hs : slotOf s d inst (posAt s inst s.cyc) = o + 1) (hr : rs.contains o = true) :
    (lineFour s d inst).find? (fun v => v != 0 && rs.contains (v - 1)) = some (o + 1) := by
  rw [lineFour, hs, List.find?_cons_of_pos]
  simpa using hr

/-- Line 4 finds nobody on an unreserved slot that passed over no other. -/
theorem lineFour_find_unreserved (he : spanEnd s d inst = none) (hs : slotOf s d inst (posAt s inst s.cyc) = 0) :
    (lineFour s d inst).find? (fun v => v != 0 && rs.contains (v - 1)) = none := by
  simp [lineFour, hs, he]

end Settle

/-! ## Changing tables in service (R347) -/

section Commit

variable {s : State} {d i : Nat}

/-- The arbiter that ARB_SEL names may commit: the PCIe master's on the lead die alone, and none while one is pending. -/
theorem commit_runs (h3 : i = 3 → d = 0) (hp : isF s d ARB_STS.PEND i = false) :
    ((decide (i = 3) && d != 0) || isF s d ARB_STS.PEND i) = false := by
  rw [hp, Bool.or_false]
  simpa using h3

theorem execArbiterCommit_rejected {p : Nat} (hi : getF s d ARB_SEL.INST = i) (h3 : i = 3 → d = 0)
    (hp : isF s d ARB_STS.PEND i = false) (hb : commitBreak s d i = some p) : execArbiterCommit d s = .next
      (raiseErr (setF (setF s d ARB_STS.REJ 1 i) d ARB_STS.REJ_POS p i) d pgArb ARB_ERR.COMMIT_REJ (it2 i p)) := by
  simp only [execArbiterCommit, hi, commit_runs h3 hp, hb, Bool.false_eq_true, if_false]

theorem execArbiterCommit_taken (hi : getF s d ARB_SEL.INST = i) (h3 : i = 3 → d = 0)
    (hp : isF s d ARB_STS.PEND i = false) (hb : commitBreak s d i = none) : execArbiterCommit d s = .next
      (setF (setF (setF s d ARB_CTL.COMMIT 1 i) d ARB_STS.PEND 1 i) d ARB_STS.REJ 0 i) := by
  simp only [execArbiterCommit, hi, commit_runs h3 hp, hb, Bool.false_eq_true, if_false]

/-- A captured table becomes active where a round begins, on both dies of a pair. -/
theorem execArbiterTableSwitch_switches {inst : Nat} (hp : isF s d ARB_STS.PEND inst = true) (h0 : posAt s inst s.cyc = 0)
    (hc : s.cyc % slotCyc inst = 0) : execArbiterTableSwitch d inst s = .next (setF (setF
      (if avail (takeTable s d d inst) && inst != 3 then takeTable (takeTable s d d inst) d (partner d) inst else takeTable s d d inst)
      d ARB_STS.PEND 0 inst) d ARB_CTL.COMMIT 0 inst) := by
  simp only [execArbiterTableSwitch, hp, h0, hc, beq_self_eq_true, Bool.and_true, if_true]

end Commit

/-! ## The counters (R348) -/

section Counters

/-- The counters of an owner as their selection copies them into the registers of a die. -/
def countersShown (s : State) (d i o : Nat) : State :=
  let s := setF s d ARB_CNT_SEL.OWNER o i
  let s := setF s d ARB_CNT_GRANT.GRANTS (mget 0 s.arbGrants (okey d i o)) i
  setF (setF (setF s d ARB_CNT_AGE.MAXWAIT (mget 0 s.arbWait (4 * okey d i o + 1)) i) d ARB_CNT_AGE.AGE (ageOf s d i o) i)
    d ARB_CNT_AGE.LEVEL (levelOf s d i o) i

theorem getF_countersShown (s : State) (d i o : Nat) :
    getF (countersShown s d i o) d ARB_CNT_GRANT.GRANTS i = mget 0 s.arbGrants (okey d i o) % 2 ^ 32 := by
  unfold countersShown
  iterate 3 rw [getF_setF_ne _ _ _ _ _ _ _ _ (fne_of_off (by decide) (by decide) (by decide))]
  exact getF_setF_self ..

theorem countersShown_arbGrants (s : State) (d i o : Nat) : (countersShown s d i o).arbGrants = s.arbGrants := by
  simp only [countersShown, setF_arbGrants]

theorem countersShown_arbWait (s : State) (d i o : Nat) : (countersShown s d i o).arbWait = s.arbWait := by
  simp only [countersShown, setF_arbWait]

/-- The grants and the longest wait of an owner cleared. -/
def countersCleared (s : State) (k : Nat) : State :=
  { s with arbGrants := mset 0 s.arbGrants k 0, arbWait := mset 0 s.arbWait (4 * k + 1) 0 }

theorem getF_countersCleared (s : State) (k d : Nat) (f : Fld) (b : Nat) : getF (countersCleared s k) d f b = getF s d f b := rfl

theorem mget_countersCleared (s : State) (k : Nat) : mget 0 (countersCleared s k).arbGrants k = 0 ∧
    mget 0 (countersCleared s k).arbWait (4 * k + 1) = 0 := by
  constructor <;> rw [countersCleared, mget_mset_self]

/-- Selecting a counter copies it; with CLR it is cleared after the copy. -/
theorem execArbCounterSelect_eq {s : State} {d val i : Nat} (hi : getF s d ARB_SEL.INST = i) : execArbCounterSelect d val s =
    .next (if val.testBit 31 then countersCleared (countersShown s d i (val % 32)) (okey d i (val % 32))
      else countersShown s d i (val % 32)) := by
  subst hi
  rfl

end Counters

/-- Settles O53: a slot cycle settles one slot, by the first line of R336 that applies; tables and counters go by their checks. -/
theorem arbiterSettlesEverySlot : Obligations.ArbiterSettlesEverySlot := by
  intro s d inst
  refine ⟨?_, fun rs lo n => ⟨fun l => settleSlot_lockOwner, fun l => settleSlot_lockIdle, fun hl => ⟨?_, ?_, fun ho hn => ?_⟩⟩,
    ?_, ?_, ?_⟩
  · rintro ready lo n span p rs u rfl hd hi h3 hg hc rfl rfl
    have hcycle : SlotCycle (pruneSlots s) d inst := ⟨hd, hi, h3, hg, hc⟩
    refine ⟨execArbiterSlotGrant_closed hcycle, ?_⟩
    rintro hset hspan hfence v rfl
    refine execArbiterSlotGrant_open hcycle ?_
    rintro (h | h | ⟨h0, h⟩)
    · exact hset h
    · exact Bool.false_ne_true (hspan.symm.trans h)
    · exact Bool.false_ne_true ((hfence h0).symm.trans h)
  · rintro b rfl
    exact settleSlot_booked hl
  · rintro rfl
    exact settleSlot_blanked hl
  · rw [settleSlot_open hl ho]
    exact ⟨fun o hs hr => settleOpen_owner hn (lineFour_find_owner hs hr),
      fun o he hs hw => settleOpen_contest hn (lineFour_find_unreserved he hs) hw⟩
  · intro i hi h3 hp
    refine ⟨fun p => execArbiterCommit_rejected hi h3 hp, fun hb => ⟨_, execArbiterCommit_taken hi h3 hp hb, ?_, fun _ => ?_⟩⟩
    · have hcommit := (onlyRegs_setF s d ARB_CTL.COMMIT 1 i).mono
        (l := [rkey d ARB_CTL.COMMIT i, rkey d ARB_STS.PEND i, rkey d ARB_STS.REJ i]) (by simp)
      exact (hcommit.set d ARB_STS.PEND 1 i (by simp)).set d ARB_STS.REJ 0 i (by simp)
    · rw [isF, getF_setF_ne _ _ _ _ _ _ _ _ (fne_of_lo (by decide) (by decide) (by decide)), getF_setF_self]
      rfl
  · intro u v hp h0 hc hv hu
    rw [hu, hv]
    exact execArbiterTableSwitch_switches hp h0 hc
  · rintro val i k hi rfl
    refine ⟨_, execArbCounterSelect_eq hi, ?_, fun hclr => ?_, fun hkeep => ?_⟩
    · split
      · rw [getF_countersCleared, getF_countersShown]
      · exact getF_countersShown ..
    · rw [if_pos hclr]
      exact mget_countersCleared ..
    · rw [if_neg (by simp [hkeep]), countersShown_arbGrants, countersShown_arbWait]
      exact ⟨rfl, rfl⟩

end Sys2Proof.Machine
end

section
/-!
Frames on the cascade ports (R116 to R118, R120) and the contributions that never arrive (R124).
-/

namespace Sys2Proof.Machine

/-! ## The beats a port receives (R116) -/

section Beats

variable {s : State} {b port ty : Nat} {rest : List Nat}

theorem cascPos_raiseErr (s : State) (d pg bit : Nat) (i : ErrItem) : cascPos (raiseErr s d pg bit i) = cascPos s := by
  rw [cascPos, raiseErr_part, cascPos]

/-- Recording an error leaves a port's registers, and so its state, as they are. -/
theorem portOpen_raiseErr (s : State) (pg bit : Nat) (i : ErrItem) (port : Nat) :
    portOpen (raiseErr s 0 pg bit i) port = portOpen s port := by
  have hfree : errFree (pEn port) 0 = true ∧ errFree (pUp port) 0 = true ∧ errFree (pState port) 0 = true := by
    unfold pEn pUp pState
    split <;> decide
  obtain ⟨hen, hup, hst⟩ := hfree
  simp only [portOpen, portOn, isF, cascPos_raiseErr, raiseErr_part, getF_raiseErr _ _ _ _ _ _ _ _ hen,
    getF_raiseErr _ _ _ _ _ _ _ _ hup, getF_raiseErr _ _ _ _ _ _ _ _ hst]

/-- A discarded beat does not close a port. -/
theorem portOpen_badBeat (s : State) (p port : Nat) : portOpen (badBeat s p) port = portOpen s port :=
  portOpen_raiseErr ..

theorem frameLen_pos (b : Nat) : 0 < frameLen b := by
  unfold frameLen
  split_ifs <;> decide

/-- A frame begins with its first beat. -/
theorem headD_take_frameLen (b : Nat) (rest : List Nat) : ((b :: rest).take (frameLen b)).headD 0 = b := by
  obtain ⟨n, hn⟩ := Nat.exists_eq_succ_of_ne_zero (frameLen_pos b).ne'
  rw [hn, List.take_succ_cons, List.headD_cons]

theorem takeFrame_nil (s : State) (port ty : Nat) : takeFrame s port ty [] = (s, none) := rfl

theorem takeFrame_known (h : fld b 252 4 = ty) :
    takeFrame s port ty (b :: rest) = (s, some ((b :: rest).take (frameLen b))) := if_pos h

theorem takeFrame_unknown (h : fld b 252 4 ≠ ty) :
    takeFrame s port ty (b :: rest) = takeFrame (badBeat s port) port ty rest := if_neg h

end Beats

/-! ## A SEARCH frame (R117, R120, R121) -/

section SearchFrame

variable {s u v : State} {b k : Nat} {rest fr : List Nat} {x : Search}

theorem execCascadeSearchFrame_discarded (ho : portOpen s 0 = true) (hb : fld b 252 4 ≠ 1) :
    execCascadeSearchFrame b [] s = .next (badBeat s 0) := by
  simp only [execCascadeSearchFrame, ho, takeFrame_unknown hb, takeFrame_nil, Bool.not_true, Bool.false_eq_true, if_false]

/-- After a discarded beat the next one is looked at as if it were the first. -/
theorem execCascadeSearchFrame_resumes {c : Nat} {cs : List Nat} (ho : portOpen s 0 = true) (hb : fld b 252 4 ≠ 1) :
    execCascadeSearchFrame b (c :: cs) s = execCascadeSearchFrame c cs (badBeat s 0) := by
  simp only [execCascadeSearchFrame, ho, portOpen_badBeat, takeFrame_unknown hb, Bool.not_true, Bool.false_eq_true, if_false]

/-- The state in which a SEARCH frame has been passed on, and its beats give credit back where it is best-effort. -/
def framePassed (s : State) (fr : List Nat) : State :=
  if frFl (fr.headD 0) then passOn s fr else freeBeats (passOn s fr) 0 fr.length

/-- A SEARCH frame is passed on, and then searched here or, when it fails its CRC, counted and recorded. -/
theorem execCascadeSearchFrame_frame (ho : portOpen s 0 = true) (hb : fld b 252 4 = 1)
    (hfr : fr = (b :: rest).take (frameLen b)) :
    execCascadeSearchFrame b rest s = .next (if frameGood fr then searchFromAbove (framePassed s fr) fr
      else raiseErr (bumpSat (framePassed s fr) 0 CSC_CRC_CNT.U_CRC) 0 pgCsc CSC_ERR.CRC it0) := by
  subst hfr
  simp only [execCascadeSearchFrame, ho, takeFrame_known hb, framePassed, Bool.not_true, Bool.false_eq_true, if_false]

theorem passOn_fixed (h : frFl (fr.headD 0) = true) : passOn s fr = if portOpen s 1 then emitOut s (.frame 1 fr) else s := by
  simp only [passOn, h, if_true]

/-- A best-effort frame with enough credit, and none before it, leaves at once and spends a credit per beat. -/
theorem passOn_spends (h : frFl (fr.headD 0) = false) (ho : portOpen s 1 = true) (hr : s.relay = [])
    (hc : fr.length ≤ mget 0 s.link (lkCredit 1)) :
    passOn s fr = emitOut (setLk s (lkCredit 1) (mget 0 s.link (lkCredit 1) - fr.length)) (.frame 1 fr) := by
  simp only [passOn, h, ho, hr, hc, beq_self_eq_true, decide_true, Bool.and_self, Bool.false_eq_true, if_true, if_false]

/-- A good frame's search on this package: what stands for the search, the position it is looked for at, and the state that has
given it its identifier. -/
structure Inbound (u : State) (fr : List Nat) (x : Search) (k : Nat) (v : State) : Prop where
  search : x = beyond u (inboundSearch u fr)
  pos : k = cascPos u
  named : v = { u with nextId := u.nextId + 1 }

theorem searchFromAbove_above (h : Inbound u fr x k v) (hd : depthOf x.cmask < k) : searchFromAbove u fr = v := by
  obtain ⟨rfl, rfl, rfl⟩ := h
  simp only [searchFromAbove, hd, if_true]

/-- A frame that reaches beyond this package without naming it only waits for the contribution from below. -/
theorem searchFromAbove_passing (h : Inbound u fr x k v) (hd : k ≤ depthOf x.cmask) (hm : x.cmask.testBit k = false) :
    searchFromAbove u fr = { v with searches := v.searches ++ [{ x with launched := some v.cyc, dieSet := 0 }] } := by
  obtain ⟨rfl, rfl, rfl⟩ := h
  simp only [searchFromAbove, hd.not_gt, hm, Bool.not_false, if_true, if_false]

theorem searchFromAbove_bestEffort (h : Inbound u fr x k v) (hd : k ≤ depthOf x.cmask) (hm : x.cmask.testBit k = true)
    (hf : x.fl = false) : searchFromAbove u fr = { v with searches := v.searches ++ [x] } := by
  obtain ⟨rfl, rfl, rfl⟩ := h
  simp only [searchFromAbove, hd.not_gt, hm, hf, Bool.not_true, Bool.false_eq_true, if_false]

/-- The slots of a position are reserved to cascade inbound on every die of the set, and no engine reset runs (R121, R447). -/
def inboundSlots (v : State) (ds : List Nat) (pos : Nat) : Bool :=
  !isF v 0 FLT_ERST.GO && ds.all (fun d => slotOf v d 0 pos == 0x14)

/-- A fixed-latency search books the next slot of its position on its dies where they are reserved to it; otherwise it
contributes LOST. -/
theorem searchFromAbove_fixed {ds : List Nat} {pos c : Nat} (h : Inbound u fr x k v) (hd : k ≤ depthOf x.cmask)
    (hm : x.cmask.testBit k = true) (hf : x.fl = true) (hds : ds = diesOf v x.dieSet) (hpos : pos = frSlot (fr.headD 0))
    (hc : c = nextSlot v pos ds) :
    searchFromAbove u fr = if inboundSlots v ds pos then
        { v with books := v.books ++ (ds.map fun d => (⟨d, c, 0x13, 0, 512 + x.sid, 0⟩ : Book)), searches := v.searches ++ [x] }
      else { v with searches := v.searches ++ [{ x with launched := some v.cyc, dieSet := 0, contribs := [(0, belowLost)] }] } := by
  obtain ⟨rfl, rfl, rfl⟩ := h
  subst hc hpos hds
  simp only [searchFromAbove, inboundSlots, hd.not_gt, hm, hf, Bool.not_true, Bool.false_eq_true, if_true, if_false]

end SearchFrame

/-! ## A CONTRIB frame and its time-out (R118, R124) -/

section ContribFrame

variable {s u : State} {b sid port : Nat} {rest fr : List Nat} {x : Search}

/-- A CONTRIB frame settles the search that waits for it, with LOST when it fails its CRC. -/
theorem execCascadeContribFrame_settles (ho : portOpen s 1 = true) (hb : fld b 252 4 = 2)
    (hfr : fr = (b :: rest).take (frameLen b))
    (hu : u = if frameGood fr then s else raiseErr (bumpSat s 0 CSC_CRC_CNT.D_CRC) 0 pgCsc CSC_ERR.CRC it0)
    (hx : (u.searches.find? fun x => contribFor x (fld (fr.headD 0) 240 12) && needsBelow u x) = some x) :
    execCascadeContribFrame b rest s = .next (setBelow (if x.fl then u else freeBeats u 1 fr.length) x.sid
      (if frameGood fr then contribOfFrame fr else belowLost)) := by
  subst hfr hu
  simp only [execCascadeContribFrame, ho, takeFrame_known hb, hx, Bool.not_true, Bool.false_eq_true, if_false]

theorem execContribTimeout_loses
    (hx : (s.searches.find? fun x => x.sid == sid && x.launched.isSome && x.fl && x.below.isNone && needsBelow s x) = some x) :
    execContribTimeout sid s = .next (setBelow s sid belowLost) := by
  simp only [execContribTimeout, hx, loseBelow]

theorem execCascadeBadTypeBeat_counts (ho : portOn s port = true) (hup : isF s 0 (pUp port) = true) :
    execCascadeBadTypeBeat port s = .next (badBeat s port) := by
  simp only [execCascadeBadTypeBeat, ho, hup, Bool.and_self, if_true]

end ContribFrame

/-- Settles O29: a beat goes by its type, a frame by its CRC, and the search of a good frame by its mask and its slots. -/
theorem cascadeFramesAndTimeouts : Obligations.CascadeFramesAndTimeouts := by
  intro s b rest fr hfr
  have hhead : fr.headD 0 = b := by rw [hfr, headD_take_frameLen]
  refine ⟨fun ho => ⟨fun hb => ⟨execCascadeSearchFrame_discarded ho hb, ?_⟩, ?_, passOn_fixed, passOn_spends⟩,
    fun ho hb u x => execCascadeContribFrame_settles ho hb hfr, fun sid x => execContribTimeout_loses,
    fun port => execCascadeBadTypeBeat_counts⟩
  · rintro c cs rfl
    exact execCascadeSearchFrame_resumes ho hb
  · intro u hb hu
    have hpassed : framePassed s fr = u := by rw [framePassed, hhead, hu]
    have hframe : exec (.cascadeSearchFrame b rest) s = _ := execCascadeSearchFrame_frame ho hb hfr
    rw [hframe, hpassed]
    refine ⟨fun hbad => by rw [if_neg (by simp [hbad])], fun x k v hgood hx hk hv => ?_⟩
    rw [if_pos hgood]
    have hin : Inbound u fr x k v := ⟨hx, hk, hv⟩
    refine ⟨fun hd => congrArg _ (searchFromAbove_above hin hd), fun hd hm => congrArg _ (searchFromAbove_passing hin hd hm),
      fun hd hm hf => congrArg _ (searchFromAbove_bestEffort hin hd hm hf), fun ds pos c hd hm hf hds hpos hc => ?_⟩
    rw [searchFromAbove_fixed hin hd hm hf hds hpos hc, inboundSlots]
    exact ⟨fun hs => by rw [if_pos hs], fun hs => by rw [if_neg (by simp [hs])]⟩

end Sys2Proof.Machine
end

section
/-!
Control beats and the lanes of a cascade port (R119, R125, R126), and training (R114, R115).
-/

namespace Sys2Proof.Machine

/-! ## The fields and link values of a port -/

theorem pUp_width (port : Nat) : (pUp port).width = 1 := by
  unfold pUp
  split <;> rfl

theorem pLanes_width (port : Nat) : (pLanes port).width = 4 := by
  unfold pLanes
  split <;> rfl

theorem pState_width (port : Nat) : (pState port).width = 4 := by
  unfold pState
  split <;> rfl

theorem fne_pUp_pLanes (p q : Nat) : fne (pUp p) 0 (pLanes q) 0 = true := by
  unfold pUp pLanes
  split_ifs <;> decide

theorem fne_pUp_pState (p q : Nat) : fne (pUp p) 0 (pState q) 0 = true := by
  unfold pUp pState
  split_ifs <;> decide

theorem fne_pLanes_pState (p q : Nat) : fne (pLanes p) 0 (pState q) 0 = true := by
  unfold pLanes pState
  split_ifs <;> decide

/-- Writing one link value leaves the others alone. -/
theorem setLk_ne (s : State) {k j : Nat} (v : Nat) (h : j ≠ k) : mget 0 (setLk s k v).link j = mget 0 s.link j :=
  mget_mset_ne _ _ _ _ h

/-- Searches that get a contribution leave the registers alone. -/
theorem getF_giveBelow (s : State) (p : Search → Bool) (x : Contrib) (d : Nat) (g : Fld) (c : Nat) :
    getF (giveBelow s p x) d g c = getF s d g c :=
  foldGetF (fun s (y : Search) => setBelow s y.sid x) d g c (fun _ _ => rfl) _ s

/-- A retrain takes the port's state, and leaves its lanes as they were. -/
theorem getF_startRetrain_lanes (s : State) (port : Nat) :
    getF (startRetrain s port) 0 (pLanes port) = getF s 0 (pLanes port) := by
  have hfree : errFree (pLanes port) 0 = true := by
    unfold pLanes
    split <;> decide
  have hstate : getF (setF s 0 (pState port) 7) 0 (pLanes port) = getF s 0 (pLanes port) :=
    getF_setF_ne _ _ _ _ _ _ _ _ (fne_pLanes_pState port port)
  simp only [startRetrain, getF_raiseErr _ _ _ _ _ _ _ _ hfree]
  split
  · rw [getF_giveBelow, getF_setLk, getF_setLk, hstate]
  · rw [getF_setLk, getF_setLk, hstate]

/-! ## Control beats (R119) -/

section ControlBeat

variable {s w : State} {port beat : Nat}

/-- A port that is up receives a control beat, and stands in `w` with what the beat says of credit, GMIN and the round. -/
structure BeatTaken (s : State) (port beat : Nat) (w : State) : Prop where
  on : portOn s port = true
  up : isF s 0 (pUp port) = true
  taken : w = takeBeat s port beat

theorem BeatTaken.runs (h : BeatTaken s port beat w) : (!portOn s port || !isF s 0 (pUp port)) = false := by
  simp [h.on, h.up]

/-- What the device does with a beat's lane map `lmap`, and the beat it answers with, by the beat's lane state. -/
def beatAnswered (w : State) (port lmap : Nat) : Nat → State
  | 1 => sendControl (setF (pendLanes w port lmap false) 0 (pState port) 6) port lmap 2
  | 2 => sendControl (setLk w (lkWait port) 0) port (getF w 0 (pLanes port)) 0
  | 3 => sendControl (pendLanes w port lmap false) port lmap 4
  | 4 => sendControl (setLk w (lkWait port) 0) port (getF w 0 (pLanes port)) 0
  | 5 => if getF w 0 (pState port) = 7 then w else sendControl (startRetrain w port) port (getF w 0 (pLanes port)) 5
  | _ => sendControl w port (getF w 0 (pLanes port)) 0

theorem execCascadeControlBeat_answers {c : Nat} (h : BeatTaken s port beat w) (hc : fld beat 226 3 = c) :
    execCascadeControlBeat port beat s = .next (beatAnswered w port (fld beat 229 4) c) := by
  subst hc
  simp only [execCascadeControlBeat, h.runs, h.taken, Bool.false_eq_true, if_false]
  rfl

end ControlBeat

/-! ## Lanes that fail and return, and retrains (R125, R126) -/

section Lanes

variable {s : State} {port lane old : Nat}

/-- A lane of a port that is up, and not in a retrain, fails. -/
structure LaneFails (s : State) (port lane old : Nat) : Prop where
  on : portOn s port = true
  up : isF s 0 (pUp port) = true
  next : old = lanesNext s port
  used : old.testBit lane = true
  open_ : getF s 0 (pState port) ≠ 7

theorem execCascadeLaneFail_eq (h : LaneFails s port lane old) : execCascadeLaneFail port lane s =
    .next (if popcount (old - 2 ^ lane) 4 < 2 then startRetrain s port
      else sendControl (setF (pendLanes s port (old - 2 ^ lane) true) 0 (pState port) 6) port (old - 2 ^ lane) 1) := by
  obtain ⟨hon, hup, rfl, hused, hopen⟩ := h
  simp only [execCascadeLaneFail, hon, hup, hused, hopen, Bool.not_true, Bool.or_self, decide_false, Bool.false_eq_true, if_false]

theorem execCascadeLaneReturnReady_proposes (hon : portOn s port = true) (hup : isF s 0 (pUp port) = true)
    (hret : isF s 0 CSC_CTL.RETURN = true) (hold : (lanesNext s port).testBit lane = false) (hl : lane < 4) :
    execCascadeLaneReturnReady port lane s = .next (sendControl (pendLanes s port (lanesNext s port + 2 ^ lane) true) port
      (lanesNext s port + 2 ^ lane) 3) := by
  simp only [execCascadeLaneReturnReady, hon, hup, hret, hold, hl, Bool.not_false, decide_true, Bool.and_self, if_true]

/-- A port that has dropped lanes is one of the two that CSC_CTL.RETURN looks at. -/
theorem execCascadeReturn_starts (hon : portOn s port = true) (hup : isF s 0 (pUp port) = true) (hl : getF s 0 (pLanes port) ≠ 15) :
    execCascadeReturn s = .next (setF s 0 CSC_CTL.RETURN 1) := by
  obtain ⟨hK, rfl | rfl⟩ := portOn_cases hon <;> simp [execCascadeReturn, hK, hup, hl]

/-- Where a port is up, CSC_CTL.RETRAIN retrains each port that is. -/
theorem execCascadeRetrain_starts (hon : portOn s port = true) (hup : isF s 0 (pUp port) = true) {u v : State}
    (hu : u = if portOn s 0 && isF s 0 (pUp 0) then startRetrain s 0 else s)
    (hv : v = if portOn s 1 && isF s 0 (pUp 1) then startRetrain u 1 else u) :
    execCascadeRetrain s = .next (setF v 0 CSC_CTL.RETRAIN 1) := by
  subst hu hv
  obtain ⟨hK, rfl | rfl⟩ := portOn_cases hon <;> simp [execCascadeRetrain, hK, hon, hup]

theorem execCascadeDropTimeout_retrains (hon : portOn s port = true) (hst : getF s 0 (pState port) = 6)
    (hw : mget 0 s.link (lkWait port) = 1) : execCascadeDropTimeout port s = .next (startRetrain s port) := by
  simp only [execCascadeDropTimeout, hon, hst, hw, beq_self_eq_true, Bool.and_self, if_true]

/-- A retrain that ends opens the port with its lanes and full credit, runs again, or takes the link down; CSC_CTL.RETRAIN clears
with the last one. -/
theorem execCascadeRetrainDone_ends (hon : portOn s port = true) (hst : getF s 0 (pState port) = 7) {ok : Bool} {lanes n : Nat}
    {t u : State} (hn : n = mget 0 s.link (lkFails port) + 1)
    (ht : t = setLk (setLk (setLk (setF (setF s 0 (pState port) 5) 0 (pLanes port) lanes) (lkFails port) 0) (lkCredit port) 256)
      (lkFreed port) 0)
    (hu : u = if ok then (if port = 1 then flushRelay t.relay.length t else t)
      else if n < 3 then setLk s (lkFails port) n else linkDown (setLk s (lkFails port) 0) port) :
    execCascadeRetrainDone port ok lanes s =
      .next (if getF u 0 CSC_STS.U_STATE = 7 ∨ getF u 0 CSC_STS.D_STATE = 7 then u else setF u 0 CSC_CTL.RETRAIN 0) := by
  have hlast : ∀ a b : Nat, (a != 7 && b != 7) = true ↔ ¬ (a = 7 ∨ b = 7) := by
    simp
  subst hn ht hu
  simp only [execCascadeRetrainDone, hon, hst, hlast, ite_not, Bool.not_true, bne_self_eq_false, Bool.or_self, Bool.false_eq_true,
    if_false]

end Lanes

/-! ## Training (R114, R115) -/

section Training

variable {s u : State} {port lanes npos flight below : Nat}

/-- On a port that is up, training reports a change further down the chain. -/
theorem execCascadeLinkUp_chain (hon : portOn s port = true) (hup : isF s 0 (pUp port) = true) :
    execCascadeLinkUp port lanes npos flight below s = .next (if port = 1 then setF s 0 CSC_STS.DEPTH (1 + below) else s) := by
  simp only [execCascadeLinkUp, hon, hup, Bool.not_true, Bool.false_eq_true, if_true, if_false]

/-- A port that is down has measured its flight time, and stands in `u` with it. -/
structure Measured (s : State) (port flight : Nat) (u : State) : Prop where
  on : portOn s port = true
  down : isF s 0 (pUp port) = false
  flight : u = setF s 0 (if port = 0 then CSC_FLIGHT.U_FLIGHT else CSC_FLIGHT.D_FLIGHT) flight

theorem execCascadeLinkUp_position (h : Measured s port flight u) (hp : port = 0) (hpos : npos + 1 ≠ cascPos s) :
    execCascadeLinkUp port lanes npos flight below s =
      .next (raiseErr (setF u 0 CSC_STS.POS_ERR 1) 0 pgCsc CSC_ERR.POS it0) := by
  subst hp
  obtain ⟨hon, hdown, rfl⟩ := h
  simp [execCascadeLinkUp, hon, hdown, cascPos_setF, hpos]

/-- A U port's neighbour stands one position above; a D port's may stand anywhere. -/
theorem position_right (h : port ≠ 0 ∨ npos + 1 = cascPos s) (f : Fld) (v : Nat) :
    (decide (port = 0) && npos + 1 != cascPos (setF s 0 f v)) = false := by
  rcases h with h | h <;> simp [cascPos_setF, h]

theorem execCascadeLinkUp_tooFar (h : Measured s port flight u) (hpos : port ≠ 0 ∨ npos + 1 = cascPos s) (hf : 3 < flight) :
    execCascadeLinkUp port lanes npos flight below s =
      .next (raiseErr (setF u 0 CSC_STS.FLIGHT_ERR 1) 0 pgCsc CSC_ERR.FLIGHT it0) := by
  obtain ⟨hon, hdown, rfl⟩ := h
  simp only [execCascadeLinkUp, hon, hdown, position_right hpos, hf, Bool.not_true, Bool.false_eq_true, if_true, if_false]

/-- A state with a port open: up, with its lanes and full credit. -/
def portOpened (t : State) (port lanes : Nat) : State :=
  setLk (setLk (setF (setF (setF t 0 (pUp port) 1) 0 (pLanes port) lanes) 0 (pState port) 5) (lkCredit port) 256) (lkFreed port) 0

theorem execCascadeLinkUp_opens (hon : portOn s port = true) (hdown : isF s 0 (pUp port) = false)
    (hpos : port ≠ 0 ∨ npos + 1 = cascPos s) (hf : flight ≤ 3) :
    ∃ t, execCascadeLinkUp port lanes npos flight below s = .next (portOpened t port lanes) := by
  simp only [execCascadeLinkUp, hon, hdown, position_right hpos, hf.not_gt, Bool.not_true, Bool.false_eq_true, if_false]
  exact ⟨_, rfl⟩

theorem isF_portOpened_up (t : State) (port lanes : Nat) : isF (portOpened t port lanes) 0 (pUp port) = true := by
  rw [isF, portOpened, getF_setLk, getF_setLk, getF_setF_ne _ _ _ _ _ _ _ _ (fne_pUp_pState port port),
    getF_setF_ne _ _ _ _ _ _ _ _ (fne_pUp_pLanes port port), getF_setF_self, pUp_width]
  rfl

theorem getF_portOpened_lanes (t : State) (port lanes : Nat) : getF (portOpened t port lanes) 0 (pLanes port) = lanes % 16 := by
  rw [portOpened, getF_setLk, getF_setLk, getF_setF_ne _ _ _ _ _ _ _ _ (fne_pLanes_pState port port), getF_setF_self, pLanes_width]
  rfl

theorem getF_portOpened_state (t : State) (port lanes : Nat) : getF (portOpened t port lanes) 0 (pState port) = 5 := by
  rw [portOpened, getF_setLk, getF_setLk, getF_setF_self, pState_width]
  rfl

theorem portOpened_credit (t : State) (port lanes : Nat) : mget 0 (portOpened t port lanes).link (lkCredit port) = 256 := by
  have hne : lkCredit port ≠ lkFreed port := by
    simp only [lkCredit, lkFreed]
    omega
  rw [portOpened, setLk_ne _ _ hne, setLk_self]

end Training

/-- Settles O30: a beat goes by its lane state, a lane by those that are left, and training by its position and flight time. -/
theorem cascadeLanesDropAndReturn : Obligations.CascadeLanesDropAndReturn := by
  intro s port lane hon
  refine ⟨fun hup => ⟨?_, fun lmap lstate => rfl, ?_, ?_, execCascadeReturn_starts hon hup, fun u v => execCascadeRetrain_starts hon hup,
    fun lanes npos flight below => execCascadeLinkUp_chain hon hup⟩, execCascadeDropTimeout_retrains hon,
    fun hst ok lanes n t u => execCascadeRetrainDone_ends hon hst, ?_⟩
  · rintro beat u v w lmap rfl hu hv hw
    have htaken : BeatTaken s port beat w := ⟨hon, hup, by rw [hw, hv, hu]; rfl⟩
    refine ⟨execCascadeControlBeat_answers htaken, ?_, execCascadeControlBeat_answers htaken, fun hc => ?_,
      execCascadeControlBeat_answers htaken⟩
    · rintro (hc | hc) <;> exact execCascadeControlBeat_answers htaken hc
    · rw [getF_startRetrain_lanes]
      exact execCascadeControlBeat_answers htaken hc
  · intro old hold hused hopen
    have hfail : exec (.cascadeLaneFail port lane) s = _ := execCascadeLaneFail_eq ⟨hon, hup, hold, hused, hopen⟩
    exact ⟨fun hfew => by rw [hfail, if_pos hfew], fun henough => by rw [hfail, if_neg henough.not_gt]⟩
  · rintro new hret hold hl rfl
    exact execCascadeLaneReturnReady_proposes hon hup hret hold hl
  · intro hdown lanes npos flight below u hu
    have hmeasured : Measured s port flight u := ⟨hon, hdown, hu⟩
    refine ⟨execCascadeLinkUp_position hmeasured, execCascadeLinkUp_tooFar hmeasured, fun hpos hf => ?_⟩
    obtain ⟨t, ht⟩ := execCascadeLinkUp_opens hon hdown hpos hf
    exact ⟨_, ht, isF_portOpened_up t port lanes, getF_portOpened_lanes t port lanes, getF_portOpened_state t port lanes,
      portOpened_credit t port lanes⟩

end Sys2Proof.Machine
end

section
/-!
Cells that arrive or are repeated, ring paths, heartbeats, and the management messages whose effect is their own (R107, R112, R131,
R446, R518).
-/

namespace Sys2Proof.Machine

theorem present_ringStop {s : State} {d : Nat} (h : d < s.part.dieCnt) : present s d pgRs = true := by
  simp [present, h, pgRs, pgStr, pgCch, pgMss, pgCel, pgTim, pgEvd, pgCsc, pgPkg, pgHif, pgSec]

/-! ## Cells that arrive (R107) -/

section Arrives

variable {s t : State} {d src cls id flit : Nat} {me : RCell → Bool}

/-- A cell in the air leaves it, and its flit is checked. -/
theorem takeCell_air (hme : me = RCell.named src cls id) (ha : s.ringAir.any me = true)
    (ht : t = flitSeen { s with ringAir := rmFirst me s.ringAir } d cls flit) :
    takeCell s d src cls id flit = if 4 ≤ flit then
      ({ t with dropped := t.dropped ++ [(s.ringAir.find? me).getD ⟨src, cls, id, 0⟩] }, false) else (t, true) := by
  subst hme ht
  simp only [takeCell, ha, Bool.not_true, Bool.false_and, Bool.false_eq_true, if_false]

theorem takeCell_whole (hme : me = RCell.named src cls id) (ha : s.ringAir.any me = true)
    (ht : t = flitSeen { s with ringAir := rmFirst me s.ringAir } d cls flit) (hf : flit < 4) :
    takeCell s d src cls id flit = (t, true) := by
  rw [takeCell_air hme ha ht, if_neg hf.not_ge]

theorem takeCell_poisoned (hme : me = RCell.named src cls id) (ha : s.ringAir.any me = true)
    (ht : t = flitSeen { s with ringAir := rmFirst me s.ringAir } d cls flit) (hf : 4 ≤ flit) :
    ∃ c, s.ringAir.find? me = some c ∧ takeCell s d src cls id flit = ({ t with dropped := t.dropped ++ [c] }, false) := by
  obtain ⟨c, hc⟩ := Option.isSome_iff_exists.mp (List.find?_isSome.mpr (List.any_eq_true.mp ha))
  exact ⟨c, hc, by rw [takeCell_air hme ha ht, if_pos hf, hc, Option.getD_some]⟩

end Arrives

/-! ## Cells that are repeated (R107) -/

section Resend

variable {s t : State} {d flit : Nat} {c : RCell} {p me : RCell → Bool}

theorem rmFirst_append_singleton {α : Type} {p : α → Bool} {l : List α} {x : α} (hl : l.any p = false) (hx : p x = true) :
    rmFirst p (l ++ [x]) = l := by
  have hnone : ∀ b ∈ l, ¬ p b = true := by simpa using hl
  rw [rmFirst_eq_eraseP, List.eraseP_append_right _ hnone, List.eraseP_cons_of_pos hx, List.append_nil]

theorem find?_append_singleton {α : Type} {p : α → Bool} {l : List α} {x : α} (hl : l.any p = false) (hx : p x = true) :
    (l ++ [x]).find? p = some x := by
  have hnone : ∀ b ∈ l, ¬ p b = true := by simpa using hl
  rw [List.find?_append, List.find?_eq_none.mpr hnone, Option.none_or, List.find?_cons_of_pos hx]

/-- The state in which the die looks for a cell to repeat: with nothing dropped before, the time-out concerns its record for the
evidence unit. -/
def resendLooks (s : State) (d flit : Nat) : State :=
  if s.dropped.any (fun c => c.src == d) then s else dropRecord s ⟨d, flit⟩

theorem execRingResendTimeout_found (hp : p = fun c => c.src == d) (ht : resendLooks s d flit = t) (hc : t.dropped.find? p = some c) :
    execRingResendTimeout ⟨d, flit⟩ s =
      .next (bumpSat { t with dropped := rmFirst p t.dropped, ringQ := t.ringQ ++ [c] } d ARB_RS_MGMT.RESENT) := by
  subst hp
  rw [resendLooks] at ht
  simp only [execRingResendTimeout, ht, hc]

theorem execRingResendTimeout_none (hp : p = fun c => c.src == d) (ht : resendLooks s d flit = t) (hn : t.dropped.find? p = none) :
    execRingResendTimeout ⟨d, flit⟩ s = .next t := by
  subst hp
  rw [resendLooks] at ht
  simp only [execRingResendTimeout, ht, hn]

/-- The oldest cell of a die whose poisoned copy was dropped is queued again and counted. -/
theorem execRingResendTimeout_repeats (hp : p = fun c => c.src == d) (hc : s.dropped.find? p = some c) :
    execRingResendTimeout ⟨d, flit⟩ s =
      .next (bumpSat { s with dropped := rmFirst p s.dropped, ringQ := s.ringQ ++ [c] } d ARB_RS_MGMT.RESENT) := by
  have hany : s.dropped.any p = true := List.any_eq_true.mpr ⟨c, List.mem_of_find?_eq_some hc, List.find?_some hc⟩
  refine execRingResendTimeout_found hp ?_ hc
  rw [resendLooks, ← hp, if_pos hany]

theorem resendLooks_record (hp : p = fun c => c.src == d) (hnone : s.dropped.any p = false) :
    resendLooks s d flit = dropRecord s ⟨d, flit⟩ := by
  subst hp
  rw [resendLooks, if_neg (by simp [hnone])]

/-- A record that is not in the air, or whose flit is not uncorrectable, is not dropped. -/
theorem dropRecord_keeps (hme : me = RCell.named d 5 (mgmtId 7 d)) (h : flit < 4 ∨ s.ringAir.find? me = none) :
    dropRecord s ⟨d, flit⟩ = s := by
  subst hme
  rcases h with hf | hn
  · simp only [dropRecord, hf.not_ge, if_false]
    split <;> rfl
  · simp only [dropRecord, hn]

theorem dropRecord_drops (hme : me = RCell.named d 5 (mgmtId 7 d)) (hf : 4 ≤ flit) (hc : s.ringAir.find? me = some c) :
    dropRecord s ⟨d, flit⟩ =
      { flitSeen s 0 5 flit with ringAir := rmFirst me s.ringAir, dropped := s.dropped ++ [c] } := by
  subst hme
  simp only [dropRecord, hc, hf, if_true]

theorem execRingResendTimeout_idle (hp : p = fun c => c.src == d) (hnone : s.dropped.any p = false)
    (hme : me = RCell.named d 5 (mgmtId 7 d)) (h : flit < 4 ∨ s.ringAir.find? me = none) :
    execRingResendTimeout ⟨d, flit⟩ s = .next s := by
  have hfind : s.dropped.find? p = none := List.find?_eq_none.mpr (by simpa using hnone)
  exact execRingResendTimeout_none hp ((resendLooks_record hp hnone).trans (dropRecord_keeps hme h)) hfind

/-- A record whose cell met an uncorrectable flit is repeated at once, as the only cell of its die that was dropped. -/
theorem execRingResendTimeout_repeatsRecord (hp : p = fun c => c.src == d) (hnone : s.dropped.any p = false)
    (hme : me = RCell.named d 5 (mgmtId 7 d)) (hf : 4 ≤ flit) (hc : s.ringAir.find? me = some c) (ht : t = flitSeen s 0 5 flit) :
    execRingResendTimeout ⟨d, flit⟩ s = .next (bumpSat
      { t with ringAir := rmFirst me s.ringAir, dropped := s.dropped, ringQ := t.ringQ ++ [c] } d ARB_RS_MGMT.RESENT) := by
  have hsrc : p c = true := by
    have hnamed := List.find?_some hc
    subst hp hme
    simp only [RCell.named, Bool.and_eq_true] at hnamed
    exact hnamed.1.1
  have hlooks := (resendLooks_record hp hnone).trans (dropRecord_drops hme hf hc)
  rw [execRingResendTimeout_found hp hlooks (find?_append_singleton hnone hsrc), rmFirst_append_singleton hnone hsrc, ht]

end Resend

/-! ## Ring paths (R112) -/

section Paths

variable {s : State} {d dir : Nat} {sids : List Nat} {alt fail : Fld}

/-- The path in use of a direction of a die's stop fails, on a direction that is not lost; `alt` says that the second path is in use,
`fail` that the direction is lost. -/
structure PathFault (s : State) (d dir : Nat) (alt fail : Fld) : Prop where
  die : d < s.part.dieCnt
  ways : dir < 2
  second : alt = if dir = 0 then ARB_RS_PATH.CW_ALT else ARB_RS_PATH.CCW_ALT
  lost : fail = if dir = 0 then ARB_RS_PATH.CW_FAIL else ARB_RS_PATH.CCW_FAIL
  works : isF s d fail = false

/-- The searches that cross the stop have lost a cell. -/
def cellsLost (s : State) (sids : List Nat) : State :=
  { s with searches := updWhere (fun x => sids.contains x.sid) (fun x => { x with lost := true }) s.searches }

/-- The first path is left for the second, and the change is counted. -/
def pathSwitched (s : State) (d : Nat) (alt : Fld) : State := bumpSat (setF s d alt 1) d ARB_RS_PATH.SWITCHES

theorem execRingPathFault_eq (h : PathFault s d dir alt fail) : execRingPathFault d dir sids s =
    .next (if isF s d alt then raiseErr (setF (cellsLost s sids) d fail 1) d pgRs RS_ERR.PATH_FAIL (it1 dir)
      else raiseErr (pathSwitched (cellsLost s sids) d alt) d pgRs RS_ERR.PATH_SWITCH (it1 dir)) := by
  obtain ⟨hd, hdir, rfl, rfl, hworks⟩ := h
  simp only [execRingPathFault, hd.not_ge, Nat.not_lt.mpr (Nat.le_of_lt_succ hdir), hworks, decide_false, Bool.or_self,
    Bool.false_eq_true, if_false]
  rfl

/-- The fields of the two paths are one bit each, stand apart, and are no error registers. -/
theorem PathFault.fields (h : PathFault s d dir alt fail) : alt.width = 1 ∧ fail.width = 1 ∧ errFree alt 0 = true ∧
    errFree fail 0 = true ∧ fne fail 0 alt 0 = true ∧ fne alt 0 ARB_RS_PATH.SWITCHES 0 = true ∧
    fne fail 0 ARB_RS_PATH.SWITCHES 0 = true := by
  obtain ⟨-, -, rfl, rfl, -⟩ := h
  split <;> decide

theorem execRingPathFault_loses (h : PathFault s d dir alt fail) (ha : isF s d alt = true) :
    ∃ t, execRingPathFault d dir sids s = .next t ∧ t.searches = (cellsLost s sids).searches ∧ isF t d fail = true ∧
      stickySet t d pgRs RS_ERR.PATH_FAIL := by
  obtain ⟨-, hwidth, -, hfree, -, -, -⟩ := h.fields
  refine ⟨_, (execRingPathFault_eq h).trans (congrArg _ (if_pos ha)), by rw [raiseErr_searches, setF_searches], ?_,
    raiseErr_sticky _ _ _ _ _ (present_ringStop h.die) (by decide)⟩
  rw [isF, getF_raiseErr _ _ _ _ _ _ _ _ hfree, getF_setF_self, hwidth]
  rfl

theorem execRingPathFault_switches (h : PathFault s d dir alt fail) (ha : isF s d alt = false) :
    ∃ t, execRingPathFault d dir sids s = .next t ∧ t.searches = (cellsLost s sids).searches ∧ isF t d alt = true ∧
      isF t d fail = false ∧ stickySet t d pgRs RS_ERR.PATH_SWITCH := by
  obtain ⟨hwidth, -, hfreeAlt, hfreeFail, hapart, hcountAlt, hcountFail⟩ := h.fields
  refine ⟨_, (execRingPathFault_eq h).trans (congrArg _ (if_neg (by simp [ha]))), ?_, ?_, ?_,
    raiseErr_sticky _ _ _ _ _ (present_ringStop h.die) (by decide)⟩
  · rw [raiseErr_searches, pathSwitched, bumpSat, setF_searches, setF_searches]
  · rw [isF, getF_raiseErr _ _ _ _ _ _ _ _ hfreeAlt, pathSwitched, bumpSat, getF_setF_ne _ _ _ _ _ _ _ _ hcountAlt, getF_setF_self,
      hwidth]
    rfl
  · rw [isF, getF_raiseErr _ _ _ _ _ _ _ _ hfreeFail, pathSwitched, bumpSat, getF_setF_ne _ _ _ _ _ _ _ _ hcountFail,
      getF_setF_ne _ _ _ _ _ _ _ _ hapart]
    exact h.works

end Paths

/-! ## Heartbeats (R131) -/

section Heartbeats

variable {s : State} {d : Nat}

theorem execHeartbeatSend_queues (h : stopLive s d = true) : execHeartbeatSend d s =
    .next { s with free := s.free + 1, ringQ := s.ringQ ++
      [{ src := d, cls := 5, id := 0, payload := mgmtCell 9 (partner d) 0 0 (freeVal s).1 0 }] } := by
  simp only [execHeartbeatSend, h, if_true]
  rfl

/-- Four missed heartbeats are counted, and the partner is lost. -/
theorem execHeartbeatTimeout_loses (ha : avail s = true) (h : stopLive s d = true) (hp : stopLive s (partner d) = true) :
    execHeartbeatTimeout d s = .next (loseDie (bumpSat s d ARB_RS_MGMT.HB_MISS 4) (partner d)) := by
  simp only [execHeartbeatTimeout, ha, h, hp, Bool.and_self, if_true]

theorem gone_loseDie (s : State) (d : Nat) : (loseDie s d).lostDies.testBit d = true := by
  rw [loseDie_lostDies, Nat.testBit_lor, Nat.testBit_two_pow_self, Bool.or_true]

theorem execMgmtReservedType_records (h : stopLive s d = true) (dir : Nat) :
    execMgmtReservedType d dir s = .next (raiseErr s d pgRs RS_ERR.FLIT_UNC (it2 (dir % 2) 5)) := by
  simp only [execMgmtReservedType, h, if_true]

end Heartbeats

/-! ## Management messages (R446, R518) -/

section Messages

variable {s t : State} {d src flit kind idx pg n : Nat} {ok : Bool}

theorem execMgmtFaultReport_reports (hm : (s.mgmt.any fun m => m.type == 8 && m.mid == d) = true)
    (ht : takeCell s 0 d 5 (mgmtId 8 d) flit = (t, ok)) : execMgmtFaultReport ⟨d, flit⟩ s = .next (if ok then
      sendMsix { t with mgmt := rmFirst (fun m => m.type == 8 && m.mid == d) t.mgmt } (getF t 0 FLT_ROUTE.VEC) else t) := by
  simp only [execMgmtFaultReport, hm, ht, if_true]

/-- The kinds of descriptor that a copy may carry, each with its page and the number of its banks. -/
def copyKinds : List (Nat × Nat × Nat) := [(0, pgPart, 256), (1, pgCr, 256), (2, pgSr, 256), (3, pgShelf, 1024)]

theorem execMgmtDescriptorCopy_copies (hk : (kind, pg, n) ∈ copyKinds) (hi : idx < n)
    (ht : takeCell s d src 5 (mgmtId 0xB (idx * 8 + kind)) flit = (t, ok)) (hd : stopLive t d = true) (hs : stopLive t src = true)
    (hne : src ≠ d) : execMgmtDescriptorCopy src ⟨d, flit⟩ kind idx s = .next (if ok then copyBank t src d pg idx else t) := by
  cases ok with
  | false => simp only [execMgmtDescriptorCopy, ht, Bool.not_false, Bool.true_or, if_true, Bool.false_eq_true, if_false]
  | true =>
    simp only [copyKinds, List.mem_cons, Prod.mk.injEq, List.not_mem_nil, or_false] at hk
    rcases hk with ⟨rfl, rfl, rfl⟩ | ⟨rfl, rfl, rfl⟩ | ⟨rfl, rfl, rfl⟩ | ⟨rfl, rfl, rfl⟩ <;>
      simp only [execMgmtDescriptorCopy, ht, hd, hs, hne, hi, Bool.not_true, Bool.or_self, decide_false, Bool.false_eq_true, if_true,
        if_false]

end Messages

/-- Settles O31: a cell goes by its flit, a direction by its second path, and a message by what its cell came to. -/
theorem ringFaultsAndHeartbeats : Obligations.RingFaultsAndHeartbeats := by
  intro s d hd
  refine ⟨fun p hp => ⟨fun c flit => execRingResendTimeout_repeats hp, fun flit me hnone hme =>
      ⟨execRingResendTimeout_idle hp hnone hme, fun c t => execRingResendTimeout_repeatsRecord hp hnone hme⟩⟩,
    ?_, fun hlive => ⟨⟨_, execHeartbeatSend_queues hlive⟩, fun ha hpartner => ?_, fun dir => ?_⟩,
    fun src cls id flit me t hme ha ht => ⟨takeCell_whole hme ha ht, takeCell_poisoned hme ha ht⟩, fun cls flit => rfl,
    fun flit t ok => execMgmtFaultReport_reports, fun src kind idx pg n flit t ok => execMgmtDescriptorCopy_copies⟩
  · intro dir sids alt fail hdir halt hfail hworks
    have hfault : PathFault s d dir alt fail := ⟨hd, hdir, halt, hfail, hworks⟩
    cases ha : isF s d alt with
    | true =>
      obtain ⟨t, ht, hlost, hset, hrecorded⟩ := execRingPathFault_loses (sids := sids) hfault ha
      exact ⟨t, ht, hlost, fun _ => ⟨hset, hrecorded⟩, fun hf => Bool.noConfusion hf⟩
    | false =>
      obtain ⟨t, ht, hlost, hset, hclear, hrecorded⟩ := execRingPathFault_switches (sids := sids) hfault ha
      exact ⟨t, ht, hlost, fun hf => Bool.noConfusion hf, fun _ => ⟨hset, hclear, hrecorded⟩⟩
  · exact ⟨_, execHeartbeatTimeout_loses ha hlive hpartner, gone_loseDie _ _, getF_bumpSat_self s d ARB_RS_MGMT.HB_MISS 4 0⟩
  · exact ⟨_, execMgmtReservedType_records hlive dir, errOnly_raiseErr _ _ _ _ _,
      raiseErr_sticky _ _ _ _ _ (present_ringStop hd) (by decide)⟩

end Sys2Proof.Machine
end

section
/-!
Pairs of the availability profile: the loss of a member (R131, R134), the return of channels (R450), and the rejoin (R133).
-/

namespace Sys2Proof.Machine

/-! ## The state of a pair (R134) -/

section PairState

variable {s : State} {p : Nat}

theorem getF_setPair (s : State) (p v : Nat) : getF (setPair s p v) 0 (PKG_PAIR_STS.PAIR p) = v % 16 := getF_setF_self ..

/-- A write of another register leaves the state of a pair alone. -/
theorem getF_pair_setF (hp : p < 4) {f : Fld} (hf : f.off < 4096 ∧ f.lo < 32) (h : f.off ≠ 0xc0) (v : Nat) :
    getF (setF s 0 f v) 0 (PKG_PAIR_STS.PAIR p) = getF s 0 (PKG_PAIR_STS.PAIR p) := by
  have hpair : (PKG_PAIR_STS.PAIR p).off < 4096 ∧ (PKG_PAIR_STS.PAIR p).lo < 32 := by
    simp only [PKG_PAIR_STS.PAIR]
    omega
  exact getF_setF_ne _ _ _ _ _ _ _ _ (fne_of_off hpair hf (Ne.symm h))

/-- The next states of R134, whole. -/
theorem lossState_table (d st : Nat) : lossState st d = if d % 2 = 0 then
      (match st with | 1 | 6 => some 3 | 4 => some 7 | 5 => some 3 | 2 => some 7 | _ => none)
    else (match st with | 1 | 6 => some 2 | 4 => some 2 | 5 => some 7 | 3 => some 7 | _ => none) := by
  rcases Nat.mod_two_eq_zero_or_one d with hd | hd <;> simp only [lossState, hd] <;>
    rcases st with _ | _ | _ | _ | _ | _ | _ | st <;> rfl

end PairState

/-! ## Losing a member (R131, R134) -/

section Loss

variable {s : State} {d p st : Nat}

/-- A die of the availability profile has been lost, or its attic fenced (R131). -/
structure MemberLost (s : State) (d : Nat) : Prop where
  avail : avail s = true
  die : d < s.part.dieCnt
  running : s.inReset = false
  fenced : fenced s d = true

theorem MemberLost.runs (h : MemberLost s d) :
    (!Machine.avail s || decide (s.part.dieCnt ≤ d) || !Machine.fenced s d || s.inReset) = false := by
  simp [h.avail, h.die, h.running, h.fenced]

theorem execPairMemberLost_loses (h : MemberLost s d) (hst : lossState (pairSt s d) d = some st) :
    execPairMemberLost d s = .next (loseMember s d st) := by
  simp only [execPairMemberLost, h.runs, hst, Bool.false_eq_true, if_false]

theorem execPairMemberLost_again (h : MemberLost s d) (hst : lossState (pairSt s d) d = none) :
    execPairMemberLost d s = .next s := by
  simp only [execPairMemberLost, h.runs, hst, Bool.false_eq_true, if_false]

theorem fenceMember_locked (h : getF s 0 (PKG_PAIR_STS.PAIR p) = 1) (d : Nat) : fenceMember s p d = loseDie s d := if_pos h

theorem execPairFenceEven_locked (hp : p < 4) (h : getF s 0 (PKG_PAIR_STS.PAIR p) = 1) :
    execPairFenceEven p s = .next (loseDie s (2 * p)) := by
  rw [execPairFenceEven, if_pos hp, fenceMember_locked h]

theorem execPairFenceOdd_locked (hp : p < 4) (h : getF s 0 (PKG_PAIR_STS.PAIR p) = 1) :
    execPairFenceOdd p s = .next (loseDie s (2 * p + 1)) := by
  rw [execPairFenceOdd, if_pos hp, fenceMember_locked h]

end Loss

/-! ## The return of channels (R450) -/

section Return

variable {s u : State} {p chan : Nat}

theorem bitsOf_two_pow : ∀ p < 4, bitsOf (2 ^ p) 4 = [p] := by decide

/-- A return of one pair that may return its channels, and has some to return, is noted in RETURN. -/
theorem execPairChannelReturn_starts (hp : p < 4) (hm : mayReturn s p = true) (hd : displaced s p ≠ []) :
    execPairChannelReturn (2 ^ p) s =
      .next (setF s 0 PKG_PAIR_CTL.RETURN (getF s 0 PKG_PAIR_CTL.RETURN ||| 2 ^ p)) := by
  simp only [execPairChannelReturn, startReturn, bitsOf_two_pow p hp, List.foldl_cons, List.foldl_nil, hm, bne_iff_ne.mpr hd,
    Bool.and_self, if_true]

/-- A channel that has drained goes home, and the last one ends the return of its pair. -/
theorem execChannelReturnDrained_moves (hp : p = homeOf s chan / 2) (hd : (displaced s p).contains chan = true)
    (hr : (getF s 0 PKG_PAIR_CTL.RETURN).testBit p = true) (hq : s.reqs.any (fun r => r.chan == chan) = false)
    (hu : u = setHome s chan (getF s 0 (LKP_CH_CFG.DIE chan))) :
    execChannelReturnDrained chan s = .next (if displaced u p = [] then
      setF u 0 PKG_PAIR_CTL.RETURN (getF u 0 PKG_PAIR_CTL.RETURN &&& (15 - 2 ^ p)) else u) := by
  subst hp hu
  simp only [execChannelReturnDrained, hd, hr, hq, Bool.not_true, Bool.or_self, Bool.false_eq_true, if_false]

end Return

/-! ## The start of a rejoin (R133) -/

section RejoinStart

variable {s : State} {p st lost : Nat}

/-- The registers of a solo pair that begins to take its lost member back. -/
def rejoinMarked (s : State) (p st lost : Nat) : State :=
  let s := { s with lostDies := s.lostDies - (if s.lostDies.testBit lost then 2 ^ lost else 0) }
  let s := setPair s p (if st = 2 then 4 else 5)
  let s := setF s 0 PKG_PAIR_CTL.REJOIN (getF s 0 PKG_PAIR_CTL.REJOIN ||| 2 ^ p)
  setF s 0 PKG_PAIR_SYNC.ROWS 0

/-- The state in which the copy to the lost member of a solo pair begins, before its descriptors. -/
def rejoinBegun (s : State) (p st lost : Nat) : State :=
  let u := rejoinMarked s p st lost
  copyBusy { u with rejoins := u.rejoins ++ [{ pair := p, phase := 3, since := u.cyc, surv := partner lost, pos := 0 }] }

theorem getF_rejoinMarked_pair (s : State) (hp : p < 4) (st lost : Nat) :
    getF (rejoinMarked s p st lost) 0 (PKG_PAIR_STS.PAIR p) = if st = 2 then 4 else 5 := by
  rw [rejoinMarked, getF_pair_setF hp (by decide) (by decide), getF_pair_setF hp (by decide) (by decide), getF_setPair]
  split <;> rfl

theorem getF_rejoinBegun_pair (s : State) (hp : p < 4) (st lost : Nat) :
    getF (rejoinBegun s p st lost) 0 (PKG_PAIR_STS.PAIR p) = if st = 2 then 4 else 5 := by
  rw [rejoinBegun, copyBusy, getF_pair_setF hp (by decide) (by decide), getF_of_regs rfl]
  exact getF_rejoinMarked_pair s hp st lost

/-- A copy that runs shows as BUSY. -/
theorem getF_copyBusy_running {u : State} (h : u.rejoins.any (fun r => r.phase == 3 || r.phase == 4) = true) :
    getF (copyBusy u) 0 PKG_PAIR_SYNC.BUSY = 1 := by
  rw [copyBusy, getF_setF_self, h]
  rfl

theorem getF_rejoinBegun_busy (s : State) (p st lost : Nat) : getF (rejoinBegun s p st lost) 0 PKG_PAIR_SYNC.BUSY = 1 :=
  getF_copyBusy_running (by simp)

theorem rejoinBegun_rejoins (s : State) (p st lost : Nat) : (rejoinBegun s p st lost).rejoins =
    s.rejoins ++ [{ pair := p, phase := 3, since := s.cyc, surv := partner lost, pos := 0 }] := rfl

theorem rejoinBegun_lostDies (s : State) (p st lost : Nat) : (rejoinBegun s p st lost).lostDies =
    s.lostDies - (if s.lostDies.testBit lost then 2 ^ lost else 0) := rfl

/-- A solo pair whose lost member is neither held in reset nor fenced takes it back, beginning with the descriptors. -/
theorem execPairRejoin_starts (ha : avail s = true) (hd : 2 * p + 1 < s.part.dieCnt) (hst : getF s 0 (PKG_PAIR_STS.PAIR p) = st)
    (hsolo : st = 2 ∨ st = 3) (hlost : lost = if st = 2 then 2 * p + 1 else 2 * p) (hheld : s.heldDies.testBit lost = false)
    (hfence : isF s lost ATC_THROTTLE.FENCED = false) :
    execPairRejoin p s = .next (copyDescs (rejoinBegun s p st lost) (partner lost) lost) := by
  have hopen : (st != 2 && st != 3) = false := by rcases hsolo with rfl | rfl <;> rfl
  subst hst hlost
  simp only [execPairRejoin, ha, hd, startRejoin, hopen, hheld, hfence, decide_true, Bool.and_self, Bool.or_self, Bool.false_eq_true,
    if_true, if_false]
  rfl

end RejoinStart

/-! ## The copy and the check (R133) -/

section RejoinCopy

variable {s u v : State} {p n pos k : Nat} {crc : Bool} {r : Rejoin} {owned : List Nat}

theorem copyRows_part (s : State) (src dst a b : Nat) : (copyRows s src dst a b).part = s.part := by
  unfold copyRows
  exact List.foldlRecOn _ _ (motive := fun t : State => t.part = s.part) rfl fun t ht q _ => ht

theorem exec_rejoinCopyDone (c : Progress) (s : State) : exec (.rejoinCopyDone c) s = execRejoinCopyDone c s := rfl

/-- The copy goes on over the owned shelves that are left, and ends when it has passed every row. -/
theorem execRejoinCopyDone_copies (hr : s.rejoins.find? (fun r => r.pair == p && r.phase == 3) = some r)
    (hown : owned = (List.range 1024).filter fun sh => isF s r.surv SHELF_DESC.OWNED sh && decide (r.pos < 1024 * sh + 1024))
    (hpos : advanceCopy owned r.pos n = (pos, k))
    (hu : u = bump (copyRows s r.surv (partner r.surv) r.pos pos) 0 PKG_PAIR_SYNC.ROWS k)
    (hv : v = { u with rejoins := updWhere (fun x => x.pair == p) (fun x => { x with pos := pos }) u.rejoins }) :
    execRejoinCopyDone ⟨p, n, crc⟩ s = .next (if pos = 2 ^ 20 then endCopy v p r else v) := by
  simp only [execRejoinCopyDone, hr, ← hown, hpos, ← hu, ← hv]

/-- Without a store room the check begins as soon as the rows are copied. -/
theorem getF_endCopy_pair (hS : s.part.unitS = false) : getF (endCopy s p r) 0 (PKG_PAIR_STS.PAIR p) = 6 := by
  have hpart : (copyDescs s r.surv (partner r.surv)).part.unitS = false := hS
  simp only [endCopy, hpart, Bool.false_and, Bool.false_eq_true, if_false]
  exact getF_setPair ..

/-- The state in which a pair is in lockstep again, its rejoin over. -/
def lockstepAgain (s : State) (p : Nat) : State :=
  let s := setPair { s with rejoins := s.rejoins.filter fun r => r.pair != p } p 1
  setF s 0 PKG_PAIR_CTL.REJOIN (getF s 0 PKG_PAIR_CTL.REJOIN &&& (15 - 2 ^ p))

theorem getF_lockstepAgain_pair (s : State) (hp : p < 4) : getF (lockstepAgain s p) 0 (PKG_PAIR_STS.PAIR p) = 1 := by
  rw [lockstepAgain, getF_pair_setF hp (by decide) (by decide), getF_setPair]

theorem execRejoinCheckExpire_locks (hr : s.rejoins.any (fun r => r.pair == p && r.phase == 5) = true) (h0 : posAt s 0 s.cyc = 0) :
    execRejoinCheckExpire p s = .next (lockstepAgain s p) := by
  simp only [execRejoinCheckExpire, hr, h0, beq_self_eq_true, Bool.and_self, if_true]
  rfl

/-- Inside a round the check goes on. -/
theorem execRejoinCheckExpire_waits (h0 : posAt s 0 s.cyc ≠ 0) : execRejoinCheckExpire p s = .next s := by
  simp only [execRejoinCheckExpire, beq_eq_false_iff_ne.mpr h0, Bool.false_and, Bool.false_eq_true, if_false]

end RejoinCopy

/-- Settles O32: a loss goes by the table of R134, a return by the channels left, and a rejoin by its copy and its check. -/
theorem pairsLoseAndRegainMembers : Obligations.PairsLoseAndRegainMembers := by
  intro s
  refine ⟨fun d st ha hd hr hf => ?_, ?_, fun chan p u => execChannelReturnDrained_moves, ?_, ?_, fun p hp hr => ⟨fun h0 => ?_,
    execRejoinCheckExpire_waits⟩, fun p hp hst => ⟨execPairFenceEven_locked hp hst, execPairFenceOdd_locked hp hst⟩,
    lossState_table⟩
  · have hlost : MemberLost s d := ⟨ha, hd, hr, hf⟩
    exact ⟨execPairMemberLost_loses hlost, execPairMemberLost_again hlost⟩
  · rintro mask - hall ⟨p, rfl, hp⟩
    obtain ⟨hmay, hdisplaced⟩ := hall p Nat.testBit_two_pow_self
    exact ⟨_, execPairChannelReturn_starts hp hmay hdisplaced, onlyRegs_setF .., getF_setF_self ..⟩
  · intro p st lost ha hd hp hst hsolo hlost hheld hfence
    exact ⟨_, execPairRejoin_starts ha hd hst hsolo hlost hheld hfence, getF_rejoinBegun_pair s hp st lost,
      getF_rejoinBegun_busy s p st lost, rejoinBegun_rejoins s p st lost, rejoinBegun_lostDies s p st lost⟩
  · intro p n crc r owned pos k u v hp hr hown hpos hu hv
    rw [exec_rejoinCopyDone, execRejoinCopyDone_copies hr hown hpos hu hv]
    refine ⟨fun hleft => by rw [if_neg hleft], fun hend => ⟨by rw [if_pos hend], fun hS => getF_endCopy_pair ?_⟩⟩
    have hpart : v.part = s.part := by
      rw [hv, hu]
      exact copyRows_part ..
    rw [hpart, hS]
  · exact ⟨_, execRejoinCheckExpire_locks hr h0, getF_lockstepAgain_pair s hp, rfl⟩

end Sys2Proof.Machine
end

section
/-!
Every command answers: what its meaning is made of is one next state, but for the fetch of an unused opcode (R175, R176).
-/

namespace Sys2Proof.Machine

/-- The fetch of an unused opcode stops, or changes nothing. -/
theorem execUnusedOpcodeFetch_answers (d t : Nat) (s : State) :
    execUnusedOpcodeFetch d t s = .next s ∨ execUnusedOpcodeFetch d t s = .fault .reservedOpcode := by
  unfold execUnusedOpcodeFetch
  split
  · split
    · split
      · exact .inr rfl
      · exact .inl rfl
    · exact .inl rfl
  · exact .inl rfl

/-- Settles O7: each meaning is a next state by its form, but for the one fetch that may stop. -/
theorem everyCommandAnswers : Obligations.EveryCommandAnswers := by
  intro c s
  cases c
  case unusedOpcodeFetch d t =>
    rcases execUnusedOpcodeFetch_answers d t s with hnext | hstop
    · exact .inl ⟨s, hnext⟩
    · exact .inr ⟨d, t, rfl, hstop⟩
  all_goals exact .inl ⟨_, rfl⟩

end Sys2Proof.Machine
end

section
/-!
How each recipe instruction begins: its issue slot, its word, its context and its step limit (R172, R175, R181, R203, R215, R225).
-/

namespace Sys2Proof.Machine

section Fetch

variable {s : State} {d t op : Nat} {w : W64} {body : State → Thread → W64 → State}

/-! ## What an error comes to (R204) -/

theorem faultErr_at_once {a : State} (h : (getT a d t).spec = false) (b : State) (c k : Nat) :
    faultErr a b d t c k = faultThread b d t c k := by
  simp [faultErr, h]

theorem faultErr_waits {a : State} (h : (getT a d t).spec = true) (b : State) (c k : Nat) : faultErr a b d t c k = waitResolve a d t := by
  simp [faultErr, h]

/-! ## The issue slot and the word (R172, R225) -/

/-- Settling the issue slots passes no cycle. -/
theorem cq_settleIssue (s : State) (d : Nat) : cq (settleIssue s d) = cq s := by
  rw [cq, (issueOnly_settleIssue s d).cyc, cq]

/-- A word of another opcode leaves the state alone, whatever else would stop the thread. -/
theorem runIns_otherWord (hf : recipeFetch s d (getT s d t).pc = .ok w.toNat) (ho : insOp w ≠ op) : runIns s d t op body = s := by
  by_cases hrun : canRun s d t = true <;> simp [runIns, hrun, hf, Ecc.data?, ho]

/-- The thread's next word is unreadable, or it is the instruction that the command runs. -/
def wordServes (s : State) (d t op : Nat) : Prop :=
  recipeFetch s d (getT s d t).pc = .bad ∨ ∃ w : W64, recipeFetch s d (getT s d t).pc = .ok w.toNat ∧ insOp w = op

/-- Without an issue slot only the issue contest is settled. -/
theorem runIns_noSlot (hrun : canRun s d t = true) (hslot : (settleIssue s d).starts.contains (d, t, cq s) = false)
    (hw : wordServes s d t op) : runIns s d t op body = settleIssue s d := by
  rcases hw with hbad | ⟨w, hok, rfl⟩
  · simp only [runIns, hrun, if_true, hbad, Ecc.data?, Option.all_none, cq_settleIssue, hslot, Bool.false_eq_true, if_false]
  · simp only [runIns, hrun, if_true, hok, Ecc.data?, Option.all_some, BitVec.ofNat_toNat, BitVec.setWidth_eq, beq_self_eq_true,
      cq_settleIssue, hslot, Bool.false_eq_true, if_false]

/-- An unreadable word faults the thread in its slot, and is recorded. -/
theorem runIns_badWord (hrun : canRun s d t = true) (hslot : (settleIssue s d).starts.contains (d, t, cq s) = true)
    (hbad : recipeFetch s d (getT s d t).pc = .bad) : runIns s d t op body =
      faultErr (issued s d t) (raiseErr (issued s d t) d pgSeq SEQ_ERR.STORE_UNC (it1 (getT s d t).pc)) d t 3 0 := by
  simp only [runIns, hrun, if_true, hbad, Ecc.data?, Option.all_none, cq_settleIssue, hslot, issued]

/-- A readable word of the opcode starts in its slot. -/
theorem runIns_word (hrun : canRun s d t = true) (hslot : (settleIssue s d).starts.contains (d, t, cq s) = true)
    (hok : recipeFetch s d (getT s d t).pc = .ok w.toNat) (ho : insOp w = op) :
    runIns s d t op body = startIns (issued s d t) d t w false body := by
  simp only [runIns, hrun, if_true, hok, Ecc.data?, Option.all_some, BitVec.ofNat_toNat, BitVec.setWidth_eq, ho, beq_self_eq_true,
    cq_settleIssue, hslot, Ecc.isCorr, issued]

/-! ## What stops a start (R181, R203, R204, R215) -/

theorem getT_issued (s : State) (d t e k : Nat) : getT (issued s d t) e k = getT s e k := (issueOnly_issued s d t).getT e k

/-- A word that needs the speculation resolved waits for it, or faults where the thread may not wait. -/
theorem startIns_unresolved (hn : needsResolve (getT s d t) w = true) : startIns (issued s d t) d t w false body =
    if mayNotWait (getT s d t) then faultThread (issued s d t) d t 6 0
    else setT (issued s d t) d t { getT s d t with st := .waitSearch, wait := .resolve } := by
  simp only [startIns, getT_issued, hn, if_true]

theorem cyc_countInstr (s : State) (d : Nat) : (countInstr s d).cyc = s.cyc := by
  unfold countInstr
  rw [setF_cyc, setF_cyc]

theorem ctxUnc_insThread (cyc : Nat) (th : Thread) (w : W64) : ctxUnc (insThread cyc th w) = ctxUnc th := rfl

/-- The context and the step limit are checked on the started state, before the body acts. -/
theorem startIns_checked (hn : needsResolve (getT s d t) w = false) (hcor : ctxCor (getT s d t) = false) :
    startIns (issued s d t) d t w false body =
      if ctxUnc (getT s d t) then
        faultErr (insStart s d t w) (raiseErr (insStart s d t w) d pgThr THR_ERR.SLICE_UNC (it2 t 0)) d t 7 0
      else if stepMax s d < (getT s d t).steps + 1 then
        faultErr (insStart s d t w) (raiseErr (insStart s d t w) d pgSeq SEQ_ERR.STEP (it1 (getT s d t).pc)) d t 2 0
      else body (insStart s d t w) (insThread s.cyc (getT s d t) w) w := by
  have hlimit : stepMax (insStart s d t w) d = stepMax s d := by
    rw [insStart, stepMax, getF_setT, ← stepMax, stepMax_countInstr, stepMax, (issueOnly_issued s d t).getF, ← stepMax]
  have hthread : insThread s.cyc (getT s d t) w = { getT s d t with
      st := .run, steps := (getT s d t).steps + 1, word := w, lastPc := (getT s d t).pc,
      readyAt := (countInstr (issued s d t) d).cyc + insCost (insOp w) } := by
    rw [cyc_countInstr, (issueOnly_issued s d t).cyc, insThread]
  have hstart : insStart s d t w = setT (countInstr (issued s d t) d) d t (insThread s.cyc (getT s d t) w) := rfl
  simp only [startIns, getT_issued, hn, hcor, Bool.false_eq_true, if_false, ← hthread, ← hstart, hlimit, ctxUnc_insThread]

end Fetch

/-- Settles O19: an instruction goes by its slot, its word, the resolution it needs, its context and its step limit, in this order. -/
theorem instructionFetchAndLimits : Obligations.InstructionFetchAndLimits := by
  rintro s d t op pc i u hcmd hcommit rfl rfl
  obtain ⟨body, hexec⟩ := insCmd_runIns s d t op i hcmd hcommit
  rw [hexec]
  refine ⟨fun hidle => by rw [runIns_idle hidle], issueOnly_settleIssue s d, issueOnly_issued s d t,
    fun a b c k hs => faultErr_at_once hs b c k, fun a b c k hs => faultErr_waits hs b c k, fun hrun =>
    ⟨fun w hok ho => by rw [runIns_otherWord hok ho], fun hslot hw => by rw [runIns_noSlot hrun hslot hw], fun hslot =>
      ⟨fun hbad => by rw [runIns_badWord hrun hslot hbad], ?_⟩⟩⟩
  rintro w v hok ho rfl
  rw [runIns_word hrun hslot hok ho]
  refine ⟨fun hn => ⟨fun hheld => ?_, fun hfree => ?_⟩, fun hn hcor => ⟨fun hunc => ?_, fun hctx hlimit => ?_⟩⟩
  · rw [startIns_unresolved hn, if_pos hheld]
  · rw [startIns_unresolved hn, if_neg (by simp [hfree])]
  · rw [startIns_checked hn hcor, if_pos hunc]
  · rw [startIns_checked hn hcor, if_neg (by simp [hctx]), if_pos hlimit]

end Sys2Proof.Machine
end

section
/-!
XTR, LIT, HSH and STAMP (R185 to R187, R190): what each writes into the slice, and how the thread goes on (R177).
-/

namespace Sys2Proof.Machine

section Slice

variable {s : State} {d t : Nat} {w : W64} {u : State} {th : Thread}

/-! ## What an instruction does once it starts (R180) -/

/-- A start that nothing stands in the way of runs the instruction's own body on the started state. -/
theorem exec_of_starts {i : Instr} {op : Nat} {body : State → Thread → W64 → State} (hi : exec i s = .next (runIns s d t op body))
    (h : Starts s d t w) (hu : u = insStart s d t w) (hth : th = insThread s.cyc (getT s d t) w) (ho : insOp w = op) :
    exec i s = .next (body u th w) := by
  subst hu hth
  rw [hi, exec_ins s d t op w h ho]

/-- A read that meets an uncorrectable slice word faults the thread (R215). -/
theorem reading_of_unc {a n : Nat} (h : readUnc th a n = true) (k : State → State) :
    reading u d t th a n k = faultErr u (sliceUnc u d t a) d t 7 0 := by
  rw [reading, if_pos h]

/-! ## How the thread goes on (R177, R215) -/

/-- A condition on an uncorrectable record faults the thread where it would go on. -/
theorem finish_setT_condUnc (v : Thread) (ok : Bool) (ho : (v.child && v.orphan) = false) (hc : condUnc v = true) :
    finish (setT u d t v) d t ok =
      faultErr (setT u d t v) (sliceUnc (setT u d t v) d t (0x100 + 32 * v.crec)) d t 7 0 := by
  simp [finish, ho, hc]

/-- A thread written by a started instruction goes on from the cycle of the start. -/
theorem finish_started (hu : u = insStart s d t w) (v : Thread) (ok : Bool) (ho : (v.child && v.orphan) = false)
    (hc : condUnc v = false) : finish (setT u d t v) d t ok = setT u d t (wentOn s.cyc v ok) := by
  rw [finish_setT _ _ _ _ _ ho hc, hu, insStart_cyc]

/-- Writing a field of the slice, a thread that is no orphan goes on with the field written. -/
theorem finish_putSlice (hu : u = insStart s d t w) (ho : (th.child && th.orphan) = false) {a n x : Nat}
    (hc : condUnc (putSlice th a n x) = false) :
    finish (setT u d t (putSlice th a n x)) d t true = setT u d t (wentOn s.cyc (putSlice th a n x) true) :=
  finish_started hu _ _ (by simpa using ho) hc

/-! ## XTR (R185) -/

/-- Slice bit that XTR reads from: a bit address in the bit form, a byte address in the byte form. -/
def xtrFrom (w : W64) : Nat := if opnd w 27 1 = 0 then opnd w 15 12 else 8 * opnd w 18 9

/-- Bits that XTR copies. -/
def xtrBits (w : W64) : Nat := if opnd w 27 1 = 0 then opnd w 0 5 + 1 else 8 * (opnd w 3 6 + 1)

/-- Slice bit that XTR writes to: the bit form writes into the key area. -/
def xtrTo (w : W64) : Nat := if opnd w 27 1 = 0 then 1024 + opnd w 5 10 else 8 * opnd w 9 9

/-- Both forms of XTR copy bits, and read the bytes that hold them. -/
theorem exec_xtr_of_starts (h : Starts s d t w) (hu : u = insStart s d t w) (hth : th = insThread s.cyc (getT s d t) w)
    (ho : insOp w = 1) : exec (.xtr d t) s =
      .next (reading u d t th (xtrFrom w / 8) ((xtrFrom w + xtrBits w - 1) / 8 - xtrFrom w / 8 + 1) fun v =>
        finish (setT v d t (putSlice th (xtrTo w) (xtrBits w) (readSlice th (xtrFrom w) (xtrBits w)))) d t true) := by
  rw [exec_of_starts (i := .xtr d t) rfl h hu hth ho]
  by_cases hbit : opnd w 27 1 = 0
  · simp only [xtrFrom, xtrBits, xtrTo, hbit, if_true]
  · have hbyte : 8 * opnd w 18 9 / 8 = opnd w 18 9 := by omega
    have hcount : (8 * opnd w 18 9 + 8 * (opnd w 3 6 + 1) - 1) / 8 - opnd w 18 9 + 1 = opnd w 3 6 + 1 := by omega
    simp only [xtrFrom, xtrBits, xtrTo, hbit, if_false, hbyte, hcount]

/-! ## HSH (R187) -/

/-- The seeds of the region of the partition that HSH names: of the store room, or of the cellar. -/
def hshSeeds (u : State) (d : Nat) (w : W64) : Nat × Nat :=
  if opnd w 19 1 = 0 then srSeeds u d (getF u d PART_REGION.SR_REGION (opnd w 20 8))
  else crSeeds u d (getF u d PART_REGION.CL_REGION (opnd w 20 8))

/-- The two hashes of a key of a width, the first above the second. -/
def hshPair (u : State) (d : Nat) (w : W64) (width : Nat) (key : Key) : Nat :=
  hashKey (hshSeeds u d w).1 key (widthBits width) * 2 ^ 32 + hashKey (hshSeeds u d w).2 key (widthBits width)

theorem exec_hsh_of_starts {width : Nat} (h : Starts s d t w) (hu : u = insStart s d t w)
    (hth : th = insThread s.cyc (getT s d t) w) (hwd : width = partWidth u d (opnd w 20 8)) (ho : insOp w = 3) : exec (.hsh d t) s =
      .next (reading u d t th 0x80 (widthBits width / 8) fun v =>
        finish (setT v d t (putSlice th (64 * opnd w 10 6) 64 (hshPair v d w width (keyOf th width)))) d t true) := by
  rw [exec_of_starts (i := .hsh d t) rfl h hu hth ho, hwd]
  rfl

/-! ## LIT and STAMP (R186, R190) -/

theorem exec_lit_of_starts (h : Starts s d t w) (hu : u = insStart s d t w) (hth : th = insThread s.cyc (getT s d t) w)
    (ho : insOp w = 2) : exec (.lit d t) s =
      .next (finish (setT u d t (putSlice th (1024 + 4 * opnd w 20 8) (opnd w 16 4 + 1) (opnd w 0 16))) d t true) := by
  rw [exec_of_starts (i := .lit d t) rfl h hu hth ho]

theorem exec_stamp_of_starts (h : Starts s d t w) (hu : u = insStart s d t w) (hth : th = insThread s.cyc (getT s d t) w)
    (ho : insOp w = 7) : exec (.stamp d t) s =
      .next (finish (setT u d t (putSlice th (64 * opnd w 22 6) 96
        (if opnd w 21 1 = 0 then capture u d s.cyc none else th.arr))) d t true) := by
  have hcyc : u.cyc = s.cyc := by rw [hu, insStart_cyc]
  rw [exec_of_starts (i := .stamp d t) rfl h hu hth ho, hcyc]

end Slice

/-- Settles O20: each of the four writes one field of the slice, after the read it makes, and goes on by its condition. -/
theorem sliceInstructionsCompute : Obligations.SliceInstructionsCompute := by
  intro s d t w u th h hu hth horphan
  refine ⟨fun v ok hv => ⟨finish_started hu v ok hv, finish_setT_condUnc v ok hv⟩, ?_, ?_, ?_, ?_⟩
  · rintro a n x v ho rfl rfl rfl rfl
    rw [exec_xtr_of_starts h hu hth ho]
    exact ⟨fun hunc => congrArg _ (reading_of_unc hunc _), fun hunc hcor hc =>
      congrArg _ ((reading_of_good _ _ _ _ _ _ _ hunc hcor).trans (finish_putSlice hu horphan hc))⟩
  · rintro v ho rfl hc
    rw [exec_lit_of_starts h hu hth ho, finish_putSlice hu horphan hc]
  · rintro p b seeds v ho rfl rfl rfl rfl
    rw [exec_hsh_of_starts h hu hth rfl ho]
    exact ⟨fun hunc => congrArg _ (reading_of_unc hunc _), fun hunc hcor hc =>
      congrArg _ ((reading_of_good _ _ _ _ _ _ _ hunc hcor).trans (finish_putSlice hu horphan hc))⟩
  · rintro v ho rfl hc
    rw [exec_stamp_of_starts h hu hth ho, finish_putSlice hu horphan hc]

end Sys2Proof.Machine
end

section
/-!
LOG, FORK and JOIN (R191 to R193): what each does once it starts.
-/

namespace Sys2Proof.Machine

section Parts

variable {s : State} {d t : Nat} {w : W64} {u : State} {th : Thread}

/-- In a started state the thread of the instruction is the one that its start left. -/
theorem getT_started (hu : u = insStart s d t w) (hth : th = insThread s.cyc (getT s d t) w) : getT u d t = th := by
  rw [hu, hth, insStart_getT]

/-! ## LOG (R191, R394, R404) -/

/-- LOG has nothing to log: the thread is a golden one, its request does not ask for evidence and the instruction does not force it,
or the part has no unit T. -/
def logIdle (u : State) (th : Thread) (w : W64) : Bool :=
  th.golden || !(hdrLog th.hdr || opnd w 24 1 == 1) || !u.part.unitT

/-- The part of an answer's evidence that LOG gives: a record of the slice, or the response as it was formed. -/
def logPart (u : State) (d : Nat) (th : Thread) (w : W64) : EvPart :=
  let a := answering u d th
  { die := d, req := a.req.getD 0, forced := opnd w 24 1 == 1 && !hdrLog th.hdr,
    bits := if opnd w 25 3 = 7 then th.respBits.getD 0 else recOf th (min (opnd w 25 3) 5),
    useResp := opnd w 25 3 == 7, chan := th.chan, digest := reqDigest a }

/-- The evidence part goes out with the answer that has left, or waits for the answer. -/
def logSent (u : State) (d t : Nat) (th : Thread) (p : EvPart) : State :=
  match (answering u d th).dep with
  | some dep => finish (sendEvidence u p (answering u d th).arr dep) d t true
  | none => finish { u with evd := { u.evd with parts := u.evd.parts ++ [p] } } d t true

/-- LOG of a record, or of the response, which the thread's own slice does not hold. -/
def logRun (d t : Nat) (th : Thread) (w : W64) (u : State) : State :=
  if !isF u 0 EVD_CTL.EN then finish (bump u 0 EVD_OFF.COUNT) d t true else logSent u d t th (logPart u d th w)

theorem exec_log_of_starts (h : Starts s d t w) (hu : u = insStart s d t w) (hth : th = insThread s.cyc (getT s d t) w)
    (ho : insOp w = 8) : exec (.log d t) s =
      .next (if logIdle u th w then finish u d t false
        else reading u d t th (0x100 + 32 * min (opnd w 25 3) 5) (if opnd w 25 3 = 7 then 0 else 32) (logRun d t th w)) :=
  (exec_of_starts (i := .log d t) rfl h hu hth ho :)

theorem exec_log_runs (h : Starts s d t w) (hu : u = insStart s d t w) (hth : th = insThread s.cyc (getT s d t) w)
    (ho : insOp w = 8) (hi : logIdle u th w = false)
    (hunc : readUnc th (0x100 + 32 * min (opnd w 25 3) 5) (if opnd w 25 3 = 7 then 0 else 32) = false)
    (hcor : readCor th (0x100 + 32 * min (opnd w 25 3) 5) (if opnd w 25 3 = 7 then 0 else 32) = false) :
    exec (.log d t) s = .next (logRun d t th w u) := by
  rw [exec_log_of_starts h hu hth ho, if_neg (by simp [hi]), reading_of_good _ _ _ _ _ _ _ hunc hcor]

theorem logRun_off (hen : isF u 0 EVD_CTL.EN = false) : logRun d t th w u = finish (bump u 0 EVD_OFF.COUNT) d t true := by
  simp [logRun, hen]

theorem logRun_on (hen : isF u 0 EVD_CTL.EN = true) : logRun d t th w u = logSent u d t th (logPart u d th w) := by
  simp [logRun, hen]

/-! ## FORK (R192, R218, R221) -/

/-- A thread is free for a child, and no FORK waits for one already. -/
def forkNow (u : State) (d : Nat) : Bool := forkRoom u d && (lowestFree u d).isSome && mget [] u.forkWait d == []

/-- The thread waits for a thread for its child, after the FORKs that wait already. -/
def forkQueued (d t : Nat) (w : W64) (v : State) : State :=
  let x := modT v d t fun y => { y with st := .waitJoin, wait := .fork (opnd w 14 14) (opnd w 10 3) v.cyc }
  { x with forkWait := mmod [] x.forkWait d fun l => l ++ [t] }

theorem exec_fork_of_starts (h : Starts s d t w) (hu : u = insStart s d t w) (hth : th = insThread s.cyc (getT s d t) w)
    (ho : insOp w = 9) : exec (.fork d t) s =
      .next (if (freeKid th).isNone then finish u d t false
        else if forkNow u d then reading u d t th 0x1C0 64 fun v => finish (startChild v d t (opnd w 14 14) (opnd w 10 3)) d t true
        else if opnd w 13 1 = 1 && getF u d THR_FORK_TMO.TMO != 0 then
          if mayNotWait th then faultThread u d t 6 0 else reading u d t th 0x1C0 64 (forkQueued d t w)
        else finish u d t false) :=
  (exec_of_starts (i := .fork d t) rfl h hu hth ho :)

theorem forkQueued_started (hu : u = insStart s d t w) (hth : th = insThread s.cyc (getT s d t) w) : forkQueued d t w u =
    { setT u d t { th with st := .waitJoin, wait := .fork (opnd w 14 14) (opnd w 10 3) s.cyc } with
      forkWait := mmod [] u.forkWait d fun l => l ++ [t] } := by
  have hcyc : u.cyc = s.cyc := by rw [hu, insStart_cyc]
  simp only [forkQueued, modT, getT_started hu hth, hcyc, setT_forkWait]

section Fork

variable (h : Starts s d t w) (hu : u = insStart s d t w) (hth : th = insThread s.cyc (getT s d t) w) (ho : insOp w = 9)

include h hu hth ho

theorem exec_fork_noKid (hk : freeKid th = none) : exec (.fork d t) s = .next (finish u d t false) := by
  rw [exec_fork_of_starts h hu hth ho, if_pos (by simp [hk])]

theorem exec_fork_now (hk : freeKid th ≠ none) (hn : forkNow u d = true) (hunc : readUnc th 0x1C0 64 = false)
    (hcor : readCor th 0x1C0 64 = false) :
    exec (.fork d t) s = .next (finish (startChild u d t (opnd w 14 14) (opnd w 10 3)) d t true) := by
  rw [exec_fork_of_starts h hu hth ho, if_neg (by simpa using hk), if_pos hn, reading_of_good _ _ _ _ _ _ _ hunc hcor]

/-- Without a free thread a FORK that is asked to waits, where there is a time-out. -/
theorem exec_fork_waits (hk : freeKid th ≠ none) (hn : forkNow u d = false) (hw : opnd w 13 1 = 1)
    (htmo : getF u d THR_FORK_TMO.TMO ≠ 0) : exec (.fork d t) s =
      .next (if mayNotWait th then faultThread u d t 6 0 else reading u d t th 0x1C0 64 (forkQueued d t w)) := by
  rw [exec_fork_of_starts h hu hth ho, if_neg (by simpa using hk), if_neg (by simp [hn]), if_pos (by simp [hw, htmo])]

theorem exec_fork_gives_up (hk : freeKid th ≠ none) (hn : forkNow u d = false)
    (hw : opnd w 13 1 = 0 ∨ getF u d THR_FORK_TMO.TMO = 0) : exec (.fork d t) s = .next (finish u d t false) := by
  rw [exec_fork_of_starts h hu hth ho, if_neg (by simpa using hk), if_neg (by simp [hn]),
    if_neg (by rcases hw with hw | hw <;> simp [hw])]

end Fork

/-! ## JOIN (R193) -/

/-- A child that the JOIN covers still runs. -/
def joinBlocked (th : Thread) (w : W64) : Bool := (th.kids.filter (covered (opnd w 21 7))).any fun k => !k.ended

theorem exec_join_of_starts (h : Starts s d t w) (hu : u = insStart s d t w) (hth : th = insThread s.cyc (getT s d t) w)
    (ho : insOp w = 10) : exec (.join d t) s =
      .next (if joinBlocked th w && mayNotWait th then faultThread u d t 6 0
        else parentCheck (setT u d t { th with st := .waitJoin, wait := .join (opnd w 21 7) (opnd w 18 3) }) d t) :=
  (exec_of_starts (i := .join d t) rfl h hu hth ho :)

end Parts

/-- Settles O22: LOG by what it may log and where to, FORK by its child slot and its thread, JOIN by the children it covers. -/
theorem logForkJoinComplete : Obligations.LogForkJoinComplete := by
  intro s d t w u th h hu hth
  refine ⟨fun ho => ⟨fun hi => ?_, fun hi hunc hcor => ?_⟩, fun ho => ⟨exec_fork_noKid h hu hth ho, fun hk =>
    ⟨exec_fork_now h hu hth ho hk, fun hn => ⟨fun hw htmo => ?_, exec_fork_gives_up h hu hth ho hk hn⟩⟩⟩, fun ho =>
    ⟨fun hheld hrun => ?_, fun hfree => ?_⟩⟩
  · rw [exec_log_of_starts h hu hth ho]
    exact congrArg _ (if_pos hi)
  · rw [exec_log_runs h hu hth ho hi hunc hcor]
    exact ⟨fun hen => by rw [logRun_off hen], fun hen => ⟨logPart u d th w, rfl, rfl, rfl, rfl, rfl, by rw [logRun_on hen]; rfl⟩⟩
  · rw [exec_fork_waits h hu hth ho hk hn hw htmo]
    exact ⟨fun hheld => by rw [if_pos hheld], fun hfree hunc hcor => by
      rw [if_neg (by simp [hfree]), reading_of_good _ _ _ _ _ _ _ hunc hcor, forkQueued_started hu hth]⟩
  · rw [exec_join_of_starts h hu hth ho, joinBlocked, hrun, hheld]
    rfl
  · have hgo : (joinBlocked th w && mayNotWait th) = false := by
      rcases hfree with hfree | hdone
      · rw [hfree, Bool.and_false]
      · have hnone : joinBlocked th w = false := by rw [joinBlocked, ← List.not_all_eq_any_not, hdone, Bool.not_true]
        rw [hnone, Bool.false_and]
    rw [exec_join_of_starts h hu hth ho, hgo]
    rfl

end Sys2Proof.Machine
end

section
/-!
SEND and WAITE (R194, R222): what each does once it starts, by the state of its event channel.
-/

namespace Sys2Proof.Machine

section Messages

variable {s : State} {d t : Nat} {w : W64} {u : State} {th : Thread}

/-! ## SEND -/

/-- A SEND must wait: the staging slot is held, another sender waits, or the queue is full. -/
def sendBlocked (u : State) (d ch : Nat) : Bool :=
  (getCh u d ch).holder.isSome || (getCh u d ch).senders != [] || decide (8 ≤ (getCh u d ch).queue.length)

theorem sendBlocked_eq_true_iff (u : State) (d ch : Nat) : sendBlocked u d ch = true ↔
    (getCh u d ch).holder ≠ none ∨ (getCh u d ch).senders ≠ [] ∨ 8 ≤ (getCh u d ch).queue.length := by
  simp [sendBlocked, Option.isSome_iff_ne_none, or_assoc]

/-- The words of the message that SEND sends. -/
def sendWords (th : Thread) (w : W64) : List Nat := sliceWords th (8 * opnd w 15 6) (opnd w 21 2 + 1)

/-- The thread waits as the channel's last sender, its words taken. -/
def sendQueued (v : State) (d t ch : Nat) (th : Thread) (ws : List Nat) : State :=
  setT (modCh v d ch fun e => { e with senders := e.senders ++ [t] }) d t { th with st := .waitEvent, wait := .send ch ws v.cyc }

/-- The thread takes the staging slot and sends its words. -/
def sendStaged (v : State) (d t ch : Nat) (th : Thread) (ws : List Nat) : State :=
  setT (modCh v d ch fun e => { e with holder := some t, staged := ws }) d t { th with st := .run, wait := .send ch ws v.cyc }

theorem exec_send_of_starts (h : Starts s d t w) (hu : u = insStart s d t w) (hth : th = insThread s.cyc (getT s d t) w)
    (ho : insOp w = 11) : exec (.send d t) s =
      .next (if th.golden then finish u d t false
        else if 0 < th.link || (th.lock && sendBlocked u d (opnd w 23 5)) then faultThread u d t 6 0
        else reading u d t th (8 * opnd w 15 6) (8 * (opnd w 21 2 + 1)) fun v =>
          if sendBlocked u d (opnd w 23 5) then sendQueued v d t (opnd w 23 5) th (sendWords th w)
          else sendStaged v d t (opnd w 23 5) th (sendWords th w)) :=
  (exec_of_starts (i := .send d t) rfl h hu hth ho :)

/-! ## WAITE -/

/-- WAITE of an empty channel waits as its last waiter; under a lock it may not, and faults. -/
def waiteEmpty (u : State) (d t ch : Nat) (th : Thread) (dst : Nat) : State :=
  if th.lock then faultThread u d t 6 0
  else setT (modCh u d ch fun e => { e with waiters := e.waiters ++ [t] }) d t { th with st := .waitEvent, wait := .waite ch dst u.cyc }

/-- WAITE takes the channel's oldest message. -/
def waiteTaken (u : State) (d t ch : Nat) (th : Thread) (dst : Nat) (m : List Nat) (rest : List (List Nat)) : State :=
  finish (setT (restartWindow (modCh u d ch fun e => { e with queue := rest }) d) d t (putWords th dst m)) d t true

/-- What WAITE does outside a linked sequence. -/
def waiteRun (u : State) (d t ch : Nat) (th : Thread) (dst : Nat) : State :=
  match (getCh u d ch).queue with
  | m :: rest => waiteTaken u d t ch th dst m rest
  | [] => waiteEmpty u d t ch th dst

theorem exec_waite_of_starts (h : Starts s d t w) (hu : u = insStart s d t w) (hth : th = insThread s.cyc (getT s d t) w)
    (ho : insOp w = 12) : exec (.waite d t) s =
      .next (if 0 < th.link then faultThread u d t 6 0 else waiteRun u d t (opnd w 23 5) th (8 * opnd w 17 6)) :=
  (exec_of_starts (i := .waite d t) rfl h hu hth ho :)

end Messages

/-- Settles O23: SEND by its channel's slot, senders and room, WAITE by its channel's queue, and both by lock and link. -/
theorem messagesSentAndTaken : Obligations.MessagesSentAndTaken := by
  rintro s d t w u th ch h hu hth rfl
  have hcyc : u.cyc = s.cyc := by rw [hu, insStart_cyc]
  refine ⟨fun ho hg => ?_, fun ho hg hlink hunc hcor => ?_, fun ho hlink => ?_, ?_⟩
  · rw [exec_send_of_starts h hu hth ho, if_pos hg]
  · rw [exec_send_of_starts h hu hth ho, if_neg (by simp [hg])]
    refine ⟨fun hslot hnone hroom => ?_, fun hlock hblocked => ?_, fun hlock hblocked => ?_⟩
    · have hfree : sendBlocked u d (opnd w 23 5) = false := by simp [sendBlocked, hslot, hnone, hroom]
      rw [hfree, if_neg (by simp [hlink]), reading_of_good _ _ _ _ _ _ _ hunc hcor, ← hcyc]
      rfl
    · rw [(sendBlocked_eq_true_iff ..).mpr hblocked, if_neg (by simp [hlink, hlock]), reading_of_good _ _ _ _ _ _ _ hunc hcor, ← hcyc]
      rfl
    · rw [(sendBlocked_eq_true_iff ..).mpr hblocked, if_pos (by simp [hlock])]
  · rw [exec_waite_of_starts h hu hth ho, if_neg (by simp [hlink])]
    refine ⟨fun m rest hq => ?_, fun hq hlock => ?_, fun hq hlock => ?_⟩
    · rw [waiteRun, hq]
      rfl
    · rw [waiteRun, hq, ← hcyc]
      simp only [waiteEmpty, hlock, Bool.false_eq_true, if_false]
    · rw [waiteRun, hq]
      simp only [waiteEmpty, hlock, if_true]
  · rintro (ho | ho) hg hlink
    · rw [if_pos ho, exec_send_of_starts h hu hth ho, if_neg (by simp [hg]), if_pos (by simp [hlink])]
    · rw [if_neg (by simp [ho]), exec_waite_of_starts h hu hth ho, if_pos hlink]

end Sys2Proof.Machine
end

section
/-!
COMMIT, EMIT, TRAP and END (R195 to R197): what each does once it starts.
-/

namespace Sys2Proof.Machine

section Ends

variable {s : State} {d t : Nat} {w : W64} {u : State} {th : Thread}

/-! ## COMMIT (R195, R226) -/

/-- COMMIT waits for its completion. -/
def commitWaits (w : W64) : Bool := opnd w 25 1 == 1

/-- COMMIT asks to be linked to the next one. -/
def commitLinks (w : W64) : Bool := opnd w 24 1 == 1

/-- The update entry that COMMIT sends, from its area of the slice. -/
def commitEntry (th : Thread) (w : W64) : BitVec 512 := BitVec.ofNat 512 (readSlice th (8 * commitArea w) 512)

/-- With commits disabled COMMIT fails, posts its completion record when it waits, and without LINK ends the open sequence (log 96). -/
def commitRefused (v : State) (d t : Nat) (th : Thread) (w : W64) (e : BitVec 512) : State :=
  let (w0, w1, w2, w3) := cplWords 2 (ceOp e) (ceTag e) (ceGra e) 0 0 0
  let th := if commitLinks w then th else { th with link := 0 }
  let v := if commitLinks w then v else closeLink v d t
  finish (setT v d t (if commitWaits w then putRec th (opnd w 21 3) (cplRec w0 w1 w2 w3) else th)) d t false

/-- The command stays linked: LINK asks for it, and the sequence has room. -/
def staysLinked (th : Thread) (w : W64) : Bool := commitLinks w && decide (th.link + 1 < 4)

/-- The state with the command sent and the thread's sequence open or closed. -/
def commitPosted (v : State) (d t : Nat) (th : Thread) (w : W64) (e : BitVec 512) : State :=
  let x := sendCmd v d 0x49 (.commit d t) e (staysLinked th w)
  let x := if staysLinked th w then x else closeLink x d t
  setT x d t { th with link := if staysLinked th w then th.link + 1 else 0 }

/-- COMMIT sends its entry, and goes on or waits for the completion. -/
def commitSent (v : State) (d t : Nat) (th : Thread) (w : W64) (e : BitVec 512) : State :=
  if commitWaits w then
    modT (commitPosted v d t th w e) d t fun x => { x with st := .waitMem, wait := .commit v.nextId (opnd w 21 3) }
  else finish (commitPosted v d t th w e) d t true

/-- What COMMIT does with the entry it has read. -/
def commitRun (d t : Nat) (th : Thread) (w : W64) (v : State) : State :=
  if th.golden then finish v d t false
  else if !isF v d UPD_CTL.COMMIT_EN || !isF v d UPD_CTL.EN then commitRefused v d t th w (commitEntry th w)
  else commitSent v d t th w (commitEntry th w)

theorem exec_commit_of_starts (h : Starts s d t w) (hu : u = insStart s d t w) (hth : th = insThread s.cyc (getT s d t) w)
    (ho : insOp w = 13) (hopen : sequenceOpen s d t = false) : exec (.commit d t) s =
      .next (if commitWaits w && (commitLinks w || th.lock) then faultThread u d t 6 0
        else if commitWaits w && reserved th (opnd w 21 3) then faultThread u d t 4 0
        else reading u d t th (commitArea w) 64 (commitRun d t th w)) := by
  have hrun : exec (.commit d t) s = .next (runIns s d t 13 _) := congrArg Host.Outcome.next (if_neg (by simp [hopen]))
  exact (exec_of_starts hrun h hu hth ho :)

section Commit

variable {v : State} {e : BitVec 512}

theorem commitPosted_linked (hs : staysLinked th w = true) :
    commitPosted v d t th w e = setT (sendCmd v d 0x49 (.commit d t) e true) d t { th with link := th.link + 1 } := by
  simp only [commitPosted, hs, if_true]

theorem commitPosted_closed (hs : staysLinked th w = false) : commitPosted v d t th w e =
    setT (closeLink (sendCmd v d 0x49 (.commit d t) e false) d t) d t { th with link := 0 } := by
  simp only [commitPosted, hs, Bool.false_eq_true, if_false]

theorem commitSent_linked (hw : commitWaits w = false) (hl : commitLinks w = true) (hn : th.link + 1 < 4) : commitSent v d t th w e =
    finish (setT (sendCmd v d 0x49 (.commit d t) e true) d t { th with link := th.link + 1 }) d t true := by
  rw [commitSent, if_neg (by simp [hw]), commitPosted_linked (by simp [staysLinked, hl, hn])]

theorem commitSent_closed (hw : commitWaits w = false) (hl : commitLinks w = false ∨ 4 ≤ th.link + 1) : commitSent v d t th w e =
    finish (setT (closeLink (sendCmd v d 0x49 (.commit d t) e false) d t) d t { th with link := 0 }) d t true := by
  rw [commitSent, if_neg (by simp [hw]), commitPosted_closed]
  rcases hl with hl | hl <;> simp [staysLinked, hl]

/-- A COMMIT that waits asks for no link, so the sequence is closed. -/
theorem commitSent_waits (hw : commitWaits w = true) (hl : commitLinks w = false) : commitSent v d t th w e =
    setT (closeLink (sendCmd v d 0x49 (.commit d t) e false) d t) d t
      { th with link := 0, st := .waitMem, wait := .commit v.nextId (opnd w 21 3) } := by
  rw [commitSent, if_pos hw, commitPosted_closed (by simp [staysLinked, hl]), modT, getT_setT_self, setT_setT]

theorem commitRun_golden (hg : th.golden = true) : commitRun d t th w v = finish v d t false := by
  rw [commitRun, if_pos hg]

theorem commitRun_refused (hg : th.golden = false) (hoff : isF v d UPD_CTL.COMMIT_EN = false ∨ isF v d UPD_CTL.EN = false) :
    commitRun d t th w v = commitRefused v d t th w (commitEntry th w) := by
  rw [commitRun, if_neg (by simp [hg]), if_pos (by simpa using hoff)]

theorem commitRun_sent (hg : th.golden = false) (hc : isF v d UPD_CTL.COMMIT_EN = true) (hen : isF v d UPD_CTL.EN = true) :
    commitRun d t th w v = commitSent v d t th w (commitEntry th w) := by
  rw [commitRun, if_neg (by simp [hg]), if_neg (by simp [hc, hen])]

/-- The completion record of a refused command stands in the thread's record when it waits. -/
theorem commitRefused_eq {w0 w1 w2 w3 : Nat} (hc : cplWords 2 (ceOp e) (ceTag e) (ceGra e) 0 0 0 = (w0, w1, w2, w3)) :
    commitRefused v d t th w e = finish (setT (if commitLinks w then v else closeLink v d t) d t
      (if commitWaits w then putRec (if commitLinks w then th else { th with link := 0 }) (opnd w 21 3) (cplRec w0 w1 w2 w3)
        else if commitLinks w then th else { th with link := 0 })) d t false := by
  rw [commitRefused, hc]

end Commit

/-! ## EMIT (R196, R234, R269) -/

/-- EMIT answers with two records. -/
def emitsTwo (w : W64) : Bool := opnd w 24 1 == 1 && opnd w 20 4 == 15

/-- The record that EMIT answers with. -/
def emitRec (th : Thread) (w : W64) : BitVec 256 := if opnd w 20 4 = 15 then recOf th (opnd w 25 3) else encRec { status := opnd w 20 4 }

/-- The notice of a deferred answer is formed, and the thread waits for it. -/
def emitNotice (v : State) (d t : Nat) (th : Thread) (w : W64) : State :=
  pushNotice (setT v d t { th with deferred := false, st := .waitMem, wait := .notice }) d th.chan (hdrTag th.hdr) (hdrRecipe th.hdr)
    (decRec (emitRec th w)).status (emitsTwo w) false (emitRec th w) (if emitsTwo w then recOf th (opnd w 25 3 + 1) else 0) (some t)

/-- The response that EMIT forms. -/
def emitResp (th : Thread) (w : W64) : Resp :=
  { status := (decRec (emitRec th w)).status, rec1 := emitRec th w,
    rec2 := if emitsTwo w then some (recOf th (opnd w 25 3 + 1)) else none, wr := none, deferred := false }

/-- What EMIT does with the records it has read. -/
def emitRun (d t : Nat) (th : Thread) (w : W64) (v : State) : State :=
  if th.child then finish (modT v d th.parent fun p => putRecBoth p th.rrec (emitRec th w)) d t true
  else if th.deferred then if mayNotWait th then faultThread v d t 6 0 else emitNotice v d t th w
  else if th.sent then if th.aborted then finish (bump v d DBG_LATE_EMIT.COUNT) d t true else faultThread v d t 5 0
  else finish (formResp v d t (emitResp th w)) d t true

theorem exec_emit_of_starts (h : Starts s d t w) (hu : u = insStart s d t w) (hth : th = insThread s.cyc (getT s d t) w)
    (ho : insOp w = 14) : exec (.emit d t) s =
      .next (reading u d t th (0x100 + 32 * opnd w 25 3) (if emitsTwo w then 64 else 32) (emitRun d t th w)) :=
  (exec_of_starts (i := .emit d t) rfl h hu hth ho :)

section Emit

variable {v : State}

theorem emitRun_child (hc : th.child = true) :
    emitRun d t th w v = finish (modT v d th.parent fun p => putRecBoth p th.rrec (emitRec th w)) d t true := by
  rw [emitRun, if_pos hc]

/-- A deferred answer goes as a notice, for which the thread waits where it may. -/
theorem emitRun_deferred (hc : th.child = false) (hdef : th.deferred = true) :
    emitRun d t th w v = if mayNotWait th then faultThread v d t 6 0 else emitNotice v d t th w := by
  rw [emitRun, if_neg (by simp [hc]), if_pos hdef]

/-- A second answer is a fault, unless the debugger aborted the first. -/
theorem emitRun_again (hc : th.child = false) (hdef : th.deferred = false) (hsent : th.sent = true) :
    emitRun d t th w v = if th.aborted then finish (bump v d DBG_LATE_EMIT.COUNT) d t true else faultThread v d t 5 0 := by
  rw [emitRun, if_neg (by simp [hc]), if_neg (by simp [hdef]), if_pos hsent]

theorem emitRun_answers (hc : th.child = false) (hdef : th.deferred = false) (hsent : th.sent = false) :
    emitRun d t th w v = finish (formResp v d t (emitResp th w)) d t true := by
  rw [emitRun, if_neg (by simp [hc]), if_neg (by simp [hdef]), if_neg (by simp [hsent])]

end Emit

/-! ## TRAP and END (R197) -/

theorem exec_trap_of_starts (h : Starts s d t w) (hu : u = insStart s d t w) (hth : th = insThread s.cyc (getT s d t) w)
    (ho : insOp w = 15) : exec (.trap d t) s = .next (faultThread u d t 1 (opnd w 20 8)) :=
  (exec_of_starts (i := .trap d t) rfl h hu hth ho :)

theorem exec_end_of_starts (h : Starts s d t w) (hu : u = insStart s d t w) (hth : th = insThread s.cyc (getT s d t) w)
    (ho : insOp w = 16) : exec (.endThread d t) s =
      .next (if th.child then childEnd u d t false
        else if th.kids.any fun k => !k.ended then
          if mayNotWait th then faultThread u d t 6 0 else setT u d t { th with st := .waitJoin, wait := .kids }
        else endTop u d t) :=
  (exec_of_starts (i := .endThread d t) rfl h hu hth ho :)

end Ends

/-- Settles O24: COMMIT by its wait, its link and the engine's switches, EMIT by who is answered, END by the children left. -/
theorem commitEmitTrapEnd : Obligations.CommitEmitTrapEnd := by
  intro s d t w u th h hu hth
  refine ⟨?_, ?_, exec_trap_of_starts h hu hth, fun ho => ?_⟩
  · rintro a waitc link r e ho hopen rfl (rfl : waitc = commitWaits w) (rfl : link = commitLinks w) rfl (rfl : e = commitEntry th w)
    rw [exec_commit_of_starts h hu hth ho hopen]
    refine ⟨fun hw hl => ?_, fun hw hl hlock hr => ?_, fun hgo => ?_⟩
    · rw [if_pos (by simpa [hw] using hl)]
    · rw [if_neg (by simp [hl, hlock]), if_pos (by simp [hw, hr])]
    · have hwait : (commitWaits w && (commitLinks w || th.lock)) = false ∧ (commitWaits w && reserved th (opnd w 21 3)) = false := by
        rcases hgo with hw | ⟨hl, hlock, hr⟩
        · simp [hw]
        · simp [hl, hlock, hr]
      rw [if_neg (by simp [hwait.1]), if_neg (by simp [hwait.2])]
      refine ⟨fun hunc => by rw [reading_of_unc hunc], fun hunc hcor => ?_⟩
      rw [reading_of_good _ _ _ _ _ _ _ hunc hcor]
      refine ⟨fun hg => by rw [commitRun_golden hg], ?_, fun hg hc hen => ?_⟩
      · rintro v y w0 w1 w2 w3 hg hoff rfl rfl hcpl
        rw [commitRun_refused hg hoff, commitRefused_eq hcpl]
      · rw [commitRun_sent hg hc hen]
        refine ⟨fun hw hl hn => by rw [commitSent_linked hw hl hn], fun hw hl => by rw [commitSent_closed hw hl], fun hw => ?_⟩
        have hl : commitLinks w = false := by simpa [hw] using hgo.imp_right And.left
        rw [commitSent_waits hw hl]
  · rintro r two x ho rfl (rfl : two = emitsTwo w) (rfl : x = emitRec th w)
    rw [exec_emit_of_starts h hu hth ho]
    refine ⟨fun hunc => by rw [reading_of_unc hunc], fun hunc hcor => ?_⟩
    rw [reading_of_good _ _ _ _ _ _ _ hunc hcor]
    refine ⟨fun hc => ?_, fun hc hdef => ⟨fun hheld => ?_, fun hfree => ?_⟩, fun hc hdef hsent => ⟨fun hab => ?_, fun hab => ?_⟩,
      fun hc hdef hsent => ?_⟩
    · rw [emitRun_child hc]
    · rw [emitRun_deferred hc hdef, if_pos hheld]
    · rw [emitRun_deferred hc hdef, if_neg (by simp [hfree])]
      rfl
    · rw [emitRun_again hc hdef hsent, if_pos hab]
    · rw [emitRun_again hc hdef hsent, if_neg (by simp [hab])]
    · rw [emitRun_answers hc hdef hsent]
      rfl
  · rw [exec_end_of_starts h hu hth ho]
    refine ⟨fun hc => by rw [if_pos hc], fun hc hall => ?_, fun hc hany => ?_⟩
    · rw [if_neg (by simp [hc]), ← List.not_all_eq_any_not, hall, Bool.not_true, if_neg Bool.false_ne_true]
    · rw [if_neg (by simp [hc]), if_pos hany]
      exact ⟨fun hheld => by rw [if_pos hheld], fun hfree => by rw [if_neg (by simp [hfree])]⟩

end Sys2Proof.Machine
end

section
/-!
Speculation that resolves (R203), recipe words that are restored (R172), and fetches of reserved opcodes (R176).
-/

namespace Sys2Proof.Machine

section Resolve

variable {s : State} {d t : Nat} {th : Thread} {v : BitVec 256} {x : Thread} {word : W64} {r : Nat} {ok : Bool} {held : Option Held}

/-! ## Confirmed and squashed (R203) -/

/-- The real record equals the predicted one in its match fields. -/
def confirms (th : Thread) (v : BitVec 256) : Prop :=
  encRec (matchFields (decRec v)) = encRec (matchFields (decRec (recOf th th.specRec)))

/-- The thread of a confirmed speculation: its area is its slice, with the real records in it. -/
def confirmedThread (th : Thread) (v : BitVec 256) : Thread :=
  putReal { th with slice := sliceView th, unc := execSpeculationResolve.moveBits th.unc, cor := execSpeculationResolve.moveBits th.cor,
                    spec := false, real := none, real2 := none, held := none }
    th.specRec { decRec v with spec := true, pend := false } th.real2

/-- The thread of a squashed speculation: its area is dropped, the real records stand in its slice, and it starts late. -/
def squashedThread (cyc : Nat) (th : Thread) (v : BitVec 256) : Thread :=
  putReal { th with unc := execSpeculationResolve.dropArea th.unc, cor := execSpeculationResolve.dropArea th.cor, spec := false,
                    real := none, real2 := none, held := none, readyAt := cyc + 4 }
    th.specRec { decRec v with spec := false, pend := false } th.real2

theorem execSpeculationResolve_confirms (hth : th = getT s d t) (hr : th.real = some v) (hs : th.spec = true) (hm : confirms th v) :
    execSpeculationResolve d t s = .next (resumeConfirmed (modEnt s d th.specEnt fun y => { y with use := wrapInc 32 y.use 1 }) d t
      (confirmedThread th v) th.specWord th.specRec (decide ((decRec v).status < 2)) th.held) := by
  subst hth
  simp only [execSpeculationResolve, hr, hs, Bool.not_true, Bool.false_eq_true, if_false]
  exact congrArg _ (if_pos hm)

theorem execSpeculationResolve_squashes (hth : th = getT s d t) (hr : th.real = some v) (hs : th.spec = true) (hm : ¬ confirms th v) :
    execSpeculationResolve d t s =
      .next (finish (setT (dropSpeculative (modEnt s d th.specEnt fun y => { y with squash := wrapInc 32 y.squash 1 }) d t) d t
        { squashedThread s.cyc th v with crec := th.specRec, word := th.specWord }) d t (decide ((decRec v).status < 2))) := by
  subst hth
  simp only [execSpeculationResolve, hr, hs, Bool.not_true, Bool.false_eq_true, if_false]
  exact congrArg _ (if_neg hm)

/-! ## What a confirmed thread does next (R203) -/

theorem resumeConfirmed_again (hw : x.wait = .resolve) : resumeConfirmed s d t x word r ok held = setT s d t (again s.cyc x) := by
  simp only [resumeConfirmed, hw]

theorem resumeConfirmed_test (hw : x.wait = .record r) :
    resumeConfirmed s d t x word r ok held = finish (setT s d t { x with word := word }) d t ok := by
  simp only [resumeConfirmed, hw, if_true]

theorem resumeConfirmed_other {q : Nat} (hw : x.wait = .record q) (hq : q ≠ r) : resumeConfirmed s d t x word r ok none = setT s d t x := by
  simp only [resumeConfirmed, hw, hq, if_false]

theorem resumeConfirmed_held {q : Nat} {h : Held} (hw : x.wait = .record q) (hq : q ≠ r) : resumeConfirmed s d t x word r ok (some h) =
    startFetch (setT s d t x) d t h.rno h.region h.srRgn h.key h.width h.ent := by
  simp only [resumeConfirmed, hw, hq, if_false]

end Resolve

section Words

variable {s : State} {d t a : Nat} {w : W64}

/-! ## Restored words (R172) -/

theorem restoreWord_readable (h : recipeFetch s d a ≠ .bad) : restoreWord s d a = s := by
  unfold restoreWord
  split
  · next hbad => exact absurd hbad h
  · rfl

theorem restoreWord_rewrites {v : Nat} (h : recipeFetch s d a = .bad)
    (hv : ((restoreOrder s d).filter fun e => !fenced s e).findSome? (fun e => (recipeFetch s e a).data?) = some v) :
    restoreWord s d a = { s with
      recipe := mset ⟨0, 0⟩ s.recipe (d * 16384 + a % 16384) ⟨BitVec.ofNat 64 v, BitVec.ofNat 8 (secField 64 7 v)⟩ } := by
  simp only [restoreWord, h, hv]

/-! ## Reserved opcodes (R176) -/

theorem execUnusedOpcodeFetch_word (hrun : canRun s d t = true) (hf : recipeFetch s d (getT s d t).pc = .ok w.toNat) :
    execUnusedOpcodeFetch d t s = if reservedOp (insOp w) then .fault .reservedOpcode else .next s := by
  simp only [execUnusedOpcodeFetch, hrun, if_true, hf, Ecc.data?, BitVec.ofNat_toNat, BitVec.setWidth_eq]

theorem execUnusedOpcodeFetch_idle (hrun : canRun s d t = false) : execUnusedOpcodeFetch d t s = .next s := by
  rw [execUnusedOpcodeFetch, if_neg (by simp [hrun])]

end Words

/-- Settles O25: a resolution by the match fields and the wait it ends, a word by its check field, a fetch by its opcode. -/
theorem speculationResolvesAndWordsRestore : Obligations.SpeculationResolvesAndWordsRestore := by
  intro s d t
  refine ⟨?_, fun a h => congrArg _ (restoreWord_readable h), fun a v h hv => congrArg _ (restoreWord_rewrites h hv),
    fun w hrun hf => ⟨fun hres => ?_, fun hres => ?_⟩, execUnusedOpcodeFetch_idle⟩
  · rintro v th real pred hth hr hs rfl rfl
    refine ⟨?_, ?_⟩
    · rintro u x hm rfl (rfl : x = confirmedThread th v)
      have hgo := execSpeculationResolve_confirms hth hr hs hm
      refine ⟨fun hw => hgo.trans ?_, fun hw => hgo.trans ?_, fun q hw hq => ⟨fun hheld => hgo.trans ?_, fun h hheld => hgo.trans ?_⟩⟩
      · rw [resumeConfirmed_again hw]
      · rw [resumeConfirmed_test hw]
      · rw [hheld, resumeConfirmed_other hw hq]
      · rw [hheld, resumeConfirmed_held hw hq]
    · rintro u x hm rfl (rfl : x = squashedThread s.cyc th v)
      exact execSpeculationResolve_squashes hth hr hs hm
  · exact (execUnusedOpcodeFetch_word hrun hf).trans (if_pos hres)
  · exact (execUnusedOpcodeFetch_word hrun hf).trans (if_neg (by simp [hres]))

end Sys2Proof.Machine
end

section
/-!
How the waits of a thread end: messages and their time-outs (R194, R222), waiting FORKs (R192, R221), the supervisor (R228),
release (R227) and the quiescence detector (R231, R232).
-/

namespace Sys2Proof.Machine

/-! ## Event channels (R194, R222) -/

section Events

variable {s : State} {d ch t : Nat}

/-- The channel's first sender takes the staging slot with its words. -/
def slotTaken (s : State) (d ch t : Nat) (ws : List Nat) (rest : List Nat) : State :=
  modCh s d ch fun e => { e with holder := some t, staged := ws, senders := rest }

/-- A sender that took the slot runs again, or is to run when it is resumed. -/
def sendRuns (cyc : Nat) (th : Thread) : Thread :=
  if th.st = .halted then { th with rem := .run, haltAt := cyc } else { th with st := .run }

theorem execSendSlotGrant_takes {rest ws : List Nat} {n x : Nat} {th : Thread} (hs : (getCh s d ch).senders = t :: rest)
    (hth : th = getT s d t) (hw : th.wait = .send n ws x) (hh : (getCh s d ch).holder = none)
    (hroom : (getCh s d ch).queue.length < 8) :
    execSendSlotGrant d ch s = .next (quiet (setT (slotTaken s d ch t ws rest) d t (sendRuns s.cyc th)) d) := by
  subst hth
  have hfree : ((getCh s d ch).holder.isSome || decide (8 ≤ (getCh s d ch).queue.length)) = false := by simp [hh, hroom]
  simp only [execSendSlotGrant, hs, hw, hfree, Bool.false_eq_true, if_false, beq_iff_eq, slotTaken, sendRuns]
  rfl

theorem execMessageVisible_queues (hh : (getCh s d ch).holder = some t) (hrun : (getT s d t).st = .run) :
    execMessageVisible d ch s = .next (takeMessage (finish (restartWindow
      (modCh s d ch fun e => { e with queue := e.queue ++ [e.staged], staged := [], holder := none }) d) d t true) d ch) := by
  simp only [execMessageVisible, hh, hrun, beq_self_eq_true, if_true]

theorem takeMessage_hands {m : List Nat} {q : List (List Nat)} {w n dst x : Nat} {ws : List Nat} (hq : (getCh s d ch).queue = m :: q)
    (hws : (getCh s d ch).waiters = w :: ws) (hw : (getT s d w).wait = .waite n dst x) {v : State}
    (hv : v = restartWindow (modCh s d ch fun e => { e with queue := q, waiters := ws }) d) :
    takeMessage s d ch = finish (setT v d w (putWords (getT v d w) dst m)) d w true := by
  subst hv
  simp only [takeMessage, hq, hws, hw]

/-- The thread leaves the channel's waiting lists and its instruction fails. -/
def eventMissed (s : State) (d ch t : Nat) : State :=
  quiet (finish (modCh s d ch fun e => { e with senders := e.senders.filter (· != t), waiters := e.waiters.filter (· != t) })
    d t false) d

theorem execEventTimeout_noLimit (h : getF s d THR_EVT_TMO.TMO = 0) : execEventTimeout d t s = .next s :=
  congrArg _ (if_pos h)

theorem execEventTimeout_send {a : List Nat} {b : Nat} (h : getF s d THR_EVT_TMO.TMO ≠ 0) (hw : (getT s d t).wait = .send ch a b)
    (hc : (getCh s d ch).senders.contains t = true) : execEventTimeout d t s = .next (eventMissed s d ch t) := by
  simp only [execEventTimeout, h, if_false, hw, hc, if_true, eventMissed]

theorem execEventTimeout_waite {a b : Nat} (h : getF s d THR_EVT_TMO.TMO ≠ 0) (hw : (getT s d t).wait = .waite ch a b)
    (hc : (getCh s d ch).waiters.contains t = true) : execEventTimeout d t s = .next (eventMissed s d ch t) := by
  simp only [execEventTimeout, h, if_false, hw, hc, if_true, eventMissed]

end Events

/-! ## Waiting FORKs (R192, R221) -/

section Forks

variable {s : State} {d t target rrec x : Nat} {rest : List Nat}

theorem execForkWaitGrant_starts (hq : mget [] s.forkWait d = t :: rest) (hw : (getT s d t).wait = .fork target rrec x)
    (hroom : forkRoom s d = true) (hfree : lowestFree s d ≠ none) : execForkWaitGrant d s =
      .next (finish (startChild { s with forkWait := mset [] s.forkWait d rest } d t target rrec) d t true) := by
  have hsome : (lowestFree s d).isSome = true := Option.isSome_iff_ne_none.mpr hfree
  simp only [execForkWaitGrant, hq, hw, hroom, hsome, Bool.and_self, if_true]

theorem execForkWaitGrant_waits (hq : mget [] s.forkWait d = t :: rest) (hw : (getT s d t).wait = .fork target rrec x)
    (hroom : forkRoom s d = false) : execForkWaitGrant d s = .next s := by
  simp only [execForkWaitGrant, hq, hw, hroom, Bool.false_and, Bool.false_eq_true, if_false]

theorem execForkTimeout_fails (hw : (getT s d t).wait = .fork target rrec x) : execForkTimeout d t s =
    .next (finish { s with forkWait := mmod [] s.forkWait d fun l => l.filter (· != t) } d t false) := by
  simp only [execForkTimeout, hw]

end Forks

/-! ## The supervisor (R228) and release (R227) -/

section Supervisor

variable {s : State} {d : Nat}

theorem execFaultNoticeDispatch_starts {n e : Nat} {rest : List Nat} (hq : mget [] s.fltq d = n :: rest) (hfree : (getT s d 0).st = .free)
    (he : e = getF s d THR_SUP.ENTRY) (hv : isF s d (SEQ_ENTRY.VALID e) = true) (hg : gone s d = false) :
    execFaultNoticeDispatch d s = .next (setT { s with fltq := mset [] s.fltq d rest } d 0
      { Thread.zero with st := .ready, pc := getF s d (SEQ_ENTRY.START e), slice := setBE 0 (8 * 0x1C0) 128 n, readyAt := s.cyc,
                         supPage := noticePage (n / 2 ^ 96) }) := by
  subst he
  simp only [execFaultNoticeDispatch, hq, hfree, hv, hg, beq_self_eq_true, Bool.not_false, Bool.and_self, if_true]
  rfl

theorem execThreadRelease_frees {t val : Nat} (ht : t = val % 512) (hst : (getT s d t).st = .faulted)
    (hk : ∀ k ∈ (getT s d t).kids, k.ended = true) : execThreadRelease d val s = .next (freeT s d t) := by
  subst ht
  exact congrArg _ (if_pos (by simpa [hst] using hk))

theorem execThreadRelease_kept {t val : Nat} (ht : t = val % 512) (hk : ∃ k ∈ (getT s d t).kids, k.ended = false) :
    execThreadRelease d val s = .next s := by
  subst ht
  exact congrArg _ (if_neg (by simpa using fun _ => hk))

end Supervisor

/-! ## The quiescence detector (R231, R232) -/

section Quiescence

variable {s : State} {d : Nat}

/-- The state in which the detector has fired and counted it. -/
def quiesceFired (s : State) (d : Nat) : State :=
  bumpSat (detectorNotice { s with quiesce := mset 0 s.quiesce d 1 } d 0x10 (eventSet s d).length) d THR_QUIESCE_CNT.FIRES

theorem execQuiesceFire_fires {u : State} (hu : u = quiesceFired s d) (hen : isF s d THR_CTL.QUIESCE_EN = true) (hes : eventSet s d ≠ [])
    (hq : mget 0 s.quiesce d = 0) : execQuiesceFire d s = .next (
      if (eventSet s d).contains 0 then
        raiseErr (raiseErr u d pgThr THR_ERR.QUIESCE (it1 (0x10 * 2 ^ 24))) d pgThr THR_ERR.QSUP (it1 (0x10 * 2 ^ 24))
      else raiseErr u d pgThr THR_ERR.QUIESCE (it1 (0x10 * 2 ^ 24))) := by
  subst hu
  exact congrArg _ (if_neg (by simp [hen, hes, hq]))

theorem execQuiesceKill_empty (hq : mget 0 s.quiesce d = 1) (hk : getF s d THR_QUIESCE_KILL.KILL ≠ 0) (hes : eventSet s d = []) :
    execQuiesceKill d s = .next (restartWindow s d) :=
  congrArg _ ((if_neg (by simp [hq, hk])).trans (if_pos (by simp [hes])))

/-- The state in which the detector has recorded its kill. -/
def killRecorded (s : State) (d : Nat) : State :=
  raiseErr (bumpSat (detectorNotice s d 8 (eventSet s d).length) d THR_QUIESCE_CNT.KILLS) d pgThr THR_ERR.QKILL (it1 (8 * 2 ^ 24))

theorem execQuiesceKill_kills {u : State} {kids tops : List Nat} (hq : mget 0 s.quiesce d = 1)
    (hk : getF s d THR_QUIESCE_KILL.KILL ≠ 0) (hes : eventSet s d ≠ []) (hkids : kids = (eventSet s d).filter fun t => (getT s d t).child)
    (htops : tops = (eventSet s d).filter fun t => !(getT s d t).child) (hu : u = killRecorded s d) :
    execQuiesceKill d s = .next (restartWindow ((kids ++ tops).foldl (fun s t => quiesceEnd s d t)
      (tops.foldl (fun s t => deviceAnswer s d t 10) u)) d) := by
  subst hkids htops hu
  exact congrArg _ ((if_neg (by simp [hq, hk])).trans (if_neg (by simp [hes])))

end Quiescence

/-- Settles O26: each wait by the command that ends it. -/
theorem threadWaitsEnd : Obligations.ThreadWaitsEnd := by
  intro s d ch t
  refine ⟨?_, ?_, fun m q w ws n dst x v hq hws hw hv => takeMessage_hands hq hws hw hv, ?_, fun rest target rrec x hq hw =>
    ⟨execForkWaitGrant_starts hq hw, execForkWaitGrant_waits hq hw⟩, fun target rrec x hw => execForkTimeout_fails hw, ?_,
    fun val ht hst => ⟨execThreadRelease_frees ht hst, execThreadRelease_kept ht⟩, fun u hu hen hes hq => execQuiesceFire_fires hu hen hes hq,
    fun hq hk => ⟨execQuiesceKill_empty hq hk, fun u kids tops hes hkids htops hu => execQuiesceKill_kills hq hk hes hkids htops hu⟩⟩
  · rintro rest ws n x v th hs hth hw hh hroom rfl
    exact execSendSlotGrant_takes hs hth hw hh hroom
  · rintro v hh hrun rfl
    exact execMessageVisible_queues hh hrun
  · rintro v rfl
    refine ⟨execEventTimeout_noLimit, fun h => ?_⟩
    rintro (⟨a, b, hw, hc⟩ | ⟨a, b, hw, hc⟩)
    · exact execEventTimeout_send h hw hc
    · exact execEventTimeout_waite h hw hc
  · rintro n rest e w hq rfl hfree he hv hg
    exact execFaultNoticeDispatch_starts hq hfree he hv hg

end Sys2Proof.Machine
end

section
/-!
The debugger's commands (R233 to R235), and the two commands on step entries (R202, R206).
-/

namespace Sys2Proof.Machine

section Debugger

variable {s : State} {d ch t : Nat}

/-! ## While no debug level is granted (R233) -/

theorem dbgOn_eq_false (h : getF s d DBG_CTL.LEVEL = 0) : dbgOn s d = false := by simp [dbgOn, h]

theorem dbgOn_eq_true (h : getF s d DBG_CTL.LEVEL ≠ 0) : dbgOn s d = true := by simpa [dbgOn] using h

theorem debugCommand_off (h : getF s d DBG_CTL.LEVEL = 0) {c : Instr} (hc : c ∈ [Instr.halt d, .resume d, .step d, .kill d]) :
    exec c s = .next s := by
  have hoff := dbgOn_eq_false h
  simp only [List.mem_cons, List.not_mem_nil, or_false] at hc
  rcases hc with rfl | rfl | rfl | rfl <;> exact congrArg _ (if_neg (by simp [hoff]))

/-! ## The four commands on the named thread (R233) -/

section Granted

variable (hl : getF s d DBG_CTL.LEVEL ≠ 0) (ht : t = dbgThread s d)

include hl ht

theorem execHalt_halts {th : Thread} (hth : th = getT s d t) (hfree : th.st ≠ .free) (hhalt : th.st ≠ .halted) :
    execHalt d s = .next (quiet (setT s d t { th with st := .halted, rem := th.st, haltAt := s.cyc, step1 := false }) d) := by
  subst ht hth
  exact congrArg _ (if_pos (by simp [dbgOn_eq_true hl, hfree, hhalt]))

theorem execResume_unhalts (hhalt : (getT s d t).st = .halted) : execResume d s = .next (unhalt s d t false) := by
  subst ht
  exact congrArg _ (if_pos (by simp [dbgOn_eq_true hl, hhalt]))

theorem execStep_unhalts (hhalt : (getT s d t).st = .halted) (hrem : (getT s d t).rem ≠ .faulted) :
    execStep d s = .next (unhalt s d t true) := by
  subst ht
  exact congrArg _ (if_pos (by simp [dbgOn_eq_true hl, hhalt, hrem]))

theorem execKill_faults (hfree : (getT s d t).st ≠ .free) (hfault : (getT s d t).st ≠ .faulted)
    (hrem : (getT s d t).st ≠ .halted ∨ (getT s d t).rem ≠ .faulted) : execKill d s = .next (faultThread s d t 9 0) := by
  subst ht
  exact congrArg _ (if_pos (by simpa [dbgOn_eq_true hl, hfree, hfault] using hrem))

end Granted

/-- A thread that lost no slot and waits for no child goes back to what it was. -/
theorem unhalt_restores {one : Bool} {th : Thread} (hth : th = getT s d t) (hs : th.sendLost = false) (hw : th.wait ≠ .kids)
    (hr : th.rem ≠ .faulted) :
    unhalt s d t one = setT s d t { th with st := th.rem, rem := .free, step1 := one, sendLost := false } := by
  subst hth
  have hrem : ((getT s d t).rem == .faulted) = false := beq_eq_false_iff_ne.mpr hr
  simp only [unhalt, hs, hrem, Bool.false_eq_true, if_false]

/-! ## Halted threads that hold up others (R234, R235) -/

theorem execHaltedBudgetAbort_answers (hhalt : (getT s d t).st = .halted) (hc : (getT s d t).child = false)
    (hsent : (getT s d t).sent = false) (h0 : t ≠ 0) (hclass : isF s 0 (LKP_CH_CFG.CLASS (getT s d t).chan) = true) :
    execHaltedBudgetAbort d t s =
      .next (raiseErr (modT (formResp s d t (respStatus 6)) d t fun th => { th with aborted := true }) d pgDbg DBG_ERR.ABORTED it0) :=
  congrArg _ (if_pos (by simp [hhalt, hc, hsent, h0, hclass]))

theorem execDbgChannelRelease_releases {val : Nat} (hv : ch = val % 32) (hh : (getCh s d ch).holder = some t)
    (hhalt : (getT s d t).st = .halted) : execDbgChannelRelease d val s = .next (releaseSlot s d ch t) := by
  subst hv
  simp only [execDbgChannelRelease, hh, hhalt, beq_self_eq_true, if_true]

theorem execDbgAutoRelease_releases (hh : (getCh s d ch).holder = some t) (hhalt : (getT s d t).st = .halted)
    (hl : getF s d DBG_CTL.LEVEL = 1) (hhold : getF s d DBG_HOLD_MAX.HOLD ≠ 0) : execDbgAutoRelease d ch s =
      .next (raiseErr (bump (releaseSlot s d ch t) d DBG_AUTO_REL.COUNT) d pgDbg DBG_ERR.AUTO_REL it0) := by
  have hmax : (getF s d DBG_HOLD_MAX.HOLD != 0) = true := by simpa using hhold
  simp only [execDbgAutoRelease, hh, hhalt, hl, hmax, beq_self_eq_true, Bool.and_self, if_true]

theorem getCh_releaseSlot (s : State) (d ch t : Nat) :
    getCh (releaseSlot s d ch t) d ch = { getCh s d ch with holder := none, staged := [] } :=
  getCh_modCh_self s d ch fun e => { e with holder := none, staged := [] }

theorem getT_releaseSlot (s : State) (d ch t : Nat) : getT (releaseSlot s d ch t) d t = { getT s d t with sendLost := true } := by
  rw [releaseSlot, modT, getT_setT_self]
  rfl

theorem getF_releaseSlot_dropped (s : State) (d ch t : Nat) : getF (releaseSlot s d ch t) d (THR_EVT.DROPPED ch) =
    min (2 ^ (THR_EVT.DROPPED ch).width - 1) (getF s d (THR_EVT.DROPPED ch) + 1) := by
  rw [releaseSlot, modT, getF_setT, getF_bumpSat_self]
  rfl

end Debugger

/-! ## The register copy of a step entry (R206) -/

/-- The registers that show a step entry hold it, each field cut to its width. -/
theorem getF_showEntry (s : State) (d e : Nat) :
    getF (showEntry s d e) d SEQ_STEP_ADDR.ADDR = (getEnt s d e).addr % 2 ^ SEQ_STEP_ADDR.ADDR.width ∧
    getF (showEntry s d e) d SEQ_STEP_ISSUE.COUNT = (getEnt s d e).issue % 2 ^ 32 ∧
    getF (showEntry s d e) d SEQ_STEP_USE.COUNT = (getEnt s d e).use % 2 ^ 32 ∧
    getF (showEntry s d e) d SEQ_STEP_SQUASH.COUNT = (getEnt s d e).squash % 2 ^ 32 := by
  unfold showEntry
  refine ⟨?_, ?_, ?_, ?_⟩
  · iterate 5 rw [getF_setF_ne _ _ _ _ _ _ _ _ (by decide)]
    exact getF_setF_self ..
  · iterate 2 rw [getF_setF_ne _ _ _ _ _ _ _ _ (by decide)]
    exact getF_setF_self ..
  · rw [getF_setF_ne _ _ _ _ _ _ _ _ (by decide)]
    exact getF_setF_self ..
  · exact getF_setF_self ..

theorem getF_showEntry_step (s : State) (d e : Nat) : getF (showEntry s d e) d SEQ_STEP_IDX.STEP = getF s d SEQ_STEP_IDX.STEP := by
  unfold showEntry
  iterate 6 rw [getF_setF_ne _ _ _ _ _ _ _ _ (by decide)]

/-- The state in which STEP_ENTRY_SELECT shows its entry. -/
def entryShown (s : State) (d val : Nat) : State := showEntry (setF s d SEQ_STEP_IDX.STEP (val % 256)) d (val % 256)

/-- The state in which the entry's counts are cleared. -/
def entryCleared (s : State) (d val : Nat) : State :=
  modEnt (entryShown s d val) d (val % 256) fun y => { y with issue := 0, use := 0, squash := 0 }

theorem execStepEntrySelect_eq (s : State) (d val : Nat) :
    execStepEntrySelect d val s = .next (if val.testBit 31 then entryCleared s d val else entryShown s d val) := by
  rw [execStepEntrySelect, entryCleared, entryShown]

theorem entryShown_stepEnts (s : State) (d val : Nat) : (entryShown s d val).stepEnts = s.stepEnts := by
  rw [entryShown, showEntry_ents, setF_stepEnts]

theorem getEnt_entryShown (s : State) (d val e : Nat) : getEnt (entryShown s d val) d e = getEnt s d e := by
  rw [getEnt, entryShown_stepEnts, getEnt]

theorem getF_entryCleared (s : State) (d val : Nat) (f : Fld) : getF (entryCleared s d val) d f = getF (entryShown s d val) d f := rfl

theorem getF_entryShown_step (s : State) (d val : Nat) : getF (entryShown s d val) d SEQ_STEP_IDX.STEP = val % 256 := by
  rw [entryShown, getF_showEntry_step, getF_setF_self]
  exact Nat.mod_mod _ _

theorem getEnt_entryCleared (s : State) (d val : Nat) : getEnt (entryCleared s d val) d (val % 256) =
    { getEnt s d (val % 256) with issue := 0, use := 0, squash := 0 } := by
  rw [entryCleared, getEnt_modEnt_self, getEnt_entryShown]

/-- Every confidence is cleared, and no register changes. -/
theorem execPredictorClear_clears (s : State) (d : Nat) : ∃ u, exec (.predictorClear d) s = .next u ∧
    (∀ e, e < 256 → getEnt u d e = { getEnt s d e with conf := 0 }) ∧ u.regs = s.regs := by
  obtain ⟨hents, hregs⟩ := predictor_fold s d 256 _ rfl
  exact ⟨_, predictor_exec d s, fun e he => (hents e).trans (if_pos he), hregs⟩

/-- Settles O27: the debugger's commands by its level and the thread's state, the step entries by what they show and clear. -/
theorem debuggerHaltsAndResumes : Obligations.DebuggerHaltsAndResumes := by
  rintro s d ch t ht
  refine ⟨fun hl c hc => debugCommand_off hl hc, fun hl => ⟨fun hfree hhalt th hth => execHalt_halts hl ht hth (hth ▸ hfree) (hth ▸ hhalt),
    fun hhalt => ⟨execResume_unhalts hl ht hhalt, fun hrem => ⟨execStep_unhalts hl ht hhalt hrem,
      execKill_faults hl ht (by simp [hhalt]) (by simp [hhalt]) (.inr hrem)⟩⟩,
    fun hfree hfault hhalt => execKill_faults hl ht hfree hfault (.inl hhalt)⟩,
    fun one th hth hs hw hr => unhalt_restores hth hs hw hr, ?_, fun t hh hhalt => ⟨?_, ?_, ?_, ?_, ?_⟩,
    execPredictorClear_clears s d, ?_⟩
  · rintro k u hhalt hc hsent h0 hclass rfl
    exact execHaltedBudgetAbort_answers hhalt hc hsent h0 hclass
  · exact fun val hv => execDbgChannelRelease_releases hv hh hhalt
  · exact fun hl hhold => execDbgAutoRelease_releases hh hhalt hl hhold
  · rintro e rfl
    exact getCh_releaseSlot s d ch t
  · rintro th rfl
    exact getT_releaseSlot s d ch t
  · exact getF_releaseSlot_dropped s d ch t
  · rintro val e rfl
    have hregs : ∀ f, getF (if val.testBit 31 then entryCleared s d val else entryShown s d val) d f = getF (entryShown s d val) d f := by
      intro f
      split
      · exact getF_entryCleared ..
      · rfl
    obtain ⟨haddr, hissue, huse, hsquash⟩ := getF_showEntry (setF s d SEQ_STEP_IDX.STEP (val % 256)) d (val % 256)
    refine ⟨_, execStepEntrySelect_eq s d val, (hregs _).trans (getF_entryShown_step s d val), (hregs _).trans haddr,
      (hregs _).trans hissue, (hregs _).trans huse, (hregs _).trans hsquash, ?_⟩
    split
    · exact getEnt_entryCleared s d val
    · exact getEnt_entryShown s d val (val % 256)


end Sys2Proof.Machine
end

section
/-!
Admission of a released lookup (R219): what the checks decide for a request, one lemma per line of the rule's table, and what the
command then does.
-/

namespace Sys2Proof.Machine

section Admission

variable {s u : State} {r : Req} {id st t b a n : Nat}

/-! ## The checks (R219) -/

theorem admitReq_invalid (hv : isF s r.home (SEQ_ENTRY.VALID (hdrRecipe r.hdr)) = false) :
    admitReq s r = .refused 9 (rerr s r.home 1 (hdrRecipe r.hdr)) :=
  if_pos (by simp [hv])

theorem admitReq_notFixed (hv : isF s r.home (SEQ_ENTRY.VALID (hdrRecipe r.hdr)) = true) (hg : chGuar s r.chan = true)
    (hf : isF s r.home (SEQ_ENTRY.FIXED (hdrRecipe r.hdr)) = false) :
    admitReq s r = .refused 9 (rerr s r.home 2 (hdrRecipe r.hdr)) :=
  (if_neg (by simp [hv])).trans (if_pos (by simp [hg, hf]))

/-- Check 1 of R219 passes: the entry is valid, and FIXED on a guaranteed channel. -/
def EntryServes (s : State) (r : Req) : Prop :=
  isF s r.home (SEQ_ENTRY.VALID (hdrRecipe r.hdr)) = true ∧
    (chGuar s r.chan = false ∨ isF s r.home (SEQ_ENTRY.FIXED (hdrRecipe r.hdr)) = true)

theorem EntryServes.fixed (he : EntryServes s r) (hg : chGuar s r.chan = true) :
    isF s r.home (SEQ_ENTRY.FIXED (hdrRecipe r.hdr)) = true :=
  he.2.resolve_left (by simp [hg])

theorem EntryServes.not_misfit (he : EntryServes s r) :
    (chGuar s r.chan && !isF s r.home (SEQ_ENTRY.FIXED (hdrRecipe r.hdr))) = false := by
  rcases he.2 with hg | hf
  · simp [hg]
  · simp [hf]

theorem admitReq_noRoom (he : EntryServes s r) (hno : threadRoom s r.home (chGroup s r.chan) = false ∨ bufSite s r.chan = none) :
    admitReq s r = .refused 5 (bump s r.home THR_ADMIT_FAIL.FAILS) := by
  simp only [admitReq, he.1, he.not_misfit, Bool.not_true, Bool.false_eq_true, if_false]
  split
  · next _ _ hroom _ hbuf =>
    rcases hno with hno | hno
    · cases hno.symm.trans hroom
    · cases hno.symm.trans hbuf
  · rfl

/-- The request holds thread `t`, started at its entry, a buffer of die `b` and the egress cycles it booked, if any. -/
def admitInto (u : State) (r : Req) (t b : Nat) (booked : Option Nat) : State :=
  modReq (setT u r.home t (newThread u r.home (hdrRecipe r.hdr) r.chan r.hdr r.payload (some r.id) r.arr false)) r.id
    fun q => { q with phase := .admitted, thread := some t, buf := some b, booked := booked }

/-- The plan of the request's entry, booked for thread `t` (check 4 of R219). -/
abbrev bookEntry (s : State) (r : Req) (t : Nat) : Option State :=
  bookPlan s r.home t (chGroup s r.chan) r.rel (mget Plan.none s.plans (hdrRecipe r.hdr))

section Room

variable (he : EntryServes s r) (hroom : threadRoom s r.home (chGroup s r.chan) = true) (ht : lowestFree s r.home = some t)
  (hb : bufSite s r.chan = some b)

include he hroom ht hb

theorem admitReq_bestEffort (hg : chGuar s r.chan = false) : admitReq s r = .admitted (admitInto s r t b none) := by
  simp only [admitReq, he.1, hroom, ht, hb, hg, Bool.not_true, Bool.false_and, Bool.false_eq_true, if_false, admitInto]

/-! ### A tagged guaranteed channel books its egress cycles before its plan (R317) -/

section Tagged

variable (hg : chGuar s r.chan = true) (ho : chOrdered s r.chan = false)
  (ha : a = r.rel + getF s r.home (SEQ_ENTRY.BUDGET (hdrRecipe r.hdr)) - 1)
  (hn : n = ceilDiv (respLen (isF s r.home (LKP_ENT.TWO (hdrRecipe r.hdr))) (hdrStamp r.hdr && s.part.unitT)) (ifK s r.iface))

include hg ho ha hn

theorem admitReq_egressTaken (hfree : egressFree s r.iface a n = false) :
    admitReq s r = .refused 5 (bump s r.home THR_ADMIT_FAIL.FAILS) := by
  subst ha hn
  simp only [admitReq, he.1, he.fixed hg, hroom, ht, hb, hg, ho, hfree, Bool.not_true, Bool.not_false, Bool.and_self, Bool.and_false,
    Bool.false_eq_true, if_false, if_true]

theorem admitReq_tagged (hfree : egressFree s r.iface a n = true) (hbook : bookEntry s r t = some u) :
    admitReq s r = .admitted (admitInto { u with egress := u.egress ++ [(r.iface, a, n)] } r t b (some a)) := by
  subst ha hn
  simp only [admitReq, he.1, he.fixed hg, hroom, ht, hb, hg, ho, hfree, hbook, Bool.not_true, Bool.not_false, Bool.and_self, Bool.and_false,
    Bool.false_eq_true, if_false, if_true, admitInto]

end Tagged

/-! ### An ordered guaranteed channel books its plan alone -/

section Ordered

variable (hg : chGuar s r.chan = true) (ho : chOrdered s r.chan = true)

include hg ho

theorem admitReq_planRefused (hbook : bookEntry s r t = none) :
    admitReq s r = .refused 5 (bump (bumpSat s r.home ARB_BOOK.FAIL) r.home THR_ADMIT_FAIL.FAILS) := by
  simp only [admitReq, he.1, he.fixed hg, hroom, ht, hb, hg, ho, hbook, Bool.not_true, Bool.and_false, Bool.false_and,
    Bool.false_eq_true, if_false, if_true]

theorem admitReq_ordered (hbook : bookEntry s r t = some u) : admitReq s r = .admitted (admitInto u r t b none) := by
  simp only [admitReq, he.1, he.fixed hg, hroom, ht, hb, hg, ho, hbook, Bool.not_true, Bool.and_false, Bool.false_and,
    Bool.false_eq_true, if_false, if_true, admitInto]

end Ordered

end Room

/-! ## The command -/

section Command

variable (hr : findReq s id = some r) (hk : r.acked = true) (hup : gone s r.home = false)

include hr hk hup

theorem execAdmission_refusal (hp : r.phase = .released (some st)) : execAdmission id s = .next (refuse s id st) := by
  simp only [execAdmission, hr, hk, hup, hp, Bool.not_true, Bool.or_self, Bool.false_eq_true, if_false]

variable (hp : r.phase = .released none) (hkind : hdrKind r.hdr = 0)

include hp hkind

theorem execAdmission_fenced (hf : s.fencedDev = true) : execAdmission id s = .next (refuse s id 0xB) := by
  simp only [execAdmission, hr, hk, hup, hp, hkind, hf, Bool.not_true, Bool.or_self, bne_self_eq_false, Bool.false_eq_true, if_false,
    if_true]

variable (hf : s.fencedDev = false)

include hf

theorem execAdmission_waits (hfirst : admittedFirst s r = true) : execAdmission id s = .next s := by
  simp only [execAdmission, hr, hk, hup, hp, hkind, hf, hfirst, Bool.not_true, Bool.or_self, bne_self_eq_false, Bool.false_eq_true,
    if_false, if_true]

variable (hfirst : admittedFirst s r = false)

include hfirst

theorem execAdmission_refuses (had : admitReq s r = .refused st u) : execAdmission id s = .next (refuse u id st) := by
  simp only [execAdmission, hr, hk, hup, hp, hkind, hf, hfirst, had, Bool.not_true, Bool.or_self, bne_self_eq_false,
    Bool.false_eq_true, if_false]

theorem execAdmission_admits (had : admitReq s r = .admitted u) : execAdmission id s = .next u := by
  simp only [execAdmission, hr, hk, hup, hp, hkind, hf, hfirst, had, Bool.not_true, Bool.or_self, bne_self_eq_false,
    Bool.false_eq_true, if_false]

end Command

end Admission

/-- Settles O14: the command comes to the decision of the checks, and the checks decide by the first that fails. -/
theorem admissionTakesAllOrRefuses : Obligations.AdmissionTakesAllOrRefuses := by
  intro s id r hr hk hup
  refine ⟨fun st hp => execAdmission_refusal hr hk hup hp, fun hp hkind => ⟨execAdmission_fenced hr hk hup hp hkind,
    execAdmission_waits hr hk hup hp hkind, fun hf hfirst => ?_⟩⟩
  have refuses {st u} : admitReq s r = .refused st u → execAdmission id s = .next (refuse u id st) :=
    execAdmission_refuses hr hk hup hp hkind hf hfirst
  have admits {u} : admitReq s r = .admitted u → execAdmission id s = .next u :=
    execAdmission_admits hr hk hup hp hkind hf hfirst
  refine ⟨fun hv => refuses (admitReq_invalid hv), fun hv => ⟨fun hg hx => refuses (admitReq_notFixed hv hg hx), fun hx => ?_⟩⟩
  have he : EntryServes s r := ⟨hv, hx⟩
  refine ⟨fun hno => refuses (admitReq_noRoom he hno), fun t b hroom ht hb => ⟨?bestEffort, ?tagged, ?ordered⟩⟩
  case bestEffort => exact fun hg => admits (admitReq_bestEffort he hroom ht hb hg)
  case tagged =>
    exact fun a n hg ho ha hn => ⟨fun hfree => refuses (admitReq_egressTaken he hroom ht hb hg ho ha hn hfree),
      fun u hfree hbook => admits (admitReq_tagged he hroom ht hb hg ho ha hn hfree hbook)⟩
  case ordered =>
    exact fun hg ho => ⟨fun hbook => refuses (admitReq_planRefused he hroom ht hb hg ho hbook),
      fun u hbook => admits (admitReq_ordered he hroom ht hb hg ho hbook)⟩

end Sys2Proof.Machine
end

section
/-!
Store-room steps and their fills: the record of a step (R22, R248), a lookup that needs a line (R284, R287), the arrival of the line
(R290), and its install (R285).
-/

namespace Sys2Proof.Machine

/-! ## The record of a step (R22, R248) -/

section StepRecord

variable {s u v : State} {id : Nat} {crc : Bool} {x : SStep} {r q : Rec}

/-- The step `id` writes its record: it is ready, and forms the record `r`, which leaves the state `u`. -/
structure StepFinishes (s : State) (id : Nat) (crc : Bool) (x : SStep) (u : State) (r : Rec) : Prop where
  found : (s.steps.find? fun x => x.id == id && x.done.isNone) = some x
  ready : stepReady s x = true
  record : (u, r) = stepRec (noteStep s x) x crc

/-- A parallel probe keeps its record for its search (R205). -/
theorem execStoreRoomStepDone_probe (h : StepFinishes s id crc x u r) (hp : x.par ≠ none) :
    execStoreRoomStepDone ⟨id, crc⟩ s = .next (modStep u id fun y => { y with done := some (encRec r) }) := by
  obtain ⟨p, hp⟩ := Option.ne_none_iff_exists'.mp hp
  simp only [execStoreRoomStepDone, h.found, h.ready, ← h.record, hp, Bool.not_true, Bool.false_eq_true, if_false]

section Alone

variable (h : StepFinishes s id crc x u r) (hp : x.par = none) (hv : v = { u with steps := u.steps.filter fun y => y.id != id })
  (hq : q = if x.spec then { r with spec := true } else r)

include h hp hv hq

theorem execStoreRoomStepDone_last (hn : x.next = none) :
    execStoreRoomStepDone ⟨id, crc⟩ s = .next (deliverRec v x.die x.thread x.rno q none x.ent) := by
  subst hv hq
  simp only [execStoreRoomStepDone, h.found, h.ready, ← h.record, hp, hn, Bool.not_true, Bool.false_eq_true, if_false]

/-- A MISS of a step that its search still wants goes on in the cellar. -/
theorem execStoreRoomStepDone_next {p : Nat} (hn : x.next = some p) :
    execStoreRoomStepDone ⟨id, crc⟩ s = .next (if q.status = 1 ∧ x.squashed = false then
      issueFetch v x.die x.thread x.rno p x.region x.key x.width x.ent else deliverRec v x.die x.thread x.rno q none x.ent) := by
  subst hv hq
  simp only [execStoreRoomStepDone, h.found, h.ready, ← h.record, hp, hn, Bool.not_true, Bool.false_eq_true, if_false,
    Bool.and_eq_true, decide_eq_true_eq, Bool.not_eq_true']

end Alone

end StepRecord

/-! ## A lookup that needs a line (R284, R285, R287) -/

section FillAllocate

variable {s u v : State} {id b line w : Nat} {x : SStep} {f : Fill} {a : Bucket}

/-- The lookup of bucket `b` of the step `id` needs its line. -/
structure NeedsLine (s : State) (id b : Nat) (x : SStep) (line : Nat) : Prop where
  found : (s.steps.find? fun x => x.id == id) = some x
  needs : stepNeeds x b = true
  unforced : x.forced = none
  line_eq : line = stepLine s x b

theorem joinFill_waits (hu : u = bump s f.die CCH_JOIN.COUNT) (ha : f.arrived = none)
    (hv : v = { u with fills := updWhere (fun h => h.id == f.id) (fun f => { f with waiters := f.waiters ++ [(id, b)] }) u.fills }) :
    joinFill s f id b = modStep v id (noNeed b) := by
  subst hu hv
  simp only [joinFill, ha]

theorem joinFill_answers (hu : u = bump s f.die CCH_JOIN.COUNT) (ha : f.arrived = some a) :
    joinFill s f id b = settleNeed u id b (forwardAll u f.die f.line a) := by
  subst hu
  simp only [joinFill, ha]

theorem execCacheFillAllocate_joins (h : NeedsLine s id b x line)
    (hf : (s.fills.find? fun f => f.die == x.die && f.line == line) = some f) :
    execCacheFillAllocate id b s = .next (joinFill s f id b) := by
  obtain ⟨hx, hneeds, hunforced, rfl⟩ := h
  simp only [execCacheFillAllocate, hx, hneeds, hunforced, hf, Bool.not_true, Option.isSome_none, Bool.or_self, Bool.false_eq_true,
    if_false]

/-- The tags answer no lookup while the cache is off (R300), and none of a line they do not hold. -/
theorem tagWay_none {d : Nat} (h : isF s d CCH_CTL.EN = false ∨ wayOf s d line = none) :
    (if isF s d CCH_CTL.EN then wayOf s d line else none) = none := by
  rcases h with h | h <;> simp [h]

section NoFill

variable (h : NeedsLine s id b x line) (hf : (s.fills.find? fun f => f.die == x.die && f.line == line) = none)

include h hf

/-- While the lookup waited its line was installed. -/
theorem execCacheFillAllocate_cached (hen : isF s x.die CCH_CTL.EN = true) (hw : wayOf s x.die line = some w) :
    execCacheFillAllocate id b s =
      .next (settleNeed s id b (forwardAll s x.die line ⟨(getLine s x.die w (lineSet line)).data, 0⟩)) := by
  obtain ⟨hx, hneeds, hunforced, rfl⟩ := h
  simp only [execCacheFillAllocate, hx, hneeds, hunforced, hf, hen, hw, Bool.not_true, Option.isSome_none, Bool.or_self,
    Bool.false_eq_true, if_false, if_true]

variable (hmiss : isF s x.die CCH_CTL.EN = false ∨ wayOf s x.die line = none)

include hmiss

theorem execCacheFillAllocate_waits (hno : fillRoom s x.die x.fixed = false ∨ s.cyc < bankBusy s x.die line) :
    execCacheFillAllocate id b s = .next s := by
  obtain ⟨hx, hneeds, hunforced, rfl⟩ := h
  have hwait : (!fillRoom s x.die x.fixed || decide (s.cyc < bankBusy s x.die (stepLine s x b))) = true := by
    rcases hno with h | h <;> simp [h]
  simp only [execCacheFillAllocate, hx, hneeds, hunforced, hf, tagWay_none hmiss, hwait, Bool.not_true, Option.isSome_none, Bool.or_self,
    Bool.false_eq_true, if_false, if_true]

theorem execCacheFillAllocate_starts (hroom : fillRoom s x.die x.fixed = true) (hbank : bankBusy s x.die line ≤ s.cyc)
    (hwalk : (s.walks.find? fun k => k.die == x.die && k.kind == 2 && k.base == line) = none) :
    execCacheFillAllocate id b s = .next (modStep (takeFill s x.die line x.fixed [(id, b)] none) id (noNeed b)) := by
  obtain ⟨hx, hneeds, hunforced, rfl⟩ := h
  simp only [execCacheFillAllocate, hx, hneeds, hunforced, hf, tagWay_none hmiss, hroom, hbank.not_gt, hwalk, Bool.not_true, Option.isSome_none,
    Bool.or_self, decide_false, Bool.false_eq_true, if_false]

end NoFill

end FillAllocate

/-! ## The line arrives and is installed (R285, R290, R341) -/

section FillArrive

variable {s g u v w : State} {id ecc : Nat} {f : Fill} {a b : Bucket}

/-- The read of the fill `id` was granted, and its line can arrive. -/
structure LineArrives (s : State) (id : Nat) (f : Fill) : Prop where
  found : (s.fills.find? fun f => f.id == id && f.arrived.isNone) = some f
  granted : f.granted = true
  up : strUp s f.die = true
  power : domOn s f.die 1 = true
  unlocked : f.fixed = true ∨ lockedLine s f.die f.line = false

theorem LineArrives.runs (h : LineArrives s id f) :
    (!f.granted || !strUp s f.die || !domOn s f.die 1 || (!f.fixed && lockedLine s f.die f.line)) = false := by
  rcases h.unlocked with hl | hl <;> simp [h.granted, h.up, h.power, hl]

theorem execFillLineArrive_answers (h : LineArrives s id f) (hr : (u, b) = readMem s f.die f.line ecc)
    (ha : a = forwardAll u f.die f.line b) (hv : v = f.waiters.foldl (fun s q => answerStep s q.1 q.2 a) u)
    (hw : w = if lockedLine v f.die f.line then noInstall v (fun h => h.id == id) else v) :
    execFillLineArrive id ecc s =
      .next { w with fills := updWhere (fun h => h.id == id) (fun h => { h with arrived := some a, waiters := [] }) w.fills } := by
  subst ha hv hw
  simp only [execFillLineArrive, h.found, h.runs, ← hr, Bool.false_eq_true, if_false]

variable (hf : (s.fills.find? fun f => f.id == id) = some f) (hb : f.arrived = some b)
  (hg : g = { s with fills := s.fills.filter fun h => h.id != id })

include hf hb hg

theorem execFillInstall_gone (hway : f.way = none) : execFillInstall id s = .next g := by
  subst hg
  simp only [execFillInstall, hf, hb, hway]

/-- An install blocks its bank for 18 CQ cycles; a line that its way may not hold leaves the place empty. -/
theorem execFillInstall_installs {n : Nat} (hway : f.way = some n) (hbank : bankBusy s f.die f.line ≤ s.cyc)
    (hfixed : fixedWaits s f.die f.line = false) (hport : portUse s f.die f.line = 0) (ha : a = forwardAll s f.die f.line b)
    (hu : u = setLine g f.die n (lineSet f.line) (if wayEn s f.die n && domOn s f.die (domWay n) && !a.bad then
      { tag := lineTag f.line, valid := true, pend := false, data := a.data, ecc := 0 } else Line.zero)) :
    execFillInstall id s = .next { u with bankBusy := mset 0 u.bankBusy (f.die * 16 + f.line % 16) (2 * cq s + 36) } := by
  subst hg ha hu
  simp only [execFillInstall, hf, hb, hway, hbank.not_gt, hfixed, hport, bne_self_eq_false, decide_false, Bool.or_self,
    Bool.false_eq_true, if_false]
  rfl

end FillArrive

/-- Settles O36: a step goes by its search, a lookup by the fill, the cached line or the room it finds, and a line by its way. -/
theorem storeStepsAndFillsComplete : Obligations.StoreStepsAndFillsComplete := by
  intro s id
  refine ⟨?step, ?lookup, ?arrive, ?install⟩
  case step =>
    intro x u r crc hx hready hrec
    have h : StepFinishes s id crc x u r := ⟨hx, hready, hrec⟩
    refine ⟨execStoreRoomStepDone_probe h, fun v q hp hv hq => ?_⟩
    cases hn : x.next with
    | none => exact execStoreRoomStepDone_last h hp hv hq hn
    | some p => exact execStoreRoomStepDone_next h hp hv hq hn
  case lookup =>
    intro b x line hx hneeds hunforced hline
    have h : NeedsLine s id b x line := ⟨hx, hneeds, hunforced, hline⟩
    refine ⟨fun f u hf hu => ⟨fun v ha hv => ?_, fun a ha => ?_⟩, fun hnone => ⟨fun w => execCacheFillAllocate_cached h hnone,
      fun hmiss => ⟨execCacheFillAllocate_waits h hnone hmiss, execCacheFillAllocate_starts h hnone hmiss⟩⟩⟩
    · rw [← joinFill_waits hu ha hv]
      exact execCacheFillAllocate_joins h hf
    · rw [← joinFill_answers hu ha]
      exact execCacheFillAllocate_joins h hf
  case arrive =>
    intro ecc f u b v w a hf hgranted hup hpower hunlocked
    exact execFillLineArrive_answers ⟨hf, hgranted, hup, hpower, hunlocked⟩
  case install =>
    exact fun f b g hf hb hg => ⟨execFillInstall_gone hf hb hg, fun w a u => execFillInstall_installs hf hb hg⟩

end Sys2Proof.Machine
end

section
/-!
Slot writes and the patrol scrubber: the checks of a record (R254), the caches that take it (R283, R288), the drain of the merging
buffer (R289), the write of a bucket (R253), and the patrol read (R256, R273).
-/

namespace Sys2Proof.Machine

/-! ## A slot-write record (R254) -/

section SlotWrite

variable {s : State} {d off len op reg bucket cause : Nat} {data : BitVec 512}

/-- The cause with which a record is rejected, 0 for a good one: the first check of R254 that fails. -/
def recordCause (s : State) (d off len op reg bucket : Nat) : Nat :=
  if len ≠ 64 ∨ off % 64 ≠ 0 then 4
  else if isF s d STR_CTL.SWR_EN = false then 7
  else if avail s = true ∧ d % 2 = 1 then 5
  else if op ≠ 1 ∧ op ≠ 2 then 1
  else if isF s d SR_CTL.VALID reg = false then 2
  else if getF s d SR_SIZE.NBUCK reg ≤ bucket then 3
  else 0

/-- The record that a slot write of die `d` carries. -/
def slotRecord (d : Nat) (data : BitVec 512) : SwRec :=
  { die := d, op := fld (ceWord data 0) 24 8, region := fld (ceWord data 0) 16 8, slot := fld (ceWord data 0) 0 2
    bucket := fld (ceWord data 4) 0 29, image := BitVec.ofNat 256 (getBE data 256 256) }

/-- A slot write that the checks let pass waits for room in its window's queue. -/
def queueRecord (s : State) (r : SwRec) : State :=
  if 64 ≤ (s.swq.filter fun q => q.die == r.die).length then s else { s with swq := s.swq ++ [r] }

theorem queueRecord_room {r : SwRec} (h : (s.swq.filter fun q => q.die == r.die).length < 64) :
    queueRecord s r = { s with swq := s.swq ++ [r] } := if_neg h.not_ge

theorem slotWrite_eq (hp : present s d pgStr = true) (hop : op = fld (ceWord data 0) 24 8) (hreg : reg = fld (ceWord data 0) 16 8)
    (hbucket : bucket = fld (ceWord data 4) 0 29) (hc : cause = recordCause s d off len op reg bucket) :
    slotWrite s d off len data =
      if cause ≠ 0 then swrReject s d cause (it1 (ceWord data 0)) else queueRecord s (slotRecord d data) := by
  subst hc hop hreg hbucket
  simp only [slotWrite, recordCause, hp, Bool.not_true, Bool.false_eq_true, if_false, Bool.or_eq_true, bne_iff_ne, Bool.not_eq_true',
    Bool.and_eq_true, beq_iff_eq]
  by_cases hform : len ≠ 64 ∨ off % 64 ≠ 0
  · simp only [if_pos hform]
    rfl
  by_cases hoff : isF s d STR_CTL.SWR_EN = false
  · simp only [if_neg hform, if_pos hoff]
    rfl
  by_cases hodd : avail s = true ∧ d % 2 = 1
  · simp only [if_neg hform, if_neg hoff, if_pos hodd]
    rfl
  by_cases hop : fld (ceWord data 0) 24 8 ≠ 1 ∧ fld (ceWord data 0) 24 8 ≠ 2
  · simp only [if_neg hform, if_neg hoff, if_neg hodd, if_pos hop]
    rfl
  by_cases hregion : isF s d SR_CTL.VALID (fld (ceWord data 0) 16 8) = false
  · simp only [if_neg hform, if_neg hoff, if_neg hodd, if_neg hop, if_pos hregion]
    rfl
  by_cases hbucket : getF s d SR_SIZE.NBUCK (fld (ceWord data 0) 16 8) ≤ fld (ceWord data 4) 0 29
  · simp only [if_neg hform, if_neg hoff, if_neg hodd, if_neg hop, if_neg hregion, if_pos hbucket]
    rfl
  · simp only [if_neg hform, if_neg hoff, if_neg hodd, if_neg hop, if_neg hregion, if_neg hbucket]
    rfl

end SlotWrite

/-! ## The caches take a record (R283, R288) -/

section SlotApply

variable {s : State} {d : Nat} {r : SwRec} {ds : List Nat}

/-- The record has been taken on a die: it used a port of its bank and the die's one record of the CQ cycle. -/
def takenOn (r : SwRec) (s : State) (e : Nat) : State :=
  takeRecord { usePort s e (srLine s e r.region r.bucket) with swAt := mset 0 s.swAt e (cq s + 1) } e r

variable (hr : (s.swq.find? fun r => r.die == d) = some r) (hds : ds = writeDies s d (srLine s d r.region r.bucket))

include hr hds

theorem execSlotWriteApply_waits (h : ds = [] ∨ ∃ e ∈ ds, recordRoom s r e = false) : execSlotWriteApply d s = .next s := by
  subst hds
  have hwait : (writeDies s d (srLine s d r.region r.bucket) == [] ||
      !(writeDies s d (srLine s d r.region r.bucket)).all (recordRoom s r)) = true := by
    rcases h with h | ⟨e, he, hroom⟩
    · simp [h]
    · simp only [Bool.or_eq_true, Bool.not_eq_true', List.all_eq_false]
      exact .inr ⟨e, he, by simp [hroom]⟩
  simp only [execSlotWriteApply, hr, hwait, if_true]

theorem execSlotWriteApply_takes (hne : ds ≠ []) (hroom : ∀ e ∈ ds, recordRoom s r e = true) : execSlotWriteApply d s =
    .next (bump (ds.foldl (takenOn r) { s with swq := rmFirst (fun q => q == r) s.swq }) d STR_SWR_DONE.DONE) := by
  subst hds
  have hgo : (writeDies s d (srLine s d r.region r.bucket) == [] ||
      !(writeDies s d (srLine s d r.region r.bucket)).all (recordRoom s r)) = false := by
    simp only [Bool.or_eq_false_iff, Bool.not_eq_false', beq_eq_false_iff_ne]
    exact ⟨hne, List.all_eq_true.mpr hroom⟩
  simp only [execSlotWriteApply, hr, hgo, Bool.false_eq_true, if_false]
  rfl

end SlotApply

/-! ## The merging buffer drains (R289) -/

section Drain

variable {s : State} {d id : Nat} {e : MEntry} {crc : Bool}

theorem execMbufDrainStart_asked (h : (s.mbuf.find? fun e => e.die == d && !e.draining && cleanAsks s e) = some e) :
    execMbufDrainStart d s = .next (startDrain s e) := by
  simp only [execMbufDrainStart, h]

theorem execMbufDrainStart_oldest (h : (s.mbuf.find? fun e => e.die == d && !e.draining && cleanAsks s e) = none)
    (ho : oldestEntry s d = some e) : execMbufDrainStart d s =
      .next (if 48 ≤ mbUsed s d ∨ 2 * max 1 (getF s d CCH_MBUF.AGE) ≤ s.cyc - e.born then startDrain s e else s) := by
  simp only [execMbufDrainStart, h, ho, Bool.or_eq_true, decide_eq_true_eq]

theorem execMbufDrainAccept_writes (h : (s.mbuf.find? fun e => e.id == id) = some e) (hdrain : e.draining = true)
    (hgrant : e.granted = true) (hfirst : firstOfLine s e = true) (hup : strUp s e.die = true) (hdom : domOn s e.die 1 = true) :
    execMbufDrainAccept id crc s = .next (drainEntry s e crc) := by
  simp only [execMbufDrainAccept, h, hdrain, hgrant, hfirst, hup, hdom, Bool.not_true, Bool.or_self, Bool.false_eq_true, if_false]

end Drain

/-! ## The write of a bucket (R253) -/

section Put

variable {s w y : State} {d line v x : Nat} {b : Bucket}

theorem memPut_good (s : State) (d line : Nat) (b : Bucket) : memPut s d line b false = memWrite s d line b := by
  simp only [memPut, Bool.false_eq_true, if_false]

/-- A write that fails its CRC leaves a free value, and a free choice of whether it reads (log 3, log 33). -/
theorem memPut_failed (hv : (v, w) = freeVal (memWrite s d line b)) (hx : (x, y) = freeVal w) : memPut s d line b true =
    raiseErr (memWrite y d line ⟨BitVec.ofNat 1024 v, lostAll (x.testBit 0)⟩) d pgStr STR_ERR.WR_CRC (it1 (line * 128)) := by
  simp only [memPut, ← hv, ← hx, if_true]

end Put

/-! ## The patrol scrubber (R256, R273) -/

section Patrol

variable {s g u v w : State} {d ecc n line : Nat} {crc : Bool} {b q : Bucket}

/-- The patrol scrubber of a die runs over the `n` buckets of its module. -/
structure PatrolOn (s : State) (d n : Nat) : Prop where
  size : n = modBuckets s d
  buckets : n ≠ 0
  enabled : isF s d STR_CTL.SCRUB_EN = true
  interval : getF s d STR_SCRUB.INTERVAL ≠ 0
  up : strUp s d = true

/-- The bucket at `line` has been read and the patrol has gone on to the next one. -/
structure PatrolReads (s : State) (d n ecc line : Nat) (b : Bucket) (v : State) : Prop where
  on : PatrolOn s d n
  due : patrolDue s d = true
  read : ∃ g u, useGrant s d 1 5 = some g ∧ line = getF g d STR_SCRUB_POS.POS % n ∧ (u, b) = readMem g d line ecc ∧
    v = setF { u with patrolAt := mset 0 u.patrolAt d (u.cyc + 1) } d STR_SCRUB_POS.POS ((line + 1) % n)

theorem PatrolOn.runs (h : PatrolOn s d n) : (!isF s d STR_CTL.SCRUB_EN || decide (getF s d STR_SCRUB.INTERVAL = 0) || !strUp s d ||
    decide (modBuckets s d = 0)) = false := by
  simp [h.enabled, h.interval, h.up, ← h.size, h.buckets]

theorem execPatrolScrubRead_waits (h : PatrolOn s d n) (hw : patrolDue s d = false ∨ useGrant s d 1 5 = none) :
    execPatrolScrubRead ⟨d, crc⟩ ecc s = .next s := by
  simp only [execPatrolScrubRead, h.runs, Bool.false_or]
  rcases hw with hw | hw
  · simp only [hw, Bool.not_false, if_true]
  · simp only [hw, ite_self]

theorem execPatrolScrubRead_clean (h : PatrolReads s d n ecc line b v) (hb : b.bad = false) :
    execPatrolScrubRead ⟨d, crc⟩ ecc s = .next v := by
  obtain ⟨hon, hdue, g, u, hg, rfl, hread, rfl⟩ := h
  have hn := hon.size
  subst hn
  simp only [execPatrolScrubRead, hon.runs, hdue, hg, ← hread, hb, Bool.not_true, Bool.or_self, Bool.not_false, Bool.false_eq_true,
    if_false, if_true]

/-- An unreadable bucket is recorded, and repaired where the pair partner has a clean copy. -/
theorem execPatrolScrubRead_unreadable (h : PatrolReads s d n ecc line b v) (hb : b.bad = true)
    (hw : w = unreadable v d line STR_ERR.ECC_UNC) (hq : q = memRead w (partner d) line) : execPatrolScrubRead ⟨d, crc⟩ ecc s =
      .next (if paired w d && strUp w (partner d) && holdsCopy w (partner d) line && !q.bad then
        invAny (memPut w d line q crc) d line else w) := by
  obtain ⟨hon, hdue, g, u, hg, rfl, hread, rfl⟩ := h
  have hn := hon.size
  subst hn hw hq
  simp only [execPatrolScrubRead, hon.runs, hdue, hg, ← hread, hb, Bool.not_true, Bool.or_self, Bool.false_eq_true, if_false]

end Patrol

/-- Settles O37: a record goes by the first check that fails, then by the room on its dies, and an entry by its age and its grant. -/
theorem slotWritesDrainAndScrub : Obligations.SlotWritesDrainAndScrub := by
  intro s d
  refine ⟨?record, fun r ds hr hds => ⟨execSlotWriteApply_waits hr hds, execSlotWriteApply_takes hr hds⟩, ?drain,
    fun id e crc => execMbufDrainAccept_writes, fun line b => ⟨memPut_good s d line b, fun v w x y => memPut_failed⟩, ?patrol⟩
  case record =>
    intro off len data w op reg bucket hw hop hreg hbucket hp cause hc
    subst hw
    have hwrite : exec (.slotWriteRecord d off len data) s = .next (slotWrite s d off len data) := rfl
    rw [hwrite, slotWrite_eq hp hop hreg hbucket hc]
    refine ⟨fun hbad => by rw [if_pos hbad], fun hgood hroom =>
      ⟨slotRecord d data, rfl, hop.symm, hreg.symm, rfl, hbucket.symm, rfl, ?_⟩⟩
    rw [if_neg (not_not_intro hgood), queueRecord_room (r := slotRecord d data) hroom]
  case drain =>
    refine ⟨fun e => execMbufDrainStart_asked, fun hnone e ho => ?_⟩
    have hstart : exec (.mbufDrainStart d) s = _ := execMbufDrainStart_oldest hnone ho
    rw [hstart]
    exact ⟨fun h => by rw [if_pos h], fun hroom hyoung => by rw [if_neg (not_or.mpr ⟨hroom.not_ge, hyoung.not_ge⟩)]⟩
  case patrol =>
    intro ecc crc n hn hne hen hint hup
    have hon : PatrolOn s d n := ⟨hn, hne, hen, hint, hup⟩
    refine ⟨execPatrolScrubRead_waits hon, fun g line u b v q hdue hg hline hread hv => ?_⟩
    have hr : PatrolReads s d n ecc line b v := ⟨hon, hdue, g, u, hg, hline, hread, hv⟩
    exact ⟨execPatrolScrubRead_clean hr, fun w => execPatrolScrubRead_unreadable hr⟩

end Sys2Proof.Machine
end

section
/-!
The store channel of a die: its failure (R274), its enable and disable (R253), its training, and the resynchronisation of its module
(R275, R276).
-/

namespace Sys2Proof.Machine

/-! ## The channel fails, and is enabled and disabled (R253, R274) -/

section Channel

variable {s u : State} {d val : Nat}

theorem passChannels_eq (s : State) (d : Nat) : passChannels s d =
    if avail s = true ∧ gone s (partner d) = false ∧ strUp s (partner d) = true ∧ isF s (partner d) STR_STS.SYNC = false
    then takeover s d none true else s := by
  simp only [passChannels, Bool.and_eq_true, Bool.not_eq_true', and_assoc]

variable (hp : present s d pgStr = true)

include hp

theorem execModuleFail_fails (hen : isF s d STR_CTL.EN = true) (hf : isF s d STR_STS.FAILED = false)
    (hu : u = if isF s d STR_STS.READY then channelDown s d else s) :
    execModuleFail d s = .next (passChannels (raiseErr (setF u d STR_STS.FAILED 1) d pgStr STR_ERR.MOD_FAIL it0) d) := by
  subst hu
  simp only [execModuleFail, moduleFail, hp, hen, hf, Bool.not_false, Bool.and_self, if_true]

variable (hu : u = writeWord s d pgStr 0 0x80 val)

include hu

theorem execStoreChannelEnable_enables (hen : isF s d STR_CTL.EN = false) (hv : val.testBit 0 = true) (hon : isF u d STR_CTL.EN = true) :
    execStoreChannelEnable d val s = .next (setF u d STR_STS.FAILED 0) := by
  subst hu
  simp only [execStoreChannelEnable, writeStrCtl, hp, hen, hv, hon, Bool.not_false, Bool.not_true, Bool.and_self, Bool.false_eq_true,
    if_false, if_true]

theorem execStoreChannelDisable_disables (hen : isF s d STR_CTL.EN = true) (hv : val.testBit 0 = false)
    (hoff : isF u d STR_CTL.EN = false) :
    execStoreChannelDisable d val s = .next (if isF u d STR_STS.READY then passChannels (channelDown u d) d else u) := by
  subst hu
  simp only [execStoreChannelDisable, writeStrCtl, hp, hen, hv, hoff, Bool.not_false, Bool.and_self, if_true]

end Channel

/-- A module that has trained beside a serving partner is resynchronised from it. -/
theorem execChannelTrained_trains {s t : State} {d gib : Nat} (hp : present s d pgStr = true) (hen : isF s d STR_CTL.EN = true)
    (hr : isF s d STR_STS.READY = false) (hf : isF s d STR_STS.FAILED = false) (hdom : domOn s d 1 = true) (hg : 0 < gib)
    (ht : t = setF (setF s d STR_STS.READY 1) d STR_STS.SIZE gib) : execChannelTrained d gib s =
      .next (if paired t d && strUp t (partner d) && !isF t (partner d) STR_STS.SYNC then startSync t d else t) := by
  subst ht
  simp only [execChannelTrained, hp, hen, hr, hf, hdom, hg, Bool.not_false, Bool.and_self, decide_true, if_true]

/-! ## The copy from the partner (R133, R275) -/

section Resync

variable {s u : State} {d n a b : Nat} {crc : Bool}

/-- The copy takes the next buckets in order, and ends with the last of them. -/
theorem execStoreResyncDone_copies (hs : isF s d STR_STS.SYNC = true) (hup : strUp s d = true) (hpartner : strUp s (partner d) = true)
    (ha : a = getF s d STR_SYNC.DONE) (hb : b = min (regionBuckets s (partner d)) (a + n))
    (hu : u = setF (copyBuckets s d a b crc) d STR_SYNC.DONE b) :
    execStoreResyncDone ⟨d, n, crc⟩ s = .next (if b = regionBuckets u (partner d) then endSync u d else u) := by
  subst ha hb hu
  simp only [execStoreResyncDone, hs, hup, hpartner, Bool.and_self, if_true]

/-- A register of a die's store page is none of the package page. The bound on the bit covers PKG_PAIR_STS, which has four bits for
each pair. -/
theorem rkey_store_ne_pair {f : Fld} (hf : f.page = pgStr ∧ f.off < 4096 ∧ f.lo < 32) (d : Nat) {g : Fld}
    (hg : g.page = pgPkg ∧ g.off < 4096 ∧ g.lo ≤ 31 + 4 * d) : rkey d f 0 ≠ rkey 0 g 0 := by
  simp only [pgStr, pgPkg] at hf hg
  simp only [rkey, hf.1, hg.1]
  omega

/-- A rejoin that goes on to its check changes registers of the package only. -/
theorem getF_endSync {f : Fld} (hf : f.page = pgStr ∧ f.off < 4096 ∧ f.lo < 32) (s : State) (d : Nat) :
    getF (endSync s d) d f = getF (stopSync s d) d f := by
  unfold endSync
  dsimp only
  split
  · have hpair : (PKG_PAIR_STS.PAIR (d / 2)).lo ≤ 31 + 4 * d := by
      simp only [PKG_PAIR_STS.PAIR]
      omega
    have hbusy : PKG_PAIR_SYNC.BUSY.lo ≤ 31 + 4 * d := Nat.le_add_right ..
    rw [getF_setF_of_key _ _ (rkey_store_ne_pair hf d ⟨rfl, (by decide : (0xc0 : Nat) < 4096), hpair⟩),
      getF_setF_of_key _ _ (rkey_store_ne_pair hf d ⟨rfl, by decide, hbusy⟩)]
    rfl
  · rfl

theorem isF_endSync_sync (s : State) (d : Nat) : isF (endSync s d) d STR_STS.SYNC = false := by
  rw [isF, getF_endSync (by decide), stopSync, getF_setF_ne _ _ _ _ _ _ _ _ (by decide), getF_setF_self]
  rfl

theorem isF_endSync_busy (s : State) (d : Nat) : isF (endSync s d) d STR_SYNC.BUSY = false := by
  rw [isF, getF_endSync (by decide), stopSync, getF_setF_self]
  rfl

end Resync

/-- Settles O38: the channel goes by its enable, its training and its failures, and the copy by the buckets left. -/
theorem storeChannelComesAndGoes : Obligations.StoreChannelComesAndGoes := by
  intro s d hp
  refine ⟨fun hen hf => ⟨_, rfl, execModuleFail_fails hp hen hf rfl⟩, fun v => passChannels_eq v d,
    fun val u hu => ⟨execStoreChannelEnable_enables hp hu, execStoreChannelDisable_disables hp hu⟩,
    fun gib t hen hr hf hdom hg ht => ⟨execChannelTrained_trains hp hen hr hf hdom hg ht, fun u => rfl⟩, ?resync⟩
  case resync =>
    intro n crc a b u hs hup hpartner ha hb hu
    have hcopy : exec (.storeResyncDone ⟨d, n, crc⟩) s = _ := execStoreResyncDone_copies hs hup hpartner ha hb hu
    rw [hcopy]
    exact ⟨fun hleft => by rw [if_neg hleft], fun hend => ⟨by rw [if_pos hend], isF_endSync_sync u d, isF_endSync_busy u d⟩⟩

end Sys2Proof.Machine
end

section
/-!
Cellar fetches, promotions and notices: the table entry of a fetch (R257), its translations (R258, R363), its data (R257, R260), the
promotion of a hit (R267, R340), and the notices of deferred requests (R270, R361).
-/

namespace Sys2Proof.Machine

/-! ## Translations (R258, R363) -/

section Translation

variable {s u v : State} {id k r a l log2 base : Nat} {f : CFetch} {w : CWrite} {x : Xlat}

/-- The step or the cellar write waits for the translation of address `a` of region `r`. -/
structure AwaitsXlat (s : State) (id k r a : Nat) : Prop where
  target : xlateTarget s id k = some (r, a)
  master : canMaster s = true
  ats : isF s 0 HIF_STS.ATS_EN = true
  missing : xlated s (crPasid s r) a = false

theorem AwaitsXlat.runs (h : AwaitsXlat s id k r a) :
    (!canMaster s || !isF s 0 HIF_STS.ATS_EN || xlated s (crPasid s r) a) = false := by
  simp [h.master, h.ats, h.missing]

/-- A translation is cached for its page, of 4 KiB or more. -/
theorem execAtsTranslationCompletion_caches (h : AwaitsXlat s id k r a) (hl : l = max 12 log2)
    (hx : x = { pasid := crPasid s r, page := a / 2 ^ l * 2 ^ l, log2 := l, base := base / 2 ^ l * 2 ^ l })
    (hu : u = bumpSat s 0 HIF_ATS.XREQ) : execAtsTranslationCompletion id k ⟨log2, base⟩ true s =
      .next (advanceFetches { u with xlats := u.xlats.drop (u.xlats.length - 2047) ++ [x] }) := by
  subst hl hx hu
  simp only [execAtsTranslationCompletion, h.target, h.runs, Bool.false_eq_true, if_false, if_true]

theorem execAtsTranslationCompletion_denied (h : AwaitsXlat s id k r a) (hu : u = bumpSat s 0 HIF_ATS.XREQ)
    (hv : v = raiseErr (regionOff u r 3 (some 8)) 0 pgCel CEL_ERR.XLATE (it2w r a)) :
    execAtsTranslationCompletion id k ⟨log2, base⟩ false s =
      .next (if v.cwrite.any fun w => w.region == r && !w.issued then writeOver v 5 else v) := by
  subst hu hv
  simp only [execAtsTranslationCompletion, h.target, h.runs, Bool.false_eq_true, if_false]
  rfl

theorem xlateTarget_writeBucket (hw : s.cwrite = some w) (hi : w.issued = false) :
    xlateTarget s id 4 = some (w.region, bucketIova s w.region w.index) := by
  simp [xlateTarget, hw, hi]

theorem xlateTarget_writeTag (hw : s.cwrite = some w) (hi : w.issued = false) :
    xlateTarget s id 5 = some (w.region, tagIova s w.region w.index) := by
  simp [xlateTarget, hw, hi]

theorem xlateTarget_fetch (hf : liveFetch s id = some f) (hk : k < 4) (hl : f.atLead = true) (hi : f.issued = false)
    (hb : writeBusy s f = false) : xlateTarget s id k = some (f.region, (fetchAddrs s f).getD k 0) := by
  simp [xlateTarget, hk, hf, hl, hi, hb]

end Translation

/-! ## A fetch takes its entry and its data return (R257, R258) -/

section Fetch

variable {s t : State} {id n flit : Nat} {f : CFetch} {data v : BitVec 2304} {ok : Bool}

theorem execCellarFetchEntryGrant_grants (hf : liveFetch s id = some f) (he : f.entry = false) : execCellarFetchEntryGrant id s =
    .next (if fetchUsed s < 4096 then sendFetch (modFetch s id fun g => { g with entry := true }) id else s) := by
  simp only [execCellarFetchEntryGrant, hf, he, Bool.false_or, decide_eq_true_eq, ← Nat.not_lt, ite_not]

/-- The reads of the fetch `id` are outstanding. -/
structure ReadsOut (s : State) (id : Nat) (f : CFetch) : Prop where
  live : liveFetch s id = some f
  issued : f.issued = true
  empty : f.data = none
  master : canMaster s = true

theorem ReadsOut.runs (h : ReadsOut s id f) : (!f.issued || f.data.isSome || !canMaster s) = false := by
  simp [h.issued, h.empty, h.master]

theorem execCellarReadCompletion_fails (h : ReadsOut s id f) (hn : n ≠ 0) :
    execCellarReadCompletion id data n s = .next (advanceFetches (readFail s f n)) := by
  simp only [execCellarReadCompletion, h.live, h.runs, bne_iff_ne.mpr hn, Bool.false_eq_true, if_false, if_true]

/-- Data of a fetch of the lead die are decrypted at once. -/
theorem execCellarReadCompletion_lead (h : ReadsOut s id f) (hd : f.die = 0) :
    execCellarReadCompletion id data 0 s = .next (advanceFetches (dataArrive s f data)) := by
  simp only [execCellarReadCompletion, h.live, h.runs, hd, bne_self_eq_false, Bool.false_eq_true, if_false, if_true]

/-- Data of another die's fetch cross the ring. -/
theorem execCellarReadCompletion_away (h : ReadsOut s id f) (hd : f.die ≠ 0) : execCellarReadCompletion id data 0 s =
    .next (advanceFetches (sendData (modFetch s id fun g => { g with data := some data }) f.die id data)) := by
  simp only [execCellarReadCompletion, h.live, h.runs, hd, bne_self_eq_false, Bool.false_eq_true, if_false]

theorem execCellarReadCompletion_late (h : liveFetch s id = none) :
    execCellarReadCompletion id data n s = .next (lateCompletion s 0 id 4) := by
  simp only [execCellarReadCompletion, h]

/-- The request of a fetch reaches the lead die. -/
theorem execMgmtCellarData_request (hf : liveFetch s id = some f) (he : f.entry = true) (hl : f.atLead = false)
    (ht : takeCell s 0 f.die 5 (mgmtId 6 (2 * id)) flit = (t, ok)) : execMgmtCellarData ⟨id, flit⟩ s =
      .next (if ok then advanceFetch (modFetch t id fun g => { g with atLead := true }) id else t) := by
  simp only [execMgmtCellarData, hf, he, hl, ht, Bool.not_false, Bool.and_self, if_true]

/-- The data of a fetch reach its die, unless that die was lost meanwhile. -/
theorem execMgmtCellarData_data (hf : liveFetch s id = some f) (hl : f.atLead = true) (hv : f.data = some v)
    (ht : takeCell s f.die 0 5 (mgmtId 6 (2 * id + 1)) flit = (t, ok)) : execMgmtCellarData ⟨id, flit⟩ s =
      .next (if ok = true ∧ gone t f.die = false then dataArrive t f v else t) := by
  simp only [execMgmtCellarData, hf, hl, hv, ht, Bool.not_true, Bool.and_false, Bool.false_eq_true, if_false]
  cases ok <;> cases gone t f.die <;> rfl

end Fetch

/-! ## Promotion (R267, R340) -/

section Promotion

variable {s u v : State} {d : Nat} {p : Promo} {crc : Bool}

variable (hp : (s.promos.find? fun p => p.die == d) = some p) (hu : u = { s with promos := rmFirst (fun q => q == p) s.promos })

include hp hu

theorem execPromotion_drops (h : strUp s d = false ∨ isF s d SR_CTL.VALID p.region = false) :
    execPromotion ⟨d, crc⟩ s = .next u := by
  have hdrop : (!strUp s d || !isF s d SR_CTL.VALID p.region) = true := by
    rcases h with h | h <;> simp [h]
  subst hu
  simp only [execPromotion, hp, hdrop, if_true]

variable (hup : strUp s d = true) (hvalid : isF s d SR_CTL.VALID p.region = true)

include hup hvalid

theorem execPromotion_unlocked (hl : useLock u d 1 3 2 = none) : execPromotion ⟨d, crc⟩ s = .next s := by
  subst hu
  simp only [execPromotion, hp, hup, hvalid, hl, Bool.not_true, Bool.or_self, Bool.false_eq_true, if_false]

theorem execPromotion_locked (hl : useLock u d 1 3 2 = some v) :
    execPromotion ⟨d, crc⟩ s = .next (promote (nameLock v d (promoLines s p)) p crc) := by
  subst hu
  simp only [execPromotion, hp, hup, hvalid, hl, Bool.not_true, Bool.or_self, Bool.false_eq_true, if_false]

end Promotion

theorem promote_stale {s : State} {p : Promo} (h : promoStale s p = true) (crc : Bool) :
    promote s p crc = bumpSat s p.die STR_PROMO_SKIP.STALE := by
  simp only [promote, h, if_true]

/-! ## Notices (R270, R361) -/

section Notices

variable {s u v : State} {chan tail next a : Nat} {n : Notice} {p : Option Nat} {bs : List Nat}

/-- With every die present there are no notices of lost dies to form. -/
theorem lostNotices_present (h : ∀ e, e < s.part.dieCnt → gone s e = false) : lostNotices s = s := by
  have hnone : ((dies s).filter fun d => gone s d) = [] := by
    simpa [dies, List.filter_eq_nil_iff] using h
  simp only [lostNotices, hnone, List.foldl_nil]

theorem execNoticeTimeout_drops (hn : (s.notices.find? fun n => n.chan == chan) = some n) :
    execNoticeTimeout chan s = .next (if getF s 0 CEL_NTMO.TMO = 0 then s else dropNotice s n) := by
  simp only [execNoticeTimeout, hn]

variable (hlost : lostNotices s = s) (hn : (s.notices.find? fun n => n.chan == chan) = some n)

include hlost hn

theorem execNoticeWrite_disabled (hen : isF s 0 HIF_EQ_CFG.EN chan = false) : execNoticeWrite chan s = .next (dropNotice s n) := by
  simp only [execNoticeWrite, hlost, hn, hen, Bool.not_false, if_true]

variable (hen : isF s 0 HIF_EQ_CFG.EN chan = true) (htail : tail = getF s 0 HIF_EQ_STS.TAIL chan)
  (hnext : next = (tail + 1) % eqSize s chan)

include hen htail hnext

theorem execNoticeWrite_full (hfull : next = getF s 0 HIF_EQ_STS.HEAD chan) : execNoticeWrite chan s = .next s := by
  subst htail hnext
  simp only [execNoticeWrite, hlost, hn, hen, hfull, decide_true, Bool.true_or, Bool.not_true, Bool.false_eq_true, if_false, if_true]

/-- A notice goes out in two writes, its head last, and is signalled once while its queue is armed. -/
theorem execNoticeWrite_writes (hroom : next ≠ getF s 0 HIF_EQ_STS.HEAD chan) (hm : canMaster s = true)
    (ha : a = eqBase s chan + 96 * tail) (hbs : bs = bytesBE 96 n.data.toNat)
    (hp : p = if isF s 0 HIF_EQ_CFG.PASID_EN chan then some (getF s 0 HIF_EQ_PASID.PASID chan) else none)
    (hu : u = setF (emitOut (emitOut s (.hostWrite (a + 16) p (bs.drop 16))) (.hostWrite a p (bs.take 16))) 0 HIF_EQ_STS.TAIL next chan)
    (hv : v = { u with eqArmed := mset false u.eqArmed chan false }) : execNoticeWrite chan s =
      .next (noticeOver (if mget false u.eqArmed chan && isF u 0 HIF_EQ_CFG.IEN chan then
        sendMsix v (getF u 0 HIF_EQ_CFG.VEC chan) else u) n) := by
  subst htail hnext ha hbs hp hu hv
  simp only [execNoticeWrite, hlost, hn, hen, hroom, hm, decide_false, Bool.not_true, Bool.or_self, Bool.false_eq_true, if_false]

end Notices

/-- Settles O40: a fetch goes by where it stands, a promotion by its lock, and a notice by the room of its event queue. -/
theorem cellarFetchesAndNotices : Obligations.CellarFetchesAndNotices := by
  intro s id chan d
  refine ⟨?xlate, fun w hw hi => ⟨xlateTarget_writeBucket hw hi, xlateTarget_writeTag hw hi⟩, ?fetch,
    fun data fail => execCellarReadCompletion_late, ?promotion, fun p crc h => promote_stale h crc, lostNotices_present, ?notice⟩
  case xlate =>
    intro k log2 base r a x l u ht hm hats hmiss hl hx hu
    have h : AwaitsXlat s id k r a := ⟨ht, hm, hats, hmiss⟩
    exact ⟨execAtsTranslationCompletion_caches h hl hx hu, fun v => execAtsTranslationCompletion_denied h hu⟩
  case fetch =>
    intro f hf
    refine ⟨fun k => xlateTarget_fetch hf, fun v hv he => hv ▸ execCellarFetchEntryGrant_grants hf he, fun data hi hd hm => ?_,
      fun flit t ok => execMgmtCellarData_request hf, fun v flit t ok => execMgmtCellarData_data hf⟩
    have h : ReadsOut s id f := ⟨hf, hi, hd, hm⟩
    exact ⟨fun n => execCellarReadCompletion_fails h, execCellarReadCompletion_lead h, execCellarReadCompletion_away h⟩
  case promotion =>
    exact fun p u crc hp hu => ⟨execPromotion_drops hp hu, fun hup hvalid => ⟨execPromotion_unlocked hp hu hup hvalid,
      fun v => execPromotion_locked hp hu hup hvalid⟩⟩
  case notice =>
    intro n hlost hn
    refine ⟨execNoticeWrite_disabled hlost hn, fun tail next a p bs u v hen hm htail hnext ha hbs hp hu hv => ?_,
      execNoticeTimeout_drops hn⟩
    exact ⟨execNoticeWrite_full hlost hn hen htail hnext,
      fun hroom => execNoticeWrite_writes hlost hn hen htail hnext hroom hm ha hbs hp hu hv⟩

end Sys2Proof.Machine
end

section
/-!
The cellar's keys, writes and states: the key-encryption key (R261), key slots (R262), in-service writes (R264), and what takes the
cellar and its regions online and offline (R271, R272).
-/

namespace Sys2Proof.Machine

/-! ## The key-encryption key (R261) -/

section Kek

variable {s u : State} {k val v : Nat} (hp : present s 0 pgCel = true)

include hp

theorem execKekWrite_pcie :
    execKekWrite k val false s = .next (raiseErr s 0 pgCel CEL_ERR.KEK_PCIE (it1 (val % 2 ^ 32))) := by
  simp only [execKekWrite, writeKek, hp, Bool.not_true, Bool.not_false, Bool.false_eq_true, if_false, if_true]

theorem execKekWrite_fixed (hk : isF s 0 CEL_STS.KEK = true) : execKekWrite k val true s = .next s := by
  simp only [execKekWrite, writeKek, hp, hk, Bool.not_true, Bool.false_eq_true, if_false, if_true]

variable (hk : isF s 0 CEL_STS.KEK = false) (hu : u = setF s 0 (CEL_KEK.KEK (k % 8)) val)

include hk hu

theorem execKekWrite_word (hw : k % 8 ≠ 7) : execKekWrite k val true s = .next u := by
  subst hu
  simp only [execKekWrite, writeKek, hp, hk, bne_iff_ne.mpr hw, Bool.not_true, Bool.false_eq_true, if_false, if_true]

/-- The eighth word fixes the key. -/
theorem execKekWrite_last (hw : k % 8 = 7)
    (hv : v = ((List.range 8).map fun i => getF u 0 (CEL_KEK.KEK i)).foldl (fun a w => a * 2 ^ 32 + w) 0) :
    execKekWrite k val true s = .next (setF { u with kek := some v } 0 CEL_STS.KEK 1) := by
  subst hu hv
  simp only [execKekWrite, writeKek, hp, hk, hw, bne_self_eq_false, Bool.not_true, Bool.false_eq_true, if_false]

end Kek

/-! ## Key slots (R262) -/

section KeyCommand

variable {s u : State} {val k op : Nat} {c : Instr}

/-- A key command of the operation `op`: KEY_LOAD or KEY_CLEAR. -/
def KeyCommand (val op : Nat) (c : Instr) : Prop := op = 1 ∧ c = Instr.keyLoad val ∨ op = 2 ∧ c = Instr.keyClear val

/-- Either key command writes CEL_KCMD. -/
theorem exec_keyCommand (hc : KeyCommand val (fld val 8 2) c) : exec c s = .next (writeKcmd s val) := by
  rcases hc with ⟨hop, rfl⟩ | ⟨hop, rfl⟩
  · exact congrArg Host.Outcome.next (if_pos hop)
  · exact congrArg Host.Outcome.next (if_pos hop)

/-- A key command is refused while a region of its slot is online. -/
theorem writeKcmd_go (hp : present s 0 pgCel = true) (hk : k = fld val 0 8) (hop : op = fld val 8 2) (hkind : op = 1 ∨ op = 2)
    (hgo : val.testBit 31 = true) (hu : u = setF (setF s 0 CEL_KCMD.SLOT k) 0 CEL_KCMD.OP op) : writeKcmd s val =
      if (slotRegions u k).any fun r => regionOnline u r then keyDone u 1 else if op = 1 then loadKey u k else clearKey u k := by
  subst hk hop hu
  have hopen : (!val.testBit 31 || (fld val 8 2 != 1 && fld val 8 2 != 2)) = false := by
    rcases hkind with h | h <;> simp [hgo, h]
  simp only [writeKcmd, hp, hopen, Bool.not_true, Bool.false_eq_true, if_false]

end KeyCommand

/-! ## In-service writes (R264 to R266) -/

section CellarWrite

variable {s u : State} {val r i : Nat}

/-- The write that CEL_WCMD starts on bucket `i` of region `r`, with the data of the write buffer. -/
def bufferedWrite (u : State) (r i : Nat) : CWrite :=
  { region := r, index := i, issued := false
    data := BitVec.ofNat 1024 (((List.range 32).map fun j => getF u 0 (CEL_WBUF.DATA j)).foldl (fun a w => a * 2 ^ 32 + w) 0) }

/-- A write goes by the state of its region, then by the region's size. -/
theorem execCellarWrite_go (hp : present s 0 pgCel = true) (hgo : val.testBit 31 = true) (hidle : isF s 0 CEL_WCMD.GO = false)
    (hr : r = fld val 0 8) (hi : i = getF s 0 CEL_WIDX.INDEX) (hu : u = setF s 0 CEL_WCMD.REGION r) :
    execCellarWrite val s = .next (if regionOnline u r = false then setF u 0 CEL_WCMD.STATUS 1
      else if getF u 0 CR_SIZE.NBUCK r ≤ i then setF u 0 CEL_WCMD.STATUS 2
      else advanceWrite (setF { u with cwrite := some (bufferedWrite u r i) } 0 CEL_WCMD.GO 1)) := by
  subst hr hi hu
  simp only [execCellarWrite, writeWcmd, hp, hgo, hidle, Bool.not_true, Bool.or_self, Bool.false_eq_true, if_false, if_true,
    Bool.not_eq_true']
  rfl

end CellarWrite

section CellarWriteComplete

variable {s : State} {w : CWrite} {bucket old : BitVec 1024} {tag r i key : Nat} (hw : s.cwrite = some w)

include hw

theorem execCellarWriteComplete_error : execCellarWriteComplete bucket tag true s = .next (writeOver s 5) := by
  simp only [execCellarWriteComplete, hw, Bool.not_true, Bool.and_false, Bool.true_or, Bool.false_eq_true, if_false, if_true]

variable (hm : canMaster s = true)

include hm

theorem execCellarWriteComplete_early (hi : w.issued = false) : execCellarWriteComplete bucket tag false s = .next s := by
  simp only [execCellarWriteComplete, hw, hm, hi, Bool.not_false, Bool.and_self, if_true]

variable (hissued : w.issued = true) (hr : r = w.region) (hi : i = w.index)

include hissued hr hi

/-- A bucket that opens goes by its region and its version. -/
theorem execCellarWriteComplete_opened (hk : mget none s.keys (getF s 0 CR_CTL.KSLOT r) = some key)
    (ho : openBucket s r i bucket tag = some old) : execCellarWriteComplete bucket tag false s =
      .next (if hdrRgn (bucketHdr old) ≠ r then writeOver s 3
        else if hdrVersion (bucketHdr old) = 2 ^ 48 - 1 then writeOver s 4 else cellarWrite s r i key w.data old) := by
  subst hr hi
  simp only [execCellarWriteComplete, hw, hm, hissued, hk, ho, Bool.not_true, Bool.not_false, Bool.and_true, Bool.or_self,
    Bool.false_eq_true, if_false, bne_iff_ne]

/-- A bucket that fails its tag counts as an authentication failure, and may fire the alarm. -/
theorem execCellarWriteComplete_failedTag (ho : openBucket s r i bucket tag = none) : execCellarWriteComplete bucket tag false s =
    .next (writeOver (if (authFail s 0 r i).2 then fireAlarm (authFail s 0 r i).1 6 else (authFail s 0 r i).1) 3) := by
  subst hr hi
  cases hk : mget none s.keys (getF s 0 CR_CTL.KSLOT w.region) <;>
    simp only [execCellarWriteComplete, hw, hm, hissued, hk, ho, Bool.not_true, Bool.not_false, Bool.and_true, Bool.or_self,
      Bool.false_eq_true, if_false]

end CellarWriteComplete

/-! ## Online and offline (R271, R272) -/

section Online

variable {s : State} {val r : Nat} (hp : present s 0 pgCel = true)

/-- The cellar as CEL_CTL.EN brings it online. -/
def cellarOn (s : State) : State := setF (setF (setF s 0 CEL_CTL.EN 1) 0 CEL_STS.ONLINE 1) 0 CEL_STS.CAUSE 0

theorem isF_cellarOn_en (s : State) : isF (cellarOn s) 0 CEL_CTL.EN = true := by
  rw [isF, cellarOn, getF_setF_ne _ _ _ _ _ _ _ _ (by decide), getF_setF_ne _ _ _ _ _ _ _ _ (by decide), getF_setF_self]
  rfl

theorem isF_cellarOn_online (s : State) : isF (cellarOn s) 0 CEL_STS.ONLINE = true := by
  rw [isF, cellarOn, getF_setF_ne _ _ _ _ _ _ _ _ (by decide), getF_setF_self]
  rfl

theorem getF_cellarOn_cause (s : State) : getF (cellarOn s) 0 CEL_STS.CAUSE = 0 := getF_setF_self ..

/-- What CELLAR_ENABLE needs: the link, bus mastering, no tag in quarantine, and the key. -/
def cellarMay (s : State) : Bool := isF s 0 HIF_STS.LINK_UP && canMaster s && !isF s 0 HIF_STS.QUAR && isF s 0 CEL_STS.KEK

include hp

theorem execCellarEnable_off (hv : val.testBit 0 = true) (hen : isF s 0 CEL_CTL.EN = false) :
    execCellarEnable val s = .next (if cellarMay s then cellarOn s else s) := by
  simp only [execCellarEnable, writeCelCtl, hp, hv, hen, Bool.not_true, Bool.true_and, Bool.false_eq_true, if_false, if_true]
  rfl

theorem execCellarDisable_on (hv : val.testBit 0 = false) (hen : isF s 0 CEL_CTL.EN = true) :
    execCellarDisable val s = .next (cellarOff s 1) := by
  simp only [execCellarDisable, writeCelCtl, hp, hv, hen, Bool.not_true, Bool.false_eq_true, if_false, if_true]

variable (hr : r = fld val 0 8)

include hr

theorem execRegionOnline_sets (hv : val.testBit 8 = false) (hon : isF s 0 CEL_STS.ONLINE = true)
    (hvalid : isF s 0 CR_CTL.VALID r = true) (hkey : mget none s.keys (getF s 0 CR_CTL.KSLOT r) ≠ none)
    (hats : isF s 0 HIF_STS.ATS_EN = true) : execRegionOnline val s = .next (setCause s r 0) := by
  subst hr
  simp only [execRegionOnline, writeRgnOn, hp, hv, hon, hvalid, Option.isSome_iff_ne_none.mpr hkey, hats, Bool.not_true, Bool.and_self,
    Bool.false_eq_true, if_false, if_true]

/-- A region that the host or a zeroization took offline keeps its cause (log 30). -/
theorem execRegionOffline_sets (hv : val.testBit 8 = true) : execRegionOffline val s =
    .next (if getF s 0 CR_CTL.CAUSE r = 1 ∨ getF s 0 CR_CTL.CAUSE r = 5 then s else regionOff s r 6 none) := by
  subst hr
  simp only [execRegionOffline, writeRgnOn, hp, hv, Bool.not_true, Bool.false_eq_true, if_false, if_true, Bool.or_eq_true, beq_iff_eq]

end Online

/-- Settles O41: keys go by the port and the slot's regions, a write by its region and its bucket, and the cellar by its conditions. -/
theorem cellarKeysWritesAndStates : Obligations.CellarKeysWritesAndStates := by
  intro s hp
  refine ⟨fun k val => ⟨execKekWrite_pcie hp, execKekWrite_fixed hp, fun u hk hu => ⟨execKekWrite_word hp hk hu,
    fun v => execKekWrite_last hp hk hu⟩⟩, ?keys, ?start, ?complete, ?enable, fun val => execCellarDisable_on hp,
    fun val r hr => ⟨execRegionOnline_sets hp hr, execRegionOffline_sets hp hr⟩⟩
  case keys =>
    intro val k op u hk hop hgo hu c hc
    have hkind : op = 1 ∨ op = 2 := hc.imp And.left And.left
    rw [exec_keyCommand (hop ▸ hc), writeKcmd_go hp hk hop hkind hgo hu]
    exact ⟨fun hon => by rw [if_pos hon], fun hoff => by rw [if_neg (Bool.eq_false_iff.mp hoff)]⟩
  case start =>
    intro val r i u hgo hidle hr hi hu
    have hstart : exec (.cellarWrite val) s = _ := execCellarWrite_go hp hgo hidle hr hi hu
    rw [hstart]
    refine ⟨fun hoff => by rw [if_pos hoff], fun hon hsize => ?_, fun hon hsize => ⟨bufferedWrite u r i, rfl, rfl, rfl, rfl, ?_⟩⟩
    · rw [if_neg (Bool.eq_false_iff.not.mpr (not_not_intro hon)), if_pos hsize]
    · rw [if_neg (Bool.eq_false_iff.not.mpr (not_not_intro hon)), if_neg hsize.not_ge]
  case complete =>
    intro bucket tag w r i hw hr hi
    refine ⟨execCellarWriteComplete_error hw, execCellarWriteComplete_early hw, fun hm hissued key old hk ho => ?_,
      fun hm hissued => execCellarWriteComplete_failedTag hw hm hissued hr hi⟩
    have hopened : exec (.cellarWriteComplete bucket tag false) s = _ := execCellarWriteComplete_opened hw hm hissued hr hi hk ho
    rw [hopened]
    exact ⟨fun hrgn => by rw [if_pos hrgn], fun hrgn hmax => by rw [if_neg (not_not_intro hrgn), if_pos hmax],
      fun hrgn hmax => by rw [if_neg (not_not_intro hrgn), if_neg hmax]⟩
  case enable =>
    intro val hv hen
    have henable : exec (.cellarEnable val) s = _ := execCellarEnable_off hp hv hen
    rw [henable]
    refine ⟨fun hlink hm hquar hkek => ⟨cellarOn s, ?_, isF_cellarOn_en s, isF_cellarOn_online s, getF_cellarOn_cause s⟩,
      fun hno => ?_⟩
    · have hmay : cellarMay s = true := by simp [cellarMay, hlink, hm, hquar, hkek]
      rw [if_pos hmay]
    · have hmay : cellarMay s = false := by rcases hno with h | h | h | h <;> simp [cellarMay, h]
      rw [if_neg (Bool.eq_false_iff.mp hmay)]

end Sys2Proof.Machine
end

section
/-!
Host queues: doorbells (R356), submission fetches (R358), completion entries (R359, R360), and the configuration that enables a queue
(R357, R361).
-/

namespace Sys2Proof.Machine

/-! ## Doorbells (R356, R360) -/

section Doorbell

variable {s : State} {q val : Nat}

/-- A doorbell of queue `q` has arrived. -/
structure DoorbellRings (s : State) (q : Nat) : Prop where
  bar : barOpen s = true
  queue : q < 64

theorem DoorbellRings.runs (h : DoorbellRings s q) : (!barOpen s || decide (64 ≤ q)) = false := by
  simp [h.bar, h.queue]

/-- The pointer of a doorbell of an update queue is out of range, or the queue is disabled. -/
theorem badPointer_iff : (!isF s 0 HIF_Q_CFG.EN q || decide (qSize s q ≤ val)) = true ↔
    isF s 0 HIF_Q_CFG.EN q = false ∨ qSize s q ≤ val := by
  simp

theorem goodPointer (hen : isF s 0 HIF_Q_CFG.EN q = true) (hval : val < qSize s q) :
    (!isF s 0 HIF_Q_CFG.EN q || decide (qSize s q ≤ val)) = false := by
  simp [hen, hval]

theorem execSqDoorbell_bad (h : DoorbellRings s q) (hbad : isF s 0 HIF_Q_CFG.EN q = false ∨ qSize s q ≤ val) :
    execSqDoorbell q val s = .next (badDoorbell s q val) := by
  simp only [execSqDoorbell, h.runs, badPointer_iff.mpr hbad, Bool.false_eq_true, if_false, if_true]

theorem execCqHeadDoorbell_bad (h : DoorbellRings s q) (hbad : isF s 0 HIF_Q_CFG.EN q = false ∨ qSize s q ≤ val) :
    execCqHeadDoorbell q val s = .next (badDoorbell s q val) := by
  simp only [execCqHeadDoorbell, h.runs, badPointer_iff.mpr hbad, Bool.false_eq_true, if_false, if_true]

theorem execEqHeadDoorbell_bad (h : DoorbellRings s q) (hbad : isF s 0 HIF_EQ_CFG.EN q = false ∨ eqSize s q ≤ val) :
    execEqHeadDoorbell q val s = .next (badDoorbell s q val) := by
  have hrefused : (!isF s 0 HIF_EQ_CFG.EN q || decide (eqSize s q ≤ val)) = true := by simpa using hbad
  simp only [execEqHeadDoorbell, h.runs, hrefused, Bool.false_eq_true, if_false, if_true]

theorem execSqDoorbell_moves (h : DoorbellRings s q) (hen : isF s 0 HIF_Q_CFG.EN q = true) (hval : val < qSize s q) :
    execSqDoorbell q val s = .next { s with sqTail := mset 0 s.sqTail q val } := by
  simp only [execSqDoorbell, h.runs, goodPointer hen hval, Bool.false_eq_true, if_false]

/-- The completion queue with its head moved to `val`: the entries up to there are free again, and the queue is armed. -/
def cqHeadMoved (s : State) (q val : Nat) : State :=
  { s with cqHead := mset 0 s.cqHead q val
           cqUsed := mmod 0 s.cqUsed q fun u => u - (val + qSize s q - mget 0 s.cqHead q) % qSize s q
           cqArmed := mset false s.cqArmed q true }

theorem execCqHeadDoorbell_moves (h : DoorbellRings s q) (hen : isF s 0 HIF_Q_CFG.EN q = true) (hval : val < qSize s q) :
    execCqHeadDoorbell q val s = .next (cqHeadMoved s q val) := by
  simp only [execCqHeadDoorbell, h.runs, goodPointer hen hval, Bool.false_eq_true, if_false]
  rfl

theorem execEqHeadDoorbell_moves (h : DoorbellRings s q) (hen : isF s 0 HIF_EQ_CFG.EN q = true) (hval : val < eqSize s q) :
    execEqHeadDoorbell q val s = .next (setF { s with eqArmed := mset false s.eqArmed q true } 0 HIF_EQ_STS.HEAD val q) := by
  have hgood : (!isF s 0 HIF_EQ_CFG.EN q || decide (eqSize s q ≤ val)) = false := by simp [hen, hval]
  simp only [execEqHeadDoorbell, h.runs, hgood, Bool.false_eq_true, if_false]

end Doorbell

/-! ## Submission fetches (R358) -/

section SqFetch

variable {s u : State} {q id n head m : Nat}

/-- The device may fetch from submission queue `q`, and no fetch of it is under way. -/
structure MayFetch (s : State) (q : Nat) : Prop where
  queue : q < 64
  enabled : isF s 0 HIF_Q_CFG.EN q = true
  running : isF s 0 HIF_Q_CFG.ERR q = false
  master : canMaster s = true
  engine : isF s 0 UPD_CTL.EN = true
  idle : (fetching s q).2 = 0

theorem MayFetch.runs (h : MayFetch s q) : (decide (64 ≤ q) || !isF s 0 HIF_Q_CFG.EN q || isF s 0 HIF_Q_CFG.ERR q || !canMaster s ||
    !isF s 0 UPD_CTL.EN || (fetching s q).2 != 0) = false := by
  simp [h.queue, h.enabled, h.running, h.master, h.engine, h.idle]

/-- The entries that a fetch asks for: what the ring holds and the completion queue can take, up to the wrap. -/
def fetchCount (s : State) (q : Nat) : Nat :=
  min (min ((mget 0 s.sqTail q + qSize s q - getF s 0 HIF_Q_STS.HEAD q) % qSize s q) (qSize s q - mget 0 s.cqUsed q))
    (qSize s q - getF s 0 HIF_Q_STS.HEAD q)

theorem execSqFetch_nothing (h : MayFetch s q) (hm : fetchCount s q = 0) : execSqFetch q s = .next s := by
  rw [fetchCount] at hm
  simp only [execSqFetch, h.runs, hm, Bool.false_eq_true, if_false, if_true]

theorem execSqFetch_asks (h : MayFetch s q) (hm : fetchCount s q = m) (hne : m ≠ 0) (hhead : head = getF s 0 HIF_Q_STS.HEAD q)
    (hu : u = { s with fetchedSq := mset (0, 0) s.fetchedSq q (head, m), cqUsed := mmod 0 s.cqUsed q fun u => u + m }) :
    execSqFetch q s = .next (emitOut u (.hostRead (sqBase u q + 64 * head) (qPasid u q) (64 * m))) := by
  subst hhead hu
  rw [fetchCount] at hm
  simp only [execSqFetch, h.runs, hm, hne, Bool.false_eq_true, if_false]

/-- The entries of a completed fetch become commands in order; after the entry at place `i` the head is `head + i + 1`. -/
def handOver (q n head : Nat) (s : State) (e : BitVec 512 × Nat) : State :=
  sendCmd (setF s 0 HIF_Q_STS.HEAD ((head + e.2 + 1) % n) q) 0 q (.sq q ((head + e.2 + 1) % n)) e.1 false

variable {data : List (BitVec 512)} (hf : fetching s q = (head, m))

include hf

theorem execSqFetchCompletion_late {fail : Bool} (hm : m = 0) :
    execSqFetchCompletion q data fail s = .next (lateCompletion s 1 q 1) := by
  simp only [execSqFetchCompletion, hf, hm, if_true]

variable (hm : m ≠ 0)

include hm

theorem execSqFetchCompletion_fails : execSqFetchCompletion q data true s = .next (advanceFetches (fetchFail s q)) := by
  simp only [execSqFetchCompletion, hf, hm, if_false, if_true]

theorem execSqFetchCompletion_hands (hlen : data.length = m) (hn : n = qSize s q) (hu : u = advanceFetches (endFetch s q false)) :
    execSqFetchCompletion q data false s = .next (data.zipIdx.foldl (handOver q n head) u) := by
  subst hn hu
  simp only [execSqFetchCompletion, hf, hm, hlen, bne_self_eq_false, Bool.false_eq_true, if_false]
  rfl

theorem execPcieCompletionTimeout_fetch : execPcieCompletionTimeout 1 q s = .next (advanceFetches (fetchFail s q)) := by
  simp only [execPcieCompletionTimeout, hf, hm, if_false]

end SqFetch

/-- The reads of a cellar step time out together, as a failure of its first. -/
theorem execPcieCompletionTimeout_step {s : State} {id : Nat} {f : CFetch} (hf : liveFetch s id = some f) (hi : f.issued = true)
    (hd : f.data = none) : execPcieCompletionTimeout 0 id s = .next (advanceFetches (readFail s f 1)) := by
  simp only [execPcieCompletionTimeout, hf, hi, hd, Option.isNone_none, Bool.and_self, if_true]

/-! ## Completion entries (R359, R360) -/

section CqEntry

variable {s u v w : State} {q a p tail : Nat} {e : CqEntry}

/-- The bytes of a completion entry's first write. -/
def cqFirstHalf (e : CqEntry) : List Nat :=
  bytesBE 4 (swap32 e.w0) ++ bytesBE 4 (swap32 e.w1) ++ bytesBE 4 (swap32 e.w2) ++ bytesBE 4 (swap32 e.w3)

/-- The bytes of its second write, which carries the phase. -/
def cqSecondHalf (e : CqEntry) (p : Nat) : List Nat :=
  bytesBE 4 (swap32 (p * 2 ^ 31 + e.src % 256 * 2 ^ 16 + e.sqhd % 2 ^ 16)) ++ List.replicate 12 0

variable (he : (s.cqPend.find? fun e => e.q == q) = some e) (hu : u = { s with cqPend := rmFirst (fun x => x == e) s.cqPend })

include he hu

theorem execCqEntryWrite_disabled (hen : isF s 0 HIF_Q_CFG.EN q = false) : execCqEntryWrite q s = .next u := by
  subst hu
  simp only [execCqEntryWrite, he, hen, Bool.not_false, if_true]

/-- An entry goes out in two writes; the phase turns at the wrap, and an armed queue signals once. -/
theorem execCqEntryWrite_writes (hen : isF s 0 HIF_Q_CFG.EN q = true) (hm : canMaster s = true) (htail : tail = getF u 0 HIF_Q_STS.TAIL q)
    (ha : a = cqBase u q + 32 * tail) (hp : p = getF u 0 HIF_Q_CFG.PHASE q)
    (hv : v = setF (emitOut (emitOut u (.hostWrite a (qPasid u q) (cqFirstHalf e))) (.hostWrite (a + 16) (qPasid u q) (cqSecondHalf e p)))
      0 HIF_Q_STS.TAIL ((tail + 1) % qSize u q) q)
    (hw : w = if (tail + 1) % qSize u q = 0 then setF v 0 HIF_Q_CFG.PHASE (1 - p) q else v) : execCqEntryWrite q s =
      .next (if mget false w.cqArmed q && isF w 0 HIF_Q_CFG.IEN q then
        sendMsix { w with cqArmed := mset false w.cqArmed q false } (getF w 0 HIF_Q_CFG.VEC q) else w) := by
  subst hu htail ha hp hv hw
  simp only [execCqEntryWrite, he, hen, hm, Bool.not_true, Bool.false_eq_true, if_false]
  rfl

end CqEntry

/-! ## Queues are enabled (R357, R361) -/

section Enable

variable {s : State} {q val : Nat}

theorem execQueueEnable_writes (hq : q < 64) (hv : val.testBit 31 = true) : execQueueEnable q val s = .next (writeQCfg s q val) := by
  simp only [execQueueEnable, hq, hv, and_self, if_true]

theorem execEventQueueEnable_writes (hq : q < 64) (hv : val.testBit 31 = true) :
    execEventQueueEnable q val s = .next (writeEqCfg s q val) := by
  simp only [execEventQueueEnable, hq, hv, and_self, if_true]

/-- While a queue is enabled its configuration stands. -/
theorem writeQCfg_enabled (hv : val.testBit 31 = true) (hen : isF s 0 HIF_Q_CFG.EN q = true) : writeQCfg s q val = s := by
  simp only [writeQCfg, hv, hen, if_true]

/-- The registers of a queue at its start: enabled without error, in phase 1, head and tail at 0. -/
def queueRegs (s : State) (q : Nat) : State :=
  setF (setF (setF (setF (setF s 0 HIF_Q_CFG.EN 1 q) 0 HIF_Q_CFG.ERR 0 q) 0 HIF_Q_CFG.PHASE 1 q) 0 HIF_Q_STS.HEAD 0 q) 0 HIF_Q_STS.TAIL 0 q

/-- A queue at its start: its pointers are 0, and it is armed. -/
def queueStarted (s : State) (q : Nat) : State :=
  let t := queueRegs s q
  { t with sqTail := mset 0 t.sqTail q 0, cqHead := mset 0 t.cqHead q 0, cqUsed := mset 0 t.cqUsed q (inFlight t q)
           cqArmed := mset false t.cqArmed q true }

theorem writeQCfg_starts (hv : val.testBit 31 = true) (hen : isF s 0 HIF_Q_CFG.EN q = false) :
    writeQCfg s q val = queueStarted (writeCfgFields s q val) q := by
  simp only [writeQCfg, hv, hen, Bool.not_true, Bool.false_eq_true, if_false]
  rfl

/-- The state of an update queue that has just been enabled, as its registers and pointers show it. -/
structure QueueReset (s : State) (q : Nat) : Prop where
  enabled : isF s 0 HIF_Q_CFG.EN q = true
  noError : isF s 0 HIF_Q_CFG.ERR q = false
  phase : isF s 0 HIF_Q_CFG.PHASE q = true
  head : getF s 0 HIF_Q_STS.HEAD q = 0
  tail : getF s 0 HIF_Q_STS.TAIL q = 0
  sqTail : mget 0 s.sqTail q = 0
  armed : mget false s.cqArmed q = true

theorem queueReset_queueStarted (s : State) (q : Nat) : QueueReset (queueStarted s q) q := by
  have hregs (f : Fld) : getF (queueStarted s q) 0 f q = getF (queueRegs s q) 0 f q := rfl
  have hsts {f : Fld} (hf : f.off < 4096 ∧ f.lo < 32) (h : f.off ≠ 0xa0) :
      getF (queueRegs s q) 0 f q = getF (setF (setF (setF s 0 HIF_Q_CFG.EN 1 q) 0 HIF_Q_CFG.ERR 0 q) 0 HIF_Q_CFG.PHASE 1 q) 0 f q := by
    rw [queueRegs, getF_setF_ne _ _ _ _ _ _ _ _ (fne_of_off hf (by decide) h), getF_setF_ne _ _ _ _ _ _ _ _ (fne_of_off hf (by decide) h)]
  refine ⟨?_, ?_, ?_, ?_, ?_, mget_mset_self 0 s.sqTail q 0, mget_mset_self false s.cqArmed q true⟩
  · rw [isF, hregs, hsts (by decide) (by decide), getF_setF_ne _ _ _ _ _ _ _ _ (fne_of_lo (by decide) (by decide) (by decide)),
      getF_setF_ne _ _ _ _ _ _ _ _ (fne_of_lo (by decide) (by decide) (by decide)), getF_setF_self]
    rfl
  · rw [isF, hregs, hsts (by decide) (by decide), getF_setF_ne _ _ _ _ _ _ _ _ (fne_of_lo (by decide) (by decide) (by decide)),
      getF_setF_self]
    rfl
  · rw [isF, hregs, hsts (by decide) (by decide), getF_setF_self]
    rfl
  · rw [hregs, queueRegs, getF_setF_ne _ _ _ _ _ _ _ _ (fne_of_lo (by decide) (by decide) (by decide)), getF_setF_self]
    rfl
  · rw [hregs, queueRegs, getF_setF_self]
    rfl

end Enable

/-- Settles O42: a doorbell goes by its range, a fetch by the room on both rings, and an entry by the state of its queue. -/
theorem hostQueuesMove : Obligations.HostQueuesMove := by
  intro s q val
  refine ⟨?doorbell, ?fetch, ?completion, fun f => execPcieCompletionTimeout_step, fun e u a p tail v w he hu =>
    ⟨execCqEntryWrite_disabled he hu, execCqEntryWrite_writes he hu⟩, fun hq hv => ⟨execQueueEnable_writes hq hv,
    execEventQueueEnable_writes hq hv, writeQCfg_enabled hv, fun hen => ?enable⟩⟩
  case doorbell =>
    intro hbar hq
    have h : DoorbellRings s q := ⟨hbar, hq⟩
    exact ⟨fun hbad => ⟨execSqDoorbell_bad h hbad, execCqHeadDoorbell_bad h hbad⟩, execEqHeadDoorbell_bad h,
      fun hen hval => ⟨execSqDoorbell_moves h hen hval, cqHeadMoved s q val, execCqHeadDoorbell_moves h hen hval, mget_mset_self ..,
        mget_mset_self false s.cqArmed q true, mget_mset_self ..⟩, execEqHeadDoorbell_moves h⟩
  case fetch =>
    intro n head m hq hen herr hmaster hupd hidle hn hhead hm
    have h : MayFetch s q := ⟨hq, hen, herr, hmaster, hupd, hidle⟩
    have hcount : fetchCount s q = m := by rw [hm, hn, hhead, fetchCount]
    exact ⟨fun h0 => execSqFetch_nothing h (hcount.trans h0), fun u hne => execSqFetch_asks h hcount hne hhead⟩
  case completion =>
    exact fun head m hf => ⟨fun hm data fail => execSqFetchCompletion_late hf hm, fun hm data => ⟨execSqFetchCompletion_fails hf hm,
      fun u n => execSqFetchCompletion_hands hf hm, execPcieCompletionTimeout_fetch hf hm⟩⟩
  case enable =>
    rw [writeQCfg_starts hv hen]
    obtain ⟨hon, herr, hphase, hhead, htail, hsq, harmed⟩ := queueReset_queueStarted (writeCfgFields s q val) q
    exact ⟨hon, herr, hphase, hhead, htail, hsq, harmed⟩

end Sys2Proof.Machine
end

section
/-!
The ways of the bucket cache: preload and locking (R294, R295), range invalidation and the refetch of locked lines (R295, R296), and
ways that are enabled, refused, cleaned and emptied (R297, R298, R300).
-/

namespace Sys2Proof.Machine

/-- A walk's banks have room when those of its first 16 lines have. -/
theorem all_walkRoom {s : State} {d base n : Nat} (h : ∀ i, i < n → walkRoom s d (base + i) = true) :
    ((List.range n).all fun i => walkRoom s d (base + i)) = true :=
  List.all_eq_true.mpr fun i hi => h i (List.mem_range.mp hi)

/-! ## A preload is asked for (R294, R297) -/

section Preload

variable {s u : State} {d val w en : Nat}

/-- The request of a preload as CCH_PRE_CMD shows it. -/
def preloadShown (s : State) (d val : Nat) : State :=
  setF (setF (setF s d CCH_PRE_CMD.LOCK (fld val 24 1)) d CCH_PRE_CMD.WAY (fld val 20 4)) d CCH_PRE_CMD.COUNT (fld val 0 13)

/-- CCH_PRE_CMD is written with GO while no preload runs. -/
structure AsksPreload (s : State) (d val : Nat) : Prop where
  page : present s d pgCch = true
  go : val.testBit 31 = true
  idle : isF s d CCH_PRE_CMD.GO = false

/-- A preload that is asked for is refused or becomes a walk. -/
theorem execCachePreload_eq (h : AsksPreload s d val) (hw : w = fld val 20 4) (hu : u = preloadShown s d val)
    (hen : en = getF u d CCH_WAYS.EN) : execCachePreload d val s = .next (
      if !en.testBit w then setF u d CCH_PRE_CMD.STATUS 2
      else if activeWays u d (en &&& (65535 - 2 ^ w)) (getF u d CCH_WAYS.LOCK) < 2 then
        refuseWays (setF u d CCH_PRE_CMD.STATUS 1) d (val % 2 ^ 32)
      else setF { u with walks := u.walks ++ [{ die := d, kind := 0, base := getF u d CCH_PRE_BASE.LINE, count := fld val 0 13, way := w,
                                                lock := val.testBit 24 }] } d CCH_PRE_CMD.GO 1) := by
  subst hw hu hen
  simp only [execCachePreload, writePreload, h.page, h.go, h.idle, Bool.and_self, Bool.not_true, Bool.or_self, Bool.false_eq_true,
    if_true, if_false]
  rfl

end Preload

/-! ## A preload ends (R294, R295) -/

section PreloadDone

variable {s u v : State} {d badAt st lock : Nat} {k : CacheWalk}

/-- The lines of a preload that may run are loaded; its way is then locked if it asked for that and two ways stay active. -/
theorem execCachePreloadDone_eq (hk : (s.walks.find? fun k => k.die == d && k.kind == 0) = some k) (hup : strUp s d = true)
    (hroom : ∀ i, i < min 16 k.count → walkRoom s d (k.base + i) = true)
    (hload : (u, st) = preloadFrom d k.way k.base k.count badAt k.count { s with walks := rmFirst (fun j => j == k) s.walks })
    (hv : v = setF (setF u d CCH_PRE_CMD.GO 0) d CCH_PRE_CMD.STATUS st) (hlock : lock = getF v d CCH_WAYS.LOCK ||| 2 ^ k.way) :
    execCachePreloadDone d badAt s = .next (
      if !k.lock then v
      else if activeWays v d (getF v d CCH_WAYS.EN) lock < 2 then refuseWays (setF v d CCH_PRE_CMD.STATUS 1) d (2 ^ 31)
      else setF v d CCH_WAYS.LOCK lock) := by
  subst hv hlock
  simp only [execCachePreloadDone, hk, hup, all_walkRoom hroom, ← hload, Bool.not_true, Bool.or_self, Bool.false_eq_true, if_false]

end PreloadDone

/-! ## Range invalidation and the refetch of locked lines (R295, R296) -/

section Invalidation

variable {s u v : State} {d val n b line ecc : Nat} {lines : List (Nat × Nat)} {k : CacheWalk} {r : Bucket}

/-- The valid lines of a die's cache, each with its way. -/
def validLines (s : State) (d : Nat) : List (Nat × Nat) :=
  (s.cache.filter fun q => q.1 / 65536 == d && q.2.valid).map fun q => (q.1 / 4096 % 16, q.2.tag * 4096 + q.1 % 4096)

/-- The lines in range are dropped at once, and the walk over the banks begins. -/
theorem execCacheRangeInvalidate_starts (hp : present s d pgCch = true) (hgo : val.testBit 31 = true)
    (hidle : isF s d CCH_INV_CMD.GO = false) (hn : n = fld val 0 29) (hu : u = setF s d CCH_INV_CMD.COUNT n)
    (hb : b = getF u d CCH_INV_BASE.LINE) (hlines : lines = validLines u d)
    (hv : v = (lines.filter fun q => decide (b ≤ q.2 ∧ q.2 < b + n)).foldl (fun s q => invLine s d q.1 q.2) u) :
    execCacheRangeInvalidate d val s = .next (setF { v with walks := v.walks ++
      [{ die := d, kind := 1, base := b, count := n, way := 0, lock := false }] } d CCH_INV_CMD.GO 1) := by
  subst hn hu hb hlines hv
  simp only [execCacheRangeInvalidate, writeInv, hp, hgo, hidle, Bool.and_self, Bool.not_true, Bool.false_eq_true, if_true, if_false]
  rfl

theorem execCacheRangeInvalidateDone_ends (hk : (s.walks.find? fun k => k.die == d && k.kind == 1) = some k)
    (hrefetched : s.walks.any (fun j => j.die == d && j.kind == 2 && decide (k.base ≤ j.base ∧ j.base < k.base + k.count)) = false)
    (hroom : ∀ i, i < min 16 k.count → walkRoom s d (k.base + i) = true) : execCacheRangeInvalidateDone d s =
      .next (setF { s with walks := rmFirst (fun j => j == k) s.walks } d CCH_INV_CMD.GO 0) := by
  simp only [execCacheRangeInvalidateDone, hk, hrefetched, all_walkRoom hroom, Bool.not_true, Bool.or_self, Bool.false_eq_true, if_false]

theorem execLockedLineRefetch_loads (hk : (s.walks.find? fun k => k.die == d && k.kind == 2 && k.base == line) = some k)
    (hup : strUp s d = true) (hroom : walkRoom s d line = true) (hfree : lockedLine s d line = false)
    (hread : (u, r) = readMem (bump { usePort s d line with walks := rmFirst (fun j => j == k) s.walks } d CCH_REFRESH.COUNT) d line ecc) :
    execLockedLineRefetch d line ecc s = .next (if r.bad || !wayEn u d k.way then u else preloadLine u d k.way line r) := by
  simp only [execLockedLineRefetch, hk, hup, hroom, hfree, ← hread, Bool.not_true, Bool.or_self, Bool.false_eq_true, if_false]

end Invalidation

/-! ## Ways and the cache are enabled and disabled (R297, R298, R300) -/

section Ways

variable {s u : State} {d val en w : Nat}

theorem execCacheWaysWrite_writes (hp : present s d pgCch = true) : execCacheWaysWrite d val s = .next (writeWays s d val) := by
  rw [execCacheWaysWrite, if_pos hp]

/-- A way whose failure disabled it is not enabled again; a write that leaves fewer than two active ways is refused whole. -/
theorem execCacheWaysWrite_refuses (hp : present s d pgCch = true) (hen : en = maskOf ((List.range 16).filter fun w =>
      val.testBit w && (!(getF s d CCH_WAY_STS.FAILED).testBit w || (getF s d CCH_WAYS.EN).testBit w)))
    (hfew : activeWays s d en (fld val 16 16) < 2) : execCacheWaysWrite d val s = .next (refuseWays s d (val % 2 ^ 32)) := by
  subst hen
  rw [execCacheWaysWrite_writes hp]
  simp only [writeWays, hfew, if_true]

theorem execWayCleanDone_cleans (hw : w < 16) (hc : (getF s d CCH_WAY_STS.CLEANING).testBit w = true)
    (hdrained : s.mbuf.any (fun e => e.die == d && wayOf s d e.line == some w) = false) : execWayCleanDone d w s =
      .next (setF (clearWay s d w) d CCH_WAY_STS.CLEANING (getF s d CCH_WAY_STS.CLEANING &&& (65535 - 2 ^ w))) := by
  simp only [execWayCleanDone, hc, hdrained, Nat.not_le.mpr hw, decide_false, Bool.not_true, Bool.or_self, Bool.false_eq_true, if_false]

/-- A die's cache is emptied, and its fills install nothing. -/
def cacheEmptied (s : State) (d : Nat) : State :=
  { noInstall s (fun f => f.die == d) with cache := (noInstall s fun f => f.die == d).cache.filter fun q => q.1 / 65536 != d }

theorem execCacheEnableWrite_eq (hp : present s d pgCch = true) (hu : u = writeWord s d pgCch 0 0x80 val) :
    execCacheEnableWrite d val s = .next (if isF s d CCH_CTL.EN && !isF u d CCH_CTL.EN then cacheEmptied u d else u) := by
  subst hu
  rw [execCacheEnableWrite, if_pos hp]
  rfl

theorem execCacheEnableWrite_disables (hp : present s d pgCch = true) (hu : u = writeWord s d pgCch 0 0x80 val)
    (hon : isF s d CCH_CTL.EN = true) (hoff : isF u d CCH_CTL.EN = false) :
    execCacheEnableWrite d val s = .next (cacheEmptied u d) := by
  rw [execCacheEnableWrite_eq hp hu, hon, hoff]
  rfl

theorem execCacheEnableWrite_keeps (hp : present s d pgCch = true) (hu : u = writeWord s d pgCch 0 0x80 val)
    (h : isF s d CCH_CTL.EN = false ∨ isF u d CCH_CTL.EN = true) : execCacheEnableWrite d val s = .next u := by
  rw [execCacheEnableWrite_eq hp hu, if_neg]
  rcases h with hoff | hon
  · simp [hoff]
  · simp [hon]

end Ways

/-- Settles O39: a preload goes by its way and the ways it leaves active, an invalidation by its range, a way by its mask and its
cleaning, and the cache by its enable. -/
theorem cacheWaysPreloadAndInvalidate : Obligations.CacheWaysPreloadAndInvalidate := by
  intro s d hp
  refine ⟨?preload, ?preloadDone, fun val n b u lines v hgo hidle hn hu hb hlines hv =>
    ⟨_, rfl, rfl, rfl, rfl, execCacheRangeInvalidate_starts hp hgo hidle hn hu hb hlines hv⟩,
    fun k => execCacheRangeInvalidateDone_ends, fun line ecc k u b => execLockedLineRefetch_loads,
    fun val => execCacheWaysWrite_writes hp, fun val en => execCacheWaysWrite_refuses hp, fun w => execWayCleanDone_cleans,
    fun val u hu => ⟨fun hon hoff => ⟨_, execCacheEnableWrite_disables hp hu hon hoff, rfl⟩, execCacheEnableWrite_keeps hp hu⟩⟩
  case preload =>
    intro val w u en hgo hidle hw hu hen
    subst hw
    have hexec : exec (.cachePreload d val) s = _ := execCachePreload_eq ⟨hp, hgo, hidle⟩ rfl hu hen
    rw [hexec]
    refine ⟨fun hoff => ?_, fun hon hfew => ?_, fun k hon htwo hk => ?_⟩
    · simp only [hoff, Bool.not_false, if_true]
    · simp only [hon, hfew, Bool.not_true, Bool.false_eq_true, if_false, if_true]
    · simp only [hon, Nat.not_lt.mpr htwo, hk, Bool.not_true, Bool.false_eq_true, if_false]
  case preloadDone =>
    intro badAt k u st v lock hk hup hroom hload hv hlock
    have hexec : exec (.cachePreloadDone d badAt) s = _ := execCachePreloadDone_eq hk hup hroom hload hv hlock
    rw [hexec]
    refine ⟨fun hopen => ?_, fun hlocks htwo => ?_⟩
    · simp only [hopen, Bool.not_false, if_true]
    · simp only [hlocks, Nat.not_lt.mpr htwo, Bool.not_true, Bool.false_eq_true, if_false]

end Sys2Proof.Machine
end

section
/-!
What the lookup port's commands share: requests changed in place, and the errors of the lookup page.
-/

namespace Sys2Proof.Machine

/-! ## Changes of the requests in place -/

/-- A change that keeps every identifier keeps their list. -/
theorem map_id_updWhere {f : Req → Req} (hf : ∀ q, (f q).id = q.id) (p : Req → Bool) (l : List Req) :
    (updWhere p f l).map (·.id) = l.map (·.id) := by
  rw [updWhere, List.map_map]
  refine List.map_congr_left fun q _ => ?_
  rw [Function.comp_apply]
  split
  · exact hf q
  · rfl

theorem map_id_modReq {f : Req → Req} (hf : ∀ q, (f q).id = q.id) (s : State) (id : Nat) :
    (modReq s id f).reqs.map (·.id) = s.reqs.map (·.id) := map_id_updWhere hf _ _

/-- A changed request of that identifier is the change of one. -/
theorem mem_modReq {f : Req → Req} {s : State} {id : Nat} {q : Req} (hq : q ∈ (modReq s id f).reqs)
    (hid : q.id = id) : ∃ x, q = f x := by
  obtain ⟨x, -, rfl⟩ := List.mem_map.mp hq
  by_cases hx : x.id = id
  · exact ⟨x, if_pos (beq_iff_eq.mpr hx)⟩
  · rw [if_neg (by simpa using hx)] at hid
    exact absurd hid hx

/-- The changed request is found where the request was. -/
theorem findReq_modReq {f : Req → Req} (hf : ∀ q, (f q).id = q.id) {s : State} {id : Nat} {r : Req} (hr : findReq s id = some r) :
    findReq (modReq s id f) id = some (f r) := by
  have hkey : ((fun q : Req => q.id == id) ∘ fun q => if (q.id == id) = true then f q else q) = fun q => q.id == id := by
    funext q
    rw [Function.comp_apply]
    split
    · rw [hf]
    · rfl
  have hid : (r.id == id) = true := by simpa using List.find?_some hr
  unfold findReq at hr ⊢
  rw [modReq, updWhere, List.find?_map, hkey, hr, Option.map_some, if_pos hid]

/-! ## Errors of the lookup page -/

theorem getF_lkpErr {g : Fld} {c : Nat} (hg : errFree g c = true) (s : State) (i bit chan last d : Nat) :
    getF (lkpErr s i bit chan last) d g c = getF s d g c :=
  getF_raiseErr _ _ _ _ _ _ _ _ hg

end Sys2Proof.Machine
end

section
/-!
The receipt of a lookup burst (R308): the first check that fails decides whether it is discarded, dropped, or queued for refusal.
-/

namespace Sys2Proof.Machine

/-! ## Counting a burst and its error (R308) -/

/-- Counting a burst writes LKP_FMT and LKP_CRC.BURST, and raises an error. -/
theorem getF_countFmt {g : Fld} (hg : errFree g 0 = true) (hcount : fne g 0 LKP_FMT.COUNT 0 = true) (hlast : fne g 0 LKP_FMT.LAST 0 = true)
    (hburst : fne g 0 LKP_CRC.BURST 0 = true) (s : State) (i chan last d : Nat) : getF (countFmt s i chan last) d g = getF s d g := by
  unfold countFmt
  dsimp only
  split
  · rw [getF_lkpErr hg, bumpSat, getF_setF_ne _ _ _ _ _ _ _ _ hburst, getF_setF_ne _ _ _ _ _ _ _ _ hlast, bumpSat,
      getF_setF_ne _ _ _ _ _ _ _ _ hcount]
  · rw [getF_lkpErr hg, getF_setF_ne _ _ _ _ _ _ _ _ hlast, bumpSat, getF_setF_ne _ _ _ _ _ _ _ _ hcount]

/-- The burst as counted under a cause, before its error is raised. -/
def fmtCounted (s : State) (i last : Nat) : State :=
  setF (bumpSat s (ifDie i) LKP_FMT.COUNT) (ifDie i) LKP_FMT.LAST last

theorem countFmt_crc (s : State) (i chan : Nat) :
    countFmt s i chan 1 = lkpErr (bumpSat (fmtCounted s i 1) (ifDie i) LKP_CRC.BURST) i LKP_ERR.BURST_CRC chan 1 := rfl

theorem getF_countFmt_burst (s : State) (i chan : Nat) :
    getF (countFmt s i chan 1) (ifDie i) LKP_CRC.BURST = min 65535 (getF s (ifDie i) LKP_CRC.BURST + 1) := by
  rw [countFmt_crc, getF_lkpErr (by decide), getF_bumpSat_self, fmtCounted, getF_setF_ne _ _ _ _ _ _ _ _ (by decide), bumpSat,
    getF_setF_ne _ _ _ _ _ _ _ _ (by decide)]
  rfl

theorem sticky_countFmt_crc {s : State} {i : Nat} (hd : ifDie i < s.part.dieCnt) (chan : Nat) :
    stickySet (countFmt s i chan 1) (ifDie i) pgLkp LKP_ERR.BURST_CRC := by
  rw [countFmt_crc]
  exact sticky_lkpErr _ _ _ _ _ hd (by decide)

/-- A burst that found its ingress queue full: counted under cause 9, dropped, and an error of flow control. -/
def burstDropped (s : State) (i chan : Nat) : State :=
  lkpErr (bump (countFmt s i chan 9) (ifDie i) LKP_DROP.COUNT) i LKP_ERR.FC_VIOL chan
    (laneMap (bump (countFmt s i chan 9) (ifDie i) LKP_DROP.COUNT) i)

theorem burstDropped_reqs (s : State) (i chan : Nat) : (burstDropped s i chan).reqs = s.reqs := by
  rw [burstDropped, lkpErr, raiseErr_reqs, bump, setF_reqs, countFmt_reqs]

theorem getF_burstDropped_last (s : State) (i chan : Nat) : getF (burstDropped s i chan) (ifDie i) LKP_FMT.LAST = 9 := by
  rw [burstDropped, getF_lkpErr (by decide), bump, getF_setF_ne _ _ _ _ _ _ _ _ (by decide), countFmt_last _ _ _ _ (by decide)]

theorem getF_burstDropped_count (s : State) (i chan : Nat) :
    getF (burstDropped s i chan) (ifDie i) LKP_DROP.COUNT = (getF s (ifDie i) LKP_DROP.COUNT + 1) % 2 ^ 32 := by
  rw [burstDropped, getF_lkpErr (by decide), getF_bump_self, getF_countFmt (by decide) (by decide) (by decide) (by decide)]
  rfl

theorem sticky_burstDropped {s : State} {i : Nat} (hd : ifDie i < s.part.dieCnt) (chan : Nat) :
    stickySet (burstDropped s i chan) (ifDie i) pgLkp LKP_ERR.FC_VIOL :=
  sticky_lkpErr _ _ _ _ _ (by rwa [bump, setF_part, countFmt_part]) (by decide)

/-! ## The checks in their order (R308) -/

section Receipt

variable {s : State} {iface chan len : Nat} {hdr : W64} {payload : BitVec 1024} {oneBurst : Bool}

/-- An up interface of an existing die. -/
structure PortOpen (s : State) (iface : Nat) : Prop where
  up : ifUp s iface = true
  die : ifDie iface < s.part.dieCnt

/-- The channel is configured on the interface. -/
structure CarriesChannel (s : State) (iface chan : Nat) : Prop where
  inRange : chan < 64
  index : getF s 0 (LKP_CH_CFG.IFX chan) = ifIdx iface
  home : homeOf s chan = ifDie iface

/-- The request that a burst becomes, with the check that marks it for refusal, if any. -/
def burstReq (s : State) (iface chan : Nat) (hdr : W64) (payload : BitVec 1024) (k : Option Nat) : Req :=
  { id := s.nextId, home := ifDie iface, iface := iface, chan := chan, hdr := hdr, payload := payload,
    phase := .queued (k.map fun _ => 9), rel := 0, arr := 0, ledger := false, acked := false, thread := none, buf := none,
    resp := none, refusal := false, booked := none, bounded := false, readyAt := 0, next := none, moved := false }

/-- A new request joins the queue. -/
def burstQueued (s : State) (r : Req) : State := { s with reqs := s.reqs ++ [r], nextId := s.nextId + 1 }

section Checks

variable (hp : PortOpen s iface)

include hp

theorem PortOpen.runs : (!ifUp s iface || decide (s.part.dieCnt ≤ ifDie iface)) = false := by
  simp [hp.up, hp.die]

theorem execLookupBurstReceive_crc :
    execLookupBurstReceive iface chan hdr payload len oneBurst true s = .next (countFmt s iface chan 1) := by
  simp only [execLookupBurstReceive, hp.runs, Bool.false_eq_true, if_false, if_true]

theorem execLookupBurstReceive_elsewhere
    (h : 64 ≤ chan ∨ getF s 0 (LKP_CH_CFG.IFX chan) ≠ ifIdx iface ∨ homeOf s chan ≠ ifDie iface) :
    execLookupBurstReceive iface chan hdr payload len oneBurst false s = .next (countFmt s iface chan 2) := by
  have hno : (decide (64 ≤ chan) || getF s 0 (LKP_CH_CFG.IFX chan) != ifIdx iface || homeOf s chan != ifDie iface) = true := by
    simpa [or_assoc] using h
  simp only [execLookupBurstReceive, hp.runs, hno, Bool.false_eq_true, if_false, if_true]

variable (hc : CarriesChannel s iface chan)

include hc

omit hp in
theorem CarriesChannel.configured :
    (decide (64 ≤ chan) || getF s 0 (LKP_CH_CFG.IFX chan) != ifIdx iface || homeOf s chan != ifDie iface) = false := by
  simp [hc.inRange, hc.index, hc.home]

theorem execLookupBurstReceive_disabled (hen : chEn s chan = false) :
    execLookupBurstReceive iface chan hdr payload len oneBurst false s = .next (countFmt s iface chan 3) := by
  simp only [execLookupBurstReceive, hp.runs, hc.configured, hen, Bool.not_false, Bool.false_eq_true, if_false, if_true]

variable (hen : chEn s chan = true)

include hen

theorem execLookupBurstReceive_full (hfull : 32 ≤ (queuedOn s iface).length) :
    execLookupBurstReceive iface chan hdr payload len oneBurst false s = .next (burstDropped s iface chan) := by
  simp only [execLookupBurstReceive, hp.runs, hc.configured, hen, hfull, Bool.not_true, Bool.false_eq_true, if_false, if_true,
    burstDropped]

variable (hroom : (queuedOn s iface).length < 32)

include hroom

theorem execLookupBurstReceive_refused {n : Nat} (hk : ingressCheck s iface chan hdr len oneBurst = some n) :
    execLookupBurstReceive iface chan hdr payload len oneBurst false s =
      .next (countFmt (burstQueued s (burstReq s iface chan hdr payload (some n))) iface chan n) := by
  simp only [execLookupBurstReceive, hp.runs, hc.configured, hen, Nat.not_le.mpr hroom, hk, Bool.not_true, Bool.false_eq_true,
    if_false, burstQueued, burstReq]

theorem execLookupBurstReceive_queued (hk : ingressCheck s iface chan hdr len oneBurst = none) :
    execLookupBurstReceive iface chan hdr payload len oneBurst false s =
      .next (burstQueued s (burstReq s iface chan hdr payload none)) := by
  simp only [execLookupBurstReceive, hp.runs, hc.configured, hen, Nat.not_le.mpr hroom, hk, Bool.not_true, Bool.false_eq_true,
    if_false, burstQueued, burstReq]

end Checks

/-- No check of a burst's form answers the cause of a CRC error. -/
theorem ingressCheck_ne_one {n : Nat} (hk : ingressCheck s iface chan hdr len oneBurst = some n) : n ≠ 1 := by
  rintro rfl
  unfold ingressCheck at hk
  dsimp only at hk
  split_ifs at hk <;> simp at hk

end Receipt

/-- Settles O12: the burst goes by the first check that fails, and one that is queued carries what the later checks found. -/
theorem burstCheckedThenQueued : Obligations.BurstCheckedThenQueued := by
  intro s iface chan hdr payload len oneBurst hup hd
  have hp : PortOpen s iface := ⟨hup, hd⟩
  refine ⟨⟨_, execLookupBurstReceive_crc hp, countFmt_reqs .., countFmt_last _ _ _ _ (by decide), getF_countFmt_burst ..,
    sticky_countFmt_crc hd _⟩, fun h => ⟨_, execLookupBurstReceive_elsewhere hp h, countFmt_reqs ..,
    countFmt_last _ _ _ _ (by decide), sticky_countFmt _ _ _ _ hd (by decide)⟩, fun hchan hifx hhome => ?_⟩
  have hc : CarriesChannel s iface chan := ⟨hchan, hifx, hhome⟩
  refine ⟨fun hen => ⟨_, execLookupBurstReceive_disabled hp hc hen, countFmt_reqs .., countFmt_last _ _ _ _ (by decide),
    sticky_countFmt _ _ _ _ hd (by decide)⟩, fun hen => ⟨fun hfull => ⟨_, execLookupBurstReceive_full hp hc hen hfull,
    burstDropped_reqs .., getF_burstDropped_last .., getF_burstDropped_count .., sticky_burstDropped hd _⟩, fun hroom => ?_⟩⟩
  cases hk : ingressCheck s iface chan hdr len oneBurst with
  | some n =>
    refine ⟨_, burstReq s iface chan hdr payload (some n), execLookupBurstReceive_refused hp hc hen hroom hk, countFmt_reqs ..,
      rfl, rfl, rfl, rfl, rfl, rfl, fun m hm => ⟨rfl, ?_⟩, (nomatch ·)⟩
    cases hm
    exact sticky_countFmt _ _ _ _ hd (ingressCheck_ne_one hk)
  | none =>
    exact ⟨_, burstReq s iface chan hdr payload none, execLookupBurstReceive_queued hp hc hen hroom hk, rfl, rfl, rfl, rfl, rfl, rfl,
      rfl, fun _ hm => (nomatch hm), fun _ => ⟨rfl, rfl⟩⟩

end Sys2Proof.Machine
end

section
/-!
The release of the oldest request of an interface (R306) and the acknowledgement of its ledger entry (R448).
-/

namespace Sys2Proof.Machine

/-! ## Release (R306, R448) -/

section Release

variable {s : State} {iface : Nat} {r : Req} {rest : List Req} {k : Option Nat}

/-- The interval of R306 since the interface's last release has passed. -/
def releaseDue (s : State) (iface : Nat) : Prop :=
  mget 0 s.lastRel iface = 0 ∨ mget 0 s.lastRel iface - 1 + ifP s iface ≤ s.cyc

/-- The oldest queued request of the interface, with the status it was refused with at ingress, may be released in this cycle. -/
structure MayRelease (s : State) (iface : Nat) (r : Req) (rest : List Req) (k : Option Nat) : Prop where
  oldest : queuedOn s iface = r :: rest
  die : ifDie iface < s.part.dieCnt
  up : gone s (ifDie iface) = false
  due : releaseDue s iface
  ledger : hasLedger s (ifDie iface) = true → ledgerUsed s (ifDie iface) < 2048
  phase : r.phase = .queued k
  room : k = none ∨ (refusalsOn s iface).length < 64

/-- The request of the interface's last release knows when the next was released. -/
def mirrorEnded (s : State) (iface : Nat) (r : Req) : State :=
  { s with reqs := updWhere (fun q => q.iface == iface && mget 0 s.lastRel iface != 0 && q.rel + 1 == mget 0 s.lastRel iface &&
                                        q.id != r.id && q.next.isNone) (fun q => { q with next := some s.cyc }) s.reqs }

/-- A request released in this cycle, with its arrival time and its ledger mark. -/
def reqReleased (s : State) (iface : Nat) (k : Option Nat) (q : Req) : Req :=
  { q with phase := .released k, rel := s.cyc
           arr := if s.part.unitT then capture s (ifDie iface) s.cyc (some TIM_ARR_OFS.OFS) else 0
           ledger := hasLedger s (ifDie iface), acked := !hasLedger s (ifDie iface) }

/-- The request is released, the cycle noted and the release counted. -/
def ingressReleased (s : State) (iface : Nat) (r : Req) (k : Option Nat) : State :=
  bump { modReq (mirrorEnded s iface r) r.id (reqReleased s iface k) with lastRel := mset 0 s.lastRel iface (s.cyc + 1) }
    (ifDie iface) LKP_REQ.COUNT

theorem notDue_eq_false (h : releaseDue s iface) :
    (mget 0 s.lastRel iface != 0 && decide (s.cyc < mget 0 s.lastRel iface - 1 + ifP s iface)) = false := by
  rcases h with hzero | hpassed
  · simp [hzero]
  · simp [hpassed]

theorem MayRelease.ledgerFull (h : MayRelease s iface r rest k) :
    (hasLedger s (ifDie iface) && decide (2048 ≤ ledgerUsed s (ifDie iface))) = false := by
  cases hl : hasLedger s (ifDie iface)
  · rfl
  · simp [h.ledger hl]

theorem execIngressRelease_releases (h : MayRelease s iface r rest k) :
    execIngressRelease iface s = .next (ingressReleased s iface r k) := by
  rcases k with _ | st
  · simp only [execIngressRelease, h.oldest, h.phase, Nat.not_le.mpr h.die, h.up, notDue_eq_false h.due, h.ledgerFull, decide_false,
      Bool.false_and, Bool.or_self, Bool.false_eq_true, if_false]
    rfl
  · have hroom : (refusalsOn s iface).length < 64 := h.room.resolve_left (by simp)
    simp only [execIngressRelease, h.oldest, h.phase, Nat.not_le.mpr h.die, h.up, notDue_eq_false h.due, h.ledgerFull,
      Nat.not_le.mpr hroom, decide_false, Bool.true_and, Bool.false_and, Bool.or_self, Bool.false_eq_true, if_false]
    rfl

theorem map_id_ingressReleased : (ingressReleased s iface r k).reqs.map (·.id) = s.reqs.map (·.id) :=
  (map_id_modReq (f := reqReleased s iface k) (fun _ => rfl) (mirrorEnded s iface r) r.id).trans
    (map_id_updWhere (f := fun q => { q with next := some s.cyc }) (fun _ => rfl) _ _)

theorem mem_ingressReleased {q : Req} (hq : q ∈ (ingressReleased s iface r k).reqs) (hid : q.id = r.id) :
    ∃ x, q = reqReleased s iface k x :=
  mem_modReq (f := reqReleased s iface k) (s := mirrorEnded s iface r) hq hid

theorem ingressReleased_lastRel : mget 0 (ingressReleased s iface r k).lastRel iface = s.cyc + 1 :=
  mget_mset_self 0 s.lastRel iface (s.cyc + 1)

theorem getF_ingressReleased_count :
    getF (ingressReleased s iface r k) (ifDie iface) LKP_REQ.COUNT = (getF s (ifDie iface) LKP_REQ.COUNT + 1) % 2 ^ 32 :=
  getF_bump_self ..

/-- Inside the interval nothing is released. -/
theorem execIngressRelease_early (hrel : mget 0 s.lastRel iface ≠ 0) (hcyc : s.cyc < mget 0 s.lastRel iface - 1 + ifP s iface) :
    execIngressRelease iface s = .next s := by
  have hearly : (mget 0 s.lastRel iface != 0 && decide (s.cyc < mget 0 s.lastRel iface - 1 + ifP s iface)) = true := by
    simp [hrel, hcyc]
  unfold execIngressRelease
  cases queuedOn s iface with
  | nil => rfl
  | cons q l => simp only [hearly, Bool.or_true, Bool.true_or, if_true]

end Release

/-! ## The ledger (R448) -/

theorem execLedgerEntryAck_acks {s : State} {id : Nat} {r : Req} (hr : findReq s id = some r) (hl : r.ledger = true)
    (hk : hasLedger s r.home = true) :
    execLedgerEntryAck id s = .next (modReq s id fun q => { q with acked := true }) := by
  simp only [execLedgerEntryAck, hr, hl, hk, Bool.and_self, if_true]

/-- Settles O13: a request that may be released gets its marks in place, one that comes too early nothing, and an entry its
acknowledgement. -/
theorem requestReleasedAndAcknowledged : Obligations.RequestReleasedAndAcknowledged := by
  refine ⟨fun s iface r rest k hold hdie hup hdue hled hph hroom => ?release, fun s iface => execIngressRelease_early,
    fun s id r hr hl hk => ?ack⟩
  case release =>
    have h : MayRelease s iface r rest k := ⟨hold, hdie, hup, hdue, hled, hph, hroom⟩
    refine ⟨_, execIngressRelease_releases h, map_id_ingressReleased, fun q hq hid => ?_, ingressReleased_lastRel,
      getF_ingressReleased_count⟩
    obtain ⟨x, rfl⟩ := mem_ingressReleased hq hid
    exact ⟨rfl, rfl, rfl, rfl, rfl⟩
  case ack =>
    refine (execLedgerEntryAck_acks hr hl hk).trans ?_
    simp only [modReq, updWhere, beq_iff_eq]

end Sys2Proof.Machine
end

section
/-!
Admission of a table write (R313, R329): refused, sent to the update engine, or answered at once with BAD_OP.
-/

namespace Sys2Proof.Machine

/-! ## Sending a command to the update engine, and counting one it refuses (R329) -/

/-- A command that is sent joins those of the engine, and no request changes. -/
theorem sendCmd_cmds (s : State) (d src : Nat) (o : Origin) (e : BitVec 512) (linked : Bool) :
    (sendCmd s d src o e linked).cmds = s.cmds ++ [newCmd s (runDie s e) d src o e (runDie s e == d) linked] := by
  unfold sendCmd
  dsimp only
  split
  · rfl
  · rw [queueMgmt_eq]
    rfl

theorem sendCmd_reqs (s : State) (d src : Nat) (o : Origin) (e : BitVec 512) (linked : Bool) :
    (sendCmd s d src o e linked).reqs = s.reqs := by
  unfold sendCmd
  dsimp only
  split
  · rfl
  · rw [queueMgmt_eq]

/-- A command that completes with BAD_OP is counted among the rejected, and raises one error. -/
theorem countCpl_badOp {c : UCmd} (h : c.status = some 2) (s : State) : countCpl s c =
    raiseErr (setF (bumpSat s c.die UPD_REJ.COUNT (1 + c.conts.length)) c.die UPD_REJ.LAST 2) c.die pgUpd UPD_ERR.REJECT
      (it2 c.src (ceTag c.entry)) := by
  unfold countCpl
  rw [h]
  rfl

theorem countCpl_badOp_cyc {c : UCmd} (h : c.status = some 2) (s : State) : (countCpl s c).cyc = s.cyc := by
  rw [countCpl_badOp h, raiseErr_cyc, setF_cyc, bumpSat, setF_cyc]

theorem countCpl_badOp_cmds {c : UCmd} (h : c.status = some 2) (s : State) : (countCpl s c).cmds = s.cmds := by
  rw [countCpl_badOp h, raiseErr_cmds, setF_cmds, bumpSat, setF_cmds]

theorem getF_countCpl_badOp {c : UCmd} (h : c.status = some 2) (s : State) : getF (countCpl s c) c.die UPD_REJ.LAST = 2 := by
  rw [countCpl_badOp h, getF_raiseErr _ _ _ _ _ _ _ _ (by decide), getF_setF_self]
  rfl

section TableWrite

variable {s : State} {id b : Nat} {r : Req}

/-- A released and acknowledged table write of a die that is there. -/
structure AwaitsTableWrite (s : State) (id : Nat) (r : Req) : Prop where
  found : findReq s id = some r
  acked : r.acked = true
  up : gone s r.home = false
  kind : hdrKind r.hdr = 1
  phase : r.phase = .released none

/-- Table writes of a die that were admitted and not yet answered. -/
def writesWaiting (s : State) (d : Nat) : Nat :=
  (s.reqs.filter fun q => q.home == d && q.phase == .tableWrite && q.resp.isNone).length

/-- The command entry that a table write carries. -/
def writeEntry (r : Req) : BitVec 512 := BitVec.ofNat 512 (getBE r.payload 0 512)

/-- The command of a table write that the engine does not take: completed with BAD_OP. -/
def rejectedWrite (s : State) (id : Nat) (r : Req) : UCmd :=
  { newCmd s r.home r.home 0x48 (.lookup id) (writeEntry r) true false with status := some 2 }

/-- The answer of a table write whose command completed with BAD_OP. -/
def badOpAnswer (e : BitVec 512) : Resp :=
  let (w0, w1, w2, w3) := cplWords 2 (ceOp e) (ceTag e) (ceGra e) 0 0 0
  { status := 0, rec1 := 0, rec2 := none, wr := some (swap32 w0 * 2 ^ 32 + swap32 w1, swap32 w2 * 2 ^ 32 + swap32 w3),
    deferred := false }

/-- The request holds its buffer while its command runs. -/
def writeAdmitted (s : State) (id b : Nat) : State := modReq s id fun q => { q with phase := .tableWrite, buf := some b }

/-- The request holds its buffer and is answered at once. -/
def writeAnswered (u : State) (id b : Nat) (r : Req) : State :=
  modReq u id fun q => { q with phase := .tableWrite, buf := some b, resp := some (badOpAnswer (writeEntry r)), readyAt := u.cyc }

/-! ## The command -/

section Command

variable (h : AwaitsTableWrite s id r)

include h

theorem AwaitsTableWrite.runs :
    (!r.acked || gone s r.home || hdrKind r.hdr != 1 || r.phase != .released none) = false := by
  simp [h.acked, h.up, h.kind, h.phase]

theorem execTableWriteAdmit_fenced (hf : s.fencedDev = true) : execTableWriteAdmit id s = .next (refuse s id 0xB) := by
  simp only [execTableWriteAdmit, h.found, h.runs, hf, Bool.false_eq_true, if_false, if_true]

variable (hf : s.fencedDev = false)

include hf

theorem execTableWriteAdmit_noBuffer (hb : bufSite s r.chan = none) : execTableWriteAdmit id s = .next (refuse s id 5) := by
  simp only [execTableWriteAdmit, h.found, h.runs, hf, hb, Bool.false_eq_true, if_false]

/-- With a buffer, the writes that wait and the engine's switches decide. -/
theorem execTableWriteAdmit_buffered (hb : bufSite s r.chan = some b) : execTableWriteAdmit id s = .next (
    if 64 ≤ writesWaiting s r.home then refuse s id 5
    else if !isF s r.home UPD_CTL.EN || !isF s r.home UPD_CTL.LKP_EN then writeAnswered (countCpl s (rejectedWrite s id r)) id b r
    else sendCmd (writeAdmitted s id b) r.home 0x48 (.lookup id) (writeEntry r) false) := by
  simp only [execTableWriteAdmit, h.found, h.runs, hf, hb, Bool.false_eq_true, if_false]
  rfl

theorem execTableWriteAdmit_noRoom (hno : bufSite s r.chan = none ∨ 64 ≤ writesWaiting s r.home) :
    execTableWriteAdmit id s = .next (refuse s id 5) := by
  cases hb : bufSite s r.chan with
  | none => exact execTableWriteAdmit_noBuffer h hf hb
  | some b => rw [execTableWriteAdmit_buffered h hf hb, if_pos (hno.resolve_left (by simp [hb]))]

variable (hb : bufSite s r.chan = some b) (hroom : writesWaiting s r.home < 64)

include hb hroom

theorem execTableWriteAdmit_sends (hen : isF s r.home UPD_CTL.EN = true) (hlkp : isF s r.home UPD_CTL.LKP_EN = true) :
    execTableWriteAdmit id s = .next (sendCmd (writeAdmitted s id b) r.home 0x48 (.lookup id) (writeEntry r) false) := by
  rw [execTableWriteAdmit_buffered h hf hb, if_neg (Nat.not_le.mpr hroom), if_neg (by simp [hen, hlkp])]

theorem execTableWriteAdmit_rejects (hoff : isF s r.home UPD_CTL.EN = false ∨ isF s r.home UPD_CTL.LKP_EN = false) :
    execTableWriteAdmit id s = .next (writeAnswered (countCpl s (rejectedWrite s id r)) id b r) := by
  rw [execTableWriteAdmit_buffered h hf hb, if_neg (Nat.not_le.mpr hroom), if_pos (by simpa using hoff)]

end Command

end TableWrite

/-- Settles O15: a table write is refused, sent with the buffer it holds, or answered with the completion it carries. -/
theorem tableWriteAdmitted : Obligations.TableWriteAdmitted := by
  intro s id r hr hk hup hkind hph
  have h : AwaitsTableWrite s id r := ⟨hr, hk, hup, hkind, hph⟩
  refine ⟨execTableWriteAdmit_fenced h, fun hf => ⟨execTableWriteAdmit_noRoom h hf, ?_⟩⟩
  rintro b hb hroom e rfl
  refine ⟨fun hen hlkp => ⟨_, execTableWriteAdmit_sends h hf hb hroom hen hlkp, rfl, ?found, sendCmd_cmds ..⟩, fun hoff =>
    ⟨_, badOpAnswer (writeEntry r), execTableWriteAdmit_rejects h hf hb hroom hoff, rfl, rfl, ?state,
      countCpl_badOp_cmds rfl s, getF_countCpl_badOp (c := rejectedWrite s id r) rfl s⟩⟩
  case found =>
    rw [findReq, sendCmd_reqs, ← findReq]
    exact findReq_modReq (f := fun q => { q with phase := .tableWrite, buf := some b }) (fun _ => rfl) hr
  case state =>
    rw [writeAnswered, countCpl_badOp_cyc rfl]
    rfl

end Sys2Proof.Machine
end

section
/-!
The departure of a formed response (R316), and its loss on a failed interface of the density profile (R305).
-/

namespace Sys2Proof.Machine

section Departure

variable {s : State} {id : Nat} {r : Req} {x : Resp} {limit : Option Nat} {booked ts two : Bool}

/-- The request has a formed response. -/
structure HasResponse (s : State) (id : Nat) (r : Req) (x : Resp) : Prop where
  found : findReq s id = some r
  formed : r.resp = some x

/-- The interface's egress is free for `n` cycles from now: no booking and no mirror (R316, R317). -/
def egressOpen (s : State) (i n : Nat) : Bool := egressFree s i s.cyc n && mirrorsFree s i s.cyc n

section Up

variable (h : HasResponse s id r x) (hup : ifUp s r.iface = true)

include h hup

theorem execResponseDeparture_waits (hdep : departure s r = none) : execResponseDeparture id s = .next s := by
  simp only [execResponseDeparture, h.found, h.formed, hup, hdep, Bool.not_true, Bool.false_eq_true, if_false]

/-- A response that fits whole is sent as it is. -/
theorem execResponseDeparture_sends (hdep : departure s r = some (limit, booked)) (hts : ts = (hdrStamp r.hdr && s.part.unitT))
    (htwo : two = (x.rec2.isSome && x.wr.isNone)) (hfit : fitResp (ifK s r.iface) limit ts two = (ts, two))
    (hfree : booked = true ∨ chMirror s r.chan = true ∨ egressOpen s r.iface (ceilDiv (respLen two ts) (ifK s r.iface)) = true) :
    execResponseDeparture id s = .next (sendResp s r x ts two booked) := by
  have hopen : (!booked && !chMirror s r.chan && !(egressFree s r.iface s.cyc (ceilDiv (respLen two ts) (ifK s r.iface)) &&
      mirrorsFree s r.iface s.cyc (ceilDiv (respLen two ts) (ifK s r.iface)))) = false := by
    rcases hfree with hbooked | hmirror | hegress
    · simp [hbooked]
    · simp [hmirror]
    · simp [show (egressFree s r.iface s.cyc _ && mirrorsFree s r.iface s.cyc _) = true from hegress]
  simp only [execResponseDeparture, h.found, h.formed, hup, hdep, ← hts, ← htwo, hfit, hopen, Bool.not_true, Bool.and_not_self,
    Bool.or_self, Bool.false_eq_true, if_false]

end Up

theorem execResponseDeparture_drops (h : HasResponse s id r x) (hdown : ifUp s r.iface = false) (hprofile : avail s = false) :
    execResponseDeparture id s = .next (afterDeparture (bump s (ifDie r.iface) LKP_DROP.COUNT) r none) := by
  simp only [execResponseDeparture, h.found, h.formed, hdown, hprofile, Bool.not_false, Bool.false_eq_true, if_true, if_false]

end Departure

/-- Settles O16: the response goes by its interface, its departure cycle and the egress it needs. -/
theorem responseLeavesOnce : Obligations.ResponseLeavesOnce := by
  intro s id r x hr hx
  have h : HasResponse s id r x := ⟨hr, hx⟩
  refine ⟨fun hup => ⟨execResponseDeparture_waits h hup, fun limit booked ts two hdep hts htwo hfit hfree hchan => ?_⟩,
    fun hdown hprofile => ⟨_, execResponseDeparture_drops h hdown hprofile, afterDeparture_reqs .., ?_⟩⟩
  · have hopen : booked = true ∨ chMirror s r.chan = true ∨
        egressOpen s r.iface (ceilDiv (respLen two ts) (ifK s r.iface)) = true :=
      hfree.imp_right fun hm => hm.imp_right fun hf => Bool.and_eq_true_iff.mpr hf
    exact ⟨_, execResponseDeparture_sends h hup hdep hts htwo hfit hopen, sendResp_spec s r x ts two booked hchan⟩
  · rw [afterDeparture_getF _ _ _ _ _ _ (by decide), getF_bump_self]
    rfl

end Sys2Proof.Machine
end

section
/-!
Flow control (R328) and the lanes of an interface (R304, R305): XOFF and XON, lanes that fail, diagnostic words, and alignment.
-/

namespace Sys2Proof.Machine

/-! ## Flow control (R328) -/

section Xoff

variable {s : State} {iface chan : Nat} {xoff : Bool}

/-- An enabled channel on the up interface that carries it. -/
structure CarriedOn (s : State) (iface chan : Nat) : Prop where
  up : ifUp s iface = true
  inRange : chan < 64
  carrier : chIface s chan = iface
  en : chEn s chan = true

/-- The channel's flag follows XOFF and XON. -/
def xoffKept (s : State) (chan : Nat) (xoff : Bool) : State := setF s 0 (LKP_CH_USE.XOFF_RX chan) (b2n xoff)

/-- XOFF of a guaranteed channel is counted and raises an error. -/
def xoffCounted (s : State) (iface chan : Nat) : State :=
  lkpErr (bump s (ifDie iface) LKP_XOFF_RX.COUNT) iface LKP_ERR.XOFF_GUAR chan (laneMap s iface)

theorem xoffRx_inside (hc : chan < 64) : (LKP_CH_USE.XOFF_RX chan).off < 4096 ∧ (LKP_CH_USE.XOFF_RX chan).lo < 32 := by
  dsimp only [LKP_CH_USE.XOFF_RX]
  omega

theorem errFree_xoffRx (hc : chan < 64) : errFree (LKP_CH_USE.XOFF_RX chan) 0 = true := by
  have hoff : 0x38 ≤ 0x300 + 4 * chan ∧ 0x300 + 4 * chan < 4096 := by omega
  simp [errFree, LKP_CH_USE.XOFF_RX, pgThr, hoff]

theorem getF_xoffKept (s : State) (chan : Nat) (xoff : Bool) :
    getF (xoffKept s chan xoff) 0 (LKP_CH_USE.XOFF_RX chan) = if xoff then 1 else 0 := by
  rw [xoffKept, getF_setF_self]
  cases xoff <;> rfl

/-- The flag is no part of the channel's class. -/
theorem chGuar_xoffKept (hc : chan < 64) : chGuar (xoffKept s chan xoff) chan = chGuar s chan := by
  have hcfg : (LKP_CH_CFG.CLASS chan).off < 4096 ∧ (LKP_CH_CFG.CLASS chan).lo < 32 := by
    dsimp only [LKP_CH_CFG.CLASS]
    omega
  have hbit : (LKP_CH_CFG.CLASS chan).lo ≠ (LKP_CH_USE.XOFF_RX chan).lo := by simp [LKP_CH_CFG.CLASS, LKP_CH_USE.XOFF_RX]
  rw [chGuar, isF, xoffKept, getF_setF_ne _ _ _ _ _ _ _ _ (fne_of_lo hcfg (xoffRx_inside hc) hbit), ← isF, ← chGuar]

theorem getF_xoffCounted_flag (hc : chan < 64) (s : State) (iface : Nat) :
    getF (xoffCounted s iface chan) 0 (LKP_CH_USE.XOFF_RX chan) = getF s 0 (LKP_CH_USE.XOFF_RX chan) := by
  rw [xoffCounted, getF_lkpErr (errFree_xoffRx hc), bump,
    getF_setF_ne _ _ _ _ _ _ _ _ (fne_of_lo (xoffRx_inside hc) (by decide) (by simp [LKP_XOFF_RX.COUNT, LKP_CH_USE.XOFF_RX]))]

theorem getF_xoffCounted_count (hc : chan < 64) (s : State) (iface : Nat) (xoff : Bool) :
    getF (xoffCounted (xoffKept s chan xoff) iface chan) (ifDie iface) LKP_XOFF_RX.COUNT =
      (getF s (ifDie iface) LKP_XOFF_RX.COUNT + 1) % 2 ^ 32 := by
  rw [xoffCounted, getF_lkpErr (by decide), getF_bump_self, xoffKept,
    getF_setF_ne _ _ _ _ _ _ _ _ (fne_of_lo (by decide) (xoffRx_inside hc) (by simp [LKP_XOFF_RX.COUNT, LKP_CH_USE.XOFF_RX]))]
  rfl

theorem sticky_xoffCounted (hd : ifDie iface < s.part.dieCnt) :
    stickySet (xoffCounted s iface chan) (ifDie iface) pgLkp LKP_ERR.XOFF_GUAR :=
  sticky_lkpErr _ _ _ _ _ hd (by decide)

theorem CarriedOn.runs (h : CarriedOn s iface chan) :
    (!ifUp s iface || decide (64 ≤ chan) || chIface s chan != iface || !chEn s chan) = false := by
  simp [h.up, h.inRange, h.carrier, h.en]

theorem execXoffReceive_eq (h : CarriedOn s iface chan) : execXoffReceive iface chan xoff s =
    .next (if xoff && chGuar s chan then xoffCounted (xoffKept s chan xoff) iface chan else xoffKept s chan xoff) := by
  have hclass : chGuar (setF s 0 (LKP_CH_USE.XOFF_RX chan) (b2n xoff)) chan = chGuar s chan := chGuar_xoffKept h.inRange
  simp only [execXoffReceive, h.runs, hclass, Bool.false_eq_true, if_false]
  rfl

theorem execXoffReceive_guaranteed (h : CarriedOn s iface chan) (hg : chGuar s chan = true) :
    execXoffReceive iface chan true s = .next (xoffCounted (xoffKept s chan true) iface chan) := by
  rw [execXoffReceive_eq h, hg, Bool.and_self, if_pos rfl]

theorem execXoffReceive_keeps (h : CarriedOn s iface chan) (hno : chGuar s chan = false ∨ xoff = false) :
    execXoffReceive iface chan xoff s = .next (xoffKept s chan xoff) := by
  rw [execXoffReceive_eq h, if_neg]
  rcases hno with hbest | hon
  · simp [hbest]
  · simp [hon]

end Xoff

/-! ## Lanes and alignment (R304, R305) -/

section Lanes

variable {s : State} {iface lane n : Nat}

/-- A lane in use on an up interface. -/
structure LaneInUse (s : State) (iface lane : Nat) : Prop where
  up : ifUp s iface = true
  used : (laneMap s iface).testBit lane = true

/-- The lane's count of diagnostic failures in a row is `n`. -/
def diagCounted (s : State) (iface lane n : Nat) : State := { s with diagFails := mset 0 s.diagFails (iface * 8 + lane) n }

/-- A bad diagnostic word is counted on the lane and on its die, and raises an error. -/
def diagMissed (s : State) (iface lane n : Nat) : State :=
  lkpErr (bumpSat (diagCounted s iface lane n) (ifDie iface) LKP_CRC.META) iface LKP_ERR.META_CRC 0
    (getF (diagCounted s iface lane n) (ifDie iface) LKP_FMT.LAST)

theorem diagCounted_fails : mget 0 (diagCounted s iface lane n).diagFails (iface * 8 + lane) = n := mget_mset_self ..

theorem diagMissed_fails : mget 0 (diagMissed s iface lane n).diagFails (iface * 8 + lane) = n := by
  rw [diagMissed, lkpErr, raiseErr_diagFails, bumpSat, setF_diagFails, diagCounted_fails]

theorem getF_diagMissed_meta :
    getF (diagMissed s iface lane n) (ifDie iface) LKP_CRC.META = min 65535 (getF s (ifDie iface) LKP_CRC.META + 1) := by
  rw [diagMissed, getF_lkpErr (by decide), getF_bumpSat_self]
  rfl

theorem sticky_diagMissed (hd : ifDie iface < s.part.dieCnt) :
    stickySet (diagMissed s iface lane n) (ifDie iface) pgLkp LKP_ERR.META_CRC :=
  sticky_lkpErr _ _ _ _ _ hd (by decide)

section InUse

variable (h : LaneInUse s iface lane)

include h

theorem execLaneFail_fails : execLaneFail iface lane s = .next (failLane s iface lane) := by
  simp only [execLaneFail, h.up, h.used, Bool.and_self, if_true]

theorem LaneInUse.runs : (!ifUp s iface || !(laneMap s iface).testBit lane) = false := by
  simp [h.up, h.used]

theorem execDiagnosticWord_good : execDiagnosticWord iface lane false s = .next (diagCounted s iface lane 0) := by
  simp only [execDiagnosticWord, h.runs, Bool.not_false, Bool.false_eq_true, if_true, if_false, diagCounted]

/-- A bad word that is not the fourth in a row only counts. -/
theorem execDiagnosticWord_counts (hfew : mget 0 s.diagFails (iface * 8 + lane) < 3) :
    execDiagnosticWord iface lane true s = .next (diagMissed s iface lane (mget 0 s.diagFails (iface * 8 + lane) + 1)) := by
  have hn : mget 0 s.diagFails (iface * 8 + lane) + 1 < 4 := by omega
  simp only [execDiagnosticWord, h.runs, hn, Bool.not_true, Bool.false_eq_true, if_true, if_false]
  rfl

/-- The fourth bad word in a row clears the count and takes the lane out. -/
theorem execDiagnosticWord_fails (hthree : mget 0 s.diagFails (iface * 8 + lane) = 3) :
    execDiagnosticWord iface lane true s = .next (failLane (diagMissed s iface lane 0) iface lane) := by
  have hn : ¬ mget 0 s.diagFails (iface * 8 + lane) + 1 < 4 := by omega
  simp only [execDiagnosticWord, h.runs, hn, Bool.not_true, Bool.false_eq_true, if_false]
  rfl

end InUse

/-- What R304 asks of an interface before it aligns. -/
structure MayAlign (s : State) (iface : Nat) : Prop where
  die : ifDie iface < s.part.dieCnt
  en : (getF s (ifDie iface) LKP_IF_CFG.EN).testBit (ifIdx iface) = true
  lanes : ifLanes (getF s (ifDie iface) LKP_IF_CFG.MODE) (ifIdx iface) ≠ 0
  down : ifState s iface ≠ 2
  image : loaded s = true
  service : isF s 0 PKG_BOOT.SVC = true
  head : cascPos s = 0
  there : gone s (ifDie iface) = false
  quiet : testing s (ifDie iface) = false
  running : isF s 0 FLT_ERST.GO = false
  released : s.inReset = false

theorem execInterfaceUp_aligns (h : MayAlign s iface) : execInterfaceUp iface s =
    .next (setIfState s iface 2 (ifLanes (getF s (ifDie iface) LKP_IF_CFG.MODE) (ifIdx iface))) := by
  simp only [execInterfaceUp, h.die, h.en, bne_iff_ne.mpr h.lanes, bne_iff_ne.mpr h.down, h.image, h.service, h.head, h.there, h.quiet,
    h.running, h.released, decide_true, beq_self_eq_true, Bool.not_false, Bool.and_self, if_true]

end Lanes

/-- Settles O17: XOFF goes by the channel's class, a lane by its failure or its fourth bad word in a row, and an interface by R304. -/
theorem flowControlAndLanes : Obligations.FlowControlAndLanes := by
  refine ⟨fun s iface chan xoff hup hchan hcar hen => ?xoff, fun s iface lane hup hused => execLaneFail_fails ⟨hup, hused⟩,
    fun s iface lane hup hused => ?diag, fun s iface hdie hen hlanes hdown himg hsvc hhead hthere hquiet hrun hrel =>
      execInterfaceUp_aligns ⟨hdie, hen, hlanes, hdown, himg, hsvc, hhead, hthere, hquiet, hrun, hrel⟩⟩
  case xoff =>
    have h : CarriedOn s iface chan := ⟨hup, hchan, hcar, hen⟩
    by_cases hguar : chGuar s chan = true ∧ xoff = true
    · obtain ⟨hg, rfl⟩ := hguar
      refine ⟨_, execXoffReceive_guaranteed h hg, (getF_xoffCounted_flag hchan _ _).trans (getF_xoffKept ..), fun hno => ?_,
        fun _ _ hd => ⟨getF_xoffCounted_count hchan .., sticky_xoffCounted hd⟩⟩
      simp [hg] at hno
    · have hno : chGuar s chan = false ∨ xoff = false := by
        simpa [Bool.not_eq_true, imp_iff_not_or] using hguar
      exact ⟨_, execXoffReceive_keeps h hno, getF_xoffKept .., fun _ => onlyRegs_setF .., fun hg hx => absurd ⟨hg, hx⟩ hguar⟩
  case diag =>
    have h : LaneInUse s iface lane := ⟨hup, hused⟩
    exact ⟨⟨_, execDiagnosticWord_good h, diagCounted_fails, rfl⟩, fun hfew => ⟨_, execDiagnosticWord_counts h hfew, diagMissed_fails,
      getF_diagMissed_meta, fun hd => sticky_diagMissed hd⟩, fun hthree => ⟨_, execDiagnosticWord_fails h hthree, diagMissed_fails⟩⟩

end Sys2Proof.Machine
end

section
/-!
A write to a channel register (R309, R310): ignored on a locked page, rejected whole when it breaks a channel rule, else taken whole.
-/

namespace Sys2Proof.Machine

section Channel

variable {s : State} {d chan off val : Nat} {i : Instr}

/-- The command writes the channel register at the offset. -/
def ChannelWrite (d chan val off : Nat) (i : Instr) : Prop :=
  i = .channelCfgWrite d chan val ∧ off = 0x100 + 4 * chan ∨ i = .channelBufWrite d chan val ∧ off = 0x200 + 4 * chan

theorem exec_channelWrite (hi : ChannelWrite d chan val off i) (hc : chan < 64) : exec i s = .next (writeChannel s d off val) := by
  rcases hi with ⟨rfl, rfl⟩ | ⟨rfl, rfl⟩
  · show execChannelCfgWrite d chan val s = _
    rw [execChannelCfgWrite, Nat.mod_eq_of_lt hc]
  · show execChannelBufWrite d chan val s = _
    rw [execChannelBufWrite, Nat.mod_eq_of_lt hc]

/-- The offset names its channel. -/
theorem ChannelWrite.chan_of_off (hi : ChannelWrite d chan val off i) (hc : chan < 64) : off / 4 % 64 = chan := by
  rcases hi with ⟨-, rfl⟩ | ⟨-, rfl⟩ <;> omega

/-! ## What a write comes to (R310) -/

theorem writeChannel_locked (hl : locked s d pgLkp = true) : writeChannel s d off val = s := by
  rw [writeChannel, if_pos hl]

/-- The register as written, with the channel's home moved when its die changed. -/
def channelTaken (s t : State) (chan : Nat) : State :=
  if getF t 0 (LKP_CH_CFG.DIE chan) ≠ getF s 0 (LKP_CH_CFG.DIE chan) then setHome t chan (serving t (getF t 0 (LKP_CH_CFG.DIE chan)))
  else t

section Unlocked

variable (hl : locked s d pgLkp = false)

include hl

theorem writeChannel_rejected (hb : channelsBreak (loadWord s 0 pgLkp 0 off val) = true) :
    writeChannel s d off val = raiseErr s d pgLkp LKP_ERR.CH_REJ (it2 (off / 4 % 64) val) := by
  simp only [writeChannel, hl, hb, Bool.false_eq_true, if_false, if_true]

theorem writeChannel_taken (hb : channelsBreak (loadWord s 0 pgLkp 0 off val) = false) :
    writeChannel s d off val = channelTaken s (loadWord s 0 pgLkp 0 off val) (off / 4 % 64) := by
  simp only [writeChannel, hl, hb, Bool.false_eq_true, if_false, bne_iff_ne, channelTaken]

end Unlocked

/-! ## What a write that is taken changes -/

variable {t : State}

theorem channelTaken_regs : (channelTaken s t chan).regs = t.regs := by
  unfold channelTaken
  split <;> rfl

theorem channelTaken_rest (ht : t = { s with regs := t.regs }) :
    channelTaken s t chan = { s with regs := (channelTaken s t chan).regs, homes := (channelTaken s t chan).homes } := by
  unfold channelTaken
  split
  · rw [ht]
    rfl
  · rw [ht]

theorem homeOf_setHome (u : State) (c e : Nat) : homeOf (setHome u c e) c = e := by
  rw [homeOf, setHome, mget_mset_self]

/-- A channel whose die changed is at home on the die that serves the new one. -/
theorem homeOf_channelTaken (h : getF (channelTaken s t chan) 0 (LKP_CH_CFG.DIE chan) ≠ getF s 0 (LKP_CH_CFG.DIE chan)) :
    homeOf (channelTaken s t chan) chan =
      serving (channelTaken s t chan) (getF (channelTaken s t chan) 0 (LKP_CH_CFG.DIE chan)) := by
  rw [getF_of_regs channelTaken_regs] at h ⊢
  rw [channelTaken, if_pos h, homeOf_setHome]
  rfl

end Channel

/-- Settles O18: the write goes by the page's lock and the channel rules of what it would leave. -/
theorem channelRegistersAllOrNothing : Obligations.ChannelRegistersAllOrNothing := by
  intro s d chan val off i hd hc hi
  have hw : ChannelWrite d chan val off i := hi
  rw [exec_channelWrite hw hc]
  refine ⟨fun hl => by rw [writeChannel_locked hl], fun hl => ⟨fun hb => ?rejected, fun hb => ?taken⟩⟩
  case rejected =>
    exact ⟨_, congrArg _ (writeChannel_rejected hl hb), errOnly_raiseErr .., raiseErr_sticky _ _ _ _ _ (present_lkp _ _ hd) (by decide)⟩
  case taken =>
    refine ⟨_, congrArg _ (writeChannel_taken hl hb), ?_⟩
    rw [hw.chan_of_off hc]
    exact ⟨channelTaken_regs, channelTaken_rest (loadWord_rest ..), homeOf_channelTaken⟩

end Sys2Proof.Machine
end

section
/-!
Module sites: the commands of a site (R373), its button and presence events, a surprise removal (R373, R375), and stuck inputs (R490).
-/

namespace Sys2Proof.Machine

/-! ## Site commands (R373) -/

section SiteCommand

variable {s u : State} {d val k : Nat}

/-- The instruction that gives a site the command `k`. -/
def siteInstr (d val k : Nat) : Instr :=
  if k = 1 then .modulePowerOn d val else if k = 2 then .modulePowerOff d val else .indicatorChange d val

theorem siteCmd_cases (s : State) (d val : Nat) : siteCmd s d val = 1 ∨ siteCmd s d val = 2 ∨ siteCmd s d val = 3 := by
  unfold siteCmd
  split
  · exact .inr (.inr rfl)
  · split
    · exact .inl rfl
    · exact .inr (.inl rfl)

/-- Each site command is a write of MSS_CTL that changes the site. -/
theorem exec_siteInstr (hp : present s d pgMss = true) (hs : sameSite s d val = false) (hk : siteCmd s d val = k) :
    exec (siteInstr d val k) s = .next (writeSite s d val) := by
  rcases siteCmd_cases s d val with h | h | h
  · obtain rfl : k = 1 := hk.symm.trans h
    show execModulePowerOn d val s = _
    simp [execModulePowerOn, hp, hs, h]
  · obtain rfl : k = 2 := hk.symm.trans h
    show execModulePowerOff d val s = _
    simp [execModulePowerOff, hp, hs, h]
  · obtain rfl : k = 3 := hk.symm.trans h
    show execIndicatorChange d val s = _
    simp [execIndicatorChange, hp, hs, h]

/-- The site refuses command `k`: power on with no module there, or power off of a running channel. -/
def SiteRefuses (s : State) (d k : Nat) : Prop := k = 1 ∧ isF s d MSS_STS.PDS = false ∨ k = 2 ∧ isF s d STR_STS.READY = true

theorem siteRefuses_iff : ((decide (k = 1) && !isF s d MSS_STS.PDS) || (decide (k = 2) && isF s d STR_STS.READY)) = true ↔
    SiteRefuses s d k := by
  simp [SiteRefuses]

/-- What a command that is taken does at once, its word being written: the load switch is switched, and the contents are lost. -/
def siteSwitched (u : State) (d k : Nat) : State :=
  let u := { u with msCmd := mset 0 u.msCmd d k }
  if k = 1 then loseStore (setF u d MSS_STS.PWR 1) d else if k = 2 then loseStore (setF u d MSS_STS.PWR 0) d else u

/-- No command is under way, or the last one's completion still stands. -/
theorem site_idle (hfree : isF s d MSS_STS.CC = true ∨ mget 0 s.msCmd d = 0) :
    (!isF s d MSS_STS.CC && mget 0 s.msCmd d != 0) = false := by
  rcases hfree with h | h <;> simp [h]

variable (hs : sameSite s d val = false)

include hs

theorem writeSite_busy (hcc : isF s d MSS_STS.CC = false) (hcmd : mget 0 s.msCmd d ≠ 0) : writeSite s d val = s := by
  simp only [writeSite, hs, hcc, bne_iff_ne.mpr hcmd, Bool.not_false, Bool.and_self, Bool.false_eq_true, if_false, if_true]

variable (hfree : isF s d MSS_STS.CC = true ∨ mget 0 s.msCmd d = 0) (hk : siteCmd s d val = k)

include hfree hk

theorem writeSite_rejected (hr : SiteRefuses s d k) : writeSite s d val =
    raiseErr (siteEvent (setF s d MSS_STS.REJ 1) d MSS_STS.CC MSS_CTL.CCIE) d pgMss MSS_ERR.CMD_REJ (it1 (val % 2 ^ 32)) := by
  simp only [writeSite, hs, site_idle hfree, hk, siteRefuses_iff.mpr hr, Bool.false_eq_true, if_false, if_true]

theorem writeSite_taken (hr : ¬ SiteRefuses s d k) : writeSite s d val = siteSwitched (writeWord s d pgMss 0 0x84 val) d k := by
  simp only [writeSite, hs, site_idle hfree, hk, mt siteRefuses_iff.mp hr, Bool.false_eq_true, if_false, siteSwitched]

end SiteCommand

/-! ## Site events (R373, R375, R490) -/

section SiteEvent

variable {s u : State} {d pin : Nat} {here : Bool}

theorem execModuleCommandComplete_completes (hcmd : mget 0 s.msCmd d ≠ 0) : execModuleCommandComplete d s =
    .next (siteEvent { s with msCmd := mset 0 s.msCmd d 0 } d MSS_STS.CC MSS_CTL.CCIE) := by
  simp only [execModuleCommandComplete, hcmd, if_false]

theorem execInputStuck_records (hd : d < s.part.dieCnt) (h0 : 0 < pin) (h4 : pin ≤ 4) (hunit : pin ≤ 2 → s.part.unitS = true)
    (htamper : pin = 3 → d = 0) : execInputStuck d pin s = .next (raiseErr s 0 pgPkg PKG_ERR.PIN_STUCK (it2 d pin)) := by
  have hwatched : ¬ (s.part.dieCnt ≤ d || pin = 0 || 4 < pin || ((pin = 1 || pin = 2) && !s.part.unitS) || (pin = 3 && d != 0)) = true := by
    simp only [Bool.or_eq_true, Bool.and_eq_true, decide_eq_true_eq, Bool.not_eq_true', bne_iff_ne, not_or, not_and]
    refine ⟨⟨⟨⟨by omega, by omega⟩, by omega⟩, fun hpin => ?_⟩, fun h3 => not_not_intro (htamper h3)⟩
    rw [hunit (by omega)]
    exact Bool.noConfusion
  simp only [execInputStuck, hwatched, Bool.false_eq_true, if_false]

section Present

variable (hp : present s d pgMss = true)

include hp

theorem execAttentionButton_event : execAttentionButton d s =
    .next (siteEvent (bumpSat s d MSS_CNT.PRESSES) d MSS_STS.ABP MSS_CTL.ABPE) := by
  simp only [execAttentionButton, hp, if_true]

/-- A change of presence is an event; a module gone leaves an unpowered site empty, and a powered one has failed. -/
theorem execPresenceChange_changes (hpds : isF s d MSS_STS.PDS = !here)
    (hu : u = siteEvent (setF s d MSS_STS.PDS (b2n here)) d MSS_STS.PDC MSS_CTL.PDCE) : execPresenceChange d here s =
      .next (if here then u else if !isF u d MSS_STS.PWR then setF u d STR_STS.SIZE 0 else surpriseRemoval u d) := by
  have hnew : (!present s d pgMss || isF s d MSS_STS.PDS == here) = false := by simp [hp, hpds]
  subst hu
  simp only [execPresenceChange, hnew, Bool.false_eq_true, if_false]

end Present

end SiteEvent

/-! ## What a surprise removal leaves (R373) -/

section Removal

variable (s : State) (d : Nat)

/-- The site of a failed module, unpowered and emptied. -/
def siteEmptied (s : State) (d : Nat) : State := loseStore (setF (setF (setF s d MSS_STS.PWR 0) d MSS_CTL.PCC 1) d STR_STS.SIZE 0) d

theorem surpriseRemoval_eq : ∃ t i, t = siteEmptied { moduleFail s d with msCmd := mset 0 (moduleFail s d).msCmd d 0 } d ∧
    surpriseRemoval s d = raiseErr (bumpSat t d MSS_CNT.SURPRISE) d pgMss MSS_ERR.SURPRISE i := ⟨_, _, rfl, rfl⟩

theorem surpriseRemoval_msCmd : mget 0 (surpriseRemoval s d).msCmd d = 0 := by
  obtain ⟨t, i, rfl, h⟩ := surpriseRemoval_eq s d
  rw [h, raiseErr_msCmd]
  exact mget_mset_self 0 (moduleFail s d).msCmd d 0

/-- The module's cells are gone. -/
theorem surpriseRemoval_store : ∀ c ∈ (surpriseRemoval s d).store, c.1 / 2 ^ 29 ≠ d := by
  obtain ⟨t, i, rfl, h⟩ := surpriseRemoval_eq s d
  rw [h, raiseErr_store]
  exact fun c hc => bne_iff_ne.mp (List.mem_filter.mp hc).2

/-- Neither the count of removals nor the error touches another register of the site. -/
theorem getF_surpriseRemoval {f : Fld} (he : errFree f 0 = true) (hf : fne f 0 MSS_CNT.SURPRISE 0 = true) :
    ∃ t, getF (surpriseRemoval s d) d f = getF (siteEmptied t d) d f := by
  obtain ⟨t, i, rfl, h⟩ := surpriseRemoval_eq s d
  exact ⟨_, by rw [h, getF_raiseErr _ _ _ _ _ _ _ _ he, bumpSat, getF_setF_ne _ _ _ _ _ _ _ _ hf]⟩

theorem getF_siteEmptied (f : Fld) : getF (siteEmptied s d) d f =
    getF (setF (setF (setF s d MSS_STS.PWR 0) d MSS_CTL.PCC 1) d STR_STS.SIZE 0) d f := rfl

theorem getF_siteEmptied_power : getF (siteEmptied s d) d MSS_STS.PWR = 0 := by
  rw [getF_siteEmptied, getF_setF_ne _ _ _ _ _ _ _ _ (by decide), getF_setF_ne _ _ _ _ _ _ _ _ (by decide), getF_setF_self]
  rfl

theorem getF_siteEmptied_control : getF (siteEmptied s d) d MSS_CTL.PCC = 1 := by
  rw [getF_siteEmptied, getF_setF_ne _ _ _ _ _ _ _ _ (by decide), getF_setF_self]
  rfl

theorem surpriseRemoval_power : getF (surpriseRemoval s d) d MSS_STS.PWR = 0 := by
  obtain ⟨t, h⟩ := getF_surpriseRemoval s d (f := MSS_STS.PWR) (by decide) (by decide)
  rw [h, getF_siteEmptied_power]

theorem surpriseRemoval_control : getF (surpriseRemoval s d) d MSS_CTL.PCC = 1 := by
  obtain ⟨t, h⟩ := getF_surpriseRemoval s d (f := MSS_CTL.PCC) (by decide) (by decide)
  rw [h, getF_siteEmptied_control]

end Removal

/-- Settles O50: a site command goes by the command under way and by what the site may take; a presence change by the site's power. -/
theorem siteCommandsAndEventsHappen : Obligations.SiteCommandsAndEventsHappen := by
  intro s d
  refine ⟨fun hp => ⟨?command, execAttentionButton_event hp, ?presence⟩, execModuleCommandComplete_completes,
    fun pin => execInputStuck_records⟩
  case command =>
    intro val k c hs hk hc
    obtain rfl : c = siteInstr d val k := hc
    rw [exec_siteInstr hp hs hk]
    refine ⟨fun hcc hcmd => congrArg _ (writeSite_busy hs hcc hcmd), fun hfree =>
      ⟨fun hr => congrArg _ (writeSite_rejected hs hfree hk hr), ?_⟩⟩
    have htaken := writeSite_taken hs hfree hk
    rintro u rfl
    refine ⟨?on, ?off, ?indicators⟩
    case on =>
      rintro rfl hpds
      exact congrArg _ (htaken (by simp [SiteRefuses, hpds]))
    case off =>
      rintro rfl hready
      exact congrArg _ (htaken (by simp [SiteRefuses, hready]))
    case indicators =>
      rintro rfl
      exact congrArg _ (htaken (by simp [SiteRefuses]))
  case presence =>
    intro here u hpds hu
    have hexec : exec (.presenceChange d here) s = _ := execPresenceChange_changes hp hpds hu
    rw [hexec]
    refine ⟨fun hin => by rw [if_pos hin], ?unpowered, ?powered⟩
    case unpowered =>
      rintro rfl hpwr
      rw [hpwr]
      rfl
    case powered =>
      rintro rfl hpwr
      rw [hpwr]
      exact ⟨_, rfl, rfl, surpriseRemoval_msCmd u d, surpriseRemoval_power u d, surpriseRemoval_control u d, surpriseRemoval_store u d⟩

end Sys2Proof.Machine
end

section
/-!
Peer windows: what a write to the windows comes to (R369), the command that is sent (R370), and the commit of the shadows (R371).
-/

namespace Sys2Proof.Machine

/-! ## Writes to the windows (R369) -/

section PeerWrite

variable {s : State} {off w len : Nat} {p : PeerWin} {data : BitVec 512} (hb : barOpen s = true)

include hb

theorem execPeerUnmatchedWrite_rejects (hw : windowAt s off = none) : execPeerUnmatchedWrite off s =
    .next (emitOut (raiseErr (peerReject s 1) 0 pgHif HIF_ERR.PW_UNMATCHED (it1 off)) (.pcie 2)) := by
  simp only [execPeerUnmatchedWrite, hb, hw, Option.isSome_none, Bool.not_true, Bool.or_self, Bool.false_eq_true, if_false]

variable (hw : windowAt s off = some (w, p))

include hw

theorem execPeerCommandWrite_queues (ha : off % 64 = 0) (ht : p.type = 1) (hroom : (peerQueue s w).length < 64) :
    execPeerCommandWrite off data s =
      .next { s with peerQ := mset [] s.peerQ w (peerQueue s w ++ [(data, if p.nocpl then none else some p.cq)]) } := by
  have hgood : (p.type != 1 || off % 64 != 0 || decide (64 ≤ (peerQueue s w).length) || !barOpen s) = false := by
    simp [ht, ha, hroom, hb]
  simp only [execPeerCommandWrite, hw, hgood, Bool.false_eq_true, if_false]

theorem execPeerSlotWrite_writes (ha : off % 64 = 0) (ht : p.type = 2) :
    execPeerSlotWrite off data s = .next (slotWrite s p.die 0 64 data) := by
  simp only [execPeerSlotWrite, hw, ht, ha, hb, bne_self_eq_false, Bool.not_true, Bool.or_self, Bool.false_eq_true, if_false]

theorem execPeerBadWrite_rejects (hbad : len ≠ 64 ∨ off % 64 ≠ 0) : execPeerBadWrite off len s =
    .next (raiseErr (peerReject s 2) 0 pgHif HIF_ERR.PW_FMT (it1 off)) := by
  have hsize : ¬ (len = 64 ∧ off % 64 = 0) := not_and_or.mpr hbad
  simp only [execPeerBadWrite, hb, hw, hsize, Option.isNone_some, decide_false, Bool.not_true, Bool.or_self, Bool.false_eq_true, if_false]

end PeerWrite

/-! ## Commands leave their window (R370) -/

section PeerDispatch

variable {s u : State} {w q : Nat} {e : BitVec 512} {cq : Option Nat} {rest : List (BitVec 512 × Option Nat)}

/-- The command at the front of window `w` may go: the engine of its die runs and takes peer commands. -/
structure PeerFront (s : State) (w : Nat) (e : BitVec 512) (cq : Option Nat) (rest : List (BitVec 512 × Option Nat)) : Prop where
  front : peerQueue s w = (e, cq) :: rest
  engine : isF s (runDie s e) UPD_CTL.EN = true
  peer : isF s (runDie s e) UPD_CTL.PEER_EN = true

/-- A command without completion needs no room. -/
theorem execPeerCommandDispatch_plain (h : PeerFront s w e none rest) (hu : u = { s with peerQ := mset [] s.peerQ w rest }) :
    execPeerCommandDispatch w s = .next (sendCmd u 0 (0x40 + w) (.peer w none) e false) := by
  subst hu
  simp only [execPeerCommandDispatch, h.front, h.engine, h.peer, Bool.not_true, Bool.or_self, Bool.false_eq_true, if_false]

variable (h : PeerFront s w e (some q) rest)

include h

/-- A command is sent with an entry of its completion queue reserved. -/
theorem execPeerCommandDispatch_reserves (hen : isF s 0 HIF_Q_CFG.EN q = true) (hroom : mget 0 s.cqUsed q < qSize s q)
    (hu : u = { s with peerQ := mset [] s.peerQ w rest }) : execPeerCommandDispatch w s =
      .next (sendCmd { u with cqUsed := mmod 0 u.cqUsed q fun u => u + 1 } 0 (0x40 + w) (.peer w (some q)) e false) := by
  subst hu
  simp only [execPeerCommandDispatch, h.front, h.engine, h.peer, hen, hroom, decide_true, Bool.and_self, Bool.not_true, Bool.or_self,
    Bool.false_eq_true, if_false]

theorem execPeerCommandDispatch_waits (hfull : isF s 0 HIF_Q_CFG.EN q = false ∨ qSize s q ≤ mget 0 s.cqUsed q) :
    execPeerCommandDispatch w s = .next s := by
  have hroom : (isF s 0 HIF_Q_CFG.EN q && decide (mget 0 s.cqUsed q < qSize s q)) = false := by
    simpa [or_iff_not_imp_left] using hfull
  simp only [execPeerCommandDispatch, h.front, hroom, Bool.not_false, Bool.or_true, if_true]

end PeerDispatch

/-! ## The commit (R371) -/

section Commit

variable {s : State}

/-- A map built by one write a key reads, at the keys written, as the values written. -/
theorem mget_foldl_mset {α : Type} [DecidableEq α] (dflt : α) (v : Nat → α) {ks : List Nat} {k : Nat} (hk : k ∈ ks) (m : SMap α) :
    mget dflt (ks.foldl (fun m w => mset dflt m w (v w)) m) k = v k := by
  suffices h : ∀ m : SMap α, k ∈ ks ∨ mget dflt m k = v k → mget dflt (ks.foldl (fun m w => mset dflt m w (v w)) m) k = v k from
    h m (.inl hk)
  clear hk
  induction ks with
  | nil => exact fun m h => h.resolve_left List.not_mem_nil
  | cons w ks ih =>
    refine fun m h => ih _ ?_
    by_cases hw : k = w
    · exact .inr (by rw [hw, mget_mset_self])
    · rw [mget_mset_ne _ _ _ _ hw]
      exact h.imp_left fun hmem => (List.mem_cons.mp hmem).resolve_left hw

/-- What a commit makes of window `w`: its shadow, unless the shadow is disabled. -/
def committed (s : State) (w : Nat) : Option PeerWin := if (shadowWin s w).type = 0 then none else some (shadowWin s w)

/-- The state after a good commit: all shadows are active, and nothing is rejected. -/
def windowsTaken (s : State) : State :=
  setF (setF { s with peers := (List.range 8).foldl (fun m w => mset none m w (committed s w)) [] } 0 HIF_PW_STS.REJ 0) 0 HIF_PW_STS.REJ_WIN 0

theorem commitWindows_rejected {w : Nat} (hw : ((List.range 8).find? fun w => badWindow s w) = some w) :
    commitWindows s = setF (setF s 0 HIF_PW_STS.REJ 1) 0 HIF_PW_STS.REJ_WIN w := by
  simp only [commitWindows, hw]

theorem commitWindows_taken (hnone : ((List.range 8).find? fun w => badWindow s w) = none) : commitWindows s = windowsTaken s := by
  simp only [commitWindows, hnone]
  rfl

theorem isF_windowsTaken_rejected (s : State) : isF (windowsTaken s) 0 HIF_PW_STS.REJ = false := by
  rw [isF, windowsTaken, getF_setF_ne _ _ _ _ _ _ _ _ (by decide), getF_setF_self]
  rfl

theorem windowsTaken_peers (s : State) {w : Nat} (hw : w < 8) : mget none (windowsTaken s).peers w = committed s w :=
  mget_foldl_mset none (committed s) (List.mem_range.mpr hw) []

theorem execPeerWindowCommit_commits (hb : barOpen s = true) : execPeerWindowCommit s = .next (commitWindows s) := by
  simp only [execPeerWindowCommit, hb, if_true]

end Commit

/-- Settles O44: a write goes by the window it falls in, a command by its die and the room for its completion, and a commit by the
first bad shadow. -/
theorem peerWindowsCarryCommands : Obligations.PeerWindowsCarryCommands := by
  intro s off hb
  refine ⟨fun w p hw => ⟨fun data => execPeerCommandWrite_queues hb hw, fun data => execPeerSlotWrite_writes hb hw,
    fun len => execPeerBadWrite_rejects hb hw⟩, execPeerUnmatchedWrite_rejects hb, ?dispatch, ?commit⟩
  case dispatch =>
    intro w e cq rest d hfront hd hen hpeer u hu
    subst hd
    have h : PeerFront s w e cq rest := ⟨hfront, hen, hpeer⟩
    refine ⟨?plain, ?room, ?full⟩
    case plain =>
      rintro rfl
      exact execPeerCommandDispatch_plain h hu
    case room =>
      rintro q rfl hq hroom
      exact execPeerCommandDispatch_reserves h hq hroom hu
    case full =>
      rintro q rfl
      exact execPeerCommandDispatch_waits h
  case commit =>
    have hexec : exec .peerWindowCommit s = _ := execPeerWindowCommit_commits hb
    rw [hexec]
    exact ⟨fun w hw => congrArg _ (commitWindows_rejected hw), fun hnone => ⟨_, congrArg _ (commitWindows_taken hnone),
      isF_windowsTaken_rejected s, fun w => windowsTaken_peers s⟩⟩

end Sys2Proof.Machine
end

section
/-!
The function and its link: interrupts that are unmasked (R362), bus mastering and the power state (R352, R366), resets and link events
(R367, R368), and the invalidation and switching off of translation (R363 to R365).
-/

namespace Sys2Proof.Machine

/-! ## Interrupts (R362) -/

section Unmask

variable {s u : State} {v : Nat}

/-- Unmasking a vector sends the message that was held back, if requests may go out. -/
theorem execMsixUnmask_unmasks (hv : v < 64) (hb : barOpen s = true) (hu : u = { s with msixMask := mset true s.msixMask v false }) :
    execMsixUnmask v s = .next (if mget false s.msixPend v = true ∧ canMaster s = true then
      emitOut { u with msixPend := mset false u.msixPend v false } (.msix v) else u) := by
  have hm : canMaster u = canMaster s := by rw [hu]; rfl
  subst hu
  simp only [execMsixUnmask, writeMsixCtl, hv, hb, decide_true, Bool.and_self, if_true, Bool.false_or]
  cases mget false s.msixPend v <;> simp [hm]

end Unmask

/-! ## Bus mastering and the power state (R352, R366) -/

section Master

variable {s u v w x t : State}

theorem stopIf_eq (t : State) (ran : Bool) : stopIf t ran = if ran = true ∧ canMaster t = false then stopMaster t else t := by
  simp only [stopIf, Bool.and_eq_true, Bool.not_eq_true']

/-- The link is up and the device out of reset: a write of the configuration space arrives. -/
structure LinkLive (s : State) : Prop where
  up : isF s 0 HIF_STS.LINK_UP = true
  running : s.inReset = false

theorem execBusMasterEnable_d3hot (h : LinkLive s) (pasid : Bool) :
    execBusMasterEnable .d3hot pasid s = .next (stopIf { s with d3hot := true } (canMaster s)) := by
  simp only [execBusMasterEnable, h.up, h.running, Bool.not_true, Bool.or_self, Bool.false_eq_true, if_false]

/-- The configuration write as it lands: D0, or bus master enable with the ATS and PASID enables asked for. -/
def masterSet (s : State) (ats pasid d0 : Bool) : State :=
  let u := setF s 0 HIF_STS.BME 1
  let v := if ats then setF u 0 HIF_STS.ATS_EN 1 else u
  if d0 then { s with d3hot := false } else if pasid then setF v 0 HIF_STS.PASID_EN 1 else v

theorem execBusMasterEnable_starts (h : LinkLive s) (hr : s.funcReady = true) (ats pasid d0 : Bool) :
    execBusMasterEnable (if d0 then .d0 else .master ats) pasid s = .next (startIf (masterSet s ats pasid d0)) := by
  have hlive : (!isF s 0 HIF_STS.LINK_UP || s.inReset) = false := by simp [h.up, h.running]
  cases d0 <;> simp only [execBusMasterEnable, hlive, hr, masterSet, Bool.false_eq_true, if_false, if_true]

end Master

/-! ## Resets and link events (R367, R368) -/

section Link

variable {s : State}

theorem execFlr_resets (h : LinkLive s) : execFlr s = .next (raiseErr (hostReset s 3) 0 pgHif HIF_ERR.FLR it0) := by
  simp only [execFlr, h.up, h.running, Bool.not_false, Bool.and_self, if_true]

theorem execLinkDown_resets (h : LinkLive s) : execLinkDown s =
    .next (raiseErr (setF (setF (setF (hostReset s 4) 0 HIF_STS.LINK_UP 0) 0 HIF_STS.SPEED 0) 0 HIF_STS.WIDTH 0) 0 pgHif HIF_ERR.LINK_DOWN it0) := by
  simp only [execLinkDown, h.up, h.running, Bool.not_true, Bool.or_self, Bool.false_eq_true, if_false]

theorem execFunctionReady_readies (h : LinkLive s) : execFunctionReady s = .next { s with funcReady := true } := by
  simp only [execFunctionReady, h.up, h.running, Bool.not_false, Bool.and_self, if_true]

/-- The quarantine is over: no tag is held any more. -/
def quarantineOver (s : State) : State := setF (setF { s with quar := [] } 0 HIF_STS.QUAR 0) 0 HIF_QUAR.TAGS 0

theorem execQuarantineExpire_ends (hq : isF s 0 HIF_STS.QUAR = true) :
    execQuarantineExpire s = .next (advanceFetches (quarantineOver s)) := by
  simp only [execQuarantineExpire, hq, if_true]
  rfl

theorem isF_quarantineOver (s : State) : isF (quarantineOver s) 0 HIF_STS.QUAR = false := by
  rw [isF, quarantineOver, getF_setF_ne _ _ _ _ _ _ _ _ (by decide), getF_setF_self]
  rfl

theorem getF_quarantineOver_tags (s : State) : getF (quarantineOver s) 0 HIF_QUAR.TAGS = 0 := by
  rw [quarantineOver, getF_setF_self]
  rfl

/-- The link as it trained. -/
def linkTrained (s : State) (speed width : Nat) : State :=
  setF (setF (setF s 0 HIF_STS.LINK_UP 1) 0 HIF_STS.SPEED speed) 0 HIF_STS.WIDTH width

theorem execDataLinkUp_trains (hr : s.inReset = false) (hdown : isF s 0 HIF_STS.LINK_UP = false) (speed width : Nat) :
    execDataLinkUp speed width s = .next (linkTrained s speed width) := by
  simp only [execDataLinkUp, hr, hdown, Bool.or_self, Bool.false_eq_true, if_false]
  rfl

variable (s) (speed width : Nat)

theorem onlyRegs_linkTrained : OnlyRegs [rkey 0 HIF_STS.LINK_UP 0, rkey 0 HIF_STS.SPEED 0, rkey 0 HIF_STS.WIDTH 0] s (linkTrained s speed width) :=
  (((OnlyRegs.refl _ s).set 0 HIF_STS.LINK_UP 1 0 (by simp)).set 0 HIF_STS.SPEED speed 0 (by simp)).set 0 HIF_STS.WIDTH width 0 (by simp)

theorem isF_linkTrained : isF (linkTrained s speed width) 0 HIF_STS.LINK_UP = true := by
  rw [isF, linkTrained, getF_setF_ne _ _ _ _ _ _ _ _ (by decide), getF_setF_ne _ _ _ _ _ _ _ _ (by decide), getF_setF_self]
  rfl

theorem getF_linkTrained_speed : getF (linkTrained s speed width) 0 HIF_STS.SPEED = speed % 2 ^ HIF_STS.SPEED.width := by
  rw [linkTrained, getF_setF_ne _ _ _ _ _ _ _ _ (by decide), getF_setF_self]

theorem getF_linkTrained_width : getF (linkTrained s speed width) 0 HIF_STS.WIDTH = width % 2 ^ HIF_STS.WIDTH.width := by
  rw [linkTrained, getF_setF_self]

end Link

/-! ## Translation (R363 to R365) -/

section Ats

variable {s : State}

/-- An invalidation joins the list, and the translations that it covers go. -/
theorem execAtsInvalidation_takes (hroom : s.invals.length < 32) (hup : isF s 0 HIF_STS.LINK_UP = true) (pasid : Option Nat) (page log2 : Nat) :
    ∃ i : Inval, i.pasid = pasid ∧ i.page = page ∧ i.log2 = log2 ∧ execAtsInvalidation pasid page log2 s =
      .next (bumpSat { s with xlats := s.xlats.filter (fun x => !xlatIn pasid page log2 x), invals := s.invals ++ [i] } 0 HIF_ATS.INV) := by
  have hgo : (decide (32 ≤ s.invals.length) || !isF s 0 HIF_STS.LINK_UP) = false := by simp [hroom, hup]
  simp only [execAtsInvalidation, hgo, Bool.false_eq_true, if_false]
  exact ⟨_, rfl, rfl, rfl, rfl⟩

/-- No read and no write that was issued with its translations is still out. -/
def invalSettled (s : State) (i : Inval) : Bool :=
  !(i.write.isSome && i.write == s.cwrite) && !(i.waits.any fun id => s.fetches.any fun f => f.id == id && !f.done && f.data.isNone)

theorem execAtsInvalidationComplete_completes {i : Inval} (hi : s.invals.find? (invalSettled s) = some i) :
    execAtsInvalidationComplete s = .next (emitOut { s with invals := rmFirst (fun j => j == i) s.invals } (.pcie 1)) := by
  have hi' : (s.invals.find? fun i => !(i.write.isSome && i.write == s.cwrite) &&
      !(i.waits.any fun id => s.fetches.any fun f => f.id == id && !f.done && f.data.isNone)) = some i := hi
  simp only [execAtsInvalidationComplete, hi']

/-- The regions that use a PASID. -/
def pasidRegions (s : State) : List Nat := (List.range 256).filter fun r => isF s 0 CR_CTL.PASID_EN r

/-- With ATS or the PASID of a region switched off, the regions that need it go offline, and no translation stays. -/
theorem execAtsDisable_eq {ats pasid offAts offPasid : Bool} {u v : State} (hats : offAts = (ats && isF s 0 HIF_STS.ATS_EN))
    (hpasid : offPasid = (pasid && isF s 0 HIF_STS.PASID_EN && pasidRegions s != []))
    (hu : u = if ats then setF s 0 HIF_STS.ATS_EN 0 else s) (hv : v = if pasid then setF u 0 HIF_STS.PASID_EN 0 else u) :
    execAtsDisable ats pasid s = .next (if offAts = false ∧ offPasid = false then v else
      ((if offAts then List.range 256 else pasidRegions s).filter fun r => regionOnline v r).foldl (fun s r => regionOff s r 3 (some 8))
        { v with xlats := [] }) := by
  subst hats hpasid hu hv
  simp only [execAtsDisable, pasidRegions, Bool.and_eq_true, Bool.not_eq_true']

end Ats

/-- Settles O43: a write of the configuration space or a link event acts by what the link, the function and the master enable
allow, and an invalidation by the translations that it covers. -/
theorem functionAndTranslationEvents : Obligations.FunctionAndTranslationEvents := by
  intro s
  refine ⟨?unmask, ?stop, fun cause => rfl, ?start, ?reset, fun hq => ⟨quarantineOver s, execQuarantineExpire_ends hq, rfl,
    isF_quarantineOver s, getF_quarantineOver_tags s⟩, fun hr hdown speed width => ⟨linkTrained s speed width,
    execDataLinkUp_trains hr hdown speed width, onlyRegs_linkTrained s speed width, isF_linkTrained s speed width,
    getF_linkTrained_speed s speed width, getF_linkTrained_width s speed width⟩, ?invalidation,
    fun i => execAtsInvalidationComplete_completes, ?disable⟩
  case unmask =>
    intro v hv hb u hu
    have hexec : exec (.msixUnmask v) s = _ := execMsixUnmask_unmasks hv hb hu
    rw [hexec]
    exact ⟨fun hno => by simp [hno], fun hpend hm => by rw [if_pos ⟨hpend, hm⟩]⟩
  case stop =>
    rintro t d3 rfl hlive
    cases d3
    case false => exact congrArg _ (stopIf_eq ..)
    case true =>
      obtain ⟨hup, hr⟩ := hlive.resolve_left (by decide)
      exact (execBusMasterEnable_d3hot ⟨hup, hr⟩ false).trans (congrArg _ (stopIf_eq ..))
  case start =>
    rintro hready hup hr ats pasid d0 u v w x rfl rfl rfl rfl e rfl
    exact execBusMasterEnable_starts ⟨hup, hr⟩ hready ats pasid d0
  case reset =>
    intro hup hr
    have h : LinkLive s := ⟨hup, hr⟩
    exact ⟨execFlr_resets h, execLinkDown_resets h, execFunctionReady_readies h⟩
  case invalidation =>
    intro pasid page log2 hroom hup
    obtain ⟨i, hpasid, hpage, hlog2, hexec⟩ := execAtsInvalidation_takes hroom hup pasid page log2
    exact ⟨_, i, hexec, rfl, rfl, hpasid, hpage, hlog2, onlyRegs_setF ..⟩
  case disable =>
    rintro ats pasid u v offAts offPasid wp rfl hats hpasid hu hv
    exact execAtsDisable_eq hats hpasid hu hv

end Sys2Proof.Machine
end

section
/-!
The evidence log: a record that arrives is appended, held or lost (R395, R403, R404), a checkpoint is asked for and signed (R400), and a
run starts and stops (R397, R399).
-/

namespace Sys2Proof.Machine

/-! ## A record that is lost (R404) -/

section Loss

variable (s : State) (code : Nat)

/-- A lost record as it is counted, before its error; a code above 0 stops the log. -/
def lossCounted (s : State) (code : Nat) : State :=
  let u := bump s 0 EVD_LOST.COUNT
  let u := { u with evd := { u.evd with gap := u.evd.gap + 1, lostSince := true } }
  if code = 0 then u else setF (setF u 0 EVD_STS.STOP code) 0 EVD_STS.RUN 0

theorem loseRecord_eq : ∃ i j, sendEvidence.loseRecord s code =
    if code = 3 then raiseErr (raiseErr (lossCounted s code) 0 pgEvd EVD_ERR.LOST i) 0 pgEvd EVD_ERR.TGT_FAIL j
    else raiseErr (lossCounted s code) 0 pgEvd EVD_ERR.LOST i := ⟨_, _, rfl⟩

theorem errOnly_loseRecord : ErrOnly (lossCounted s code) (sendEvidence.loseRecord s code) := by
  obtain ⟨i, j, h⟩ := loseRecord_eq s code
  rw [h]
  split
  · exact (errOnly_raiseErr ..).trans (errOnly_raiseErr ..)
  · exact errOnly_raiseErr ..

theorem lossCounted_evd : (lossCounted s code).evd = { s.evd with gap := s.evd.gap + 1, lostSince := true } := by
  unfold lossCounted
  split <;> rfl

theorem getF_lossCounted_count : getF (lossCounted s code) 0 EVD_LOST.COUNT = (getF s 0 EVD_LOST.COUNT + 1) % 2 ^ 32 := by
  unfold lossCounted
  split
  · exact getF_bump_self ..
  · rw [getF_setF_ne _ _ _ _ _ _ _ _ (by decide), getF_setF_ne _ _ _ _ _ _ _ _ (by decide)]
    exact getF_bump_self ..

theorem loseRecord_evd : (sendEvidence.loseRecord s code).evd = { s.evd with gap := s.evd.gap + 1, lostSince := true } := by
  rw [(errOnly_loseRecord s code).rest, ← lossCounted_evd s code]

theorem getF_loseRecord_count :
    getF (sendEvidence.loseRecord s code) 0 EVD_LOST.COUNT = (getF s 0 EVD_LOST.COUNT + 1) % 2 ^ 32 :=
  ((errOnly_loseRecord s code).regs _ _ _ (by decide)).trans (getF_lossCounted_count s code)

/-- Losing records neither begins nor ends the generation of a key. -/
theorem loseRecords_enabling (l : List Nat) :
    (l.foldl (fun s _ => sendEvidence.loseRecord s code) s).evd.enabling = s.evd.enabling := by
  induction l generalizing s with
  | nil => rfl
  | cons _ l ih => rw [List.foldl_cons, ih, loseRecord_evd]

end Loss

/-! ## A record that arrives (R395, R403, R404) -/

section Arrival

variable {s u : State}

theorem execEvidenceRecord_none (h : s.evd.inbox.find? (fun r => !recordWaits s r.die) = none) :
    execEvidenceRecord s = .next s := by
  simp only [execEvidenceRecord, h]

theorem execEvidenceRecord_takes {r : EvRec} (h : s.evd.inbox.find? (fun r => !recordWaits s r.die) = some r)
    (hu : u = { s with
      ringAir := rmFirst (RCell.named r.die 5 (mgmtId 7 r.die)) s.ringAir
      evd := { s.evd with inbox := rmFirst (fun x => x == r) s.evd.inbox } }) :
    execEvidenceRecord s = .next (takeEvidence u r.bits) := by
  subst hu
  simp only [execEvidenceRecord, h]

variable (bits : Nat)

theorem takeEvidence_off (hen : isF s 0 EVD_CTL.EN = false) : takeEvidence s bits = sendEvidence.loseRecord s 0 := by
  simp only [takeEvidence, hen, Bool.not_false, if_true]

section On

variable (hen : isF s 0 EVD_CTL.EN = true)

include hen

theorem takeEvidence_holds (hgen : s.evd.enabling = true) (hroom : s.evd.queue.length < 1024) :
    takeEvidence s bits = { s with evd := { s.evd with queue := s.evd.queue ++ [bits] } } := by
  simp only [takeEvidence, hen, hgen, Nat.not_le.mpr hroom, Bool.not_true, Bool.false_eq_true, if_false]

theorem takeEvidence_overflows (hgen : s.evd.enabling = true) (hfull : 1024 ≤ s.evd.queue.length) :
    takeEvidence s bits = sendEvidence.loseRecord s 0 := by
  simp only [takeEvidence, hen, hgen, hfull, Bool.not_true, Bool.false_eq_true, if_false, if_true]

theorem takeEvidence_appends (hgen : s.evd.enabling = false) : takeEvidence s bits = appendRecord s bits := by
  simp only [takeEvidence, hen, hgen, Bool.not_true, Bool.not_false, Bool.false_eq_true, if_false, if_true]

end On

theorem appendRecord_unready (hr : evReady s = false) :
    appendRecord s bits = sendEvidence.loseRecord s (if evHost s then 0 else 3) := by
  simp only [appendRecord, hr, Bool.not_false, if_true]

theorem appendRecord_full (hr : evReady s = true) (hroom : evRoom s = false) :
    appendRecord s bits = sendEvidence.loseRecord s 2 := by
  simp only [appendRecord, hr, hroom, Bool.not_true, Bool.not_false, Bool.false_eq_true, if_false, if_true]

theorem appendRecord_puts (hr : evReady s = true) (hroom : evRoom s = true) (hgap : s.evd.gap = 0) :
    appendRecord s bits = putRecord s bits := by
  simp only [appendRecord, hr, hroom, hgap, decide_true, Bool.true_or, Bool.not_true, Bool.false_eq_true, if_false, if_true]

/-- A log that is off, that holds as many records as it may, or whose target takes none loses the record. -/
theorem takeEvidence_loses (h : isF s 0 EVD_CTL.EN = false ∨ s.evd.enabling = true ∧ 1024 ≤ s.evd.queue.length ∨
    s.evd.enabling = false ∧ (evReady s = false ∨ evRoom s = false)) :
    ∃ code, takeEvidence s bits = sendEvidence.loseRecord s code := by
  cases hen : isF s 0 EVD_CTL.EN
  case false => exact ⟨0, takeEvidence_off bits hen⟩
  case true =>
    rcases h with hoff | ⟨hgen, hfull⟩ | ⟨hgen, hno⟩
    · exact Bool.noConfusion (hen.symm.trans hoff)
    · exact ⟨0, takeEvidence_overflows bits hen hgen hfull⟩
    · rw [takeEvidence_appends bits hen hgen]
      cases hr : evReady s
      case false => exact ⟨_, appendRecord_unready bits hr⟩
      case true => exact ⟨2, appendRecord_full bits hr (hno.resolve_left (by simp [hr]))⟩

end Arrival

/-! ## Checkpoints (R400) -/

section Checkpoint

variable {s u : State}

theorem execCheckpointIdleTimeout_asks (hen : isF s 0 EVD_CTL.EN = true) (hgen : s.evd.enabling = false)
    (htmo : getF s 0 EVD_CFG.TMO ≠ 0) (hnew : s.evd.covered < evWidx s) : execCheckpointIdleTimeout s = .next (ckptDue s) := by
  simp only [execCheckpointIdleTimeout, hen, hgen, htmo, Nat.not_le.mpr hnew, Bool.not_true, Bool.or_self, decide_false,
    Bool.false_eq_true, if_false]

/-- The four blocks of a signed checkpoint: its body, its signature, and zeros. -/
def ckptBlocks (body : List Nat) (sig : Nat) : List Nat :=
  (List.range 4).map fun i => ofBytesBE (((body ++ bytesBE 96 sig ++ List.replicate 40 0).drop (64 * i)).take 64)

theorem execCheckpointSigned_writes {c : CkptReq} {rest : List CkptReq} {key num : Nat} {body : List Nat} (hdue : s.evd.due = c :: rest)
    (hkey : s.evd.key = some key) (hnum : num = getF s 0 EVD_CPNUM.VALUE) (hbody : body = ckptBody s c (num + 1))
    (hu : u = setF { s with free := s.free + 1, evd := { s.evd with due := rest, prev := some body, lostSince := false } }
      0 EVD_CPNUM.VALUE (num + 1)) :
    execCheckpointSigned s = .next (evWrite u (evCpBase u + 256 * (num % evCpSize u))
      (ckptBlocks body (ecdsaSign key (sha384 body) (Config.random s.free)))) := by
  subst hu hbody hnum
  simp only [execCheckpointSigned, hdue, hkey, random, Nat.add_sub_cancel, ckptBlocks]

end Checkpoint

/-! ## A run starts (R397, R399) -/

section Start

variable {s u : State} {val : Nat}

/-- A write that sets EN of an idle log starts it, or has a key generated first. -/
theorem writeEvdCtl_enables (hp : present s 0 pgEvd = true) (hoff : isF s 0 EVD_CTL.EN = false) (hval : val.testBit 31 = true)
    (hu : u = setF (setF (setF s 0 EVD_CTL.WRAP (val / 2)) 0 EVD_CTL.TGT val) 0 EVD_CTL.EN 1) :
    writeEvdCtl s val = if s.evd.key.isSome then startLog u else { u with evd := { s.evd with enabling := true } } := by
  subst hu
  have hen : isF (setF s 0 EVD_CTL.WRAP (val / 2)) 0 EVD_CTL.EN = false := by
    rw [isF, getF_setF_ne _ _ _ _ _ _ _ _ (by decide)]
    exact hoff
  simp only [writeEvdCtl, hp, hen, hval, Bool.not_true, Bool.false_eq_true, if_false]
  rfl

theorem execEvidenceEnable_writes (hval : val.testBit 31 = true) : execEvidenceEnable val s = .next (writeEvdCtl s val) := by
  simp only [execEvidenceEnable, hval, if_true]

/-- The state with a new signing key: its public half is shown, and checkpoints count from 0 under a new key number. -/
def keyed (s : State) : State :=
  let k := Config.random s.free
  let u := { s with free := s.free + 1, evd := { s.evd with key := some k } }
  let u := (List.range 24).foldl (fun s i => setF s 0 (EVD_PUBKEY.KEY i) (publicKey k / 2 ^ (32 * (23 - i)))) u
  bump (setF (setF u 0 EVD_STS.KEY 1) 0 EVD_CPNUM.VALUE 0) 0 EVD_KEYID.VALUE

theorem execSigningKeyGenerated_starts (hgen : s.evd.enabling = true) : execSigningKeyGenerated s = .next (startLog (keyed s)) := by
  simp only [execSigningKeyGenerated, hgen, Bool.not_true, Bool.false_eq_true, if_false]
  rfl

variable (s)

theorem keyed_evd : (keyed s).evd = { s.evd with key := some (Config.random s.free) } := by
  rw [keyed, bump, setF_evd, setF_evd, setF_evd]
  exact (pubkey_fold (publicKey (Config.random s.free)) 24 (Nat.le_refl _) _).1

theorem keyed_free : (keyed s).free = s.free + 1 := by
  rw [keyed, bump, setF_free, setF_free, setF_free]
  exact (pubkey_fold (publicKey (Config.random s.free)) 24 (Nat.le_refl _) _).2.1

theorem getF_keyed_key : getF (keyed s) 0 EVD_STS.KEY = 1 := by
  rw [keyed, bump, getF_setF_ne _ _ _ _ _ _ _ _ (by decide), getF_setF_ne _ _ _ _ _ _ _ _ (by decide), getF_setF_self]
  rfl

theorem getF_keyed_cpnum : getF (keyed s) 0 EVD_CPNUM.VALUE = 0 := by
  rw [keyed, bump, getF_setF_ne _ _ _ _ _ _ _ _ (by decide), getF_setF_self]
  rfl

theorem getF_keyed_keyid : getF (keyed s) 0 EVD_KEYID.VALUE = (getF s 0 EVD_KEYID.VALUE + 1) % 2 ^ 32 := by
  obtain ⟨-, -, hframe, -⟩ := pubkey_fold (publicKey (Config.random s.free)) 24 (Nat.le_refl _)
    { s with free := s.free + 1, evd := { s.evd with key := some (Config.random s.free) } }
  rw [keyed, getF_bump_self, getF_setF_ne _ _ _ _ _ _ _ _ (by decide), getF_setF_ne _ _ _ _ _ _ _ _ (by decide),
    hframe _ _ (by decide) (by decide)]
  rfl

theorem getF_keyed_pubkey {i : Nat} (hi : i < 24) :
    getF (keyed s) 0 (EVD_PUBKEY.KEY i) = publicKey (Config.random s.free) / 2 ^ (32 * (23 - i)) % 2 ^ 32 := by
  obtain ⟨-, -, -, hkeys⟩ := pubkey_fold (publicKey (Config.random s.free)) 24 (Nat.le_refl _)
    { s with free := s.free + 1, evd := { s.evd with key := some (Config.random s.free) } }
  have hplace : ∀ g : Fld, g.off < 0x100 ∧ g.lo < 32 → fne (EVD_PUBKEY.KEY i) 0 g 0 = true := fun g hg =>
    fne_of_off ⟨by simp only [EVD_PUBKEY.KEY]; omega, by simp only [EVD_PUBKEY.KEY]; omega⟩ ⟨by omega, hg.2⟩
      (by simp only [EVD_PUBKEY.KEY]; omega)
  rw [keyed, bump, getF_setF_ne _ _ _ _ _ _ _ _ (hplace _ (by decide)), getF_setF_ne _ _ _ _ _ _ _ _ (hplace _ (by decide)),
    getF_setF_ne _ _ _ _ _ _ _ _ (hplace _ (by decide)), hkeys i hi]

end Start

/-! ## A run stops (R397) -/

section Stop

variable {s : State} {val : Nat}

theorem execEvidenceDisable_ends (hp : present s 0 pgEvd = true) (hon : isF s 0 EVD_CTL.EN = true) (hval : val.testBit 31 = false) :
    execEvidenceDisable val s = .next (endLog (setF s 0 EVD_CTL.WRAP (val / 2))) := by
  have hen : isF (setF s 0 EVD_CTL.WRAP (val / 2)) 0 EVD_CTL.EN = true := by
    rw [isF, getF_setF_ne _ _ _ _ _ _ _ _ (by decide)]
    exact hon
  simp only [execEvidenceDisable, writeEvdCtl, hp, hen, hval, Bool.not_true, Bool.false_eq_true, if_false, if_true]

variable (s)

/-- Whatever the END record and the held records came to, the log is off last. -/
theorem endLog_eq : ∃ v : State, v.evd.enabling = false ∧
    endLog s = setF (setF (setF v 0 EVD_CTL.EN 0) 0 EVD_STS.RUN 0) 0 EVD_STS.STOP 1 := by
  refine ⟨_, ?_, rfl⟩
  rw [loseRecords_enabling]

theorem endLog_enabling : (endLog s).evd.enabling = false := by
  obtain ⟨v, hv, h⟩ := endLog_eq s
  rw [h]
  exact hv

theorem getF_endLog_en : getF (endLog s) 0 EVD_CTL.EN = 0 := by
  obtain ⟨v, -, h⟩ := endLog_eq s
  rw [h, getF_setF_ne _ _ _ _ _ _ _ _ (by decide), getF_setF_ne _ _ _ _ _ _ _ _ (by decide), getF_setF_self]
  rfl

theorem getF_endLog_run : getF (endLog s) 0 EVD_STS.RUN = 0 := by
  obtain ⟨v, -, h⟩ := endLog_eq s
  rw [h, getF_setF_ne _ _ _ _ _ _ _ _ (by decide), getF_setF_self]
  rfl

theorem getF_endLog_stop : getF (endLog s) 0 EVD_STS.STOP = 1 := by
  obtain ⟨v, -, h⟩ := endLog_eq s
  rw [h, getF_setF_self]
  rfl

end Stop

/-- Settles O45: a record goes by the log's switch, key and room, a checkpoint by the signer, and the switch by the key that stands. -/
theorem evidenceLogRuns : Obligations.EvidenceLogRuns := by
  intro s
  refine ⟨execEvidenceRecord_none, fun r u => execEvidenceRecord_takes, fun bits hen => ⟨takeEvidence_holds bits hen, ?appended⟩, ?lost,
    execCheckpointIdleTimeout_asks, fun c rest key u hdue hkey hu => execCheckpointSigned_writes hdue hkey rfl rfl hu, ?enabled,
    fun hgen => ⟨keyed s, execSigningKeyGenerated_starts hgen, congrArg Evidence.key (keyed_evd s), keyed_free s, getF_keyed_key s,
      getF_keyed_cpnum s, getF_keyed_keyid s, fun i => getF_keyed_pubkey s⟩,
    fun val hval hp hon => ⟨_, execEvidenceDisable_ends hp hon hval, getF_endLog_en _, getF_endLog_run _, getF_endLog_stop _,
      endLog_enabling _⟩⟩
  case appended =>
    intro hgen hr hroom hgap
    exact (takeEvidence_appends bits hen hgen).trans (appendRecord_puts bits hr hroom hgap)
  case lost =>
    rintro bits u rfl h
    obtain ⟨code, hloses⟩ := takeEvidence_loses bits h
    rw [hloses, loseRecord_evd]
    exact ⟨rfl, rfl, rfl, getF_loseRecord_count s code⟩
  case enabled =>
    intro val u hval hp hoff hu
    have hexec : exec (.evidenceEnable val) s = _ := execEvidenceEnable_writes hval
    rw [hexec, writeEvdCtl_enables hp hoff hval hu]
    exact ⟨fun k hk => by simp [hk], fun hnone => by simp [hnone]⟩

end Sys2Proof.Machine
end

section
/-!
PPS edges (R383): an edge is ignored and counted, or accepted, and then it loads the time of day or feeds the servo.
-/

namespace Sys2Proof.Machine

/-! ## Edges that are ignored -/

section Ignored

variable (s : State)

theorem onlyRegs_ignoreEdge : OnlyRegs [rkey 0 TIM_PPS_CNT.IGNORED 0] s (ignoreEdge s) := onlyRegs_setF ..

theorem getF_ignoreEdge_ignored : getF (ignoreEdge s) 0 TIM_PPS_CNT.IGNORED = min 65535 (getF s 0 TIM_PPS_CNT.IGNORED + 1) :=
  getF_bumpSat_self ..

theorem ppsTooSoon_setF (d : Nat) (f : Fld) (v : Nat) : ppsTooSoon (setF s d f v) = ppsTooSoon s := by
  rw [ppsTooSoon, ppsTooSoon, setF_tim, setF_cyc]

/-- An edge that came too soon: the input is not stuck, and the edge is an error as well. -/
def edgeTooSoon (s : State) : State :=
  raiseErr (ignoreEdge (setF s 0 TIM_STS.PPS_STUCK 0)) 0 pgTim TIM_ERR.PPS_FAST (perrItem (setF s 0 TIM_STS.PPS_STUCK 0))

theorem edgeTooSoon_tim : (edgeTooSoon s).tim = s.tim := by
  rw [edgeTooSoon, raiseErr_tim]
  rfl

theorem getF_edgeTooSoon_ignored : getF (edgeTooSoon s) 0 TIM_PPS_CNT.IGNORED = min 65535 (getF s 0 TIM_PPS_CNT.IGNORED + 1) := by
  rw [edgeTooSoon, getF_raiseErr _ _ _ _ _ _ _ _ (by decide), getF_ignoreEdge_ignored, getF_setF_ne _ _ _ _ _ _ _ _ (by decide)]

theorem getF_edgeTooSoon_accepted : getF (edgeTooSoon s) 0 TIM_PPS_CNT.ACCEPTED = getF s 0 TIM_PPS_CNT.ACCEPTED := by
  rw [edgeTooSoon, getF_raiseErr _ _ _ _ _ _ _ _ (by decide), (onlyRegs_ignoreEdge _).regs _ _ _ (by decide),
    getF_setF_ne _ _ _ _ _ _ _ _ (by decide)]

end Ignored

/-! ## Edges that are accepted -/

section Accepted

variable (s : State)

/-- The state in which an accepted edge is used: counted, the input not stuck, and the counter brought up to its cycle. -/
def edgeTaken (s : State) : State :=
  let u := bump (setF s 0 TIM_STS.PPS_STUCK 0) 0 TIM_PPS_CNT.ACCEPTED
  rebase { u with tim := { u.tim with lastEdge := some u.cyc } }

theorem edgeTaken_lastEdge : (edgeTaken s).tim.lastEdge = some s.cyc := rfl

theorem edgeTaken_time : (edgeTaken s).tim.time = counterAt s s.cyc := rfl

/-- Bringing the counter up to date writes no register. -/
theorem getF_edgeTaken (f : Fld) : getF (edgeTaken s) 0 f = getF (bump (setF s 0 TIM_STS.PPS_STUCK 0) 0 TIM_PPS_CNT.ACCEPTED) 0 f := rfl

theorem getF_edgeTaken_ne {f : Fld} (hcount : fne f 0 TIM_PPS_CNT.ACCEPTED 0 = true) (hstuck : fne f 0 TIM_STS.PPS_STUCK 0 = true) :
    getF (edgeTaken s) 0 f = getF s 0 f := by
  rw [getF_edgeTaken, bump, getF_setF_ne _ _ _ _ _ _ _ _ hcount, getF_setF_ne _ _ _ _ _ _ _ _ hstuck]

theorem getF_edgeTaken_stuck : getF (edgeTaken s) 0 TIM_STS.PPS_STUCK = 0 := by
  rw [getF_edgeTaken, bump, getF_setF_ne _ _ _ _ _ _ _ _ (by decide), getF_setF_self]
  rfl

theorem getF_edgeTaken_accepted : getF (edgeTaken s) 0 TIM_PPS_CNT.ACCEPTED = (getF s 0 TIM_PPS_CNT.ACCEPTED + 1) % 65536 := by
  rw [getF_edgeTaken, getF_bump_self, getF_setF_ne _ _ _ _ _ _ _ _ (by decide)]
  rfl

/-- An accepted edge loads the time of day where that is armed, and feeds the servo with its offset otherwise. -/
theorem acceptEdge_uses : acceptEdge (setF s 0 TIM_STS.PPS_STUCK 0) =
    if isF s 0 TIM_CTL.TOD_ARM then loadTod (edgeTaken s) (ofsUnits (getF s 0 TIM_PPS_OFS.OFS))
    else servo (edgeTaken s) (offsetOf ((counterAt s s.cyc : Int) - ofsUnits (getF s 0 TIM_PPS_OFS.OFS))) := by
  have harm : isF (edgeTaken s) 0 TIM_CTL.TOD_ARM = isF s 0 TIM_CTL.TOD_ARM := by
    rw [isF, getF_edgeTaken_ne _ (by decide) (by decide), isF]
  rw [← harm, ← edgeTaken_time s, ← getF_edgeTaken_ne s (f := TIM_PPS_OFS.OFS) (by decide) (by decide)]
  rfl

end Accepted

/-! ## The command -/

section Edge

variable {s : State} {idle : Bool}

theorem execPpsEdge_disabled (hoff : isF s 0 TIM_CTL.PPS_EN = false) : execPpsEdge idle s = .next s := by
  simp only [execPpsEdge, hoff, Bool.not_false, Bool.or_true, if_true]

variable (hon : timeOn s = true) (hen : isF s 0 TIM_CTL.PPS_EN = true)

include hon hen

theorem execPpsEdge_stuck (hstuck : isF s 0 TIM_STS.PPS_STUCK = true) (hidle : idle = false) : execPpsEdge idle s = .next (ignoreEdge s) := by
  simp only [execPpsEdge, hon, hen, hstuck, hidle, Bool.not_true, Bool.not_false, Bool.or_self, Bool.and_self, Bool.false_eq_true,
    if_false, if_true]

variable (hlive : isF s 0 TIM_STS.PPS_STUCK = false ∨ idle = true)

include hlive

/-- An edge on an input that is not stuck, or no longer, goes by the time since the last one. -/
theorem execPpsEdge_live : execPpsEdge idle s =
    .next (if ppsTooSoon s then edgeTooSoon s else acceptEdge (setF s 0 TIM_STS.PPS_STUCK 0)) := by
  have hfree : (isF s 0 TIM_STS.PPS_STUCK && !idle) = false := by rcases hlive with h | h <;> simp [h]
  simp only [execPpsEdge, hon, hen, hfree, ppsTooSoon_setF, edgeTooSoon, Bool.not_true, Bool.or_self, Bool.false_eq_true, if_false]

end Edge

/-- Settles O46: an edge goes by the input's switch, its stuck flag and the time since the last accepted edge. -/
theorem ppsEdgeCountedThenUsed : Obligations.PpsEdgeCountedThenUsed := by
  intro s idle
  refine ⟨execPpsEdge_disabled, fun hon hen => ⟨fun hstuck hidle => ⟨_, execPpsEdge_stuck hon hen hstuck hidle, onlyRegs_ignoreEdge s,
    getF_ignoreEdge_ignored s⟩, fun hlive => ?_⟩⟩
  have hexec : exec (.ppsEdge idle) s = _ := execPpsEdge_live hon hen hlive
  rw [hexec]
  refine ⟨fun hsoon => ?soon, fun hlate => ?late⟩
  case soon =>
    rw [if_pos hsoon]
    exact ⟨_, rfl, edgeTooSoon_tim s, getF_edgeTooSoon_ignored s, getF_edgeTooSoon_accepted s⟩
  case late =>
    rw [hlate, if_neg Bool.false_ne_true, acceptEdge_uses]
    exact ⟨edgeTaken s, edgeTaken_lastEdge s, edgeTaken_time s, getF_edgeTaken_stuck s, getF_edgeTaken_accepted s, rfl⟩

end Sys2Proof.Machine
end

section
/-!
The time unit's other events: arming (R384), a stuck or missing PPS and the end of holdover (R383, R386), time cells (R387, R388),
and a change of the reference (R393, R412).
-/

namespace Sys2Proof.Machine

/-! ## Register words that are written (R13) -/

/-- Writing a field by its access code changes at most that field. -/
theorem onlyRegs_writeFld (s : State) (d bank val : Nat) (f : Fld) : OnlyRegs [rkey d f bank] s (writeFld s d bank val f) := by
  unfold writeFld
  dsimp only
  split
  · exact .refl _ s
  · split
    · exact onlyRegs_setF ..
    · exact .refl _ s
  · exact onlyRegs_setF ..
  · split
    · exact .refl _ s
    · exact onlyRegs_setF ..
  · exact onlyRegs_setF ..
  · exact onlyRegs_setF ..

/-- Writing a register word changes at most its fields. -/
theorem onlyRegs_writeWord (s : State) (d pg bank off val : Nat) :
    OnlyRegs ((fieldsAt pg off).map fun f => rkey d f bank) s (writeWord s d pg bank off val) := by
  unfold writeWord
  generalize fieldsAt pg off = l
  induction l generalizing s with
  | nil => exact .refl _ s
  | cons f l ih => exact (onlyRegs_writeFld s d bank val f).trans (ih _)

/-! ## Arming (R384) -/

section Arm

variable {s : State} {val : Nat}

/-- The word of TIM_CTL is its four fields. -/
theorem writeWord_timCtl (s : State) (val : Nat) : writeWord s 0 pgTim 0 0x80 val =
    writeFld (writeFld (writeFld (writeFld s 0 0 val TIM_CTL.STEP_EN) 0 0 val TIM_CTL.TOD_ARM) 0 0 val TIM_CTL.PPS_POL) 0 0 val
      TIM_CTL.PPS_EN := rfl

/-- Writing 1 to TOD_ARM arms. -/
theorem isF_writeWord_todArm (hval : val.testBit 3 = true) : isF (writeWord s 0 pgTim 0 0x80 val) 0 TIM_CTL.TOD_ARM = true := by
  have hbit : fld val 3 1 = 1 := by simpa [fld, Nat.testBit, Nat.shiftRight_eq_div_pow] using hval
  have hset : ∀ u, getF (writeFld u 0 0 val TIM_CTL.TOD_ARM) 0 TIM_CTL.TOD_ARM = 1 := fun u =>
    (getF_setF_self u 0 TIM_CTL.TOD_ARM _ 0).trans (by
      show (getF u 0 TIM_CTL.TOD_ARM ||| fld val 3 1) % 2 ^ 1 = 1
      rw [hbit, pow_one, Nat.or_mod_two_eq_one]
      exact .inr rfl)
  rw [writeWord_timCtl, isF, (onlyRegs_writeFld ..).regs _ _ _ (by decide), (onlyRegs_writeFld ..).regs _ _ _ (by decide), hset]
  rfl

variable (hval : val.testBit 3 = true) (hp : present s 0 pgTim = true)

include hval hp

/-- Arming loads the time of day at once where PPS is not used. -/
theorem execTodArm_loads (hoff : isF (writeWord s 0 pgTim 0 0x80 val) 0 TIM_CTL.PPS_EN = false) :
    execTodArm val s = .next (loadTod (writeWord s 0 pgTim 0 0x80 val) 0) := by
  simp only [execTodArm, writeTimCtl, hval, hp, isF_writeWord_todArm hval, hoff, Bool.not_true, Bool.not_false, Bool.and_self,
    Bool.false_eq_true, if_false, if_true]

/-- Where PPS is used, the load waits for an edge. -/
theorem execTodArm_waits (hon : isF (writeWord s 0 pgTim 0 0x80 val) 0 TIM_CTL.PPS_EN = true) :
    execTodArm val s = .next (writeWord s 0 pgTim 0 0x80 val) := by
  simp only [execTodArm, writeTimCtl, hval, hp, hon, Bool.not_true, Bool.and_false, Bool.false_eq_true, if_false, if_true]

end Arm

/-! ## PPS lost, and holdover (R383, R386) -/

section Holdover

variable {s : State}

/-- The state after a stuck input was found. -/
def ppsStuck (s : State) : State :=
  raiseErr (holdover (setF s 0 TIM_STS.PPS_STUCK 1)) 0 pgTim TIM_ERR.PPS_STUCK (perrItem s)

/-- The state after a PPS was missed. -/
def ppsMissed (s : State) : State := raiseErr (holdover s) 0 pgTim TIM_ERR.PPS_MISS (perrItem s)

/-- The state after a holdover that lasted too long. -/
def holdoverOver (s : State) : State :=
  raiseErr { s with tim := { s.tim with holdExp := true } } 0 pgTim TIM_ERR.HOLD_EXP (it1 (counterAt s s.cyc / secUnits))

section Command

variable (hon : timeOn s = true)

include hon

theorem execPpsStuckTimeout_records (hen : isF s 0 TIM_CTL.PPS_EN = true) (hfree : isF s 0 TIM_STS.PPS_STUCK = false) :
    execPpsStuckTimeout s = .next (ppsStuck s) := by
  simp only [execPpsStuckTimeout, hon, hen, hfree, Bool.not_true, Bool.or_self, Bool.false_eq_true, if_false]
  rfl

theorem execPpsMissingTimeout_records (hsync : getF s 0 TIM_STS.SYNC = 1 ∨ getF s 0 TIM_STS.SYNC = 2) :
    execPpsMissingTimeout s = .next (ppsMissed s) := by
  have hfollows : (getF s 0 TIM_STS.SYNC != 1 && getF s 0 TIM_STS.SYNC != 2) = false := by rcases hsync with h | h <;> simp [h]
  simp only [execPpsMissingTimeout, hon, hfollows, Bool.not_true, Bool.or_self, Bool.false_eq_true, if_false]
  rfl

theorem execHoldoverExpire_records (hsync : getF s 0 TIM_STS.SYNC = 3) (hfirst : s.tim.holdExp = false) :
    execHoldoverExpire s = .next (holdoverOver s) := by
  simp only [execHoldoverExpire, hon, hsync, hfirst, bne_self_eq_false, Bool.not_true, Bool.or_self, Bool.false_eq_true, if_false]
  rfl

end Command

variable (s)

theorem getF_ppsStuck_stuck : getF (ppsStuck s) 0 TIM_STS.PPS_STUCK = 1 := by
  rw [ppsStuck, getF_raiseErr _ _ _ _ _ _ _ _ (by decide), holdover_getF _ _ _ _ (by decide), getF_setF_self]
  rfl

theorem getF_ppsStuck_sync : getF (ppsStuck s) 0 TIM_STS.SYNC = 3 := by
  rw [ppsStuck, getF_raiseErr _ _ _ _ _ _ _ _ (by decide), holdover_sync]

theorem getF_ppsMissed_sync : getF (ppsMissed s) 0 TIM_STS.SYNC = 3 := by
  rw [ppsMissed, getF_raiseErr _ _ _ _ _ _ _ _ (by decide), holdover_sync]

variable {s}

/-- Entering holdover keeps whether the time was locked, and begins its allowed time. -/
theorem holdover_tim (h : getF s 0 TIM_STS.SYNC ≠ 3) :
    (holdover s).tim = { s.tim with everLocked := getF s 0 TIM_STS.SYNC == 2, holdExp := false, good := 0 } := by
  simp only [holdover, h, if_false, setSync, setF_tim]

theorem ppsMissed_tim (h : getF s 0 TIM_STS.SYNC ≠ 3) :
    (ppsMissed s).tim = { s.tim with everLocked := getF s 0 TIM_STS.SYNC == 2, holdExp := false, good := 0 } := by
  rw [ppsMissed, raiseErr_tim, holdover_tim h]

theorem holdoverOver_holdExp : (holdoverOver s).tim.holdExp = true := by
  rw [holdoverOver, raiseErr_tim]

/-- Time stamps of a holdover that is over are UNSYNC. -/
theorem leadUnsync_holdoverOver (hsync : getF s 0 TIM_STS.SYNC = 3) : leadUnsync (holdoverOver s) = true := by
  have hstill : getF (holdoverOver s) 0 TIM_STS.SYNC = 3 := (getF_raiseErr _ _ _ _ _ _ _ _ (by decide)).trans hsync
  simp [leadUnsync, hstill, holdoverOver_holdExp]

variable (hp : present s 0 pgTim = true)

include hp

theorem sticky_ppsStuck : stickySet (ppsStuck s) 0 pgTim TIM_ERR.PPS_STUCK :=
  raiseErr_sticky _ _ _ _ _ ((holdover_present ..).trans hp) (by decide)

theorem sticky_ppsMissed : stickySet (ppsMissed s) 0 pgTim TIM_ERR.PPS_MISS :=
  raiseErr_sticky _ _ _ _ _ ((holdover_present ..).trans hp) (by decide)

theorem sticky_holdoverOver : stickySet (holdoverOver s) 0 pgTim TIM_ERR.HOLD_EXP :=
  raiseErr_sticky _ _ _ _ _ hp (by decide)

end Holdover

/-! ## Time cells (R387, R388) -/

section Cells

variable {s u : State} {d flit : Nat} {m : Mgmt} {ok : Bool}

theorem execTimeCellBroadcast_sends (hon : timeOn s = true) : execTimeCellBroadcast s = .next (broadcastTime s) := by
  simp only [execTimeCellBroadcast, hon, if_true]

/-- The message of a time cell to die `d`. -/
def timeMsg (s : State) (d : Nat) : Mgmt :=
  { type := timeCellType, dest := d, mid := 0, acc := b2n s.tim.stepped, off := (rebase s).tim.cyc, size := s.tim.rate
    data := counterAt s s.cyc, status := b2n (leadUnsync s) }

theorem broadcastTime_mgmt (s : State) : (broadcastTime s).mgmt = s.mgmt ++ (dies s).map (timeMsg s) := rfl

theorem broadcastTime_stepped (s : State) : (broadcastTime s).tim.stepped = false := rfl

theorem timeMsg_contents (s : State) (ds : List Nat) : (ds.map (timeMsg s)).map (fun m => (m.dest, m.data, m.status)) =
    ds.map fun d => (d, counterAt s s.cyc, b2n (leadUnsync s)) := by
  rw [List.map_map]
  rfl

/-- The copy that a die takes from a cell. -/
def cellLocal (m : Mgmt) : Local := ⟨true, m.data, m.off, m.size, m.status == 1⟩

/-- The state after die `d` took a cell: its message is over, and the die's copy is the cell's. -/
def cellTaken (u : State) (d : Nat) (m : Mgmt) : State :=
  { u with mgmt := rmFirst (fun x => x == m) u.mgmt, local_ := mset Local.zero u.local_ d (cellLocal m) }

theorem cellTaken_local (u : State) (d : Nat) (m : Mgmt) :
    (cellTaken u d m).local_ = mset Local.zero u.local_ d (cellLocal m) := rfl

theorem cellTaken_self (u : State) (d : Nat) (m : Mgmt) : mget Local.zero (cellTaken u d m).local_ d = cellLocal m := by
  rw [cellTaken_local, mget_mset_self]

theorem cellTaken_ne (u : State) {d e : Nat} (m : Mgmt) (h : e ≠ d) :
    mget Local.zero (cellTaken u d m).local_ e = mget Local.zero u.local_ e := by
  rw [cellTaken_local, mget_mset_ne _ _ _ _ h]

section Receive

variable (hm : (s.mgmt.find? fun m => m.type == timeCellType && m.dest == d) = some m)
  (hcell : takeCell s d 0 4 0 (if d = 0 then 0 else flit) = (u, ok))

include hm hcell

theorem execTimeCellReceive_lost (hok : ok = false) : execTimeCellReceive ⟨d, flit⟩ s = .next u := by
  subst hok
  simp only [execTimeCellReceive, hm, hcell, Bool.not_false, if_true]

theorem execTimeCellReceive_takes (hok : ok = true) (hd : gone u d = false) (hon : domOn u d 0 = true) :
    execTimeCellReceive ⟨d, flit⟩ s = .next (cellTaken u d m) := by
  subst hok
  have hlive : (gone { u with mgmt := rmFirst (fun x => x == m) u.mgmt } d ||
      !domOn { u with mgmt := rmFirst (fun x => x == m) u.mgmt } d 0) = false :=
    Bool.or_eq_false_iff.mpr ⟨hd, (Bool.not_eq_false' _).mpr hon⟩
  simp only [execTimeCellReceive, hm, hcell, hlive, Bool.not_true, Bool.false_eq_true, if_false]
  rfl

end Receive

theorem staleLocal_ne (s : State) {d e : Nat} (h : e ≠ d) :
    mget Local.zero (staleLocal s d).local_ e = mget Local.zero s.local_ e := mget_mset_ne _ _ _ _ h

end Cells

/-! ## A change of the reference (R393, R412) -/

section Reference

variable {s : State} {val : Nat}

/-- Stopping the PLL writes registers of the clock page that show it, and nothing else. -/
theorem onlyRegs_stopPll (s : State) (d : Nat) :
    OnlyRegs [rkey d CLK_STS.PLL_RUN 0, rkey d CLK_STS.LOCK 0, rkey d CLK_LOCK_CNT.STOPS 0] s (stopPll s d) := by
  unfold stopPll
  split
  · exact (((OnlyRegs.refl _ s).set d CLK_STS.PLL_RUN 0 0 (by simp)).set d CLK_STS.LOCK 0 0 (by simp)).set d CLK_LOCK_CNT.STOPS _ 0
      (by simp)
  · exact .refl _ s

/-- The lead die's CLK_CTL as written, with the PLL stopped where that stops it. -/
def clkWritten (s : State) (val : Nat) : State :=
  let u := writeWord s 0 pgClk 0 0x80 val
  if isF u 0 CLK_STS.PLL_RUN then stopPll u 0 else u

/-- The registers that a write of the lead die's CLK_CTL may change. -/
def clkWrittenKeys : List Nat :=
  (fieldsAt pgClk 0x80).map (fun f => rkey 0 f 0) ++ [rkey 0 CLK_STS.PLL_RUN 0, rkey 0 CLK_STS.LOCK 0, rkey 0 CLK_LOCK_CNT.STOPS 0]

theorem onlyRegs_clkWritten (s : State) (val : Nat) : OnlyRegs clkWrittenKeys s (clkWritten s val) := by
  refine (onlyRegs_writeWord s 0 pgClk 0 0x80 val).trans ?_
  unfold clkWritten
  dsimp only
  split
  · exact onlyRegs_stopPll ..
  · exact .refl _ _

/-- The switch of the reference as it is shown and counted. -/
def switchCounted (s : State) : State := bumpSat (setF s 0 CLK_STS.REF_SEL (getF s 0 CLK_CTL.REF_SEL)) 0 CLK_LOCK_CNT.SWITCH

/-- The state after a change of the reference. -/
def refChanged (s : State) : State :=
  raiseErr (rescale (switchCounted s)) 0 pgClk CLK_ERR.REF_SEL (it1 (readWord (rescale (switchCounted s)) 0 pgClk 0 0x84))

/-- An unlocked REF_SEL takes the value written. -/
theorem getF_clkWritten_refSel (hopen : locked s 0 pgClk = false) : getF (clkWritten s val) 0 CLK_CTL.REF_SEL = fld val 1 1 := by
  have hpll : ∀ u, getF (if isF u 0 CLK_STS.PLL_RUN then stopPll u 0 else u) 0 CLK_CTL.REF_SEL = getF u 0 CLK_CTL.REF_SEL := by
    intro u
    split
    · exact (onlyRegs_stopPll u 0).regs _ _ _ (by decide)
    · rfl
  have hword : writeWord s 0 pgClk 0 0x80 val = writeFld (writeFld s 0 0 val CLK_CTL.REF_SEL) 0 0 val CLK_CTL.PLL_STOP_EN := rfl
  have hfld : writeFld s 0 0 val CLK_CTL.REF_SEL = setF s 0 CLK_CTL.REF_SEL (fld val 1 1) :=
    if_neg (show ¬ locked s 0 pgClk = true by simp [hopen])
  rw [clkWritten, hpll, hword, (onlyRegs_writeFld ..).regs _ _ _ (by decide), hfld, getF_setF_self]
  exact Nat.mod_eq_of_lt (Nat.mod_lt _ (by decide))

theorem execRefSelectChange_changes (hopen : locked s 0 pgClk = false) (hnew : fld val 1 1 ≠ getF s 0 CLK_CTL.REF_SEL) :
    execRefSelectChange val s = .next (refChanged (clkWritten s val)) := by
  have hchanged : ¬ ((0 : Nat) != 0 || decide (getF (clkWritten s val) 0 CLK_CTL.REF_SEL = getF s 0 CLK_CTL.REF_SEL)) = true := by
    simp [getF_clkWritten_refSel hopen, hnew]
  rw [execRefSelectChange, if_neg hnew]
  exact congrArg _ (if_neg hchanged)

variable (s)

/-- Neither the count, the rescale nor the error touches a register that is none of theirs. -/
theorem getF_refChanged {f : Fld} (he : errFree f 0 = true) (hlo : fne f 0 TIM_RATE_LO.FRAC 0 = true) (hhi : fne f 0 TIM_RATE_HI.NS 0 = true)
    (hcount : fne f 0 CLK_LOCK_CNT.SWITCH 0 = true) :
    getF (refChanged s) 0 f = getF (setF s 0 CLK_STS.REF_SEL (getF s 0 CLK_CTL.REF_SEL)) 0 f := by
  rw [refChanged, getF_raiseErr _ _ _ _ _ _ _ _ he, rescale_getF _ _ _ _ hlo hhi, switchCounted, bumpSat,
    getF_setF_ne _ _ _ _ _ _ _ _ hcount]

theorem getF_refChanged_ctl : getF (refChanged s) 0 CLK_CTL.REF_SEL = getF s 0 CLK_CTL.REF_SEL := by
  rw [getF_refChanged s (by decide) (by decide) (by decide) (by decide), getF_setF_ne _ _ _ _ _ _ _ _ (by decide)]

theorem getF_refChanged_sts : getF (refChanged s) 0 CLK_STS.REF_SEL = getF s 0 CLK_CTL.REF_SEL % 2 := by
  rw [getF_refChanged s (by decide) (by decide) (by decide) (by decide), getF_setF_self]
  rfl

theorem getF_switchCounted_khz : getF (switchCounted s) 0 TIM_REF.KHZ = getF s 0 TIM_REF.KHZ := by
  rw [switchCounted, bumpSat, getF_setF_ne _ _ _ _ _ _ _ _ (by decide), getF_setF_ne _ _ _ _ _ _ _ _ (by decide)]

variable {s}

theorem sticky_refChanged (hp : present s 0 pgClk = true) : stickySet (refChanged s) 0 pgClk CLK_ERR.REF_SEL :=
  raiseErr_sticky _ _ _ _ _ ((present_of_part (rescale_part _) 0 pgClk).trans hp) (by decide)

/-- The rate is rescaled to TIM_REF, from the time now. -/
theorem refChanged_tim (hT : s.part.unitT = true) (hk : getF s 0 TIM_REF.KHZ ≠ 0) :
    (refChanged s).tim.rate = s.tim.rate * s.tim.refKhz / getF s 0 TIM_REF.KHZ ∧
      (refChanged s).tim.refKhz = getF s 0 TIM_REF.KHZ ∧ (refChanged s).tim.time = counterAt s s.cyc := by
  rw [refChanged, raiseErr_tim, ← getF_switchCounted_khz s]
  exact rescale_tim (switchCounted s) hT (by rwa [getF_switchCounted_khz])

end Reference

/-- Settles O47: arming goes by PPS_EN, the time-outs by the state of R386, a time cell by its flit, and a new reference by the rescale. -/
theorem timeUnitEventsHappen : Obligations.TimeUnitEventsHappen := by
  intro s
  refine ⟨fun val hval hp => ⟨execTodArm_loads hval hp, execTodArm_waits hval hp⟩,
    fun hon hp => ⟨?stuck, ?missing, ?expired, ?broadcast⟩, ?receive, ?timeout, ?reference⟩
  case stuck =>
    intro hen hfree
    exact ⟨_, execPpsStuckTimeout_records hon hen hfree, getF_ppsStuck_stuck s, getF_ppsStuck_sync s, sticky_ppsStuck hp⟩
  case missing =>
    intro hsync
    have htim := ppsMissed_tim (s := s) (by omega)
    exact ⟨_, execPpsMissingTimeout_records hon hsync, getF_ppsMissed_sync s, congrArg TimeUnit.everLocked htim,
      congrArg TimeUnit.holdExp htim, sticky_ppsMissed hp⟩
  case expired =>
    intro hsync hfirst
    exact ⟨_, execHoldoverExpire_records hon hsync hfirst, holdoverOver_holdExp, leadUnsync_holdoverOver hsync, sticky_holdoverOver hp⟩
  case broadcast =>
    exact ⟨_, _, execTimeCellBroadcast_sends hon, broadcastTime_stepped s, broadcastTime_mgmt s, timeMsg_contents s _⟩
  case receive =>
    intro d flit m u ok hm hcell
    exact ⟨execTimeCellReceive_lost hm hcell, fun hok hd hdom => ⟨_, execTimeCellReceive_takes hm hcell hok hd hdom, rfl,
      cellTaken_self u d m, fun e => cellTaken_ne u m⟩⟩
  case timeout =>
    exact fun d => ⟨staleLocal s d, rfl, dieUnsync_stale s d, fun e he => staleLocal_ne s he, rfl⟩
  case reference =>
    intro val hp hopen hnew
    have hsel := getF_clkWritten_refSel (val := val) hopen
    have hw := onlyRegs_clkWritten s val
    refine ⟨_, execRefSelectChange_changes hopen hnew, (getF_refChanged_ctl _).trans hsel, ?_, sticky_refChanged ?_, ?_⟩
    · rw [getF_refChanged_sts, hsel]
      exact Nat.mod_eq_of_lt (Nat.mod_lt _ (by decide))
    · rwa [hw.rest]
    · intro hT hk
      have hkhz : getF (clkWritten s val) 0 TIM_REF.KHZ = getF s 0 TIM_REF.KHZ := hw.regs _ _ _ (by decide)
      have htim : (clkWritten s val).tim = s.tim := by rw [hw.rest]
      have htime : counterAt (clkWritten s val) (clkWritten s val).cyc = counterAt s s.cyc := by
        rw [hw.rest]
        rfl
      rw [← hkhz, ← htim, ← htime]
      exact refChanged_tim (by rwa [hw.rest]) (by rwa [hkhz])

end Sys2Proof.Machine
end

section
/-!
What a step is, and what every step keeps: the queue but for its first command, the part, the fuses, the test access port and
the canonical form of the arrays.
-/

namespace Sys2Proof.Machine

theorem step_cons {c : Instr} {s : State} {rest : List Instr} (hq : s.pending = c :: rest) :
    step s = exec c { s with pending := rest } := by
  rw [step, hq]

theorem step_nil {s : State} (hq : s.pending = []) : step s = .next (csCycle s) := by
  rw [step, hq]
  rfl

/-- Every command keeps what `Keeps` lists: one lemma per command. -/
theorem keeps_exec (c : Instr) (s : State) : KeepsR s (exec c s) := by
  have hk := Keeps.refl s
  cases c with
  | lookupBurstReceive => exact keeps_execLookupBurstReceive hk ..
  | ingressRelease => exact keeps_execIngressRelease hk ..
  | ledgerEntryAck => exact keeps_execLedgerEntryAck hk ..
  | admission => exact keeps_execAdmission hk ..
  | tableWriteAdmit => exact keeps_execTableWriteAdmit hk ..
  | responseDeparture => exact keeps_execResponseDeparture hk ..
  | xoffReceive => exact keeps_execXoffReceive hk ..
  | laneFail => exact keeps_execLaneFail hk ..
  | interfaceUp => exact keeps_execInterfaceUp hk ..
  | channelCfgWrite => exact keeps_execChannelCfgWrite hk ..
  | channelBufWrite => exact keeps_execChannelBufWrite hk ..
  | xtr => exact keeps_execXtr hk ..
  | lit => exact keeps_execLit hk ..
  | hsh => exact keeps_execHsh hk ..
  | srch => exact keeps_execSrch hk ..
  | probe => exact keeps_execProbe hk ..
  | cfetch => exact keeps_execCfetch hk ..
  | stamp => exact keeps_execStamp hk ..
  | log => exact keeps_execLog hk ..
  | fork => exact keeps_execFork hk ..
  | join => exact keeps_execJoin hk ..
  | send => exact keeps_execSend hk ..
  | waite => exact keeps_execWaite hk ..
  | commit => exact keeps_execCommit hk ..
  | emit => exact keeps_execEmit hk ..
  | trap => exact keeps_execTrap hk ..
  | endThread => exact keeps_execEnd hk ..
  | unusedOpcodeFetch => exact keeps_execUnusedOpcodeFetch hk ..
  | recipeWordRestore => exact keeps_execRecipeWordRestore hk ..
  | searchLaunch => exact keeps_execSearchLaunch hk ..
  | dieContribution => exact keeps_execDieContribution hk ..
  | packageMerge => exact keeps_execPackageMerge hk ..
  | pairReverify => exact keeps_execPairReverify hk
  | speculationResolve => exact keeps_execSpeculationResolve hk ..
  | cascadeSearchFrame => exact keeps_execCascadeSearchFrame hk ..
  | cascadeContribFrame => exact keeps_execCascadeContribFrame hk ..
  | cascadeControlBeat => exact keeps_execCascadeControlBeat hk ..
  | cascadeBadTypeBeat => exact keeps_execCascadeBadTypeBeat hk ..
  | contribTimeout => exact keeps_execContribTimeout hk ..
  | cascadeLaneFail => exact keeps_execCascadeLaneFail hk ..
  | cascadeDropTimeout => exact keeps_execCascadeDropTimeout hk ..
  | cascadeRetrainDone => exact keeps_execCascadeRetrainDone hk ..
  | cascadeLinkUp => exact keeps_execCascadeLinkUp hk ..
  | cascadeReturn => exact keeps_execCascadeReturn hk
  | cascadeLaneReturnReady => exact keeps_execCascadeLaneReturnReady hk ..
  | cascadeRetrain => exact keeps_execCascadeRetrain hk
  | ringResendTimeout => exact keeps_execRingResendTimeout hk ..
  | ringPathFault => exact keeps_execRingPathFault hk ..
  | mgmtRegRead => exact keeps_execMgmtRegRead hk ..
  | mgmtRegWrite => exact keeps_execMgmtRegWrite hk ..
  | mgmtReadCompletion => exact keeps_execMgmtReadCompletion hk ..
  | mgmtUpdateCommand => exact keeps_execMgmtUpdateCommand hk ..
  | mgmtCommandCompletion => exact keeps_execMgmtCommandCompletion hk ..
  | mgmtCellarData => exact keeps_execMgmtCellarData hk ..
  | mgmtFaultReport => exact keeps_execMgmtFaultReport hk ..
  | mgmtDescriptorCopy => exact keeps_execMgmtDescriptorCopy hk ..
  | mgmtReservedType => exact keeps_execMgmtReservedType hk ..
  | mirrorCellReceive => exact keeps_execMirrorCellReceive hk ..
  | heartbeatSend => exact keeps_execHeartbeatSend hk ..
  | heartbeatTimeout => exact keeps_execHeartbeatTimeout hk ..
  | pairMemberLost => exact keeps_execPairMemberLost hk ..
  | pairChannelReturn => exact keeps_execPairChannelReturn hk ..
  | channelReturnDrained => exact keeps_execChannelReturnDrained hk ..
  | pairRejoin => exact keeps_execPairRejoin hk ..
  | rejoinCopyDone p => exact keeps_execRejoinCopyDone hk p
  | rejoinCheckExpire => exact keeps_execRejoinCheckExpire hk ..
  | pairFenceEven => exact keeps_execPairFenceEven hk ..
  | pairFenceOdd => exact keeps_execPairFenceOdd hk ..
  | write => exact keeps_execWrite hk ..
  | writeCont => exact keeps_execWriteCont hk ..
  | delete => exact keeps_execDelete hk ..
  | insertShift => exact keeps_execInsertShift hk ..
  | move => exact keeps_execMove hk ..
  | setState => exact keeps_execSetState hk ..
  | genFlip => exact keeps_execGenFlip hk ..
  | genFlipApply => exact keeps_execGenFlipApply hk ..
  | genClear => exact keeps_execGenClear hk ..
  | shelf => exact keeps_execShelf hk ..
  | compact => exact keeps_execCompact hk ..
  | bulkLoad => exact keeps_execBulkLoad hk ..
  | bulkRecordRead => exact keeps_execBulkRecordRead hk ..
  | spare => exact keeps_execSpare hk ..
  | barrier => exact keeps_execBarrier hk ..
  | unknownCommand => exact keeps_execUnknownCommand hk ..
  | updatePortOperation => exact keeps_execUpdatePortOperation hk ..
  | updateGuardExpire => exact keeps_execUpdateGuardExpire hk ..
  | commandComplete => exact keeps_execCommandComplete hk ..
  | scrubRow => exact keeps_execScrubRow hk ..
  | storeRoomStepDone => exact keeps_execStoreRoomStepDone hk ..
  | cacheFillAllocate => exact keeps_execCacheFillAllocate hk ..
  | fillLineArrive => exact keeps_execFillLineArrive hk ..
  | fillInstall => exact keeps_execFillInstall hk ..
  | slotWriteRecord => exact keeps_execSlotWriteRecord hk ..
  | slotWriteApply => exact keeps_execSlotWriteApply hk ..
  | mbufDrainStart => exact keeps_execMbufDrainStart hk ..
  | mbufDrainAccept => exact keeps_execMbufDrainAccept hk ..
  | arbiterSlotGrant => exact keeps_execArbiterSlotGrant hk ..
  | arbiterCommit => exact keeps_execArbiterCommit hk ..
  | arbiterTableSwitch => exact keeps_execArbiterTableSwitch hk ..
  | patrolScrubRead => exact keeps_execPatrolScrubRead hk ..
  | cellarFetchEntryGrant => exact keeps_execCellarFetchEntryGrant hk ..
  | atsTranslationCompletion => exact keeps_execAtsTranslationCompletion hk ..
  | cellarReadCompletion => exact keeps_execCellarReadCompletion hk ..
  | pcieCompletionTimeout => exact keeps_execPcieCompletionTimeout hk ..
  | promotion => exact keeps_execPromotion hk ..
  | noticeWrite => exact keeps_execNoticeWrite hk ..
  | noticeTimeout => exact keeps_execNoticeTimeout hk ..
  | kekWrite => exact keeps_execKekWrite hk ..
  | keyLoad => exact keeps_execKeyLoad hk ..
  | keyClear => exact keeps_execKeyClear hk ..
  | cellarWrite => exact keeps_execCellarWrite hk ..
  | cellarWriteComplete => exact keeps_execCellarWriteComplete hk ..
  | cellarEnable => exact keeps_execCellarEnable hk ..
  | cellarDisable => exact keeps_execCellarDisable hk ..
  | regionOnline => exact keeps_execRegionOnline hk ..
  | regionOffline => exact keeps_execRegionOffline hk ..
  | partitionDescWrite => exact keeps_execPartitionDescWrite hk ..
  | srRegionWrite => exact keeps_execSrRegionWrite hk ..
  | crRegionWrite => exact keeps_execCrRegionWrite hk ..
  | packageWindowWrite => exact keeps_execPackageWindowWrite hk ..
  | targetCycleApply => exact keeps_execTargetCycleApply hk
  | moduleFail => exact keeps_execModuleFail hk ..
  | storeChannelEnable => exact keeps_execStoreChannelEnable hk ..
  | storeChannelDisable => exact keeps_execStoreChannelDisable hk ..
  | channelTrained => exact keeps_execChannelTrained hk ..
  | storeResyncDone => exact keeps_execStoreResyncDone hk ..
  | storeWindowRead => exact keeps_execStoreWindowRead hk ..
  | storeWindowWrite128 => exact keeps_execStoreWindowWrite128 hk ..
  | storeWindowWrite64 => exact keeps_execStoreWindowWrite64 hk ..
  | storeWindowBadWrite => exact keeps_execStoreWindowBadWrite hk ..
  | atticWindowRead => exact keeps_execAtticWindowRead hk ..
  | atticWindowWrite => exact keeps_execAtticWindowWrite hk ..
  | recipeWindowRead => exact keeps_execRecipeWindowRead hk ..
  | sliceWindowWrite => exact keeps_execSliceWindowWrite hk ..
  | cachePreload => exact keeps_execCachePreload hk ..
  | cachePreloadDone => exact keeps_execCachePreloadDone hk ..
  | cacheRangeInvalidate => exact keeps_execCacheRangeInvalidate hk ..
  | cacheRangeInvalidateDone => exact keeps_execCacheRangeInvalidateDone hk ..
  | lockedLineRefetch => exact keeps_execLockedLineRefetch hk ..
  | cacheWaysWrite => exact keeps_execCacheWaysWrite hk ..
  | wayCleanDone => exact keeps_execWayCleanDone hk ..
  | cacheEnableWrite => exact keeps_execCacheEnableWrite hk ..
  | sqDoorbell => exact keeps_execSqDoorbell hk ..
  | cqHeadDoorbell => exact keeps_execCqHeadDoorbell hk ..
  | eqHeadDoorbell => exact keeps_execEqHeadDoorbell hk ..
  | sqFetch => exact keeps_execSqFetch hk ..
  | sqFetchCompletion => exact keeps_execSqFetchCompletion hk ..
  | cqEntryWrite => exact keeps_execCqEntryWrite hk ..
  | queueEnable => exact keeps_execQueueEnable hk ..
  | eventQueueEnable => exact keeps_execEventQueueEnable hk ..
  | msixUnmask => exact keeps_execMsixUnmask hk ..
  | busMasterDisable => exact keeps_execBusMasterDisable hk
  | busMasterEnable => exact keeps_execBusMasterEnable hk ..
  | flr => exact keeps_execFlr hk
  | quarantineExpire => exact keeps_execQuarantineExpire hk
  | linkDown => exact keeps_execLinkDown hk
  | atsInvalidation => exact keeps_execAtsInvalidation hk ..
  | atsInvalidationComplete => exact keeps_execAtsInvalidationComplete hk
  | atsDisable => exact keeps_execAtsDisable hk ..
  | peerCommandWrite => exact keeps_execPeerCommandWrite hk ..
  | peerCommandDispatch => exact keeps_execPeerCommandDispatch hk ..
  | peerSlotWrite => exact keeps_execPeerSlotWrite hk ..
  | peerUnmatchedWrite => exact keeps_execPeerUnmatchedWrite hk ..
  | peerBadWrite => exact keeps_execPeerBadWrite hk ..
  | peerWindowCommit => exact keeps_execPeerWindowCommit hk
  | modulePowerOn => exact keeps_execModulePowerOn hk ..
  | modulePowerOff => exact keeps_execModulePowerOff hk ..
  | indicatorChange => exact keeps_execIndicatorChange hk ..
  | moduleCommandComplete => exact keeps_execModuleCommandComplete hk ..
  | attentionButton => exact keeps_execAttentionButton hk ..
  | presenceChange => exact keeps_execPresenceChange hk ..
  | inputStuck => exact keeps_execInputStuck hk ..
  | ppsEdge => exact keeps_execPpsEdge hk ..
  | todArm => exact keeps_execTodArm hk ..
  | ppsStuckTimeout => exact keeps_execPpsStuckTimeout hk
  | ppsMissingTimeout => exact keeps_execPpsMissingTimeout hk
  | holdoverExpire => exact keeps_execHoldoverExpire hk
  | timeCellBroadcast => exact keeps_execTimeCellBroadcast hk
  | timeCellReceive => exact keeps_execTimeCellReceive hk ..
  | localTimeTimeout => exact keeps_execLocalTimeTimeout hk ..
  | refSelectChange => exact keeps_execRefSelectChange hk ..
  | evidenceRecord => exact keeps_execEvidenceRecord hk
  | checkpointIdleTimeout => exact keeps_execCheckpointIdleTimeout hk
  | checkpointSigned => exact keeps_execCheckpointSigned hk
  | evidenceEnable => exact keeps_execEvidenceEnable hk ..
  | signingKeyGenerated => exact keeps_execSigningKeyGenerated hk
  | evidenceDisable => exact keeps_execEvidenceDisable hk ..
  | thermalLevelRise => exact keeps_execThermalLevelRise hk ..
  | thermalLevelFall => exact keeps_execThermalLevelFall hk ..
  | thermalFenceClear => exact keeps_execThermalFenceClear hk ..
  | governorStep => exact keeps_execGovernorStep hk ..
  | governorShortTimeout => exact keeps_execGovernorShortTimeout hk
  | partitionCountSelect => exact keeps_execPartitionCountSelect hk ..
  | stepEntrySelect => exact keeps_execStepEntrySelect hk ..
  | arbCounterSelect => exact keeps_execArbCounterSelect hk ..
  | powerDomainSelect => exact keeps_execPowerDomainSelect hk ..
  | latchingLoRead => exact keeps_execLatchingLoRead hk ..
  | predictorClear => exact keeps_execPredictorClear hk ..
  | sendSlotGrant => exact keeps_execSendSlotGrant hk ..
  | messageVisible => exact keeps_execMessageVisible hk ..
  | eventTimeout => exact keeps_execEventTimeout hk ..
  | forkWaitGrant => exact keeps_execForkWaitGrant hk ..
  | forkTimeout => exact keeps_execForkTimeout hk ..
  | faultNoticeDispatch => exact keeps_execFaultNoticeDispatch hk ..
  | threadRelease => exact keeps_execThreadRelease hk ..
  | quiesceFire => exact keeps_execQuiesceFire hk ..
  | quiesceKill => exact keeps_execQuiesceKill hk ..
  | halt => exact keeps_execHalt hk ..
  | resume => exact keeps_execResume hk ..
  | step => exact keeps_execStep hk ..
  | kill => exact keeps_execKill hk ..
  | haltedBudgetAbort => exact keeps_execHaltedBudgetAbort hk ..
  | dbgChannelRelease => exact keeps_execDbgChannelRelease hk ..
  | dbgAutoRelease => exact keeps_execDbgAutoRelease hk ..
  | hysteresisExpire => exact keeps_execHysteresisExpire hk ..
  | powerEntryStep => exact keeps_execPowerEntryStep hk ..
  | wakeEvent => exact keeps_execWakeEvent hk ..
  | powerWakeStep => exact keeps_execPowerWakeStep hk ..
  | wakeFailTimeout => exact keeps_execWakeFailTimeout hk ..
  | domainWakeRetry => exact keeps_execDomainWakeRetry hk ..
  | pllLock => exact keeps_execPllLock hk ..
  | pllLockLoss => exact keeps_execPllLockLoss hk ..
  | referenceBad => exact keeps_execReferenceBad hk ..
  | smbusRegisterWrite => exact keeps_execSmbusRegisterWrite hk ..
  | smbusSetReadAddress => exact keeps_execSmbusSetReadAddress hk ..
  | smbusBlockRead => exact keeps_execSmbusBlockRead hk
  | hatchLatchRead => exact keeps_execHatchLatchRead hk
  | hatchAddressMatch => exact keeps_execHatchAddressMatch hk
  | hatchWakeFail => exact keeps_execHatchWakeFail hk ..
  | smbusTimeout => exact keeps_execSmbusTimeout hk
  | errorHandlingEnd => exact keeps_execErrorHandlingEnd hk ..
  | supervisorEscalation => exact keeps_execSupervisorEscalation hk ..
  | errorInject => exact keeps_execErrorInject hk ..
  | pageLock => exact keeps_execPageLock hk ..
  | engineReset => exact keeps_execEngineReset hk ..
  | engineResetDone => exact keeps_execEngineResetDone hk
  | goldenReplay => exact keeps_execGoldenReplay hk ..
  | goldenVector => exact keeps_execGoldenVector hk ..
  | goldenReplayDone => exact keeps_execGoldenReplayDone hk
  | imageLoadHost => exact keeps_execImageLoadHost hk ..
  | flashBoot => exact keeps_execFlashBoot hk ..
  | imageCheck => exact keeps_execImageCheck hk ..
  | debugChallenge => exact keeps_execDebugChallenge hk ..
  | debugResponse => exact keeps_execDebugResponse hk ..
  | debugChallengeExpire => exact keeps_execDebugChallengeExpire hk
  | voltageAlarm => exact keeps_execVoltageAlarm hk ..
  | tamper => exact keeps_execTamper hk
  | zeroizeRequest => exact keeps_execZeroizeRequest hk
  | endorse => exact keeps_execEndorse hk
  | resetRelease => exact keeps_execResetRelease hk ..
  | conventionalReset => exact keeps_execConventionalReset hk
  | dieResetTimeout => exact keeps_execDieResetTimeout hk ..
  | diePowerGoodLoss => exact keeps_execDiePowerGoodLoss hk ..
  | bsqStart => exact keeps_execBsqStart hk ..
  | bsqPhaseDone => exact keeps_execBsqPhaseDone hk ..
  | serviceRelease => exact keeps_execServiceRelease hk
  | registerWrite => exact keeps_execRegisterWrite hk ..
  | dataLinkUp => exact keeps_execDataLinkUp hk ..
  | functionReady => exact keeps_execFunctionReady hk
  | diagnosticWord => exact keeps_execDiagnosticWord hk ..

/-- A step keeps the same of the state without the first command of its queue. -/
theorem keeps_step {s t : State} (h : step s = .next t) : Keeps { s with pending := s.pending.tail } t := by
  cases hq : s.pending with
  | nil =>
    rw [step_nil hq] at h
    cases h
    have hself : { s with pending := ([] : List Instr).tail } = s := by rw [List.tail_nil, ← hq]
    rw [hself]
    exact keeps_csCycle (Keeps.refl s)
  | cons c rest =>
    rw [step_cons hq] at h
    have hk := keeps_exec c { s with pending := rest }
    rwa [h] at hk

/-- Settles O1: the case of a queue that is not empty, in the definition of a step. -/
theorem stepTakesTheFrontCommand : Obligations.StepTakesTheFrontCommand :=
  fun _ _ _ hq => step_cons hq

/-- Settles O3, from what every step keeps. -/
theorem queueIsFirstInFirstOut : Obligations.QueueIsFirstInFirstOut :=
  fun _ _ h => (keeps_step h).pending

/-- Settles O4, from what every step keeps. -/
theorem partStaysAndFusesOnlyRise : Obligations.PartStaysAndFusesOnlyRise :=
  fun _ _ h => ⟨(keeps_step h).part, (keeps_step h).svn, (keeps_step h).revoked, (keeps_step h).tap⟩

/-- Settles O5, from what every step keeps. -/
theorem arraysStayCanonical : Obligations.ArraysStayCanonical :=
  fun _ _ hwf h => (keeps_step h).arrays hwf

end Sys2Proof.Machine
end

section
/-!
What the passing of a CQ cycle in the bucket caches may change (R282, R283, R299): ports, steps, lines, and what their errors do.
-/

namespace Sys2Proof.Machine

/-- Nothing differs but what lookups in the bucket caches change: the steps, their ports, the cache and its registers, and what
raising an error changes (R438 to R446). -/
def LookupOnly (s t : State) : Prop :=
  t = { s with
    ports := t.ports, steps := t.steps, regs := t.regs, cache := t.cache, walks := t.walks, wayErrAt := t.wayErrAt,
    fltq := t.fltq, escal := t.escal, mgmt := t.mgmt, ringQ := t.ringQ, out := t.out, msixPend := t.msixPend,
    lostDies := t.lostDies }

theorem LookupOnly.refl (s : State) : LookupOnly s s := rfl

theorem LookupOnly.trans {s t u : State} (h : LookupOnly s t) (g : LookupOnly t u) : LookupOnly s u := by
  unfold LookupOnly at h g
  rw [h] at g
  exact g

theorem LookupOnly.cyc {s t : State} (h : LookupOnly s t) : t.cyc = s.cyc := by
  rw [h]

theorem LookupOnly.foldl {α : Type} {f : State → α → State} (hf : ∀ s a, LookupOnly s (f s a)) (l : List α) (s : State) :
    LookupOnly s (l.foldl f s) := by
  induction l generalizing s with
  | nil => exact .refl s
  | cons a l ih => exact (hf s a).trans (ih _)

theorem lookupOnly_ite {c : Prop} [Decidable c] {s t u : State} (ht : LookupOnly s t) (hu : LookupOnly s u) :
    LookupOnly s (if c then t else u) := by
  split
  · exact ht
  · exact hu

theorem lookupOnly_setF (s : State) (d : Nat) (f : Fld) (v b : Nat) : LookupOnly s (setF s d f v b) := rfl
theorem lookupOnly_bump (s : State) (d : Nat) (f : Fld) (n b : Nat) : LookupOnly s (bump s d f n b) := rfl
theorem lookupOnly_bumpSat (s : State) (d : Nat) (f : Fld) (n b : Nat) : LookupOnly s (bumpSat s d f n b) := rfl
theorem lookupOnly_walks (s : State) (l : List CacheWalk) : LookupOnly s { s with walks := l } := rfl
theorem lookupOnly_wayErrAt (s : State) (m : SMap (List Nat)) : LookupOnly s { s with wayErrAt := m } := rfl
theorem lookupOnly_setLine (s : State) (d w set : Nat) (l : Line) : LookupOnly s (setLine s d w set l) := rfl
theorem lookupOnly_clearWay (s : State) (d w : Nat) : LookupOnly s (clearWay s d w) := rfl
theorem lookupOnly_modStep (s : State) (id : Nat) (f : SStep → SStep) : LookupOnly s (modStep s id f) := rfl
theorem lookupOnly_usePort (s : State) (d line : Nat) : LookupOnly s (usePort s d line) := rfl

theorem lookupOnly_disableWay (s : State) (d w : Nat) : LookupOnly s (disableWay s d w) :=
  (lookupOnly_setF ..).trans (lookupOnly_setF ..)

theorem lookupOnly_raiseErr (s : State) (d pg bit : Nat) (i : ErrItem) : LookupOnly s (raiseErr s d pg bit i) := by
  have h := (errOnly_raiseErr s d pg bit i).rest
  rw [LookupOnly, h]

theorem lookupOnly_invLine (s : State) (d w line : Nat) : LookupOnly s (invLine s d w line) :=
  lookupOnly_ite ((lookupOnly_setLine ..).trans (lookupOnly_walks ..)) (lookupOnly_setLine ..)

/-- The registers of a way that fails, then the error. -/
theorem lookupOnly_wayFailed {s u : State} (h : LookupOnly s u) (d v bit : Nat) (i : ErrItem) :
    LookupOnly s (raiseErr (setF u d CCH_WAY_STS.FAILED v) d pgCch bit i) :=
  (h.trans (lookupOnly_setF ..)).trans (lookupOnly_raiseErr ..)

theorem lookupOnly_autoDisable (s : State) (d w : Nat) : LookupOnly s (autoDisable s d w) := by
  unfold autoDisable
  dsimp only
  refine lookupOnly_ite (.refl s) (lookupOnly_ite (lookupOnly_wayFailed (lookupOnly_disableWay ..) ..) ?_)
  split
  · exact lookupOnly_wayFailed ((lookupOnly_setF ..).trans (lookupOnly_disableWay ..)) ..
  · exact (lookupOnly_wayFailed (lookupOnly_clearWay ..) ..).trans (lookupOnly_raiseErr ..)

theorem lookupOnly_wayError (s : State) (d w set : Nat) (unc : Bool) : LookupOnly s (wayError s d w set unc) := by
  unfold wayError
  dsimp only
  split
  · exact ((lookupOnly_bumpSat ..).trans (lookupOnly_raiseErr ..)).trans (lookupOnly_autoDisable ..)
  · have hcount : LookupOnly s (raiseErr (bumpSat s d (CCH_WAY_ERR.CE w)) d pgCch CCH_ERR.LINE_CORR (it2 w set)) :=
      (lookupOnly_bumpSat ..).trans (lookupOnly_raiseErr ..)
    exact lookupOnly_ite ((hcount.trans (lookupOnly_wayErrAt ..)).trans (lookupOnly_autoDisable ..)) (hcount.trans (lookupOnly_wayErrAt ..))

/-- A lookup counts, and a hit may find an error in its line. -/
theorem lookupOnly_cacheLookup (s : State) (d line : Nat) : LookupOnly s (cacheLookup s d line).1 := by
  unfold cacheLookup
  extract_lets u held miss
  have hheld : ∀ v, LookupOnly v (held v).1 := by
    intro v
    simp only [held]
    split
    · split
      · exact lookupOnly_bump ..
      · exact lookupOnly_bump ..
    · exact .refl v
  have hmiss : ∀ v, LookupOnly v (miss v).1 := by
    intro v
    simp only [miss]
    split
    · split
      · exact lookupOnly_bump ..
      · exact hheld v
    · exact hheld v
  refine (lookupOnly_bump s d CCH_LOOKUP.COUNT 1 0).trans ?_
  split
  · extract_lets l
    split
    · exact ((lookupOnly_invLine ..).trans (lookupOnly_wayError ..)).trans (hmiss _)
    · exact (lookupOnly_bump ..).trans (lookupOnly_ite ((lookupOnly_setLine ..).trans (lookupOnly_wayError ..)) (.refl _))
  · exact hmiss u

theorem lookupOnly_takePorts (s : State) (x : SStep) : LookupOnly s (takePorts s x) := by
  have htaken : LookupOnly s (modStep (usePort (usePort s x.die (stepLine s x 0)) x.die (stepLine s x 1)) x.id
    fun y => { y with port := some (cq s) }) :=
    ((lookupOnly_usePort ..).trans (lookupOnly_usePort ..)).trans (lookupOnly_modStep ..)
  exact lookupOnly_ite (lookupOnly_ite (htaken.trans (lookupOnly_setF ..)) htaken) (.refl s)

theorem lookupOnly_servePorts (s : State) (fixed : Bool) : LookupOnly s (servePorts s fixed) :=
  .foldl lookupOnly_takePorts _ s

theorem lookupOnly_viewStep (s : State) (x : SStep) : LookupOnly s (viewStep s x) := by
  have hviews := (lookupOnly_cacheLookup s x.die (stepLine s x 0)).trans
    (lookupOnly_cacheLookup (cacheLookup s x.die (stepLine s x 0)).1 x.die (stepLine (cacheLookup s x.die (stepLine s x 0)).1 x 1))
  exact lookupOnly_ite ((hviews.trans (lookupOnly_ite (lookupOnly_bump ..) (.refl _))).trans (lookupOnly_modStep ..)) (.refl s)

theorem lookupOnly_openCq (s : State) : LookupOnly s (openCq s) := by
  have hfree : LookupOnly s { s with ports := [] } := rfl
  exact (hfree.trans (lookupOnly_servePorts ..)).trans (.foldl lookupOnly_viewStep _ _)

theorem csCycle_even {s : State} (h : s.cyc % 2 = 0) : csCycle s = { s with cyc := s.cyc + 1 } := if_pos h

theorem csCycle_odd {s : State} (h : s.cyc % 2 = 1) : csCycle s = openCq { closeCq s with cyc := s.cyc + 1 } := by
  rw [csCycle, if_neg (by omega)]

/-- A CS cycle changes the time besides what its lookups change. -/
theorem csCycle_lookupOnly (s : State) : LookupOnly { s with cyc := s.cyc + 1 } (csCycle s) := by
  rcases Nat.mod_two_eq_zero_or_one s.cyc with h | h
  · rw [csCycle_even h]
    exact .refl _
  · have hclose : LookupOnly { s with cyc := s.cyc + 1 } { closeCq s with cyc := s.cyc + 1 } := by
      rw [LookupOnly, closeCq, lookupOnly_servePorts s false]
    rw [csCycle_odd h]
    exact hclose.trans (lookupOnly_openCq _)

theorem openCq_closeCq_noSteps {s : State} (h : s.steps = []) :
    openCq { closeCq s with cyc := s.cyc + 1 } = { s with cyc := s.cyc + 1, ports := [] } := by
  simp [openCq, closeCq, servePorts, h]

/-- Settles O2, from what a CS cycle changes. -/
theorem idleStepPassesOneCycle : Obligations.IdleStepPassesOneCycle := by
  intro s hq
  have hrest := csCycle_lookupOnly s
  refine ⟨csCycle s, step_nil hq, hrest.cyc, csCycle_even, csCycle_odd, fun hodd hsteps => ?_, ?_⟩
  · rw [csCycle_odd hodd, openCq_closeCq_noSteps hsteps]
  · rw [hrest.cyc]
    exact hrest

end Sys2Proof.Machine
end

section
/-!
Power domains and clocks: entry and its refusals (R420 to R422), waking and its failures (R423 to R425), the PLL and the
reference monitor (R411, R413), and the selection of a domain (R434).
-/

namespace Sys2Proof.Machine

variable {s : State} {d c low n : Nat}

@[simp] theorem getDom_setPhase (s : State) (d c : Nat) (p : DomPhase) (w : Bool) : getDom (setPhase s d c p w) d c = ⟨p, w⟩ :=
  getDom_setDom s d c ⟨p, w⟩

/-! ## Hysteresis and entry -/

section Entry

/-- The domain's hysteresis has run out, and it may go to its low state. -/
theorem hysteresis_asks (hl : domLive s d c = true) (hon : domOn s d c = true) (hv : votes s d c = 0) (hlow : low = 1 ∨ low = 2) :
    (!domLive s d c || !domOn s d c || votes s d c != 0 || (low != 1 && low != 2)) = false := by
  rcases hlow with rfl | rfl <;> simp [hl, hon, hv]

theorem execHysteresisExpire_enters (hl : domLive s d c = true) (hon : domOn s d c = true) (hv : votes s d c = 0)
    (hset : getF s d PWR_STATE.LOW c = low) (hlow : low = 1 ∨ low = 2) (hr : refusal s d c low = none) :
    execHysteresisExpire d c s = .next (setPhase s d c (.entering low 0)) := by
  simp [execHysteresisExpire, hset, hysteresis_asks hl hon hv hlow, hr]

theorem execHysteresisExpire_refused {k : Nat} (hl : domLive s d c = true) (hon : domOn s d c = true) (hv : votes s d c = 0)
    (hset : getF s d PWR_STATE.LOW c = low) (hlow : low = 1 ∨ low = 2) (hr : refusal s d c low = some k) :
    execHysteresisExpire d c s = .next (refuseCode s d c PWR_REFUSE.REFUSALS k) := by
  simp [execHysteresisExpire, hset, hysteresis_asks hl hon hv hlow, hr]

/-- One entry step, by its number and by whether a wake stands. -/
theorem execPowerEntryStep_entering (hl : domLive s d c = true) (hp : (getDom s d c).phase = .entering low n) :
    execPowerEntryStep d c s = .next (
      if n < 4 then
        if ((getDom s d c).wake || wakeStands s d c low) = true then refuseCode (setPhase s d c .on) d c PWR_REFUSE.ABORTS (0x11 + n)
        else setPhase s d c (.entering low (n + 1))
      else if ((getDom s d c).wake || wakeStands s d c low) = true then startWake (reachLow s d c low) d c low
      else stopPll (reachLow s d c low) d) := by
  simp [execPowerEntryStep, hp, hl]

end Entry

/-! ## Waking -/

section Wake

theorem execWakeEvent_live (hl : domLive s d c = true) : execWakeEvent d c s = .next (wakeEvent s d c) :=
  congrArg _ (if_pos hl)

/-- Steps that a wake takes: one fewer from retention (R423). -/
def wakeSteps (low : Nat) : Nat := if low = 1 then 3 else 4

theorem execPowerWakeStep_goesOn (hl : domLive s d c = true) (hp : (getDom s d c).phase = .waking low n)
    (hlock : isF s d CLK_STS.LOCK = true) (hn : n + 1 < wakeSteps low) :
    execPowerWakeStep d c s = .next (setPhase s d c (.waking low (n + 1))) := by
  have hn' : n + 1 < (if low = 1 then 3 else 4) := hn
  simp [execPowerWakeStep, hp, hl, hlock, hn']

theorem execPowerWakeStep_ends (hl : domLive s d c = true) (hp : (getDom s d c).phase = .waking low n)
    (hlock : isF s d CLK_STS.LOCK = true) (hn : wakeSteps low ≤ n + 1) :
    execPowerWakeStep d c s = .next (if c = 5 then cpOn (setF (setPhase s d c .on) d PWR_STATE.RETRY 0 c) low
      else setF (setPhase s d c .on) d PWR_STATE.RETRY 0 c) := by
  have hn' : ¬ n + 1 < (if low = 1 then 3 else 4) := Nat.not_lt.mpr hn
  simp [execPowerWakeStep, hp, hl, hlock, hn']

theorem domOn_setPhase_on (s : State) (d c v : Nat) (f : Fld) (b : Nat) : domOn (setF (setPhase s d c .on) d f v b) d c = true := by
  simp [domOn]

theorem execWakeFailTimeout_supply (hl : domLive s d c = true) (hp : (getDom s d c).phase = .waking low n) :
    execWakeFailTimeout d c false s = .next (failWake s d c low 0x20) := by
  simp [execWakeFailTimeout, hl, hp]

theorem execWakeFailTimeout_pll (hl : domLive s d c = true) (hp : (getDom s d c).phase = .waking low n)
    (hlock : isF s d CLK_STS.LOCK = false) (hrun : isF s d CLK_STS.PLL_RUN = true) :
    execWakeFailTimeout d c true s = .next (failWake s d c low 0x21) := by
  simp [execWakeFailTimeout, hl, hp, hlock, hrun]

/-- A failed domain whose wake is tried again. -/
def wakeRetried (s : State) (d c low : Nat) : State := setF (startWake s d c low) d PWR_STATE.RETRY 1 c

theorem execDomainWakeRetry_retries (hx : domExists s d c = true) (hr : s.inReset = false) (hp : (getDom s d c).phase = .failed low) :
    execDomainWakeRetry d c s = .next (wakeRetried s d c low) := by
  simp [execDomainWakeRetry, retryWake, wakeRetried, hx, hr, hp]

theorem getDom_wakeRetried (s : State) (d c low : Nat) : (getDom (wakeRetried s d c low) d c).phase = .waking low 0 := by
  simp [wakeRetried, startWake]

theorem isF_wakeRetried_pll (s : State) (d c low : Nat) : isF (wakeRetried s d c low) d CLK_STS.PLL_RUN = true := by
  have hne : fne CLK_STS.PLL_RUN 0 PWR_STATE.RETRY c = true := fne_of_off (by decide) (by decide) (by decide)
  rw [isF, wakeRetried, getF_setF_ne _ _ _ _ _ _ _ _ hne, startWake, getF_setF_self]
  rfl

end Wake

/-! ## PLL and reference -/

section Clocks

theorem present_clk (h : d < s.part.dieCnt) : present s d pgClk = true := by
  simp [present, h, pgClk, pgStr, pgCch, pgMss, pgCel, pgTim, pgEvd, pgCsc, pgPkg, pgHif, pgSec]

theorem execPllLock_locks (hd : d < s.part.dieCnt) (hr : s.inReset = false) (hrun : isF s d CLK_STS.PLL_RUN = true)
    (hlock : isF s d CLK_STS.LOCK = false) : execPllLock d s = .next (setF s d CLK_STS.LOCK 1) := by
  simp [execPllLock, hd, hr, hrun, hlock]

/-- The clock unit has lost its lock and counts the loss. -/
def lockLost (s : State) (d : Nat) : State := bumpSat (setF s d CLK_STS.LOCK 0) d CLK_LOCK_CNT.LOSS

theorem execPllLockLoss_records (hd : d < s.part.dieCnt) (hg : gone s d = false) (hlock : isF s d CLK_STS.LOCK = true) :
    execPllLockLoss d s = .next (raiseErr (lockLost s d) d pgClk CLK_ERR.LOCK_LOSS (it1 (readWord (lockLost s d) d pgClk 0 0x84))) := by
  simp [execPllLockLoss, lockLost, hd, hg, hlock]

theorem isF_lockLost (s : State) (d bit : Nat) (i : ErrItem) : isF (raiseErr (lockLost s d) d pgClk bit i) d CLK_STS.LOCK = false := by
  rw [isF, getF_raiseErr _ _ _ _ _ _ _ _ (by decide), lockLost, bumpSat, getF_setF_ne _ _ _ _ _ _ _ _ (by decide), getF_setF_self]
  rfl

theorem getF_measured_khz {khz : Nat} (hk : khz < 2 ^ 20) : getF (measured s d khz) d CLK_STS.REF_KHZ = khz := by
  rw [measured, getF_setF_ne _ _ _ _ _ _ _ _ (by decide), getF_setF_self]
  exact Nat.mod_eq_of_lt hk

theorem isF_measured_bad (s : State) (d khz : Nat) :
    isF (measured s d khz) d CLK_STS.REF_BAD = decide (khz < 98000 ∨ 102000 < khz) := by
  rw [isF, measured, getF_setF_self]
  by_cases h : khz < 98000 ∨ 102000 < khz <;> simp [h, b2n, CLK_STS.REF_BAD]

/-- The live die's reading, inside its window or outside. -/
theorem execReferenceBad_live {khz : Nat} (hd : d < s.part.dieCnt) (hg : gone s d = false) (hr : s.inReset = false) :
    execReferenceBad ⟨d, khz⟩ s = .next (if 98000 ≤ khz ∧ khz ≤ 102000 then measured s d khz
      else fireAlarm (raiseErr (measured s d khz) d pgClk CLK_ERR.REF_MON (it1 (readWord (measured s d khz) d pgClk 0 0x84))) 2) := by
  simp [execReferenceBad, hd, hg, hr]

end Clocks

/-! ## Selection -/

section Select

variable {val : Nat}

theorem execPowerDomainSelect_writes (hd : d < s.part.dieCnt) : execPowerDomainSelect d val s = .next (writeDsel s d val) :=
  congrArg _ (if_pos hd)

theorem writeDsel_rest (s : State) (d val : Nat) : writeDsel s d val = { s with regs := (writeDsel s d val).regs } := by
  unfold writeDsel
  dsimp only
  split
  · rfl
  · rfl

theorem writeDsel_selects (hval : val.testBit 31 = false) : writeDsel s d val = setF s d PWR_DSEL.DOM val := by
  simp [writeDsel, hval]

/-- With CLR the three counts of the domain are cleared. -/
theorem writeDsel_clears (hval : val.testBit 31 = true) (hx : domExists s d (val % 256) = true) :
    writeDsel s d val = setF (setF (setF (setF s d PWR_DSEL.DOM val) d PWR_REFUSE.FAILS 0 (val % 256)) d PWR_REFUSE.ABORTS 0 (val % 256))
      d PWR_REFUSE.REFUSALS 0 (val % 256) := by
  have hx' : domExists (setF s d PWR_DSEL.DOM val) d (val % 256) = true := hx
  simp [writeDsel, hval, hx']

theorem writeDsel_counts (hval : val.testBit 31 = true) (hx : domExists s d (val % 256) = true) :
    getF (writeDsel s d val) d PWR_REFUSE.FAILS (val % 256) = 0 ∧ getF (writeDsel s d val) d PWR_REFUSE.ABORTS (val % 256) = 0 ∧
      getF (writeDsel s d val) d PWR_REFUSE.REFUSALS (val % 256) = 0 := by
  rw [writeDsel_clears hval hx]
  refine ⟨?_, ?_, ?_⟩
  · rw [getF_setF_ne _ _ _ _ _ _ _ _ (fne_of_lo (by decide) (by decide) (by decide)),
      getF_setF_ne _ _ _ _ _ _ _ _ (fne_of_lo (by decide) (by decide) (by decide)), getF_setF_self, Nat.zero_mod]
  · rw [getF_setF_ne _ _ _ _ _ _ _ _ (fne_of_lo (by decide) (by decide) (by decide)), getF_setF_self, Nat.zero_mod]
  · rw [getF_setF_self, Nat.zero_mod]

end Select

/-- Settles O49: entry by its step and the wakes, waking by its last step, and the clocks by what they read. -/
theorem powerDomainsSleepAndWake : Obligations.PowerDomainsSleepAndWake := by
  intro s d c
  refine ⟨fun hl => ⟨?hysteresis, ?entry, ?event, ?step, ?timeout⟩, ?retry, fun hd hr => ⟨?lock, ?loss, ?reference, ?select⟩⟩
  case hysteresis =>
    exact fun low hon hv hset hlow =>
      ⟨execHysteresisExpire_enters hl hon hv hset hlow, fun k => execHysteresisExpire_refused hl hon hv hset hlow⟩
  case entry =>
    rintro low n _ hp rfl
    have hstep := execPowerEntryStep_entering hl hp
    refine ⟨fun hn hw => hstep.trans ?_, fun hn hw => hstep.trans ?_, fun hn hw => hstep.trans ?_, fun hn hw => hstep.trans ?_⟩
    · rw [if_pos hn, hw, if_neg Bool.false_ne_true]
    · rw [if_pos hn, hw, if_pos rfl]
    · rw [if_neg (Nat.not_lt.mpr hn), hw, if_neg Bool.false_ne_true]
    · rw [if_neg (Nat.not_lt.mpr hn), hw, if_pos rfl]
  case event =>
    have hevent := execWakeEvent_live hl
    refine ⟨fun hp => hevent.trans ?_, fun hp => hevent.trans ?_, fun low n hp => hevent.trans ?_, fun hp => hevent.trans ?_⟩
    all_goals rw [wakeEvent, hp]
  case step =>
    refine fun low n hp hlock => ⟨execPowerWakeStep_goesOn hl hp hlock, fun hn hc => ?_, fun hn hc => ?_⟩
    · refine ⟨_, (execPowerWakeStep_ends hl hp hlock hn).trans (congrArg _ (if_neg hc)), domOn_setPhase_on .., ?_⟩
      rw [getF_setF_self, Nat.zero_mod]
    · exact (execPowerWakeStep_ends hl hp hlock hn).trans (congrArg _ (if_pos hc))
  case timeout =>
    exact fun low n hp => ⟨execWakeFailTimeout_supply hl hp, execWakeFailTimeout_pll hl hp⟩
  case retry =>
    intro low hx hr hp
    refine ⟨_, execDomainWakeRetry_retries hx hr hp, getDom_wakeRetried .., ?_, fun _ => isF_wakeRetried_pll ..⟩
    rw [wakeRetried, getF_setF_self]
    rfl
  case lock =>
    refine fun hrun hlock => ⟨_, execPllLock_locks hd hr hrun hlock, onlyRegs_setF .., ?_⟩
    rw [isF, getF_setF_self]
    rfl
  case loss =>
    exact fun hg hlock => ⟨_, execPllLockLoss_records hd hg hlock, isF_lockLost .., raiseErr_sticky _ _ _ _ _ (present_clk hd) (by decide)⟩
  case reference =>
    rintro khz _ hg hk rfl
    have hread := execReferenceBad_live (khz := khz) hd hg hr
    refine ⟨getF_measured_khz hk, fun h1 h2 => ⟨hread.trans (congrArg _ (if_pos ⟨h1, h2⟩)), ?_⟩,
      fun hout => ⟨?_, hread.trans (congrArg _ (if_neg (by omega)))⟩⟩
    · rw [isF_measured_bad]
      exact decide_eq_false (by omega)
    · rw [isF_measured_bad]
      exact decide_eq_true hout
  case select =>
    intro val
    refine ⟨_, execPowerDomainSelect_writes hd, writeDsel_rest .., fun hval => ?_, fun hval hx => ?_⟩
    · rw [writeDsel_selects hval]
      exact onlyRegs_setF ..
    · exact writeDsel_counts hval hx

end Sys2Proof.Machine
end

section
/-!
The SMBus port and its hatch (R427 to R430).
-/

namespace Sys2Proof.Machine

variable {s : State} {addr val : Nat}

/-! ## The port (R427, R428) -/

section Port

/-- A transfer whose PEC fails is discarded, whether or not the port answers. -/
theorem execSmbusRegisterWrite_pec : execSmbusRegisterWrite addr val true s = .next s :=
  congrArg _ (if_pos (Bool.or_true _))

theorem execSmbusSetReadAddress_pec : execSmbusSetReadAddress addr true s = .next s :=
  congrArg _ (if_pos (Bool.or_true _))

theorem execSmbusRegisterWrite_writes {t : State} {k : Nat} (hp : portLive s = true) (hw : busWrite s 1 addr 4 (val % 2 ^ 32) = (t, k)) :
    execSmbusRegisterWrite addr val false s = .next (if k = 1 ∨ k = 2 then emitOut t .smbusNack else t) := by
  simp only [execSmbusRegisterWrite, hp, hw, Bool.not_true, Bool.or_self, Bool.false_eq_true, if_false]

theorem execSmbusSetReadAddress_sets (hp : portLive s = true) :
    execSmbusSetReadAddress addr false s = .next { s with sm := { s.sm with rdAddr := addr % 2 ^ 32 } } := by
  simp only [execSmbusSetReadAddress, hp, Bool.not_true, Bool.or_self, Bool.false_eq_true, if_false]

theorem execSmbusBlockRead_answers {t : State} {v : Nat} (hp : portLive s = true) (hr : busRead s 1 s.sm.rdAddr 4 = (t, some (0, v))) :
    execSmbusBlockRead s = .next (emitOut { t with sm := { t.sm with rdAddr := (s.sm.rdAddr + 4) % 2 ^ 32 } } (.smbus (bytesBE 4 v))) := by
  simp only [execSmbusBlockRead, hp, hr, Bool.not_true, Bool.false_eq_true, if_false]

end Port

/-! ## The hatch (R429, R430) -/

section Hatch

theorem execHatchLatchRead_reads (hr : s.inReset = false) : execHatchLatchRead s = .next
    (emitOut { s with sm := { s.sm with latch := s.sm.latch % 8 } } (.smbus [0xA0 + s.sm.latch % 16])) := by
  simp only [execHatchLatchRead, hr, Bool.false_eq_true, if_false]

/-- An address match while the control processor sleeps: a failed one fails at once, any other gets a wake event. -/
theorem execHatchAddressMatch_asleep (hl : domLive s 0 5 = true) (hoff : domOn s 0 5 = false) :
    execHatchAddressMatch s = .next (if domFailed s 0 5 = true then hatchFail s 4
      else wakeEvent { s with sm := { s.sm with stretching := true } } 0 5) := by
  simp only [execHatchAddressMatch, hl, hoff, Bool.not_true, Bool.or_self, Bool.false_eq_true, if_false]

theorem execHatchWakeFail_limit (hs : s.sm.stretching = true) : execHatchWakeFail true s = .next (hatchFail s 3) := by
  simp only [execHatchWakeFail, hs, Bool.not_true, Bool.false_eq_true, if_false, if_true]

theorem execHatchWakeFail_failed (hs : s.sm.stretching = true) (hf : domFailed s 0 5 = true) :
    execHatchWakeFail false s = .next (hatchFail s (if getF s 0 PWR_REFUSE.LAST 5 = 0x21 then 2 else 1)) := by
  simp only [execHatchWakeFail, hs, hf, Bool.not_true, Bool.false_eq_true, if_false, if_true]

end Hatch

/-- Settles O52: one equation for each transfer of the port and for each event of the hatch. -/
theorem smbusPortAnswers : Obligations.SmbusPortAnswers := by
  intro s
  refine ⟨?port, execHatchLatchRead_reads, ?asleep, ?stretching, rfl, fun code => ⟨rfl, rfl, rfl⟩⟩
  case port =>
    exact fun hp addr val =>
      ⟨execSmbusRegisterWrite_pec, fun t k => execSmbusRegisterWrite_writes hp,
        ⟨execSmbusSetReadAddress_pec, execSmbusSetReadAddress_sets hp⟩, fun t v => execSmbusBlockRead_answers hp⟩
  case asleep =>
    exact fun hl hoff =>
      ⟨fun hf => (execHatchAddressMatch_asleep hl hoff).trans (congrArg _ (if_pos hf)),
        fun hf => (execHatchAddressMatch_asleep hl hoff).trans (congrArg _ (if_neg (Bool.not_eq_true _ ▸ hf)))⟩
  case stretching =>
    exact fun hs => ⟨execHatchWakeFail_limit hs, execHatchWakeFail_failed hs⟩

end Sys2Proof.Machine
end

section
/-!
A register field written by its access code (R13, R503), and the page header's errors: the end of a handling (R441), escalation
(R445), injection (R504) and the page lock (R503).
-/

namespace Sys2Proof.Machine

variable {s : State} {d bank val : Nat} {f : Fld}

/-! ## Access codes (R13) -/

section Access

theorem sub_land_eq_ldiff (a b : Nat) : a - (a &&& b) = Nat.ldiff a b := by
  induction a using Nat.binaryRec generalizing b with
  | zero => exact Nat.eq_of_testBit_eq fun i => by simp [Nat.testBit_ldiff]
  | bit x m ih =>
    obtain ⟨y, n, rfl⟩ : ∃ y n, b = Nat.bit y n := ⟨_, _, (Nat.bit_bodd_div2 b).symm⟩
    have hle : m &&& n ≤ m := Nat.and_le_left
    rw [Nat.land_bit, Nat.ldiff_bit, ← ih n]
    cases x <;> cases y <;> simp [Nat.bit_val] <;> omega

/-- The bits that stay when those of a mask are taken away. -/
theorem testBit_sub_land (a b i : Nat) : (a - (a &&& b)).testBit i = (a.testBit i && !b.testBit i) := by
  rw [sub_land_eq_ldiff, Nat.testBit_ldiff]

theorem testBit_fld {lo w i : Nat} (h : i < w) : (fld val lo w).testBit i = val.testBit (lo + i) := by
  rw [fld, Nat.testBit_mod_two_pow, decide_eq_true h, Bool.true_and, Nat.testBit_div_two_pow, Nat.add_comm]

/-- A bit of a field just written is that of the value. -/
theorem testBit_getF_setF (v : Nat) {i : Nat} (h : i < f.width) : (getF (setF s d f v bank) d f bank).testBit i = v.testBit i := by
  rw [getF_setF_self, Nat.testBit_mod_two_pow, decide_eq_true h, Bool.true_and]

theorem getF_setF_fld : getF (setF s d f (fld val f.lo f.width) bank) d f bank = val / 2 ^ f.lo % 2 ^ f.width := by
  rw [getF_setF_self, fld, Nat.mod_mod]

theorem writeFld_ro (h : f.acc = .ro) : writeFld s d bank val f = s := by
  simp only [writeFld, h]

theorem writeFld_rw (h : f.acc = .rw) : writeFld s d bank val f = setF s d f (fld val f.lo f.width) bank := by
  simp only [writeFld, h]

theorem writeFld_rwl (h : f.acc = .rwl) :
    writeFld s d bank val f = if locked s d f.page then s else setF s d f (fld val f.lo f.width) bank := by
  simp only [writeFld, h]

theorem writeFld_w1c (h : f.acc = .w1c) :
    writeFld s d bank val f = setF s d f (getF s d f bank - (getF s d f bank &&& fld val f.lo f.width)) bank := by
  simp only [writeFld, h]

theorem writeFld_w1s (h : f.acc = .w1s) :
    writeFld s d bank val f = setF s d f (getF s d f bank ||| fld val f.lo f.width) bank := by
  simp only [writeFld, h]

end Access

/-- Settles O9: by the access code of the field. -/
theorem fieldsFollowTheirAccessCodes : Obligations.FieldsFollowTheirAccessCodes := by
  intro s d bank val f
  refine ⟨_, rfl, onlyRegs_writeFld s d bank val f, writeFld_ro, ?rw, ?locked, ?w1c, ?w1s⟩
  case rw =>
    rintro (hrw | ⟨hrwl, hopen⟩)
    · rw [writeFld_rw hrw, getF_setF_fld]
    · rw [writeFld_rwl hrwl, locked, hopen, if_neg Bool.false_ne_true, getF_setF_fld]
  case locked =>
    intro hrwl hlock
    rw [writeFld_rwl hrwl, locked, hlock, if_pos rfl]
  case w1c =>
    intro i hi hacc
    rw [writeFld_w1c hacc, testBit_getF_setF _ hi, testBit_sub_land, testBit_fld hi]
  case w1s =>
    intro i hi hacc
    rw [writeFld_w1s hacc, testBit_getF_setF _ hi, Nat.testBit_lor, testBit_fld hi]

/-! ## The end of a handling (R441) -/

section Handling

variable {pg k b bit : Nat}

theorem execErrorHandlingEnd_here (hp : pageHere s d pg = true) : execErrorHandlingEnd d pg s = .next (endHandling s d pg) :=
  congrArg _ (if_pos hp)

/-- The first record cleared. -/
def firstCleared (s : State) (d pg : Nat) : State :=
  setF (putFirst (dropMarks s d pg false) d pg 0 0 it0 0) d (ERR_FIRST0.VALID pg) 0

theorem endHandling_clears (h1 : isF s d (ERR_FIRST0.VALID pg) = true) (h2 : getF s d (ERR_SECOND.VALID pg) = 0) :
    endHandling s d pg = firstCleared s d pg := by
  have h1' : ¬ getF (dropMarks s d pg false) d (ERR_FIRST0.VALID pg) = 0 := by
    rw [show getF (dropMarks s d pg false) d (ERR_FIRST0.VALID pg) = 1 from beq_iff_eq.mp h1]
    exact Nat.one_ne_zero
  rw [endHandling, if_neg h1', if_pos (show getF (dropMarks s d pg false) d (ERR_SECOND.VALID pg) = 0 from h2)]
  rfl

theorem getF_firstCleared_valid (s : State) (d pg : Nat) : getF (firstCleared s d pg) d (ERR_FIRST0.VALID pg) = 0 := by
  rw [firstCleared, getF_setF_self, Nat.zero_mod]

/-- The sticky bits stand in another word than the records. -/
theorem getF_putFirst_sticky (s : State) (d pg cls bit : Nat) (i : ErrItem) (stamp : Nat) :
    getF (putFirst s d pg cls bit i stamp) d (ERR_STICKY.BITS pg) = getF s d (ERR_STICKY.BITS pg) := by
  rw [putFirst]
  iterate 7 rw [getF_setF_ne _ _ _ _ _ _ _ _ (by rfl)]

theorem getF_firstCleared_sticky (s : State) (d pg : Nat) :
    getF (firstCleared s d pg) d (ERR_STICKY.BITS pg) = getF s d (ERR_STICKY.BITS pg) := by
  rw [firstCleared, getF_setF_ne _ _ _ _ _ _ _ _ (by rfl), getF_putFirst_sticky]
  rfl

/-- The second record's words cleared. -/
def secondCleared (s : State) (d pg : Nat) : State :=
  setF (setF (setF (setF (setF s d (ERR_SECOND.VALID pg) 0) d (ERR_SECOND.CLASS pg) 0) d (ERR_SECOND.BIT pg) 0)
    d (ERR_SECOND.ESC pg) 0) d (ERR_SECOND.STAMP pg) 0

/-- The second record moved up with its class, bit and stamp, and its mark with it. -/
def secondMovedUp (s : State) (d pg k b : Nat) : State :=
  secondCleared (putFirst { dropMarks s d pg false with
    escal := (dropMarks s d pg false).escal.map fun e => if e.1 == d && e.2 % 128 == slotMark pg true then (d, e.2 - 64) else e }
    d pg k b it0 (getF s d (ERR_SECOND.STAMP pg))) d pg

theorem endHandling_movesUp (h1 : isF s d (ERR_FIRST0.VALID pg) = true) (h2 : isF s d (ERR_SECOND.VALID pg) = true)
    (hesc : getF s d (ERR_SECOND.ESC pg) = 1) (hk : getF s d (ERR_SECOND.CLASS pg) = k) (hb : getF s d (ERR_SECOND.BIT pg) = b) :
    endHandling s d pg = secondMovedUp s d pg k b := by
  have h1' : ¬ getF (dropMarks s d pg false) d (ERR_FIRST0.VALID pg) = 0 := by
    rw [show getF (dropMarks s d pg false) d (ERR_FIRST0.VALID pg) = 1 from beq_iff_eq.mp h1]
    exact Nat.one_ne_zero
  have h2' : ¬ getF (dropMarks s d pg false) d (ERR_SECOND.VALID pg) = 0 := by
    rw [show getF (dropMarks s d pg false) d (ERR_SECOND.VALID pg) = 1 from beq_iff_eq.mp h2]
    exact Nat.one_ne_zero
  subst hk hb
  rw [endHandling, if_neg h1', if_neg h2']
  exact if_pos hesc

theorem getF_secondMovedUp_second (s : State) (d pg k b : Nat) : getF (secondMovedUp s d pg k b) d (ERR_SECOND.VALID pg) = 0 := by
  rw [secondMovedUp, secondCleared]
  iterate 4 rw [getF_setF_ne _ _ _ _ _ _ _ _ (by rfl)]
  rw [getF_setF_self, Nat.zero_mod]

/-- What the first record holds after the move: it is valid, with the class and the bit of the second. -/
theorem getF_secondMovedUp_first (s : State) (d pg : Nat) (hk : k < 4) (hb : b < 32) :
    getF (secondMovedUp s d pg k b) d (ERR_FIRST0.VALID pg) = 1 ∧ getF (secondMovedUp s d pg k b) d (ERR_FIRST0.CLASS pg) = k ∧
      getF (secondMovedUp s d pg k b) d (ERR_FIRST0.BIT pg) = b := by
  rw [secondMovedUp, secondCleared, putFirst]
  refine ⟨?isValid, ?hasClass, ?hasBit⟩
  case isValid =>
    iterate 11 rw [getF_setF_ne _ _ _ _ _ _ _ _ (by rfl)]
    exact getF_setF_self ..
  case hasClass =>
    iterate 10 rw [getF_setF_ne _ _ _ _ _ _ _ _ (by rfl)]
    exact (getF_setF_self ..).trans (Nat.mod_eq_of_lt hk)
  case hasBit =>
    iterate 9 rw [getF_setF_ne _ _ _ _ _ _ _ _ (by rfl)]
    exact (getF_setF_self ..).trans (Nat.mod_eq_of_lt hb)

end Handling

/-! ## Escalation, injection and the lock (R445, R503, R504) -/

section Escalation

variable {pg k b bit : Nat}

theorem escTarget_first (h1 : isF s d (ERR_FIRST0.VALID pg) = true) (hk : getF s d (ERR_FIRST0.CLASS pg) = k)
    (hb : getF s d (ERR_FIRST0.BIT pg) = b) (hlt : k < 2) (hnew : s.escal.contains (d, 128 + slotMark pg false) = false) :
    escTarget s d pg = some (false, k, b) := by
  subst hk hb
  rw [escTarget, h1, hnew, decide_eq_true hlt]
  rfl

theorem execSupervisorEscalation_escalates (hp : pageHere s d pg = true) (ht : getF s d FLT_SUP_TMO.TMO ≠ 0)
    (he : escTarget s d pg = some (false, k, b)) : execSupervisorEscalation d pg s = .next (escalate s d pg false k b) := by
  simp [execSupervisorEscalation, hp, ht, he]

theorem execErrorInject_here (hp : pageHere s d pg = true) (hb : bit < 32) :
    execErrorInject d pg bit s = .next (inject (setF s d (PAGE_CTL.INJ_BIT pg) bit) d pg bit) := by
  rw [execErrorInject, if_pos hp, Nat.mod_eq_of_lt hb]

/-- Debug is locked, the bit is reserved or its class is S. -/
theorem inject_ignored (h : getF s d DBG_CTL.LEVEL = 0 ∨ errBits pg ≤ bit ∨ errClass s d pg bit = 3) : inject s d pg bit = s :=
  if_pos (by simpa [or_assoc] using h)

theorem inject_raises (hl : getF s d DBG_CTL.LEVEL ≠ 0) (hb : bit < errBits pg) (hc : errClass s d pg bit ≠ 3) :
    inject s d pg bit = raiseErr s d pg bit ⟨0xFF, 0⟩ :=
  if_neg (by simp [hl, hc, hb])

theorem execPageLock_locks (hp : pageHere s d pg = true) : execPageLock d pg s = .next (setF s d (PAGE_CTL.LOCK pg) 1) :=
  congrArg _ (if_pos hp)

end Escalation

/-- Settles O54: the end of a handling by whether a second record stands, injection by R504's three cases. -/
theorem errorRecordsHandled : Obligations.ErrorRecordsHandled := by
  intro s d pg hp
  refine ⟨?clears, ?movesUp, ?escalates, ?injects, ?locks⟩
  case clears =>
    intro h1 h2
    exact ⟨_, (execErrorHandlingEnd_here hp).trans (congrArg _ (endHandling_clears h1 h2)), getF_firstCleared_valid .., getF_firstCleared_sticky ..⟩
  case movesUp =>
    intro k b h1 h2 hesc hk hb hk4 hb32
    obtain ⟨hvalid, hcls, hbit⟩ := getF_secondMovedUp_first s d pg hk4 hb32
    exact ⟨_, (execErrorHandlingEnd_here hp).trans (congrArg _ (endHandling_movesUp h1 h2 hesc hk hb)), hvalid, hcls, hbit,
      getF_secondMovedUp_second ..⟩
  case escalates =>
    exact fun k b h1 hk hb hlt ht hnew => execSupervisorEscalation_escalates hp ht (escTarget_first h1 hk hb hlt hnew)
  case injects =>
    rintro bit _ hb rfl
    exact ⟨fun h => (execErrorInject_here hp hb).trans (congrArg _ (inject_ignored h)),
      fun hl hbits hc => (execErrorInject_here hp hb).trans (congrArg _ (inject_raises hl hbits hc))⟩
  case locks =>
    refine ⟨_, execPageLock_locks hp, onlyRegs_setF .., ?_⟩
    rw [isF, getF_setF_self]
    rfl

end Sys2Proof.Machine
end

section
/-!
The engine reset (R447) and golden replay (R457, R458).
-/

namespace Sys2Proof.Machine

variable {s : State} {val : Nat}

/-! ## The engine reset -/

section EngineReset

theorem execEngineReset_go (hr : s.inReset = false) (hg : gone s 0 = false) (hv : val.testBit 31 = true) :
    execEngineReset val s = .next (writeErst s val) := by
  simp only [execEngineReset, hr, hg, hv, Bool.not_false, Bool.and_self, if_true]

theorem writeErst_starts (hv : val.testBit 31 = true) (hgo : isF s 0 FLT_ERST.GO = false) :
    writeErst s val = startErst s (val.testBit 30) := by
  rw [writeErst, hgo, hv, if_neg Bool.false_ne_true, if_pos rfl]

theorem writeErst_running (hgo : isF s 0 FLT_ERST.GO = true) : writeErst s val = s := if_pos hgo

variable (s) in
/-- No step entry is trusted once a reset has begun. -/
theorem startErst_calm (unload : Bool) : ∀ q ∈ (startErst s unload).stepEnts, q.2.conf = 0 := by
  intro q hq
  obtain ⟨p, -, rfl⟩ := List.mem_map.mp hq
  rfl

variable (s) in
/-- Only fetches that are done are left. -/
theorem startErst_fetches (unload : Bool) : ∀ f ∈ (startErst s unload).fetches, f.done = true :=
  fun _ hf => (List.mem_filter.mp hf).2

/-- The work in flight is gone. -/
def workEnded (s : State) : State :=
  { s with cache := [], fills := [], steps := [], searches := [], books := [], issues := [], egress := [], locks := [], swAt := [] }

/-- The contents after a reset: with UNLOAD the image goes as well. -/
def resetContents (s : State) : State := if isF s 0 FLT_ERST.UNLOAD then unloadImage (workEnded s) else workEnded s

/-- The end of an engine reset: the interfaces train anew, GO falls and the error is recorded. -/
def erstEnded (s : State) : State := raiseErr (setF (retrainIfs (resetContents s)) 0 FLT_ERST.GO 0) 0 pgFlt FLT_ERR.ERST it0

theorem execEngineResetDone_ends (hgo : isF s 0 FLT_ERST.GO = true) (hm : s.mbuf = []) (hc : s.cmds.any (fun c => c.acc.isSome) = false)
    (hq : s.reqs.any (fun r => r.resp.isSome) = false) : execEngineResetDone s = .next (erstEnded s) := by
  have hidle : (!isF s 0 FLT_ERST.GO || s.mbuf != [] || s.cmds.any (fun c => c.acc.isSome) || s.reqs.any (fun r => r.resp.isSome)) = false := by
    rw [hgo, hm, hc, hq]
    rfl
  rw [execEngineResetDone, hidle, if_neg Bool.false_ne_true]
  rfl

theorem retrainIfs_rest (s : State) : retrainIfs s = { s with regs := (retrainIfs s).regs } :=
  foldRegs (fun s i => setF (setF s (i / 3) (LKP_IF_STS.STATE (i % 3)) 1) (i / 3) (LKP_IF_STS.LANES (i % 3)) 0) (fun _ _ => rfl) _ s

/-- Training leaves the registers of other words alone. -/
theorem getF_retrainIfs {d : Nat} {g : Fld} (hg : g.off < 4096 ∧ g.lo < 32) (hoff : g.off ≠ 0x84) :
    getF (retrainIfs s) d g = getF s d g := by
  refine foldGetF _ d g 0 (fun s i => ?_) _ s
  have hj : i % 3 < 3 := Nat.mod_lt _ (by decide)
  have hstate : fne g 0 (LKP_IF_STS.STATE (i % 3)) 0 = true :=
    fne_of_off hg ⟨(by decide : 0x84 < 4096), show 8 * (i % 3) + 6 < 32 by omega⟩ hoff
  have hlanes : fne g 0 (LKP_IF_STS.LANES (i % 3)) 0 = true := fne_of_off hg ⟨(by decide : 0x84 < 4096), show 8 * (i % 3) < 32 by omega⟩ hoff
  rw [getF_setF_ne _ _ _ _ _ _ _ _ hlanes, getF_setF_ne _ _ _ _ _ _ _ _ hstate]

/-- Outside the registers and what raising an error changes, the end of a reset leaves the contents as they are. -/
theorem erstEnded_contents (s : State) :
    (erstEnded s).cache = (resetContents s).cache ∧ (erstEnded s).fills = (resetContents s).fills ∧
    (erstEnded s).steps = (resetContents s).steps ∧ (erstEnded s).searches = (resetContents s).searches ∧
    (erstEnded s).books = (resetContents s).books ∧ (erstEnded s).issues = (resetContents s).issues ∧
    (erstEnded s).egress = (resetContents s).egress ∧ (erstEnded s).rows = (resetContents s).rows ∧
    (erstEnded s).recipe = (resetContents s).recipe ∧ (erstEnded s).slots = (resetContents s).slots := by
  have hrest := retrainIfs_rest (resetContents s)
  simp only [erstEnded, raiseErr_cache, raiseErr_fills, raiseErr_steps, raiseErr_searches, raiseErr_books, raiseErr_issues,
    raiseErr_egress, raiseErr_rows, raiseErr_recipe, raiseErr_slots]
  rw [hrest]
  exact ⟨rfl, rfl, rfl, rfl, rfl, rfl, rfl, rfl, rfl, rfl⟩

theorem resetContents_work (s : State) :
    (resetContents s).cache = [] ∧ (resetContents s).fills = [] ∧ (resetContents s).steps = [] ∧ (resetContents s).searches = [] ∧
    (resetContents s).books = [] ∧ (resetContents s).issues = [] ∧ (resetContents s).egress = [] := by
  unfold resetContents
  split
  · obtain ⟨r, hu, -⟩ := unloadImage_eq (workEnded s)
    rw [hu]
    exact ⟨rfl, rfl, rfl, rfl, rfl, rfl, rfl⟩
  · exact ⟨rfl, rfl, rfl, rfl, rfl, rfl, rfl⟩

theorem resetContents_keeps (hu : isF s 0 FLT_ERST.UNLOAD = false) :
    (resetContents s).rows = s.rows ∧ (resetContents s).recipe = s.recipe := by
  simp [resetContents, workEnded, hu]

theorem resetContents_unloads (hu : isF s 0 FLT_ERST.UNLOAD = true) :
    (resetContents s).rows = [] ∧ (resetContents s).recipe = [] ∧ (resetContents s).slots = [] ∧
      getF (resetContents s) 0 PAGE_CAP.PROFILE = 0 := by
  rw [resetContents, hu]
  obtain ⟨r, he, hp⟩ := unloadImage_eq (workEnded s)
  exact ⟨by rw [if_pos rfl, he], by rw [if_pos rfl, he], by rw [if_pos rfl, he], hp⟩

theorem getF_erstEnded_go (s : State) : getF (erstEnded s) 0 FLT_ERST.GO = 0 := by
  rw [erstEnded, getF_raiseErr _ _ _ _ _ _ _ _ (by decide), getF_setF_self, Nat.zero_mod]

theorem getF_erstEnded_profile (s : State) : getF (erstEnded s) 0 PAGE_CAP.PROFILE = getF (resetContents s) 0 PAGE_CAP.PROFILE := by
  rw [erstEnded, getF_raiseErr _ _ _ _ _ _ _ _ (by decide), getF_setF_ne _ _ _ _ _ _ _ _ (by decide),
    getF_retrainIfs (by decide) (by decide)]

end EngineReset

/-! ## Golden replay -/

section Golden

variable {g : Golden} {data : BitVec 1152} {fail : Bool}

theorem execGoldenReplay_go (hr : s.inReset = false) (hg : gone s 0 = false) (hv : val.testBit 31 = true) :
    execGoldenReplay val s = .next (writeGr s val) := by
  simp only [execGoldenReplay, hr, hg, hv, Bool.not_false, Bool.and_self, if_true]

/-- The source, die and group of a replay, as written. -/
def goldenAsked (s : State) (val : Nat) : State :=
  setF (setF (setF s 0 FLT_GR_CTL.SRC (val / 2 ^ 30)) 0 FLT_GR_CTL.SDIE (val / 2 ^ 27)) 0 FLT_GR_CTL.GROUP (val / 2 ^ 16)

/-- A replay that begins. -/
def goldenBegun (s : State) : State :=
  { setF (setF (setF s 0 FLT_GR_CTL.GO 1) 0 FLT_GR_STS.BUSY 1) 0 FLT_GR_CNT.DONE 0 with
    golden := some { vecBytes := [], resBytes := [], expectVec := s.goldVec, running := none } }

theorem writeGr_noVectors (hgo : isF s 0 FLT_GR_CTL.GO = false) (hv : val.testBit 31 = true)
    (hc : getF (goldenAsked s val) 0 FLT_GR_CNT.COUNT = 0) : writeGr s val = setF (goldenAsked s val) 0 FLT_GR_STS.RESULT 5 := by
  rw [writeGr, hgo, hv, if_neg Bool.false_ne_true]
  exact if_pos hc

theorem writeGr_begins (hgo : isF s 0 FLT_GR_CTL.GO = false) (hv : val.testBit 31 = true)
    (hc : getF (goldenAsked s val) 0 FLT_GR_CNT.COUNT ≠ 0) : writeGr s val = goldenBegun (goldenAsked s val) := by
  rw [writeGr, hgo, hv, if_neg Bool.false_ne_true]
  exact if_neg hc

theorem getF_goldenBegun (s : State) : getF (goldenBegun s) 0 FLT_GR_CTL.GO = 1 ∧ getF (goldenBegun s) 0 FLT_GR_STS.BUSY = 1 ∧
    getF (goldenBegun s) 0 FLT_GR_CNT.DONE = 0 := by
  have hregs : ∀ f, getF (goldenBegun s) 0 f = getF (setF (setF (setF s 0 FLT_GR_CTL.GO 1) 0 FLT_GR_STS.BUSY 1) 0 FLT_GR_CNT.DONE 0) 0 f :=
    fun _ => rfl
  refine ⟨?_, ?_, ?_⟩
  · rw [hregs, getF_setF_ne _ _ _ _ _ _ _ _ (by decide), getF_setF_ne _ _ _ _ _ _ _ _ (by decide), getF_setF_self]
    rfl
  · rw [hregs, getF_setF_ne _ _ _ _ _ _ _ _ (by decide), getF_setF_self]
    rfl
  · rw [hregs, getF_setF_self, Nat.zero_mod]

/-- The bytes of the next vector, from the store room or from host memory (R457); none when they cannot be read. -/
def nextVector (s : State) (data : BitVec 1152) (fail : Bool) : Option (List Nat) :=
  if isF s 0 FLT_GR_CTL.SRC then storeVector s (getF s 0 FLT_GR_CTL.SDIE) (goldenBase s + 144 * getF s 0 FLT_GR_CNT.DONE)
  else if fail || !canMaster s then none else some (bytesBE 144 data.toNat)

/-- While vectors are left, the next one runs, or ends the replay with result 4. -/
theorem execGoldenVector_left (hg : s.golden = some g) (hi : goldenIdle s g = true)
    (hlt : getF s 0 FLT_GR_CNT.DONE < getF s 0 FLT_GR_CNT.COUNT) :
    (nextVector s data fail = none → execGoldenVector data fail s = .next (endGolden s 4)) ∧
      ∀ v, nextVector s data fail = some v → execGoldenVector data fail s = .next (runVector s g v) := by
  have hopen : (!goldenIdle s g || decide (getF s 0 FLT_GR_CNT.COUNT ≤ getF s 0 FLT_GR_CNT.DONE)) = false := by
    rw [hi, decide_eq_false (Nat.not_le.mpr hlt)]
    rfl
  constructor
  · intro hv
    rw [nextVector] at hv
    simp only [execGoldenVector, hg, hopen, hv, Bool.false_eq_true, if_false]
  · intro v hv
    rw [nextVector] at hv
    simp only [execGoldenVector, hg, hopen, hv, Bool.false_eq_true, if_false]

theorem nextVector_host (hs : isF s 0 FLT_GR_CTL.SRC = false) :
    nextVector s data fail = if fail || !canMaster s then none else some (bytesBE 144 data.toNat) := by
  rw [nextVector, hs, if_neg Bool.false_ne_true]

theorem nextVector_store (hs : isF s 0 FLT_GR_CTL.SRC = true) :
    nextVector s data fail = storeVector s (getF s 0 FLT_GR_CTL.SDIE) (goldenBase s + 144 * getF s 0 FLT_GR_CNT.DONE) := by
  rw [nextVector, hs, if_pos rfl]

/-- The result digest as it is shown at the end of a replay. -/
def digestShown (s : State) (g : Golden) : State :=
  (List.range 8).foldl (fun s i => setF s 0 (FLT_GR_DIG.DIGEST i) (sha256 g.resBytes / 2 ^ (32 * (7 - i)))) s

/-- The digest that the results should have. -/
def digestWanted (s : State) : Nat := (List.range 8).foldl (fun a i => a * 2 ^ 32 + getF s 0 (FLT_GR_EXP.DIGEST i)) 0

/-- After the last vector the vectors' digest is compared first, then the results'. -/
theorem execGoldenReplayDone_compares (hg : s.golden = some g) (hi : goldenIdle s g = true)
    (hle : getF s 0 FLT_GR_CNT.COUNT ≤ getF s 0 FLT_GR_CNT.DONE) :
    execGoldenReplayDone s = .next (
      if (sha256 g.vecBytes != g.expectVec) = true then
        raiseErr (endGolden (digestShown s g) 3) 0 pgFlt FLT_ERR.GR_VEC (it1 (getF (digestShown s g) 0 FLT_GR_CNT.DONE))
      else if sha256 g.resBytes % 2 ^ 256 = digestWanted s then endGolden (digestShown s g) 1
      else raiseErr (endGolden (digestShown s g) 2) 0 pgFlt FLT_ERR.GR_MIS (it1 (getF (digestShown s g) 0 FLT_GR_CNT.DONE))) := by
  have hover : (!goldenIdle s g || decide (getF s 0 FLT_GR_CNT.DONE < getF s 0 FLT_GR_CNT.COUNT)) = false := by
    rw [hi, decide_eq_false (Nat.not_lt.mpr hle)]
    rfl
  simp only [execGoldenReplayDone, hg, hover, Bool.false_eq_true, if_false]
  rfl

end Golden

/-- Settles O55: a reset by its start and its end, a replay by its start, its vectors and its two digests. -/
theorem engineResetAndGoldenReplay : Obligations.EngineResetAndGoldenReplay := by
  intro s
  refine ⟨fun hr hg val hv => ⟨?start, ?running, ?replay⟩, ?done, fun g hgold hi => ⟨?vector, ?compare⟩⟩
  case start =>
    intro hgo
    exact ⟨_, (execEngineReset_go hr hg hv).trans (congrArg _ (writeErst_starts hv hgo)), rfl, rfl, startErst_calm s _, startErst_fetches s _⟩
  case running =>
    exact fun hgo => (execEngineReset_go hr hg hv).trans (congrArg _ (writeErst_running hgo))
  case replay =>
    rintro _ hgo rfl
    exact ⟨fun hc => (execGoldenReplay_go hr hg hv).trans (congrArg _ (writeGr_noVectors hgo hv hc)),
      fun hc => ⟨_, (execGoldenReplay_go hr hg hv).trans (congrArg _ (writeGr_begins hgo hv hc)), rfl, getF_goldenBegun _⟩⟩
  case done =>
    intro hgo hm hc hq
    obtain ⟨hcache, hfills, hsteps, hsearches, hbooks, hissues, hegress, hrows, hrecipe, hslots⟩ := erstEnded_contents s
    obtain ⟨ecache, efills, esteps, esearches, ebooks, eissues, eegress⟩ := resetContents_work s
    refine ⟨erstEnded s, execEngineResetDone_ends hgo hm hc hq, hcache.trans ecache, hfills.trans efills, hsteps.trans esteps,
      hsearches.trans esearches, hbooks.trans ebooks, hissues.trans eissues, hegress.trans eegress, getF_erstEnded_go s, fun hu => ?_, fun hu => ?_⟩
    · obtain ⟨krows, krecipe⟩ := resetContents_keeps hu
      exact ⟨hrows.trans krows, hrecipe.trans krecipe⟩
    · obtain ⟨urows, urecipe, uslots, uprofile⟩ := resetContents_unloads hu
      exact ⟨hrows.trans urows, hrecipe.trans urecipe, hslots.trans uslots, (getF_erstEnded_profile s).trans uprofile⟩
  case vector =>
    intro hlt data fail
    obtain ⟨hnone, hsome⟩ := execGoldenVector_left (data := data) (fail := fail) hgold hi hlt
    refine ⟨fun hs => ⟨fun hbad => hnone ?_, fun hf hm => hsome _ ?_⟩, ?_⟩
    · rw [nextVector_host hs]
      rcases hbad with rfl | hm
      · rfl
      · rw [hm, Bool.not_false, Bool.or_true, if_pos rfl]
    · rw [nextVector_host hs, hf, hm]
      rfl
    · rintro hs _ rfl
      exact ⟨fun hv => hnone ((nextVector_store hs).trans hv), fun v hv => hsome v ((nextVector_store hs).trans hv)⟩
  case compare =>
    rintro hle _ _ rfl rfl
    have hdone := execGoldenReplayDone_compares hgold hi hle
    refine ⟨fun hvec => hdone.trans (congrArg _ (if_pos (bne_iff_ne.mpr hvec))), fun hvec hres => ?_, fun hvec hres => ?_⟩
    · rw [hvec, bne_self_eq_false, if_neg Bool.false_ne_true] at hdone
      exact hdone.trans (congrArg _ (if_pos hres))
    · rw [hvec, bne_self_eq_false, if_neg Bool.false_ne_true] at hdone
      exact hdone.trans (congrArg _ (if_neg hres))

end Sys2Proof.Machine
end

section
/-!
The image: its header's checks in the order of R460, the check of what is loaded, and loading from the host and from flash
(R479, R480).
-/

namespace Sys2Proof.Machine

variable {s : State} {h b : BitVec 4096} {val : Nat}

/-! ## The header (R460, checks 1 to 4) -/

section Header

/-- The key of the header is one of the part's, and not revoked. -/
def keyGood (s : State) (h : BitVec 4096) : Bool :=
  !s.fuseRevoked.testBit (imgKeyIdx h) && sha384 (bytesBE 96 (imgKey h)) == s.part.keyDigest.getD (imgKeyIdx h) 0

/-- The header's signature holds under its key. -/
def sigGood (h : BitVec 4096) : Bool :=
  ecdsaVerify (imgKey h) (sha384 (bytesBE 0xA8 (getBE h 0 (8 * 0xA8)))) (imgSigR h) (imgSigS h)

/-- The checks of the header, the first that fails first. -/
theorem headerStatus_eq (s : State) (h : BitVec 4096) : headerStatus s h =
    if hdrWord h 0 ≠ 0x4C5A4431 ∨ hdrWord h 4 ≠ 1 then 1
    else if keyGood s h = false then 2
    else if sigGood h = false then 3
    else if imgSvn h < s.fuseSvn then 4
    else 0 := by
  have hkey : (s.fuseRevoked.testBit (imgKeyIdx h) || sha384 (bytesBE 96 (imgKey h)) != s.part.keyDigest.getD (imgKeyIdx h) 0) =
      !keyGood s h := by
    rw [keyGood, Bool.not_and, Bool.not_not, bne]
  have hsig : (!ecdsaVerify (imgKey h) (sha384 (bytesBE 0xA8 (getBE h 0 (8 * 0xA8)))) (imgSigR h) (imgSigS h)) = !sigGood h := rfl
  rw [headerStatus, hkey, hsig]
  simp only [Bool.or_eq_true, bne_iff_ne, Bool.not_eq_true']

theorem headerStatus_format (hf : hdrWord h 0 ≠ 0x4C5A4431 ∨ hdrWord h 4 ≠ 1) : headerStatus s h = 1 := by
  rw [headerStatus_eq, if_pos hf]

/-- With the format and the version right, the key, the signature and the security version decide. -/
theorem headerStatus_formatted (h0 : hdrWord h 0 = 0x4C5A4431) (h1 : hdrWord h 4 = 1) : headerStatus s h =
    if keyGood s h = false then 2 else if sigGood h = false then 3 else if imgSvn h < s.fuseSvn then 4 else 0 := by
  rw [headerStatus_eq, if_neg (by simp [h0, h1])]

end Header

/-! ## The check of a loaded image (R460) -/

section Check

variable {img : Image} {u : State}

theorem execImageCheck_loading (hl : s.loading ≠ 0) (hr : s.inReset = false) (hg : gone s 0 = false) : execImageCheck img s = .next (
    if headerStatus s img.header ≠ 0 then endLoad (imgStatus s img.header (headerStatus s img.header)) true
    else if sha384 (img.body.take (imgLength img.header)) ≠ imgDigest img.header then endLoad (imgStatus s img.header 5) true
    else if (checkContents s img.cont).1 = true then
      endLoad (startImage (finishLoad (imgStatus (checkContents s img.cont).2 img.header 0) img.cont) img.header) false
    else endLoad (raiseErr (imgStatus (checkContents s img.cont).2 img.header 6) 0 pgSec SEC_ERR.IMG_REJ
      (it1 (readWord (imgStatus (checkContents s img.cont).2 img.header 6) 0 pgSec 0 0x8C))) true) := by
  have hopen : (decide (s.loading = 0) || s.inReset || gone s 0) = false := by
    rw [hr, hg, decide_eq_false hl]
    rfl
  simp only [execImageCheck, hopen, Bool.false_eq_true, if_false, bne_iff_ne]

end Check

/-! ## Loading from the host and from flash (R479, R480) -/

section Load

theorem execImageLoadHost_live (hr : s.inReset = false) (hg : gone s 0 = false) :
    execImageLoadHost val s = .next (writeImgCmd s val) := by
  simp only [execImageLoadHost, hr, hg, Bool.not_false, Bool.and_self, if_true]

theorem writeImgCmd_refused (hv : val.testBit 31 = true) (hgo : isF s 0 PKG_IMG_CMD.GO = false)
    (hbad : hostLoadOk s = false ∨ s.loading ≠ 0) : writeImgCmd s val = setF s 0 PKG_IMG_CMD.STATE 4 := by
  have hrefuse : (!hostLoadOk s || s.loading != 0) = true := by simpa using hbad
  simp only [writeImgCmd, hv, hgo, hrefuse, Bool.not_true, Bool.or_self, Bool.false_eq_true, if_false, if_true]

/-- A load from host memory that begins: GO and STATE stand, and the header is read. -/
def hostLoadBegun (s : State) : State :=
  let u := setF (setF s 0 PKG_IMG_CMD.GO 1) 0 PKG_IMG_CMD.STATE 1
  emitOut { u with loading := 3 } (.hostRead (getF u 0 PKG_IMG_HI.ADDR * 2 ^ 32 + getF u 0 PKG_IMG_LO.ADDR / 4096 * 4096) none 512)

theorem writeImgCmd_begins (hv : val.testBit 31 = true) (hgo : isF s 0 PKG_IMG_CMD.GO = false) (hok : hostLoadOk s = true)
    (hl : s.loading = 0) : writeImgCmd s val = hostLoadBegun s := by
  simp only [writeImgCmd, hv, hgo, hok, hl, Bool.not_true, Bool.or_self, bne_self_eq_false, Bool.false_eq_true, if_false]
  rfl

theorem getF_hostLoadBegun (s : State) (f : Fld) :
    getF (hostLoadBegun s) 0 f = getF (setF (setF s 0 PKG_IMG_CMD.GO 1) 0 PKG_IMG_CMD.STATE 1) 0 f := rfl

theorem getF_hostLoadBegun_state (s : State) : getF (hostLoadBegun s) 0 PKG_IMG_CMD.STATE = 1 := by
  rw [getF_hostLoadBegun, getF_setF_self]
  rfl

theorem getF_hostLoadBegun_go (s : State) : getF (hostLoadBegun s) 0 PKG_IMG_CMD.GO = 1 := by
  rw [getF_hostLoadBegun, getF_setF_ne _ _ _ _ _ _ _ _ (by decide), getF_setF_self]
  rfl

theorem hostLoadBegun_out (s : State) : (hostLoadBegun s).out =
    s.out ++ [.hostRead (getF s 0 PKG_IMG_HI.ADDR * 2 ^ 32 + getF s 0 PKG_IMG_LO.ADDR / 4096 * 4096) none 512] := by
  rw [hostLoadBegun]
  iterate 4 rw [getF_setF_ne _ _ _ _ _ _ _ _ (by decide)]
  rfl

/-- What BAR4 and the load become once slot A's header has been recorded in `u`. -/
theorem execFlashBoot_boots (hr : s.inReset = false) (hg : gone s 0 = false) (hl : s.loading = 0) (hp : getF s 0 PAGE_CAP.PROFILE = 0)
    (hup : isF s 0 HIF_STS.LINK_UP = false) (hsrc : s.part.bootSrc % 2 ≠ 1) {u v : State}
    (hu : u = imgStatus s h (headerStatus s h)) (hv : v = imgStatus u b (headerStatus u b)) : execFlashBoot h b s = .next (
      if headerStatus u h = 0 then setF { u with loading := 1 } 0 HIF_STS.BAR4_LOG2 (bar4Of h)
      else if headerStatus v b = 0 then setF { v with loading := 2 } 0 HIF_STS.BAR4_LOG2 (bar4Of b)
      else setF v 0 HIF_STS.BAR4_LOG2 20) := by
  subst hu hv
  have hopen : (s.inReset || gone s 0 || s.loading != 0 || getF s 0 PAGE_CAP.PROFILE != 0 || isF s 0 HIF_STS.LINK_UP ||
      decide (s.part.bootSrc % 2 = 1)) = false := by
    rw [hr, hg, hl, hp, hup, decide_eq_false hsrc]
    rfl
  simp only [execFlashBoot, hopen, Bool.false_eq_true, if_false]

end Load

/-- Settles O57: the header's checks as a chain, then the digest and the contents; loading by its conditions. -/
theorem imageCheckedInOrder : Obligations.ImageCheckedInOrder := by
  intro s h kd sig hkd hsig
  obtain rfl : kd = keyGood s h := hkd
  obtain rfl : sig = sigGood h := hsig
  refine ⟨headerStatus_format, fun h0 h1 => ?header, ?check, fun hr hg => ⟨fun val hv hgo => ⟨?refused, ?begins⟩, ?flash⟩⟩
  case header =>
    have hs := headerStatus_formatted (s := s) h0 h1
    refine ⟨fun hk => hs.trans (if_pos hk), fun hk hsig => ?_, fun hk hsig hlt => ?_, fun hk hsig hle => ?_⟩
    · rw [hs, if_neg (ne_false_of_eq_true hk), if_pos hsig]
    · rw [hs, if_neg (ne_false_of_eq_true hk), if_neg (ne_false_of_eq_true hsig), if_pos hlt]
    · rw [hs, if_neg (ne_false_of_eq_true hk), if_neg (ne_false_of_eq_true hsig), if_neg (Nat.not_lt.mpr hle)]
  case check =>
    rintro img rfl hl hr hg
    have hc := execImageCheck_loading (img := img) hl hr hg
    refine ⟨fun hbad => hc.trans (congrArg _ (if_pos hbad)), fun hgood => ?_⟩
    rw [if_neg (not_not.mpr hgood)] at hc
    refine ⟨fun hdig => hc.trans (congrArg _ (if_pos hdig)), fun u hdig => ?_⟩
    rw [if_neg (not_not.mpr hdig)] at hc
    refine ⟨fun hcont => ?_, fun hcont => ?_⟩
    · rw [hcont] at hc
      exact hc.trans (congrArg _ (if_neg Bool.false_ne_true))
    · rw [hcont] at hc
      exact hc.trans (congrArg _ (if_pos rfl))
  case refused =>
    exact fun hbad => (execImageLoadHost_live hr hg).trans (congrArg _ (writeImgCmd_refused hv hgo hbad))
  case begins =>
    exact fun hok hl => ⟨_, (execImageLoadHost_live hr hg).trans (congrArg _ (writeImgCmd_begins hv hgo hok hl)), rfl,
      getF_hostLoadBegun_state s, getF_hostLoadBegun_go s, hostLoadBegun_out s⟩
  case flash =>
    intro b u v hl hp hup hsrc hu hv
    have hboot := execFlashBoot_boots hr hg hl hp hup hsrc hu hv
    refine ⟨fun ha => hboot.trans (congrArg _ (if_pos ha)), fun ha hb => ?_, fun ha hb => ?_⟩
    · rw [if_neg ha, if_pos hb] at hboot
      exact hboot
    · rw [if_neg ha, if_neg hb] at hboot
      exact hboot

end Sys2Proof.Machine
end

section
/-!
Leaving reset and what a reset keeps (R475, R476), a die's power loss, service release (R481), and the phases of
self-qualification (R482 to R485).
-/

namespace Sys2Proof.Machine

variable {s : State} {good casc boot smb d val : Nat}

/-! ## Leaving reset -/

section Release

theorem execResetRelease_all (hr : s.inReset = true) (hall : allDies s &&& good = allDies s) :
    execResetRelease good casc boot smb s = .next (leaveReset s good casc boot smb) := by
  simp only [execResetRelease, hr, hall, beq_self_eq_true, Bool.and_self, if_true]

theorem execResetRelease_missing (hsome : allDies s &&& good ≠ allDies s) : execResetRelease good casc boot smb s = .next s := by
  simp only [execResetRelease, beq_eq_false_iff_ne.mpr hsome, Bool.and_false, Bool.false_eq_true, if_false]

/-- At the time-out the package leaves reset without the missing dies, and each is an error. -/
theorem execDieResetTimeout_leaves (hr : s.inReset = true) (h0 : good.testBit 0 = true) (hsome : allDies s &&& good ≠ allDies s) :
    execDieResetTimeout good casc boot smb s = .next
      (((dies (leaveReset s good casc boot smb)).filter fun d => !good.testBit d).foldl
        (fun s d => raiseErr s 0 pgPkg PKG_ERR.DIE_DOWN (it1 d)) (leaveReset s good casc boot smb)) := by
  simp only [execDieResetTimeout, hr, h0, beq_eq_false_iff_ne.mpr hsome, Bool.not_true, Bool.or_self, Bool.false_eq_true, if_false]

/-- The clocks of a die that is up. -/
def clockStarted (khz : Nat) (s : State) (d : Nat) : State := setF (setF s d CLK_STS.PLL_RUN 1) d CLK_STS.REF_KHZ khz

/-- One word of the identity key's public part. -/
def identityWord (pub : Nat) (s : State) (i : Nat) : State := setF s 0 (SEC_ID_PUB.DATA i) (pub / 2 ^ (32 * (23 - i)))

theorem startClocks_rest (s : State) (up khz : Nat) : startClocks s up khz = { s with regs := (startClocks s up khz).regs } :=
  foldRegs (clockStarted khz) (fun _ _ => rfl) _ s

theorem showIdentity_rest (s : State) (pub : Nat) : showIdentity s pub = { s with regs := (showIdentity s pub).regs } :=
  foldRegs (identityWord pub) (fun _ _ => rfl) _ s

theorem getF_startClocks_dieUp (s : State) (up khz : Nat) : getF (startClocks s up khz) 0 PKG_BOOT.DIE_UP = getF s 0 PKG_BOOT.DIE_UP :=
  foldGetF (clockStarted khz) 0 PKG_BOOT.DIE_UP 0 (fun s d => by
    rw [clockStarted, getF_setF_ne _ _ _ _ _ _ _ _ (by decide), getF_setF_ne _ _ _ _ _ _ _ _ (by decide)]) _ s

theorem leaveReset_rest (s : State) (good casc boot smb : Nat) : ∃ r, leaveReset s good casc boot smb = { s with
    free := s.free + 1, inReset := false, cyc := 0, heldDies := allDies s - (allDies s &&& good), regs := r,
    part := { s.part with casc := casc % 4, bootSrc := boot % 4, smbAddr := smb % 8 },
    idKey := some (Config.identityKey s.part.dsn) } := by
  refine ⟨(leaveReset s good casc boot smb).regs, ?_⟩
  unfold leaveReset
  dsimp only
  rw [showIdentity_rest, startClocks_rest]
  rfl

/-- The words of the identity key stand apart from every word below them. -/
theorem getF_showIdentity {g : Fld} (hg : g.lo < 32) (hoff : g.off < 0x200) (pub : Nat) :
    getF (showIdentity s pub) 0 g = getF s 0 g :=
  (dataFold SEC_ID_PUB.DATA 0x200 (fun _ => ⟨rfl, rfl, rfl⟩) (by decide) (fun i => pub / 2 ^ (32 * (23 - i))) 24 (by decide) s).2.1 g 0
    ⟨by omega, hg⟩ (.inl hoff)

theorem getF_leaveReset_dieUp (s : State) (good casc boot smb : Nat) :
    getF (leaveReset s good casc boot smb) 0 PKG_BOOT.DIE_UP = (allDies s &&& good) % 2 ^ PKG_BOOT.DIE_UP.width := by
  rw [leaveReset, getF_showIdentity (by decide) (by decide), getF_startClocks_dieUp, getF_setF_self]

end Release

/-! ## Power loss and service release -/

section Loss

theorem execDiePowerGoodLoss_loses (hd : d < s.part.dieCnt) (hr : s.inReset = false) (hg : gone s d = false) :
    execDiePowerGoodLoss d s = .next (loseDie s d) := by
  simp only [execDiePowerGoodLoss, hd, hr, hg, Bool.not_false, and_self, if_true]

theorem execServiceRelease_releases (hr : s.inReset = false) (hg : gone s 0 = false) :
    execServiceRelease s = .next (setF s 0 PKG_BOOT.SVC 1) := by
  simp only [execServiceRelease, hr, hg, Bool.not_false, Bool.and_self, if_true]

end Loss

/-! ## Self-qualification -/

section SelfQualification

variable {ways ms n : Nat} {fault : Bool} {shelves : List (Nat × Nat × Nat × Nat)}

/-- A write with GO while no run is under way starts one when it is accepted, and shows REFUSED else. -/
theorem execBsqStart_go (hp : present s d pgBsq = true) (hh : s.heldDies.testBit d = false) (hr : s.inReset = false)
    (hv : val.testBit 31 = true) (hgo : isF s d BSQ_CTL.GO = false) : execBsqStart d val s = .next (
      if bsqAccepts (setF s d BSQ_CTL.REPAIR val) d then startBsq (setF s d BSQ_CTL.REPAIR val) d
      else setF (setF s d BSQ_CTL.REPAIR val) d BSQ_STS.REFUSED 1) := by
  have hgo' : isF (setF s d BSQ_CTL.REPAIR val) d BSQ_CTL.GO = false := by
    rw [isF, getF_setF_ne _ _ _ _ _ _ _ _ (by decide)]
    exact hgo
  simp only [execBsqStart, writeBsq, hp, hh, hr, hv, hgo', Bool.not_false, Bool.not_true, Bool.and_self, Bool.or_self,
    Bool.false_eq_true, if_false, if_true]

/-- The end of a phase, by its number. -/
theorem execBsqPhaseDone_runs (hb : isF s d BSQ_STS.BUSY = true) (hd : d < s.part.dieCnt) (hn : getF s d BSQ_STS.PHASE = n) :
    execBsqPhaseDone d ways fault shelves ms s = .next (
      if n = 6 then endBsq s d ms
      else if n = 1 then if fault then bsqCause (setF s d BSQ_STS.PHASE (n + 1)) d 7 0 0 0 else setF s d BSQ_STS.PHASE (n + 1)
      else if n = 2 then wayPhase (setF s d BSQ_STS.PHASE (n + 1)) d ways
      else if n = 3 then if fault then bsqCause (setF s d BSQ_STS.PHASE (n + 1)) d 5 0 0 0 else setF s d BSQ_STS.PHASE (n + 1)
      else if n = 4 then bankPhase (setF s d BSQ_STS.PHASE (n + 1)) d shelves
      else if fault then bsqCause (setF s d BSQ_STS.PHASE (n + 1)) d 6 0 0 0 else setF s d BSQ_STS.PHASE (n + 1)) := by
  have hopen : (!isF s d BSQ_STS.BUSY || decide (s.part.dieCnt ≤ d)) = false := by
    rw [hb, decide_eq_false (Nat.not_le.mpr hd)]
    rfl
  simp only [execBsqPhaseDone, hopen, hn, Bool.false_eq_true, if_false]

end SelfQualification

/-- Settles O56: leaving reset by the mask of good dies, self-qualification by its phase's number. -/
theorem resetsAndSelfQualification : Obligations.ResetsAndSelfQualification := by
  intro s
  refine ⟨fun hr good casc boot smb h0 => ⟨execResetRelease_all hr, ?missing, leaveReset_rest .., getF_leaveReset_dieUp ..⟩, ⟨_, rfl⟩,
    ?powerLoss, ?service, ?start, ?phase⟩
  case missing =>
    exact fun hsome => ⟨execResetRelease_missing hsome, execDieResetTimeout_leaves hr h0 hsome⟩
  case powerLoss =>
    refine fun d hd hr hg => ⟨_, execDiePowerGoodLoss_loses hd hr hg, ?_, rfl⟩
    rw [gone, gone_loseDie, Bool.true_or]
  case service =>
    refine fun hr hg => ⟨_, execServiceRelease_releases hr hg, onlyRegs_setF .., ?_⟩
    rw [isF, getF_setF_self]
    rfl
  case start =>
    rintro d val hp hh hr hv hgo _ rfl
    have hstart := execBsqStart_go hp hh hr hv hgo
    refine ⟨fun ha => hstart.trans (congrArg _ (if_pos ha)), fun ha => ?_⟩
    rw [ha, if_neg Bool.false_ne_true] at hstart
    exact hstart
  case phase =>
    rintro d ways fault shelves ms n _ hb hd hn rfl
    have hdone : exec (.bsqPhaseDone d ways fault shelves ms) s = _ := execBsqPhaseDone_runs hb hd hn
    refine ⟨fun hn6 => ?repairs, fun hn2 => ?ways, fun hn4 => ?banks, fun hn135 hf => ?passed, fun c hc hf => ?failed⟩
    case repairs => exact hdone.trans (congrArg _ (if_pos hn6))
    case ways =>
      subst hn2
      simpa only [Nat.reduceEqDiff, if_false, if_true] using hdone
    case banks =>
      subst hn4
      simpa only [Nat.reduceEqDiff, if_false, if_true] using hdone
    case passed =>
      subst hf
      rcases hn135 with rfl | rfl | rfl
      all_goals simpa only [Nat.reduceEqDiff, Bool.false_eq_true, if_false, if_true] using hdone
    case failed =>
      subst hf
      simp only [List.mem_cons, Prod.mk.injEq, List.not_mem_nil, or_false] at hc
      rcases hc with ⟨rfl, rfl⟩ | ⟨rfl, rfl⟩ | ⟨rfl, rfl⟩
      all_goals simpa only [Nat.reduceEqDiff, if_false, if_true] using hdone

end Sys2Proof.Machine
end
